-- ==== Sys2Proof/Word.lean ====
section
/-! DEFINITION. Word.lean: the word types of the SV6518, its index types, and the plain data that a
command carries as operands (spec/opcode_table.json names the commands; these are their operand shapes). -/

namespace Sys2Proof

/-- One byte; byte order in memory is little-endian (spec/00_scope.md R10). -/
abbrev Byte := BitVec 8
/-- A 32-bit register or stack word. -/
abbrev Word := BitVec 32
/-- A 64-bit harbour word (spec/14 R325). -/
abbrev DWord := BitVec 64
/-- One bit for each of the 256 PEs of an island, bit i for PE-in-island i (spec/01 Table 1.1). -/
abbrev PeVec := BitVec 256
/-- A 144-bit microword (spec/03 R65). -/
abbrev Micro := BitVec 144
/-- A 40-bit physical address (spec/01 R22). -/
abbrev PAddr := BitVec 40
/-- A mould address or a plane address. -/
abbrev A13 := BitVec 13

/-- Archipelago number, 0 to 7 (spec/01 R14). -/
abbrev Arch := Fin 8
/-- Control core number n of CC0 to CC3 (spec/10). (DESIGN CHOICE, log 38) -/
abbrev CoreId := Fin 4
/-- Physical island number P = a * 33 + slot (spec/01 R15). -/
abbrev Isl := Fin 264

/-- Sparse storage of a large array: (index, value) pairs with strictly rising indices and no entry
equal to the default the operations name (the canonical form is stated in Machine/Ops.lean). -/
abbrev SMap (α : Type) := List (Nat × α)

/-- The atomic operations of a packet header (spec/13 Table 13.3 OP, spec/14 R329). -/
inductive AtomOp where
  | add32 | add64 | addS18 | swap32 | swap64
deriving DecidableEq, Repr

/-- What one request asks of its target. -/
inductive ReqOp where
  | read (len : Nat)
  | write (data : List Byte)
  | atomic (op : AtomOp) (arg : BitVec 64)
deriving DecidableEq, Repr

/-- A non-posted request as it reaches its target: initiator number (spec/13 R313, R320), tag, privilege
of the issuing core (true for a core in user privilege), operation and 40-bit address. -/
structure Request where
  src  : Fin 32
  tag  : Byte
  user : Bool
  op   : ReqOp
  addr : PAddr
deriving DecidableEq, Repr

/-- Who performs a register access whose effect is a row of its own: initiator, tag and privilege. -/
structure Acc where
  src  : Fin 32
  tag  : Byte
  user : Bool
deriving DecidableEq, Repr

/-- The offset of `x` from `base`; 0 below it. -/
def offsetFrom (base x : Nat) : Nat := x - min base x

/-- The reduction results that have a latency of their own (spec/02 Table 2.8). -/
inductive RedResult where
  | orArch | cntArch | orDev | cntDev
deriving DecidableEq, Repr

/-- The RPT prefix of a string instruction (spec/11 Table 11.12); none: one element. -/
inductive RptPrefix where
  | none | always | eq | ne
deriving DecidableEq, Repr

/-- The operand fields of a vector instruction (spec/12 Table 12.3). -/
structure VArgs where
  ty  : BitVec 3
  men : Bool
  vs2 : BitVec 5
  vs1 : BitVec 5
  vd  : BitVec 5
deriving DecidableEq, Repr

/-- A router of the sound network (node) or of a lagoon (archipelago, router) (spec/13 R301, R304). -/
inductive RouterId where
  | sound (node : Fin 16)
  | lagoon (a : Arch) (r : Fin 36)
deriving DecidableEq, Repr

/-- JTAG instructions that take control of pins (spec/20 R464). -/
inductive JtagPin where
  | extest | clamp | highz | intest
deriving DecidableEq, Repr

/-- The delivery fields of a strait message: SEQ, ACK, returned edge-plane credits, NAK, and the CRC-32C of its end block
(spec/08 Table 8.6). -/
structure StraitHdr where
  seq : BitVec 16
  ack : BitVec 16
  credits : BitVec 7
  nak : Bool
  crc : Word
deriving DecidableEq, Repr

/-- The data fields of an HB message (spec/08 Table 8.7). -/
structure HbBody where
  f : BitVec 64
  us : Word
  mode : Byte
  win : BitVec 2
  degr : Bool
  running : Bool
  latbar : BitVec 16
  election : BitVec 64
deriving DecidableEq, Repr

/-- The data of a strait message by type (spec/08 Table 8.7); edge codes 0 north, 1 east, 2 south, 3 west as
seen by the receiver; members numbered LROW * 2 + LCOL. -/
inductive StraitBody where
  | edge (cycle : Word) (side : Fin 4) (plane : PeVec)
  | red (orv : Bool) (cnt : BitVec 19) (member : Fin 4) (hops : Byte)
  | assay (f : BitVec 64) (assay : List Byte)
  | hb (b : HbBody)
  | bar (seq : BitVec 16)
  | ack
deriving DecidableEq, Repr

end Sys2Proof
end

