-- ==== Sys2Proof/Image.lean ====
section
/-! DEFINITION. Image.lean: images as the Holm's loaders read them, and what reaches the Holm from outside: a Vevis packet
and the conditions a boot meets (spec/16 R383, R384, spec/17 R395 to R397, spec/20 R455). -/

namespace Sys2Proof

/-- A beat of the internal stream port: the words whose valid bit is set (spec/15 Table 15.3). -/
structure Beat where
  w0 : Option Word
  w1 : Option Word
deriving DecidableEq, Repr

/-! ### What the frames of a bitstream configure (spec/15 R348 to R353) -/

/-- A source that a routing multiplexer or a cell's output selects: a cell's input, a macrocell's output, the segment `seg` (function
blocks 4 seg to 4 seg + 3) of a routing track, or a line of a hard block. -/
inductive FabSrc where
  | cell (c : Fin 224)
  | mcell (m : Fin 1024)
  | wire (track : Nat) (seg : Fin 16)
  | hard (k : Nat)
deriving DecidableEq, Repr

/-- A routing wire: the sources its select field selects, and the GCK of the register at the segment's end (R352, R353). -/
structure FabWire where
  sel : List FabSrc
  reg : Option (Fin 8)
deriving DecidableEq, Repr

/-- A macrocell (R349, R350): its terms, the input that feeds the flip-flop of one without terms, polarity, bypass, type T, clock and
edge, and the terms that drive clock enable, set and reset. -/
structure Mcell where
  terms : List (Fin 80)
  direct : Fin 54
  pol : Bool
  bypass : Bool
  toggle : Bool
  clk : Fin 8
  falling : Bool
  ce : Option (Fin 80)
  set : Option (Fin 80)
  rst : Option (Fin 80)
deriving DecidableEq, Repr

/-- The source of GCK0 to GCK6 (R351): a PLL output, an oscillator, or cell 0 or 1 of a bank. -/
inductive GckSrc where
  | fck (k : Fin 4)
  | osc (k : Fin 4)
  | cell (bank : Fin 8) (second : Bool)
deriving DecidableEq, Repr

/-- The settings of a shore cell (R354, R355): Schmitt input, drive, weak pull, serialiser, delay line (in the output path) with its first
tap, sigma-delta capture or period counter with its clock and edge, and the glitch filter. -/
structure CellCfg where
  schmitt : Bool
  drive : BitVec 2
  pull : BitVec 2
  serdes : Bool
  delayOut : Bool
  tap : BitVec 5
  sigma : Bool
  period : Bool
  clk : Fin 8
  falling : Bool
  filter : BitVec 4
deriving DecidableEq, Repr

/-- A receive acceptance filter of a CAN FD engine: identifier bits, those that count, IDE. -/
structure CanFilter where
  id : BitVec 29
  mask : BitVec 29
  ide : Bool
deriving DecidableEq, Repr

/-- The settings of a serial engine (R361, Table 15.5). -/
inductive EngineCfg where
  | off
  | uart (baud : Nat) (bits : BitVec 4) (parity : BitVec 2) (stop2 : Bool) (turnaround : Option (BitVec 4))
  | spi (target : Bool) (mode : BitVec 2) (bits : BitVec 6) (rate : Nat)
  | i2c (target : Bool) (speed : BitVec 2) (addr : BitVec 10) (ten : Bool)
  | can (nominal data : Nat) (filters : List CanFilter)
deriving DecidableEq, Repr

/-- SESTAT.MODE of the settings (Table 15.10). -/
def EngineCfg.mode : EngineCfg → BitVec 3
  | .off => 0 | .uart .. => 1 | .spi false .. => 2 | .spi true .. => 3 | .i2c false .. => 4 | .i2c true .. => 5 | .can .. => 6

/-- The configured logic: wires (16 × track + segment), the track that feeds input j of function block k (54 k + j; track + 1, 0 none),
product terms (80 k + t; input and complement), macrocells, the source each cell drives out, what drives each line into a hard block, and
the clocks. -/
structure Netlist where
  wires : SMap FabWire
  inputs : SMap Nat
  terms : SMap (List (Fin 54 × Bool))
  mcells : SMap Mcell
  outs : SMap (Option FabSrc)
  lines : SMap (Option FabSrc)
  gck : Vector GckSrc 7
deriving DecidableEq, Repr

/-- What a bitstream brings (Tables 15.6, 15.7): the 1,024 bytes of header, presets and hard-block settings as they stand, and what they
say: presets, engines, cells, bank levels, stream-port enable, release control, PLL outputs (kHz), oscillators (MHz); the frames with the
logic they spell; the CRC-32C field; and whether the reserved bytes are zero, whose places the spec does not give. (DESIGN CHOICE, log 105) -/
structure Bitstream where
  raw : List Byte
  presets : Vector (BitVec 16) 224
  engines : Vector EngineCfg 8
  cells : SMap CellCfg
  frames : SMap (BitVec 1008)
  levels : Byte
  portEn : Bool
  relcnt : Byte
  relpol : Bool
  fck : Vector Nat 4
  osc : Vector Byte 4
  init : BitVec 1024
  net : Netlist
  crc : Word
  formatOk : Bool
deriving DecidableEq, Repr

/-- A write of an object: class, index, offset, data (spec/17 R408). -/
structure TxnWrite where
  cls : BitVec 16
  idx : BitVec 16
  off : Nat
  data : List Byte
deriving DecidableEq, Repr

/-- Bodies of images as their loaders read them (spec/16 Table 16.9). A configuration image holds the object writes it
applies, the code of the mode it names, SYS.LATPOS and the partition of each archipelago. -/
inductive ImageBody where
  | uzoug
  | mould (words : List (A13 × Micro)) (entries : List A13)
  | core (sram : List Host.Cell) (slots : Vector Word 16) (ustore : SMap (BitVec 96))
  | bitstream (b : Bitstream)
  | config (writes : List TxnWrite) (mode : Nat) (latpos : BitVec 5) (parts : Vector (BitVec 3) 8)
  | keys (ks : List (List Byte))
  | other
deriving DecidableEq, Repr

/-- An image: the fields of its manifest (Table 16.8: magic, format, TYPE, TARGET, version, counter index and value, key slot, flags,
body length, ENTOFF, ENTCNT, the 30 and the 128 bytes that are zero, the body digest), its signature, the bytes that fill the trailer, the
bytes of its body, and what these spell to the loader of its type: the spec gives no layout for the body of a mould, of core firmware, of a
configuration. (DESIGN CHOICE, log 76) -/
structure Image where
  magic : Word
  format : BitVec 16
  typ : BitVec 16
  target : Word
  version : BitVec 64
  ctrIdx : Byte
  ctrVal : Byte
  keySlot : Byte
  flags : Byte
  bodyLen : Word
  entOff : Word
  entCnt : BitVec 16
  zero1 : List Byte
  bodyDigest : List Byte
  zero2 : List Byte
  sig : List Byte
  tail : List Byte
  bytes : List Byte
  body : ImageBody
deriving DecidableEq, Repr

/-- The far end of a transport: the lane (none: the service UART), address and UDP port (spec/17 R393). -/
structure Peer where
  lane : Option (Fin 16)
  addr : List Byte
  port : BitVec 16
deriving DecidableEq, Repr

/-- A Vevis request packet: its sender, the UDP port it is sent to, the header fields of Table 17.1 in their order, the payload as it is
sent, the tag, and what the body of an image that this packet completes spells to its loader (spec/17 R405). (DESIGN CHOICE, log 76) -/
structure VPacket where
  peer : Peer
  dstPort : BitVec 16
  magic : BitVec 16
  version : Byte
  flags : Byte
  op : BitVec 16
  status : BitVec 16
  sess : Word
  seq : Word
  len : Word
  txn : Word
  frag : BitVec 16
  ctr : BitVec 48
  payload : List Byte
  tag : BitVec 256
  body : Option ImageBody
deriving DecidableEq, Repr

/-- The lane a packet came in on. -/
def VPacket.lane (p : VPacket) : Option (Fin 16) := p.peer.lane

/-- What a boot meets from outside: the outcome of the boot ROM's self-check, the straps sampled at RESET_N rising, the
sensed levels of the shore banks, whether the fabric PLL locks, and whether the flash can be read. -/
structure BootInput where
  romOk : Bool
  straps : BitVec 7
  levels : Byte
  pllOk : Bool
  flashOk : Bool
deriving DecidableEq, Repr

end Sys2Proof
end

