-- ==== Sys2Proof/Syntax.lean ====
section
/-! DEFINITION. Syntax.lean: the commands of the SV6518, one constructor per row of spec/opcode_table.json, in the
table's order. Each docstring gives the row's rule and summary. Operands name the unit a command acts on and
carry what reaches the block from outside with it. -/

namespace Sys2Proof

/-- The commands of the block (spec/opcode_table.json). -/
inductive Instr where
  /-- R66: A sequencer issues one microword in a pour cycle: interlock check, address formation, broadcast, condition evaluation, then end-of-cycle BAOP, LCOP and SPC actions and next-address selection. -/
  | microwordIssue (a : Arch)
  /-- R52: A global OR or count result becomes usable after its latency and releases any microword stalled on it. -/
  | reductionResult (a : Arch) (which : RedResult)
  /-- R71: A record arrives at an empty pour queue of a parked sequencer, whose first microword issues 2 pc later. -/
  | dispatchWaitEnd (a : Arch)
  /-- R72: The condition of a parked WAIT (ladle bank full or pour queue empty) becomes true and the sequencer continues at PC + 1. -/
  | waitRelease (a : Arch)
  /-- R212: The archipelago's frame barrier is reached and a sequencer parked at framebar issues it. -/
  | framebarRelease (a : Arch)
  /-- R119: Every lattice member has reached the latbar of the same sequence number and the parked stream issues it. -/
  | latbarRelease (a : Arch)
  /-- R108: A due trigger is taken at a permitted boundary: the state of Table 4.2 is saved into a slot and the preamble runs. -/
  | microTrap (a : Arch)
  /-- R121: A trap routine runs longer than TRAPCFG.WDOG and the sequencer takes a trap fault. -/
  | trapWatchdogExpiry (a : Arch)
  /-- R86: Every 64 pc the scrubber reads one mould word, writes back a corrected single-bit error or records an uncorrectable word and notifies the Holm. -/
  | mouldScrub (a : Arch)
  /-- R86: Uzoug rewrites an uncorrectable mould word from verified boot flash at the next dispatch point. -/
  | mouldWordRewrite (a : Arch)
  /-- R89: A committed pattern replacement is written at a dispatch point while the dispatch waits, and the dispatch then proceeds with the new content. -/
  | patternReplacement (a : Arch)
  /-- R154: The twin-compare network detects a DATA, MWORD, FLOW or VALUE mismatch, sets TWSTAT.PEND, records TWFAULT, raises interrupt 1 and notifies the Holm. -/
  | twinCompareMismatch (pair : Fin 4)
  /-- R56: An island finishes its 8,192 pc of zero writes after power returns and becomes ready to accept microwords and view accesses. -/
  | islandReady (P : Isl)
  /-- R93: A write changing SEQCTL.HALT requests an external halt as a micro-trap trigger, or releases a halted sequencer. -/
  | seqctlHalt (acc : Acc) (a : Arch) (halt : Bool)
  /-- R112: In SERVICE, a write of STEP while halted runs the restore, one microword and a fresh preamble. -/
  | seqctlStep (acc : Acc) (a : Arch)
  /-- R91: Writing CLRFAULT clears SEQFAULT, discards the current record and trap slots and resumes at dispatch. -/
  | seqctlClrfault (acc : Acc) (a : Arch)
  /-- R145: Writing FLUSH to a stream lead discards every queued record with DISCARDED. -/
  | pqctlFlush (acc : Acc) (a : Arch)
  /-- R63: In SERVICE, INJ arms a one-shot single- or double-bit check-bit injection on the next write to the named plane and cluster. -/
  | ictrlInj (acc : Acc) (P : Isl) (plane : BitVec 13) (cl : BitVec 4) (dbl : Bool)
  /-- R63: Writing CECLR clears the island's corrected-error count. -/
  | ictrlCeclr (acc : Acc) (P : Isl)
  /-- R100: Writing CECLR clears the mould corrected-word count. -/
  | mcecntCeclr (acc : Acc) (a : Arch)
  /-- R30: A write to a register without behaviour of its own sets RW fields, clears W1C bits or writes RWC fields before the first commit, subject to the block's access checks. -/
  | registerWrite (acc : Acc) (addr : PAddr) (value : Word)
  /-- R160: A read of a timing-dependent source sets CST.TNT of the reading core. -/
  | taintSourceRead (acc : Acc) (addr : PAddr)
  /-- R224: A read of STSLO or RTSLO returns the low count, latches the high word and taints the reader. -/
  | timestampLowRead (acc : Acc) (riser : Bool)
  /-- R322: A read of a per-initiator BYTELO returns the low byte count and latches BYTEHI. -/
  | byteloRead (acc : Acc) (k : Fin 32)
  /-- R322: Writing CLR zeroes every statistics counter of one initiator, including its lagoon counters. -/
  | soundStatClr (acc : Acc) (k : Fin 32)
  /-- R130: The pour port forwards a record from a core's outbound buffer into its lead queue when the queue has room. -/
  | pourForward (n : CoreId)
  /-- R244: An enabled interrupt is recognised at an instruction boundary, the core stacks its frame and jumps to the vector. -/
  | interruptEntry (n : CoreId)
  /-- R244: The core timer reaches TMR cycles and latches interrupt 31. -/
  | coreTimerExpiry (n : CoreId)
  /-- R239: A reservation station runs its parked instruction once every operand has filled. -/
  | stationExecute (n : CoreId) (st : Fin 4)
  /-- R238: A response or completion for a tag arrives and fills its pending slot, poisoned if its status is not OK. -/
  | farResponse (n : CoreId) (tag : BitVec 6)
  /-- R249: An asynchronous core translation walk returns and fills the TLB or yields a translation fault. -/
  | tableWalkComplete (n : CoreId)
  /-- R313: An initiator's timer passes TOUT.LIMIT and it synthesises a TIMEOUT response, sets NETERR and raises interrupt 17. -/
  | requestTimeout (src : Fin 32) (tag : BitVec 8)
  /-- R313: Four LIMIT periods pass after a synthesised TIMEOUT and the tag may be reused. -/
  | tagQuarantineExpiry (src : Fin 32) (tag : BitVec 8)
  /-- R258: Does nothing for 1 cc. -/
  | nop (n : CoreId)
  /-- R258: Duplicates the top word or pending slot. -/
  | dup (n : CoreId)
  /-- R258: Pops the top word. -/
  | drop (n : CoreId)
  /-- R258: Exchanges the two top words. -/
  | swap (n : CoreId)
  /-- R258: Pushes a copy of the second word. -/
  | over (n : CoreId)
  /-- R258: Rotates the third word to the top. -/
  | rot (n : CoreId)
  /-- R258: Pushes a copy of word k below the top. -/
  | pick (n : CoreId) (k : Byte)
  /-- R258: Pops v and writes it into word k. -/
  | put (n : CoreId) (k : Byte)
  /-- R258: Pushes the operand-stack depth. -/
  | depth (n : CoreId)
  /-- R259: Stores the live operand stack and its depth to a local save area, interruptibly. -/
  | savestk (n : CoreId) (brk : Option Nat)
  /-- R259: Loads an operand stack from a local save area, interruptibly. -/
  | loadstk (n : CoreId) (brk : Option Nat)
  /-- R259: Pushes a sign-extended 8-bit literal. -/
  | lit8 (n : CoreId) (imm : Byte)
  /-- R259: Pushes a zero-extended 16-bit literal. -/
  | lit16 (n : CoreId) (imm : BitVec 16)
  /-- R259: Pushes a 32-bit literal. -/
  | lit32 (n : CoreId) (imm : Word)
  /-- R259: Replaces the upper half of the top word with a 16-bit literal. -/
  | lithi (n : CoreId) (imm : BitVec 16)
  /-- R260: Pushes a + b modulo 2^32. -/
  | add (n : CoreId)
  /-- R260: Pushes a - b modulo 2^32. -/
  | sub (n : CoreId)
  /-- R260: Adds with carry in and pushes sum and carry out. -/
  | adc (n : CoreId)
  /-- R260: Subtracts with borrow in and pushes difference and borrow out. -/
  | sbc (n : CoreId)
  /-- R260: Pushes the low 32 bits of a product. -/
  | mul (n : CoreId)
  /-- R260: Pushes the exact unsigned 64-bit product. -/
  | mulwu (n : CoreId)
  /-- R260: Pushes the exact signed 64-bit product. -/
  | mulws (n : CoreId)
  /-- R260: Pushes the unsigned quotient. -/
  | divu (n : CoreId)
  /-- R260: Pushes the signed quotient truncated toward zero. -/
  | divs (n : CoreId)
  /-- R260: Pushes the unsigned remainder. -/
  | remu (n : CoreId)
  /-- R260: Pushes the signed remainder with the sign of a. -/
  | rems (n : CoreId)
  /-- R260: Pushes the bitwise AND. -/
  | and (n : CoreId)
  /-- R260: Pushes the bitwise OR. -/
  | or (n : CoreId)
  /-- R260: Pushes the bitwise XOR. -/
  | xor (n : CoreId)
  /-- R260: Pushes the bitwise complement. -/
  | not (n : CoreId)
  /-- R260: Pushes the two's complement negation. -/
  | neg (n : CoreId)
  /-- R260: Shifts left by an unsigned count. -/
  | shl (n : CoreId)
  /-- R260: Shifts right logically. -/
  | shr (n : CoreId)
  /-- R260: Shifts right arithmetically. -/
  | sar (n : CoreId)
  /-- R260: Rotates left by the count modulo 32. -/
  | rol (n : CoreId)
  /-- R260: Pushes the count of leading zeros. -/
  | clz (n : CoreId)
  /-- R260: Pushes the count of set bits. -/
  | popc (n : CoreId)
  /-- R262: Extracts a bit field, optionally sign-extended. -/
  | bfx (n : CoreId)
  /-- R262: Inserts a bit field into a word. -/
  | bfi (n : CoreId)
  /-- R263: Builds a word from selected, constant or sign-filled bytes. -/
  | bperm (n : CoreId)
  /-- R260: Pushes the signed minimum. -/
  | min (n : CoreId)
  /-- R260: Pushes the signed maximum. -/
  | max (n : CoreId)
  /-- R260: Sign-extends from bit 7. -/
  | sext8 (n : CoreId)
  /-- R260: Sign-extends from bit 15. -/
  | sext16 (n : CoreId)
  /-- R260: Sign-extends from bit 17. -/
  | sext18 (n : CoreId)
  /-- R260: Clamps a signed word to the 18-bit range. -/
  | sat18 (n : CoreId)
  /-- R264: Pushes a frame register, CNT, SRC, DST, LK or SP. -/
  | rdr (n : CoreId) (c : Byte)
  /-- R264: Pops a value into a frame register, CNT, SRC, DST, LK or SP. -/
  | wrr (n : CoreId) (c : Byte)
  /-- R264: Pushes a CSR, tainting for CYCLO and CYCHI. -/
  | csrr (n : CoreId) (c : Byte)
  /-- R264: Writes a CSR, with the mode shadow for CST, CCFG, PTBR and DTBL. -/
  | csrw (n : CoreId) (c : Byte)
  /-- R265: Loads a sign-extended byte from local SRAM. -/
  | ldb (n : CoreId)
  /-- R265: Loads a zero-extended byte from local SRAM. -/
  | ldbu (n : CoreId)
  /-- R265: Loads a sign-extended half-word from local SRAM. -/
  | ldh (n : CoreId)
  /-- R265: Loads a zero-extended half-word from local SRAM. -/
  | ldhu (n : CoreId)
  /-- R265: Loads a word from local SRAM. -/
  | ldw (n : CoreId)
  /-- R265: Stores a byte to local SRAM, parking if data is pending. -/
  | stb (n : CoreId)
  /-- R265: Stores a half-word to local SRAM. -/
  | sth (n : CoreId)
  /-- R265: Stores a word to local SRAM. -/
  | stw (n : CoreId)
  /-- R266: Branches when a = b. -/
  | beq (n : CoreId) (rel : BitVec 16)
  /-- R266: Branches when a differs from b. -/
  | bne (n : CoreId) (rel : BitVec 16)
  /-- R266: Branches when a < b signed. -/
  | blt (n : CoreId) (rel : BitVec 16)
  /-- R266: Branches when a >= b signed. -/
  | bge (n : CoreId) (rel : BitVec 16)
  /-- R266: Branches when a < b unsigned. -/
  | bltu (n : CoreId) (rel : BitVec 16)
  /-- R266: Branches when a >= b unsigned. -/
  | bgeu (n : CoreId) (rel : BitVec 16)
  /-- R266: Branches when a = 0. -/
  | beqz (n : CoreId) (rel : BitVec 16)
  /-- R266: Branches when a is nonzero. -/
  | bnez (n : CoreId) (rel : BitVec 16)
  /-- R266: Branches always. -/
  | bra (n : CoreId) (rel : BitVec 16)
  /-- R266: Jumps to the popped address. -/
  | jmp (n : CoreId)
  /-- R267: Sets LK and jumps to a relative target. -/
  | calll (n : CoreId) (rel : BitVec 16)
  /-- R268: Builds a frame with LK, mask and named registers and jumps. -/
  | call (n : CoreId) (mask : Byte) (rel : BitVec 24)
  /-- R267: Sets LK and jumps to the popped address. -/
  | calli (n : CoreId)
  /-- R267: Returns to LK. -/
  | retl (n : CoreId)
  /-- R268: Returns through a CALL frame, reloading the named registers and LK. -/
  | ret (n : CoreId)
  /-- R245: Reloads the six stacked words and returns from an interrupt or exception, raising FRAME on a depth mismatch. -/
  | reti (n : CoreId)
  /-- R269: Raises exception TRAP with EVAL = imm8. -/
  | trap (n : CoreId) (imm : Byte)
  /-- R270: Copies bytes from SRC to DST, repeated under RPT. -/
  | scpyb (n : CoreId) (pfx : RptPrefix) (brk : Option Nat)
  /-- R270: Copies words from SRC to DST, repeated under RPT. -/
  | scpyw (n : CoreId) (pfx : RptPrefix) (brk : Option Nat)
  /-- R270: Fills bytes at DST with a value. -/
  | sfilb (n : CoreId) (pfx : RptPrefix) (brk : Option Nat)
  /-- R270: Fills words at DST with a value. -/
  | sfilw (n : CoreId) (pfx : RptPrefix) (brk : Option Nat)
  /-- R270: Compares bytes at SRC and DST and pushes the result. -/
  | scmpb (n : CoreId) (pfx : RptPrefix) (brk : Option Nat)
  /-- R270: Compares words at SRC and DST and pushes the result. -/
  | scmpw (n : CoreId) (pfx : RptPrefix) (brk : Option Nat)
  /-- R270: Compares bytes at DST with a value and pushes the result. -/
  | sfndb (n : CoreId) (pfx : RptPrefix) (brk : Option Nat)
  /-- R270: Compares words at DST with a value and pushes the result. -/
  | sfndw (n : CoreId) (pfx : RptPrefix) (brk : Option Nat)
  /-- R257: An undefined or disabled opcode or encoding raises ILLEGAL with no effect. -/
  | illegalInstruction (n : CoreId) (units : List (BitVec 16))
  /-- R273: Issues a pour record from local SRAM to the pour port and pushes a pending slot for its completion. -/
  | pour (n : CoreId)
  /-- R273: Waits until the top slot has filled and releases its tag. -/
  | tagwait (n : CoreId)
  /-- R273: Waits until every tag is answered and every station is empty, then reports failed stores with REMOTE. -/
  | fence (n : CoreId)
  /-- R273: Issues a far byte load, sign-extended on fill. -/
  | fldb (n : CoreId)
  /-- R273: Issues a far byte load, zero-extended. -/
  | fldbu (n : CoreId)
  /-- R273: Issues a far half-word load, sign-extended. -/
  | fldh (n : CoreId)
  /-- R273: Issues a far half-word load, zero-extended. -/
  | fldhu (n : CoreId)
  /-- R273: Issues a far word load. -/
  | fldw (n : CoreId)
  /-- R273: Issues a far byte store. -/
  | fstb (n : CoreId)
  /-- R273: Issues a far half-word store. -/
  | fsth (n : CoreId)
  /-- R273: Issues a far word store. -/
  | fstw (n : CoreId)
  /-- R273: Issues a harbour AADD32 and pushes a slot for the old value. -/
  | faadd32 (n : CoreId)
  /-- R273: Issues a harbour AADDS18 and pushes a slot for the old value. -/
  | faadds18 (n : CoreId)
  /-- R273: Issues a harbour ASWAP32 and pushes a slot for the old value. -/
  | faswap32 (n : CoreId)
  /-- R274: Invalidates all TLB entries. -/
  | tlbinv (n : CoreId)
  /-- R274: Invalidates TLB entries for the page holding an address. -/
  | tlbinva (n : CoreId)
  /-- R274: Idles the core until an enabled interrupt is requested. -/
  | wfi (n : CoreId)
  /-- R278: A CXs slot runs its loaded body non-interruptibly on a working copy and commits at the end, restarting after a TLB-miss walk. -/
  | customerInstruction (n : CoreId) (slot : Fin 16) (imm : Byte)
  /-- R287: Sets VL to the minimum of n and the operand capacity and pushes it. -/
  | vsetvl (n : CoreId) (v : VArgs)
  /-- R286: Waits until every earlier vector instruction has completed; a reporting point for vector faults. -/
  | vsync (n : CoreId)
  /-- R298: Re-executes the faulting instruction from VSTART and the held VFQ entries, then clears the fault record. -/
  | vresume (n : CoreId)
  /-- R300: Saves the whole vector state to a 656-byte local area. -/
  | vsave (n : CoreId) (brk : Option Nat)
  /-- R300: Loads the whole vector state from a 656-byte local area. -/
  | vload (n : CoreId) (brk : Option Nat)
  /-- R287: Pushes element i of a vector register. -/
  | vmvxs (n : CoreId) (v : VArgs)
  /-- R287: Writes a scalar into element i of a vector register. -/
  | vmvsx (n : CoreId) (v : VArgs)
  /-- R287: Pushes mask register VMk. -/
  | vmrd (n : CoreId) (v : VArgs)
  /-- R287: Writes mask register VMk. -/
  | vmwr (n : CoreId) (v : VArgs)
  /-- R287: ANDs two mask registers. -/
  | vmand (n : CoreId) (v : VArgs)
  /-- R287: ORs two mask registers. -/
  | vmor (n : CoreId) (v : VArgs)
  /-- R287: XORs two mask registers. -/
  | vmxor (n : CoreId) (v : VArgs)
  /-- R287: Complements a mask register. -/
  | vmnot (n : CoreId) (v : VArgs)
  /-- R287: Copies a vector operand. -/
  | vmv (n : CoreId) (v : VArgs)
  /-- R288: Elementwise integer add. -/
  | vadd (n : CoreId) (v : VArgs)
  /-- R288: Elementwise integer subtract. -/
  | vsub (n : CoreId) (v : VArgs)
  /-- R288: Elementwise saturating add. -/
  | vadds (n : CoreId) (v : VArgs)
  /-- R288: Elementwise saturating subtract. -/
  | vsubs (n : CoreId) (v : VArgs)
  /-- R288: Elementwise integer multiply. -/
  | vmul (n : CoreId) (v : VArgs)
  /-- R288: Elementwise signed minimum. -/
  | vmin (n : CoreId) (v : VArgs)
  /-- R288: Elementwise signed maximum. -/
  | vmax (n : CoreId) (v : VArgs)
  /-- R288: Elementwise unsigned minimum. -/
  | vminu (n : CoreId) (v : VArgs)
  /-- R288: Elementwise unsigned maximum. -/
  | vmaxu (n : CoreId) (v : VArgs)
  /-- R288: Elementwise AND. -/
  | vand (n : CoreId) (v : VArgs)
  /-- R288: Elementwise OR. -/
  | vor (n : CoreId) (v : VArgs)
  /-- R288: Elementwise XOR. -/
  | vxor (n : CoreId) (v : VArgs)
  /-- R288: Elementwise shift left. -/
  | vshl (n : CoreId) (v : VArgs)
  /-- R288: Elementwise logical shift right. -/
  | vshr (n : CoreId) (v : VArgs)
  /-- R288: Elementwise arithmetic shift right. -/
  | vsar (n : CoreId) (v : VArgs)
  /-- R288: Elementwise negate. -/
  | vneg (n : CoreId) (v : VArgs)
  /-- R288: Elementwise absolute value. -/
  | vabs (n : CoreId) (v : VArgs)
  /-- R287: Adds a scalar to every element. -/
  | vaddX (n : CoreId) (v : VArgs)
  /-- R287: Subtracts a scalar from every element. -/
  | vsubX (n : CoreId) (v : VArgs)
  /-- R287: Saturating add of a scalar. -/
  | vaddsX (n : CoreId) (v : VArgs)
  /-- R287: Saturating subtract of a scalar. -/
  | vsubsX (n : CoreId) (v : VArgs)
  /-- R287: Multiplies every element by a scalar. -/
  | vmulX (n : CoreId) (v : VArgs)
  /-- R287: Signed minimum with a scalar. -/
  | vminX (n : CoreId) (v : VArgs)
  /-- R287: Signed maximum with a scalar. -/
  | vmaxX (n : CoreId) (v : VArgs)
  /-- R287: Unsigned minimum with a scalar. -/
  | vminuX (n : CoreId) (v : VArgs)
  /-- R287: Unsigned maximum with a scalar. -/
  | vmaxuX (n : CoreId) (v : VArgs)
  /-- R287: AND with a scalar. -/
  | vandX (n : CoreId) (v : VArgs)
  /-- R287: OR with a scalar. -/
  | vorX (n : CoreId) (v : VArgs)
  /-- R287: XOR with a scalar. -/
  | vxorX (n : CoreId) (v : VArgs)
  /-- R287: Shift left by a scalar count. -/
  | vshlX (n : CoreId) (v : VArgs)
  /-- R287: Logical shift right by a scalar count. -/
  | vshrX (n : CoreId) (v : VArgs)
  /-- R287: Arithmetic shift right by a scalar count. -/
  | vsarX (n : CoreId) (v : VArgs)
  /-- R287: Integer compare equal into VMk. -/
  | vcmpeq (n : CoreId) (v : VArgs)
  /-- R287: Integer compare not equal into VMk. -/
  | vcmpne (n : CoreId) (v : VArgs)
  /-- R287: Signed compare less than into VMk. -/
  | vcmplt (n : CoreId) (v : VArgs)
  /-- R287: Unsigned compare less than into VMk. -/
  | vcmpltu (n : CoreId) (v : VArgs)
  /-- R287: Signed compare less or equal into VMk. -/
  | vcmple (n : CoreId) (v : VArgs)
  /-- R287: Unsigned compare less or equal into VMk. -/
  | vcmpleu (n : CoreId) (v : VArgs)
  /-- R287: Signed compare greater than into VMk. -/
  | vcmpgt (n : CoreId) (v : VArgs)
  /-- R287: Unsigned compare greater than into VMk. -/
  | vcmpgtu (n : CoreId) (v : VArgs)
  /-- R292: Floating compare equal into VMk. -/
  | vfcmpeq (n : CoreId) (v : VArgs)
  /-- R292: Floating compare less than into VMk. -/
  | vfcmplt (n : CoreId) (v : VArgs)
  /-- R292: Floating compare less or equal into VMk. -/
  | vfcmple (n : CoreId) (v : VArgs)
  /-- R292: Floating compare unordered into VMk. -/
  | vfcmpun (n : CoreId) (v : VArgs)
  /-- R289: Widening exact multiply into a 2g destination. -/
  | vwmul (n : CoreId) (v : VArgs)
  /-- R289: Four-way i8 dot product accumulated into i32. -/
  | vdot4 (n : CoreId) (v : VArgs)
  /-- R289: Two-way i16 dot product accumulated into i64. -/
  | vdot2 (n : CoreId) (v : VArgs)
  /-- R289: Two-way s18 dot product accumulated into i64. -/
  | vdots18 (n : CoreId) (v : VArgs)
  /-- R291: Floating add. -/
  | vfadd (n : CoreId) (v : VArgs)
  /-- R291: Floating subtract. -/
  | vfsub (n : CoreId) (v : VArgs)
  /-- R291: Floating multiply. -/
  | vfmul (n : CoreId) (v : VArgs)
  /-- R291: Fused multiply-add with a single rounding. -/
  | vfma (n : CoreId) (v : VArgs)
  /-- R291: Floating divide. -/
  | vfdiv (n : CoreId) (v : VArgs)
  /-- R291: Floating square root. -/
  | vfsqrt (n : CoreId) (v : VArgs)
  /-- R292: Floating minimum. -/
  | vfmin (n : CoreId) (v : VArgs)
  /-- R292: Floating maximum. -/
  | vfmax (n : CoreId) (v : VArgs)
  /-- R291: Floating negate. -/
  | vfneg (n : CoreId) (v : VArgs)
  /-- R291: Floating absolute value. -/
  | vfabs (n : CoreId) (v : VArgs)
  /-- R291: Converts s18 to f32. -/
  | vcvtF32S18 (n : CoreId) (v : VArgs)
  /-- R291: Converts f32 to s18, saturating with NV. -/
  | vcvtS18F32 (n : CoreId) (v : VArgs)
  /-- R291: Converts f32 to f16. -/
  | vcvtF16F32 (n : CoreId) (v : VArgs)
  /-- R291: Converts f16 to f32. -/
  | vcvtF32F16 (n : CoreId) (v : VArgs)
  /-- R291: Converts i32 to f32. -/
  | vcvtF32I32 (n : CoreId) (v : VArgs)
  /-- R291: Converts f32 to i32, saturating with NV. -/
  | vcvtI32F32 (n : CoreId) (v : VArgs)
  /-- R287: Integer sum reduction into element 0. -/
  | vredsum (n : CoreId) (v : VArgs)
  /-- R287: Signed minimum reduction. -/
  | vredmin (n : CoreId) (v : VArgs)
  /-- R287: Signed maximum reduction. -/
  | vredmax (n : CoreId) (v : VArgs)
  /-- R287: Unsigned minimum reduction. -/
  | vredminu (n : CoreId) (v : VArgs)
  /-- R287: Unsigned maximum reduction. -/
  | vredmaxu (n : CoreId) (v : VArgs)
  /-- R287: Ordered floating sum reduction. -/
  | vfredsum (n : CoreId) (v : VArgs)
  /-- R287: Floating minimum reduction. -/
  | vfredmin (n : CoreId) (v : VArgs)
  /-- R287: Floating maximum reduction. -/
  | vfredmax (n : CoreId) (v : VArgs)
  /-- R290: Unit-stride vector load from local SRAM. -/
  | vld (n : CoreId) (v : VArgs)
  /-- R290: Unit-stride vector store to local SRAM. -/
  | vst (n : CoreId) (v : VArgs)
  /-- R290: Strided vector load. -/
  | vlds (n : CoreId) (v : VArgs)
  /-- R290: Strided vector store. -/
  | vsts (n : CoreId) (v : VArgs)
  /-- R290: Indexed vector load. -/
  | vldx (n : CoreId) (v : VArgs)
  /-- R290: Indexed vector store. -/
  | vstx (n : CoreId) (v : VArgs)
  /-- R290: Loads interleaved fields into k operands. -/
  | vdeal (n : CoreId) (v : VArgs) (k : BitVec 5)
  /-- R290: Stores k operands in interleaved order. -/
  | vweave (n : CoreId) (v : VArgs) (k : BitVec 5)
  /-- R284: The vector unit takes the next queued instruction and executes it in its documented count. -/
  | vectorExecute (n : CoreId)
  /-- R252: Writing RST resets core n, wipes its local SRAM, stations and tags, and leaves it halted. -/
  | cctlRst (acc : Acc) (n : CoreId)
  /-- R252: In SERVICE, writing STEP while halted runs exactly one instruction. -/
  | cctlStep (acc : Acc) (n : CoreId)
  /-- R252: Writing HALT halts the core at the next boundary after FENCE, or releases it. -/
  | cctlHalt (acc : Acc) (n : CoreId) (halt : Bool)
  /-- R255: Writing RING raises interrupt 30 at core n. -/
  | cdbellRing (acc : Acc) (n : CoreId)
  /-- R305: A packet header reaches a router, is checked and routed by its epoch's table, or discarded on a header error. -/
  | routerHeaderArrival (at' : RouterId) (hdr : BitVec 128) (payload : List Byte) (poisoned : Bool)
  /-- R309: A header waiting 256 nc in one router increments its AGE. -/
  | packetAgeTick (at' : RouterId) (slot : Nat)
  /-- R316: Every router has confirmed its new table and the routing epoch increments. -/
  | routingEpochBarrier
  /-- R316: The last old-epoch packet is ejected, routers discard the old table and EPOCH.DRAINED is set. -/
  | epochDrainComplete
  /-- R317: Once outstanding requests are answered and credits returned, the fenced domain's power is removed. -/
  | domainPowerOff (d : Nat)
  /-- R26: A PE-view access arrives at its island's ladle and waits for an access slot. -/
  | peViewRequest (req : Request)
  /-- R323: A view access waits longer than LVWTO.LIMIT for its first slot and the gateway answers TIMEOUT. -/
  | gatewayViewTimeout (a : Arch) (src : Fin 32) (tag : BitVec 8)
  /-- R30: A register access arrives at its block's node and is served or answered DECERR, SLVERR, DENIED or DOMAIN_OFF. -/
  | registerBlockAccess (req : Request)
  /-- R23: A far access to a core SRAM global window is served through the shared port. -/
  | sramAliasAccess (req : Request)
  /-- R378: A core access to the mailbox window is served or refused by area, privilege and shape. -/
  | mailboxWindowAccess (req : Request)
  /-- R327: A network request reaches a harbour bank on port A and is served or refused by shape. -/
  | harbourPortARequest (req : Request) (portB : Option (Fin 16))
  /-- R329: The atomic engine reads and writes a word over 2 nc and returns the old value. -/
  | harbourAtomic (req : Request)
  /-- R331: Every PACE the bank's test engine copies, March-tests and restores one region. -/
  | harbourTestRegion (b : Fin 16) (badRow : Option Nat)
  /-- R345: Writing COLCLR clears the bank's collision count. -/
  | bctlColclr (acc : Acc) (b : Fin 16)
  /-- R345: Writing CECLR clears the bank's corrected-read count. -/
  | bctlCeclr (acc : Acc) (b : Fin 16)
  /-- R338: Writing DRHEAD posts descriptors and lets an enabled channel fetch from DRTAIL. -/
  | drheadWrite (acc : Acc) (c : Fin 16) (v : Word)
  /-- R343: Writing EN enables a channel, or stops it after its beats complete with STATUS STOPPED. -/
  | dctlEn (acc : Acc) (c : Fin 16) (en : Bool)
  /-- R342: In FAULTED, RESUME re-reads the descriptor and continues from OFFSET. -/
  | dctlResume (acc : Acc) (c : Fin 16)
  /-- R342: In FAULTED or STOPPED, SKIP advances DRTAIL and goes on with the next descriptor. -/
  | dctlSkip (acc : Acc) (c : Fin 16)
  /-- R340: A channel reads the descriptor at DRTAIL, checks it and issues its beats. -/
  | dmaDescriptorStart (c : Fin 16)
  /-- R341: A DMA beat is answered and the channel issues further beats or completes the descriptor. -/
  | dmaBeatResponse (c : Fin 16)
  /-- R337: Writing XINV invalidates XLAT TLB entries of a context or page. -/
  | xinv (acc : Acc) (v : Word)
  /-- R336: An XLAT table walk for DMA, sprue or riser returns a translation or a fault. -/
  | xlatWalkComplete
  /-- R193: A SYSREF edge aligns the LEMC of every JESD204C link. -/
  | sysrefEdge (misaligned : Byte)
  /-- R210: A JESD204C link aligns and its streams restart at the first marker. -/
  | linkAligned (link : Fin 8)
  /-- R193: A receive link releases an extended multiblock of samples to the sprue, CRC-12 checked. -/
  | jesdMultiblockRx (link : Fin 8) (crcOk : Bool) (frames : List (List Word))
  /-- R213: A lane loses block lock or alignment and every stream on it voids its frame. -/
  | laneLinkLoss (l : Fin 16)
  /-- R356: The fabric presents a stream-port beat of one or two words on a channel. -/
  | streamPortBeat (ch : Fin 128) (beat : Beat)
  /-- R357: A trigger line rises and the next word of every channel is marked. -/
  | triggerRise (k : Fin 8)
  /-- R208: A stream fill is written into a freed ladle bank, or into harbour for a harbour destination. -/
  | ladleFill (entry : BitVec 12)
  /-- R216: Writing RESUME resumes a paused stream after a page fault. -/
  | sctlResume (acc : Acc) (id : BitVec 16)
  /-- R205: Writing INVAL drops the cached copy of a disabled stream entry. -/
  | sctlInval (acc : Acc) (id : BitVec 16)
  /-- R222: A completed out-bank word group drains from a ladle to the riser. -/
  | riserOutbankDrain (a : Arch)
  /-- R220: A filled replay half starts playing at the next SYSREF-aligned extended multiblock boundary. -/
  | replayHalfSwitch (link : Fin 4)
  /-- R195: A 10GBASE-R frame is received and answered for ARP, ICMP or neighbour discovery, or dropped and counted. -/
  | ethFrameRx (l : Fin 16) (frame : List Byte) (fcsOk : Bool)
  /-- R198: An EDGE strait message delivers a neighbour's edge plane for a lattice-fill microword. -/
  | edge (lane : Bool) (h : StraitHdr) (cycle : Word) (side : Fin 4) (plane : PeVec)
  /-- R199: A RED strait message delivers a member's reduction result, relayed once onto the other link. -/
  | red (lane : Bool) (h : StraitHdr) (orv : Bool) (cnt : BitVec 19) (member : Fin 4) (hops : Byte)
  /-- R168: An ASSAY strait message delivers a partner assay, compared with this device's assay of the same frame. -/
  | assay (lane : Bool) (h : StraitHdr) (f : BitVec 64) (assay : List Byte)
  /-- R200: An HB strait message delivers the partner's frame, mode and window state and brings a link up. -/
  | hb (lane : Bool) (h : StraitHdr) (b : HbBody)
  /-- R119: A BAR strait message reports a member reaching a latbar sequence number. -/
  | bar (lane : Bool) (h : StraitHdr) (seq : BitVec 16)
  /-- R197: An ACK strait message returns acknowledgements and edge-plane credits. -/
  | ack (lane : Bool) (h : StraitHdr)
  /-- R197: A NAK or CRC mismatch makes the sender replay every message after the acknowledged SEQ. -/
  | straitReplay (lane : Bool)
  /-- R200: Every 100 µs each device sends HB on every configured strait link. -/
  | hbSend (usToBoundary : Nat)
  /-- R201: No valid HB for 300 µs, or lost block lock, takes a link down, clears LSTAT.UP and raises interrupt 17. -/
  | straitLinkDown (lane : Bool)
  /-- R164: The Holm frame timer marks a vital frame boundary, judging the ended frame and opening or keeping the window. -/
  | frameBoundary
  /-- R382: VCORE claims the current frame; the Holm clears its CST.TNT and loads VCTRL. -/
  | frameClaim (n : CoreId) (seq : Word) (f : BitVec 64)
  /-- R166: VCORE reports the frame done with the watchdog answer, accepted only within the window, untainted and correct. -/
  | frameDone (n : CoreId) (seq : Word) (f : BitVec 64) (ans : Word) (us : Nat)
  /-- R381: A core posts an event code to the Holm's event journal. -/
  | eventPost (n : CoreId) (seq : Word) (code : BitVec 16) (data : List Byte)
  /-- R382: A core requests SAFE STOP with a reason code. -/
  | safeStopReq (n : CoreId) (seq : Word) (reason : BitVec 16)
  /-- R380: A core writes 1 to RPLCTL.VALID to release a mailbox reply. -/
  | rplctlValidClear (acc : Acc) (n : CoreId)
  /-- R382: A core writes 1 to FRMCTL.NEW, clearing the flag and withdrawing interrupt 3. -/
  | frmctlNewClear (acc : Acc) (n : CoreId)
  /-- R170: After a twin fault, vital sequencer fault, SAFE STOP or leaving GUARD, the Holm moves the window out of OPEN and raises interrupt 0. -/
  | windowLeaveOpen (cause : BitVec 4)
  /-- R175: A DYN output begins a new square-wave period at the frequency of its half-slot, or goes low once the window has left OPEN. -/
  | dynPeriod (k : Fin 8) (t : Nat)
  /-- R179: A rising edge on a DYNMON input closes a measured period, which is classified and checked against the expected pattern. -/
  | dynmonEdge (k : Fin 8) (t : Nat)
  /-- R179: A monitored input stays static for more than two periods while alternation is expected and a mismatch is recorded. -/
  | dynmonStaticTimeout (k : Fin 8)
  /-- R430: HOLDOK stays 0 for 100 ms in GUARD and the Holm enters SAFE STOP. -/
  | holdokTimeout
  /-- R419: Every 100 µs Tj is sampled and the pour clock steps between 500 and 400 MHz, or SAFE STOP is entered at 128 °C. -/
  | thermalSample (tj : BitVec 16)
  /-- R450: At most once per 1 ms the Holm sends a new VDD_CORE target over AVSBus. -/
  | avsStep (target : Nat)
  /-- R365: A timed step of the fabric load completes and the next starts, or the load is refused with an LERR code. -/
  | fabricLoadStepDone (ok : Bool)
  /-- R366: On the RELCNT-th FREF edge after the request, GSR is released and pins switch to function. -/
  | fabricRelease
  /-- R368: The scrubber reads one configuration frame, correcting single-bit errors or sending the fabric to its safe state. -/
  | fabricScrub (crcOk : Bool) (recent : Bool)
  /-- R355: A rising edge on a period-mode cell latches the 24-bit period count with a strobe into the fabric. -/
  | periodCountEdge (cell : Nat) (ticks : Nat)
  /-- R354: A sigma-delta capture cell completes a packed 32-bit word. -/
  | sigmaDeltaWord (cell : Nat) (w : Word)
  /-- R361: A serial engine receives data or an error and sets its SHIRQ bit. -/
  | serialEngineRx (e : Fin 8) (data : Option Word)
  /-- R373: A write to SEDATA pushes the transmit FIFO or sets OVR when full. -/
  | sedataWrite (acc : Acc) (e : Fin 8) (v : Word)
  /-- R373: A read of SEDATA pops the receive FIFO. -/
  | sedataRead (acc : Acc) (e : Fin 8)
  /-- R358: Fabric logic issues a harbour or SHORE register access through the control port. -/
  | controlPortAccess (req : Request)
  /-- R372: The armed capture edge or trigger arrives and every shadow freezes, setting SHIRQ.CAPDONE. -/
  | captureTrigger (snap : List Byte)
  /-- R373: CMD 0b01 reads 4 bytes of the user area into NVDATA. -/
  | nvctlRead (acc : Acc) (addr : BitVec 16)
  /-- R373: CMD 0b10 programs 4 bytes from NVDATA. -/
  | nvctlProgram (acc : Acc) (addr : BitVec 16)
  /-- R373: CMD 0b11 erases a 4 KiB user sector. -/
  | nvctlErase (acc : Acc) (addr : BitVec 16)
  /-- R360: A fabric-flash command completes, clearing BUSY and setting ERR on failed verification. -/
  | nvCommandDone (ok : Bool)
  /-- R371: RESET_N goes low: DYN drivers and shore pins go to high impedance and the device is reset. -/
  | resetNLow
  /-- R387: From RESET_N rising or an internal reset, the Holm self-checks, wipes, loads and verifies images, restores the keep store and releases the cores. -/
  | bootSequence (inp : BootInput)
  /-- R427: PFAIL_N falls or a droop is detected: the hold regulator takes over, outputs go low and domains are isolated. -/
  | ebb
  /-- R428: The vital snapshot slot is written and sealed, an APPLYING journal entry is marked UNDO and the EBB event recorded. -/
  | snapshotSealed
  /-- R427: The ebb completes and the Holm idles in EBB. -/
  | ebbComplete
  /-- R429: PFAIL_N high and rails good for 10 ms start an internal reset into BOOT. -/
  | ebbRecovery
  /-- R429: HOLD falls below 3.0 V and the device goes to OFF. -/
  | holdCollapse
  /-- R424: The Skerry alarm expires in DORMANT and the wake begins. -/
  | skerryAlarm
  /-- R424: A rising edge on SH000 with a pull-down preset wakes the device from DORMANT. -/
  | sh000WakeEdge
  /-- R424: The DORMANT wake sequence completes and the device reads SENTINEL. -/
  | wakeComplete
  /-- R422: A mode transition finishes its powering and regrouping and the new grouping is in force. -/
  | modeTransitionComplete
  /-- R451: The 32.768 kHz crystal starts and the Skerry RC trim comes within ±500 ppm. -/
  | crystalStart
  /-- R436: A tide step begins: the reserve island is switched on and cleared. -/
  | tideStepStart (a : Arch)
  /-- R438: The tide copy reaches plane 8191 and the reserve is equal to its target. -/
  | tideShadowComplete (a : Arch)
  /-- R439: At the first permitted boundary registers are copied, ISLMAP changes and GEN increments. -/
  | tideSwap (a : Arch)
  /-- R441: The released island's BIST and March test end; it becomes the reserve or is mapped out. -/
  | tideTestComplete (a : Arch) (pass : Bool)
  /-- R444: Every CORESEC seconds Uzoug runs the vendor self-test on the next core. -/
  | coreSelftestTimer
  /-- R414: A core's 12 ms self-test ends, CSTAT.STEST is set and the core resumes. -/
  | coreSelftestDone (n : CoreId) (pass : Bool)
  /-- R377: Every 1 s the boot ROM CRC is checked, requesting SAFE STOP on failure. -/
  | holmRomCheck (ok : Bool)
  /-- R444: Every 32 µs one Holm data SRAM word is scrubbed. -/
  | holmSramScrub
  /-- R394: More than 100 ms passes between two bytes of a service-UART frame and it is discarded. -/
  | uartFrameTimeout
  /-- R400: A HELLO key pair not followed by SESSION_OPEN within 10 s expires. -/
  | helloExpiry
  /-- R402: A session closes after 300 s without an accepted request. -/
  | sessionIdleExpiry (id : BitVec 32)
  /-- R407: A transaction not accepted 60 s after TXN_BEGIN is aborted. -/
  | txnExpiry
  /-- R411: An accepted commit reaches its commit point and the Holm journals and applies every object in class order. -/
  | commitPoint
  /-- R400: Starts a session handshake; the device replies with nonce, ML-KEM key and signature. -/
  | hello (pk : VPacket)
  /-- R400: Completes the handshake with ciphertext, operator certificate and signature, deriving session keys. -/
  | sessionOpen (pk : VPacket)
  /-- R402: Closes the session and destroys its keys. -/
  | sessionClose (pk : VPacket)
  /-- R403: Echoes the request bytes. -/
  | ping (pk : VPacket)
  /-- R390: Returns SYS.IDENT and the identity certificate. -/
  | getIdentity (pk : VPacket)
  /-- R390: Returns a signed attestation report over the caller's nonce. -/
  | attest (pk : VPacket)
  /-- R403: Returns the image measurement entries. -/
  | getMeasurements (pk : VPacket)
  /-- R403: Returns the life-cycle state, slot bits and boot count. -/
  | lcGet (pk : VPacket)
  /-- R391: A signed advance command verifies, records, wipes, burns the next LC bit and resets. -/
  | lcAdvance (pk : VPacket)
  /-- R386: A signed life-cycle command programs an owner key slot in PROVISION. -/
  | programKeySlot (pk : VPacket)
  /-- R386: A signed life-cycle command burns a slot's revoke bit. -/
  | revokeKeySlot (pk : VPacket)
  /-- R405: Stages an image chunk in inactive boot flash, verifying it on the last chunk. -/
  | imgStage (pk : VPacket)
  /-- R405: Marks a staged image active and advances its anti-rollback counter when RBADV = 1. -/
  | imgActivate (pk : VPacket)
  /-- R403: Returns the listed images. -/
  | imgList (pk : VPacket)
  /-- R407: Opens the device-wide transaction for this session. -/
  | txnBegin (pk : VPacket)
  /-- R408: Replaces bytes of a staged configuration object. -/
  | txnWrite (pk : VPacket)
  /-- R410: Validates the transaction as a whole, journals it and accepts it with a new epoch and commit point. -/
  | txnCommit (pk : VPacket)
  /-- R407: Aborts the open transaction. -/
  | txnAbort (pk : VPacket)
  /-- R403: Returns the transaction state. -/
  | txnStatus (pk : VPacket)
  /-- R403: Returns the mode, window state and epoch. -/
  | modeGet (pk : VPacket)
  /-- R422: Requests a mode transition, checked against Table 18.4, the life cycle and GUARD conditions. -/
  | modeSet (pk : VPacket)
  /-- R183: Confirms the restored snapshot digest so the window may reopen after the next clean frame. -/
  | vitalResume (pk : VPacket)
  /-- R423: Enters SAFE STOP: array halted, outputs low, streams and DMA stopped, records refused. -/
  | safeStop (pk : VPacket)
  /-- R403: Returns a stream-table entry. -/
  | streamGet (pk : VPacket)
  /-- R204: Enables a stream entry after the commit checks. -/
  | streamEnable (pk : VPacket)
  /-- R213: Disables a stream entry, voiding its frame and writing back before the reply. -/
  | streamDisable (pk : VPacket)
  /-- R414: Class 0 starts a core's vendor self-test. -/
  | selftestCore (pk : VPacket)
  /-- R414: Class 1 returns BSTAT and ISLRES images. -/
  | selftestHarbourTide (pk : VPacket)
  /-- R414: Class 2 starts a full recalibration of a lane whose role is off. -/
  | selftestLaneRecal (pk : VPacket)
  /-- R414: Class 3 starts the full offline test in SERVICE. -/
  | selftestOffline (pk : VPacket)
  /-- R446: TIDE_CTL command 0x00 returns TSTAT, ISLRES, TSTEPS and TCOVER. -/
  | tideStatus (pk : VPacket)
  /-- R446: TIDE_CTL command 0x01 suspends the tide of an archipelago. -/
  | tideSuspend (pk : VPacket)
  /-- R446: TIDE_CTL command 0x02 resumes the tide. -/
  | tideResume (pk : VPacket)
  /-- R446: TIDE_CTL command 0x03 starts the next tide step at once. -/
  | tideStepNow (pk : VPacket)
  /-- R403: Returns an initiator's network statistics without tainting. -/
  | statsRead (pk : VPacket)
  /-- R372: Arms a fabric snapshot on an edge count or trigger. -/
  | capture (pk : VPacket)
  /-- R372: Returns the 800-byte fabric snapshot. -/
  | captureRead (pk : VPacket)
  /-- R403: Returns event journal records. -/
  | eventRead (pk : VPacket)
  /-- R403: Reads memory through the Holm as aligned accesses. -/
  | memRead (pk : VPacket)
  /-- R403: Writes memory through the Holm as aligned accesses. -/
  | memWrite (pk : VPacket)
  /-- R403: Reads the keep store, except the wrapped-keys region. -/
  | keepRead (pk : VPacket)
  /-- R403: Returns VSTAT, DYNSTAT, link bits and the partner's last HB frame. -/
  | partnerStatus (pk : VPacket)
  /-- R403: Returns SYS.LATPOS, link bits and the latbar sequence. -/
  | latticeStatus (pk : VPacket)
  /-- R464: Loading EXTEST, CLAMP, HIGHZ or INTEST in GUARD or with the window not CLOSED first moves the device to SAFE STOP. -/
  | jtagPinControl (ir : JtagPin)
  /-- R430: HOLD crosses 4.5 V, so HOLDSTAT.HOLDOK changes, interrupt 2 is asserted or withdrawn, and the 100 ms GUARD timer starts or stops. -/
  | holdokChange (ok : Bool)
  /-- R173: During an ebb VDDIO_SYS collapses and the DYN drivers go to high impedance, the pull-downs holding the pins low. -/
  | vddioSysCollapse
  /-- R200: 200 µs after GUARD entry with PARTNER set and no HB reporting frames running, the device stops waiting to adopt a partner's frames and counts from frame 0. -/
  | guardEntryHbTimeout
  /-- R192: A 10GBASE-R lane gains block lock and its Ethernet link comes up, setting LSTAT.LOCK and LSTAT.UP. -/
  | ethernetLinkUp (l : Fin 16)
  /-- R414: A full lane recalibration started by SELFTEST class 2 ends and its result is recorded as an event. -/
  | laneRecalibrationDone (l : Fin 16) (ok : Bool)
  /-- R414: The full offline test started by SELFTEST class 3 ends and its result is recorded as an event. -/
  | offlineTestDone (ok : Bool)
deriving DecidableEq, Repr

end Sys2Proof
end

