-- ==== Sys2Proof/Decode.lean ====
section
/-! DEFINITION. Decode.lean: no row of spec/opcode_table.json gives a command any bits, so no word spells one. -/

namespace Sys2Proof

/-- The command that a word of `nbits` bits spells by the table's bits: none, since the table gives none. (DESIGN CHOICE, log 5) -/
def decodeTableWord (_nbits _w : Nat) : Option Instr := none

end Sys2Proof
end

