-- ==== Sys2Proof/Config.lean ====
section
/-! DEFINITION. Config.lean: what the spec leaves open, as constants without a body (free values). Nothing in Lean
can evaluate one; the log of notes/assumptions names each. -/

namespace Sys2Proof.Config

/-- A 32-bit value the spec does not state, one for each draw of the counter `fresh` of the state. (DESIGN CHOICE, log 1) -/
opaque freeWord : Nat → BitVec 32
/-- A 64-bit value the spec does not state. (DESIGN CHOICE, log 7) (DESIGN CHOICE, log 60) -/
opaque freeWord64 : Nat → BitVec 64
/-- A bit the spec does not state. -/
opaque freeBit : Nat → Bool
/-- Bytes the spec does not state: draw number and length. -/
opaque freeByte : Nat → Nat → BitVec 8
/-- The 64-bit cycle count of a core at its k-th read of CYCLO (spec/10 Table 10.4; time is not modelled). -/
opaque coreCycles : CoreId → Nat → BitVec 64
/-- The PUF root key K_puf that the PUF gives with helper data of OTP, byte k (spec/16 R376). (DESIGN CHOICE, log 97) -/
opaque pufByte : List (BitVec 8) → Nat → BitVec 8
/-- Byte k of the 64 that ML-KEM-1024 key generation takes from K_sess: the spec gives K_sess 256 bits and does not say how the pair
comes from it (spec/17 R400). (DESIGN CHOICE, log 97) -/
opaque kemSeed : List (BitVec 8) → Nat → BitVec 8
/-- The identity certificate in the boot flash (spec/16 R390). -/
opaque identityCert : List (BitVec 8)
/-- Event codes of the journal that the spec does not give, by the number of the event kind (spec/16 Table 16.12). -/
opaque eventCode : Nat → BitVec 16
/-- Skerry time and source of the event with a number (spec/16 Table 16.12). (DESIGN CHOICE, log 21) -/
opaque eventTime : Nat → BitVec 64
opaque eventSource : Nat → BitVec 16
/-- The keep-store header's record: generation, LC count, pending transition; the spec names the contents and no layout (spec/16 Table
16.12). (DESIGN CHOICE, log 96) -/
opaque keepHeader : BitVec 64 → BitVec 8 → Bool → List (BitVec 8)
/-- A commit journal entry's record: state code, epoch, new and old persistent record (boot slot, FAILSLOT of each archipelago); contents
without a layout as well (spec/17 R413). (DESIGN CHOICE, log 96) -/
opaque journalRecord : Nat → BitVec 64 → Bool → List (BitVec 6) → Bool → List (BitVec 6) → List (BitVec 8)
/-- The wrapped-keys record: generation and the ciphertexts by session ID (spec/16 Table 16.12). (DESIGN CHOICE, log 96) -/
opaque wrappedRecord : BitVec 64 → List (BitVec 32 × List (BitVec 8)) → List (BitVec 8)
/-- A plane of 256 bits the spec does not state: draw number and index. (DESIGN CHOICE, log 27) -/
opaque freePlane : Nat → Nat → BitVec 256
/-- Where within ±2 LSB of the exact values the Caenater ATAN2 gives angle and magnitude, by I and Q (spec/05 Table 5.9).
(DESIGN CHOICE, log 27) -/
opaque atanOff : Nat → Nat → Nat × Nat
/-- Which clock source of the fabric has its next edge, and of which polarity, by draw (spec/15 R351). (DESIGN CHOICE, log 98) -/
opaque freeTick : Nat → Nat
/-- Where a word of the trap preamble and restore stands in words 0x0000-0x003F of the vendor area (spec/05 Table 5.6): the
preamble of slot 0 is words 0 to 11, of slot 1 words 12 to 23, the restores follow. (DESIGN CHOICE, log 9) -/
opaque trapWord : Nat → Nat

end Sys2Proof.Config
end

