-- ==== Sys2Proof/Machine/State.lean ====
section
/-! DEFINITION. Machine/State.lean: the state of the SV6518 as plain data, unit by unit, the state after reset,
and the two closed lists of stops. Every field cites the rule of spec/ that names the item it holds. -/

namespace Sys2Proof.Machine

/-- Faults of a step. The model has none: a read of memory the spec does not give answers with a bus status,
never with a stop of the machine (safe: no constructor, so no step can raise one). -/
inductive Fault where
  /-- Raised by no meaning (safe); it keeps the list closed and non-empty. -/
  | unreachable
deriving DecidableEq, Repr

/-- Refusals of a step. -/
inductive Refusal where
  /-- Raised only by an arm of `exec` whose command has no meaning in the model yet (safe: the run stops). -/
  | notModelled (mnemonic : String)
deriving DecidableEq, Repr

/-- The modes of spec/18 Table 18.3 (R421). -/
inductive Mode where
  | off | ebb | dormant | boot | provision | configure | sentinel | survey | guard | split | service | safeStop
deriving DecidableEq, Repr

/-! ### Pour records, sequencers and moulds (spec/03, spec/04, spec/05, spec/06) -/

/-- A pour record with the core and tag its completion goes to (spec/05 R126, R133). -/
structure PourRec where
  bits : BitVec 128
  core : CoreId
  tag  : BitVec 6
deriving DecidableEq, Repr

/-- Reduction results at archipelago scope, at device or partition scope and at lattice scope, each with the
flag "not usable yet" of its latency (spec/02 R51 to R53). -/
structure RedSet where
  orA : Bool
  cntA : BitVec 14
  orD : Bool
  cntD : BitVec 17
  orL : Bool
  cntL : BitVec 19
  pendOrA : Bool
  pendCntA : Bool
  pendOrD : Bool
  pendCntD : Bool
deriving DecidableEq, Repr

/-- All reduction results zero and usable (spec/02 R53, spec/04 R109). -/
def RedSet.zero : RedSet :=
  { orA := false, cntA := 0, orD := false, cntD := 0, orL := false, cntL := 0,
    pendOrA := false, pendCntA := false, pendOrD := false, pendCntD := false }

/-- A Caenater routine that runs by its contract (spec/05 R139 to R143): the pour cycles to its last microword, and the steps taken
of what it does with other archipelagos or devices. -/
structure MacroRun where
  left : Nat
  stage : Nat
deriving DecidableEq, Repr

/-- The sequencer registers a trap slot saves (spec/03 Table 3.1, spec/04 Table 4.2): the micro-stack (head is
the top), LC0 to LC3, BA0 to BA3, UF0 to UF3 with the pending change of the mode shadow, the reduction
results, the current record, whether its completion is posted or its value has failed the twin compare (spec/05 R134), and where
it stands in a Caenater routine. -/
structure SeqCtx where
  stack : List A13
  lc : Vector (BitVec 16) 4
  ba : Vector A13 4
  uf : BitVec 4
  ufShadow : Option (BitVec 4)
  red : RedSet
  cur : Option PourRec
  posted : Bool
  failed : Bool
  mop : Option MacroRun
deriving DecidableEq, Repr

/-- Start values (spec/03 R64, spec/04 R109). -/
def SeqCtx.start : SeqCtx :=
  { stack := [], lc := Vector.replicate 4 0, ba := Vector.replicate 4 0, uf := 0, ufShadow := none,
    red := RedSet.zero, cur := none, posted := false, failed := false, mop := none }

/-- Causes of a trap slot (spec/04 Table 4.10 CAUSE0). -/
inductive TrapCause where
  | twinFault | halt | preempt
deriving DecidableEq, Repr

/-- A trap slot in use (spec/04 Table 4.2). `parityErr` is the stored 8-bit parity XOR the parity of the
contents; 0 when they agree. -/
structure TrapSlot where
  pc : A13
  waiting : Bool
  ctx : SeqCtx
  tnt : Bool
  cause : TrapCause
  parityErr : Byte
deriving DecidableEq, Repr

/-- What a sequencer is doing (spec/03 R94 SEQSTAT.STATE, spec/04 R107). `halted b`: halted, with b true when
a slot holds the halted routine and false when it halted in a dispatch wait. `twinRoutine`: the twin-fault
trap has been taken and the Caenater twin-fault routine is next. -/
inductive SeqMode where
  | noMould | running | stalled | dispatchWait | parkWait | barrier
  | halted (slotUsed : Bool) | twinRoutine | fault
deriving DecidableEq, Repr

/-- SEQFAULT (spec/03 R96). -/
structure SeqFaultReg where
  valid : Bool
  fpc : A13
  cause : BitVec 4
deriving DecidableEq, Repr

/-- RECFAULT (spec/05 R146). -/
structure RecFaultReg where
  valid : Bool
  sub : BitVec 4
  entry : A13
deriving DecidableEq, Repr

/-- PART (spec/04 R125), with `inStream`: the archipelago belongs to a stream of the current grouping (R117). -/
structure PartReg where
  inStream : Bool
  lat : Bool
  lock : Bool
  twin : Bool
  pid : BitVec 3
deriving DecidableEq, Repr

/-- A draining out bank: riser context, word group number, and the context's words RC0 to RC2 as the group was formed (spec/08
Table 8.10: formed words are delivered, whatever the context becomes). -/
structure Drain where
  ctx : Fin 16
  group : Nat
  rc0 : Word
  rc1 : Word
  rc2 : Word
deriving DecidableEq, Repr

/-- The riser ring of one archipelago (spec/08 R217, R218, R221, R222): position in the ring, planes taken by
the present group, groups taken in this turn, next group number of each context, the out bank now filling,
whether the present group has lost a plane, and what drains from out banks 0 and 1. -/
structure RiserRing where
  pos : Nat
  planes : Nat
  groups : Nat
  nextGroup : Vector Nat 16
  bank : Bool
  lossy : Bool
  drain0 : Option Drain
  drain1 : Option Drain
deriving DecidableEq, Repr

/-- A twin checkpoint (spec/06 R156): resume address, registers, the read position of the current bank of
every ladle of the pair (positions of the even, then of the odd twin) and the riser rings with the plane counts of R221; `pre`: a
pre-empting record in a trap slot's stead made it (R157). -/
structure Checkpoint where
  pc : A13
  stack : List A13
  lc : Vector (BitVec 16) 4
  ba : Vector A13 4
  uf : BitVec 4
  posted : Bool
  ladleRd : List (BitVec 5)
  riser : List RiserRing
  pre : Bool
deriving DecidableEq, Repr

/-- Twin-fault causes (spec/06 Table 6.9). -/
inductive TwinCause where
  | data | mword | flow | value
deriving DecidableEq, Repr

/-- A mismatch of the twin-compare network not yet detected (spec/06 Table 6.2 step 1). -/
structure Mismatch where
  cause : TwinCause
  row : BitVec 5
  col : BitVec 8
  pc : A13
deriving DecidableEq, Repr

/-- TWFAULT (spec/06 R171). -/
structure TwFaultReg where
  valid : Bool
  mis : Mismatch
deriving DecidableEq, Repr

/-- Twin registers of one archipelago (spec/06 R171) and the retry bookkeeping of R157: a bank swap since the checkpoint, the cause
that is pending, whether a fault has been recorded in this frame (R154), and the records that have left the sequencer with a value
that failed the compare, whose completions the reaction owes (spec/05 R134). -/
structure Twin where
  force : Bool
  react : Bool
  pend : Bool
  retried : Bool
  fault : TwFaultReg
  cnt : BitVec 16
  ck : Option Checkpoint
  swapped : Bool
  found : List Mismatch
  pendCause : Option TwinCause
  faulted : Bool
  owed : List PourRec
deriving DecidableEq, Repr

/-- A pattern replacement waiting for its dispatch point (spec/03 R89). -/
structure Replacement where
  first : A13
  words : List Micro
  entries : List A13
deriving DecidableEq, Repr

/-- A mould (spec/03 R84 to R90, R98 to R101). Unlisted words are zero. `delta` is the stored check field XOR
the computed one (R468); `verified` is the content of the verified image in boot flash (R86); `repl` the replacements that wait for
their dispatch point, oldest first (R89). -/
structure Mould where
  word : SMap Micro
  delta : SMap (BitVec 9)
  verified : SMap Micro
  entries : List A13
  loaded : Bool
  vlock : Bool
  plock : Bool
  sue : Bool
  ueValid : Bool
  ueWord : A13
  ceCnt : BitVec 16
  rdAddr : A13
  scrubPos : A13
  rewrite : List A13
  repl : List Replacement
deriving DecidableEq, Repr

/-- One sequencer (spec/03 Table 3.1 and its registers, spec/04 R121 to R125). `stepSlot`: STEP has asked for one microword,
after which the sequencer halts into that slot again (true: slot 1) (spec/04 R112). `held`: the next word has been fetched and is
held (spec/03 R82, R85). -/
structure Seq where
  pc : A13
  lastPc : A13
  lastNt : Bool
  ctx : SeqCtx
  tnt : Bool
  queue : List PourRec
  mode : SeqMode
  held : Bool
  haltReq : Bool
  stepSlot : Option Bool
  slot0 : Option TrapSlot
  slot1 : Option TrapSlot
  defer : BitVec 9
  defMax : BitVec 9
  tfSub : BitVec 4
  nxtLock : Bool
  seqFault : SeqFaultReg
  recFault : RecFaultReg
  preen : BitVec 4
  wdog : BitVec 16
  preent : Vector A13 4
  part : PartReg
  latSeq : BitVec 16
deriving DecidableEq, Repr

/-- Tide registers and bookkeeping of one archipelago (spec/19 R437 to R447); `byPrio`: the running step took a priority
target; `badCopy`: an uncorrectable word was met in the target while the reserve shadowed it (Table 19.2). -/
structure TideSt where
  susp : Bool
  phase : BitVec 3
  tslot : BitVec 6
  last : BitVec 4
  steps : Word
  cover : BitVec 16
  nextPos : BitVec 5
  priority : Option (BitVec 6)
  mapOutNow : Bool
  byPrio : Bool
  badCopy : Bool
  cycleSteps : Nat
deriving DecidableEq, Repr

/-- One archipelago: island map (spec/01 R16 to R18), sequencer, mould, twin registers, riser ring, tide. -/
structure ArchSt where
  islmap : Vector (BitVec 6) 32
  gen : Byte
  failSlot : BitVec 6
  consumed : Bool
  rslot : BitVec 6
  seq : Seq
  mould : Mould
  twin : Twin
  ring : RiserRing
  tide : TideSt
deriving DecidableEq, Repr

/-! ### Islands and ladles (spec/02, spec/08 R211) -/

/-- A ladle. Bank b holds word r of every PE as 32 planes (plane r is bit r of the 256 words); `written` marks
the words of the present fill already written, `fillNo` the number within its frame of the fill a bank holds
(spec/08 R208, R211, R212); `out0`, `out1` are the out banks (R222). -/
structure Ladle where
  bank0 : Vector PeVec 32
  bank1 : Vector PeVec 32
  written0 : PeVec
  written1 : PeVec
  fillNo0 : Nat
  fillNo1 : Nat
  cur : Bool
  rd : BitVec 5
  out0 : Vector PeVec 32
  out1 : Vector PeVec 32
deriving DecidableEq, Repr

/-- A PE-view access waiting at its island's ladle (spec/01 R26, spec/02 R54): the request, the slots already
served and the bits read so far, and whether a read met an uncorrectable word; `mute`: a write already answered TIMEOUT (R27). -/
structure ViewWait where
  req : Request
  served : Nat
  got : BitVec 64
  ue : Bool
  mute : Bool
deriving DecidableEq, Repr

/-- One physical island: the PE registers of Table 2.1 as one bit per PE, its cluster memories (unlisted planes
zero; `delta` is per plane the 16 six-bit fields stored XOR computed check bits; `junk0`, `junk1`, `junk2` number what Caenater left
in its scratch banks and in the planes of its twin-fault routine, which unlisted planes there hold, spec/05 R138), its ladle, the ISL[P]
registers (spec/02 R60 to R63), readiness (R56: powered and cleared), an uncorrectable error found but not yet told (R42; `tell` is back at false when
a step ends), and the waiting view accesses. -/
structure IslSt where
  c : PeVec
  x : PeVec
  y : PeVec
  k : PeVec
  n : PeVec
  t : PeVec
  mem : SMap PeVec
  delta : SMap (BitVec 96)
  junk0 : Option Nat
  junk1 : Option Nat
  junk2 : Option Nat
  ladle : Ladle
  role : BitVec 4
  ue : Bool
  ueValid : Bool
  uePlane : A13
  ueCluster : BitVec 4
  cecnt : BitVec 16
  injPlane : A13
  injCl : BitVec 4
  injD : Bool
  inj : Bool
  ready : Bool
  tell : Bool
  waiting : List ViewWait
deriving DecidableEq, Repr

/-! ### The vital frame and the DYN outputs (spec/06, spec/07) -/

/-- The vital parameters object (spec/06 Table 6.5); VRISER as its four bytes, 0xFF unused (spec/17 Table 17.6A). -/
structure VitalParams where
  frameMs : BitVec 16
  pairs : BitVec 4
  vcore : BitVec 2
  vlen : BitVec 16
  vwkey : Word
  vwmin : Word
  vwmax : Word
  vrBytes : List Byte
  vctrl : Word
  partner : BitVec 2
deriving DecidableEq, Repr

/-- The window states of spec/06 R169. -/
inductive Window where
  | closed | pending | opened
deriving DecidableEq, Repr

/-- One partner assay of the running frame: strait lane (false 14, true 15), frame number, 64 bytes. -/
structure PartnerAssay where
  lane : Bool
  f : BitVec 64
  assay : List Byte
deriving DecidableEq, Repr

/-- The vital frame state kept by the Holm (spec/06 R163 to R172); `nextF` is the number the next boundary
starts, `fepoch` the configuration epoch in force at the last one, `accepted` the frames since GUARD entry whose FRAME_DONE was
accepted, `vrLost` a word group of a VRISER context lost in the frame (spec/08 R222), `leftAt` when the window last left OPEN in
microseconds from the present boundary, `now` the latest time of the frame that a command has told (spec/07 R179). `leader` is the strait lane of the device this one follows, `bndUs` the
time to the boundary it gave, `slew` the microseconds by which the present frame is lengthened toward it (spec/08 R200). -/
structure Vital where
  par : VitalParams
  f : BitVec 64
  running : Bool
  challenge : Word
  claimed : Bool
  doneOk : Bool
  frameCause : Option (BitVec 4)
  twinFault : Bool
  seqFault : Bool
  assay : Option (List Byte)
  partnerRx : List PartnerAssay
  lastAssay : List Byte
  win : Window
  miss : Byte
  degr : Bool
  lcause : BitVec 4
  awaitResume : Bool
  reportedDigest : List Byte
  election : BitVec 64
  hbWait : Bool
  nextF : BitVec 64
  fepoch : BitVec 64
  leaveDue : Option (BitVec 4)
  accepted : List (BitVec 64)
  vrLost : Bool
  leftAt : Option Int
  now : Nat
  leader : Option Bool
  bndUs : Option Word
  slew : Int
deriving DecidableEq, Repr

/-- Level of an output pin. -/
inductive PinLevel where
  | low | high | hiZ
deriving DecidableEq, Repr

/-- A monitor measurement: time of the last rising edge in microseconds from the boundary of the present frame, the half-slot it
fell in (16: of an earlier frame), and the frequency the period it began must have, none for the first of a half-slot
(spec/07 R179). -/
structure Monitor where
  lastEdge : Option Int
  lastHalf : Nat
  expect : Option Bool
deriving DecidableEq, Repr

/-- The DYN configuration object, pins and monitors (spec/07 R173 to R189). `periodAt` is when the period in progress began, in
microseconds from the present boundary; the pin of an output that alternates is high for the first half of it. -/
structure Dyn where
  en : Byte
  monreact : Byte
  f0 : BitVec 16
  f1 : BitVec 16
  msrc : BitVec 16
  degrade1 : Bool
  pin : Vector PinLevel 8
  drv : Byte
  periodHalf : Vector (BitVec 16) 8
  periodAt : Vector (Option Int) 8
  keyAssay : List Byte
  mis : Byte
  misFrame : Byte
  misCnt : BitVec 16
  mon : Vector Monitor 8
deriving DecidableEq, Repr

/-! ### Lanes, strait links, sprue and riser (spec/08) -/

/-- LANE[l] (spec/08 R191, R192), with the time-free part of a link's health, a recalibration in progress
(spec/17 R414) and the Ethernet frames dropped (R195). -/
structure Lane where
  lcfg : Word
  errCnt : BitVec 16
  up : Bool
  sysrefOk : Bool
  aligned : Bool
  lock : Bool
  recal : Bool
  ethDrop : Word
deriving DecidableEq, Repr

/-- A JESD204C link: JLCFG0, JLCFG1 (spec/08 R194), extended multiblocks since the LEMC was last established
(R210) and the LEMC alignment (R193). -/
structure JLink where
  cfg0 : Word
  cfg1 : Word
  lemc : Nat
  lemcOk : Bool
deriving DecidableEq, Repr

/-- A strait message sent or kept for replay. -/
structure StraitSent where
  seq : BitVec 16
  nak : Bool
  ack : BitVec 16
  credits : BitVec 7
  body : StraitBody
deriving DecidableEq, Repr

/-- One strait link (lane 14 or 15, spec/08 R196 to R201): sequence numbers, the 128-message replay buffer, the
outbox, edge-plane credits held for the neighbour and owed to it, received edge planes (at most 64, R119),
RED copies seen of each member, the partner's heartbeat and last latbar number, the ACK of a NAK received and not yet
served by a replay, and whether this device has sent a NAK and still waits for the replay; `cut` says that the link has gone down
since reset, after which it takes no part in a lattice (R201), `hbLeft` when the partner's window last left OPEN in microseconds
from the present boundary (spec/07 R179). -/
structure Strait where
  sendSeq : BitVec 16
  recvSeq : BitVec 16
  replay : List StraitSent
  outbox : List StraitSent
  credits : Nat
  owed : Nat
  edgeRx : List (Word × PeVec)
  redSeen : Vector Nat 4
  hbValid : Nat
  up : Bool
  hb : Option HbBody
  barRx : Option (BitVec 16)
  nakRx : Option (BitVec 16)
  nakTx : Bool
  cut : Bool
  hbLeft : Option Int
deriving DecidableEq, Repr

/-- Lattice reduction results received and not yet summed, per member, and copies taken so far (spec/08 R199). -/
structure Lattice where
  redRx : Vector (List (Bool × BitVec 19)) 4
  redTaken : Vector Nat 4
  cycle : Word
  edgeSent : Bool
  kinds : List (Bool × Bool)
deriving DecidableEq, Repr

/-- A converted word waiting in the sprue: field, index of the word in its frame and field, number of its fill
since enable, number of its frame since enable. -/
structure SWord where
  field : Fin 4
  idx : Nat
  fill : Nat
  frame : Nat
  word : Word
deriving DecidableEq, Repr

/-- A stream entry held in the sprue's cache (spec/08 R202, R205): its ten configuration words, the fields the
sprue keeps, and the frame in progress (R207 to R216): `got` counts the outputs of a field, `put` the words delivered to the
sprue's buffer, `last` the STATUS of the last frame ended, which PAUSED hides (R203). -/
structure Stream where
  id : BitVec 12
  cfg : Vector Word 10
  enabled : Bool
  seq : BitVec 16
  voidCnt : BitVec 16
  lastFrame : Word
  status : BitVec 3
  last : BitVec 3
  voidLast : Bool
  tstamp : BitVec 64
  inFrame : Bool
  item : Nat
  got : Vector Nat 4
  put : Vector Nat 4
  decSum : Vector Word 4
  decCnt : Vector Nat 4
  fillBase : Nat
  frames : Nat
  waiting : List SWord
  dropping : Bool
  dropped : Bool
  crcBad : Bool
  trig : Bool
deriving DecidableEq, Repr

/-- The sprue (spec/08 R202 to R216, R224). The cache lists the most recently used entry first. -/
structure Sprue where
  streamBase : BitVec 14
  cache : List Stream
  void : Bool
  ovr : Bool
  stsHi : Word
deriving DecidableEq, Repr

/-- A riser context (spec/08 Table 8.17), with its framebar restarts since enable (R223) and the
groups still to drain before the loop-back frame marker of the last restart (R219; 0 none). -/
structure RCtx where
  rc0 : Word
  rc1 : Word
  rc2 : Word
  groups : BitVec 16
  lostCnt : BitVec 16
  restarts : Word
  markAfter : Nat
deriving DecidableEq, Repr

/-- A word of a replay half: the context that wrote it, its converter. -/
structure TxWord where
  ctx : Fin 16
  conv : BitVec 4
  word : Word
deriving DecidableEq, Repr

/-- A transmit link's replay buffer (spec/08 R220): two halves, which half plays, and a filled half waiting for its boundary. -/
structure Replay where
  half0 : List TxWord
  half1 : List TxWord
  playing : Option Bool
  filled : Bool
deriving DecidableEq, Repr

/-- The riser (spec/08 R217 to R224, R471). -/
structure Riser where
  ctx : Vector RCtx 16
  part : Bool
  lost : Bool
  replay : Vector Replay 4
  rtsHi : Word
deriving DecidableEq, Repr

/-! ### Pour port and control cores (spec/05 R130, spec/10 to spec/12) -/

/-- A completion on its way to its core (spec/05 R133). -/
structure Completion where
  core : CoreId
  tag : BitVec 6
  word : Word
deriving DecidableEq, Repr

/-- The pour port: the outbound buffers of CC0 to CC3, oldest record first, and completions under way. -/
structure PourPort where
  buf : Vector (List PourRec) 4
  compl : List Completion
deriving DecidableEq, Repr

/-- Response status codes (spec/13 R314). -/
inductive Status where
  | ok | decerr | slverr | denied | domainOff | timeout | eccUncorr | collided
deriving DecidableEq, Repr

/-- How the response of a far access fills its slot (spec/11 Table 11.13, spec/05 R133). -/
inductive FillKind where
  | pour | sb | ub | sh | uh | word
deriving DecidableEq, Repr

/-- One word of the operand stack (spec/10 R238 to R241): a value; a slot filled by the response under a tag still
allocated; a slot pending on a tag or on a station (`hi` names the second result); or a poisoned slot with the
original tag (`live`: still allocated), the status and the address. -/
inductive Slot where
  | val (w : Word)
  | fill (t : Fin 64) (w : Word)
  | pend (t : Fin 64)
  | stn (k : Fin 4) (hi : Bool)
  | poison (t : Fin 64) (live : Bool) (st : Status) (addr : PAddr)
deriving DecidableEq, Repr

/-- The instructions of spec/11 Table 11.5, which may be parked. -/
inductive AluOp where
  | add | sub | adc | sbc | mul | mulwu | mulws | divu | divs | remu | rems | and | or | xor | not | neg
  | shl | shr | sar | rol | clz | popc | bfx | bfi | bperm | min | max | sext8 | sext16 | sext18 | sat18
deriving DecidableEq, Repr

/-- What a reservation station holds (spec/10 R239): an instruction of class 0x20 to 0x3F, or a store whose data was
pending (size in bytes, physical address; a far store with the tag it allocated and the order of its issue). -/
inductive ParkOp where
  | alu (op : AluOp)
  | store (far : Option (Fin 64)) (user : Bool) (size : Nat) (pa : PAddr) (order : Nat)
deriving DecidableEq, Repr

/-- A reservation station in use; operands in stack order, the top last. -/
structure Station where
  op : ParkOp
  args : List Slot
deriving DecidableEq, Repr

/-- A tag (spec/10 R238): allocated, response outstanding, in quarantine after a synthesised timeout (spec/13 R313),
allocated by a far store, how the response fills, the address of its access and the order of its issue. -/
structure TagSt where
  alloc : Bool
  out : Bool
  quar : Bool
  store : Bool
  kind : FillKind
  addr : PAddr
  order : Nat
deriving DecidableEq, Repr

/-- A failed store not yet reported (spec/10 R241). -/
structure FailedStore where
  order : Nat
  far : Bool
  tag : BitVec 6
  status : Status
  addr : PAddr
deriving DecidableEq, Repr

/-- A TLB entry: virtual page number VA[31:12] it was filled for and the level-2 entry (spec/10 R249). -/
structure TlbEntry where
  vpn : BitVec 20
  pte : DWord
deriving DecidableEq, Repr

/-- Integer elementwise operations (spec/12 Table 12.4, opcodes 0x91 and 0x92). -/
inductive VIntOp where
  | add | sub | adds | subs | mul | min | max | minu | maxu | and | or | xor | shl | shr | sar | neg | abs
deriving DecidableEq, Repr

/-- Integer compares (opcode 0x93). -/
inductive VCmpOp where
  | eq | ne | lt | ltu | le | leu | gt | gtu
deriving DecidableEq, Repr

/-- Floating compares (opcode 0x93). -/
inductive VFCmpOp where
  | eq | lt | le | un
deriving DecidableEq, Repr

/-- Floating elementwise operations (opcode 0x95). -/
inductive VFltOp where
  | add | sub | mul | fma | div | sqrt | min | max | neg | abs
deriving DecidableEq, Repr

/-- Conversions (opcode 0x96): destination then source. -/
inductive VCvtOp where
  | f32s18 | s18f32 | f16f32 | f32f16 | f32i32 | i32f32
deriving DecidableEq, Repr

/-- Reductions (opcode 0x97). -/
inductive VRedOp where
  | sum | min | max | minu | maxu | fsum | fmin | fmax
deriving DecidableEq, Repr

/-- Mask operations (opcode 0x90). -/
inductive VMaskOp where
  | and | or | xor | not
deriving DecidableEq, Repr

/-- Memory forms (opcodes 0xA0 to 0xA7). -/
inductive VMemOp where
  | ld | st | lds | sts | ldx | stx | deal | weave
deriving DecidableEq, Repr

/-- The vector instructions that enter the queue (spec/12 R284). -/
inductive VOp where
  | mvsx | mwr | mv
  | mask (o : VMaskOp)
  | int (o : VIntOp)
  | intX (o : VIntOp)
  | cmp (o : VCmpOp)
  | fcmp (o : VFCmpOp)
  | wmul | dot4 | dot2 | dots18
  | flt (o : VFltOp)
  | cvt (o : VCvtOp)
  | red (o : VRedOp)
  | mem (o : VMemOp)
deriving DecidableEq, Repr

/-- A captured vector instruction (spec/12 R284, R297): address, operation (none where the address holds no vector
instruction after a VLOAD), fields, field count, scalars A and B, their number, VL, GRP, RM, effective flush, VSTART. -/
structure VEntry where
  pc : Word
  op : Option VOp
  args : VArgs
  k : Nat
  a : Word
  b : Word
  nsc : Nat
  vl : BitVec 7
  grp : BitVec 2
  rm : BitVec 2
  ftz : Bool
  start : Nat
deriving DecidableEq, Repr

/-- The vector unit (spec/12 Tables 12.1, 12.8, 12.9). `rec` holds entry 0 and VFQ of the fault record; VFSTAT.VALID is
`valid`, VFSTAT.NQ the entries of `rec` after the first. -/
structure VecUnit where
  v : Vector (BitVec 128) 32
  vm : Vector (BitVec 64) 4
  grp : BitVec 2
  vl : BitVec 7
  vstart : BitVec 6
  vctrl : BitVec 3
  vflags : BitVec 5
  valid : Bool
  rpt : Bool
  kind : BitVec 4
  e : BitVec 6
  vfpc : Word
  vfva : Word
  qsel : BitVec 3
  faulted : List VEntry
  queue : List VEntry
deriving DecidableEq, Repr

/-- One control core (spec/10 Table 10.1, Table 10.4, R252 to R255; spec/11 R275 to R280; spec/12). `stack` has the top
first. `irq` holds the latches of the edge sources; `shadow` a CSR write not yet in effect (R242); `walk` a table walk
in progress, `walkL1` its level-1 entry once read, and `walkFault` the fault of a finished one with the page it was for (R249, R250); `order` numbers the
stores and accesses issued; `draws` counts reads of the cycle counter; `sramUe` lists SRAM words found uncorrectable
(Table 12.6); `selftest` is true while the vendor self-test runs; `late` is a shadowed write that waits for the vector
memory instruction issued in its shadow (spec/12 R285), `entering` the exception whose entry waits, `stepping` a STEP whose
instruction has not ended (R252). -/
structure Core where
  pc : Word
  lk : Word
  sp : Word
  stack : List Slot
  f : Vector Word 8
  cnt : Word
  src : Word
  dst : Word
  cst : Word
  ccfg : Word
  vbase : Word
  epc : Word
  ecause : Word
  eval : Word
  cychi : Word
  draws : Nat
  ien : Word
  ptbr : Word
  tmr : Word
  rerrlo : Word
  rerrhi : Word
  sloten : BitVec 16
  slots : Vector Word 16
  ustore : SMap (BitVec 96)
  shadow : Option (Byte × Word)
  late : Option (Byte × Word)
  entering : Option Nat
  stepping : Bool
  irq : Word
  tags : Vector TagSt 64
  stations : Vector (Option Station) 4
  failed : List FailedStore
  order : Nat
  tlb : Vector (Option TlbEntry) 32
  tlbNext : Fin 32
  walk : Option Word
  walkL1 : Option DWord
  walkFault : Option (Word × Word)
  sram : List Host.Cell
  sramUe : List Nat
  haltReq : Bool
  halted : Bool
  dfault : Bool
  stest : BitVec 2
  selftest : Bool
  asleep : Bool
  vec : VecUnit
deriving DecidableEq, Repr

/-- What an event record tells (spec/16 R389). The spec gives the numeric code only of an event a core posts; the
other codes are free values (Config.eventCode). -/
inductive EventKind where
  | laneReport | sprueReport | riserReport | straitDown | regroupDisable | partnerLoss | posted (code : BitVec 16) | safeStop
  | thermal | fabricLoad | fabricSafe | bootRefusal | romCheck | tideStep | tideMapOut | ebb | wake | selfTest | recal
  | offlineTest | internal | avsLost
deriving DecidableEq, Repr

/-- What the Holm has been notified of (spec/03 R86, R91, spec/06 Table 6.2, spec/10 R245). -/
inductive Notice where
  | mouldUe (a : Arch) | seqFault (a : Arch) | twinFault (a : Arch) | coreFault (n : CoreId)
deriving DecidableEq, Repr

/-- A recorded event with up to 24 data bytes; `no` tells it from every other event. -/
structure Event where
  no : Nat
  kind : EventKind
  data : List Byte
deriving DecidableEq, Repr

/-! ### Harbour, DMA, XLAT (spec/14) -/

/-- One harbour bank (R333, R345): BSTAT, BUEADDR, BCOL, the rows mapped to spares, and the region the test engine takes
next. -/
structure Bank where
  ue : Bool
  nospare : Bool
  spares : BitVec 3
  cecnt : BitVec 16
  ueValid : Bool
  ueWord : BitVec 18
  col : BitVec 16
  repaired : List Nat
  nextRegion : BitVec 12
deriving DecidableEq, Repr

/-- The harbour: its bytes from the start of bank 0 (unlisted bytes zero, as the wipe leaves them), per 64-bit word the
difference of stored and computed check bits, HTEST (R344). -/
structure Harbour where
  banks : Vector Bank 16
  mem : List Host.Cell
  delta : SMap (BitVec 8)
  testEn : Bool
  pace : BitVec 16
deriving DecidableEq, Repr

/-- DSTAT.STATE (Table 14.7). -/
inductive DmaState where
  | off | idle | running | stopping | stopped | faulted
deriving DecidableEq, Repr

/-- A DMA channel (R338 to R343, R346): its registers, the descriptor being worked on (eight words), the offset after the
last issued beat, the offsets of beats in flight, the lowest failed beat with its DETAIL, an atomic's old value. -/
structure DmaChan where
  en : Bool
  rsize : BitVec 4
  owner : BitVec 2
  base : Word
  head : BitVec 12
  tail : BitVec 12
  faultIrq : Bool
  doneIrq : Bool
  st : DmaState
  desc : Option (Vector Word 8)
  issued : Nat
  inflight : List Nat
  tags : List (Nat × Byte)
  got : List Byte
  put : Nat
  fail : Option (Nat × Nat)
  old : Option DWord
deriving DecidableEq, Repr

/-- A translation XLAT has been asked for: requester, context, virtual address, whether for a write, and the level-1 entry once it is
read. -/
structure XReq where
  src : Fin 32
  ctx : Fin 16
  va : Word
  write : Bool
  l1 : Option DWord
deriving DecidableEq, Repr

/-- XLAT (R336, R337, R347): contexts, the shared TLB (context, entry), walks in progress, faults found by finished walks
(KIND of Table 14.8), and the fault registers. -/
structure Xlat where
  ctx : Vector Word 16
  tlb : Vector (Option (Fin 16 × TlbEntry)) 64
  tlbNext : Fin 64
  walks : List XReq
  faults : List (XReq × Nat)
  fvalid : Bool
  fsrc : Fin 32
  fkind : BitVec 4
  fctx : Fin 16
  fva : Word
deriving DecidableEq, Repr

/-! ### The shore fabric (spec/15) -/

/-- Where the shore pins stand (Table 7.1, R365, R366, R371). -/
inductive ShorePins where
  | hiZ | pullDown | presets | function
deriving DecidableEq, Repr

/-- A serial engine (R361, R373): mode, the CAN FD frame being received (0: a header is due, 1: the DLC word, else payload words left plus 1;
whether its filters take it; FDF), FIFOs (head next out) and error bits. -/
structure Engine where
  mode : BitVec 3
  canAt : Nat
  canOk : Bool
  canFd : Bool
  tx : List Word
  rx : List Word
  ovr : Bool
  err : Bool
deriving DecidableEq, Repr

/-- An armed capture (R372): clock, falling edge, edge count (none: the trigger line). -/
structure CapReq where
  gck : BitVec 3
  falling : Bool
  count : Option Nat
  trg : BitVec 3
deriving DecidableEq, Repr

/-- A fabric load in progress: the step of Table 15.8 now running, its slot, whether the other slot may still be tried. -/
structure ShoreLoad where
  step : Nat
  slot : Bool
  retry : Bool
deriving DecidableEq, Repr

/-- The shore (R348 to R373): SHCFG, SHSTAT and SHIRQ fields, the user area of the flash (unlisted bytes 0xFF), NVCTL and
NVDATA with the command in progress, the engines, the configuration in the fabric (`loaded`: step 7 was reached) with its
stored frame check differences, the load in progress, the images in the two slots, the preset latches of the cells, the sensed
bank levels, the fabric PLL's lock, GSR, a requested release with the FREF edges left to it, pins and where they go on the next FREF edge, the
line FBND, the period strobes of the cells, their registers (serialiser in [7:0], deserialiser in [15:8], output, enable) and delay taps, macrocell flip-flops, the registers at the ends of
routing segments, period counts (bit 24: overflow), sigma-delta words,
stream-port sequence numbers and pending marks, the lines UIRQ0 to UIRQ7, capture. -/
structure Shore where
  slot : Bool
  autoReload : Bool
  fixcnt : Byte
  lerr : BitVec 4
  slotRun : Bool
  st : BitVec 3
  irq : BitVec 16
  flash : List Host.Cell
  nvErr : Bool
  nvBusy : Bool
  nvCmd : BitVec 2
  nvAddr : BitVec 16
  nvOpAddr : BitVec 16
  nvOpData : Word
  nvData : Word
  engine : Vector Engine 8
  bits : Option Bitstream
  loaded : Bool
  load : Option ShoreLoad
  slots : Vector (Option Image) 2
  latches : Vector (BitVec 16) 224
  fdelta : SMap (BitVec 11)
  scrubPos : Nat
  levels : Byte
  pll : Bool
  gsr : Bool
  release : Bool
  relLeft : Nat
  pins : ShorePins
  pinsNext : Option ShorePins
  fbnd : Bool
  strobe : BitVec 224
  regs : Vector (BitVec 24) 224
  taps : Vector (BitVec 5) 224
  mcells : BitVec 1024
  segs : SMap Bool
  cells : Vector (BitVec 25) 224
  sdWord : Vector Word 224
  portSeq : Vector (BitVec 16) 128
  marks : Vector Byte 128
  uirq : Byte
  capArmed : Option CapReq
  capture : Option (List Byte)
deriving DecidableEq, Repr

/-! ### The Holm (spec/16, spec/17) -/

/-- A boot flash directory entry (R387) with the image its offset and length name. -/
structure DirEntry where
  active : Bool
  alternate : Bool
  offset : Word
  length : Word
  image : Image
deriving DecidableEq, Repr

/-- A vital snapshot (spec/18 Table 18.8) and the seal that stands behind it (R389). -/
structure Snapshot where
  gen : BitVec 64
  vlen : BitVec 16
  f : BitVec 64
  epoch : BitVec 64
  hash : List Byte
  assay : List Byte
  copyE : List Byte
  jstate : Byte
  jepoch : BitVec 64
  stored : List Byte
deriving DecidableEq, Repr

/-- The persistent settings of spec/17 R413. -/
structure Persist where
  bootSlot : Bool
  failslot : Vector (BitVec 6) 8
deriving DecidableEq, Repr

/-- States of a commit journal entry. -/
inductive JState where
  | applying | applied | undo
deriving DecidableEq, Repr

/-- The newest commit journal entry (spec/17 R413) and the seal that stands behind it (R389). -/
structure Journal where
  st : JState
  epoch : BitVec 64
  new : Persist
  old : Persist
  stored : List Byte
deriving DecidableEq, Repr

/-- The keep store (spec/16 Table 16.12) beside the event journal: the header with its generation, LC count, pending-transition record
and seal, snapshot slots A and B, commit journal, persistent settings, and the wrapped-keys record: its generation, its seal and, by session
ID, the 12-byte nonce with the AES-256-GCM ciphertext and tag of each secret under K_wrap. -/
structure Keep where
  hdrGen : BitVec 64
  hdrLc : Byte
  transition : Bool
  hdrSeal : List Byte
  snapA : Option Snapshot
  snapB : Option Snapshot
  journal : Option Journal
  persist : Persist
  wrapGen : BitVec 64
  wrapped : List (Word × List Byte)
  wrapSeal : List Byte
deriving DecidableEq, Repr

/-- TXN_STATUS states. -/
inductive TxnState where
  | none | opened | accepted | applied | refused
deriving DecidableEq, Repr

/-- The transaction (spec/17 R407 to R413); `waited`: a frame boundary has passed since acceptance (R411). -/
structure Txn where
  st : TxnState
  id : Word
  owner : Word
  writes : List TxnWrite
  staged : Nat
  target : BitVec 64
  point : Byte
  waited : Bool
deriving DecidableEq, Repr

/-- A HELLO in progress (spec/17 R400): the request's payload, the reply's, and the key material K_sess. -/
structure Hello where
  req : List Byte
  reply : List Byte
  key : List Byte
deriving DecidableEq, Repr

/-- A session (spec/17 R397 to R402): ID, roles, last accepted sequence number with the tag and reply of that request,
message counters in and out, the partial message (opcode, sequence number, payload so far, next fragment), MAC and encryption key. -/
structure Session where
  id : Word
  roles : BitVec 6
  seq : Word
  lastTag : BitVec 256
  cached : Option (BitVec 16 × List Byte)
  ctrIn : BitVec 48
  ctrOut : BitVec 48
  part : Option (BitVec 16 × Word × List Byte × Nat)
  mac : List Byte
  enc : List Byte
deriving DecidableEq, Repr

/-- A reply sent to a host: where to (spec/17 R393), session, sequence number, message counter, opcode, status,
payload, the transaction ID its header carries and the MAC key its tag is made with. -/
structure Reply where
  peer : Peer
  sess : Word
  seq : Word
  ctr : BitVec 48
  op : BitVec 16
  status : BitVec 16
  payload : List Byte
  txn : Word
  mac : List Byte
deriving DecidableEq, Repr

/-- A MEM_READ or MEM_WRITE that waits for a ladle slot (spec/01 R26, R32): whom to reply to, the opcode, the next address, the
bytes left, and those read so far or still to write. -/
structure MemJob where
  peer : Peer
  sess : Word
  seq : Word
  op : BitVec 16
  read : Bool
  addr : Nat
  left : Nat
  bytes : List Byte
deriving DecidableEq, Repr

/-- A TXN_COMMIT whose bitstream slot is being erased and written (spec/17 R410): whom to reply to, transaction, target frame, slot, image. -/
structure SlotJob where
  peer : Peer
  sess : Word
  seq : Word
  txn : Word
  target : Nat
  slot : Fin 2
  image : Option Image
deriving DecidableEq, Repr

/-- The Holm: fuses (R385, R391), those of Table 16.10 that no command burns (the hash of the Ohmesk manufacturing key, PUF helper data,
trim and test fuses, reserved bits), boot ROM with that key, the registers of the crypto engines, OTP and Holm control as bytes of their
64 KiB (R374, R375), the owner key file at its fixed place in the boot flash and the keys accepted from it at boot (R384), mailbox RAM and control words (R378 to R381), boot status (Table 16.11), boot flash
with its second directory (R387), keep store, configuration epoch, loaded images, partial image stages (TYPE, TARGET, bytes), the HELLO in progress, sessions, replies sent, packets dropped, the partial message of session 0, the transaction, the objects with no unit of their own, TCFG
(spec/19), straps (spec/20), the committed stream entries, the partitions of SPLIT, the data SRAM (R374) with its scrubber
(spec/19 Table 19.3), the core the timed self-test takes next (R444), the PUF root key (R376), and the frame the
service UART is receiving: its bytes unstuffed, and whether an escape byte came last (spec/17 R394), the frames received whole,
the pattern-replacement and bitstream-slot objects in force (spec/17 R408), the step of R391 that a life-cycle transition has reached (0
none), and the commit whose bitstream slot is being written. -/
structure Holm where
  lcCount : Byte
  slotProg : BitVec 4
  slotRev : BitVec 4
  counters : Vector Byte 64
  keyHash : Vector (List Byte) 4
  ohmeskHash : List Byte
  helper : List Byte
  trim : BitVec 1008
  otpRest : BitVec 2560
  rom : List Host.Cell
  ohmeskKey : List Byte
  hcRegs : List Host.Cell
  keyFile : List (List Byte)
  keys : Vector (List Byte) 4
  bootCount : Word
  mbox : List Host.Cell
  go : Vector Bool 4
  frmNew : Vector Bool 4
  fseq : Vector (BitVec 16) 4
  rplValid : Vector Bool 4
  bootstat : Word
  flash : List DirEntry
  flash2 : List DirEntry
  keep : Keep
  epoch : BitVec 64
  epochHash : List Byte
  loaded : List Image
  stage : List (BitVec 16 × Word × List Byte)
  hello : Option Hello
  sessions : List Session
  replies : List Reply
  dropped : Word
  part0 : Option (BitVec 16 × Word × List Byte × Nat)
  txn : Txn
  netObj : Vector (List Byte) 16
  tcfg : Word
  straps : BitVec 7
  streamObj : SMap (Vector Word 10)
  parts : Vector (BitVec 3) 8
  sram : List Host.Cell
  sramDelta : SMap Byte
  scrubPos : Nat
  selfNext : Fin 4
  jtag : Option JtagPin
  offline : Bool
  romBad : Bool
  started : Bool
  notices : List Notice
  jobs : List MemJob
  puf : List Byte
  uart : Option (List Byte × Bool)
  frames : List (List Byte)
  patObj : Vector (List Byte) 8
  slotObj : List Byte
  lcStep : Nat
  slotJob : Option SlotJob
deriving DecidableEq, Repr

/-- A response on its way to its initiator. -/
structure Response where
  dst : Fin 32
  tag : Byte
  status : Status
  data : List Byte
deriving DecidableEq, Repr

/-- Statistics of one initiator (spec/13 R315, Table 13.9). -/
structure InitStat where
  reqCnt : Word
  bytes : BitVec 64
  byteHi : Word
  maxLat : BitVec 24
  lateCnt : BitVec 16
  toCnt : BitVec 16
  fdrop : BitVec 16
  hist : Vector Word 16
deriving DecidableEq, Repr

/-- LAGOON[a]: LVWTO and the per-initiator counters (spec/13 R323, R324). -/
structure Lagoon where
  lvwto : BitVec 20
  lreq : Vector Word 32
  lbyte : Vector Word 32
deriving DecidableEq, Repr

/-- The routing tables of one epoch parity (spec/13 R303, spec/17 Table 17.6 class 0x0006): per network (0 sound, 1 + a
lagoon a) the dimension order (1 YX), and per entry the directions that differ from the boot table's (bit 0 x, bit 1 y).
Entry index: router * 16 + destination in the sound network, 256 + a * 1296 + router * 36 + destination in lagoon a. -/
structure RouteTable where
  yx : BitVec 9
  flips : SMap (BitVec 2)
deriving DecidableEq, Repr

/-- What a packet carries on behalf of: a request, a response, a completion of the pour interface, or nothing the model
follows. -/
inductive Msg where
  | req (r : Request) | rsp (r : Response) | compl (c : Completion) | other
deriving DecidableEq, Repr

/-- The flits of a packet in one input buffer (spec/13 R308). -/
structure Leg where
  place : RouterId
  port : Fin 5
  vc : Bool
  flits : Nat
deriving DecidableEq, Repr

/-- A packet at a router (spec/13 R304): in the input buffer of virtual channel VC1 (`vc`) or VC0 of port `port` (0 the source
interface, 1 entered in direction +x, 2 -x, 3 +y, 4 -y), or, with no port, at the interface that injects it. `place` is where its header is;
`legs` are the buffers its flits stand in, the header's first, the rest being at the interface still (R308). -/
structure Packet where
  place : RouterId
  port : Option (Fin 5)
  vc : Bool
  hdr : BitVec 128
  payload : List Byte
  poisoned : Bool
  msg : Msg
  legs : List Leg
deriving DecidableEq, Repr

/-- What a 10GBASE-R lane sends of its own (spec/08 R195, R223): an ARP, ICMP echo or neighbour-discovery answer to an
address, or a riser result datagram for destination entry DSTIX. -/
inductive EthOut where
  | arp (mac ip : List Byte)
  | echo (mac ip data : List Byte)
  | neighbour (mac ip : List Byte)
  | result (dstix : Fin 8) (data : List Byte)
deriving DecidableEq, Repr

/-- The networks (spec/13): requests issued and not yet served, responses under way, the view accesses of DMA, walkers and the
Holm that wait for ladle slots, tags in quarantine, packets in
routers, the input of each link granted last (R309), the routing epochs, timeouts, NETERR and the statistics. -/
structure Net where
  requests : List Request
  responses : List Response
  views : List Request
  quarantine : List (Fin 32 × Byte)
  packets : List Packet
  grants : SMap Nat
  table : Vector RouteTable 2
  epoch : Byte
  drained : Bool
  oldInFlight : Nat
  epochLoaded : Bool
  tout : Vector (BitVec 20) 32
  neterr : Word
  stat : Vector InitStat 32
  lagoon : Vector Lagoon 8
  lost : Vector Nat 32
  expired : Vector Nat 32
deriving DecidableEq, Repr

/-- Power, clocks and sensors (spec/18 R415 to R435, spec/20 R450). `target` is the mode of a transition in progress. -/
structure Power where
  perm : BitVec 316
  on : BitVec 316
  fence : BitVec 316
  retained : BitVec 316
  aS : BitVec 3
  target : Option Mode
  rstCause : BitVec 4
  holdOk : Bool
  holdV : Byte
  sysrefSrc : Bool
  qlock : BitVec 4
  step : Bool
  flock : Bool
  nlock : Bool
  plock : Bool
  tj : BitVec 16
  alarm : Word
  crystal : Bool
  avs : Nat
  ebbStep : Nat
  kept : Option (BitVec 64 × List Byte × List Byte)
deriving DecidableEq, Repr


/-- The SV6518. `pending` is the queue of commands waiting for the block, first in first out; `fresh` counts the
free values drawn (both the model's own; the log names them). -/
structure State where
  pending : List Instr
  fresh : Nat
  gradeC : Bool
  committed : Bool
  latpos : BitVec 5
  mode : Mode
  arch : Vector ArchSt 8
  isl : Vector IslSt 264
  vital : Vital
  dyn : Dyn
  pour : PourPort
  net : Net
  pwr : Power
  cores : Vector Core 4
  lanes : Vector Lane 16
  rxLinks : Vector JLink 8
  txLinks : Vector JLink 4
  straits : Vector Strait 2
  lattice : Lattice
  sprue : Sprue
  riser : Riser
  harbour : Harbour
  dma : Vector DmaChan 16
  xlat : Xlat
  shore : Shore
  holm : Holm
  ethTx : List (Fin 16 × EthOut)
  events : List Event
deriving DecidableEq, Repr

/-! ### The state after reset -/

/-- A ladle with both banks clear, bank 0 current and read position 0; clear is logical zero (spec/08 R211). -/
def Ladle.cleared (odd : Bool) : Ladle :=
  { bank0 := Vector.replicate 32 ((if odd then BitVec.allOnes 256 else 0)), bank1 := Vector.replicate 32 ((if odd then BitVec.allOnes 256 else 0)),
    written0 := 0, written1 := 0, fillNo0 := 0, fillNo1 := 0, cur := false, rd := 0,
    out0 := Vector.replicate 32 0, out1 := Vector.replicate 32 0 }

/-- The vector unit at reset (spec/12 Tables 12.1, 12.8, 12.9). -/
def VecUnit.reset : VecUnit :=
  { v := Vector.replicate 32 0, vm := Vector.replicate 4 0, grp := 0, vl := 0, vstart := 0, vctrl := 0, vflags := 0
    valid := false, rpt := false, kind := 0, e := 0, vfpc := 0, vfva := 0, qsel := 0, faulted := [], queue := [] }

/-- A free tag. -/
def TagSt.free : TagSt := { alloc := false, out := false, quar := false, store := false, kind := .word, addr := 0, order := 0 }

/-- A core after its own reset or at device reset (Table 10.1, Table 10.4, R253): halted, HALT = 1. -/
def Core.reset : Core :=
  { pc := 0, lk := 0, sp := 0x00040000, stack := [], f := Vector.replicate 8 0, cnt := 0, src := 0, dst := 0, cst := 1
    ccfg := 0, vbase := 0, epc := 0, ecause := 0, eval := 0, cychi := 0, draws := 0, ien := 0, ptbr := 0, tmr := 0
    rerrlo := 0, rerrhi := 0, sloten := 0, slots := Vector.replicate 16 0, ustore := [], shadow := none, late := none
    entering := none, stepping := false, irq := 0
    tags := Vector.replicate 64 TagSt.free, stations := Vector.replicate 4 none, failed := [], order := 0
    tlb := Vector.replicate 32 none, tlbNext := 0, walk := none, walkL1 := none, walkFault := none, sram := [], sramUe := []
    haltReq := true, halted := true, dfault := false, stest := 0, selftest := false, asleep := false
    vec := VecUnit.reset }

/-- A mould that nothing has loaded. -/
def Mould.empty : Mould :=
  { word := [], delta := [], verified := [], entries := [], loaded := false, vlock := false, plock := false, sue := false
    ueValid := false, ueWord := 0, ceCnt := 0, rdAddr := 0, scrubPos := 0, rewrite := [], repl := [] }

/-- A sequencer at reset (spec/03 R64, R93 to R97, spec/04 R121 to R125). -/
def Seq.reset : Seq :=
  { pc := 0, lastPc := 0, lastNt := false, ctx := SeqCtx.start, tnt := false, queue := [], mode := .noMould
    held := false, haltReq := false, stepSlot := none, slot0 := none, slot1 := none, defer := 0, defMax := 0, tfSub := 0, nxtLock := false
    seqFault := { valid := false, fpc := 0, cause := 0 }, recFault := { valid := false, sub := 0, entry := 0 }
    preen := 0, wdog := 0, preent := Vector.replicate 4 0
    part := { inStream := false, lat := false, lock := false, twin := false, pid := 0 }, latSeq := 0 }

/-- The twin registers at reset (spec/06 R171). -/
def Twin.reset : Twin :=
  { force := true, react := false, pend := false, retried := false
    fault := { valid := false, mis := { cause := .data, row := 0, col := 0, pc := 0 } }
    cnt := 0, ck := none, swapped := false, found := [], pendCause := none, faulted := false, owed := [] }

/-- A riser ring at its first context. -/
def RiserRing.reset : RiserRing :=
  { pos := 0, planes := 0, groups := 0, nextGroup := Vector.replicate 16 0, bank := false, lossy := false
    drain0 := none, drain1 := none }

/-- The tide of an archipelago at reset (spec/19 R447). -/
def TideSt.reset : TideSt :=
  { susp := false, phase := 0, tslot := 0x3F, last := 0, steps := 0, cover := 0, nextPos := 0, priority := none
    mapOutNow := false, byPrio := false, badCopy := false, cycleSteps := 0 }

/-- An archipelago at reset (spec/01 R16 to R18). -/
def ArchSt.reset : ArchSt :=
  { islmap := Vector.ofFn (fun p : Fin 32 => BitVec.ofNat 6 p.val), gen := 0, failSlot := 0x3F, consumed := false
    rslot := 32, seq := Seq.reset, mould := Mould.empty, twin := Twin.reset, ring := RiserRing.reset
    tide := TideSt.reset }

/-- An island at reset (spec/02 Table 2.1, R60 to R63); role 0 active, 1 reserve. -/
def IslSt.reset (role : BitVec 4) : IslSt :=
  { c := 0, x := 0, y := 0, k := BitVec.allOnes 256, n := 0, t := 0, mem := [], delta := [], junk0 := none, junk1 := none, junk2 := none, ladle := Ladle.cleared false
    role := role, ue := false, ueValid := false, uePlane := 0, ueCluster := 0, cecnt := 0, injPlane := 0, injCl := 0
    injD := false, inj := false, ready := false, tell := false, waiting := [] }

/-- The vital parameters at reset (spec/06 Table 6.5, spec/17 R409). -/
def VitalParams.reset : VitalParams :=
  { frameMs := 10, pairs := 1, vcore := 0, vlen := 4096, vwkey := 0, vwmin := 1000, vwmax := 8000, vrBytes := List.replicate 4 0xFF
    vctrl := 0, partner := 0 }

/-- The vital frame state at reset (spec/06 R172). -/
def Vital.reset : Vital :=
  { par := VitalParams.reset, f := 0, running := false, challenge := 0, claimed := false, doneOk := false
    frameCause := none, twinFault := false, seqFault := false, assay := none, partnerRx := [], lastAssay := List.replicate 64 0, win := .closed
    miss := 0, degr := false, lcause := 0xA, awaitResume := true, reportedDigest := List.replicate 64 0, election := 0
    hbWait := false, nextF := 0, fepoch := 0, leaveDue := none, accepted := [], vrLost := false, leftAt := none, now := 0
    leader := none, bndUs := none, slew := 0 }

/-- The DYN outputs and monitors at reset (spec/07 R184 to R189, Table 7.1). -/
def Dyn.reset : Dyn :=
  { en := 0, monreact := 0, f0 := 0, f1 := 0, msrc := 0, degrade1 := false, pin := Vector.replicate 8 .hiZ, drv := 0
    periodHalf := Vector.replicate 8 0, periodAt := Vector.replicate 8 none, keyAssay := [], mis := 0, misFrame := 0, misCnt := 0
    mon := Vector.replicate 8 { lastEdge := none, lastHalf := 16, expect := none } }

/-- A lane at reset (spec/08 R191, R192). -/
def Lane.reset : Lane :=
  { lcfg := 0, errCnt := 0, up := false, sysrefOk := false, aligned := false, lock := false, recal := false, ethDrop := 0 }

/-- A JESD204C link at reset (spec/08 Table 8.5). -/
def JLink.reset : JLink := { cfg0 := 0x0008C002, cfg1 := 0x01896402, lemc := 0, lemcOk := false }

/-- A strait link that has exchanged nothing. -/
def Strait.reset : Strait :=
  { sendSeq := 1, recvSeq := 0, replay := [], outbox := [], credits := 64, owed := 0, edgeRx := []
    redSeen := Vector.replicate 4 0, hbValid := 0, up := false, hb := none, barRx := none, nakRx := none, nakTx := false
    cut := false, hbLeft := none }

/-- The lattice bookkeeping at reset. -/
def Lattice.reset : Lattice :=
  { redRx := Vector.replicate 4 [], redTaken := Vector.replicate 4 0, cycle := 0
    edgeSent := false, kinds := [] }

/-- The sprue at reset (spec/08 R224). -/
def Sprue.reset : Sprue := { streamBase := 0x800, cache := [], void := false, ovr := false, stsHi := 0 }

/-- The riser at reset (spec/08 Table 8.17). -/
def Riser.reset : Riser :=
  { ctx := Vector.replicate 16 { rc0 := 0, rc1 := 0, rc2 := 0, groups := 0, lostCnt := 0, restarts := 0, markAfter := 0 }
    part := false, lost := false
    replay := Vector.replicate 4 { half0 := [], half1 := [], playing := none, filled := false }, rtsHi := 0 }

/-- The networks at reset (spec/13 R319 to R324). -/
def Net.reset : Net :=
  { requests := [], responses := [], views := [], quarantine := [], packets := [], grants := []
    table := Vector.replicate 2 { yx := 0, flips := [] }, epoch := 0, drained := true, oldInFlight := 0
    epochLoaded := false, tout := Vector.replicate 32 0x2000, neterr := 0
    stat := Vector.replicate 32 { reqCnt := 0, bytes := 0, byteHi := 0, maxLat := 0, lateCnt := 0, toCnt := 0, fdrop := 0,
                                  hist := Vector.replicate 16 0 }
    lagoon := Vector.replicate 8 { lvwto := 0x1000, lreq := Vector.replicate 32 0, lbyte := Vector.replicate 32 0 }
    lost := Vector.replicate 32 0, expired := Vector.replicate 32 0 }

/-- Power and clocks at reset (spec/18 R417, R433 to R435). -/
def Power.reset : Power :=
  { perm := BitVec.allOnes 316, on := 0, fence := 0, retained := 0, aS := 0, target := none, rstCause := 0
    holdOk := false, holdV := 0, sysrefSrc := false, qlock := 0, step := false, flock := false
    nlock := false, plock := false, tj := 0, alarm := 0, crystal := false, avs := 780, ebbStep := 0, kept := none }

/-- The harbour at reset (spec/14 R344, R345). -/
def Harbour.reset : Harbour :=
  { banks := Vector.replicate 16 { ue := false, nospare := false, spares := 0, cecnt := 0, ueValid := false, ueWord := 0,
                                   col := 0, repaired := [], nextRegion := 0 }
    mem := [], delta := [], testEn := true, pace := 100 }

/-- A DMA channel at reset (spec/14 Table 14.7). -/
def DmaChan.reset : DmaChan :=
  { en := false, rsize := 1, owner := 0, base := 0, head := 0, tail := 0, faultIrq := false, doneIrq := false, st := .off
    desc := none, issued := 0, inflight := [], tags := [], got := [], put := 0, fail := none, old := none }

/-- XLAT at reset (spec/14 Table 14.8). -/
def Xlat.reset : Xlat :=
  { ctx := Vector.replicate 16 0, tlb := Vector.replicate 64 none, tlbNext := 0, walks := [], faults := []
    fvalid := false, fsrc := 0, fkind := 0, fctx := 0, fva := 0 }

/-- The shore at reset, its flash erased (spec/15 R371, R373). -/
def Shore.reset : Shore :=
  { slot := false, autoReload := false, fixcnt := 0, lerr := 0, slotRun := false, st := 0, irq := 0, flash := []
    nvErr := false, nvBusy := false, nvCmd := 0, nvAddr := 0, nvOpAddr := 0, nvOpData := 0, nvData := 0
    engine := Vector.replicate 8 { mode := 0, canAt := 0, canOk := false, canFd := false, tx := [], rx := [], ovr := false, err := false }
    bits := none, loaded := false, load := none, slots := Vector.replicate 2 none, latches := Vector.replicate 224 1
    fdelta := [], scrubPos := 0, levels := 0, pll := false, gsr := false, release := false, relLeft := 0, pins := .pullDown
    pinsNext := none, fbnd := false, strobe := 0, regs := Vector.replicate 224 0, taps := Vector.replicate 224 0, mcells := 0, segs := []
    cells := Vector.replicate 224 0, sdWord := Vector.replicate 224 0, portSeq := Vector.replicate 128 0
    marks := Vector.replicate 128 0, uirq := 0, capArmed := none, capture := none }

/-- An empty transaction. -/
def Txn.none : Txn := { st := .none, id := 0, owner := 0, writes := [], staged := 0, target := 0, point := 0, waited := false }

/-- A network object nobody has committed: no lane in use, Vevis port 48182 (spec/17 R393). -/
def netObjReset : List Byte := List.replicate 10 0 ++ [0x36, 0xBC] ++ List.replicate 244 0

/-- The Holm at reset: fuses unburnt, boot flash and keep store empty. -/
def Holm.reset : Holm :=
  { lcCount := 0, slotProg := 0, slotRev := 0, counters := Vector.replicate 64 0, keyHash := Vector.replicate 4 []
    ohmeskHash := [], helper := [], trim := 0, otpRest := 0, rom := [], ohmeskKey := [], hcRegs := [], keyFile := [], keys := Vector.replicate 4 []
    bootCount := 0, mbox := [], go := Vector.replicate 4 false, frmNew := Vector.replicate 4 false
    fseq := Vector.replicate 4 0, rplValid := Vector.replicate 4 false, bootstat := 0, flash := [], flash2 := []
    keep := { hdrGen := 0, hdrLc := 0, transition := false, hdrSeal := [], snapA := none, snapB := none, journal := none
              persist := { bootSlot := false, failslot := Vector.replicate 8 0x3F }, wrapGen := 0, wrapped := [], wrapSeal := [] }
    epoch := 0, epochHash := List.replicate 64 0, loaded := [], stage := [], hello := none, sessions := []
    replies := [], dropped := 0, part0 := none, txn := Txn.none
    netObj := Vector.replicate 16 netObjReset, tcfg := 0x3CFF00C8, straps := 0, streamObj := []
    parts := Vector.replicate 8 0, sram := [], sramDelta := [], scrubPos := 0, selfNext := 0, jtag := none
    offline := false, romBad := false, started := false, notices := [], jobs := [], puf := [], uart := none
    frames := [], patObj := Vector.replicate 8 (List.replicate 68 0), slotObj := List.replicate 68 0, lcStep := 0, slotJob := none }

/-- The machine right after reset: BOOT mode, every queue empty. (DESIGN CHOICE, log 3) (DESIGN CHOICE, log 4) (DESIGN CHOICE, log 29) -/
def State.reset : State :=
  { pending := [], fresh := 0, gradeC := false, committed := false, latpos := 0, mode := .boot
    arch := Vector.replicate 8 ArchSt.reset
    isl := Vector.ofFn (fun P : Fin 264 => IslSt.reset (if P.val % 33 = 32 then 1 else 0))
    vital := Vital.reset, dyn := Dyn.reset, pour := { buf := Vector.replicate 4 [], compl := [] }, net := Net.reset
    pwr := Power.reset, cores := Vector.replicate 4 Core.reset, lanes := Vector.replicate 16 Lane.reset
    rxLinks := Vector.replicate 8 JLink.reset, txLinks := Vector.replicate 4 JLink.reset
    straits := Vector.replicate 2 Strait.reset, lattice := Lattice.reset, sprue := Sprue.reset, riser := Riser.reset
    harbour := Harbour.reset, dma := Vector.replicate 16 DmaChan.reset, xlat := Xlat.reset, shore := Shore.reset
    holm := Holm.reset, ethTx := [], events := [] }

end Sys2Proof.Machine
end

