-- ==== Sys2Proof/Machine/Ops.lean ====
section
/-! DEFINITION. Machine/Ops.lean: the named operations every unit uses: sparse arrays in canonical form, vectors by
index, the SECDED code of spec/02 R468, interrupts, events and free values. -/

namespace Sys2Proof.Machine

abbrev Out := Host.Outcome State Fault Refusal

/-! ### Sparse arrays -/

/-- The entry at index `k`, or the default `d` where none is listed. -/
def SMap.get {α : Type} (d : α) : SMap α → Nat → α
  | [], _ => d
  | (j, v) :: m, k => if j = k then v else SMap.get d m k

/-- Store `v` at index `k`, keeping indices rising; storing the default removes every entry at `k`. -/
def SMap.set {α : Type} [DecidableEq α] (d : α) : SMap α → Nat → α → SMap α
  | [], k, v => if v = d then [] else [(k, v)]
  | (j, w) :: m, k, v =>
    if v = d then (if k = j then SMap.set d m k v else (j, w) :: SMap.set d m k v)
    else if k < j then (k, v) :: (j, w) :: m
    else if k = j then (k, v) :: m
    else (j, w) :: SMap.set d m k v

/-- Every listed index is at least `lo`, indices rise strictly, no entry equals the default. -/
def SMap.wfFrom {α : Type} [DecidableEq α] (d : α) : Nat → SMap α → Bool
  | _, [] => true
  | lo, (j, v) :: m => decide (lo ≤ j) && decide (v ≠ d) && SMap.wfFrom d (j + 1) m

/-- The canonical form. -/
def SMap.wf {α : Type} [DecidableEq α] (d : α) (m : SMap α) : Bool := SMap.wfFrom d 0 m

/-- The canonical form of what a listing says, a later entry replacing an earlier one. -/
def SMap.norm {α : Type} [DecidableEq α] (d : α) (m : SMap α) : SMap α := m.foldl (fun t e => SMap.set d t e.1 e.2) []

/-- The canonical form of a byte memory whose unlisted bytes read as `d`. -/
def Memory.wf (d : Byte) (m : List Host.Cell) : Bool := SMap.wf d m

/-! ### Vectors and bits -/

/-- Replace element `i`. -/
def vset {α : Type} {n : Nat} (v : Vector α n) (i : Fin n) (x : α) : Vector α n := v.set i.val x i.isLt

/-- Apply `f` to element `i`. -/
def vmod {α : Type} {n : Nat} (v : Vector α n) (i : Fin n) (f : α → α) : Vector α n := vset v i (f v[i])

/-- The number `k` as an index below `n`, index 0 where it is out of range (callers keep it in range). -/
def ix (n : Nat) [NeZero n] (k : Nat) : Fin n := if h : k < n then ⟨k, h⟩ else 0

/-- The bit vector of `f 0 … f (w - 1)`, bit i being `f i`. -/
def bvOf (w : Nat) (f : Nat → Bool) : BitVec w :=
  BitVec.ofNat w ((List.range w).foldl (fun acc i => if f i then acc + 2 ^ i else acc) 0)

/-- The number of ones. -/
def popcount {w : Nat} (v : BitVec w) : Nat :=
  (List.range w).foldl (fun acc i => if v.getLsbD i then acc + 1 else acc) 0

/-- All ones where `b`, all zeros otherwise. -/
def bmask (w : Nat) (b : Bool) : BitVec w := if b then BitVec.allOnes w else 0

/-- Field [lo + w - 1 : lo] of a bit vector. -/
def fld {n : Nat} (v : BitVec n) (lo w : Nat) : BitVec w := v.extractLsb' lo w

/-- Replace field [lo + w - 1 : lo]. -/
def setFld {n : Nat} (v : BitVec n) (lo w : Nat) (x : BitVec w) : BitVec n :=
  (v &&& ~~~((BitVec.allOnes w).setWidth n <<< lo)) ||| (x.setWidth n <<< lo)

/-- One more, saturating at all ones. -/
def satInc {w : Nat} (v : BitVec w) : BitVec w := if v = BitVec.allOnes w then v else v + 1

/-- `k` more, saturating at all ones. -/
def satAdd {w : Nat} (v : BitVec w) (k : Nat) : BitVec w :=
  if v.toNat + k < 2 ^ w then BitVec.ofNat w (v.toNat + k) else BitVec.allOnes w

/-! ### Bytes -/

/-- The little-endian bytes of `v` (spec/00 R10). -/
def bytesLE (n : Nat) (v : Nat) : List Byte := (List.range n).map (fun i => BitVec.ofNat 8 (v / 256 ^ i))

/-- The number whose little-endian bytes are given. -/
def natLE : List Byte → Nat
  | [] => 0
  | b :: bs => b.toNat + 256 * natLE bs

/-- Little-endian number of the `n` bytes at offset `o` of a list (missing bytes read as 0). -/
def natAt (bs : List Byte) (o n : Nat) : Nat := natLE ((bs.drop o).take n)

/-- One byte of a sparse byte memory whose unlisted bytes read as `d`. -/
def rdByte (d : Byte) (m : List Host.Cell) (a : Nat) : Byte := SMap.get d m a

/-- `n` bytes from address `a`. -/
def rdBytes (d : Byte) (m : List Host.Cell) (a : Nat) : Nat → List Byte
  | 0 => []
  | n + 1 => rdByte d m a :: rdBytes d m (a + 1) n

/-- Store the bytes from address `a` upward. -/
def wrBytes (d : Byte) (m : List Host.Cell) (a : Nat) : List Byte → List Host.Cell
  | [] => m
  | b :: bs => wrBytes d (SMap.set d m a b) (a + 1) bs

/-! ### SECDED (spec/02 R468) -/

/-- The codeword positions of the data bits: the numbers from 1 that are not powers of two. -/
def eccPositions (m r : Nat) : List Nat :=
  ((List.range (m + r + 1)).filter (fun p => p != 0 && p &&& (p - 1) != 0)).take m

/-- XOR of the bits of a number below 2^16. -/
def parity (v : Nat) : Bool := (List.range 16).foldl (fun acc i => acc != v.testBit i) false

/-- What a read of a protected word finds (Table 2.3A). -/
inductive EccOut where
  | clean | corrected (dataBit : Option Nat) | bad
deriving DecidableEq, Repr

/-- Decode from `delta`, the stored check field XOR the field computed from the stored data: its low r bits are
the syndrome s, and q is the parity of s XOR bit r. (DESIGN CHOICE, log 22) -/
def eccDecode (m r : Nat) (delta : Nat) : EccOut :=
  let s := delta % 2 ^ r
  let q := parity s != delta.testBit r
  if delta = 0 then .clean
  else if q then
    if s = 0 then .corrected none
    else if s ≤ m + r then .corrected ((eccPositions m r).findIdx? (fun p => p == s))
    else .bad
  else if s = 0 then .clean else .bad

/-- The check field R468 computes for data `d` of `m` bits: the XOR of the positions of its ones, with the overall
parity in bit r. -/
def eccCheck (m r : Nat) (d : Nat) : Nat :=
  let ps := eccPositions m r
  let c := (ps.zipIdx).foldl (fun acc pi => if d.testBit pi.2 then acc ^^^ pi.1 else acc) 0
  let pd := (List.range m).foldl (fun acc i => acc != d.testBit i) false
  c + (if pd != parity c then 2 ^ r else 0)

/-! ### CRC-32C (spec/08 Table 8.6, spec/16 Table 16.12) -/

/-- CRC-32C, one bit: the polynomial and the order of bits are the public ones of that name. (PRESUMED, log 77) -/
def crcStep (c : BitVec 32) : BitVec 32 := if c.getLsbD 0 then (c >>> 1) ^^^ 0x82F63B78 else c >>> 1

/-- CRC-32C of a list of bytes. -/
def crc32c (bs : List Byte) : BitVec 32 :=
  ~~~(bs.foldl (fun c b => crcStep (crcStep (crcStep (crcStep (crcStep (crcStep (crcStep (crcStep (c ^^^ b.setWidth 32))))))))) (BitVec.allOnes 32))

/-! ### Statistics of initiators, and who is open (spec/13 R314, R315, R317, R321) -/

/-- Count `n` packets injected under initiator `i` with `bytes` of payload together. (DEDUCED, log 102) -/
def State.counts (s : State) (i : Fin 32) (n bytes : Nat) : State :=
  { s with net := { s.net with stat := vmod s.net.stat i (fun x => { x with reqCnt := satAdd x.reqCnt n, bytes := satAdd x.bytes bytes }) } }

/-- Count one packet. -/
def State.count (s : State) (i : Fin 32) (bytes : Nat) : State := s.counts i 1 bytes

/-- Set the NETERR bit of initiator `i` (spec/13 R321). -/
def State.netErr (s : State) (i : Fin 32) : State :=
  { s with net := { s.net with neterr := s.net.neterr ||| ((1 : Word) <<< i.val) } }

/-- `n` posted packets of initiator `i` are refused or dropped (spec/13 R314). -/
def State.dropsPosted (s : State) (i : Fin 32) (n : Nat) : State :=
  { (s.netErr i) with net := { (s.netErr i).net with stat := vmod (s.netErr i).net.stat i (fun x => { x with fdrop := satAdd x.fdrop n }) } }

/-- One posted packet is refused or dropped. -/
def State.dropPosted (s : State) (i : Fin 32) : State := s.dropsPosted i 1

/-- Power and fence of domain `d` let a request in; the gateway of an island opens when the island is ready (spec/13 R317, spec/02 R56). -/
def State.domainOpen (s : State) (d : Nat) : Bool :=
  s.pwr.on.getLsbD d && !s.pwr.fence.getLsbD d && (decide (264 ≤ d) || (s.isl[ix 264 d]).ready)

/-! ### Interrupts, events, free values -/

/-- Latch edge interrupt `i` at core `n` (spec/10 R244). -/
def State.raiseAt (s : State) (n : CoreId) (i : Nat) : State :=
  { s with cores := vmod s.cores n (fun c => { c with irq := c.irq ||| (1 <<< i) }) }

/-- The initiator whose IRQ packet carries interrupt `i` to a core: the archipelago of a sequencer's, else the Holm. (DESIGN CHOICE, log 52) -/
def irqSrc (i : Nat) : Fin 32 := if 4 ≤ i ∧ i < 12 then ix 32 (24 + (i - 4)) else 4

/-- An IRQ packet takes interrupt `i` to core `n`; the fence of a closed core drops it (spec/13 R306, R314, R317). -/
def State.irqTo (s : State) (n : CoreId) (i : Nat) : State :=
  let s := s.count (irqSrc i) 0
  if s.domainOpen (304 + n.val) then s.raiseAt n i else s.dropPosted (irqSrc i)

/-- Edge interrupt `i` goes to every control core. (DESIGN CHOICE, log 19) -/
def State.raiseAll (s : State) (i : Nat) : State := (List.finRange 4).foldl (fun t n => t.irqTo n i) s

/-- The riser contexts VRISER names. -/
def VitalParams.vriser (p : VitalParams) : List (Fin 16) := (p.vrBytes.filter (fun b => decide (b ≠ 0xFF))).map (fun b => ix 16 b.toNat)

/-- The number of the next event. -/
def State.eventNo (s : State) : Nat := match s.events.getLast? with | some e => e.no + 1 | none => s.fresh

/-- Record an event in the journal, a ring of 8,192 records whose oldest is overwritten (spec/16 R389). -/
def State.event (s : State) (k : EventKind) (data : List Byte) : State :=
  { s with events := (s.events ++ [({ no := s.eventNo, kind := k, data := data } : Event)]).drop (offsetFrom 8191 s.events.length) }

/-- Notify the Holm; it keeps each notice once. -/
def State.notify (s : State) (x : Notice) : State :=
  if s.holm.notices.contains x then s else { s with holm := { s.holm with notices := s.holm.notices ++ [x] } }

/-- Apply `f` to archipelago `a`. -/
def State.modArch (s : State) (a : Arch) (f : ArchSt → ArchSt) : State := { s with arch := vmod s.arch a f }

/-- Apply `f` to the sequencer of archipelago `a`. -/
def State.modSeq (s : State) (a : Arch) (f : Seq → Seq) : State :=
  s.modArch a (fun x => { x with seq := f x.seq })

/-- Apply `f` to the mould of archipelago `a`. -/
def State.modMould (s : State) (a : Arch) (f : Mould → Mould) : State :=
  s.modArch a (fun x => { x with mould := f x.mould })

/-- Apply `f` to the twin registers of archipelago `a`. -/
def State.modTwin (s : State) (a : Arch) (f : Twin → Twin) : State :=
  s.modArch a (fun x => { x with twin := f x.twin })

/-- Apply `f` to physical island `P`. -/
def State.modIsl (s : State) (P : Isl) (f : IslSt → IslSt) : State := { s with isl := vmod s.isl P f }

/-- Fold a list of archipelagos through a state. -/
def State.eachArch (s : State) (as : List Arch) (f : State → Arch → State) : State := as.foldl f s

/-- Apply `f` to the sequencer of every listed archipelago. -/
def State.modSeqs (s : State) (as : List Arch) (f : Seq → Seq) : State :=
  s.eachArch as (fun t a => t.modSeq a f)

/-- All archipelagos present: 0 to 7 on the F grade, 0 to 3 on the C grade (spec/00 R1). -/
def State.present (s : State) : List Arch :=
  (List.finRange 8).filter (fun a => !s.gradeC || decide (a.val < 4))

/-- The physical island of slot `slot` of archipelago `a`: P = 33 a + slot (spec/01 R15). -/
def islOf (a : Arch) (slot : Nat) : Isl := ix 264 (a.val * 33 + slot)

/-- The physical island carrying logical position `p` of archipelago `a` (spec/01 R16). -/
def State.islAt (s : State) (a : Arch) (p : Fin 32) : Isl := islOf a (s.arch[a].islmap[p]).toNat

/-- The 32 islands carrying logical positions of `a`, in order of position. -/
def State.islands (s : State) (a : Arch) : List Isl := (List.finRange 32).map (s.islAt a)

end Sys2Proof.Machine
end

