-- ==== Sys2Proof/Machine/Sha3.lean ====
section
/-! DEFINITION. Machine/Sha3.lean: SHA3-512, SHAKE256 and KMAC256, which the spec names by FIPS 202 and SP 800-185 (spec/00 Table
0.6, spec/06 R167, spec/16 R376). PRESUMED: the functions are those standards', which the spec cites and does not restate. -/

namespace Sys2Proof.Machine

/-- The Keccak state: lane x + 5 y. -/
abbrev KState := Vector (BitVec 64) 25

/-- A lane. -/
def kAt (a : KState) (x y : Nat) : BitVec 64 := a[ix 25 (x % 5 + 5 * (y % 5))]

/-- Step theta. -/
def kTheta (a : KState) : KState :=
  let c (x : Nat) : BitVec 64 := kAt a x 0 ^^^ kAt a x 1 ^^^ kAt a x 2 ^^^ kAt a x 3 ^^^ kAt a x 4
  let d : Vector (BitVec 64) 5 := Vector.ofFn (fun x => c (x.val + 4) ^^^ (c (x.val + 1)).rotateLeft 1)
  Vector.ofFn (fun i => a[i] ^^^ d[ix 5 (i.val % 5)])

/-- Rotation offsets of step rho, lane by lane. -/
def kRho : List Nat :=
  [0, 1, 62, 28, 27, 36, 44, 6, 55, 20, 3, 10, 43, 25, 39, 41, 45, 15, 21, 8, 18, 2, 61, 56, 14]

/-- Steps rho and pi. -/
def kRhoPi (a : KState) : KState :=
  Vector.ofFn (fun i =>
    let x := i.val % 5
    let y := i.val / 5
    let sx := (x + 3 * y) % 5
    (kAt a sx x).rotateLeft (kRho.getD (sx + 5 * x) 0))

/-- Step chi, and the round constant in lane 0. -/
def kChiIota (rc : BitVec 64) (a : KState) : KState :=
  Vector.ofFn (fun i =>
    let x := i.val % 5
    let y := i.val / 5
    let v := kAt a x y ^^^ (~~~(kAt a (x + 1) y) &&& kAt a (x + 2) y)
    if i.val = 0 then v ^^^ rc else v)

/-- The 24 round constants. -/
def kRc : List (BitVec 64) :=
  [0x0000000000000001, 0x0000000000008082, 0x800000000000808A, 0x8000000080008000, 0x000000000000808B, 0x0000000080000001,
   0x8000000080008081, 0x8000000000008009, 0x000000000000008A, 0x0000000000000088, 0x0000000080008009, 0x000000008000000A] ++
  [0x000000008000808B, 0x800000000000008B, 0x8000000000008089, 0x8000000000008003, 0x8000000000008002, 0x8000000000000080,
   0x000000000000800A, 0x800000008000000A, 0x8000000080008081, 0x8000000000008080, 0x0000000080000001, 0x8000000080008008]

/-- The permutation. -/
def keccakF (a : KState) : KState := kRc.foldl (fun b rc => kChiIota rc (kRhoPi (kTheta b))) a

/-- Absorb one block of `r` bytes. -/
def kAbsorb (r : Nat) (a : KState) (blk : List Byte) : KState :=
  keccakF (Vector.ofFn (fun i => if i.val < r / 8 then a[i] ^^^ BitVec.ofNat 64 (natAt blk (8 * i.val) 8) else a[i]))

/-- Absorb `n` blocks. -/
def kAbsorbAll (r : Nat) (a : KState) : Nat → List Byte → KState
  | 0, _ => a
  | n + 1, bs => kAbsorbAll r (kAbsorb r a (bs.take r)) n (bs.drop r)

/-- The padded message: the domain bits with the first bit of pad10*1 (`dom`), zeros, the last bit, to a multiple of `r` bytes. -/
def kPad (r : Nat) (dom : Byte) (m : List Byte) : List Byte :=
  let fill := r - m.length % r
  if fill = 1 then m ++ [dom ||| 0x80] else m ++ [dom] ++ List.replicate (fill - 2) 0 ++ [0x80]

/-- Byte `i` of a Keccak state. -/
def kByte (a : KState) (i : Nat) : Byte := fld a[ix 25 (i / 8)] (8 * (i % 8)) 8

/-- Squeeze `n` bytes, `r` a block, with at most `k` further permutations. -/
def kSqueeze (r : Nat) : Nat → KState → Nat → List Byte
  | 0, a, n => (List.range (min r n)).map (kByte a)
  | k + 1, a, n => (List.range (min r n)).map (kByte a) ++ (if n ≤ r then [] else kSqueeze r k (keccakF a) (n - r))

/-- The sponge of rate `r` bytes and domain `dom` over a message: `n` bytes. -/
def sponge (r : Nat) (dom : Byte) (m : List Byte) (n : Nat) : List Byte :=
  kSqueeze r (n / r) (kAbsorbAll r (Vector.replicate 25 0) (m.length / r + 1) (kPad r dom m)) n

/-- SHA3-512 of a byte string: 64 bytes. (PRESUMED, log 77) -/
def sha3 (m : List Byte) : List Byte := sponge 72 0x06 m 64

/-- SHAKE256 of a byte string: `n` bytes (spec/00 Table 0.6). (PRESUMED, log 77) -/
def shake256 (m : List Byte) (n : Nat) : List Byte := sponge 136 0x1F m n

/-! ### KMAC256 (SP 800-185) -/

/-- The bytes of a number, most significant first, at least one. -/
def beBytes (n : Nat) : List Byte :=
  let k := (List.range 8).foldl (fun k i => if 256 ^ (i + 1) ≤ n then i + 2 else k) 1
  (bytesLE k n).reverse

/-- left_encode. -/
def leftEncode (n : Nat) : List Byte := BitVec.ofNat 8 (beBytes n).length :: beBytes n
/-- right_encode. -/
def rightEncode (n : Nat) : List Byte := beBytes n ++ [BitVec.ofNat 8 (beBytes n).length]
/-- encode_string of a byte string. -/
def encodeString (m : List Byte) : List Byte := leftEncode (8 * m.length) ++ m
/-- bytepad to a multiple of `w` bytes. -/
def bytepad (m : List Byte) (w : Nat) : List Byte :=
  let x := leftEncode w ++ m
  x ++ List.replicate ((w - x.length % w) % w) 0

/-- KMAC256 with key, input, output length in bytes and customisation string (spec/16 R376, spec/17 R397, R400).
(PRESUMED, log 77) -/
def kmac256 (key m : List Byte) (n : Nat) (cust : List Byte) : List Byte :=
  let kmac : List Byte := [0x4B, 0x4D, 0x41, 0x43]
  sponge 136 0x04 (bytepad (encodeString kmac ++ encodeString cust) 136 ++ bytepad (encodeString key) 136 ++ m ++ rightEncode (8 * n)) n

end Sys2Proof.Machine
end

