-- ==== Sys2Proof/Machine/Keep.lean ====
section
/-! DEFINITION. Machine/Keep.lean: the sealed records of the keep store (spec/16 R389, Table 16.12), and the ends of sessions and
transactions, which every mode change, ebb and reset needs (spec/17 R402, R407, R412). -/

namespace Sys2Proof.Machine

/-! ### Seals (R389) -/

/-- SHA3-512 over the region label, the generation and the record. -/
def sealOf (label : List Byte) (gen : BitVec 64) (record : List Byte) : List Byte := sha3 (label ++ bytesLE 8 gen.toNat ++ record)

/-- The labels "KEEP-HDR", "KEEP-SNAP", "KEEP-JRNL" and "KEEP-KEYS". -/
def labelHdr : List Byte := [0x4B, 0x45, 0x45, 0x50, 0x2D, 0x48, 0x44, 0x52]
def labelSnap : List Byte := [0x4B, 0x45, 0x45, 0x50, 0x2D, 0x53, 0x4E, 0x41, 0x50]
def labelJrnl : List Byte := [0x4B, 0x45, 0x45, 0x50, 0x2D, 0x4A, 0x52, 0x4E, 0x4C]
def labelKeys : List Byte := [0x4B, 0x45, 0x45, 0x50, 0x2D, 0x4B, 0x45, 0x59, 0x53]

/-- The header's record, and its right seal. -/
def Keep.hdrBytes (k : Keep) : List Byte := Config.keepHeader k.hdrGen k.hdrLc k.transition
def Keep.hdrRight (k : Keep) : List Byte := sealOf labelHdr k.hdrGen k.hdrBytes

/-- The header is rewritten, a generation higher. -/
def Keep.putHdr (k : Keep) (lc : Byte) (transition : Bool) : Keep :=
  let k : Keep := { k with hdrGen := k.hdrGen + 1, hdrLc := lc, transition := transition }
  { k with hdrSeal := k.hdrRight }

/-- A pending-transition record, in a header whose seal matches (R391). -/
def Keep.pendingLc (k : Keep) : Bool := k.transition && decide (k.hdrSeal = k.hdrRight)

/-- The wrapped-keys record with these ciphertexts, a generation higher. -/
def Keep.putWrapped (k : Keep) (ws : List (Word × List Byte)) : Keep :=
  let g := k.wrapGen + 1
  { k with wrapGen := g, wrapped := ws, wrapSeal := sealOf labelKeys g (Config.wrappedRecord g ws) }

/-- The ciphertexts of a wrapped-keys record whose seal matches. -/
def Keep.wrappedKeys (k : Keep) : List (Word × List Byte) :=
  if k.wrapSeal = sealOf labelKeys k.wrapGen (Config.wrappedRecord k.wrapGen k.wrapped) then k.wrapped else []

/-- State codes of a journal entry (spec/18 Table 18.8). -/
def JState.code : JState → Nat
  | .applying => 1 | .applied => 2 | .undo => 3

/-- A journal entry's record and its right seal; its generation is its epoch. (DESIGN CHOICE, log 96) -/
def Journal.bytes (j : Journal) : List Byte :=
  Config.journalRecord j.st.code j.epoch j.new.bootSlot j.new.failslot.toList j.old.bootSlot j.old.failslot.toList
def Journal.right (j : Journal) : List Byte := sealOf labelJrnl j.epoch j.bytes

/-- A journal entry as it is written, its seal behind it. -/
def Journal.sealed (j : Journal) : Journal := { j with stored := j.right }

/-- The newest commit journal entry, where its seal matches: a torn entry counts as absent (R389, spec/17 R413). -/
def Keep.entry (k : Keep) : Option Journal :=
  match k.journal with
  | some j => if j.stored = j.right then some j else none
  | none => none

/-- The first 32,704 bytes of a snapshot slot (spec/18 Table 18.8). The 8 bytes of the journal tail hold the state in the first and
the low 7 bytes of the epoch behind it. (DESIGN CHOICE, log 96) -/
def Snapshot.bytes (p : Snapshot) : List Byte :=
  bytesLE 4 0x534E4150 ++ bytesLE 4 p.vlen.toNat ++ bytesLE 8 p.gen.toNat ++ bytesLE 8 p.f.toNat ++ bytesLE 8 p.epoch.toNat ++
  p.hash ++ p.assay ++ p.copyE ++ List.replicate (4096 - p.copyE.length) 0 ++ bytesLE 1 p.jstate.toNat ++ bytesLE 7 p.jepoch.toNat ++
  List.replicate 28440 0

/-- Its right seal (R389). -/
def Snapshot.seal (p : Snapshot) : List Byte := sealOf labelSnap p.gen p.bytes

/-- A snapshot slot, where its seal matches. -/
def Snapshot.valid (p : Option Snapshot) : Option Snapshot :=
  match p with
  | some x => if x.stored = x.seal then some x else none
  | none => none

/-- The newest valid snapshot, and whether it stands in slot B. -/
def Keep.newest (k : Keep) : Option (Snapshot × Bool) :=
  match Snapshot.valid k.snapA, Snapshot.valid k.snapB with
  | some a, some b => if a.gen.toNat < b.gen.toNat then some (b, true) else some (a, false)
  | some a, none => some (a, false)
  | none, some b => some (b, true)
  | none, none => none

/-- Write a snapshot and its seal to the slot that does not hold the newest (R389). -/
def Keep.putSnapshot (k : Keep) (p : Snapshot) : Keep :=
  match k.newest with
  | some (_, false) => { k with snapB := some { p with stored := p.seal } }
  | _ => { k with snapA := some { p with stored := p.seal } }

/-- That slot when the supply fails while it is written: torn, it holds no snapshot. -/
def Keep.tearSnapshot (k : Keep) : Keep :=
  match k.newest with
  | some (_, false) => { k with snapB := none }
  | _ => { k with snapA := none }

/-- The commit that was applied is in force whole: no routing epoch waits for its barrier, no bitstream slot loads, no pattern words wait for
a dispatch point. Its journal entry is then marked APPLIED (spec/17 R411, R413). -/
def State.settleCommit (s : State) : State :=
  match s.holm.keep.journal with
  | some j =>
    if j.st = .applying ∧ s.holm.txn.st = .applied ∧ s.net.epochLoaded = false ∧ s.shore.load.isNone ∧ s.arch.toList.all (fun x => x.mould.repl.isEmpty) then
      { s with holm := { s.holm with keep := { s.holm.keep with journal := some (Journal.sealed { j with st := .applied }) } } }
    else s
  | none => s

/-! ### Sessions and the transaction -/

/-- A session by its ID. -/
def State.session? (s : State) (id : Word) : Option Session := s.holm.sessions.find? (fun x => decide (x.id = id))

/-- Apply `f` to session `id`. -/
def State.modSession (s : State) (id : Word) (f : Session → Session) : State :=
  { s with holm := { s.holm with sessions := s.holm.sessions.map (fun x => if x.id = id then f x else x) } }

/-- The transaction is open; a refused commit leaves it so (spec/17 R410). -/
def Txn.isOpen (t : Txn) : Bool := decide (t.st = .opened) || decide (t.st = .refused)

/-- A transaction not yet accepted ends without effect. -/
def State.txnAbort (s : State) : State :=
  if s.holm.txn.isOpen then { s with holm := { s.holm with txn := { s.holm.txn with st := .none, writes := [], staged := 0 } } } else s

/-- The secret of session `id` is destroyed: the record is rewritten without it. -/
def State.dropSecret (s : State) (id : Word) : State :=
  { s with holm := { s.holm with keep := s.holm.keep.putWrapped (s.holm.keep.wrappedKeys.filter (fun x => decide (x.1 ≠ id))) } }

/-- Session `id` closes, its keys destroyed; a transaction of its own that is not accepted is aborted (spec/17 R402, R407). -/
def State.closeSession (s : State) (id : Word) : State :=
  let s := State.dropSecret (if s.holm.txn.owner = id then s.txnAbort else s) id
  { s with holm := { s.holm with sessions := s.holm.sessions.filter (fun x => decide (x.id ≠ id)) } }

/-- Every session closes. -/
def State.closeAll (s : State) : State := s.holm.sessions.foldl (fun t x => t.closeSession x.id) s

end Sys2Proof.Machine
end

