-- ==== Sys2Proof/Machine/Packets.lean ====
section
/-! DEFINITION. Machine/Packets.lean: the address map and who reaches what, the nodes of both networks, packet headers, the
statistics of initiators, and the injection of requests and responses (spec/01 R22, R24, R25, R30, R31, spec/13 R301, R302,
R304, R306, R312 to R315). -/

namespace Sys2Proof.Machine

/-! ### The address map (spec/01 Tables 1.5 and 1.9) -/

/-- The ranges of the address map. -/
inductive Area where
  | ownSram | sramWin (n : CoreId) | harbour | mailbox | regs | plane | word | none
deriving DecidableEq, Repr

/-- The range an address lies in. -/
def areaOf (addr : PAddr) : Area :=
  let a := addr.toNat
  if a < 0x40000 then .ownSram
  else if 0x10000000 ≤ a ∧ a < 0x10100000 then .sramWin (ix 4 (offsetFrom 0x10000000 a / 0x40000))
  else if 0x20000000 ≤ a ∧ a < 0x22000000 then .harbour
  else if 0x30000000 ≤ a ∧ a < 0x30010000 then .mailbox
  else if 0x40000000 ≤ a ∧ a < 0x50000000 then .regs
  else if 0x80000000 ≤ a ∧ a < 0x84000000 then .plane
  else if 0xC0000000 ≤ a ∧ a < 0xC4000000 then .word
  else .none

/-- The address lies in a PE-memory view. -/
def inView (addr : PAddr) : Bool := decide (areaOf addr = .plane) || decide (areaOf addr = .word)

/-- The SHORE block (spec/01 Table 1.8). -/
def inShore (addr : PAddr) : Bool := decide (0x40700000 ≤ addr.toNat ∧ addr.toNat < 0x40710000)

/-- Initiator `i` is a DMA channel (Table 13.5). -/
def isDma (i : Fin 32) : Bool := decide (5 ≤ i.val ∧ i.val ≤ 20)

/-- The initiator reaches the range (spec/01 Table 1.9). A core's own range is local and never travels. -/
def reaches (i : Fin 32) (user : Bool) (addr : PAddr) : Bool :=
  let core := decide (i.val < 4)
  let hc := decide (i.val = 4)
  match areaOf addr with
  | .ownSram => core
  | .sramWin _ => core || isDma i || hc
  | .harbour => core || isDma i || hc || decide (i.val = 21 ∨ i.val = 22 ∨ i.val = 23)
  | .mailbox => (core && !user) || hc
  | .regs => (core && !user) || hc || (decide (i.val = 23) && inShore addr)
  | .plane | .word => (core && !user) || hc || isDma i
  | .none => true

/-- What the initiator's own node answers instead of sending the request: DECERR outside every range, DENIED for reach. -/
def nodeCheck (r : Request) : Option Status :=
  if areaOf r.addr = .none then some .decerr
  else if !reaches r.src r.user r.addr then some .denied
  else none

/-- The archipelago and logical position a view address names (spec/01 R24, R25). -/
def viewTarget (addr : PAddr) : Arch × Fin 32 :=
  if addr.toNat < 0xC0000000 then
    let o := offsetFrom 0x80000000 addr.toNat
    (ix 8 (o / 0x800000), ix 32 (o / 0x40000 % 32))
  else
    let lin := offsetFrom 0xC0000000 addr.toNat / 0x400
    let row := lin / 256
    (ix 8 (row / 32), ix 32 (row % 32 / 16 * 16 + lin % 256 / 16))

/-! ### Shapes of requests -/

/-- Payload bytes a request carries. -/
def reqPayload : ReqOp → Nat
  | .read _ => 0
  | .write d => d.length
  | .atomic op _ => match op with | .add64 | .swap64 => 8 | _ => 4

/-- Bytes a request covers. -/
def reqLen : ReqOp → Nat
  | .read n => n
  | .write d => d.length
  | .atomic op _ => match op with | .add64 | .swap64 => 8 | _ => 4

/-- The payload itself. -/
def reqBytes : ReqOp → List Byte
  | .read _ => []
  | .write d => d
  | .atomic op v => bytesLE (reqPayload (.atomic op v)) v.toNat

/-- The request writes. -/
def reqWrites (op : ReqOp) : Bool := match op with | .read _ => false | _ => true

/-! ### Nodes (Table 13.2, spec/01 Table 1.8) -/

/-- The sound node of archipelago gateway `a`. -/
def gatewayNode (a : Arch) : Fin 16 := ix 16 (if a.val < 4 then a.val else a.val + 8)

/-- The archipelago whose gateway stands at sound node `n`. -/
def gatewayArch (n : Fin 16) : Option Arch := (List.finRange 8).find? (fun a => decide (gatewayNode a = n))

/-- The harbour node of bank `b`: banks 0 to 3 at node 0 of the harbour, and so on. -/
def bankNode (b : Nat) : Fin 16 := if b < 4 then 4 else if b < 8 then 7 else if b < 12 then 8 else 11

/-- The node at which a register block answers, by its offset from 0x4000_0000; the core complex where no block lies. -/
def regNode (o : Nat) : Fin 16 :=
  if o < 0x30000 then 9
  else if 0x100000 ≤ o ∧ o < 0x180000 then gatewayNode (ix 8 (offsetFrom 0x100000 o / 0x10000))
  else if 0x200000 ≤ o ∧ o < 0x308000 then gatewayNode (ix 8 (offsetFrom 0x200000 o / 0x21000))
  else if 0x400000 ≤ o ∧ o < 0x410000 then 6
  else if 0x410000 ≤ o ∧ o < 0x420000 then 10
  else if 0x420000 ≤ o ∧ o < 0x430000 then 6
  else if 0x510000 ≤ o ∧ o < 0x518000 then gatewayNode (ix 8 (offsetFrom 0x510000 o / 0x1000))
  else if 0x600000 ≤ o ∧ o < 0x610000 then 4
  else if 0x900000 ≤ o ∧ o < 0x910000 then 9
  else if 0xA00000 ≤ o ∧ o < 0xA10000 then 9
  else 5

/-- The sound node a request to `addr` goes to. -/
def targetNode (addr : PAddr) : Fin 16 :=
  match areaOf addr with
  | .harbour => bankNode (offsetFrom 0x20000000 addr.toNat / 0x200000)
  | .mailbox => 9
  | .regs => regNode (offsetFrom 0x40000000 addr.toNat)
  | .plane | .word => gatewayNode (viewTarget addr).1
  | .ownSram | .sramWin _ | .none => 5

/-- The sound node at which initiator `i` attaches (Table 13.5): cores, DMA and the control port at the core complex. -/
def srcNode (i : Fin 32) : Fin 16 :=
  if i.val = 4 then 9 else if i.val = 21 then 6 else if i.val = 22 then 10
  else if 24 ≤ i.val then gatewayNode (ix 8 (offsetFrom 24 i.val)) else 5

/-! ### Headers (Table 13.3) -/

def hVn (h : BitVec 128) : Nat := (fld h 0 2 : BitVec 2).toNat
def hType (h : BitVec 128) : Nat := (fld h 2 4 : BitVec 4).toNat
def hAge (h : BitVec 128) : Nat := (fld h 10 4 : BitVec 4).toNat
def hEpoch (h : BitVec 128) : Bool := h.getLsbD 14
def hDsn (h : BitVec 128) : Fin 16 := ix 16 (fld h 16 4 : BitVec 4).toNat
def hDlp (h : BitVec 128) : Nat := (fld h 20 6 : BitVec 6).toNat
def hSsn (h : BitVec 128) : Fin 16 := ix 16 (fld h 26 4 : BitVec 4).toNat
def hSlp (h : BitVec 128) : Nat := (fld h 30 6 : BitVec 6).toNat
def hSrc (h : BitVec 128) : Fin 32 := ix 32 (fld h 36 5 : BitVec 5).toNat
def hTag (h : BitVec 128) : Byte := fld h 41 8
def hLen (h : BitVec 128) : Nat := (fld h 49 9 : BitVec 9).toNat
def hAddr (h : BitVec 128) : PAddr := fld h 64 40

/-- One step of the CRC-8 with polynomial 0x07. -/
def crc8Bit (c : Byte) (b : Bool) : Byte := if c.getLsbD 7 != b then (c <<< 1) ^^^ 0x07 else c <<< 1

/-- HCHK over bits [119:0], bit 119 first, from an initial value of 0. (DESIGN CHOICE, log 52) -/
def hchk (h : BitVec 128) : Byte := (List.range 120).foldl (fun c i => crc8Bit c (h.getLsbD (119 - i))) 0

/-- The header with its HCHK recomputed. -/
def sealHeader (h : BitVec 128) : BitVec 128 := setFld h 120 8 (hchk h)

/-- The virtual network of a TYPE (Table 13.4); none for a reserved TYPE. -/
def vnOf (t : Nat) : Option Nat :=
  if t ≤ 2 then some 0 else if t ≤ 4 then some 1 else if t ≤ 6 then some 2 else if t ≤ 9 then some 3 else none

/-- A header a router accepts (R305). -/
def headerOk (h : BitVec 128) : Bool := decide ((fld h 120 8 : Byte) = hchk h) && decide (vnOf (hType h) = some (hVn h))

/-- A packet that is a request. -/
def hIsReq (h : BitVec 128) : Bool := decide (hType h ≤ 2)

/-- Where a packet comes from or goes to: a sound node and a lagoon position, 0x3F outside the lagoons. -/
structure End where
  node : Fin 16
  pos : Nat
deriving DecidableEq, Repr

/-- A header of TYPE `ty` with AGE 0. -/
def mkHeader (ty status : Nat) (epoch : Bool) (dst src : End) (id : Fin 32) (tag : Byte) (len op : Nat) (addr : PAddr) : BitVec 128 :=
  sealHeader (BitVec.ofNat 128 ((vnOf ty).getD 0 + ty * 2 ^ 2 + status * 2 ^ 6 + (if epoch then 2 ^ 14 else 0) + dst.node.val * 2 ^ 16
    + dst.pos * 2 ^ 20 + src.node.val * 2 ^ 26 + src.pos * 2 ^ 30 + id.val * 2 ^ 36 + tag.toNat * 2 ^ 41 + len * 2 ^ 49 + op * 2 ^ 58
    + addr.toNat * 2 ^ 64))

/-- TYPE and OP of a request: size codes of single accesses, 0x4 for a burst, the atomic codes. -/
def reqType : ReqOp → Nat
  | .read _ => 0 | .write _ => 1 | .atomic _ _ => 2
def reqCode (op : ReqOp) : Nat :=
  match op with
  | .atomic a _ => (match a with | .add32 => 8 | .add64 => 9 | .addS18 => 10 | .swap32 => 11 | .swap64 => 12)
  | _ => match reqLen op with | 1 => 0 | 2 => 1 | 4 => 2 | 8 => 3 | _ => 4

/-- LEN of a request: its payload, and for a burst read the bytes asked for. (DEDUCED, log 102) -/
def hdrLen (op : ReqOp) : Nat :=
  match op with
  | .read n => if reqCode op = 4 then n else 0
  | _ => reqPayload op

/-- The lagoon position a request is sent to: the gateway's, which sets the island's slot (R311), for a view; else none. -/
def reqDlp (addr : PAddr) : Nat := if inView addr then 34 else 0x3F

/-- The header of a request injected under epoch parity `epoch`. -/
def reqHeader (epoch : Bool) (r : Request) : BitVec 128 :=
  mkHeader (reqType r.op) 0 epoch { node := targetNode r.addr, pos := reqDlp r.addr } { node := srcNode r.src, pos := 0x3F } r.src r.tag
    (hdrLen r.op) (reqCode r.op) r.addr

/-- The AUX field of a STREAM packet: stream ID and ladle bank (Table 13.3). -/
def withAux (h : BitVec 128) (id : BitVec 12) (bank : Bool) : BitVec 128 :=
  sealHeader (setFld (setFld h 104 12 id) 116 1 (if bank then 1 else 0))

/-- Outside the lagoons. -/
def soundEnd (n : Fin 16) : End := { node := n, pos := 0x3F }

/-- The header of a fill of stream `id` for ladle bank `bank` of the island at slot `slot` of archipelago `a` (R304). -/
def fillHeader (epoch : Bool) (a : Arch) (slot : Nat) (id : BitVec 12) (bank : Bool) : BitVec 128 :=
  withAux (mkHeader 5 0 epoch { node := gatewayNode a, pos := slot } (soundEnd 6) 21 0 4 0 0) id bank

/-- The header of a loop-back word of the riser for stream `id`. -/
def loopHeader (epoch : Bool) (id : BitVec 12) : BitVec 128 :=
  withAux (mkHeader 5 0 epoch (soundEnd 6) (soundEnd 10) 22 0 4 0 0) id false

/-- The header of a posted write of `len` bytes to harbour by initiator `i`. -/
def pwrHeader (epoch : Bool) (i : Fin 32) (len : Nat) (addr : PAddr) : BitVec 128 :=
  mkHeader 6 0 epoch (soundEnd (targetNode addr)) (soundEnd (srcNode i)) i 0 len 0 addr

/-- The header of one word that the ladle at slot `slot` of `a` drains to the riser. The spec names no TYPE for it. (DESIGN CHOICE, log 52) -/
def drainHeader (epoch : Bool) (a : Arch) (slot : Nat) : BitVec 128 :=
  mkHeader 6 0 epoch (soundEnd 10) { node := gatewayNode a, pos := slot } (ix 32 (24 + a.val)) 0 4 0 0

/-- The header of an IRQ packet: the number travels in TAG. (DESIGN CHOICE, log 52) -/
def irqHeader (epoch : Bool) (i : Fin 32) (irq : Nat) : BitVec 128 :=
  mkHeader 8 0 epoch (soundEnd 5) (soundEnd (srcNode i)) i (BitVec.ofNat 8 irq) 0 0 0

/-- The header of a VITAL message of archipelago `a`'s sequencer to the Holm, with `len` bytes. -/
def vitalHeader (epoch : Bool) (a : Arch) (len : Nat) : BitVec 128 :=
  mkHeader 9 0 epoch (soundEnd 9) { node := gatewayNode a, pos := 33 } (ix 32 (24 + a.val)) 0 len 0 0

/-- Flits of a packet with `len` bytes of payload (R304). -/
def flits (at' : RouterId) (len : Nat) : Nat :=
  match at' with
  | .sound _ => (16 + len + 31) / 32
  | .lagoon _ _ => 1 + (len + 15) / 16

/-- Bytes of a flit. -/
def flitBytes : RouterId → Nat
  | .sound _ => 32
  | .lagoon _ _ => 16

/-- The flits of a packet as numbers: header, then payload, little-endian, zeros behind the last byte (R304). -/
def packetFlits (at' : RouterId) (h : BitVec 128) (payload : List Byte) : List Nat :=
  (List.range (flits at' payload.length)).map (fun k => natAt (bytesLE 16 h.toNat ++ payload) (flitBytes at' * k) (flitBytes at'))

/-- The codes of Table 13.6. -/
def Status.code : Status → Nat
  | .ok => 0 | .slverr => 1 | .decerr => 2 | .timeout => 3 | .domainOff => 4 | .collided => 5 | .eccUncorr => 6
  | .denied => 7

/-! ### Statistics (R315) -/

/-- The histogram bin of a latency. -/
def latBin (lat : Nat) : Nat := if lat < 32 then 0 else min 15 (lat.log2 - 4)

/-- Record the latency of an answered request of initiator `i`. (DESIGN CHOICE, log 53) -/
def State.recordLat (s : State) (i : Fin 32) (lat : BitVec 24) : State :=
  { s with net := { s.net with stat := vmod s.net.stat i (fun x => { x with
      maxLat := if x.maxLat.toNat < lat.toNat then lat else x.maxLat
      hist := vmod x.hist (ix 16 (latBin lat.toNat)) satInc }) } }

/-- Record a latency of which the model knows nothing (time is not modelled): a free value. -/
def State.noteLat (s : State) (i : Fin 32) : State :=
  { s.recordLat i (fld (Config.freeWord s.fresh) 0 24) with fresh := s.fresh + 1 }

/-- Count a synthesised TIMEOUT of initiator `i`: TOCNT, NETERR, latency LIMIT (R313, R315). -/
def State.noteTimeout (s : State) (i : Fin 32) : State :=
  let s := (s.netErr i).recordLat i ((s.net.tout[i]).setWidth 24)
  { s with net := { s.net with stat := vmod s.net.stat i (fun x => { x with toCnt := satInc x.toCnt }) } }

/-- Interrupt 17 of a timeout: at the issuing core for IDs 0 to 3, else at every core (R313). -/
def State.timeoutIrq (s : State) (src : Fin 32) : State := if src.val < 4 then s.raiseAt (ix 4 src.val) 17 else s.raiseAll 17

/-- A real response of initiator `i` comes after the synthesised one: it is discarded and counted (R313). -/
def State.countLate (s : State) (i : Fin 32) : State :=
  { s with net := { s.net with stat := vmod s.net.stat i (fun x => { x with lateCnt := satInc x.lateCnt }) } }

/-- Use up one packet of initiator `i` that a router has discarded (R305). -/
def State.useLost (s : State) (i : Fin 32) : State := { s with net := { s.net with lost := vmod s.net.lost i (fun n => n - 1) } }

/-- Use up one timeout of a request of initiator `i` that travels as no packet (R313). -/
def State.useExpired (s : State) (i : Fin 32) : State := { s with net := { s.net with expired := vmod s.net.expired i (fun n => n - 1) } }

/-- A posted packet under header `h` is injected and counted; whether it reaches its target: one that a router has discarded, its header
or payload being bad, does not (R305). (DESIGN CHOICE, log 52) -/
def State.sendPosted (s : State) (h : BitVec 128) : Bool × State :=
  let s := s.count (hSrc h) (hLen h)
  if s.net.lost[hSrc h] = 0 then (true, s) else (false, s.useLost (hSrc h))

/-- The domains fenced, a powered island being so until it is ready (R317). -/
def State.fenced (s : State) : BitVec 316 :=
  s.pwr.fence ||| bvOf 316 (fun d => decide (d < 264) && s.pwr.on.getLsbD d && !(s.isl[ix 264 d]).ready)

/-! ### Injection -/

/-- The packets of parity `EPOCH.PAR` are those injected now. -/
def State.parity (s : State) : Bool := s.net.epoch.getLsbD 0

/-- A packet is handed to its source interface. -/
def State.launch (s : State) (place : RouterId) (hdr : BitVec 128) (payload : List Byte) (msg : Msg) : State :=
  { s with net := { s.net with packets := s.net.packets ++
      [{ place := place, port := none, vc := false, hdr := hdr, payload := payload, poisoned := false, msg := msg, legs := [] }] } }

/-- A request leaves its initiator; what the initiator's own node answers never enters the network (R470). (DESIGN CHOICE, log 52) -/
def State.inject (s : State) (r : Request) : State :=
  let s := { s with net := { s.net with requests := s.net.requests ++ [r] } }
  if (nodeCheck r).isSome then s
  else (s.count r.src (reqPayload r.op)).launch (.sound (srcNode r.src)) (reqHeader s.parity r) (reqBytes r.op) (.req r)

/-- Add a response for an initiator. -/
def State.respond (s : State) (r : Response) : State :=
  { s with net := { s.net with responses := s.net.responses ++ [r] } }

/-- A response to an initiator other than a core that comes under a tag in quarantine is late: discarded and counted, and the
quarantine ends (R313). -/
def State.respondLate (s : State) (r : Response) : State :=
  if decide (4 ≤ r.dst.val) && s.net.quarantine.contains (r.dst, r.tag) then
    { s with net := { s.net with
        quarantine := s.net.quarantine.filter (fun q => decide (q ≠ (r.dst, r.tag)))
        stat := vmod s.net.stat r.dst (fun x => { x with lateCnt := satInc x.lateCnt }) } }
  else if r.dst = 23 then (s.respond r).noteLat 23
  else s.respond r

/-- The router at an end: an island's in its lagoon, else the sound node's. -/
def End.router (e : End) : RouterId :=
  match gatewayArch e.node with
  | some a => if e.pos < 36 then .lagoon a (ix 36 e.pos) else .sound e.node
  | none => .sound e.node

/-- Tags from here on are those of view accesses that DMA, walkers and the Holm wait for (log 51); far accesses of a core use 0
to 63. -/
def viewTag0 : Nat := 128

/-- A target at `src` answers request `r`: the response to a far access of a core travels as a packet. (DESIGN CHOICE, log 52) -/
def State.answerFrom (s : State) (src : End) (r : Request) (st : Status) (data : List Byte) : State :=
  let q : Response := { dst := r.src, tag := r.tag, status := st, data := data }
  let s := s.respondLate q
  if r.src.val < 4 ∧ r.tag.toNat < 64 then
    s.launch src.router (mkHeader (if reqWrites r.op && decide (reqType r.op = 1) then 4 else 3) st.code s.parity
      { node := srcNode r.src, pos := 0x3F } src r.src r.tag data.length 0 r.addr) data (.rsp q)
  else s

/-- Completion `c` of a record of archipelago `lead` is sent to its core: by the pour port where it refused the record, else by
the sequencer at lagoon position 33 (Tables 13.1, 13.5). -/
def State.sendCompl (s : State) (lead : Arch) (port : Bool) (c : Completion) : State :=
  let src : End := if port then { node := 5, pos := 0x3F } else { node := gatewayNode lead, pos := 33 }
  let id : Fin 32 := ix 32 (24 + lead.val)
  (s.count id 4).launch src.router (mkHeader 7 0 s.parity { node := 5, pos := 0x3F } src id (c.tag.setWidth 8) 4 0 0) (bytesLE 4 c.word.toNat)
    (.compl c)

/-- A message the model follows is still on its way. -/
def State.underway (s : State) (m : Msg) : Bool := s.net.packets.any (fun p => decide (p.msg = m))

end Sys2Proof.Machine
end

