-- ==== Sys2Proof/Machine/Caenater.lean ====
section
/-! DEFINITION. Machine/Caenater.lean: the pour record's fields, the completion word, and the contract data of the
Caenater entries that the dispatch checks use (spec/05 Tables 5.1, 5.3, 5.4, 5.7, 5.9). -/

namespace Sys2Proof.Machine

def PourRec.entry (r : PourRec) : A13 := fld r.bits 0 13
def PourRec.mask (r : PourRec) : BitVec 8 := fld r.bits 16 8
def PourRec.ret (r : PourRec) : Bool := r.bits.getLsbD 24
def PourRec.twin (r : PourRec) : Bool := r.bits.getLsbD 25
/-- ARG0 to ARG3, 13 bits each from bit 32. -/
def PourRec.arg (r : PourRec) (k : Nat) : A13 := fld r.bits (32 + 13 * k) 13
def PourRec.lit (r : PourRec) : BitVec 16 := fld r.bits 84 16
def PourRec.width (r : PourRec) : BitVec 8 := fld r.bits 100 8
/-- Some reserved bit of the record is 1 (spec/05 Table 5.1). -/
def PourRec.reservedSet (r : PourRec) : Bool :=
  decide ((fld r.bits 13 3 : BitVec 3) ≠ 0) || decide ((fld r.bits 26 6 : BitVec 6) ≠ 0) ||
  decide ((fld r.bits 108 20 : BitVec 20) ≠ 0)

/-- The lowest-numbered archipelago a mask names, 0 when it names none (spec/05 Table 5.4 LEAD). -/
def maskLead (m : BitVec 8) : Arch := ((List.finRange 8).find? (fun a => m.getLsbD a.val)).getD 0

def PourRec.lead (r : PourRec) : Arch := maskLead r.mask

/-- The completion word (spec/05 Table 5.4). -/
def complWord (r : PourRec) (status detail : Nat) (val : Option Nat) : Word :=
  BitVec.ofNat 32 (status * 2 ^ 28 + detail * 2 ^ 24 + r.lead.val * 2 ^ 21 +
    (match val with
     | none => 0
     | some v => 2 ^ 17 + min v (2 ^ 17 - 1)))

/-- Send the completion of record `r` to its core (spec/05 R133). -/
def State.complete (s : State) (r : PourRec) (status detail : Nat) (val : Option Nat) : State :=
  let c : Completion := { core := r.core, tag := r.tag, word := complWord r status detail val }
  ({ s with pour := { s.pour with compl := s.pour.compl ++ [c] } } : State).sendCompl r.lead (decide (status = 1)) c

/-- What the dispatch checks need of a vendor-area entry: its WIDTH range, whether the LIT fields are in range, and
the extents as (argument, planes). -/
structure CContract where
  wMin : Nat
  wMax : Nat
  litOk : Bool
  extents : List (Nat × Nat)
deriving DecidableEq, Repr

/-- Ceiling of the base-2 logarithm, for 1 to 64. -/
def clog2 (n : Nat) : Nat := ((List.range 7).find? (fun k => decide (n ≤ 2 ^ k))).getD 7

/-- The contract of a vendor-area entry for WIDTH `n` and literal `lit` (spec/05 Tables 5.7 and 5.9); a P-form is its
entry plus 0x0C00 (R138). An entry in neither table has none. (DESIGN CHOICE, log 27) -/
def caenater (entry n lit : Nat) : Option CContract :=
  let e := if 0x0C00 ≤ entry then offsetFrom 0x0C00 entry else entry
  let c (lo hi : Nat) (x : List (Nat × Nat)) : Option CContract := some { wMin := lo, wMax := hi, litOk := true, extents := x }
  let m := lit % 128
  let taps := lit % 32
  let r := lit / 256 % 64
  if e = 0x0040 ∨ e = 0x0048 ∨ e = 0x0078 ∨ e = 0x0080 ∨ e = 0x0088 ∨ e = 0x00B0 then c 1 64 [(0, n), (2, n)]
  else if e = 0x0050 ∨ e = 0x0058 ∨ e = 0x0060 ∨ e = 0x0068 ∨ e = 0x0070 ∨ e = 0x0090 ∨ e = 0x0098 then
    c 1 64 [(0, n), (1, n), (2, n)]
  else if e = 0x00A0 ∨ e = 0x00A8 then c 18 18 [(0, n), (1, n), (2, n)]
  else if e = 0x00B8 ∨ e = 0x00C0 ∨ e = 0x00C8 ∨ e = 0x00D0 ∨ e = 0x00D8 then c 1 64 [(0, n), (1, n)]
  else if e = 0x0100 ∨ e = 0x0140 then c 1 64 [(0, n), (1, n), (2, n)]
  else if e = 0x0180 ∨ e = 0x01C0 then
    some { wMin := 1, wMax := 64, litOk := decide (1 ≤ m ∧ m ≤ 64), extents := [(0, m), (1, n), (2, n + m)] }
  else if e = 0x0200 ∨ e = 0x0280 then c 1 64 [(0, n), (1, n), (2, n), (3, n)]
  else if 0x0300 ≤ e ∧ e ≤ 0x0378 ∧ e % 8 = 0 then c 1 64 [(0, n), (2, n)]
  else if 0x0380 ≤ e ∧ e ≤ 0x03B8 ∧ e % 8 = 0 then c 1 64 [(0, n)]
  else if e = 0x03C0 ∨ e = 0x03C8 ∨ e = 0x03D0 ∨ e = 0x03D8 then c 1 1 [(0, 1)]
  else if e = 0x0A80 ∨ e = 0x0A88 ∨ e = 0x0A90 then c 1 32 [(2, n)]
  else if e = 0x0A98 then c 1 32 [(0, n)]
  else if e = 0x0400 then c 18 18 [(0, 18), (1, 18), (2, 18), (3, 18)]
  else if e = 0x0500 ∨ e = 0x0508 then c 32 32 [(0, 32), (2, 18)]
  else if e = 0x0580 then
    some { wMin := 1, wMax := 64, litOk := decide (2 ≤ taps ∧ taps ≤ 18 ∧ r ≤ 40),
           extents := [(0, 18 * n), (1, taps * n), (2, 18)] }
  else if e = 0x0B00 ∨ e = 0x0B40 ∨ e = 0x0B80 ∨ e = 0x0BC0 then
    some { wMin := 1, wMax := 64, litOk := decide (2 ≤ taps ∧ taps ≤ 18 ∧ r ≤ 40),
           extents := [(0, 18), (1, taps * n), (2, 18)] }
  else if 0x0600 ≤ e ∧ e ≤ 0x07C0 ∧ e % 0x40 = 0 then c 18 18 [(0, 18), (2, 18 + lit)]
  else if e = 0x0800 ∨ e = 0x0880 then c 2 64 [(0, 18), (1, n), (2, 18 + clog2 n)]
  else if e = 0x0900 then c 18 18 [(0, 18), (1, 18), (2, 32)]
  else if e = 0x0980 ∨ e = 0x0A00 then c 18 18 [(0, 18)]
  else none

/-! ### The macro-ops -/

/-- The macro-ops of Tables 5.7 and 5.9; `arch` marks archipelago scope, `raster` raster fill, `east` the source side. -/
inductive MacroOp where
  | mov | logic (tt : BitVec 8) | sel
  | shl | shr | sar
  | add | sub | adds | subs | neg
  | cmp (signed writesK : Bool) | cmpeq
  | mul | mulw (signed : Bool) | div (signed : Bool)
  | nmov (d : Fin 4) (edge : BitVec 2)
  | extreme (least signed arch : Bool)
  | rdor (arch : Bool) | rdcnt (arch : Bool)
  | ldin (swaps waits : Bool) | ldout
  | atan2 | sinc3 (raster : Bool) | firt | firr (east raster : Bool) | rtap (minus east raster : Bool)
  | corr (raster : Bool) | unwrap | cfar (raster : Bool)
deriving DecidableEq, Repr

/-- The first address of a macro-op; a P-form's entry is 0x0C00 higher (R138). -/
def macroBase (entry : Nat) : Nat := if 0x0C00 ≤ entry then offsetFrom 0x0C00 entry else entry

/-- The macro-op of a vendor entry (Tables 5.7 and 5.9). -/
def macroOf (entry : Nat) : Option MacroOp :=
  let e := macroBase entry
  if 0x1800 ≤ entry then none
  else match e with
  | 0x0040 => some .mov | 0x0048 => some (.logic 0x0F) | 0x0050 => some (.logic 0xC0) | 0x0058 => some (.logic 0x30)
  | 0x0060 => some (.logic 0xFC) | 0x0068 => some (.logic 0x3C) | 0x0070 => some .sel
  | 0x0078 => some .shl | 0x0080 => some .shr | 0x0088 => some .sar
  | 0x0090 => some .add | 0x0098 => some .sub | 0x00A0 => some .adds | 0x00A8 => some .subs | 0x00B0 => some .neg
  | 0x00B8 => some (.cmp false false) | 0x00C0 => some (.cmp true false) | 0x00C8 => some (.cmp false true)
  | 0x00D0 => some (.cmp true true) | 0x00D8 => some .cmpeq
  | 0x0100 => some .mul | 0x0140 => some .mul | 0x0180 => some (.mulw false) | 0x01C0 => some (.mulw true)
  | 0x0200 => some (.div false) | 0x0280 => some (.div true)
  | 0x0380 => some (.extreme false false false) | 0x0388 => some (.extreme false true false)
  | 0x0390 => some (.extreme true false false) | 0x0398 => some (.extreme true true false)
  | 0x03A0 => some (.extreme false false true) | 0x03A8 => some (.extreme false true true)
  | 0x03B0 => some (.extreme true false true) | 0x03B8 => some (.extreme true true true)
  | 0x03C0 => some (.rdor false) | 0x03C8 => some (.rdcnt false) | 0x03D0 => some (.rdor true) | 0x03D8 => some (.rdcnt true)
  | 0x0A80 => some (.ldin false false) | 0x0A88 => some (.ldin true false) | 0x0A90 => some (.ldin false true)
  | 0x0A98 => some .ldout
  | 0x0400 => some .atan2 | 0x0500 => some (.sinc3 false) | 0x0508 => some (.sinc3 true) | 0x0580 => some .firt
  | 0x0B00 => some (.firr true false) | 0x0B40 => some (.firr true true)
  | 0x0B80 => some (.firr false false) | 0x0BC0 => some (.firr false true)
  | 0x0600 => some (.rtap false true false) | 0x0640 => some (.rtap false true true)
  | 0x0680 => some (.rtap false false false) | 0x06C0 => some (.rtap false false true)
  | 0x0700 => some (.rtap true true false) | 0x0740 => some (.rtap true true true)
  | 0x0780 => some (.rtap true false false) | 0x07C0 => some (.rtap true false true)
  | 0x0800 => some (.corr false) | 0x0880 => some (.corr true) | 0x0900 => some .unwrap
  | 0x0980 => some (.cfar false) | 0x0A00 => some (.cfar true)
  | _ =>
    if 0x0300 ≤ e ∧ e ≤ 0x0378 ∧ e % 8 = 0 then
      some (.nmov (ix 4 (offsetFrom 0x0300 e / 32)) (BitVec.ofNat 2 (offsetFrom 0x0300 e / 8)))
    else none

/-- Fields of LIT that entries read: m of the wide products and shifts, m and r of the FIR forms, G and alpha of CFAR. -/
def litShift (lit : Nat) : Nat := lit % 128
def litM (lit : Nat) : Nat := lit % 32
def litR (lit : Nat) : Nat := lit / 256 % 64
def litG (lit : Nat) : Nat := lit % 16
def litAlpha (lit : Nat) : Nat := lit / 16 % 256

/-- Cost in pour cycles, from the first microword to the one that posts (R140, Tables 5.7 and 5.9). -/
def MacroOp.cost (op : MacroOp) (n lit : Nat) : Nat :=
  match op with
  | .mov | .logic _ | .sel | .shl | .shr | .sar | .add | .sub | .neg | .ldin _ _ | .ldout => n + 2
  | .adds | .subs => 22
  | .cmp _ k => if k then n + 2 else n + 1
  | .cmpeq | .nmov _ _ => n + 1
  | .mul => n * (n + 1) + 4
  | .mulw _ => n * (litShift lit + 1) + 4
  | .div _ => n * (n + 3) + 6
  | .extreme _ _ a => if a then 7 * n else 10 * n
  | .rdor a => if a then 6 else 9
  | .rdcnt a => if a then 8 else 11
  | .atan2 => 1152
  | .sinc3 _ => 1686
  | .firt => n * (18 * (litM lit + 1) + 8) + 24
  | .firr _ _ => n * (18 * (litM lit + 1) + 27) + 24
  | .rtap _ _ _ => lit + 39
  | .corr _ => n * (18 + clog2 n + 19) + 2
  | .unwrap => 70
  | .cfar _ => 1052 + 46 * litG lit

/-! ### The dispatch checks -/

/-- Some plane of the extent, modulo 8,192, is a system plane (spec/05 Table 5.3 SUB 0x3). -/
def extentBad (start size : Nat) : Bool :=
  (List.range (min size 8192)).any (fun i => decide (7680 ≤ (start + i) % 8192))

/-- The check of Table 5.3 that record `r` fails first, in the order 0x1, 0x2, 0x6, 0x3, 0x4, 0x5. `entries` are the
declared entries, `members` the stream's members as a mask, `twinStream` a twin pair in vital use. -/
def recordCheck (r : PourRec) (entries : List A13) (members : BitVec 8) (twinStream : Bool) : Option Nat :=
  let n := r.width.toNat
  let con := if r.entry.toNat < 0x1800 then caenater r.entry.toNat n r.lit.toNat else none
  if !entries.contains r.entry then some 1
  else if con.any (fun c => decide (n < c.wMin) || decide (c.wMax < n)) then some 2
  else if con.any (fun c => !c.litOk) then some 6
  else if con.any (fun c => c.extents.any (fun x => extentBad (r.arg x.1).toNat x.2)) then some 3
  else if r.mask ≠ members then some 4
  else if r.twin != twinStream then some 5
  else none

end Sys2Proof.Machine
end

