-- ==== Sys2Proof/Machine/Array.lean ====
section
/-! DEFINITION. Machine/Array.lean: the processing elements of one island in one pour cycle, their memory with its
SECDED code, and NEWS transfers (spec/02, the dual transform of spec/06 R149). -/

namespace Sys2Proof.Machine

/-! ### Microword fields (spec/03 Table 3.2) -/

def mwTt (w : Micro) : BitVec 8 := fld w 0 8
def mwCt (w : Micro) : BitVec 8 := fld w 8 8
def mwCwe (w : Micro) : Bool := w.getLsbD 16
def mwAsel (w : Micro) : BitVec 3 := fld w 17 3
def mwBsel (w : Micro) : BitVec 3 := fld w 20 3
def mwAadr (w : Micro) : A13 := fld w 23 13
def mwAmod (w : Micro) : BitVec 3 := fld w 36 3
def mwBadr (w : Micro) : A13 := fld w 39 13
def mwBmod (w : Micro) : BitVec 3 := fld w 52 3
def mwWadr (w : Micro) : A13 := fld w 55 13
def mwWmod (w : Micro) : BitVec 3 := fld w 68 3
def mwWsrc (w : Micro) : BitVec 2 := fld w 71 2
def mwWcond (w : Micro) : BitVec 2 := fld w 73 2
def mwXld (w : Micro) : Bool := w.getLsbD 75
def mwYld (w : Micro) : Bool := w.getLsbD 76
def mwKop (w : Micro) : BitVec 2 := fld w 77 2
def mwNews (w : Micro) : BitVec 3 := fld w 79 3
def mwEdge (w : Micro) : BitVec 2 := fld w 82 2
def mwGor (w : Micro) : Bool := w.getLsbD 84
def mwGcnt (w : Micro) : Bool := w.getLsbD 85
def mwBit (w : Micro) : Bool := w.getLsbD 86
def mwLdl (w : Micro) : BitVec 3 := fld w 87 3
def mwTwx (w : Micro) : Bool := w.getLsbD 90
def mwNt (w : Micro) : Bool := w.getLsbD 91
def mwBasel (w : Micro) : BitVec 2 := fld w 92 2
def mwBaop (w : Micro) : BitVec 2 := fld w 94 2
def mwLcsel (w : Micro) : BitVec 2 := fld w 96 2
def mwLcop (w : Micro) : BitVec 2 := fld w 98 2
def mwCond (w : Micro) : BitVec 4 := fld w 100 4
def mwNxt (w : Micro) : BitVec 3 := fld w 104 3
def mwTgt (w : Micro) : A13 := fld w 107 13
def mwLit (w : Micro) : BitVec 16 := fld w 120 16
def mwMwsel (w : Micro) : BitVec 4 := fld w 136 4
def mwSpc (w : Micro) : BitVec 4 := fld w 140 4

/-- A reserved code in AMOD, BMOD, WMOD, NEWS, LDL, LCOP, SPC or MWSEL (also where the form does not use the field), in MWSEL of
MW4, or in LIT under SPC = 0b0101 (spec/03 R65, R70, R78, Table 3.10). -/
def mwReserved (w : Micro) : Bool :=
  decide (4 < (mwAmod w).toNat) || decide (4 < (mwBmod w).toNat) || decide (4 < (mwWmod w).toNat)
  || decide (5 < (mwNews w).toNat) || decide (4 < (mwLdl w).toNat) || decide (mwLcop w = 3)
  || decide (6 < (mwSpc w).toNat)
  || (mwMwsel w).getLsbD 3
  || (decide (mwNxt w = 5) && (mwMwsel w).getLsbD 2)
  || (decide (mwSpc w = 5) && (decide (fld (mwLit w) 8 2 = (3 : BitVec 2)) || decide (fld (mwLit w) 10 6 ≠ (0 : BitVec 6))))

/-- Effective plane address, modulo 8,192 (spec/02 R41). -/
def planeAddr (adr : A13) (mode : BitVec 3) (ba : Vector A13 4) : A13 :=
  if mode = 0 then adr else adr + ba[ix 4 (mode.toNat - 1)]

/-- A truth table over whole planes: bit i of the table serves index A * 4 + B * 2 + C = i (spec/02 R38). -/
def ttVec (tt : BitVec 8) (a b c : PeVec) : PeVec :=
  (List.range 8).foldl (fun acc i =>
    if tt.getLsbD i then
      acc ||| ((if i.testBit 2 then a else ~~~a) &&& (if i.testBit 1 then b else ~~~b) &&&
        (if i.testBit 0 then c else ~~~c))
    else acc) 0

/-- The dual of a truth table: bit i is the complement of bit 7 - i (spec/06 Table 6.1). -/
def dualTt (tt : BitVec 8) : BitVec 8 := bvOf 8 (fun i => !tt.getLsbD (7 - i))

/-- A selected operand; in the odd twin code 0b100 delivers the complement of BIT and code 0b111 delivers 1
(spec/03 Table 3.2 ASEL, spec/06 Table 6.1). -/
def operandVec (odd : Bool) (w : Micro) (sel : BitVec 3) (pa pb : PeVec) (i : IslSt) : PeVec :=
  if sel = 0 then pa
  else if sel = 1 then i.x
  else if sel = 2 then i.y
  else if sel = 3 then i.n
  else if sel = 4 then bmask 256 (mwBit w != odd)
  else if sel = 5 then i.k
  else if sel = 6 then pb
  else bmask 256 odd

/-! ### Cluster words (spec/02 R42) -/

/-- PE-in-island of PE j, in raster order, of cluster `cl` (spec/01 Table 1.1). -/
def clusterPe (cl j : Nat) : Nat := ((cl / 4) * 4 + j / 4) * 16 + (cl % 4) * 4 + j % 4

/-- The PEs of cluster `cl` as a mask. -/
def clusterMask (cl : Nat) : PeVec := (0xF000F000F000F : PeVec) <<< ((cl / 4) * 64 + (cl % 4) * 4)

/-- The six delta bits of cluster `cl`. -/
def clusterDelta (d : BitVec 96) (cl : Nat) : Nat := (fld d (6 * cl) 6 : BitVec 6).toNat

/-- What one read of a plane finds: the delivered bits, the corrections made, the clusters found uncorrectable. -/
structure PlaneRead where
  v : PeVec
  fixes : Nat
  bad : List Nat
deriving DecidableEq, Repr

/-- Read a plane: each cluster word is decoded (spec/02 R42, Table 2.3A). -/
def decodePlane (v : PeVec) (d : BitVec 96) : PlaneRead :=
  if d = 0 then { v := v, fixes := 0, bad := [] }
  else (List.range 16).foldl (fun r cl =>
    match eccDecode 16 5 (clusterDelta d cl) with
    | .clean => r
    | .bad => { r with bad := r.bad ++ [cl] }
    | .corrected none => { r with fixes := r.fixes + 1 }
    | .corrected (some j) =>
      { r with v := r.v ^^^ (1 <<< clusterPe cl j), fixes := r.fixes + 1 }) { v := v, fixes := 0, bad := [] }

/-- Record corrections and uncorrectable clusters of plane `p` in ICECNT, ISTAT.UE and IUEADDR (R42, R60 to R62). Of several
found in one pour cycle the first recorded is the one of port A, then port B, then the write half, and of one plane the lowest
cluster. (DESIGN CHOICE, log 92) -/
def IslSt.note (i : IslSt) (p : A13) (r : PlaneRead) : IslSt :=
  let i := { i with cecnt := satAdd i.cecnt r.fixes }
  match r.bad with
  | [] => i
  | cl :: _ =>
    if i.ueValid then { i with ue := true, tell := true }
    else { i with ue := true, tell := true, ueValid := true, uePlane := p, ueCluster := BitVec.ofNat 4 cl }

/-- The scratch planes of Caenater, first and count: bank 0, bank 1, and those of the twin-fault routine with the twin scratch
(spec/05 R138, spec/02 Table 2.4). -/
def scratchPlanes (b : Nat) : Nat × Nat := if b = 0 then (7690, 120) else if b = 1 then (7810, 120) else (7930, 134)

/-- Plane `p` lies in scratch region `b`. -/
def inScratch (b : Nat) (p : A13) : Bool :=
  decide ((scratchPlanes b).1 ≤ p.toNat) && decide (p.toNat < (scratchPlanes b).1 + (scratchPlanes b).2)

/-- What plane `p` holds where `mem` lists nothing: in a scratch region of Caenater (spec/05 R138) what its last routine left
there, a free value; else 0. -/
def IslSt.rest (i : IslSt) (p : A13) : PeVec :=
  match (if inScratch 0 p then i.junk0 else if inScratch 1 p then i.junk1 else if inScratch 2 p then i.junk2 else none) with
  | some d => Config.freePlane d p.toNat
  | none => 0

/-- The stored bits of a plane; `mem` lists them XOR `rest`. -/
def IslSt.raw (i : IslSt) (p : A13) : PeVec := SMap.get 0 i.mem p.toNat ^^^ i.rest p

/-- The check-bit delta of a plane. -/
def IslSt.rawDelta (i : IslSt) (p : A13) : BitVec 96 := SMap.get 0 i.delta p.toNat

/-- A corrected read of plane `p` on some port: delivered bits, uncorrectable clusters, island after counting. -/
def IslSt.readPlane (i : IslSt) (p : A13) : PlaneRead × IslSt :=
  let r := decodePlane (i.raw p) (i.rawDelta p)
  (r, i.note p r)

/-- Apply an armed one-shot injection to the delta stored for plane `p`, clusters `cls`: the check bits it names stand inverted,
those of a word marked uncorrectable too (spec/02 R42, R63). -/
def IslSt.inject (i : IslSt) (p : A13) (cls : List Nat) (d : BitVec 96) : BitVec 96 × IslSt :=
  if i.inj && decide (i.injPlane = p) && cls.contains i.injCl.toNat then
    (d ||| ((if i.injD then (3 : BitVec 96) else 1) <<< (6 * i.injCl.toNat)), { i with inj := false })
  else (d, i)

/-- Store a plane and its delta. -/
def IslSt.store (i : IslSt) (p : A13) (v : PeVec) (d : BitVec 96) : IslSt :=
  { i with mem := SMap.set 0 i.mem p.toNat (v ^^^ i.rest p), delta := SMap.set 0 i.delta p.toNat d }

/-- The delta that marks the listed clusters uncorrectable: check bits 0 and 1 inverted (spec/02 R42). -/
def markDelta (bad : List Nat) : BitVec 96 := bad.foldl (fun d cl => d ||| ((3 : BitVec 96) <<< (6 * cl))) 0

/-- A write of all 16 bits of every cluster word: check bits computed from the bits written; `bad` lists clusters a
tide copy stores marked (spec/02 R42). -/
def IslSt.writeWhole (i : IslSt) (p : A13) (v : PeVec) (bad : List Nat) : IslSt :=
  let (d, i) := i.inject p (List.range 16) (markDelta bad)
  i.store p v d

/-- A partial write: a read-modify-write of the clusters `cls`, storing `v` where `mask` is 1 (spec/02 R42). -/
def IslSt.writePartial (i : IslSt) (p : A13) (v mask : PeVec) (cls : List Nat) : IslSt :=
  let old := i.rawDelta p
  let r := decodePlane (i.raw p) (if cls.length = 16 then old
    else cls.foldl (fun acc cl => acc ||| (old &&& ((0x3F : BitVec 96) <<< (6 * cl)))) 0)
  let i := i.note p r
  let keep := cls.foldl (fun acc cl => acc &&& ~~~((0x3F : BitVec 96) <<< (6 * cl))) old
  let (d, i) := i.inject p cls (keep ||| markDelta r.bad)
  i.store p ((v &&& mask) ||| (r.v &&& ~~~mask)) d

/-- A Caenater routine has used scratch region `b`: its planes hold free values drawn by `d`. Whether the routine has written the
plane of an armed injection, which is then made (spec/02 R63), is open too. (DESIGN CHOICE, log 27) -/
def IslSt.scratch (i : IslSt) (b d : Nat) : IslSt :=
  let out {α : Type} (m : SMap α) : SMap α := m.filter (fun x => !inScratch b (BitVec.ofNat 13 x.1))
  let i := { i with
    mem := out i.mem, delta := out i.delta
    junk0 := if b = 0 then some d else i.junk0, junk1 := if b = 1 then some d else i.junk1, junk2 := if b = 2 then some d else i.junk2 }
  if inScratch b i.injPlane && Config.freeBit d then
    let (m, j) := i.inject i.injPlane (List.range 16) 0
    { j with delta := SMap.set 0 j.delta j.injPlane.toNat m }
  else i

/-! ### One pour cycle of one island (spec/02 R34 to R45, spec/06 R149) -/

/-- What a microword brings to an island: the word, whether the odd twin's transform applies, the effective
addresses, the plane NEWS delivers, the ladle plane of a plane-in and whether T captures. -/
structure PourIn where
  w : Micro
  odd : Bool
  pa : A13
  pb : A13
  pw : A13
  news : PeVec
  planeIn : Option PeVec
  twx : Bool
deriving DecidableEq, Repr

/-- K after KOP (spec/02 R39, spec/06 Table 6.1). -/
def kopVec (odd : Bool) (kop : BitVec 2) (k f : PeVec) : PeVec :=
  if kop = 0 then k
  else if kop = 1 then f
  else if kop = 2 then (if odd then k ||| f else k &&& f)
  else bmask 256 (!odd)

/-- The PEs a write reaches (spec/02 R39 WCOND, spec/06 Table 6.1). -/
def wcondMask (odd : Bool) (wc : BitVec 2) (k : PeVec) : PeVec :=
  if wc = 0 then 0
  else if wc = 2 then BitVec.allOnes 256
  else if (wc = 1) != odd then k else ~~~k

/-- What a pour cycle gives: F of the PEs, the bits the write port writes and where, and the island after it. -/
structure PourOut where
  f : PeVec
  data : PeVec
  mask : PeVec
  isl : IslSt
deriving DecidableEq, Repr

/-- The write port in one pour cycle: no write, a whole-word write, or a partial write where `mask` is 1 (R39, R42). -/
def IslSt.portWrite (i : IslSt) (pw : A13) (wc : BitVec 2) (data mask : PeVec) : IslSt :=
  if wc = 0 then i
  else if wc = 2 then i.writeWhole pw data []
  else i.writePartial pw data mask (List.range 16)

/-- What a pour cycle reads at ports A and B, for what it counts and reports (spec/02 R42). -/
def IslSt.portReads (i : IslSt) (q : PourIn) : IslSt :=
  let i := if mwAsel q.w = 0 ∨ mwBsel q.w = 0 then (i.readPlane q.pa).2 else i
  if mwAsel q.w = 6 ∨ mwBsel q.w = 6 then (i.readPlane q.pb).2 else i

/-- A shadowing reserve in its target's pour cycle: it reads its own memory and writes what its target writes (spec/02 R57,
spec/19 R438). -/
def IslSt.shadowPour (r : IslSt) (q : PourIn) (data mask : PeVec) : IslSt :=
  let r := (r.portReads q).portWrite q.pw (mwWcond q.w) data mask
  if q.twx && decide (mwWcond q.w = 0) then (r.readPlane q.pw).2 else r

/-- The island after one pour cycle, the F of its PEs and what it wrote: sample, compute, commit (spec/02 R34 to R37, R45).
(DEDUCED, log 17) -/
def IslSt.pour (i : IslSt) (q : PourIn) : PourOut :=
  let sa := mwAsel q.w
  let sb := mwBsel q.w
  let (ra, i1) := if sa = 0 ∨ sb = 0 then i.readPlane q.pa else ({ v := 0, fixes := 0, bad := [] }, i)
  let (rb, i2) := if sa = 6 ∨ sb = 6 then i1.readPlane q.pb else ({ v := 0, fixes := 0, bad := [] }, i1)
  let a := operandVec q.odd q.w sa ra.v rb.v i
  let b := operandVec q.odd q.w sb ra.v rb.v i
  let tt := if q.odd then dualTt (mwTt q.w) else mwTt q.w
  let ct := if q.odd then dualTt (mwCt q.w) else mwCt q.w
  let f := ttVec tt a b i.c
  let c' := if mwCwe q.w then ttVec ct a b i.c else i.c
  let n' := if mwNews q.w = 0 then i.n else q.news
  let k' := kopVec q.odd (mwKop q.w) i.k f
  let data := match q.planeIn with
    | some v => v
    | none =>
      if mwWsrc q.w = 0 then f else if mwWsrc q.w = 1 then c' else if mwWsrc q.w = 2 then n' else k'
  let wc := mwWcond q.w
  let mask := wcondMask q.odd wc i.k
  let i3 := i2.portWrite q.pw wc data mask
  let (rt, i4) := if q.twx then
      (if wc = 0 then i3.readPlane q.pw else (decodePlane (i3.raw q.pw) (i3.rawDelta q.pw), i3))
    else ({ v := i.t, fixes := 0, bad := [] }, i3)
  { f := f, data := data, mask := mask
    isl := { i4 with
      c := c', n := n', k := k',
      x := if mwXld q.w then f else i.x,
      y := if mwYld q.w then f else i.y,
      t := rt.v } }

/-- The PE registers at their logical start values: C, X, Y and N at 0 and K at 1, complemented in the odd twin
(spec/02 Table 2.1, spec/06 R148). -/
def IslSt.regStart (i : IslSt) (odd : Bool) : IslSt :=
  { i with c := bmask 256 odd, x := bmask 256 odd, y := bmask 256 odd, n := bmask 256 odd, k := bmask 256 (!odd) }

/-- A write of every plane: all 0, or all 1 where `one`. An injection armed for one of its words is made (spec/02 R42, R63). -/
def IslSt.fill (i : IslSt) (one : Bool) : IslSt :=
  let (d, j) := i.inject i.injPlane (List.range 16) 0
  { j with mem := if one then (List.range 8192).map (fun k => (k, BitVec.allOnes 256)) else [], junk0 := none, junk1 := none, junk2 := none
           delta := SMap.set 0 [] i.injPlane.toNat d }

/-- An island without power, and as it wakes: memory zero, registers at Table 2.1, ladle clear (spec/02 R56, spec/08 R211).
ICTRL lies in the archipelago-control domain and stays (spec/02 R59, R63). -/
def IslSt.wiped (i : IslSt) : IslSt :=
  { i with mem := [], delta := [], junk0 := none, junk1 := none, junk2 := none, c := 0, x := 0, y := 0, k := BitVec.allOnes 256, n := 0, t := 0,
           ladle := Ladle.cleared false, waiting := [] }

/-- An island as it enters vital use: every plane, ladle word and register at logical zero, K at logical one (spec/06 R148). -/
def IslSt.logicalZero (i : IslSt) (odd : Bool) : IslSt :=
  { ((i.fill odd).regStart odd) with ladle := Ladle.cleared odd }

/-! ### NEWS (spec/02 R46 to R49, spec/04 R118) -/

/-- Where the X arriving at a PE comes from. -/
inductive NewsSrc where
  | pe (row col : Nat)
  | fill
  | lattice (side : Fin 4) (bit : Nat)
deriving DecidableEq, Repr

/-- The source for PE (r, c) of a band whose first row is `rf` and last row `rl`, in direction 1 north, 2 east,
3 south, 4 west under EDGE (spec/02 Table 2.5 and R48, spec/04 Table 4.7). `lat`: lattice fill is active. -/
def newsSrc (dir : Nat) (edge : BitVec 2) (lat : Bool) (rf rl r c : Nat) : NewsSrc :=
  let out (side : Fin 4) (b : Nat) (torus raster : NewsSrc) : NewsSrc :=
    if edge = 0 then .fill
    else if edge = 1 then torus
    else if edge = 2 then raster
    else if lat then .lattice side b else .fill
  if dir = 1 then (if r = rf then out 0 c (.pe rl c) (.pe rl c) else .pe (r - 1) c)
  else if dir = 3 then (if r = rl then out 2 c (.pe rf c) (.pe rf c) else .pe (r + 1) c)
  else if dir = 2 then
    (if c = 255 then out 1 r (.pe r 0) (if r = rl then .pe rf 0 else .pe (r + 1) 0) else .pe r (c + 1))
  else (if c = 0 then out 3 r (.pe r 255) (if r = rf then .pe rl 255 else .pe (r - 1) 255) else .pe r (c - 1))

/-- X of the logical PE (row, col) (spec/01 R14). -/
def State.xBit (s : State) (row col : Nat) : Bool :=
  let a : Arch := ix 8 (row / 32)
  let p : Fin 32 := ix 32 (((row % 32) / 16) * 16 + col / 16)
  (s.isl[s.islAt a p]).x.getLsbD ((row % 16) * 16 + col % 16)

/-- The plane NEWS delivers to the island at position `p` of archipelago `a`; `edges` holds the neighbour devices'
planes by side and `odd` makes every fill a 1 (spec/06 Table 6.1). -/
def State.newsPlane (s : State) (a : Arch) (p : Fin 32) (w : Micro) (odd lat : Bool) (rf rl : Nat)
    (edges : Vector PeVec 4) : PeVec :=
  let d := (mwNews w).toNat
  if d = 0 then 0
  else if d = 5 then (s.isl[s.islAt a p]).x
  else bvOf 256 (fun i =>
    match newsSrc d (mwEdge w) lat rf rl (a.val * 32 + (p.val / 16) * 16 + i / 16) ((p.val % 16) * 16 + i % 16) with
    | .pe r c => s.xBit r c
    | .fill => odd
    | .lattice side b => (edges[side]).getLsbD b)

/-- The X plane of the device's edge on a side: bit i is the PE i from the west or north end (spec/08 R198). -/
def State.edgePlane (s : State) (side : Fin 4) : PeVec :=
  bvOf 256 (fun i =>
    if side = 0 then s.xBit 0 i else if side = 1 then s.xBit i 255 else if side = 2 then s.xBit 255 i
    else s.xBit i 0)

end Sys2Proof.Machine
end

