-- ==== Sys2Proof/Machine/Frames.lean ====
section
/-! DEFINITION. Machine/Frames.lean: the stream entry's fields, and the frames of a
stream: markers, de-interleaving, decimation, void and dropped frames, writeback (spec/08 R202 to R215). -/

namespace Sys2Proof.Machine

/-- The bank of a byte offset in harbour. -/
def bankOf (off : Nat) : Fin 16 := ix 16 (off / 0x200000)

/-- Store a list of whole words' bytes from word `w`. -/
def State.hPutBytes (s : State) (off : Nat) (bs : List Byte) : State :=
  { s with harbour := { s.harbour with
      mem := wrBytes 0 s.harbour.mem off bs
      delta := (List.range ((bs.length + 7) / 8)).foldl (fun d i => SMap.set 0 d (off / 8 + i) 0) s.harbour.delta } }

/-- The access touches VITALBUF (spec/06 R165). -/
def inVitalbuf (off len : Nat) : Bool := decide (0x1FFE000 < off + len)

/-- A write there is refused: PAIRS ≠ 0 and the writer is no VRISER context. -/
def State.vitalbufDenied (s : State) (vriser : Bool) (off len : Nat) : Bool :=
  decide (s.vital.par.pairs ≠ 0) && !vriser && inVitalbuf off len

/-- A write of the sprue to `bs.length` bytes of the stream table, posted: a closed bank drops it, and VITALBUF refuses it while pairs are
in vital use (spec/13 R314, spec/06 R165). -/
def State.tablePut (s : State) (off : Nat) (bs : List Byte) : State :=
  let (comes, t) := s.sendPosted (pwrHeader s.parity 21 bs.length (BitVec.ofNat 40 (0x20000000 + off)))
  if !comes then t
  else if s.domainOpen (288 + (bankOf off).val) && !s.vitalbufDenied false off bs.length then t.hPutBytes off bs
  else t.dropPosted 21

/-! ### Stream entry fields (spec/08 Table 8.9) -/

def Stream.bit (e : Stream) (k b : Nat) : Bool := (e.cfg[ix 10 k]).getLsbD b
def Stream.fieldN (e : Stream) (k lo w : Nat) : Nat := (fld e.cfg[ix 10 k] lo w : BitVec w).toNat
def Stream.vital (e : Stream) : Bool := e.bit 0 13
def Stream.barrier (e : Stream) : Bool := e.bit 0 14
def Stream.bank0 (e : Stream) : Bool := e.bit 0 15
def Stream.src (e : Stream) : Nat := e.fieldN 0 16 2
def Stream.srcsel (e : Stream) : Nat := e.fieldN 0 18 7
def Stream.fmt (e : Stream) : Nat := e.fieldN 0 25 3
def Stream.deint (e : Stream) : Nat := e.fieldN 0 28 2
def Stream.decim (e : Stream) : Nat := e.fieldN 0 30 2
def Stream.link (e : Stream) : Nat := e.fieldN 1 0 3
def Stream.conv (e : Stream) : Nat := e.fieldN 1 3 4
def Stream.mksrc (e : Stream) : Nat := e.fieldN 1 8 2
def Stream.trigNo (e : Stream) : Nat := e.fieldN 1 10 3
def Stream.mkdiv (e : Stream) : Nat := e.fieldN 1 16 16
def Stream.dstpe (e : Stream) : Nat := e.fieldN 2 0 16
/-- PEs per field, DSTCNT + 1. -/
def Stream.dstN (e : Stream) : Nat := e.fieldN 2 16 16 + 1
def Stream.fstride (e : Stream) : Nat := e.fieldN 3 0 16
def Stream.dsth (e : Stream) : Bool := e.bit 3 16
def Stream.xctx (e : Stream) : Nat := e.fieldN 3 17 4
/-- Fills per frame: SPF, or for 1-bit packed the stored bits / 32 - 1 plus 1. -/
def Stream.fills (e : Stream) : Nat := if e.fmt = 2 then e.fieldN 4 0 12 + 1 else e.fieldN 4 0 16
def Stream.hring (e : Stream) : Nat := e.fieldN 4 16 16
/-- FRAMELEN in words (1-bit packed: whole words of 32 bits, R207). -/
def Stream.frameWords (e : Stream) : Nat := if e.fmt = 2 then e.cfg[(5 : Fin 10)].toNat / 32 else e.cfg[(5 : Fin 10)].toNat
/-- SKIP in words. -/
def Stream.skipWords (e : Stream) : Nat := if e.fmt = 2 then e.cfg[(6 : Fin 10)].toNat / 32 else e.cfg[(6 : Fin 10)].toNat
def Stream.hva (e : Stream) : Nat := e.cfg[(7 : Fin 10)].toNat

/-- Linear PE index of PE-in-island `i` at position `p` of archipelago `a` (spec/01 R13, R14). -/
def linearPe (a p i : Nat) : Nat := (a * 32 + (p / 16) * 16 + i / 16) * 256 + (p % 16) * 16 + i % 16

/-- A field of the entry covers linear PE `x`. -/
def Stream.covers (e : Stream) (x : Nat) : Bool :=
  (List.range (e.deint + 1)).any (fun j =>
    decide (e.dstpe + j * e.fstride ≤ x) && decide (x < e.dstpe + j * e.fstride + e.dstN))

/-- Archipelago `a` is the odd twin of a pair in vital use (spec/06 R147). -/
def State.oddTwin (s : State) (a : Arch) : Bool := s.arch[a].seq.part.twin && decide (a.val % 2 = 1)

/-- The archipelago whose stream data archipelago `a` receives: its even twin for an odd twin (spec/08 R209). -/
def State.dataArch (s : State) (a : Arch) : Nat := if s.oddTwin a then a.val - 1 else a.val

def Ladle.bank (l : Ladle) (b : Bool) : Vector PeVec 32 := if b then l.bank1 else l.bank0
def Ladle.written (l : Ladle) (b : Bool) : PeVec := if b then l.written1 else l.written0
def Ladle.fillNo (l : Ladle) (b : Bool) : Nat := if b then l.fillNo1 else l.fillNo0

/-! ### The cache (R205) -/

/-- The cached copy of entry `id`. -/
def State.stream? (s : State) (id : BitVec 12) : Option Stream := s.sprue.cache.find? (fun e => decide (e.id = id))

/-- Apply `f` to the cached copy of entry `id`. -/
def State.modStream (s : State) (id : BitVec 12) (f : Stream → Stream) : State :=
  { s with sprue := { s.sprue with cache := s.sprue.cache.map (fun e => if e.id = id then f e else e) } }

/-- Fields of an entry. -/
def Stream.fields (e : Stream) : List (Fin 4) := (List.finRange 4).filter (fun j => decide (j.val ≤ e.deint))

/-- Words of one field delivered in one frame. -/
def Stream.total (e : Stream) : Nat := e.dstN * e.fills

/-- Byte offset of entry `id` in harbour; none where STREAMBASE lies outside harbour. -/
def State.entryOff (s : State) (id : BitVec 12) : Option Nat :=
  let a := s.sprue.streamBase.toNat * 0x40000 + 64 * id.toNat
  if 0x20000000 ≤ a ∧ a < 0x22000000 then some (offsetFrom 0x20000000 a) else none

/-- The bytes the sprue keeps at 0x28 to 0x3F (Table 8.9). -/
def Stream.kept (e : Stream) : List Byte :=
  bytesLE 4 e.seq.toNat ++ bytesLE 4 e.voidCnt.toNat ++ bytesLE 4 e.lastFrame.toNat ++
  bytesLE 4 (e.status.toNat + (if e.voidLast then 8 else 0)) ++ bytesLE 8 e.tstamp.toNat

/-- Write the kept bytes back (R202). -/
def State.writeBack (s : State) (id : BitVec 12) : State :=
  match s.stream? id, s.entryOff id with
  | some e, some off => s.tablePut (off + 0x28) e.kept
  | _, _ => s

/-! ### Frames (R207, R210, R213 to R215) -/

/-- The clear words that complete a void frame: every word not put yet, in order of fill. -/
def Stream.clearWords (e : Stream) : List SWord :=
  (List.range e.fills).flatMap (fun k => e.fields.flatMap (fun j =>
    ((List.range e.dstN).map (fun i => k * e.dstN + i)).filterMap (fun w =>
      if e.put[j] ≤ w then some { field := j, idx := w, fill := e.fillBase + k, frame := e.frames, word := 0 } else none)))

/-- End the frame in progress: dropped whole, void with STATUS `cause`, or delivered whole. -/
def Stream.endFrame (e : Stream) (cause : Option (BitVec 3)) : Stream :=
  let hold (st : BitVec 3) : BitVec 3 := if e.status = 4 then 4 else st
  let e := { e with inFrame := false, lastFrame := e.lastFrame + 1, frames := e.frames + 1 }
  if e.dropping then { e with status := hold 2, last := 2, voidLast := false }
  else match cause with
    | some st =>
      { e with status := hold st, last := st, voidLast := true, voidCnt := satInc e.voidCnt, fillBase := e.fillBase + e.fills
               waiting := e.waiting ++ ({ e with frames := e.frames - 1 } : Stream).clearWords }
    | none => { e with status := hold 0, last := 0, voidLast := false, fillBase := e.fillBase + e.fills }

/-- End the frame of entry `id`, report a void one, and write back (R213, R214, Table 8.10). -/
def State.frameEnd (s : State) (id : BitVec 12) (cause : Option (BitVec 3)) : State :=
  match s.stream? id with
  | none => s
  | some e =>
    if !e.inFrame then s
    else
      let cause := cause.or (if e.crcBad then some 3 else none)
      let t := s.modStream id (fun x => x.endFrame cause)
      let t := if cause.isSome && !e.dropping then
          { t with sprue := { t.sprue with void := true } }.event .sprueReport (bytesLE 2 id.toNat)
        else t
      t.writeBack id

/-- The bank that takes fill number `k`. -/
def Stream.bankOfFill (e : Stream) (k : Nat) : Bool := if k % 2 = 0 then e.bank0 else !e.bank0

/-- Archipelago, position and PE-in-island of a linear PE index. -/
def peSplit (x : Nat) : Arch × Fin 32 × Nat :=
  let row := x / 256
  let col := x % 256
  (ix 8 (row / 32), ix 32 (row % 32 / 16 * 16 + col / 16), row % 16 * 16 + col % 16)

/-- The bank of fill `k` is free at PE `x`: no word of an earlier fill stands there. -/
def State.bankFree (s : State) (e : Stream) (k x : Nat) : Bool :=
  let (a, p, i) := peSplit x
  !((s.isl[s.islAt a p]).ladle.written (e.bankOfFill k)).getLsbD i

/-- After an overrun delivery resumes at a marker with a free bank: nothing waits and the next fill's bank is free (R215). -/
def State.hasSpace (s : State) (e : Stream) : Bool := e.waiting.isEmpty && (e.dsth || s.bankFree e e.fillBase e.dstpe)

/-- The sprue reports data of entry `id` dropped by an overrun (R213, R215). -/
def State.overrunReport (s : State) (id : BitVec 12) : State :=
  ({ s with sprue := { s.sprue with ovr := true } } : State).event .sprueReport (bytesLE 2 id.toNat)

/-- Start a frame of entry `id` (R210), dropped whole where an overrun has left no free bank (R215). The time of the marker is a free
value. -/
def State.frameStart (s : State) (id : BitVec 12) : State :=
  let lost := match s.stream? id with | some e => e.dropped && !s.hasSpace e | none => false
  let s := if lost then s.overrunReport id else s
  let space := match s.stream? id with | some e => s.hasSpace e | none => false
  let t := s.modStream id (fun e => { e with
    inFrame := true, item := 0, got := Vector.replicate 4 0, put := Vector.replicate 4 0, decSum := Vector.replicate 4 0, decCnt := Vector.replicate 4 0
    crcBad := false, trig := false, tstamp := Config.freeWord64 s.fresh
    dropping := e.dropped && !space, dropped := e.dropped && !space })
  { t with fresh := s.fresh + 1 }

/-- A frame marker: a frame in progress is void with GAP, and a new one starts (R210). -/
def State.marker (s : State) (id : BitVec 12) : State := (s.frameEnd id (some 1)).frameStart id

/-- The stream's buffer would exceed 64 KiB: the rest of the frame is dropped (R215). Delivery goes on behind the last fill
some word of which has left the sprue. A paused stream keeps what waits (R216). -/
def Stream.overrun (e : Stream) : Stream :=
  if e.status = 4 then { e with dropping := true, dropped := true } else
  let mine := e.waiting.filter (fun w => decide (e.fillBase ≤ w.fill))
  let f0 := (mine.head?.map (fun w => w.fill)).getD e.fillBase
  let put := e.fields.foldl (fun n j => n + min e.dstN (e.got[j] - e.skipWords - (f0 - e.fillBase) * e.dstN)) 0
  let left := decide ((mine.filter (fun w => decide (w.fill = f0))).length < put)
  { e with waiting := e.waiting.filter (fun w => decide (w.fill < e.fillBase)), dropping := true, dropped := true
           fillBase := if left then f0 + 1 else f0 }

/-- The ladle word of a sample (R206). -/
def sampleWord (fmt : Nat) (v : Word) : Word :=
  if fmt = 0 then (fld v 6 18 : BitVec 18).signExtend 32
  else if fmt = 1 then ((fld v 0 16 : BitVec 16).signExtend 32) <<< 2
  else if fmt = 3 then v &&& 0xFF
  else v

/-- One output word of field `j`: skipped, delivered to the sprue's buffer, or discarded (R207 steps 3 to 5). -/
def Stream.output (e : Stream) (j : Fin 4) (v : Word) : Stream :=
  let i := e.got[j]
  let w := i - e.skipWords
  let e' := { e with got := vset e.got j (i + 1) }
  if e.skipWords ≤ i ∧ w < e.total ∧ e.dropping = false then
    { e' with put := vset e.put j (w + 1), waiting := e'.waiting ++ [{ field := j, idx := w, fill := e.fillBase + w / e.dstN, frame := e.frames, word := v }] }
  else e'

/-- One sample of field `j`, decimated (R207 step 2). -/
def Stream.sample (e : Stream) (j : Fin 4) (v : Word) : Stream :=
  if e.fmt = 2 ∨ e.decim = 0 then e.output j v
  else
    let sum := e.decSum[j] + v
    if e.decCnt[j] + 1 < 2 ^ e.decim then { e with decSum := vset e.decSum j sum, decCnt := vset e.decCnt j (e.decCnt[j] + 1) }
    else ({ e with decSum := vset e.decSum j 0, decCnt := vset e.decCnt j 0 } : Stream).output j (sum.sshiftRight e.decim)

/-- A sample of field `j` arrives at entry `id`: it is lost outside a frame; a frame ends with its FRAMELEN-th output of
every field, and under a count marker the next begins (R207, R210). -/
def State.feed (s : State) (id : BitVec 12) (j : Fin 4) (raw : Word) : State :=
  match s.stream? id with
  | none => s
  | some e =>
    if !e.inFrame then s
    else
      let e1 := e.sample j (sampleWord e.fmt raw)
      let ovf := decide (65536 < 4 * e1.waiting.length) && decide (e.waiting.length < e1.waiting.length)
      let e2 := if ovf then e1.overrun else e1
      let t := s.modStream id (fun _ => e2)
      let t := if ovf then t.overrunReport id else t
      if e2.fields.all (fun k => decide (e2.frameWords ≤ e2.got[k])) then
        let u := t.frameEnd id none
        if e2.mksrc = 1 then u.frameStart id else u
      else t

/-- The next word of a shore or loop-back channel: items go round the fields (R207 step 1). -/
def State.feedItem (s : State) (id : BitVec 12) (raw : Word) : State :=
  match s.stream? id with
  | none => s
  | some e =>
    (s.modStream id (fun x => { x with item := (e.item + 1) % (e.deint + 1) })).feed id (ix 4 e.item) raw

/-- Enabled entries with source SRC and SRCSEL. -/
def State.streamsOf (s : State) (src sel : Nat) : List (BitVec 12) :=
  (s.sprue.cache.filter (fun e => e.enabled && decide (e.src = src) && decide (e.srcsel = sel))).map (fun e => e.id)

end Sys2Proof.Machine
end

