-- ==== Sys2Proof/Machine/Ladle.lean ====
section
/-! DEFINITION. Machine/Ladle.lean: the ladles' banks, condition 13 and the frame barrier, the plane-outs of the riser
ring, and the access slots that serve PE views (spec/08 R211, R212, R217 to R222; spec/01 R24 to R29). -/

namespace Sys2Proof.Machine

/-- The enabled ladle entries. -/
def State.ladleEntries (s : State) : List Stream := s.sprue.cache.filter (fun e => e.enabled && !e.dsth)

/-- The words of the island at position `p` of `a` that enabled entries assign (spec/08 R211). -/
def State.coverMask (s : State) (a : Arch) (p : Fin 32) : PeVec :=
  let es := s.ladleEntries
  if es = [] then 0
  else bvOf 256 (fun i => es.any (fun e => e.covers (linearPe (s.dataArch a) p.val i)))

/-- The current bank of the island at position `p` is full (spec/08 R211). -/
def State.bankFull (s : State) (a : Arch) (p : Fin 32) : Bool :=
  let l := (s.isl[s.islAt a p]).ladle
  decide (s.coverMask a p &&& ~~~(l.written l.cur) = 0)

/-- Condition 13 of archipelago `a` (spec/08 R212). -/
def State.lfull (s : State) (a : Arch) : Bool := (List.finRange 32).all (s.bankFull a)

/-- The frame barrier of archipelago `a` is reached: condition 13 and every current bank touched by a BARRIER entry
holds fill 0 of a frame (spec/08 R212). -/
def State.frameBarrier (s : State) (a : Arch) : Bool :=
  s.lfull a && (List.finRange 32).all (fun p =>
    let l := (s.isl[s.islAt a p]).ladle
    let touched := s.ladleEntries.any (fun e => e.barrier &&
      (List.range 256).any (fun i => e.covers (linearPe (s.dataArch a) p.val i)))
    !touched || decide (l.fillNo l.cur = 0))

/-- Plane-in: bit r of every word of the current bank, and r advanced modulo 32 (spec/08 R211). -/
def Ladle.planeIn (l : Ladle) : PeVec × Ladle := ((l.bank l.cur)[ix 32 l.rd.toNat], { l with rd := l.rd + 1 })

/-- Bank swap: the other bank becomes current with r = 0; the former is cleared and freed (spec/08 R211). -/
def Ladle.swap (l : Ladle) (odd : Bool) : Ladle :=
  let z : Vector PeVec 32 := Vector.replicate 32 (bmask 256 odd)
  if l.cur then { l with cur := false, rd := 0, bank1 := z, written1 := 0, fillNo1 := 0 }
  else { l with cur := true, rd := 0, bank0 := z, written0 := 0, fillNo0 := 0 }

/-- Write the word of PE `i` in bank `b`, as fill number `k` of its frame; the odd twin's ladle stores the
complement (spec/06 R150). -/
def Ladle.putWord (l : Ladle) (b : Bool) (i k : Nat) (v : Word) (odd : Bool) : Ladle :=
  let m : PeVec := 1 <<< i
  let upd (q : Vector PeVec 32) : Vector PeVec 32 :=
    q.mapFinIdx (fun r x _ => if v.getLsbD r != odd then x ||| m else x &&& ~~~m)
  if b then { l with bank1 := upd l.bank1, written1 := l.written1 ||| m, fillNo1 := k }
  else { l with bank0 := upd l.bank0, written0 := l.written0 ||| m, fillNo0 := k }

/-! ### The riser ring (spec/08 R218, R222) -/

def RCtx.en (c : RCtx) : Bool := c.rc0.getLsbD 0
def RCtx.archNo (c : RCtx) : Nat := (fld c.rc0 1 3 : BitVec 3).toNat
/-- B, planes per word. -/
def RCtx.planesB (c : RCtx) : Nat := (fld c.rc0 4 5 : BitVec 5).toNat + 1
/-- G, word groups per ring turn. -/
def RCtx.groupsG (c : RCtx) : Nat := (fld c.rc0 9 10 : BitVec 10).toNat + 1
def RCtx.dest (c : RCtx) : Nat := (fld c.rc0 19 2 : BitVec 2).toNat
def RCtx.xctx (c : RCtx) : Nat := (fld c.rc0 21 4 : BitVec 4).toNat
def RCtx.ringNo (c : RCtx) : Nat := (fld c.rc0 25 2 : BitVec 2).toNat
def RCtx.pestart (c : RCtx) : Nat := (fld c.rc1 0 13 : BitVec 13).toNat
/-- PEs of the context, PECNT + 1. -/
def RCtx.peN (c : RCtx) : Nat := (fld c.rc1 16 13 : BitVec 13).toNat + 1

/-- The contexts of archipelago `a`'s ring, ordered by RING (spec/08 R218). -/
def State.ringCtxs (s : State) (a : Arch) : List (Fin 16) :=
  (List.range 4).flatMap (fun k => (List.finRange 16).filter (fun c =>
    let x := s.riser.ctx[c]
    x.en && decide (x.archNo = a.val) && decide (x.ringNo = k)))

/-- Apply `f` to the riser ring of `a`. -/
def State.modRing (s : State) (a : Arch) (f : RiserRing → RiserRing) : State :=
  s.modArch a (fun x => { x with ring := f x.ring })

/-- Count and report a lost word group of context `c`: LOSTCNT and RSTAT.LOST (spec/08 Table 8.10, R213); one of a VRISER context
fails the complement check of the frame (R222). -/
def State.groupLost (s : State) (c : Fin 16) : State :=
  ({ s with
    riser := { s.riser with lost := true, ctx := vmod s.riser.ctx c (fun x => { x with lostCnt := satInc x.lostCnt }) }
    vital := { s.vital with vrLost := s.vital.vrLost || s.vital.par.vriser.contains c } } : State).event .riserReport [BitVec.ofNat 8 c.val]

/-- A plane-out of every island of `a` (planes in order of position) enters the ring (spec/08 R218, R222). -/
def State.planeOut (s : State) (a : Arch) (fs : List (Isl × PeVec)) : State :=
  let ring := s.ringCtxs a
  let r := s.arch[a].ring
  match ring[r.pos % ring.length]? with
  | none => s
  | some c =>
    let x := s.riser.ctx[c]
    let busy := (if r.bank then r.drain1 else r.drain0).isSome
    let s := if busy then s else
      fs.foldl (fun t pf => t.modIsl pf.1 (fun i =>
        { i with ladle := (if r.bank then { i.ladle with out1 := vset i.ladle.out1 (ix 32 r.planes) pf.2 }
                           else { i.ladle with out0 := vset i.ladle.out0 (ix 32 r.planes) pf.2 }) })) s
    let lossy := r.lossy || busy
    if r.planes + 1 < x.planesB then s.modRing a (fun q => { q with planes := r.planes + 1, lossy := lossy })
    else
      let turnOver := decide (r.groups + 1 = x.groupsG)
      let g := r.nextGroup[c]
      let s := s.modRing a (fun q => { q with
        planes := 0, lossy := false, nextGroup := vset r.nextGroup c (g + 1),
        groups := if turnOver then 0 else r.groups + 1,
        pos := if turnOver then (r.pos + 1) % ring.length else r.pos })
      if lossy then s.groupLost c
      else s.modRing a (fun q =>
        let d : Drain := { ctx := c, group := g, rc0 := x.rc0, rc1 := x.rc1, rc2 := x.rc2 }
        if r.bank then { q with bank := false, drain1 := some d } else { q with bank := true, drain0 := some d })

/-- The frame marker of a framebar restart reaches the loop-back streams of context `c` (R219). -/
def State.loopMark (s : State) (c : Fin 16) : State :=
  (s.streamsOf 2 c.val).foldl (fun t id =>
    if (t.stream? id).any (fun e => decide (e.mksrc = 2)) then t.marker id else t) s

/-- Restart archipelago `a`'s ring at its first context; a partial word group is discarded, sets RSTAT.PART and is reported
(spec/08 R213, R218). A restart by framebar is counted in each context of the ring (R223). -/
def State.ringRestart (s : State) (a : Arch) (byFramebar : Bool) : State :=
  let cut := decide (s.arch[a].ring.planes ≠ 0)
  let s := s.modRing a (fun q => { q with
    pos := 0, planes := 0, groups := 0, lossy := false, nextGroup := Vector.replicate 16 0 })
  let s := if cut then ({ s with riser := { s.riser with part := true } } : State).event .riserReport [] else s
  if byFramebar then
    (s.ringCtxs a).foldl (fun t c =>
      let r := t.arch[a].ring
      let due := ([r.drain0, r.drain1].filter (fun d => d.any (fun x => decide (x.ctx = c)))).length
      let loop := decide ((t.riser.ctx[c]).dest = 3)
      let u : State := { t with riser := { t.riser with ctx := vmod t.riser.ctx c (fun x => { x with
        restarts := x.restarts + 1, markAfter := if loop then due else 0 }) } }
      if loop && decide (due = 0) then u.loopMark c else u) s
  else s

/-! ### View access slots (spec/01 R24 to R29, spec/02 R54) -/

/-- Plane view addresses lie below the word view's base 0x00_C000_0000 (spec/01 Table 1.5). -/
def viewIsPlane (r : Request) : Bool := decide (r.addr.toNat < 0xC0000000)

/-- Serve one slot of the first waiting view access of an island; a completed access gives its response. The bits
travel untransformed, also in an odd twin (spec/06 Table 6.1 LDL 0b011). A read slot decodes all 16 cluster words of the plane,
counts and reports what it finds in any, and answers ECC_UNCORR for the words of the addressed PEs only; a write slot touches
only their words. (DESIGN CHOICE, log 92) -/
def IslSt.viewSlot (i : IslSt) : IslSt × Option Response :=
  match i.waiting with
  | [] => (i, none)
  | v :: rest =>
    let off := v.req.addr.toNat
    if viewIsPlane v.req then
      let o := off % 0x40000
      let plane : A13 := BitVec.ofNat 13 (o / 32)
      let sh := (o % 32) * 8
      match v.req.op with
      | .read len =>
        let (r, i) := i.readPlane plane
        let cls := (List.range 16).filter (fun cl =>
          decide (clusterMask cl &&& ((bmask 256 true >>> (256 - 8 * len)) <<< sh) ≠ 0))
        let bad := r.bad.any (fun cl => cls.contains cl)
        ({ i with waiting := rest },
          some { dst := v.req.src, tag := v.req.tag, status := if bad then .eccUncorr else .ok,
                 data := bytesLE len (r.v >>> sh).toNat })
      | .write bs =>
        let mask : PeVec := (bmask 256 true >>> (256 - 8 * bs.length)) <<< sh
        let data : PeVec := BitVec.ofNat 256 (natLE bs) <<< sh
        let cls := (List.range 16).filter (fun cl => decide (clusterMask cl &&& mask ≠ 0))
        let i := i.writePartial plane data mask cls
        ({ i with waiting := rest },
          some { dst := v.req.src, tag := v.req.tag, status := .ok, data := [] })
      | .atomic _ _ =>
        ({ i with waiting := rest }, some { dst := v.req.src, tag := v.req.tag, status := .slverr, data := [] })
    else
      let o := offsetFrom 0xC0000000 off
      let lin := o / 0x400
      let pe := ((lin / 256) % 16) * 16 + (lin % 256) % 16
      let base := (o % 0x400) / 4 * 32
      let plane : A13 := BitVec.ofNat 13 (base + v.served)
      let cl := ((pe / 16) / 4) * 4 + (pe % 16) / 4
      let (i, bit, bad) := match v.req.op with
        | .write bs =>
          let b := (natLE bs).testBit v.served
          (i.writePartial plane (bmask 256 b) (1 <<< pe) [cl], false, false)
        | _ =>
          let (r, i) := i.readPlane plane
          (i, r.v.getLsbD pe, r.bad.contains cl)
      let v' := { v with served := v.served + 1, ue := v.ue || bad,
                         got := if bit then v.got ||| (1 <<< v.served) else v.got }
      if v'.served < 32 then ({ i with waiting := v' :: rest }, none)
      else match v.req.op with
        | .write _ => ({ i with waiting := rest }, some { dst := v.req.src, tag := v.req.tag, status := .ok, data := [] })
        | _ => ({ i with waiting := rest },
            some { dst := v.req.src, tag := v.req.tag, status := if v'.ue then .eccUncorr else .ok,
                   data := bytesLE 4 v'.got.toNat })

/-- The reserve island of `a` while it shadows its target (phases 2 and 3, ROLE 0x2): the reserve, the target's position
(spec/19 Table 19.1, R438). -/
def State.shadowPair (s : State) (a : Arch) : Option (Isl × Fin 32) :=
  let x := s.arch[a]
  if x.tide.phase = 2 ∨ x.tide.phase = 3 then
    ((List.finRange 32).find? (fun p => x.islmap[p] = x.tide.tslot)).map (fun p => (islOf a x.rslot.toNat, p))
  else none

/-- An island's memory as a tide copy stores it: corrected, with check bits computed anew, uncorrectable words marked
(spec/02 R42). -/
def IslSt.tideImage (i : IslSt) : IslSt :=
  i.delta.foldl (fun j kd =>
    let p : A13 := BitVec.ofNat 13 kd.1
    let r := decodePlane (i.raw p) kd.2
    j.store p r.v (markDelta r.bad)) i

/-- The ladle of the shadowing reserve is its target's: banks, read positions and out banks are copied when shadowing begins,
and what reaches the one reaches the other (spec/08 R209, spec/19 Table 19.1). -/
def State.mirror (s : State) (a : Arch) : State :=
  match s.shadowPair a with
  | none => s
  | some (R, p) =>
    let i := s.isl[s.islAt a p]
    s.modIsl R (fun r => { r with ladle := i.ladle })

/-- The tide copy of every plane into the reserve: whole-word writes of what the target's words deliver, marked where they are
uncorrectable; an injection armed at the reserve is made (spec/02 R42, R63, spec/19 R438). -/
def IslSt.takeCopy (r i : IslSt) : IslSt :=
  let m := i.tideImage
  let (d, r) := r.inject r.injPlane (List.range 16) (m.rawDelta r.injPlane)
  { r with mem := m.mem, junk0 := m.junk0, junk1 := m.junk1, junk2 := m.junk2, delta := SMap.set 0 m.delta r.injPlane.toNat d }

/-- Tell the uncorrectable errors found in archipelago `a`: interrupt 28 at every core and the island as the tide's
next target (spec/02 R42). Of several islands that name themselves before the next step the last one stands, and in one cycle
the one of the highest slot. (DESIGN CHOICE, log 92) -/
def State.tellUe (s : State) (a : Arch) : State :=
  (List.range 33).foldl (fun t slot =>
    let P := islOf a slot
    if (t.isl[P]).tell then
      ((t.modIsl P (fun i => { i with tell := false })).raiseAll 28).modArch a (fun x =>
        { x with tide := { x.tide with
            priority := some (BitVec.ofNat 6 slot)
            badCopy := x.tide.badCopy || (decide (x.tide.tslot.toNat = slot) && decide (x.tide.phase = 2 ∨ x.tide.phase = 3)) } })
    else t) s

/-- The front view access of `i` as the shadowing reserve takes it: a write goes to both islands (spec/01 R29). -/
def IslSt.alsoWrite (r i : IslSt) : IslSt :=
  match i.waiting with
  | v :: _ =>
    (match v.req.op with
     | .write _ => { ({ r with waiting := [v] } : IslSt).viewSlot.1 with waiting := r.waiting }
     | _ => r)
  | [] => r

/-- One ladle access slot in island `P` of archipelago `a`; an access that has been answered TIMEOUT gives no second answer (spec/01
R27). -/
def State.viewSlot1 (s : State) (a : Arch) (P : Isl) : State :=
  let i := s.isl[P]
  let (j, r) := i.viewSlot
  let s := match s.shadowPair a with
    | some (R, p) => if s.islAt a p = P then s.modIsl R (fun y => y.alsoWrite i) else s
    | none => s
  let s := s.modIsl P (fun _ => j)
  match r, i.waiting.head? with
  | some q, some v => if v.mute then s else s.answerFrom { node := gatewayNode a, pos := offsetFrom (33 * a.val) P.val } v.req q.status q.data
  | _, _ => s

/-- One ladle access slot in every island of archipelago `a` (spec/02 R54). -/
def State.viewSlots1 (s : State) (a : Arch) : State :=
  (((s.islands a).foldl (fun t P => t.viewSlot1 a P) s).tellUe a).mirror a

end Sys2Proof.Machine
end

