-- ==== Sys2Proof/Machine/Fabric.lean ====
section
/-! DEFINITION. Machine/Fabric.lean: the logic of the shore fabric: product terms, macrocells, routing segments with their registers,
clocks, and what one clock edge does (spec/15 R348 to R353). -/

namespace Sys2Proof.Machine

/-! ### The configured logic -/

/-- Wire `seg` of a track; a select field with no bit set drives it low (R353). -/
def wireAt (n : Netlist) (track : Nat) (seg : Fin 16) : FabWire := SMap.get { sel := [], reg := none } n.wires (16 * track + seg.val)

/-- Input `j` of function block `k`: the wire of its track in the segment that spans the block. -/
def fbInput (n : Netlist) (v : FabSrc → Bool) (k j : Nat) : Bool :=
  match SMap.get 0 n.inputs (54 * k + j) with
  | 0 => false
  | t + 1 => v (.wire t (ix 16 (k / 4)))

/-- Product term `t` of function block `k`: an AND of inputs and complements (Table 15.1). -/
def fbTerm (n : Netlist) (v : FabSrc → Bool) (k : Nat) (t : Fin 80) : Bool :=
  (SMap.get [] n.terms (80 * k + t.val)).all (fun x => fbInput n v k x.1.val != x.2)

/-- A macrocell the bitstream does not configure. -/
def mcellIdle : Mcell :=
  { terms := [], direct := 0, pol := false, bypass := false, toggle := false, clk := 7, falling := false, ce := none, set := none, rst := none }

/-- What reaches the flip-flop of macrocell `m`: the OR of its terms and the polarity; without terms one input (R349, R350). -/
def mcellIn (n : Netlist) (v : FabSrc → Bool) (m : Nat) (c : Mcell) : Bool :=
  if c.terms = [] then fbInput n v (m / 16) c.direct.val else c.terms.any (fbTerm n v (m / 16)) != c.pol

/-- A line from a hard block into the fabric: 0 is FBND, 1 + c the period strobe of cell c (R355, R357); the model knows no other.
(DESIGN CHOICE, log 98) -/
def Shore.hardLine (h : Shore) (k : Nat) : Option Bool :=
  if k = 0 then some h.fbnd else if k ≤ 224 then some (h.strobe.getLsbD (k - 1)) else none

/-- The value a source has, from the flip-flops, the segment registers, and what stands outside: cell inputs, other lines of hard blocks and
a loop through no register are free values (draw `d`). (DESIGN CHOICE, log 98) -/
def fabVal (n : Netlist) (h : Shore) (d : Nat) : Nat → FabSrc → Bool
  | 0, _ => (Config.freeByte d 65535).getLsbD 0
  | _ + 1, .cell c => (Config.freeByte d c.val).getLsbD 0
  | _ + 1, .hard k => (h.hardLine k).getD ((Config.freeByte d (224 + k)).getLsbD 0)
  | f + 1, .mcell m =>
    let c := SMap.get mcellIdle n.mcells m.val
    if c.bypass then mcellIn n (fabVal n h d f) m.val c else h.mcells.getLsbD m.val
  | f + 1, .wire t g =>
    let w := wireAt n t g
    match w.reg with
    | some _ => SMap.get false h.segs (16 * t + g.val)
    | none => w.sel.any (fabVal n h d f)

/-- Every source's value: no path without a loop is longer than its wires and macrocells. -/
def fabVals (n : Netlist) (h : Shore) (d : Nat) : FabSrc → Bool := fabVal n h d (n.wires.length + n.mcells.length + 2)

/-- What the fabric drives on line `k` into a hard block: 0 to 7 are UIRQ0 to UIRQ7; from 32 + 16 c on, of cell c, eight serialiser bits, output,
enable and five bits of the delay tap. One that nothing drives is low. (DESIGN CHOICE, log 98) -/
def lineVal (n : Netlist) (v : FabSrc → Bool) (k : Nat) : Bool := match SMap.get none n.lines k with | some x => v x | none => false

/-- A cell the bitstream leaves as it is. -/
def cellIdle : CellCfg :=
  { schmitt := false, drive := 0, pull := 0, serdes := false, delayOut := false, tap := 0, sigma := false, period := false, clk := 7, falling := false, filter := 0 }

/-- The settings of cell `c`. -/
def cellOf (b : Bitstream) (c : Nat) : CellCfg := SMap.get cellIdle b.cells c

/-- At most 12 sigma-delta cells in a bank (R354), CAN FD on engines 6 and 7 only (Table 15.5). (DEDUCED, log 75) -/
def cellResourceOk (b : Bitstream) : Bool :=
  (List.range 8).all (fun k => decide ((b.cells.filter (fun c => c.2.sigma && decide (c.1 / 28 = k))).length ≤ 12)) &&
  (List.finRange 8).all (fun e => (b.engines[e]).mode != 6 || decide (6 ≤ e.val))

/-- The quadrants whose function blocks, cells or engines a bitstream uses (R348, R370): function block k lies in quadrant k / 16, bank k and
engine k in quadrant k / 2. -/
def usedQuadrants (b : Bitstream) : BitVec 4 :=
  bvOf 4 (fun q =>
    b.net.mcells.any (fun m => decide (m.1 / 256 = q)) || b.net.inputs.any (fun j => decide (j.1 / 864 = q)) ||
    b.net.terms.any (fun t => decide (t.1 / 1280 = q)) || b.net.outs.any (fun o => decide (o.1 / 56 = q)) ||
    b.cells.any (fun c => decide (c.1 / 56 = q)) || (List.finRange 8).any (fun e => (b.engines[e]).mode != 0 && decide (e.val / 2 = q)))

/-- The body of a bitstream before its CRC-32C: the first 1,024 bytes, then 720 frames with their check words (Table 15.6). -/
def bitsBody (b : Bitstream) : List Byte :=
  b.raw ++ (List.range 720).flatMap (fun i =>
    let f := (SMap.get 0 b.frames i).toNat
    bytesLE 126 f ++ bytesLE 2 (eccCheck 1008 10 f))

/-- The CRC-32C field is that of the body. -/
def bitsCrcOk (b : Bitstream) : Bool := decide (b.crc = crc32c (bitsBody b))

/-- The header starts with the magic number and the format, the preset vector stands behind its 64 bytes, and the reserved bytes are zero
(Table 15.6). (DEDUCED, log 75) -/
def bitsWf (b : Bitstream) : Bool :=
  decide (b.raw.length = 1024) && decide (natAt b.raw 0 2 = 0x5348) && decide (natAt b.raw 2 1 = 1) && b.formatOk &&
  (List.finRange 224).all (fun c => decide (natAt b.raw (64 + 2 * c.val) 2 = (b.presets[c]).toNat))

/-- The checks of R349: no term in two macrocells, at most 16 in one, from groups m - 2 to m + 2; clock enable, set and reset are own
terms. -/
def netResourceOk (n : Netlist) : Bool :=
  n.mcells.all (fun (m, c) =>
    decide (m < 1024) && decide (c.terms.length ≤ 16) &&
    c.terms.all (fun t => decide (t.val / 5 ≤ m % 16 + 2) && decide (m % 16 ≤ t.val / 5 + 2)) &&
    [c.ce, c.set, c.rst].all (fun o => o.all (fun t => c.terms.contains t)) &&
    n.mcells.all (fun (m', c') => decide (m' = m) || decide (m' / 16 ≠ m / 16) || c.terms.all (fun t => !c'.terms.contains t)))

/-- No select field has more than one bit set (R353). -/
def netMuxOk (n : Netlist) : Bool := n.wires.all (fun w => decide (w.2.sel.length ≤ 1))

/-! ### Clocks (R351) -/

/-- The number of a clock source: FCK0-3, OSC0-3, the clock-capable cells, PCK. -/
def gckSrcCode : GckSrc → Nat
  | .fck k => k.val
  | .osc k => 4 + k.val
  | .cell b i => 8 + 2 * b.val + (if i then 1 else 0)

/-- The source of GCK `g`; GCK7 is PCK. -/
def gckCode (n : Netlist) (g : Fin 8) : Nat := if h : g.val < 7 then gckSrcCode n.gck[g.val] else 24

/-- Set and reset: set dominates reset, both dominate the clock (R350). -/
def mcellForce (n : Netlist) (v : FabSrc → Bool) (m : Nat) (c : Mcell) (q : Bool) : Bool :=
  let on (o : Option (Fin 80)) : Bool := o.any (fbTerm n v (m / 16))
  if on c.set then true else if on c.rst then false else q

/-- The flip-flop of macrocell `m` after an edge of clock source `src`. -/
def mcellEdge (n : Netlist) (v : FabSrc → Bool) (src : Nat) (falling : Bool) (m : Nat) (c : Mcell) (q : Bool) : Bool :=
  let enabled : Bool := match c.ce with | some t => fbTerm n v (m / 16) t | none => true
  let x := mcellIn n v m c
  let q := if gckCode n c.clk = src ∧ c.falling = falling ∧ enabled then (if c.toggle then q != x else x) else q
  mcellForce n v m c q

/-- The flip-flops, `f` giving those the bitstream configures. -/
def mcellsOf (n : Netlist) (q : BitVec 1024) (f : Nat → Mcell → Bool → Bool) : BitVec 1024 :=
  bvOf 1024 (fun m => match n.mcells.find? (fun e => decide (e.1 = m)) with | some (_, c) => f m c (q.getLsbD m) | none => q.getLsbD m)

/-- The registers at the ends of segments after an edge of clock source `src`: each takes its wire's value on the rising edge of its
clock, so that it adds one cycle of that clock to the path (R352). (DEDUCED, log 101) -/
def segsEdge (n : Netlist) (v : FabSrc → Bool) (src : Nat) (falling : Bool) (segs : SMap Bool) : SMap Bool :=
  n.wires.foldl (fun t w => match w.2.reg with
    | some g => if gckCode n g = src ∧ falling = false then SMap.set false t w.1 (w.2.sel.any v) else t
    | none => t) segs

/-- The registers of the cells after an edge of clock source `src`: a serialising cell takes its eight bits, output, enable and tap from the
fabric, and what it has received from its pin, a free value (R354, R372). (DESIGN CHOICE, log 98) -/
def Shore.cellEdge (h : Shore) (b : Bitstream) (v : FabSrc → Bool) (d src : Nat) (falling : Bool) : Shore :=
  let due (c : Nat) : Bool := decide (gckCode b.net (cellOf b c).clk = src) && (cellOf b c).falling == falling && !(cellOf b c).period
  let line (c j : Nat) : Bool := lineVal b.net v (32 + 16 * c + j)
  { h with
    regs := Vector.ofFn (fun (c : Fin 224) => if due c.val then
        bvOf 24 (fun j => if j < 8 then (cellOf b c.val).serdes && line c.val j
          else if j < 16 then (cellOf b c.val).serdes && (Config.freeByte d (1000 + c.val)).getLsbD (j - 8)
          else if j < 18 then line c.val (j - 8) else false)
      else h.regs[c])
    taps := Vector.ofFn (fun (c : Fin 224) =>
      if due c.val && (SMap.get none b.net.lines (32 + 16 * c.val + 10)).isSome then bvOf 5 (fun j => line c.val (10 + j)) else h.taps[c])
    strobe := bvOf 224 (fun c => h.strobe.getLsbD c && !decide (gckCode b.net (cellOf b c).clk = src))
    fbnd := h.fbnd && !(decide (src = 24) && !falling) }

/-- An FREF edge (FCK0) of polarity RELPOL: the pins go where they are due, and the release comes with the RELCNT-th one (R366). -/
def Shore.fref (h : Shore) (b : Bitstream) (src : Nat) (falling : Bool) (fn : Bool) : Shore :=
  if src = 0 ∧ falling = !b.relpol then
    let h := { h with pins := h.pinsNext.getD h.pins, pinsNext := none }
    if h.release ∧ h.st = 2 then
      if h.relLeft ≤ 1 then { h with gsr := false, st := 3, release := false, relLeft := 0, pinsNext := if fn then some .function else none }
      else { h with relLeft := h.relLeft - 1 }
    else h
  else h

/-- One edge of a clock source in the fabric; under GSR every flip-flop keeps its initial value (R350). Else
the cells' registers follow, and the lines UIRQ0 to UIRQ7 (R358). -/
def Shore.edge (h : Shore) (b : Bitstream) (d src : Nat) (falling : Bool) : Shore :=
  let v := fabVals b.net h d
  let segs := segsEdge b.net v src falling h.segs
  if h.gsr then { h with segs := segs, mcells := b.init }
  else
    let t : Shore := { h with segs := segs, mcells := mcellsOf b.net h.mcells (mcellEdge b.net v src falling) }
    let u := fabVals b.net t d
    let t : Shore := { t with mcells := mcellsOf b.net t.mcells (mcellForce b.net u) }
    let w := fabVals b.net t d
    { (t.cellEdge b v d src falling) with uirq := bvOf 8 (lineVal b.net w) }

/-- Serial engines that have sent the word at the head of their transmit FIFO since the last edge: which of them is a free value
(R361). -/
def Shore.sendTx (h : Shore) (d : Nat) : Shore :=
  { h with engine := Vector.ofFn (fun e => let g := h.engine[e]
      if g.mode ≠ 0 ∧ (Config.freeByte d 65534).getLsbD e.val then { g with tx := g.tx.tail } else g) }

/-- GSR is asserted: every flip-flop takes its initial value (R350). -/
def Shore.holdGsr (h : Shore) : Shore := { h with gsr := true, mcells := match h.bits with | some b => b.init | none => h.mcells }

/-- The level that cell `c` drives (none: high impedance or a weak pull): its preset, also where its quadrant is off (R370), or in function the
source the bitstream gives it, while its enable is not low (R364, R366, R371). -/
def State.pinLevel (s : State) (c : Fin 224) : Option Bool :=
  let preset : Option Bool :=
    let st : BitVec 3 := fld s.shore.latches[c] 0 3
    if st = 4 then some false else if st = 5 then some true else none
  match s.shore.pins with
  | .hiZ => none
  | .pullDown => none
  | .presets => preset
  | .function =>
    if !s.pwr.on.getLsbD (308 + c.val / 56) then preset
    else s.shore.bits.bind (fun b =>
      let v := fabVals b.net s.shore s.fresh
      if (SMap.get none b.net.lines (32 + 16 * c.val + 9)).any (fun x => !v x) then none
      else (SMap.get none b.net.outs c.val).map v)

end Sys2Proof.Machine
end

