-- ==== Sys2Proof/Machine/Modes.lean ====
section
/-! DEFINITION. Machine/Modes.lean: streams and groupings, the domains a mode powers, and which modes may follow one another
(spec/04 R116, R117, spec/18 R417, R421, R422). -/

namespace Sys2Proof.Machine

/-- The members of the stream that contains `a`, rising; none when `a` belongs to no stream. -/
def State.streamOf (s : State) (a : Arch) : List Arch :=
  let p := s.arch[a].seq.part
  if p.inStream then
    s.present.filter (fun b => (s.arch[b]).seq.part.inStream && decide ((s.arch[b]).seq.part.pid = p.pid))
  else []

/-- Codes of the modes (Table 18.3). -/
def Mode.code : Mode → Nat
  | .off => 0 | .ebb => 1 | .dormant => 2 | .boot => 3 | .provision => 4 | .configure => 5 | .sentinel => 6
  | .survey => 7 | .guard => 8 | .split => 9 | .service => 10 | .safeStop => 11

/-- The mode of a code. -/
def Mode.ofCode : Nat → Option Mode
  | 0 => some .off | 1 => some .ebb | 2 => some .dormant | 3 => some .boot | 4 => some .provision | 5 => some .configure
  | 6 => some .sentinel | 7 => some .survey | 8 => some .guard | 9 => some .split | 10 => some .service
  | 11 => some .safeStop | _ => none

/-- JESD204C transmit goes on in the mode (spec/07 Table 7.1). -/
def Mode.sendsJesd (m : Mode) : Bool := decide (m = .guard) || decide (m = .survey) || decide (m = .split) || decide (m = .sentinel)

/-- The domain's bit in a domain vector. -/
def domBit (d : Nat) : BitVec 316 := 1 <<< d

/-- The domains lo … lo + n - 1. -/
def domRange (lo n : Nat) : BitVec 316 := BitVec.ofNat 316 ((2 ^ n - 1) * 2 ^ lo)

/-- Domains fused off on the C grade (spec/00 R2). -/
def State.fused (s : State) : BitVec 316 := if s.gradeC then domRange 132 132 ||| domRange 268 4 else 0

/-- The permitted domains (R417). -/
def State.permitted (s : State) : BitVec 316 := s.pwr.perm &&& ~~~s.fused

/-- Archipelagos that are present and permitted. -/
def State.usable (s : State) : List Arch := s.present.filter (fun a => s.permitted.getLsbD (264 + a.val))

/-- Archipelagos of the vital pairs that are usable. -/
def State.pairsUsed (s : State) : List (List Arch) :=
  (List.range 4).filterMap (fun k =>
    let e : Arch := ix 8 (2 * k)
    let o : Arch := ix 8 (2 * k + 1)
    if s.vital.par.pairs.getLsbD k && s.usable.contains e && s.usable.contains o then some [e, o] else none)

/-- The pairs in vital use: those formed (spec/06 Table 6.11). -/
def State.pairsInUse (s : State) : BitVec 4 :=
  bvOf 4 (fun k => s.arch[ix 8 (2 * k)].seq.part.twin)

/-- The partitions of SPLIT over the usable archipelagos not in `used`. -/
def State.partitions (s : State) (used : List Arch) : List (List Arch × Bool) :=
  (List.range 8).filterMap (fun p =>
    let ms := s.usable.filter (fun a => decide ((s.holm.parts[a]).toNat = p) && !used.contains a)
    if ms.isEmpty then none else some (ms, false))

/-- The sentinel archipelago (R417). -/
def State.sentinelArch (s : State) : Arch := s.pwr.aS.toFin

/-- The streams of a mode, members and twin flag (spec/04 Table 4.6). SENTINEL runs its own archipelago as a stream, SERVICE
groups as SPLIT; the other modes have none. (DEDUCED, log 68) -/
def State.groups (s : State) (m : Mode) : List (List Arch × Bool) :=
  match m with
  | .survey => if s.usable.isEmpty then [] else [(s.usable, false)]
  | .guard => s.pairsUsed.map (fun p => (p, true)) ++ s.partitions s.pairsUsed.flatten
  | .split | .service => s.partitions []
  | .sentinel => if s.usable.contains s.sentinelArch then [([s.sentinelArch], false)] else []
  | _ => []

/-- The stream of `a` in mode `m`. -/
def State.groupOf (s : State) (m : Mode) (a : Arch) : List Arch × Bool :=
  ((s.groups m).find? (fun g => g.1.contains a)).getD ([], false)

/-- PART.LAT of `a` in mode `m`: SURVEY on a lattice member (spec/04 R125). -/
def State.latIn (s : State) (m : Mode) (a : Arch) : Bool :=
  decide (m = .survey) && s.latpos.getLsbD 0 && !(s.groupOf m a).1.isEmpty

/-- Entering mode `m` changes the grouping of `a`: its stream, or whether that is a twin pair or runs on the lattice. -/
def State.groupChanges (s : State) (m : Mode) (a : Arch) : Bool :=
  decide ((s.groupOf m a).1 ≠ s.streamOf a) || ((s.groupOf m a).2 != s.arch[a].seq.part.twin) ||
  (s.latIn m a != s.arch[a].seq.part.lat)

/-- The stream of `a` is being regrouped by the transition in progress (spec/05 Table 5.2, Table 5.5). -/
def State.regrouping (s : State) (a : Arch) : Bool :=
  match s.pwr.target with
  | some m => s.groupChanges m a
  | none => false

/-- The islands carrying logical positions in the listed archipelagos. -/
def State.islandBits (s : State) (as : List Arch) : BitVec 316 :=
  as.foldl (fun m a => (s.islands a).foldl (fun n P => n ||| domBit P.val) m) 0

/-- The quadrants the loaded bitstream uses (spec/15 R370). -/
def State.quadrants (s : State) : BitVec 316 :=
  match s.shore.bits with
  | some b => (usedQuadrants b).setWidth 316 <<< 308
  | none => 0

/-- The four lowest-numbered lanes with a role, which SENTINEL keeps. -/
def State.sentinelLanes (s : State) : List (Fin 16) :=
  ((List.finRange 16).filter (fun l => decide ((fld s.lanes[l].lcfg 0 3 : BitVec 3) ≠ 0))).take 4

/-- Domains that are not islands and not quadrants. -/
def domMain : BitVec 316 := domRange 264 44 ||| domRange 312 4

/-- The domains a mode powers (Table 18.3), within the permitted set. -/
def State.wanted (s : State) (m : Mode) : BitVec 316 :=
  let core := domRange 264 8 ||| domRange 288 16 ||| domRange 304 4 ||| domRange 312 4
  let all := match m with
    | .off => 0
    | .ebb => domBit 314 ||| domBit 315
    | .dormant => domBit 315
    | .boot | .provision => core ||| s.quadrants
    | .configure => domMain ||| s.quadrants
    | .sentinel =>
      domRange 264 8 ||| domRange 288 16 ||| domBit 304 ||| domRange 312 4 ||| s.quadrants |||
        s.islandBits ((s.groups .sentinel).flatMap (fun g => g.1)) |||
        s.sentinelLanes.foldl (fun b l => b ||| domBit (272 + l.val)) 0
    | .survey | .service => domMain ||| s.quadrants ||| s.islandBits s.present
    | .guard => domMain ||| s.quadrants ||| s.islandBits ((s.groups .guard).flatMap (fun g => g.1))
    | .split => domMain ||| s.quadrants ||| s.islandBits ((s.groups .split).flatMap (fun g => g.1))
    | .safeStop => s.pwr.on
  all &&& s.permitted

/-- The domains a mode keeps in retention (Table 18.3). -/
def Mode.keeps : Mode → BitVec 316
  | .dormant => domBit 314 ||| domRange 304 4 ||| domRange 264 8
  | .sentinel => domRange 305 3
  | _ => 0

/-- The modes MODE_SET moves between freely (Table 18.4). -/
def Mode.working (m : Mode) : Bool := decide (5 ≤ m.code) && decide (m.code ≤ 10)

/-- A MODE_SET from `m` may name `t` (Table 18.4). -/
def Mode.mayGo (m t : Mode) : Bool :=
  (m.working && t.working) || (decide (m = .sentinel) && decide (t = .dormant)) ||
  (decide (m = .safeStop) && (decide (t = .configure) || decide (t = .service))) ||
  ((m.working || decide (m = .provision)) && decide (t = .safeStop))

/-- The modes a life-cycle state permits (spec/16 Table 16.15). -/
def lcPermits (lc : Nat) (m : Mode) : Bool :=
  match lc with
  | 0 => decide (m = .boot) || decide (m = .provision)
  | 1 => decide (m ≠ .guard)
  | 2 => decide (m ≠ .provision)
  | 3 => decide (m = .boot) || decide (m = .service)
  | _ => decide (m = .boot)

/-- The shore pins are in function in a mode (spec/15 R366). -/
def Mode.pinsFunction (m : Mode) : Bool := decide (6 ≤ m.code) && decide (m.code ≤ 10)

/-- Frames run in GUARD with a pair in use. -/
def State.vitalUse (s : State) : Bool := decide (s.mode = .guard) && decide (s.vital.par.pairs ≠ 0)

end Sys2Proof.Machine
end

