-- ==== Sys2Proof/Machine/Sequencer.lean ====
section
/-! DEFINITION. Machine/Sequencer.lean: streams, conditions, the issue of one microword, dispatch, posts and sequencer
faults (spec/03 R64 to R91, spec/04 R116 to R119, spec/05 R131 to R135, spec/06 R149 to R156). -/

namespace Sys2Proof.Machine

/-! ### Streams (spec/04 R116 to R118) -/

/-- The lead of `a`'s stream: its lowest-numbered member (spec/05 R128); `a` itself outside every stream. -/
def State.leadOf (s : State) (a : Arch) : Arch := (s.streamOf a).headD a

/-- The stream's members as a record mask. -/
def maskOf (ms : List Arch) : BitVec 8 := ms.foldl (fun m a => m ||| (1 <<< a.val)) 0

/-- First and last row of the band of `a`: the maximal run of consecutive members around it; in a twin pair its own
32 rows (spec/04 Table 4.6). -/
def State.bandOf (s : State) (a : Arch) : Nat × Nat :=
  if s.arch[a].seq.part.twin then (a.val * 32, a.val * 32 + 31)
  else
    let ms := (s.streamOf a).map (fun b => b.val)
    let lo := ((List.range (a.val + 1)).find? (fun b => ((List.range (a.val + 1)).drop b).all ms.contains)).getD a.val
    let hi := (((List.range 8).drop a.val).takeWhile ms.contains).getLastD a.val
    (lo * 32, hi * 32 + 31)

/-- A trap slot is in use (spec/04 R108). -/
def Seq.inTrap (q : Seq) : Bool := q.slot0.isSome || q.slot1.isSome

/-- Lattice fill, lattice reductions and latbar act: SURVEY on a lattice member, outside trap routines
(spec/04 R118, PART.LAT). -/
def State.latOn (s : State) (lead : Arch) : Bool := s.arch[lead].seq.part.lat && !(s.arch[lead].seq.inTrap)

/-- The lane (false 14, true 15) of the neighbour on a side, where the lattice shape has one (spec/01 R20, R21). -/
def State.neighbour (s : State) (side : Fin 4) : Option Bool :=
  let en := s.latpos.getLsbD 0
  let horiz := s.latpos.getLsbD 1
  let vert := s.latpos.getLsbD 2
  let lcol := s.latpos.getLsbD 3
  let lrow := s.latpos.getLsbD 4
  if !en then none
  else if side = 0 then (if vert && lrow then some true else none)
  else if side = 2 then (if vert && !lrow then some true else none)
  else if side = 1 then (if horiz && !lcol then some false else none)
  else (if horiz && lcol then some false else none)

/-- The strait link on a lane serves the lattice: it is up and has not gone down since reset (spec/08 R201). -/
def State.latLink (s : State) (lane : Bool) : Bool :=
  let x := s.straits[if lane then (1 : Fin 2) else 0]
  x.up && !x.cut

/-- The lattice members of this device's shape, by number LROW * 2 + LCOL (spec/01 R21, spec/08 Table 8.7). -/
def State.members (s : State) : List (Fin 4) :=
  let horiz := s.latpos.getLsbD 1
  let vert := s.latpos.getLsbD 2
  (List.finRange 4).filter (fun m => (horiz || decide (m.val % 2 = (if s.latpos.getLsbD 3 then 1 else 0))) &&
    (vert || decide (m.val / 2 = (if s.latpos.getLsbD 4 then 1 else 0))))

/-- This device's member number. -/
def State.self (s : State) : Fin 4 :=
  ix 4 ((if s.latpos.getLsbD 4 then 2 else 0) + (if s.latpos.getLsbD 3 then 1 else 0))

/-! ### Conditions (spec/03 R70, R73) -/

/-- The loop counters after this microword's LCOP (spec/03 R66, Table 3.3). -/
def lcAfter (w : Micro) (lc : Vector (BitVec 16) 4) : Vector (BitVec 16) 4 :=
  let k : Fin 4 := ix 4 (mwLcsel w).toNat
  if mwLcop w = 1 then vset lc k (mwLit w) else if mwLcop w = 2 then vset lc k (lc[k] - 1) else lc

/-- The bit addresses after this microword's BAOP. -/
def baAfter (w : Micro) (ba : Vector A13 4) : Vector A13 4 :=
  let k : Fin 4 := ix 4 (mwBasel w).toNat
  if mwBaop w = 1 then vset ba k (ba[k] + 1)
  else if mwBaop w = 2 then vset ba k (ba[k] - 1)
  else if mwBaop w = 3 then vset ba k (fld (mwLit w) 0 13)
  else ba

/-- The OR result a sequencer uses: complemented in the odd twin (spec/06 R151). -/
def State.orUsed (s : State) (a lead : Arch) (device : Bool) : Bool :=
  let r := s.arch[a].seq.ctx.red
  (if device then (if s.latOn lead then r.orL else r.orD) else r.orA) != s.oddTwin a

/-- The count at device, partition or lattice scope (spec/02 R51). -/
def State.cntUsed (s : State) (a lead : Arch) : Nat :=
  let r := s.arch[a].seq.ctx.red
  if s.latOn lead then r.cntL.toNat else r.cntD.toNat

/-- Condition `code` as the sequencer of `a` sees it in microword `w` (spec/03 Table 3.5). (DEDUCED, log 24) -/
def State.cond (s : State) (a lead : Arch) (w : Micro) (code : Nat) : Bool :=
  let q := s.arch[a].seq
  if code = 0 then true
  else if code = 1 then false
  else if code ≤ 5 then decide ((lcAfter w q.ctx.lc)[ix 4 (code - 2)] ≠ 0)
  else if code = 6 then s.orUsed a lead false
  else if code = 7 then s.orUsed a lead true
  else if code = 8 then decide ((mwLit w).toNat ≤ s.cntUsed a lead)
  else if code ≤ 12 then q.ctx.uf.getLsbD (code - 9)
  else if code = 13 then s.lfull a
  else if code = 14 then (s.arch[lead]).seq.queue.isEmpty
  else (s.arch[a]).twin.pend

/-- The condition codes a microword samples (spec/03 R70, R73). -/
def sampled (w : Micro) : List Nat :=
  let n := mwNxt w
  let g := (mwMwsel w).toNat % 4
  let h := (mwMwsel w).toNat / 4 % 2
  if n = 1 ∨ n = 2 ∨ n = 3 ∨ n = 7 then [(mwCond w).toNat]
  else if n = 4 then [4 * g + 2 * h, 4 * g + 2 * h + 1]
  else if n = 5 then [4 * g, 4 * g + 1, 4 * g + 2, 4 * g + 3]
  else []

/-- Where a microword goes next (spec/03 Table 3.4). -/
inductive Next where
  | goto (pc : A13)
  | call (pc ret : A13)
  | pop
  | dispatch
  | wait (pc : A13)
deriving DecidableEq, Repr

/-- The next address form a microword selects at `pc` (spec/03 R68, R70). -/
def State.nextOf (s : State) (a lead : Arch) (w : Micro) (pc : A13) : Next :=
  let n := mwNxt w
  let c := s.cond a lead w (mwCond w).toNat
  let bits := ((sampled w).zipIdx).foldl (fun (acc : A13) ki => if s.cond a lead w ki.1 then acc ||| (1 <<< ki.2) else acc) 0
  if n = 0 then .goto (pc + 1)
  else if n = 1 then .goto (if c then mwTgt w else pc + 1)
  else if n = 2 then (if c then .call (mwTgt w) (pc + 1) else .goto (pc + 1))
  else if n = 3 then (if c then .pop else .goto (pc + 1))
  else if n = 4 ∨ n = 5 then .goto (mwTgt w ||| bits)
  else if n = 6 then .dispatch
  else .wait (pc + 1)

/-! ### Posts (spec/03 R76, spec/05 R133, R134) -/

/-- The value a post of record `r` with literal `lit` carries, and the result it waits for; none without a value. -/
def postWants (r : PourRec) (lit : BitVec 16) : Option RedResult :=
  if r.ret && !(lit.getLsbD 1) then
    some (if lit.getLsbD 0 then (if lit.getLsbD 2 then .cntArch else .cntDev)
          else (if lit.getLsbD 2 then .orArch else .orDev))
  else none

/-- A reduction result as a raw value of archipelago `a`. -/
def State.redValue (s : State) (a lead : Arch) (w : RedResult) : Nat :=
  let r := s.arch[a].seq.ctx.red
  match w with
  | .orArch => if r.orA then 1 else 0
  | .cntArch => r.cntA.toNat
  | .orDev => if (if s.latOn lead then r.orL else r.orD) then 1 else 0
  | .cntDev => s.cntUsed a lead

/-- The result is not usable yet. -/
def RedSet.pending (r : RedSet) : RedResult → Bool
  | .orArch => r.pendOrA
  | .cntArch => r.pendCntA
  | .orDev => r.pendOrD
  | .cntDev => r.pendCntD

/-- The reduction results a microword waits for (spec/02 R52, spec/03 R76, R79). -/
def State.wants (s : State) (lead : Arch) (w : Micro) : List RedResult :=
  (sampled w).filterMap (fun c => if c = 6 then some .orArch else if c = 7 then some .orDev
    else if c = 8 then some .cntDev else none) ++
  (if mwSpc w = 5 then
     (if (fld (mwLit w) 8 2 : BitVec 2) = 1 then [.orArch] else if (fld (mwLit w) 8 2 : BitVec 2) = 2 then [.orDev] else [])
   else if mwSpc w = 2 then
     (match (s.arch[lead]).seq.ctx.cur with
      | some r => if (s.arch[lead]).seq.ctx.posted then [] else (postWants r (mwLit w)).toList
      | none => [])
   else [])

/-- Record a mismatch of the twin compare, detected later (spec/06 Table 6.2 step 1). -/
def State.twinFound (s : State) (ms : List Arch) (m : Mismatch) : State :=
  s.eachArch ms (fun t a => t.modTwin a (fun x => { x with found := x.found ++ [m] }))

/-- The value of the current record has failed the twin compare: it is not completed before the reaction (spec/05 R134). -/
def State.setFailed (s : State) (ms : List Arch) : State :=
  s.modSeqs ms (fun q => { q with ctx := { q.ctx with failed := true } })

/-- Mark the current record posted in every member. -/
def State.setPosted (s : State) (ms : List Arch) : State :=
  s.modSeqs ms (fun q => { q with ctx := { q.ctx with posted := true } })

/-- The twins of a pair do not share the value of result `k` as R134 asks: the OR its complement, the count equal. -/
def State.valueDiffers (s : State) (lead : Arch) (ms : List Arch) (k : RedResult) : Bool :=
  let v := s.redValue lead lead k
  match ms with
  | [e, o] =>
    (s.arch[e]).seq.part.twin &&
      (match k with
       | .orArch | .orDev => decide (s.redValue o lead k ≠ 1 - v)
       | .cntArch | .cntDev => decide (s.redValue o lead k ≠ v))
  | _ => false

/-- Post the completion of the current record, with a value where `w` names a result; in a twin pair a value that the
twins do not share as R134 asks is a VALUE mismatch and no completion is sent. -/
def State.post (s : State) (lead : Arch) (ms : List Arch) (w : Option RedResult) : State :=
  let q := (s.arch[lead]).seq
  match q.ctx.cur with
  | none => s
  | some r =>
    if q.ctx.posted || q.ctx.failed then s
    else match w with
      | none => (s.complete r 0 0 none).setPosted ms
      | some k =>
        if s.valueDiffers lead ms k then (s.twinFound ms { cause := .value, row := 0, col := 0, pc := q.pc }).setFailed ms
        else (s.complete r 0 0 (some (s.redValue lead lead k))).setPosted ms

/-! ### Faults (spec/03 R91) -/

/-- Stop the sequencers of a stream that `bad` lists with their causes, each at the address `pc` gives: SEQFAULT, the FAULTED completion of the current
record with the lead's cause (else the first), interrupt 4 + a, and the Holm's notice. (DEDUCED, log 13) -/
def State.seqFault (s : State) (bad : List (Arch × Nat)) (lead : Arch) (ms : List Arch) (pc : Arch → A13) : State :=
  let q := (s.arch[lead]).seq
  let detail := (((bad.find? (fun b => decide (b.1 = lead))).or bad.head?).map (fun b => b.2)).getD 0
  let s := match q.ctx.cur with
    | some r => if q.ctx.posted then s else (s.complete r 2 detail none).setPosted ms
    | none => s
  let s := s.modSeqs ms (fun x => { x with stepSlot := none })
  let s := bad.foldl (fun t b =>
    let t := t.modSeq b.1 (fun x => { x with
      seqFault := { valid := true, fpc := pc b.1, cause := BitVec.ofNat 4 b.2 }, mode := .fault })
    let t := t.notify (.seqFault b.1)
    match q.ctx.cur with
    | some r => t.irqTo r.core (4 + b.1.val)
    | none => t.raiseAll (4 + b.1.val)) s
  if q.part.twin then
    { s with vital := { s.vital with seqFault := true, leaveDue := s.vital.leaveDue.or (some 0xB) } }
  else s

/-- A trap fault: SEQFAULT in the lead, the subcause in TRAPSTAT.TFSUB of every member (spec/04 R115). (DESIGN CHOICE, log 108) -/
def State.trapFault (s : State) (lead : Arch) (ms : List Arch) (pc : A13) (sub : Nat) : State :=
  (s.modSeqs ms (fun q => { q with tfSub := BitVec.ofNat 4 sub })).seqFault [(lead, 7)] lead ms (fun _ => pc)

/-- Some sequencer of the stream has stopped with a fault. -/
def State.faulted (s : State) (ms : List Arch) : Bool := ms.any (fun b => decide ((s.arch[b]).seq.mode = .fault))

/-! ### Dispatch (spec/03 R71, R89, spec/05 R131, R132) -/

/-- The macro-op a record runs by contract: a declared vendor entry of Table 5.7 or 5.9 where the mould lists no word. An image that
lists the library's words runs them as microwords. (DESIGN CHOICE, log 27) -/
def State.contractOf (s : State) (lead : Arch) (r : PourRec) : Option MacroOp :=
  if SMap.get 0 (s.arch[lead]).mould.word r.entry.toNat = 0 then macroOf r.entry.toNat else none

/-- The progress of a contract routine at its dispatch: all its cycles before it, none where the record's words run (R140). -/
def State.contractRun (s : State) (lead : Arch) (r : PourRec) : Option MacroRun :=
  (s.contractOf lead r).map (fun op => { left := op.cost r.width.toNat r.lit.toNat, stage := 0 })

/-- Take the head record of the lead's queue: check it (Table 5.3) and continue at its entry. -/
def State.startHead (s : State) (lead : Arch) (ms : List Arch) : State :=
  let q := (s.arch[lead]).seq
  match q.queue with
  | [] => s
  | r :: rest =>
    let s := s.modSeq lead (fun x => { x with queue := rest })
    let run := s.contractRun lead r
    let s := s.modSeqs ms (fun x => { x with
      ctx := { x.ctx with cur := some r, posted := false, failed := false, mop := run }, pc := r.entry, mode := .running, held := false })
    let s := s.eachArch ms (fun t a => t.modTwin a (fun x => { x with ck := none }))
    match recordCheck r (s.arch[lead]).mould.entries (maskOf ms) q.part.twin with
    | none => s
    | some sub =>
      let s := s.modSeq lead (fun x => { x with
        recFault := { valid := true, sub := BitVec.ofNat 4 sub, entry := r.entry } })
      s.seqFault [(lead, 8)] lead ms (fun _ => r.entry)

/-- A dispatch of the stream is held: a pattern replacement or a mould-word rewrite waits in a member, or a regrouping (R86,
R89, R117). -/
def State.dispatchHeld (s : State) (lead : Arch) (ms : List Arch) : Bool :=
  s.regrouping lead || ms.any (fun a => !(s.arch[a]).mould.repl.isEmpty || !(s.arch[a]).mould.rewrite.isEmpty)

/-- Park in the dispatch wait; a halt requested there halts at once (spec/04 R107), one that waits for a single step does not. -/
def State.parkDispatch (s : State) (ms : List Arch) : State :=
  let halt := ms.any (fun b => (s.arch[b]).seq.haltReq && (s.arch[b]).seq.stepSlot.isNone)
  s.modSeqs ms (fun x => { x with mode := if halt then .halted false else .dispatchWait, held := false })

/-- A dispatch: the head record of the queue, or the dispatch wait where it is empty or held. -/
def State.takeNext (s : State) (lead : Arch) (ms : List Arch) : State :=
  if s.dispatchHeld lead ms || (s.arch[lead]).seq.queue.isEmpty then s.parkDispatch ms else s.startHead lead ms

/-- A record whose value has failed the twin compare leaves the sequencer: the reaction owes its completion (spec/05 R134). -/
def State.owe (s : State) (lead : Arch) : State :=
  let c := (s.arch[lead]).seq.ctx
  match c.cur with
  | some r => if c.failed then s.modTwin lead (fun x => { x with owed := x.owed ++ [r] }) else s
  | none => s

/-- Complete the records whose completions the reaction owes. -/
def State.settleOwed (s : State) (lead : Arch) (status detail : Nat) : State :=
  ((s.arch[lead]).twin.owed.foldl (fun t r => t.complete r status detail none) s).modTwin lead (fun x => { x with owed := [] })

/-- Dispatch outside a trap routine: post the current record if it has not posted, clear the micro-stack and take the next
record. -/
def State.dispatchPlain (s : State) (lead : Arch) (ms : List Arch) : State :=
  let s := (s.post lead ms none).owe lead
  let s := s.modSeqs ms (fun x => { x with ctx := { x.ctx with cur := none, posted := false, failed := false, stack := [] } })
  s.takeNext lead ms

/-! ### Pour cycles over the array -/

/-- Issue microword words to the PEs of every member: `ws` gives each member's word, addresses are formed with each
member's BA registers at the start of the cycle, NEWS reads the state before the cycle. A shadowing reserve reads its own
memory and its write port takes what its target writes (spec/02 R57, spec/19 R438). Answers the new state and, for each member, the planes F of its islands. -/
def State.pourAll (s : State) (ms : List (Arch × Micro)) (edges : Vector PeVec 4) (lat : Bool) (forceTwx : Bool) :
    State × List (Arch × List (Isl × PeVec)) :=
  ms.foldl (fun (acc : State × List (Arch × List (Isl × PeVec))) (am : Arch × Micro) =>
    let (a, w) := am
    let odd := s.oddTwin a
    let ba := s.arch[a].seq.ctx.ba
    let band := s.bandOf a
    let pair := s.shadowPair a
    let one := (List.finRange 32).foldl (fun (tf : State × List (Isl × PeVec)) p =>
      let P := s.islAt a p
      let i := tf.1.isl[P]
      let (pin, l) := if mwLdl w = 1 then (some i.ladle.planeIn.1, i.ladle.planeIn.2) else (none, i.ladle)
      let q : PourIn := {
        w := w, odd := odd, pa := planeAddr (mwAadr w) (mwAmod w) ba,
        pb := planeAddr (mwBadr w) (mwBmod w) ba, pw := planeAddr (mwWadr w) (mwWmod w) ba,
        news := s.newsPlane a p w odd lat band.1 band.2 edges, planeIn := pin,
        twx := mwTwx w || (forceTwx && decide (mwWcond w ≠ 0)) }
      let o := ({ i with ladle := l }).pour q
      let i' := if mwLdl w = 4 then { o.isl with ladle := o.isl.ladle.swap odd } else o.isl
      let t := tf.1.modIsl P (fun _ => i')
      let t := match pair with
        | some (R, p') => if p' = p then t.modIsl R (fun r => r.shadowPour q o.data o.mask) else t
        | none => t
      (t, tf.2 ++ [(P, o.f)])) (acc.1, [])
    ((one.1.tellUe a).mirror a, acc.2 ++ [(a, one.2)])) (s, [])

/-- The contribution of one archipelago: OR and count of the F of its active PEs, in the odd twin the dual forms
(spec/02 R50, spec/06 Table 6.1 GOR, GCNT). K is taken from the state before the cycle. -/
def State.contribution (s : State) (a : Arch) (fs : List (Isl × PeVec)) : Bool × Nat :=
  let odd := s.oddTwin a
  let zs := fs.map (fun pf => if odd then ~~~((s.isl[pf.1]).k) &&& ~~~pf.2 else (s.isl[pf.1]).k &&& pf.2)
  (if odd then zs.all (fun z => z = 0) else zs.any (fun z => z ≠ 0), zs.foldl (fun n z => n + popcount z) 0)

/-- Queue a strait message on a lane. (DESIGN CHOICE, log 64) -/
def Strait.send (x : Strait) (body : StraitBody) : Strait :=
  let m : StraitSent := { seq := x.sendSeq, nak := false, ack := x.recvSeq, credits := BitVec.ofNat 7 x.owed, body := body }
  { x with sendSeq := x.sendSeq + 1, outbox := x.outbox ++ [m], owed := 0,
           replay := (x.replay ++ [m]).drop (x.replay.length + 1 - 128) }

/-- The strait lanes that lead to lattice neighbours. -/
def State.latLanes (s : State) : List Bool := ((List.finRange 4).filterMap s.neighbour).dedup

/-- Queue a message on every listed lane. -/
def State.sendLanes (s : State) (lanes : List Bool) (body : StraitBody) : State :=
  { s with straits := Vector.ofFn (fun k : Fin 2 =>
      if lanes.contains (decide (k.val = 1)) then (s.straits[k]).send body else s.straits[k]) }

/-- Store a lattice result in the context that waits for it, the oldest slot first (spec/04 Table 4.2). -/
def Seq.setLat (q : Seq) (gor gcnt : Bool) (orv : Bool) (cnt : BitVec 19) : Seq :=
  let put (c : SeqCtx) : SeqCtx := { c with red := { c.red with
    orL := if gor then orv else c.red.orL, cntL := if gcnt then cnt else c.red.cntL } }
  let waits (c : SeqCtx) : Bool := (gor && c.red.pendOrD) || (gcnt && c.red.pendCntD)
  match q.slot0, q.slot1 with
  | some t, u =>
    if waits t.ctx then { q with slot0 := some { t with ctx := put t.ctx } }
    else (match u with
      | some v => if waits v.ctx then { q with slot1 := some { v with ctx := put v.ctx } } else { q with ctx := put q.ctx }
      | none => { q with ctx := put q.ctx })
  | none, _ => { q with ctx := put q.ctx }

/-- Sum the results of all lattice members, in the order of members 0 to 3, once each has delivered its next one
(spec/08 R199). -/
def State.latCombine (s : State) : State :=
  match s.lattice.kinds with
  | [] => s
  | (gor, gcnt) :: rest =>
    let heads := s.members.map (fun m => (s.lattice.redRx[m]).head?)
    if heads.any Option.isNone then s
    else
      let vs := heads.filterMap id
      let orv := vs.any (fun v => v.1)
      let cnt := vs.foldl (fun n v => n + v.2) (0 : BitVec 19)
      let t := { s with lattice := { s.lattice with
        kinds := rest, redRx := s.lattice.redRx.map List.tail } }
      t.modSeqs (t.present.filter (fun a => (t.arch[a]).seq.part.lat)) (fun q => q.setLat gor gcnt orv cnt)

/-- Set the reduction results of every member after a microword with GOR or GCNT (spec/02 R51, spec/04 Table 4.6). -/
def State.setReductions (s : State) (lead : Arch) (cs : List (Arch × Bool × Nat)) (gor gcnt : Bool) : State :=
  let twin := (s.arch[lead]).seq.part.twin
  let lat := s.latOn lead
  let orD := cs.any (fun c => c.2.1)
  let cntD := cs.foldl (fun n c => n + c.2.2) 0
  let s := cs.foldl (fun t c => t.modSeq c.1 (fun q =>
    let r := q.ctx.red
    let r := if gor then { r with orA := c.2.1, orD := if twin then c.2.1 else orD, pendOrA := true, pendOrD := true } else r
    let r := if gcnt then { r with
        cntA := BitVec.ofNat 14 c.2.2, cntD := BitVec.ofNat 17 (if twin then c.2.2 else cntD),
        pendCntA := true, pendCntD := true } else r
    { q with ctx := { q.ctx with red := r } })) s
  if lat && (gor || gcnt) then
    let me := s.self
    let body := StraitBody.red orD (BitVec.ofNat 19 cntD) me 0
    let t := s.sendLanes s.latLanes body
    State.latCombine { t with
      lattice := { t.lattice with
        redRx := vmod t.lattice.redRx me (fun l => l ++ [(orD, BitVec.ofNat 19 cntD)]),
        kinds := t.lattice.kinds ++ [(gor, gcnt)] } }
  else s

/-- The first pair of PEs, in raster order, whose T bits are equal (spec/06 R153). -/
def State.dataMismatch (s : State) (e o : Arch) (pc : A13) : Option Mismatch :=
  if (List.finRange 32).all (fun p => decide ((s.isl[s.islAt e p]).t ^^^ (s.isl[s.islAt o p]).t = BitVec.allOnes 256))
  then none
  else
    let eq (r c : Nat) : Bool :=
      let p : Fin 32 := ix 32 ((r / 16) * 16 + c / 16)
      let b := (r % 16) * 16 + c % 16
      ((s.isl[s.islAt e p]).t.getLsbD b) == ((s.isl[s.islAt o p]).t.getLsbD b)
    ((List.range 8192).find? (fun k => eq (k / 256) (k % 256))).map (fun k =>
      ({ cause := .data, row := BitVec.ofNat 5 (k / 256), col := BitVec.ofNat 8 (k % 256), pc := pc } : Mismatch))

/-! ### One microword (spec/03 R66) -/

/-- The corrected word at `pc` of archipelago `a`'s mould, none where it is uncorrectable, and whether a correction was
made (spec/03 R85). -/
def Mould.fetch (m : Mould) (pc : A13) : Option Micro × Bool :=
  let w := SMap.get 0 m.word pc.toNat
  match eccDecode 144 8 (SMap.get (0 : BitVec 9) m.delta pc.toNat).toNat with
  | .clean => (some w, false)
  | .corrected none => (some w, true)
  | .corrected (some j) => (some (w ^^^ (1 <<< j)), true)
  | .bad => (none, false)

/-- Why a fetched microword does not issue, as a fault cause of Table 3.11, for member `a`; of several causes the first of
BAD_CODE, NXT_LOCKED, STACK_OVF, SYSPLANE, NO_RECORD. (DESIGN CHOICE, log 92) -/
def State.wordFault (s : State) (a lead : Arch) (w : Micro) (pc : A13) : Option Nat :=
  let q := (s.arch[a]).seq
  let lq := (s.arch[lead]).seq
  let wa := planeAddr (mwWadr w) (mwWmod w) q.ctx.ba
  if mwReserved w then some 5
  else if q.nxtLock && decide (3 < (mwNxt w).toNat) then some 4
  else if decide (mwNxt w = 2) && s.cond (if q.part.twin then a else lead) lead w (mwCond w).toNat && decide (8 ≤ q.ctx.stack.length) then some 1
  else if decide (0x1800 ≤ pc.toNat) && decide (mwWcond w ≠ 0) && decide (7680 ≤ wa.toNat) then some 2
  else if decide (mwSpc w = 1) && lq.ctx.cur.isNone then some 6
  else none

/-- UF0 to UF3 as a mode microword loads them (spec/03 Table 3.7), from the flags `uf`. -/
def modeUf (lit : BitVec 16) (uf : BitVec 4) (orA orD : Bool) : BitVec 4 :=
  let mask : BitVec 4 := fld lit 4 4
  let v : BitVec 4 := if (fld lit 8 2 : BitVec 2) = 0 then fld lit 0 4
    else bmask 4 (if (fld lit 8 2 : BitVec 2) = 1 then orA else orD)
  (v &&& mask) ||| (uf &&& ~~~mask)

/-- Side of the array a NEWS direction takes its X from: 0 north, 1 east, 2 south, 3 west. -/
def newsSide (w : Micro) : Fin 4 := ix 4 ((mwNews w).toNat - 1)

/-- The microword moves a lattice edge plane (spec/02 R49, spec/08 R198). -/
def State.edgeMove (s : State) (lead : Arch) (w : Micro) : Bool :=
  s.latOn lead && decide (mwEdge w = 3) && decide (1 ≤ (mwNews w).toNat) && decide ((mwNews w).toNat ≤ 4)

/-- Send the edge plane of the side opposite the named direction once, if that side has a neighbour with a credit; the
receiver sees it on its own opposite side (spec/08 R198). Answers false while the credit is missing. -/
def State.edgeSend (s : State) (w : Micro) : State × Bool :=
  let opp : Fin 4 := ix 4 ((newsSide w).val + 2 - (if 2 ≤ (newsSide w).val then 4 else 0))
  match s.neighbour opp with
  | none => (s, true)
  | some lane =>
    let k : Fin 2 := if lane then 1 else 0
    if s.lattice.edgeSent then (s, true)
    else if (s.straits[k]).credits = 0 then (s, false)
    else
      ({ s with
          straits := vmod s.straits k (fun x => ({ x with credits := x.credits - 1 }).send
            (.edge s.lattice.cycle (newsSide w) (s.edgePlane opp))),
          lattice := { s.lattice with edgeSent := true } }, true)

/-- The plane the neighbour on the named side has sent with this microword's pour-cycle count: none while it has not arrived or
the link does not serve the lattice (spec/02 R49, spec/08 R198, R201). -/
def State.edgeTake (s : State) (w : Micro) : Option (State × Vector PeVec 4) :=
  let side := newsSide w
  match s.neighbour side with
  | none => some (s, Vector.replicate 4 0)
  | some lane =>
    let k : Fin 2 := if lane then 1 else 0
    match (s.straits[k]).edgeRx with
    | [] => none
    | (n, v) :: rest =>
      if n ≠ s.lattice.cycle || !s.latLink lane then none
      else some ({ s with straits := vmod s.straits k (fun x => { x with edgeRx := rest, owed := x.owed + 1 }) },
        vset (Vector.replicate 4 0) side v)

/-- The end of a microword in the sequencer registers of member `a`: BAOP, LCOP, poparg, the mode shadow, the last
address, NT and the trap-deferral count (spec/03 R66, R77, R80; spec/04 R106). -/
def State.endWord (s : State) (s0 : State) (a lead : Arch) (w : Micro) (pc : A13) (due : Bool) : State :=
  let lq := (s0.arch[lead]).seq
  let who := if lq.part.twin then a else lead
  s.modSeq a (fun q =>
    let c := q.ctx
    let lc := lcAfter w c.lc
    let ba := baAfter w c.ba
    let (ba, lc) := match decide (mwSpc w = 1), lq.ctx.cur with
      | true, some r =>
        (Vector.ofFn (fun k : Fin 4 => r.arg k.val),
         vset (vset lc (2 : Fin 4) (r.width.setWidth 16)) (3 : Fin 4) r.lit)
      | _, _ => (ba, lc)
    let uf := c.ufShadow.getD c.uf
    let shadow := if mwSpc w = 5 then
        some (modeUf (mwLit w) uf (s0.orUsed who lead false) (s0.orUsed who lead true)) else none
    { q with
      ctx := { c with lc := lc, ba := ba, uf := uf, ufShadow := shadow },
      lastPc := pc, lastNt := mwNt w, pc := pc, held := false,
      tnt := q.tnt || (sampled w).contains 14,
      defer := if due then satInc q.defer else 0 })

/-- A record is pre-empting for the stream led by `q` (spec/04 R103). -/
def Seq.preempts (q : Seq) (r : PourRec) : Bool :=
  (List.finRange 4).any (fun k => q.preen.getLsbD k.val && decide (q.preent[k] = r.entry))

/-- Free trap slot for a twin fault or a halt: the lowest free one (spec/04 Table 4.1). -/
def Seq.freeSlot (q : Seq) : Option Bool :=
  if q.slot0.isNone then some false else if q.slot1.isNone then some true else none

/-- The trigger of lowest priority number that is due and whose slot condition is met (spec/04 R102, Table 4.1). A stream that
STEP lets issue one microword is not halted before it. -/
def State.dueTrap (s : State) (lead : Arch) (ms : List Arch) : Option TrapCause :=
  let q := (s.arch[lead]).seq
  let haltSlot := (q.slot0.any (fun t => t.cause = .halt)) || (q.slot1.any (fun t => t.cause = .halt))
  if ms.any (fun b => (s.arch[b]).twin.pend) && q.freeSlot.isSome then some .twinFault
  else if q.stepSlot.isSome then none
  else if ms.any (fun b => (s.arch[b]).seq.haltReq) && q.freeSlot.isSome && !haltSlot then some .halt
  else if (q.queue.head?).any q.preempts && !q.inTrap && !(q.ctx.cur.any q.preempts) then some .preempt
  else none

/-- A pre-empting record runs: a slot holds the routine it has pre-empted. -/
def Seq.preempting (q : Seq) : Bool := q.slot0.any (fun t => t.cause = .preempt) || q.slot1.any (fun t => t.cause = .preempt)

/-- The checkpoint a ckpt microword makes (spec/06 R156). -/
def State.checkpoint (s : State) (lead : Arch) (ms : List Arch) (pc : A13) : State :=
  let rds := ms.flatMap (fun a => (s.islands a).map (fun P => (s.isl[P]).ladle.rd))
  let rings := ms.map (fun a => (s.arch[a]).ring)
  let c := (s.arch[lead]).seq.ctx
  s.eachArch ms (fun t a => t.modTwin a (fun x => { x with
    ck := some { pc := pc + 1, stack := c.stack, lc := c.lc, ba := c.ba, uf := c.uf, posted := c.posted,
                 ladleRd := rds, riser := rings, pre := (s.arch[lead]).seq.preempting },
    swapped := false }))

end Sys2Proof.Machine
end

