-- ==== Sys2Proof/Machine/Macro.lean ====
section
/-! DEFINITION. Machine/Macro.lean: the Caenater macro-ops by their contracts: what each entry of Tables 5.7 and 5.9 leaves in PE
memory, K, C and the completion, its cost, and the integer results of Table 5.8 (spec/05 R136 to R144). -/

namespace Sys2Proof.Machine

/-! ### Numbers in planes -/

/-- The two's complement value of an `n`-bit number. -/
def sval (n v : Nat) : Int := if 2 * v < 2 ^ n then v else (v : Int) - (2 ^ n : Nat)

/-- A value modulo 2^n. -/
def wrapTo (n : Nat) (x : Int) : Nat := (x % ((2 ^ n : Nat) : Int)).toNat

/-- Saturation to n-bit two's complement. -/
def clampTo (n : Nat) (x : Int) : Nat :=
  wrapTo n (max (-((2 ^ (n - 1) : Nat) : Int)) (min x (((2 ^ (n - 1) : Nat) : Int) - 1)))

/-- The integer result of an `n`-bit shift by `s` (Table 5.8): left, right, or right with the sign. -/
def arrShl (n s a : Nat) : Nat := if n ≤ s then 0 else a * 2 ^ s % 2 ^ n
def arrShr (n s a : Nat) : Nat := if n ≤ s then 0 else a / 2 ^ s
def arrSar (n s a : Nat) : Nat := wrapTo n (sval n a / ((2 ^ min s n : Nat) : Int))

/-- Quotient and remainder of n-bit numbers (Table 5.8): by zero all ones and the dividend; signed truncated toward zero, the
remainder with the sign of the dividend; -2^(n-1) by -1 wraps to -2^(n-1) with remainder 0. -/
def arrDivU (n a b : Nat) : Nat × Nat := if b = 0 then (2 ^ n - 1, a) else (a / b, a % b)
def arrDivS (n a b : Nat) : Nat × Nat :=
  if b = 0 then (2 ^ n - 1, a)
  else (wrapTo n (Int.tdiv (sval n a) (sval n b)), wrapTo n (Int.tmod (sval n a) (sval n b)))

/-- Operands a macro-op reads, as (argument, planes). -/
def MacroOp.sources (op : MacroOp) (r : PourRec) : List (Nat × Nat) :=
  let n := r.width.toNat
  let lit := r.lit.toNat
  let x (k m : Nat) : Nat × Nat := (k, m)
  match op with
  | .mov | .shl | .shr | .sar | .neg | .nmov _ _ | .extreme _ _ _ | .ldout => [x 0 n]
  | .logic tt => if tt = 0x0F then [x 0 n] else [x 0 n, x 1 n]
  | .sel | .add | .sub | .adds | .subs | .cmp _ _ | .cmpeq | .mul | .div _ => [x 0 n, x 1 n]
  | .mulw _ => [x 0 (litShift lit), x 1 n]
  | .rdor _ | .rdcnt _ => [x 0 1]
  | .ldin _ _ => []
  | .atan2 => [x 0 18, x 1 18]
  | .sinc3 _ => [x 0 32]
  | .firt => [x 0 (18 * n), x 1 (litM lit * n)]
  | .firr _ _ => [x 0 18, x 1 (litM lit * n)]
  | .rtap _ _ _ => [x 0 18, x 2 (18 + lit)]
  | .corr _ => [x 0 18, x 1 n]
  | .unwrap => [x 0 18, x 1 18, x 2 32]
  | .cfar _ => [x 0 18]

/-- Destinations, as (argument, planes, in every PE rather than where K = 1). -/
def MacroOp.dests (op : MacroOp) (r : PourRec) : List (Nat × Nat × Bool) :=
  let n := r.width.toNat
  let lit := r.lit.toNat
  let d (k m : Nat) (all : Bool) : Nat × Nat × Bool := (k, m, all)
  match op with
  | .mov | .logic _ | .sel | .shl | .shr | .sar | .add | .sub | .adds | .subs | .neg => [d 2 n false]
  | .mul => [d 2 n true]
  | .mulw _ => [d 2 (n + litShift lit) true]
  | .div _ => [d 2 n true, d 3 n true]
  | .nmov _ _ | .ldin _ _ => [d 2 n true]
  | .cmp _ _ | .cmpeq | .extreme _ _ _ | .rdor _ | .rdcnt _ | .ldout | .cfar _ => []
  | .atan2 => [d 2 18 true, d 3 18 true]
  | .sinc3 _ | .firt => [d 2 18 true]
  | .firr _ _ => [d 0 18 true, d 2 18 true]
  | .rtap _ _ _ => [d 0 18 true, d 2 (18 + lit) false]
  | .corr _ => [d 0 18 true, d 2 (18 + clog2 n) true]
  | .unwrap => [d 1 18 false, d 2 32 false]

/-- Two extents share a plane, modulo 8,192. -/
def extentsMeet (x y : A13 × Nat) : Bool :=
  (List.range x.2).any (fun i => decide ((x.1 + BitVec.ofNat 13 i - y.1).toNat < y.2))

/-- The ops whose destination may be equal to a source (R136). -/
def MacroOp.allowsEqual : MacroOp → Bool
  | .mov | .logic _ | .sel | .add | .sub | .adds | .subs | .neg => true
  | _ => false

/-- Destination `j` is left unspecified: it overlaps another destination, or a source that is not that destination itself moved or
accumulated in place, except an equal one where that is allowed (R136). (DEDUCED, log 100) -/
def MacroOp.spoilt (op : MacroOp) (r : PourRec) (j : Nat) : Bool :=
  let ds := op.dests r
  match ds[j]? with
  | none => false
  | some (k, m, _) =>
    let meets (x : Nat × Nat) : Bool := extentsMeet (r.arg k, m) (r.arg x.1, x.2)
    let equal (x : Nat × Nat) : Bool := decide (r.arg x.1 = r.arg k) && decide (x.2 = m)
    let inPlace (x : Nat × Nat) : Bool := decide (x = (k, m))
    (op.sources r).any (fun x => meets x && !inPlace x && !(op.allowsEqual && equal x)) ||
    (ds.zipIdx).any (fun dk => decide (dk.2 ≠ j) && meets (dk.1.1, dk.1.2.1))

/-! ### Logical values (spec/06 R148: the odd twin stores complements) -/

/-- A plane as reads deliver it, in logical form. -/
def State.logicPlane (s : State) (a : Arch) (p : Fin 32) (pl : A13) : PeVec :=
  let i := s.isl[s.islAt a p]
  (decodePlane (i.raw pl) (i.rawDelta pl)).v ^^^ bmask 256 (s.oddTwin a)

/-- A register plane in logical form. -/
def State.logicReg (s : State) (a : Arch) (p : Fin 32) (f : IslSt → PeVec) : PeVec :=
  f (s.isl[s.islAt a p]) ^^^ bmask 256 (s.oddTwin a)

/-- Archipelago, island position and PE of a logical row and column (spec/01 R13, R14). -/
def peOf (pos : Nat × Nat) : Arch × Fin 32 × Nat :=
  (ix 8 (pos.1 / 32), ix 32 (pos.1 % 32 / 16 * 16 + pos.2 / 16), pos.1 % 16 * 16 + pos.2 % 16)

/-- Row and column of PE `i` of an island position. -/
def posOf (a : Arch) (p : Fin 32) (i : Nat) : Nat × Nat := (a.val * 32 + p.val / 16 * 16 + i / 16, p.val % 16 * 16 + i % 16)

/-- The number in `n` planes of a PE. -/
def State.peVal (s : State) (pos : Nat × Nat) (pl : A13) (n : Nat) : Nat :=
  let (a, p, i) := peOf pos
  (List.range n).foldl (fun acc k => if (s.logicPlane a p (pl + BitVec.ofNat 13 k)).getLsbD i then acc + 2 ^ k else acc) 0

/-- A register bit of a PE. -/
def State.peReg (s : State) (pos : Nat × Nat) (f : IslSt → PeVec) : Bool :=
  let (a, p, i) := peOf pos
  (s.logicReg a p f).getLsbD i

/-- The PE `k` steps away in NEWS direction `dir` under `edge`; none where a fill of 0 arrives (R46 to R48, spec/04 R118). -/
def State.along (s : State) (a : Arch) (dir : Nat) (edge : BitVec 2) : Nat → Nat × Nat → Option (Nat × Nat)
  | 0, pos => some pos
  | k + 1, pos =>
    let band := s.bandOf a
    match newsSrc dir edge false band.1 band.2 pos.1 pos.2 with
    | .pe r c => s.along a dir edge k (r, c)
    | _ => none

/-- The number `k` steps away; 0 where a fill arrives. -/
def State.valAlong (s : State) (a : Arch) (dir : Nat) (edge : BitVec 2) (k : Nat) (pos : Nat × Nat) (pl : A13) (n : Nat) : Nat :=
  match s.along a dir edge k pos with
  | some q => s.peVal q pl n
  | none => 0

/-- The EDGE code of a fill. -/
def fillCode (raster : Bool) : BitVec 2 := if raster then 2 else 0

/-- The NEWS code of a source side. -/
def sideCode (east : Bool) : Nat := if east then 2 else 4

/-! ### Signal processing (Table 5.9) -/

/-- The top `k` bits of the angle of x + iy as a fraction of a turn, then whether the rest is zero: each doubling of the angle
gives a bit. Large numbers are cut, which leaves the bits as they are. -/
def angleBits : Nat → Int → Int → Nat → Nat × Bool
  | 0, x, y, acc => (acc, decide (y = 0) && decide (0 ≤ x))
  | k + 1, x, y, acc =>
    let b := if y < 0 ∨ (y = 0 ∧ x < 0) then 1 else 0
    let x2 := x * x - y * y
    let y2 := 2 * x * y
    let big := 2 ^ 256 ≤ x2.natAbs ∨ 2 ^ 256 ≤ y2.natAbs
    angleBits k (if big then Int.tdiv x2 (2 ^ 128) else x2) (if big then Int.tdiv y2 (2 ^ 128) else y2) (2 * acc + b)

/-- The integer square root of a number below 4^k. -/
def isqrt : Nat → Nat → Nat
  | 0, _ => 0
  | k + 1, v => (List.range (k + 1)).foldl (fun acc j => if (acc + 2 ^ (k - j)) ^ 2 ≤ v then acc + 2 ^ (k - j) else acc) 0

/-- One of the values within 2 of the exact one, whose floor is `f`. -/
def nearTwo (f : Nat) (exact : Bool) (off : Nat) : Int := if exact then (f : Int) - 2 + (off % 5 : Nat) else (f : Int) - 1 + (off % 4 : Nat)

/-- ATAN2: angle and magnitude, each within ±2 LSB; exact where Table 5.9 says so. -/
def arrAtan2 (i q : Nat) : Nat × Nat :=
  let x := sval 18 i
  let y := sval 18 q
  let off := Config.atanOff i q
  if x = 0 ∧ y = 0 then (0, 0)
  else
    let m2 := (x * x + y * y).toNat
    let m := isqrt 19 m2
    let mag := (max 0 (min (nearTwo m (decide (m * m = m2)) off.2) (2 ^ 18 - 1))).toNat
    let t := angleBits 18 x y 0
    (if y = 0 ∧ x < 0 then 2 ^ 17 else wrapTo 18 (nearTwo t.1 t.2 off.1), mag)

/-- Coefficients of the third-order decimation by 32: (1 + z + … + z^31)^3, 94 of them. -/
def sinc3Coef (k : Nat) : Nat :=
  (List.range 32).foldl (fun acc a => acc + (if k < a then 0 else
    let r := offsetFrom a k
    if r ≤ 31 then r + 1 else if r ≤ 62 then 63 - r else 0)) 0

/-- The output of SINC3: the last 94 bits of two blocks to the west and this one, in time order. (DEDUCED, log 100) -/
def State.sinc3Out (s : State) (a : Arch) (raster : Bool) (r : PourRec) (pos : Nat × Nat) : Nat :=
  let blocks := [2, 1, 0].map (fun k => s.valAlong a 4 (fillCode raster) k pos (r.arg 0) 32)
  let bits := blocks.flatMap (fun b => (List.range 32).map (fun j => b.testBit j))
  wrapTo 18 ((((bits.drop 2).zipIdx).foldl (fun (acc : Int) bk => if bk.1 then acc + (sinc3Coef bk.2 : Nat) else acc) 0) - 16384)

/-- FIR output from a sum: rounded, shifted, saturated to S18. -/
def firOut (sum : Int) (r : Nat) : Nat :=
  clampTo 18 ((sum + (if r = 0 then 0 else ((2 ^ (r - 1) : Nat) : Int))) / ((2 ^ r : Nat) : Int))

/-- Coefficient k of a FIR form, an m-bit signed number. (DEDUCED, log 100) -/
def State.firCoef (s : State) (r : PourRec) (pos : Nat × Nat) (k : Nat) : Int :=
  let m := litM r.lit.toNat
  sval m (s.peVal pos (r.arg 1 + BitVec.ofNat 13 (m * k)) m)

/-- Chip k of CORR: the archipelago OR of its plane over every PE whatever its K (R144); the lead's decides in a stream (spec/04
R116). -/
def State.chip (s : State) (lead : Arch) (r : PourRec) (k : Nat) : Bool :=
  (List.finRange 32).any (fun p => decide (s.logicPlane lead p (r.arg 1 + BitVec.ofNat 13 k) ≠ 0))

/-- The sum of the 16 training cells of CFAR on each side beyond the guard cells. -/
def State.cfarSum (s : State) (a : Arch) (raster : Bool) (r : PourRec) (pos : Nat × Nat) : Nat :=
  (List.range 16).foldl (fun acc k =>
    let d := litG r.lit.toNat + 1 + k
    acc + s.valAlong a 2 (fillCode raster) d pos (r.arg 0) 18 + s.valAlong a 4 (fillCode raster) d pos (r.arg 0) 18) 0

/-! ### What a macro-op computes in one PE -/

/-- The value of destination `j` of a macro-op in the PE at `pos` of archipelago `a`. -/
def State.macroVal (s : State) (lead a : Arch) (op : MacroOp) (r : PourRec) (pos : Nat × Nat) (j : Nat) : Nat :=
  let n := r.width.toNat
  let lit := r.lit.toNat
  let v (k m : Nat) : Nat := s.peVal pos (r.arg k) m
  let x := v 0 n
  let y := v 1 n
  let ttOf (tt : BitVec 8) : Nat := (List.range n).foldl (fun acc k =>
    if tt.getLsbD ((if x.testBit k then 4 else 0) + (if y.testBit k then 2 else 0)) then acc + 2 ^ k else acc) 0
  match op with
  | .mov => x
  | .logic tt => ttOf tt
  | .sel => if s.peReg pos (fun i => i.c) then x else y
  | .shl => arrShl n (litShift lit) x
  | .shr => arrShr n (litShift lit) x
  | .sar => arrSar n (litShift lit) x
  | .add => (x + y) % 2 ^ n
  | .sub => wrapTo n ((x : Int) - y)
  | .adds => clampTo 18 (sval 18 x + sval 18 y)
  | .subs => clampTo 18 (sval 18 x - sval 18 y)
  | .neg => wrapTo n (-(x : Int))
  | .mul => x * y % 2 ^ n
  | .mulw sg =>
    let m := litShift lit
    if sg then wrapTo (n + m) (sval m (v 0 m) * sval n y) else v 0 m * y
  | .div sg =>
    let qr := if sg then arrDivS n x y else arrDivU n x y
    if j = 0 then qr.1 else qr.2
  | .nmov d e => s.valAlong a (d.val + 1) e 1 pos (r.arg 0) n
  | .atan2 => if j = 0 then (arrAtan2 (v 0 18) (v 1 18)).1 else (arrAtan2 (v 0 18) (v 1 18)).2
  | .sinc3 ra => s.sinc3Out a ra r pos
  | .firt =>
    firOut ((List.range n).foldl (fun acc k =>
      acc + s.firCoef r pos k * sval 18 (s.peVal pos (r.arg 0 + BitVec.ofNat 13 (18 * k)) 18)) 0) (litR lit)
  | .firr ea ra =>
    if j = 0 then s.valAlong a (sideCode ea) (fillCode ra) n pos (r.arg 0) 18
    else firOut ((List.range n).foldl (fun acc k =>
      acc + s.firCoef r pos k * sval 18 (s.valAlong a (sideCode ea) (fillCode ra) k pos (r.arg 0) 18)) 0) (litR lit)
  | .rtap mi ea ra =>
    let w := s.valAlong a (sideCode ea) (fillCode ra) 1 pos (r.arg 0) 18
    if j = 0 then w
    else
      let acc : Int := v 2 (18 + lit)
      wrapTo (18 + lit) (if mi then acc - sval 18 w else acc + sval 18 w)
  | .corr ra =>
    let at' (k : Nat) : Nat := s.valAlong a 2 (fillCode ra) k pos (r.arg 0) 18
    if j = 0 then at' (n - 1)
    else wrapTo (18 + clog2 n) ((List.range n).foldl (fun acc k =>
      if s.chip lead r k then acc + sval 18 (at' k) else acc - sval 18 (at' k)) 0)
  | .unwrap =>
    let d := sval 18 (wrapTo 18 ((v 0 18 : Int) - v 1 18))
    if j = 0 then v 0 18 else wrapTo 32 ((v 2 32 : Int) + d)
  | .cmp _ _ | .cmpeq | .extreme _ _ _ | .rdor _ | .rdcnt _ | .ldin _ _ | .ldout | .cfar _ => 0

/-- K of a PE after a macro-op that narrows it by data of its own (Tables 5.7 and 5.9). -/
def State.macroKeep (s : State) (a : Arch) (op : MacroOp) (r : PourRec) (pos : Nat × Nat) : Bool :=
  let n := r.width.toNat
  let x := s.peVal pos (r.arg 0) n
  let y := s.peVal pos (r.arg 1) n
  match op with
  | .cmp sg true => if sg then decide (sval n y ≤ sval n x) else decide (y ≤ x)
  | .cmpeq => decide (x = y)
  | .cfar ra => decide (litAlpha r.lit.toNat * s.cfarSum a ra r pos < 512 * s.peVal pos (r.arg 0) 18)
  | _ => true

/-- C of a PE after a macro-op that states it: none where C is unspecified (R137). -/
def State.macroCarry (s : State) (op : MacroOp) (r : PourRec) (pos : Nat × Nat) : Option Bool :=
  let n := r.width.toNat
  let x := s.peVal pos (r.arg 0) n
  let y := s.peVal pos (r.arg 1) n
  match op with
  | .add => some (decide (2 ^ n ≤ x + y))
  | .sub => some (decide (y ≤ x))
  | .cmp sg _ => some (if sg then decide (sval n y ≤ sval n x) else decide (y ≤ x))
  | .sel | .cmpeq => some (s.peReg pos (fun i => i.c))
  | _ => none

/-! ### A record that runs by contract -/

/-- The routine of the stream's current record, if it runs by contract. -/
def State.routine (s : State) (lead : Arch) : Option (PourRec × MacroOp × MacroRun) :=
  let c := (s.arch[lead]).seq.ctx
  match c.cur, c.mop with
  | some r, some m => (macroOf r.entry.toNat).map (fun op => (r, op, m))
  | _, _ => none

/-- The completion value a macro-op posts when the record asks for one (Tables 5.7 and 5.9, R134). -/
def MacroOp.value : MacroOp → Option RedResult
  | .extreme _ _ a => some (if a then .cntArch else .cntDev)
  | .rdor a => some (if a then .orArch else .orDev)
  | .rdcnt a => some (if a then .cntArch else .cntDev)
  | _ => none

/-- Count what the reads of the source planes find, once for each plane (spec/02 R42). (DESIGN CHOICE, log 27) -/
def State.macroReads (s : State) (ms : List Arch) (op : MacroOp) (r : PourRec) : State :=
  s.eachArch ms (fun t a => ((t.islands a).foldl (fun u P =>
    (op.sources r).foldl (fun v x => (List.range x.2).foldl (fun w k =>
      w.modIsl P (fun i => (i.readPlane (r.arg x.1 + BitVec.ofNat 13 k)).2)) v) u) t).tellUe a)

/-- Write plane `pl` of the island at position `p`, and of a reserve that shadows it: `data` in logical form, in every PE or where
K = 1. -/
def State.macroWrite (s : State) (a : Arch) (p : Fin 32) (pl : A13) (all : Bool) (data : PeVec) : State :=
  let P := s.islAt a p
  let odd := s.oddTwin a
  let raw := data ^^^ bmask 256 odd
  let wc : BitVec 2 := if all then 2 else 1
  let mask := wcondMask odd wc (s.isl[P]).k
  let s := s.modIsl P (fun i => i.portWrite pl wc raw mask)
  match s.shadowPair a with
  | some (R, q) => if q = p then s.modIsl R (fun i => i.portWrite pl wc raw mask) else s
  | none => s

/-- The number an unspecified logical value of the island at position `p` of `a` is drawn by; the twins of a pair share it. -/
def State.drawAt (s : State) (a : Arch) (p : Fin 32) : Nat := s.fresh + 32 * s.dataArch a + p.val

/-- Write destination `j` in every member: `s0` is the state the operands are read in; unspecified planes are free values. -/
def State.macroStore (s s0 : State) (lead : Arch) (ms : List Arch) (op : MacroOp) (r : PourRec) (j : Nat) : State :=
  match (op.dests r)[j]? with
  | none => s
  | some (arg, m, all) =>
    let pl := r.arg arg
    let bad := op.spoilt r j
    s.eachArch ms (fun t a => (List.finRange 32).foldl (fun t p =>
      let vs := if bad then [] else (List.range 256).map (fun i => s0.macroVal lead a op r (posOf a p i) j)
      (List.range m).foldl (fun t k =>
        let data := if bad then Config.freePlane (s0.drawAt a p) (8200 + 256 * j + k)
          else bvOf 256 (fun i => (vs.getD i 0).testBit k)
        t.macroWrite a p (pl + BitVec.ofNat 13 k) all data) t) t)

/-- C, X, Y, N and K of every member when the routine ends: C where stated, else free with X, Y and N; K narrowed (R137). -/
def State.macroRegs (s s0 : State) (ms : List Arch) (op : MacroOp) (r : PourRec) : State :=
  s.eachArch ms (fun t a => (List.finRange 32).foldl (fun t p =>
    let odd := bmask 256 (s0.oddTwin a)
    let free (k : Nat) : PeVec := Config.freePlane (s0.drawAt a p) (8192 + k) ^^^ odd
    let stated := (s0.macroCarry op r (posOf a p 0)).isSome
    let c := if stated then bvOf 256 (fun i => (s0.macroCarry op r (posOf a p i)).getD false) ^^^ odd else free 3
    let keep := bvOf 256 (fun i => s0.macroKeep a op r (posOf a p i))
    t.modIsl (s0.islAt a p) (fun i => { i with
      c := c, x := free 0, y := free 1, n := free 2, k := ((i.k ^^^ odd) &&& keep) ^^^ odd })) t)

/-- The scratch bank of the entry holds what the routine left (R138), LC, BA and UF what it left (R137): free values. -/
def State.macroJunk (s : State) (ms : List Arch) (r : PourRec) : State :=
  let b := if 0x0C00 ≤ r.entry.toNat then 1 else 0
  let s := s.eachArch ms (fun t a =>
    let t := (t.islands a).foldl (fun u P => u.modIsl P (fun i => i.scratch b (s.fresh + 264 * a.val + P.val))) t
    match t.shadowPair a with
    | some (R, q) =>
      let j := t.isl[t.islAt a q]
      t.modIsl R (fun i => i.scratch b ((if b = 1 then j.junk1 else j.junk0).getD 0))
    | none => t)
  let w := Config.freeWord64 s.fresh
  let v := Config.freeWord64 (s.fresh + 1)
  let s := s.modSeqs ms (fun q => { q with ctx := { q.ctx with
    lc := Vector.ofFn (fun k : Fin 4 => fld w (16 * k.val) 16), ba := Vector.ofFn (fun k : Fin 4 => fld v (13 * k.val) 13)
    uf := fld v 52 4, ufShadow := none } })
  { s with fresh := s.fresh + 4096 }

/-- The twin compare of a forced record (spec/06 R152): each destination plane must be complementary in the twins. T is left
unspecified. -/
def State.macroCompare (s : State) (ms : List Arch) (op : MacroOp) (r : PourRec) (pc : A13) : State :=
  match ms with
  | [e, o] =>
    let planes := (op.dests r).flatMap (fun d => (List.range d.2.1).map (fun k => r.arg d.1 + BitVec.ofNat 13 k))
    let cap (t : State) (pl : A13) : State := t.eachArch ms (fun t a => (t.islands a).foldl (fun u P =>
      u.modIsl P (fun i => { i with t := (decodePlane (i.raw pl) (i.rawDelta pl)).v })) t)
    let found := planes.findSome? (fun pl => (cap s pl).dataMismatch e o pc)
    let s := s.eachArch ms (fun t a => (List.finRange 32).foldl (fun u p =>
      u.modIsl (u.islAt a p) (fun i => { i with t := Config.freePlane (s.drawAt a p) 8196 })) t)
    match found with
    | some m => s.twinFound ms m
    | none => s
  | _ => s

/-- Contribute plane F, in logical form, of the PEs with K = 1 to the reductions, as a routine's own GOR or GCNT microword; results
inside the device are usable at once, since the cost counts their latency (R140). -/
def State.macroReduce (s : State) (lead : Arch) (ms : List Arch) (gor gcnt : Bool) (f : Arch → Fin 32 → PeVec) : State :=
  let cs := ms.map (fun a => (a, s.contribution a ((List.finRange 32).map (fun p =>
    (s.islAt a p, f a p ^^^ bmask 256 (s.oddTwin a))))))
  let lat := s.latOn lead
  (s.setReductions lead cs gor gcnt).modSeqs ms (fun q => { q with ctx := { q.ctx with red := { q.ctx.red with
    pendOrA := false, pendCntA := false, pendOrD := q.ctx.red.pendOrD && lat, pendCntD := q.ctx.red.pendCntD && lat } } })

/-- The key bit of an extreme search: bit `b` of A, complemented for the least and for a signed number's sign. -/
def extremeKey (least signed : Bool) (n b : Nat) (v : PeVec) : PeVec :=
  v ^^^ bmask 256 (least != (signed && decide (b + 1 = n)))

/-- Narrow K to the PEs that hold a 1 in `f` where the reduction just made found one. -/
def State.narrow (s : State) (lead : Arch) (ms : List Arch) (device : Bool) (f : Arch → Fin 32 → PeVec) : State :=
  s.eachArch ms (fun t a =>
    if s.orUsed (if device && !(s.arch[lead]).seq.part.twin then lead else a) lead device then
      (List.finRange 32).foldl (fun u p =>
        let odd := bmask 256 (s.oddTwin a)
        u.modIsl (s.islAt a p) (fun i => { i with k := ((i.k ^^^ odd) &&& f a p) ^^^ odd })) t
    else t)

/-- A step of an NMOV in lattice fill: bit `k` of A goes to X, the edge planes are exchanged, and what arrives is bit `k` of D
(spec/02 R49, Table 2.6); none while a plane or a credit is missing. -/
def State.nmovStep (s : State) (ms : List Arch) (r : PourRec) (d : Fin 4) (k : Nat) : State × Bool :=
  let w : Micro := setFld (setFld (0 : Micro) 79 3 (BitVec.ofNat 3 (d.val + 1))) 82 2 (3 : BitVec 2)
  let pl (j : Nat) : A13 := r.arg j + BitVec.ofNat 13 k
  let s := s.eachArch ms (fun t a => (List.finRange 32).foldl (fun u p =>
    u.modIsl (u.islAt a p) (fun i => { i with x := (decodePlane (i.raw (pl 0)) (i.rawDelta (pl 0))).v })) t)
  let q := s.edgeSend w
  match (if q.2 then q.1.edgeTake w else none) with
  | none => (q.1, false)
  | some (t, edges) =>
    (t.eachArch ms (fun u a => (List.finRange 32).foldl (fun v p =>
      v.macroWrite a p (pl 2) true (t.newsPlane a p w false true (t.bandOf a).1 (t.bandOf a).2 edges)) u), true)

/-- A step of the part of a macro-op that other archipelagos or devices take part in: the next step, or that it has to wait
(false). Steps 2k and 2k + 1 of an extreme search contribute key bit n - 1 - k and narrow K by the result; its last two, and
those of RDOR and RDCNT, contribute the value and wait for it; CORR forms the OR of each chip. -/
def State.macroStep (s : State) (lead : Arch) (ms : List Arch) (r : PourRec) (op : MacroOp) (k : Nat) : State × Bool :=
  let n := r.width.toNat
  let red := (s.arch[lead]).seq.ctx.red
  let ones (_ : Arch) (_ : Fin 32) : PeVec := BitVec.allOnes 256
  let plane0 (a : Arch) (p : Fin 32) : PeVec := s.logicPlane a p (r.arg 0)
  match op with
  | .extreme least sg arch =>
    let b := n - 1 - k / 2
    let key (a : Arch) (p : Fin 32) : PeVec := extremeKey least sg n b (s.logicPlane a p (r.arg 0 + BitVec.ofNat 13 b))
    if k = 2 * n then (s.macroReduce lead ms false true ones, true)
    else if k = 2 * n + 1 then (s, !(red.pending (if arch then .cntArch else .cntDev)))
    else if k % 2 = 0 then (s.macroReduce lead ms true false key, true)
    else if red.pending (if arch then .orArch else .orDev) then (s, false)
    else (s.narrow lead ms (!arch) key, true)
  | .rdor _ => if k = 0 then (s.macroReduce lead ms true false plane0, true) else (s, !(op.value.any red.pending))
  | .rdcnt _ => if k = 0 then (s.macroReduce lead ms false true plane0, true) else (s, !(op.value.any red.pending))
  | .corr _ =>
    let t := s.eachArch ms (fun t a => (s.islands a).foldl (fun u P => u.modIsl P (fun i => { i with k := bmask 256 (!s.oddTwin a) })) t)
    let t := t.macroReduce lead ms true false (fun a p => s.logicPlane a p (r.arg 1 + BitVec.ofNat 13 k))
    (t.eachArch ms (fun u a => (s.islands a).foldl (fun v P => v.modIsl P (fun i => { i with k := (s.isl[P]).k })) u), true)
  | .ldout => ((ms.foldl (fun t a =>
      let fs := (List.finRange 32).map (fun p =>
        (s.islAt a p, (decodePlane ((s.isl[s.islAt a p]).raw (r.arg 0 + BitVec.ofNat 13 k))
          ((s.isl[s.islAt a p]).rawDelta (r.arg 0 + BitVec.ofNat 13 k))).v))
      (t.planeOut a fs).mirror a) s), true)
  | .ldin _ _ => (ms.foldl (fun t a => ((List.finRange 32).foldl (fun t p =>
      let l := (t.isl[t.islAt a p]).ladle
      let t := t.modIsl (t.islAt a p) (fun i => { i with ladle := l.planeIn.2 })
      t.macroWrite a p (r.arg 2 + BitVec.ofNat 13 k) true (l.planeIn.1 ^^^ bmask 256 (t.oddTwin a))) t).mirror a) s, true)
  | _ => (s, true)

/-- How many such steps a macro-op has. -/
def MacroOp.steps (op : MacroOp) (n : Nat) : Nat :=
  match op with
  | .extreme _ _ _ => 2 * n + 2
  | .rdor _ | .rdcnt _ => 2
  | .corr _ | .ldin _ _ | .ldout => n
  | _ => 0

/-- The side of an NMOV whose edges come over the lattice. -/
def State.nmovSide (s : State) (lead : Arch) (op : MacroOp) : Option (Fin 4) :=
  match op with
  | .nmov d e => if e = 3 && s.latOn lead then some d else none
  | _ => none

/-- Take the steps from `k` until they are done or one waits. -/
def State.macroRunSteps (s : State) (lead : Arch) (ms : List Arch) (r : PourRec) (op : MacroOp) : Nat → Nat → State × Nat × Bool
  | 0, k => (s, k, true)
  | fuel + 1, k =>
    match s.macroStep lead ms r op k with
    | (t, false) => (t, k, false)
    | (t, true) => t.macroRunSteps lead ms r op fuel (k + 1)

/-- The end of a routine: destinations, registers and scratch. -/
def State.macroEnd (s : State) (lead : Arch) (ms : List Arch) (r : PourRec) (op : MacroOp) : State :=
  let q := (s.arch[lead]).seq
  let stepped := (s.nmovSide lead op).isSome || (match op with
    | .ldin _ _ => true
    | _ => false)
  let t := s.macroReads ms op r
  let t := if stepped && !op.spoilt r 0 then t
    else (List.range (op.dests r).length).foldl (fun u j => u.macroStore s lead ms op r j) t
  let t := match op with
    | .ldin true _ => t.eachArch ms (fun u a => (((u.islands a).foldl (fun (v : State) P =>
        v.modIsl P (fun i => { i with ladle := i.ladle.swap (u.oddTwin a) })) u).mirror a).modTwin a (fun x => { x with swapped := true }))
    | _ => t
  let t := if q.part.twin && (s.arch[lead]).twin.force && r.twin then t.macroCompare ms op r q.pc else t
  (t.macroRegs s ms op r).macroJunk ms r

end Sys2Proof.Machine
end

