-- ==== Sys2Proof/Machine/Trap.lean ====
section
/-! DEFINITION. Machine/Trap.lean: the trap preamble and restore, taking a micro-trap, the issue of a microword, and the
commands that release a waiting sequencer (spec/03 R66 to R72, spec/04 R102 to R115). -/

namespace Sys2Proof.Machine

/-- The assembler's empty microword: operands A and B idle (spec/03 Table 3.21). -/
def mwIdle : Micro := setFld (setFld (0 : Micro) 17 3 (7 : BitVec 3)) 20 3 (7 : BitVec 3)

/-- `a=mem[p]` (ASEL port A, AADR p, AMOD 0) with result table `tt`. -/
def mwMem (p : A13) (tt : BitVec 8) : Micro := setFld (setFld (setFld mwIdle 17 3 (0 : BitVec 3)) 23 13 p) 0 8 tt

/-- A write of the item `src` (WSRC) to plane `p` in every PE. -/
def mwStore (w : Micro) (src : BitVec 2) (p : A13) : Micro :=
  setFld (setFld (setFld w 71 2 src) 73 2 (2 : BitVec 2)) 55 13 p

/-- A one-bit field set. -/
def mwSet (w : Micro) (b : Nat) : Micro := w ||| (1 <<< b)

/-- The first seven microwords of the preamble with save base `p` (spec/04 Table 4.3); five access slots follow.
(DESIGN CHOICE, log 9) -/
def preambleWords (p : A13) : List Micro :=
  let x (sel : BitVec 3) : Micro := setFld (setFld mwIdle 17 3 sel) 0 8 (0xF0 : BitVec 8)
  [ mwStore mwIdle 1 p, mwStore (x 1) 0 (p + 1), mwStore (x 2) 0 (p + 2), mwStore mwIdle 3 (p + 3),
    mwStore mwIdle 2 (p + 4),
    setFld (mwSet (mwSet (mwSet mwIdle 75) 76) 16) 77 2 (3 : BitVec 2),
    setFld mwIdle 79 3 (5 : BitVec 3) ]

/-- The first five microwords of the restore with save base `p` (spec/04 Table 4.4); seven access slots follow. -/
def restoreWords (p : A13) : List Micro :=
  [ mwSet (mwMem (p + 4) 0xF0) 75,
    setFld (mwSet (mwMem (p + 1) 0xF0) 75) 79 3 (5 : BitVec 3),
    mwSet (mwMem (p + 2) 0xF0) 76,
    mwSet (setFld (mwMem p 0) 8 8 (0xF0 : BitVec 8)) 16,
    setFld (mwMem (p + 3) 0xF0) 77 2 (1 : BitVec 2) ]

/-- The mould address of word `k` of the preambles and restores (Config.trapWord). -/
def trapAddr (k : Nat) : A13 := BitVec.ofNat 13 (Config.trapWord k % 64)

/-- The members whose fetch at `pc` was corrected count it (spec/03 R85). -/
def State.countFetch (s : State) (ms : List Arch) (pc : A13) : State :=
  s.eachArch ms (fun t a => if ((s.arch[a]).mould.fetch pc).2 then t.modMould a (fun m => { m with ceCnt := satInc m.ceCnt }) else t)

/-- The words the twins of a pair have fetched are compared: a difference is an MWORD mismatch (spec/06 R153). -/
def State.wordsCompared (s : State) (lead : Arch) (ms : List Arch) (ws : List (Option Micro)) (pc : A13) : State :=
  if (s.arch[lead]).seq.part.twin && ws.any (fun x => decide (x ≠ ws.headD none)) then
    s.twinFound ms { cause := .mword, row := 0, col := 0, pc := pc }
  else s

/-- Word `k` of the preambles and restores issues in every member: fetched from the vendor area, it does what Tables 4.3 and 4.4
say, as `w` or as an access slot; an uncorrectable fetch is a fault (spec/03 R85, R91, spec/04 R110). -/
def State.fixedWord (s : State) (lead : Arch) (ms : List Arch) (k : Nat) (w : Option Micro) : State :=
  let pc := trapAddr k
  let bad := ms.filter (fun a => ((s.arch[a]).mould.fetch pc).1.isNone)
  if s.faulted ms then s
  else if !bad.isEmpty then s.seqFault (bad.map (fun a => (a, 3))) lead ms (fun _ => pc)
  else
    let s := (s.countFetch ms pc).wordsCompared lead ms
      (ms.map (fun a => ((s.arch[a]).mould.fetch pc).1)) pc
    let s := s.modSeqs ms (fun q => { q with lastPc := pc, lastNt := true })
    match w with
    | some x => (s.pourAll (ms.map (fun a => (a, x))) (Vector.replicate 4 0) false false).1
    | none => s.eachArch ms State.viewSlots1

/-- Issue the fixed words `ws` and then `slots` ladle access slots, the first being word `base` of the vendor sequences. -/
def State.runFixed (s : State) (lead : Arch) (ms : List Arch) (base : Nat) (ws : List Micro) (slots : Nat) : State :=
  ((ws.map some ++ List.replicate slots none).zipIdx).foldl
    (fun (t : State) (wk : Option Micro × Nat) => t.fixedWord lead ms (base + wk.2) wk.1) s

/-- The save base of a slot (spec/02 Table 2.4). -/
def saveBase (slot1 : Bool) : A13 := if slot1 then 7685 else 7680

/-- Take a micro-trap of cause `c` into slot 0 or 1: save every item of Table 4.2, run the preamble, clear the sequencer
registers (spec/04 R108 to R110). The sequencer then stands in mode `m`, unless a fetch of the preamble faulted. -/
def State.saveTrap (s : State) (lead : Arch) (ms : List Arch) (slot1 : Bool) (c : TrapCause) (m : SeqMode) : State :=
  let s := s.modSeqs ms (fun q =>
    let t : TrapSlot := { pc := q.pc, waiting := decide (q.mode = .parkWait), ctx := q.ctx, tnt := q.tnt, cause := c, parityErr := 0 }
    let q := if slot1 then { q with slot1 := some t } else { q with slot0 := some t }
    { q with ctx := SeqCtx.start, mode := m, held := false, defMax := if q.defMax.toNat < q.defer.toNat then q.defer else q.defMax, defer := 0 })
  s.runFixed lead ms (if slot1 then 12 else 0) (preambleWords (saveBase slot1)) 5

/-- Restore the slot last filled and release it; a parity mismatch is a trap fault (spec/04 R111, R115, R161 of
spec/06 for TNT). (DESIGN CHOICE, log 12) -/
def State.restoreTrap (s : State) (lead : Arch) (ms : List Arch) : State :=
  let q := (s.arch[lead]).seq
  let slot1 := q.slot1.isSome
  let get (x : Seq) : Option TrapSlot := if slot1 then x.slot1 else x.slot0
  if ms.any (fun a => (get (s.arch[a]).seq).any (fun t => decide (t.parityErr ≠ 0))) then
    s.trapFault lead ms q.pc 1
  else
    let s := s.runFixed lead ms (if slot1 then 36 else 24) (restoreWords (saveBase slot1)) 7
    if s.faulted ms then s
    else
      s.modSeqs ms (fun x => match get x with
        | none => x
        | some t =>
          let x := { x with
            ctx := t.ctx, pc := t.pc, tnt := x.tnt || t.tnt
            mode := if t.waiting then .parkWait else .running }
          if slot1 then { x with slot1 := none } else { x with slot0 := none })

/-- The dispatch that ends a microword: of a trap routine (post, then restore) or of an ordinary one (spec/03 R71,
spec/04 R111). -/
def State.dispatch (s : State) (lead : Arch) (ms : List Arch) : State :=
  if (s.arch[lead]).seq.inTrap then ((s.post lead ms none).owe lead).restoreTrap lead ms
  else s.dispatchPlain lead ms

/-- The microword issued last has NT = 0 and no change stands in the mode shadow (spec/04 R105, spec/03 R80). -/
def Seq.trapPoint (q : Seq) : Bool := !q.lastNt && q.ctx.ufShadow.isNone

/-- A boundary at which a trigger may be taken: before a microword that has not issued, at a trap point. (DEDUCED, log 25) -/
def Seq.boundary (q : Seq) : Bool :=
  (decide (q.mode = .running) || decide (q.mode = .stalled) || decide (q.mode = .parkWait) || decide (q.mode = .barrier))
  && q.trapPoint

/-- The sequencers of a stream run: their domains are open, and the device is not in SAFE STOP or the ebb (spec/05 Table 5.5). -/
def State.alive (s : State) (ms : List Arch) : Bool :=
  !(decide (s.mode = .safeStop) || decide (s.mode = .ebb) || decide (s.mode = .off)) && ms.all (fun b => s.domainOpen (264 + b.val))

/-- The trap that the stream of `a` takes at its present boundary, if any: the due trigger of lowest priority number that is
permitted (spec/04 R102, R105). A twin fault is taken in a dispatch wait too. (DEDUCED, log 25) -/
def State.trapNow (s : State) (a : Arch) : Option TrapCause :=
  let lead := s.leadOf a
  let ms := s.streamOf a
  let at' (c : TrapCause) (b : Arch) : Bool :=
    let q := (s.arch[b]).seq
    q.boundary || (decide (c = .twinFault) && decide (q.mode = .dispatchWait) && q.trapPoint)
  if ms.isEmpty || !s.alive ms then none
  else (s.dueTrap lead ms).filter (fun c => ms.all (at' c))

/-- Take the trap that is due and permitted at this boundary (spec/04 Table 4.1). -/
def State.microTrap (s : State) (a : Arch) : State :=
  let lead := s.leadOf a
  let ms := s.streamOf a
  let q := (s.arch[lead]).seq
  match s.trapNow a with
  | none => s
  | some .twinFault => s.saveTrap lead ms (q.freeSlot.getD false) .twinFault .twinRoutine
  | some .halt => s.saveTrap lead ms (q.freeSlot.getD false) .halt (.halted true)
  | some .preempt =>
    let s := s.saveTrap lead ms false .preempt .running
    if s.faulted ms then s else s.startHead lead ms

/-- The parked WAIT's condition holds (spec/03 R72); any hold in a member holds the stream (spec/04 R116). -/
def State.waitTrue (s : State) (lead : Arch) (ms : List Arch) (w : Micro) : Bool :=
  if mwCond w = 13 then ms.all s.lfull
  else if mwCond w = 14 then (s.arch[lead]).seq.queue.isEmpty
  else s.cond lead lead w (mwCond w).toNat

/-- Apply the next-address form of member `a` to its sequencer. -/
def Seq.goNext (q : Seq) (n : Next) : Seq :=
  match n with
  | .goto pc => { q with pc := pc, mode := .running }
  | .call pc r => { q with pc := pc, mode := .running, ctx := { q.ctx with stack := r :: q.ctx.stack } }
  | .pop => (match q.ctx.stack with
    | r :: rest => { q with pc := r, mode := .running, ctx := { q.ctx with stack := rest } }
    | [] => q)
  | .dispatch => q
  | .wait pc => { q with pc := pc, mode := .parkWait }

/-- The pour of a microword with what it gives the reductions and the ladles (spec/03 R66, R77, spec/08 R209). -/
def State.issuePour (s0 : State) (lead : Arch) (ms : List Arch) (ws : List (Arch × Micro)) (edges : Vector PeVec 4) (w : Micro)
    (force : Bool) : State :=
  let q := (s0.arch[lead]).seq
  let s := if mwSpc w = 2 then s0.post lead ms (match q.ctx.cur with
    | some r => postWants r (mwLit w)
    | none => none) else s0
  let p := s.pourAll ws edges (s0.latOn lead) force
  let s := if mwGor w || mwGcnt w then
      p.1.setReductions lead (p.2.map (fun af => (af.1, s0.contribution af.1 af.2))) (mwGor w) (mwGcnt w) else p.1
  if mwLdl w = 2 then p.2.foldl (fun t af => (t.planeOut af.1 af.2).mirror af.1) s
  else if mwLdl w = 3 then s.eachArch ms State.viewSlots1
  else if mwLdl w = 4 then s.eachArch ms (fun t a => t.modTwin a (fun x => { x with swapped := true }))
  else s

/-- The compares of a twin pair at the end of a microword: data where it is compared, and the flow (spec/06 R153). -/
def State.twinCheck (s : State) (ms : List Arch) (twin cmp same : Bool) (pc : A13) : State :=
  match twin, ms with
  | true, [e, o] =>
    let s := if cmp then (match s.dataMismatch e o pc with
      | some m => s.twinFound ms m
      | none => s) else s
    if same then s else s.twinFound ms { cause := .flow, row := 0, col := 0, pc := pc }
  | _, _ => s

/-- What SPC does at the end of a microword: latbar counts (also where it completes without waiting: in a trap routine and outside
SURVEY), framebar restarts the ring, ckpt takes a checkpoint. (DESIGN CHOICE, log 15) -/
def State.spcEnd (s : State) (lead : Arch) (ms : List Arch) (w : Micro) (ckpt : Bool) (pc : A13) : State :=
  if mwSpc w = 3 then s.modSeqs ms (fun x => { x with latSeq := x.latSeq + 1 })
  else if mwSpc w = 4 then s.eachArch ms (fun t a => t.ringRestart a true)
  else if mwSpc w = 6 && ckpt then s.checkpoint lead ms pc
  else s

/-- The sequencer goes where the microword leads: dispatch, or a park that ends at once. -/
def State.leadOn (s : State) (lead : Arch) (ms : List Arch) (w : Micro) (nl : Next) (bottom : Bool) : State :=
  match nl with
  | .dispatch => s.dispatch lead ms
  | .pop => if bottom then s.dispatch lead ms else s
  | .wait _ => if s.waitTrue lead ms w then s.modSeqs ms (fun x => { x with mode := .running }) else s
  | _ => s

/-- STEP has let its microword issue: a fresh preamble into the same slot, or the halt of a dispatch wait (spec/04 R112). -/
def State.stepped (s : State) (lead : Arch) (ms : List Arch) : State :=
  let q := (s.arch[lead]).seq
  match q.stepSlot with
  | none => s
  | some slot1 =>
    let s := s.modSeqs ms (fun x => { x with stepSlot := none })
    if q.mode = .halted false ∨ q.mode = .fault then s
    else if q.mode = .dispatchWait then s.modSeqs ms (fun x => { x with mode := .halted false })
    else s.saveTrap lead ms slot1 .halt (.halted true)

/-- The effects of a microword that issues (spec/03 R66 steps 2 to 5): `ws` the members' words, `edges` the lattice
planes it consumes. (DEDUCED, log 23) -/
def State.issued (s0 : State) (lead : Arch) (ms : List Arch) (ws : List (Arch × Micro)) (edges : Vector PeVec 4) : State :=
  let q := (s0.arch[lead]).seq
  let pc := q.pc
  let w := (ws.headD (lead, 0)).2
  let twin := q.part.twin
  let lat := s0.latOn lead
  let due := (s0.dueTrap lead ms).isSome
  let force := twin && (s0.arch[lead]).twin.force && q.ctx.cur.any PourRec.twin
  let nexts := ws.map (fun aw => (aw.1, s0.nextOf (if twin then aw.1 else lead) lead aw.2 (s0.arch[aw.1]).seq.pc))
  let lcTests (a : Arch) (x : Micro) : List Bool :=
    ((sampled x).filter (fun c => decide (2 ≤ c ∧ c ≤ 5))).map (s0.cond a lead x)
  let tests := ws.map (fun aw => lcTests (if twin then aw.1 else lead) aw.2)
  let nl := (nexts.headD (lead, .dispatch)).2
  let s := s0.issuePour lead ms ws edges w force
  let s := s.twinCheck ms twin (mwTwx w || (force && decide (mwWcond w ≠ 0)))
    (nexts.all (fun x => x.2 = nl) && tests.all (fun x => decide (x = tests.headD []))) pc
  let s := ws.foldl (fun t aw => t.endWord s0 aw.1 lead aw.2 (s0.arch[aw.1]).seq.pc due) s
  let s := s.spcEnd lead ms w (twin && q.ctx.cur.any PourRec.twin) pc
  let s := { s with lattice := { s.lattice with
    cycle := if lat then s.lattice.cycle + 1 else s.lattice.cycle, edgeSent := s.lattice.edgeSent && q.inTrap } }
  let s := nexts.foldl (fun t an => t.modSeq an.1 (fun x => x.goNext (if twin then an.2 else nl))) s
  (s.leadOn lead ms w nl q.ctx.stack.isEmpty).stepped lead ms

/-- One pour cycle of the routine has passed: a microword of it has issued. Where it stands in the vendor area is open but for the
first (Config.freeWord). (DESIGN CHOICE, log 27) -/
def State.macroPass (s : State) (lead : Arch) (ms : List Arch) (first : Bool) : State :=
  let due := (s.dueTrap lead ms).isSome
  let lat := s.latOn lead
  let s := s.modSeqs ms (fun q => { q with
    mode := .running, lastPc := if first then q.pc else fld (Config.freeWord s.fresh) 0 13, lastNt := false, held := false
    defer := if due then satInc q.defer else 0
    ctx := { q.ctx with uf := q.ctx.ufShadow.getD q.ctx.uf, ufShadow := none
                        mop := q.ctx.mop.map (fun m => { m with left := m.left - 1 }) } })
  { s with fresh := if first then s.fresh else s.fresh + 1
           lattice := { s.lattice with cycle := if lat then s.lattice.cycle + 1 else s.lattice.cycle, edgeSent := s.lattice.edgeSent && !lat } }

/-- The last microword of a routine: its result stands, its completion is posted and the sequencer dispatches (R134, R140). -/
def State.macroLast (s : State) (lead : Arch) (ms : List Arch) (r : PourRec) (op : MacroOp) (first : Bool) : State :=
  let s := (s.macroEnd lead ms r op).macroPass lead ms first
  let s := s.modSeqs ms (fun q => { q with ctx := { q.ctx with mop := none } })
  let w := if r.ret then op.value else none
  ((s.post lead ms w).dispatch lead ms).stepped lead ms

/-- The stream does not issue: its fetched word is held in mode `m` (spec/03 R82). -/
def State.holdWord (s : State) (ms : List Arch) (m : SeqMode) : State := s.modSeqs ms (fun x => { x with mode := m, held := true })

/-- The fetch of the next word in every member: what is corrected counts, and the words of a twin pair are compared. A word that is
held is fetched once; one that a trap has pushed aside is fetched anew (spec/03 R85, spec/06 R153). (DESIGN CHOICE, log 92) -/
def State.fetched (s : State) (lead : Arch) (ms : List Arch) : State :=
  if (s.arch[lead]).seq.held then s
  else
    let ws := ms.map (fun a => ((s.arch[a]).mould.fetch (s.arch[a]).seq.pc).1)
    let s := ms.foldl (fun t a => t.countFetch [a] (s.arch[a]).seq.pc) s
    if ws.all Option.isSome then s.wordsCompared lead ms ws (s.arch[lead]).seq.pc else s

/-- Words of a twin pair that differ are held until the fault is detected, and then for its trap; where that is deferred each twin
issues its own (spec/06 R154). (DEDUCED, log 10) -/
def State.heldApart (s : State) (lead : Arch) (ms : List Arch) : Bool :=
  let ws := ms.map (fun a => ((s.arch[a]).mould.fetch (s.arch[a]).seq.pc).1)
  (s.arch[lead]).seq.part.twin && ws.any (fun x => decide (x ≠ ws.headD none)) &&
    (!(ms.any (fun a => (s.arch[a]).twin.pend)) || (s.trapNow lead).isSome)

/-- A pour cycle of a Caenater routine that runs by contract. LDIN.B parks at its framebar first; an NMOV in lattice fill exchanges
one edge plane a cycle; what takes reductions waits for them at the end (spec/05 R139 to R144). -/
def State.macroCycle (s : State) (lead : Arch) (ms : List Arch) (r : PourRec) (op : MacroOp) (m : MacroRun) : State :=
  let q := (s.arch[lead]).seq
  let n := r.width.toNat
  let first := decide (m.left = op.cost n r.lit.toNat)
  let bad := if first then ms.filter (fun a => ((s.arch[a]).mould.fetch q.pc).1.isNone) else []
  let waits := first && decide (op = .ldin false true)
  let s := if first then s.fetched lead ms else s
  if !bad.isEmpty then (s.seqFault (bad.map (fun a => (a, 3))) lead ms (fun _ => q.pc)).eachArch ms State.viewSlots1
  else if first && s.heldApart lead ms then s.holdWord ms q.mode
  else if waits && !(ms.all s.frameBarrier) then (s.holdWord ms .barrier).eachArch ms State.viewSlots1
  else
    let s := if waits then s.eachArch ms (fun t a => t.ringRestart a true) else s
    let p := match s.nmovSide lead op with
      | some d => if first then (s, true) else s.nmovStep ms r d (n - m.left)
      | none => (s, true)
    let hold (t : State) (k : Nat) : State := t.modSeqs ms (fun x => { x with
      mode := .stalled, held := true, ctx := { x.ctx with mop := x.ctx.mop.map (fun y => { y with stage := k }) } })
    if !p.2 then hold p.1 m.stage
    else if 1 < m.left then (p.1.macroPass lead ms first).stepped lead ms
    else match p.1.macroRunSteps lead ms r op (op.steps n - m.stage) m.stage with
      | (t, k, false) => hold t k
      | (t, _, true) => t.macroLast lead ms r op first

/-- The microword issues, its edge planes sent and taken first. -/
def State.issueNow (s : State) (lead : Arch) (ms : List Arch) (ws : List (Arch × Micro)) (w : Micro) : State :=
  if s.edgeMove lead w then
    let p := s.edgeSend w
    match (if p.2 then p.1.edgeTake w else none) with
    | none => p.1.holdWord ms .stalled
    | some (s, planes) => s.issued lead ms ws planes
  else s.issued lead ms ws (Vector.replicate 4 0)

/-- The stream does not issue in this cycle: it stops or parks as `s` has it, and the cycle is an access slot (spec/03 Table 3.8). -/
def State.slotCycle (s : State) (ms : List Arch) : State := s.eachArch ms State.viewSlots1

/-- Try to issue the stream's next microword: fetch, compare, interlocks, barriers, faults, effects (spec/03 R66, R82,
R85, R91; spec/06 R153). `release` lets a parked latbar issue. A latbar met again after a trap reports its number again.
(DESIGN CHOICE, log 15) -/
def State.issueWord (s : State) (lead : Arch) (ms : List Arch) (release : Bool) : State :=
  let q := (s.arch[lead]).seq
  if !(ms.any (fun a => (s.arch[a]).twin.pend)) &&
      ms.any (fun a => (s.arch[a]).twin.found.any (fun m => m.cause = .mword || m.cause = .flow)) then s
  else match s.routine lead with
  | some (r, op, m) => s.macroCycle lead ms r op m
  | none =>
    let fs := ms.map (fun a => (a, ((s.arch[a]).mould.fetch (s.arch[a]).seq.pc).1))
    let bad := (fs.filter (fun x => x.2.isNone)).map (fun x => (x.1, 3))
    let pcs (b : Arch) : A13 := (s.arch[b]).seq.pc
    let s := s.fetched lead ms
    if !bad.isEmpty then (s.seqFault bad lead ms pcs).slotCycle ms
    else if s.heldApart lead ms then s.holdWord ms q.mode
    else
      let ws : List (Arch × Micro) := fs.map (fun x => (x.1, x.2.getD 0))
      let w := (ws.headD (lead, 0)).2
      let faults := ws.filterMap (fun x => (s.wordFault x.1 lead x.2 (pcs x.1)).map (fun c => (x.1, c)))
      let early := faults.filter (fun x => decide (x.2 = 5) || decide (x.2 = 4))
      if !early.isEmpty then (s.seqFault early lead ms pcs).slotCycle ms
      else if ms.any (fun a => (s.wants lead w).any (fun k => ((s.arch[a]).seq.ctx.red).pending k)) then s.holdWord ms .stalled
      else if !faults.isEmpty then (s.seqFault faults lead ms pcs).slotCycle ms
      else if mwSpc w = 3 && s.latOn lead && !release then
        let s := if q.mode = .barrier then s else s.sendLanes s.latLanes (.bar (q.latSeq + 1))
        (s.holdWord ms .barrier).slotCycle ms
      else if mwSpc w = 4 && !(ms.all s.frameBarrier) then (s.holdWord ms .barrier).slotCycle ms
      else s.issueNow lead ms ws w

/-- Every island carrying a logical position in the stream is ready (spec/02 R56). -/
def State.streamReady (s : State) (ms : List Arch) : Bool :=
  ms.all (fun a => (s.islands a).all (fun P => (s.isl[P]).ready))

/-- A hold of the stream of `a` ends by `f`: where a trap is due and permitted it is taken first (spec/03 R82, spec/04 R105). -/
def State.holdEnds (s : State) (a : Arch) (f : State → State) : State := if (s.trapNow a).isSome then s.microTrap a else f s

/-! ### Releases -/

/-- DISPATCH_WAIT_END: a record has arrived at the empty queue of a parked sequencer (spec/03 R71). -/
def execDispatchWaitEnd (a : Arch) (s : State) : Out :=
  let lead := s.leadOf a
  let ms := s.streamOf a
  let q := (s.arch[lead]).seq
  if decide (q.mode = .dispatchWait) && !q.queue.isEmpty && !ms.isEmpty && s.alive ms && s.streamReady ms then
    .next (s.holdEnds a (fun t => t.takeNext lead ms))
  else .next s

/-- WAIT_RELEASE: the condition of a parked WAIT, the word before the address the park stands at, has become true (spec/03 R72,
spec/04 R107). -/
def execWaitRelease (a : Arch) (s : State) : Out :=
  let lead := s.leadOf a
  let ms := s.streamOf a
  let q := (s.arch[lead]).seq
  let w := ((s.arch[lead]).mould.fetch (q.pc - 1)).1.getD (SMap.get 0 (s.arch[lead]).mould.word (q.pc - 1).toNat)
  if decide (q.mode = .parkWait) && s.alive ms && s.waitTrue lead ms w then
    .next (s.holdEnds a (fun t => t.modSeqs ms (fun x => { x with mode := .running })))
  else .next s

/-- FRAMEBAR_RELEASE: the archipelago's frame barrier is reached and the parked framebar issues (spec/08 R212). -/
def execFramebarRelease (a : Arch) (s : State) : Out :=
  let lead := s.leadOf a
  let ms := s.streamOf a
  let q := (s.arch[lead]).seq
  let w := ((s.arch[lead]).mould.fetch q.pc).1.getD 0
  let bar := (s.routine lead).isSome || decide (mwSpc w = 4)
  if decide (q.mode = .barrier) && bar && ms.all s.frameBarrier && s.alive ms && s.streamReady ms then
    .next (s.holdEnds a (fun t => t.issueWord lead ms false))
  else .next s

/-- LATBAR_RELEASE: every lattice member has reached the latbar of this number and the parked stream issues it
(spec/04 R119). (DESIGN CHOICE, log 15) -/
def execLatbarRelease (a : Arch) (s : State) : Out :=
  let lead := s.leadOf a
  let ms := s.streamOf a
  let q := (s.arch[lead]).seq
  let w := ((s.arch[lead]).mould.fetch q.pc).1.getD 0
  let others := ((List.finRange 4).filterMap s.neighbour).dedup
  let reached := others.all (fun lane => s.latLink lane && (s.straits[if lane then (1 : Fin 2) else 0]).barRx.any (fun n =>
    decide ((n - (q.latSeq + 1)).toNat < 0x8000)))
  if decide (q.mode = .barrier) && (s.routine lead).isNone && decide (mwSpc w = 3) && reached && s.alive ms && s.streamReady ms then
    .next (s.holdEnds a (fun t => t.issueWord lead ms true))
  else .next s

/-- MICRO_TRAP: a due trigger is taken at a permitted boundary (spec/04 R108). -/
def execMicroTrap (a : Arch) (s : State) : Out := .next (s.microTrap a)

/-- TRAP_WATCHDOG_EXPIRY: a trap routine has run longer than TRAPCFG.WDOG, which is on; halt traps are not timed
(spec/04 R115, R121). -/
def execTrapWatchdogExpiry (a : Arch) (s : State) : Out :=
  let lead := s.leadOf a
  let ms := s.streamOf a
  let q := (s.arch[lead]).seq
  let timed := q.inTrap && decide (q.wdog ≠ 0) && s.alive ms &&
    !(decide (q.mode = .halted true)) && !(decide (q.mode = .fault)) && !(decide (q.mode = .noMould))
  if timed then .next (s.trapFault lead ms q.pc 2) else .next s

/-- The context a reduction result lands in: the oldest slot still waiting for it, else the running one (spec/04
Table 4.2). -/
def Seq.landRed (q : Seq) (k : RedResult) : Seq :=
  let clr (r : RedSet) : RedSet := match k with
    | .orArch => { r with pendOrA := false }
    | .cntArch => { r with pendCntA := false }
    | .orDev => { r with pendOrD := false }
    | .cntDev => { r with pendCntD := false }
  let inCtx (c : SeqCtx) : SeqCtx := { c with red := clr c.red }
  match q.slot0 with
  | some t =>
    if t.ctx.red.pending k then { q with slot0 := some { t with ctx := inCtx t.ctx } }
    else (match q.slot1 with
      | some u => if u.ctx.red.pending k then { q with slot1 := some { u with ctx := inCtx u.ctx } } else { q with ctx := inCtx q.ctx }
      | none => { q with ctx := inCtx q.ctx })
  | none => { q with ctx := inCtx q.ctx }

/-- REDUCTION_RESULT: a result becomes usable after its latency and ends the hold of a stalled microword (spec/02 R52); at
lattice scope once every member's RED has been summed (spec/08 R199). (DESIGN CHOICE, log 6) -/
def execReductionResult (a : Arch) (which : RedResult) (s : State) : Out :=
  let lead := s.leadOf a
  let ms := s.streamOf a
  let dev := decide (which = .orDev) || decide (which = .cntDev)
  if dev && (s.arch[lead]).seq.part.lat && !s.lattice.kinds.isEmpty then .next s
  else
    .next (s.modSeqs ms (fun q =>
      let q := q.landRed which
      { q with mode := if q.mode = .stalled then .running else q.mode }))

end Sys2Proof.Machine
end

