-- ==== Sys2Proof/Machine/Mould.lean ====
section
/-! DEFINITION. Machine/Mould.lean: the loader's checks, the scrubber, rewriting and replacing mould words (spec/03 R81,
R84 to R90). -/

namespace Sys2Proof.Machine

/-! ### Loader checks (spec/03 Table 3.10) -/

/-- A set of mould addresses. -/
abbrev ASet := BitVec 8192

def ASet.add (s : ASet) (a : A13) : ASet := s ||| (1 <<< a.toNat)
def ASet.ofList (l : List A13) : ASet := l.foldl ASet.add 0
def ASet.toList (s : ASet) : List A13 := ((List.range 8192).filter (fun i => s.getLsbD i)).map (fun i => BitVec.ofNat 13 i)

/-- The rules that one word meets or breaks by itself, in the pattern partition (`pattern`) or the vendor area. -/
def wordLegal (w : Micro) (pattern : Bool) : Bool :=
  !mwReserved w
  && !(pattern && decide (mwWmod w = 0) && decide (7680 ≤ (mwWadr w).toNat))
  && !(decide (mwLdl w = 3) && decide (mwWcond w ≠ 0))
  && !(decide (mwNxt w = 4) && (decide (mwCond w ≠ 0) || decide ((mwTgt w).toNat % 4 ≠ 0)))
  && !(decide (mwNxt w = 5) && (decide (mwCond w ≠ 0) || decide ((mwTgt w).toNat % 16 ≠ 0)))
  && !(decide (mwNxt w = 7) && decide (mwCond w ≠ 13) && decide (mwCond w ≠ 14))
  && !(decide (mwSpc w = 1) && (decide (mwBaop w ≠ 0) || decide (mwLcop w ≠ 0)))

/-- Addresses a word can continue at inside its routine; a call continues behind itself. -/
def succInside (w : Micro) (pc : A13) : List A13 :=
  let n := mwNxt w
  let always := decide (mwCond w = 0)
  let never := decide (mwCond w = 1)
  if n = 1 then (if always then [mwTgt w] else if never then [pc + 1] else [mwTgt w, pc + 1])
  else if n = 3 then (if always then [] else [pc + 1])
  else if n = 4 then (List.range 4).map (fun k => mwTgt w + BitVec.ofNat 13 k)
  else if n = 5 then (List.range 16).map (fun k => mwTgt w + BitVec.ofNat 13 k)
  else if n = 6 then []
  else [pc + 1]

/-- Addresses reachable from a set inside routines, with fuel for one round per mould word. -/
def closure (rd : A13 → Micro) : Nat → ASet → ASet
  | 0, s => s
  | k + 1, s =>
    let s' := (s.toList).foldl (fun (t : ASet) a => (succInside (rd a) a).foldl ASet.add t) s
    if s' = s then s else closure rd k s'

/-- The targets of the calls in a set. -/
def callTargets (rd : A13 → Micro) (s : ASet) : ASet :=
  ASet.ofList ((s.toList).filterMap (fun a =>
    if decide (mwNxt (rd a) = 2) && !decide (mwCond (rd a) = 1) then some (mwTgt (rd a)) else none))

/-- The words at call depths 0 to `k` from a set of entries. -/
def depthSets (rd : A13 → Micro) : Nat → ASet → List ASet
  | 0, s => [closure rd 8192 s]
  | k + 1, s =>
    let c := closure rd 8192 s
    c :: depthSets rd k (callTargets rd c)

/-- The words that can execute next after the word at `a` of call depth `d`, with their depths: a call enters its target one
deeper, RET continues behind every call that can return there, or dispatches at depth 0, and a dispatch continues at every
entry (R81). `sets` holds the words reachable at each depth. -/
def succAt (rd : A13 → Micro) (sets : List ASet) (entries : List A13) (d : Nat) (a : A13) : List (Nat × A13) :=
  let w := rd a
  let n := mwNxt w
  let inside := (succInside w a).map (fun b => (d, b))
  let enter := entries.map (fun e => (0, e))
  if n = 2 then
    (if mwCond w = 1 then [(d, a + 1)] else if mwCond w = 0 then [(d + 1, mwTgt w)] else [(d + 1, mwTgt w), (d, a + 1)])
  else if n = 3 then
    (if mwCond w = 1 then inside
     else if d = 0 then inside ++ enter
     else
      let callers := ((sets.getD (d - 1) 0).toList).filter (fun c => decide (mwNxt (rd c) = 2) && !decide (mwCond (rd c) = 1) &&
        (closure rd 8192 (ASet.ofList [mwTgt (rd c)])).getLsbD a.toNat)
      inside ++ callers.map (fun c => (d - 1, c + 1)))
  else if n = 6 then enter
  else inside

/-- Add a word at its depth. -/
def addAt (l : List ASet) (x : Nat × A13) : List ASet :=
  (l.zipIdx).map (fun sd => if sd.2 = x.1 then ASet.add sd.1 x.2 else sd.1)

/-- The words with NT = 1 at which a run of the given length can end, by call depth. -/
def ntRuns (rd : A13 → Micro) (sets : List ASet) (entries : List A13) : Nat → List ASet
  | 0 => sets
  | 1 => sets.map (fun s => ASet.ofList ((s.toList).filter (fun a => mwNt (rd a))))
  | k + 2 =>
    let ends := (ntRuns rd sets entries (k + 1)).zipIdx.flatMap (fun sd => (sd.1.toList).flatMap (succAt rd sets entries sd.2))
    (ends.filter (fun x => mwNt (rd x.2))).foldl addAt (sets.map (fun _ => 0))

/-- Every check of Table 3.10 on a mould with the given declared entries; a library entry of which the image lists no word runs by
contract and leads to no word. (DESIGN CHOICE, log 27) -/
def mouldLegal (m : SMap Micro) (entries : List A13) (nxtLock : Bool) : Bool :=
  let rd (a : A13) : Micro := SMap.get 0 m a.toNat
  let entries := entries.filter (fun e => !(decide (rd e = 0) && (macroOf e.toNat).isSome))
  let sets := depthSets rd 9 (ASet.ofList entries)
  let all := sets.foldl (· ||| ·) 0
  (List.range 8192).all (fun i => wordLegal (rd (BitVec.ofNat 13 i)) (decide (0x1800 ≤ i)))
  && decide ((sets.getD 9 0) = 0)
  && (ntRuns rd sets entries 257).all (fun s => decide (s = 0))
  && !(nxtLock && (all.toList).any (fun a => decide (3 < (mwNxt (rd a)).toNat)))

/-- Two moulds hold the same image: words and declared entries (spec/03 R87, spec/04 R116). -/
def Mould.sameImage (m n : Mould) : Bool :=
  (m.loaded == n.loaded) && decide (m.verified = n.verified) && m.entries.all n.entries.contains && n.entries.all m.entries.contains

/-! ### Scrubbing, rewriting, replacing -/

/-- Store a mould word with check bits computed from it. -/
def Mould.put (m : Mould) (a : Nat) (w : Micro) : Mould :=
  { m with word := SMap.set 0 m.word a w, delta := SMap.set 0 m.delta a 0 }

/-- MOULD_SCRUB: the scrubber reads its next word, writes back a corrected one or records an uncorrectable one and
notifies the Holm (spec/03 R86). -/
def execMouldScrub (a : Arch) (s : State) : Out :=
  let m := (s.arch[a]).mould
  if !m.loaded then .next s
  else
    let pos := m.scrubPos
    let s := s.modMould a (fun x => { x with scrubPos := x.scrubPos + 1 })
    match m.fetch pos with
    | (some w, true) => .next (s.modMould a (fun x => { (x.put pos.toNat w) with ceCnt := satInc x.ceCnt }))
    | (some _, false) => .next s
    | (none, _) =>
      let s := s.modMould a (fun x => { x with
        sue := true, ueValid := true, ueWord := if x.ueValid then x.ueWord else pos,
        rewrite := if x.rewrite.contains pos then x.rewrite else x.rewrite ++ [pos] })
      .next (s.notify (.mouldUe a))

/-- The stream of `a` stands at a dispatch point with no trap slot in use. -/
def State.atDispatch (s : State) (a : Arch) : Bool :=
  let q := (s.arch[s.leadOf a]).seq
  (decide (q.mode = .dispatchWait) || decide (q.mode = .halted false)) && !q.inTrap

/-- After a hold has ended, a waiting dispatch goes on: with the head record, or parked (spec/03 R89 rule 3). -/
def State.resumeDispatch (s : State) (a : Arch) : State :=
  let lead := s.leadOf a
  let ms := s.streamOf a
  if decide ((s.arch[lead]).seq.mode = .dispatchWait) && s.streamReady ms then s.takeNext lead ms else s

/-- MOULD_WORD_REWRITE: at a dispatch point the uncorrectable words are rewritten from the verified image
(spec/03 R86). -/
def execMouldWordRewrite (a : Arch) (s : State) : Out :=
  let m := (s.arch[a]).mould
  if m.rewrite.isEmpty || !(s.atDispatch a) then .next s
  else
    let s := s.modMould a (fun x =>
      { (m.rewrite.foldl (fun (y : Mould) p => y.put p.toNat (SMap.get 0 y.verified p.toNat)) x) with rewrite := [] })
    .next (s.resumeDispatch a)

/-- Write the oldest waiting replacement's words and combine the declared entries (spec/03 R89). (DEDUCED, log 26) -/
def Mould.replace (m : Mould) : Mould :=
  match m.repl with
  | [] => m
  | r :: rest =>
    let lo := r.first.toNat
    let hi := lo + r.words.length
    let m := (r.words.zipIdx).foldl (fun (x : Mould) wi =>
      { (x.put (lo + wi.2) wi.1) with verified := SMap.set 0 x.verified (lo + wi.2) wi.1 }) m
    { m with repl := rest,
             entries := m.entries.filter (fun e => decide (e.toNat < lo) || decide (hi ≤ e.toNat)) ++ r.entries }

/-- The mould as it stands after each of the replacements it waits for (spec/03 R83, R90). -/
def Mould.coming (m : Mould) : List Mould := (m.repl.foldl (fun (acc : Mould × List Mould) _ =>
  (acc.1.replace, acc.2 ++ [acc.1.replace])) (m, [])).2

/-- PATTERN_REPLACEMENT: a committed replacement is written in every member of the stream while the dispatch waits,
and the dispatch then proceeds (spec/03 R89). Outside a stream it is written at once. -/
def execPatternReplacement (a : Arch) (s : State) : Out :=
  let ms := s.streamOf a
  if !ms.isEmpty && !(s.atDispatch a) then .next s
  else
    let s := s.eachArch (if ms.isEmpty then [a] else ms) (fun t b => t.modMould b Mould.replace)
    .next (s.resumeDispatch a).settleCommit

end Sys2Proof.Machine
end

