-- ==== Sys2Proof/Machine/Net.lean ====
section
/-! DEFINITION. Machine/Net.lean: the completion of a request by its initiator's own node or by its target (spec/13 R312 to
R314, spec/10 R239). -/

namespace Sys2Proof.Machine

/-- A request cannot be served yet: its packet is still on its way, or an earlier request of the same initiator to an
overlapping byte is still waiting (spec/10 R239). -/
def State.heldBack (s : State) (r : Request) : Bool :=
  s.underway (.req r) ||
  (s.net.requests.takeWhile (fun q => decide (q ≠ r))).any (fun q => decide (q.src = r.src ∧
    q.addr.toNat < r.addr.toNat + reqLen r.op ∧ r.addr.toNat < q.addr.toNat + reqLen q.op)) &&
  s.net.requests.contains r

/-- The request is taken from those under way. -/
def State.taken (s : State) (r : Request) : State := { s with net := { s.net with requests := s.net.requests.erase r } }

/-- Answer a request at its target. -/
def State.reply (s : State) (r : Request) (st : Status) (data : List Byte) : State :=
  s.answerFrom { node := targetNode r.addr, pos := 0x3F } r st data

/-- The initiator's own node answers a request (R470). -/
def State.replyHere (s : State) (r : Request) (st : Status) : State :=
  s.respondLate { dst := r.src, tag := r.tag, status := st, data := [] }

/-- Serve a request at its target: the node's own answer first, then `f` where `mine` says the target is this one. (DEDUCED, log 45) -/
def State.serve (s : State) (r : Request) (mine : Bool) (f : State → Status × List Byte × State) : State :=
  if s.heldBack r then s
  else match nodeCheck r with
    | some st => (s.taken r).replyHere r st
    | none =>
      if mine then
        let (st, d, t) := f (s.taken r)
        t.reply r st d
      else s

end Sys2Proof.Machine
end

