-- ==== Sys2Proof/Machine/SeqRegs.lean ====
section
/-! DEFINITION. Machine/SeqRegs.lean: the register actions of ARCH[a] and ISL[P]: SEQCTL, PQCTL, MCECNT, ICTRL, and the
twin-compare and island-ready events (spec/02 R56, R63, spec/03 R91 to R100, spec/04 R112, R115, spec/05 R145). -/

namespace Sys2Proof.Machine

/-- The initiator reaches register blocks other than SHORE: CC0 to CC3 in supervisor privilege, and HC (spec/01
Table 1.9, Table 13.5 of spec/13). -/
def accReachesRegs (acc : Acc) : Bool := (decide (acc.src.val < 4) && !acc.user) || decide (acc.src.val = 4)

/-- An access of a command of its own is injected with `bytes` of payload, unless the initiator's own node refuses it (spec/13
R315, R470). -/
def State.enters (s : State) (reach : Bool) (acc : Acc) (bytes : Nat) : State := if reach then s.count acc.src bytes else s

/-- Answer an access; a core notes its latency where it takes the response, the others here (spec/13 R315). -/
def State.answer (s : State) (acc : Acc) (st : Status) (data : List Byte) : State :=
  let s := if acc.src.val < 4 then s else s.noteLat acc.src
  s.respond { dst := acc.src, tag := acc.tag, status := st, data := data }

/-- Why an access to a block of archipelago `a` is refused before the block: reach, fused off, domain off (spec/01 R30,
R31, spec/00 R2, spec/03 R92). -/
def State.archGate (s : State) (acc : Acc) (a : Arch) : Option Status :=
  if !accReachesRegs acc then some .denied
  else if s.gradeC && decide (4 ≤ a.val) then some .decerr
  else if !s.domainOpen (264 + a.val) then some .domainOff
  else none

/-- The mode is SERVICE. -/
def State.service (s : State) : Bool := decide (s.mode = .service)

/-- `a` belongs to a twin pair that holds an open or pending vital window (spec/01 Table 1.6, spec/03 R93). -/
def State.vitalPairHeld (s : State) (a : Arch) : Bool :=
  s.arch[a].seq.part.twin && decide (s.vital.win ≠ .closed)

/-- Run an action at a register of archipelago `a` for the accessor, after the gate. -/
def State.archAction (s : State) (acc : Acc) (a : Arch) (f : State → Status × State) : State :=
  let s := s.enters (accReachesRegs acc) acc 4
  match s.archGate acc a with
  | some st => s.answer acc st []
  | none => let (st, t) := f s; t.answer acc st []

/-- Write the HALT bit of SEQCTL: a change is refused while a vital window is held; 1 requests the halt trigger and halts
a dispatch wait at once; 0 releases (spec/03 R93, spec/04 R107, R111). -/
def State.writeHalt (s : State) (a : Arch) (h : Bool) : Status × State :=
  let lead := s.leadOf a
  let ms := s.streamOf a
  if s.arch[a].seq.haltReq == h then (.ok, s)
  else if s.vitalPairHeld a then (.denied, s)
  else
    let s := s.modSeq a (fun q => { q with haltReq := h })
    let s := if h then s else s.modSeqs ms (fun x => { x with stepSlot := none })
    let q := (s.arch[lead]).seq
    if h then
      (.ok, if q.mode = .dispatchWait then s.modSeqs ms (fun x => { x with mode := .halted false }) else s)
    else if ms.any (fun b => (s.arch[b]).seq.haltReq) then (.ok, s)
    else if q.mode = .halted true then (.ok, s.restoreTrap lead ms)
    else if q.mode = .halted false then (.ok, s.modSeqs ms (fun x => { x with mode := .dispatchWait }))
    else (.ok, s)

/-- Write STEP: refused outside SERVICE; while halted it lets exactly one microword issue, after the restore where a halt trap
holds the routine, and the sequencer then halts again (spec/03 R93, spec/04 R112). A microword that is held, or a dispatch wait
without a record, issues when its hold ends. (DEDUCED, log 94) -/
def State.writeStep (s : State) (a : Arch) : Status × State :=
  let lead := s.leadOf a
  let ms := s.streamOf a
  let q := (s.arch[lead]).seq
  let go (t : State) : State :=
    if (t.arch[lead]).seq.mode = .running ∧ t.streamReady ms then t.issueWord lead ms false else t
  if !s.service then (.denied, s)
  else if q.mode = .halted true then
    let s := s.restoreTrap lead ms
    if s.faulted ms then (.ok, s)
    else (.ok, go (s.modSeqs ms (fun x => { x with stepSlot := some q.slot1.isSome })))
  else if q.mode = .halted false then
    let s := s.modSeqs ms (fun x => { x with stepSlot := some false, mode := .dispatchWait })
    (.ok, if !q.queue.isEmpty && s.streamReady ms then go (s.takeNext lead ms) else s)
  else (.ok, s)

/-- Complete the records of discarded trap slots that have not posted. -/
def State.dropSlots (s : State) (lead : Arch) (ms : List Arch) (status detail : Nat) : State :=
  let q := (s.arch[lead]).seq
  let s := ([q.slot0, q.slot1].filterMap id).foldl (fun t (sl : TrapSlot) =>
    match sl.ctx.cur with
    | some r => if sl.ctx.posted then t else t.complete r status detail none
    | none => t) s
  s.modSeqs ms (fun x => { x with slot0 := none, slot1 := none })

/-- Write CLRFAULT: clears SEQFAULT, RECFAULT and TWFAULT in every member of the stream; a faulted stream discards its current
record and both slots, whatever the cause, posting what has not posted, and resumes at dispatch (spec/03 R91, spec/04 R115,
spec/05 R146, spec/06 R171). A mode microword's change still in the shadow stays there (spec/03 R80), and so does TRAPSTAT.TFSUB.
(DESIGN CHOICE, log 14) -/
def State.clrFault (s : State) (a : Arch) : State :=
  let lead := s.leadOf a
  let ms := s.streamOf a
  let faulted := s.faulted ms
  let cause := (s.arch[a]).seq.seqFault.cause.toNat
  let all := if ms.isEmpty then [a] else ms
  let s := s.modSeqs all (fun q => { q with
    seqFault := { valid := false, fpc := 0, cause := 0 }, recFault := { valid := false, sub := 0, entry := 0 } })
  let s := s.eachArch all (fun t b => t.modTwin b (fun x => { x with fault := { x.fault with valid := false } }))
  if !faulted then s
  else
    let s := s.dropSlots lead ms 2 cause
    let s := s.modSeqs ms (fun q => { q with
      ctx := { q.ctx with cur := none, posted := false, failed := false, stack := [] }, mode := .dispatchWait })
    State.takeNext { s with lattice := { s.lattice with edgeSent := false } } lead ms

/-- Records of the pour port's buffers bound for the queue of `lead` (spec/05 R130, R135). -/
def State.bufferedFor (s : State) (lead : Arch) (r : PourRec) : Bool := decide (s.leadOf r.lead = lead)

/-- Complete and remove every queued and buffered record of the stream led by `lead` (spec/05 Table 5.5). (DEDUCED, log 28) -/
def State.flushQueue (s : State) (lead : Arch) (status detail : Nat) : State :=
  let q := (s.arch[lead]).seq.queue
  let b := s.pour.buf.toList.flatMap (fun l => l.filter (s.bufferedFor lead))
  let t := (q ++ b).foldl (fun t r => t.complete r status detail none) s
  let t := t.modSeq lead (fun x => { x with queue := [] })
  { t with pour := { t.pour with buf := t.pour.buf.map (fun l => l.filter (fun r => !s.bufferedFor lead r)) } }

/-- Write PQCTL.FLUSH: refused while a vital window is held, without effect at a member that does not lead
(spec/05 R145). -/
def State.writeFlush (s : State) (a : Arch) : Status × State :=
  if s.vitalPairHeld a then (.denied, s)
  else if s.leadOf a ≠ a then (.ok, s)
  else (.ok, s.flushQueue a 3 1)

/-- SEQCTL_HALT. -/
def execSeqctlHalt (acc : Acc) (a : Arch) (halt : Bool) (s : State) : Out :=
  .next (s.archAction acc a (fun t => t.writeHalt a halt))

/-- SEQCTL_STEP. -/
def execSeqctlStep (acc : Acc) (a : Arch) (s : State) : Out := .next (s.archAction acc a (fun t => t.writeStep a))

/-- SEQCTL_CLRFAULT. -/
def execSeqctlClrfault (acc : Acc) (a : Arch) (s : State) : Out :=
  .next (s.archAction acc a (fun t => (.ok, t.clrFault a)))

/-- PQCTL_FLUSH. -/
def execPqctlFlush (acc : Acc) (a : Arch) (s : State) : Out := .next (s.archAction acc a (fun t => t.writeFlush a))

/-- MCECNT_CECLR (spec/03 R100). -/
def execMcecntCeclr (acc : Acc) (a : Arch) (s : State) : Out :=
  .next (s.archAction acc a (fun t => (.ok, t.modMould a (fun m => { m with ceCnt := 0 }))))

/-- The archipelago of physical island P (spec/01 R15). -/
def islArch (P : Isl) : Arch := ix 8 (P.val / 33)

/-- Arm an injection: refused outside SERVICE with no effect (spec/02 R63). -/
def State.writeInj (s : State) (P : Isl) (plane : A13) (cl : BitVec 4) (dbl : Bool) : Status × State :=
  if !s.service then (.denied, s)
  else (.ok, s.modIsl P (fun i => { i with injPlane := plane, injCl := cl, injD := dbl, inj := true }))

/-- ICTRL_INJ. -/
def execIctrlInj (acc : Acc) (P : Isl) (plane : A13) (cl : BitVec 4) (dbl : Bool) (s : State) : Out :=
  .next (s.archAction acc (islArch P) (fun t => t.writeInj P plane cl dbl))

/-- ICTRL_CECLR (spec/02 R63). -/
def execIctrlCeclr (acc : Acc) (P : Isl) (s : State) : Out :=
  .next (s.archAction acc (islArch P) (fun t => (.ok, t.modIsl P (fun i => { i with cecnt := 0 }))))

/-- ISLAND_READY: a powered island that was not ready has finished its zero writes (spec/02 R56, spec/08 R211); one that
carries a position of a pair in vital use is then written with logical zero (spec/06 R148). The reserve of a tide step begins
to shadow: it takes its target's ladle (spec/19 Table 19.1). (DEDUCED, log 93) -/
def execIslandReady (P : Isl) (s : State) : Out :=
  if s.pwr.on.getLsbD P.val && !(s.isl[P]).ready then
    let a := islArch P
    let x := s.arch[a]
    let paired := x.seq.part.twin && (s.islands a).contains P
    let s := s.modIsl P (fun i =>
      let j := i.wiped.fill false
      { (if paired then j.logicalZero (s.oddTwin a) else j) with ready := true })
    if x.tide.phase = 1 ∧ islOf a x.rslot.toNat = P then
      .next (((s.modIsl P (fun i => { i with role := 2 })).modArch a (fun y => { y with tide := { y.tide with phase := 2 } })).mirror a)
    else .next s
  else .next s

/-- TWIN_COMPARE_MISMATCH: the oldest mismatch of the pair is detected: TWSTAT.PEND in both twins, TWFAULT (the first
of the frame), TWCNT, interrupt 1 at every core, the Holm's notice (spec/06 Table 6.2 step 2). A mismatch detected
while PEND = 1 only counts. The twin message to the Holm is a packet of open length (log 53). (DEDUCED, log 91) -/
def execTwinCompareMismatch (pair : Fin 4) (s : State) : Out :=
  let e : Arch := ix 8 (2 * pair.val)
  let o : Arch := ix 8 (2 * pair.val + 1)
  match (s.arch[e]).twin.found with
  | [] => .next s
  | m :: _ =>
    let joined := (s.arch[e]).twin.pend
    let first := !(s.arch[e]).twin.faulted
    let s := s.eachArch [e, o] (fun t a => t.modTwin a (fun x => { x with
      found := x.found.tail, cnt := satInc x.cnt, pend := true,
      pendCause := if joined then x.pendCause else some m.cause,
      faulted := true, fault := if first then { valid := true, mis := m } else x.fault }))
    let s := (s.sendPosted (vitalHeader s.parity e ((Config.freeWord s.fresh).toNat % 257))).2
    let s := { s with fresh := s.fresh + 1, vital := { s.vital with twinFault := true } }
    if joined then .next s
    else
      let s := (s.raiseAll 1).notify (.twinFault e)
      .next { s with vital := { s.vital with leaveDue := s.vital.leaveDue.or (some 1) } }

end Sys2Proof.Machine
end

