-- ==== Sys2Proof/Machine/Mailbox.lean ====
section
/-! DEFINITION. Machine/Mailbox.lean: the Holm mailbox window, its control words, and the replies the Holm gives
(spec/16 R378 to R382, Table 16.11). -/

namespace Sys2Proof.Machine

/-- Life-cycle state code of the OTP thermometer (spec/16 Table 16.11 LCSTAT). -/
def Holm.lcState (h : Holm) : Nat := min h.lcCount.toNat 4

/-- The words of the status page (Table 16.11). -/
def State.statusWord (s : State) (k : Nat) : Word :=
  match k with
  | 0 => s.holm.bootstat
  | 1 => BitVec.ofNat 32 s.holm.lcState
  | 2 => fld s.holm.epoch 0 32
  | 3 => fld s.holm.epoch 32 32
  | _ => 0

/-- The control word of area `area` (0 request, 1 frame slot, 2 reply) of core `n` (Table 16.5). -/
def Holm.ctl (h : Holm) (n : CoreId) (area : Nat) : Word :=
  match area with
  | 0 => if h.go[n] then 0x80000000 else 0
  | 1 => (if h.frmNew[n] then 0x80000000 else 0) ||| (h.fseq[n]).setWidth 32
  | _ => if h.rplValid[n] then 0x80000000 else 0

/-- One byte of the window at offset `o` below 0xD000. -/
def State.mboxByte (s : State) (o : Nat) : Byte :=
  if o < 0xC000 then
    let l := o % 0x1000
    if l < 4 then fld (s.holm.ctl (ix 4 (o / 0x3000)) (o % 0x3000 / 0x1000)) (8 * l) 8 else rdByte 0 s.holm.mbox o
  else fld (s.statusWord (offsetFrom 0xC000 o / 4)) (8 * (o % 4)) 8

/-- The request message of core `n`: TYPE, LEN, SEQ, the header's reserved bytes being zero, and the payload. -/
structure MboxMsg where
  type : Nat
  len : Nat
  seq : Word
  clean : Bool
  payload : List Byte
deriving DecidableEq, Repr

/-- Read the request message of core `n` (R379). -/
def State.mboxMsg (s : State) (n : CoreId) : MboxMsg :=
  let h := rdBytes 0 s.holm.mbox (0x3000 * n.val + 0x10) 16
  let len := natAt h 2 2
  { type := natAt h 0 2, len := len, seq := BitVec.ofNat 32 (natAt h 4 4), clean := decide (natAt h 8 8 = 0)
    payload := rdBytes 0 s.holm.mbox (0x3000 * n.val + 0x20) (min len 4064) }

/-- The LEN range of a request TYPE (Table 16.6). -/
def mboxLen (type : Nat) : Option (Nat × Nat) :=
  match type with
  | 2 => some (8, 8) | 3 => some (12, 12) | 4 => some (2, 26) | 5 => some (2, 2) | _ => none

/-- Vevis status codes (spec/17 Table 17.4). -/
inductive VStatus where
  | noSession | badMac | badSeq | badOpcode | denied | modeConflict | badLength | badParam | busy | txnOpen | noTxn
  | txnFull | txnConflict | sigInvalid | rollback | internal | ok | accepted
deriving DecidableEq, Repr

/-- Their numbers. -/
def VStatus.code : VStatus → Nat
  | .noSession => 0x0103 | .badMac => 0x0101 | .badSeq => 0x0102 | .badOpcode => 0x0201 | .denied => 0x0104
  | .modeConflict => 0x0301 | .badLength => 0x0202 | .badParam => 0x0203 | .busy => 0x0302 | .txnOpen => 0x0303
  | .noTxn => 0x0304 | .txnFull => 0x0305 | .txnConflict => 0x0306 | .sigInvalid => 0x0401 | .rollback => 0x0402
  | .internal => 0x0501 | .ok => 0 | .accepted => 1

/-- What is wrong with a request before it is acted on (R380, R382, in the order of Table 17.4). -/
def State.mboxRefusal (s : State) (n : CoreId) (m : MboxMsg) : Option VStatus :=
  match mboxLen m.type with
  | none => some .badOpcode
  | some (lo, hi) =>
    if (decide (m.type = 2) || decide (m.type = 3)) && decide (s.vital.par.vcore.toNat ≠ n.val) then some .denied
    else if m.len < lo ∨ hi < m.len then some .badLength
    else if !m.clean then some .badParam
    else none

/-- The Holm answers the request of core `n`: GO is cleared, the reply written, VALID set (R380). -/
def State.mboxReply (s : State) (n : CoreId) (m : MboxMsg) (st : VStatus) : State :=
  let hdr := bytesLE 2 (m.type ||| 0x8000) ++ bytesLE 2 0 ++ bytesLE 4 m.seq.toNat ++ bytesLE 2 st.code ++ List.replicate 6 0
  { s with holm := { s.holm with
      mbox := wrBytes 0 s.holm.mbox (0x3000 * n.val + 0x2010) hdr
      go := vset s.holm.go n false
      rplValid := vset s.holm.rplValid n true } }

/-- REQCTL.GO is written 1: the request waits for the Holm; one the Holm can only refuse is answered at once. -/
def State.mboxGo (s : State) (n : CoreId) : State :=
  if s.holm.go[n] then s
  else
    let m := s.mboxMsg n
    let t := { s with holm := { s.holm with go := vset s.holm.go n true } }
    match s.mboxRefusal n m with
    | some st => t.mboxReply n m st
    | none => t

/-- FRMCTL.NEW and RPLCTL.VALID are written 1 (R380, R382). -/
def State.clearNew (s : State) (n : CoreId) : State :=
  { s with holm := { s.holm with frmNew := vset s.holm.frmNew n false } }
def State.clearValid (s : State) (n : CoreId) : State :=
  { s with holm := { s.holm with rplValid := vset s.holm.rplValid n false } }

/-- A write to the area of core `n` at offset `l` of area `area` (R378, R380): while GO = 1 the request area takes a write of GO only, and the
other areas take from a core a write of their NEW or VALID only. -/
def State.mboxAreaWrite (s : State) (hc : Bool) (n : CoreId) (area l : Nat) (bs : List Byte) : Status × State :=
  let o := 0x3000 * n.val + 0x1000 * area + l
  let ctlOnly := decide (l + bs.length ≤ 4)
  let flagOnly := ctlOnly && decide (4 ≤ l + bs.length)
  let bit31 := decide (l < 4) && (natLE bs * 2 ^ (8 * l)).testBit 31
  let ram := { s with holm := { s.holm with mbox := wrBytes 0 s.holm.mbox (max o (o - l + 4)) (bs.drop (4 - l)) } }
  match area with
  | 0 =>
    if s.holm.go[n] && !flagOnly then (.denied, s)
    else if ctlOnly then (.ok, if bit31 then s.mboxGo n else s)
    else (.ok, if bit31 then ram.mboxGo n else ram)
  | _ =>
    if flagOnly || (ctlOnly && hc) then (.ok, if bit31 then (if area = 1 then s.clearNew n else s.clearValid n) else s)
    else if hc then (.ok, ram)
    else (.denied, s)

/-- A write at offset `o` of the window: a core writes its own areas only, and nobody but the HC's void writes past them. -/
def State.mboxWrite (s : State) (hc : Bool) (src : Fin 32) (o : Nat) (bs : List Byte) : Status × State :=
  if 0xC000 ≤ o then (if hc then .ok else .denied, s)
  else if !hc && decide (src.val ≠ o / 0x3000) then (.denied, s)
  else s.mboxAreaWrite hc (ix 4 (o / 0x3000)) (o % 0x3000 / 0x1000) (o % 0x1000) bs

/-- An access to the mailbox window (R378), answered at the Holm's node, a wrong shape first. (DESIGN CHOICE, log 104) -/
def State.mboxAccess (s : State) (src : Fin 32) (op : ReqOp) (addr : PAddr) : Status × List Byte × State :=
  let o := offsetFrom 0x30000000 addr.toNat
  let len := reqLen op
  let hc := decide (src.val = 4)
  if !([1, 2, 4, 8].contains len && o % len == 0) then (.slverr, [], s)
  else if 0xD000 ≤ o then (.decerr, [], s)
  else
    match op with
    | .atomic _ _ => (.slverr, [], s)
    | .read _ =>
      if 0xC000 ≤ o ∨ hc ∨ src.val = o / 0x3000 then
        (.ok, (List.range len).map (fun i => s.mboxByte (o + i)), s)
      else (.denied, [], s)
    | .write bs =>
      let x := s.mboxWrite hc src o bs
      (x.1, [], x.2)

/-- MAILBOX_WINDOW_ACCESS. -/
def execMailboxWindowAccess (req : Request) (s : State) : Out :=
  .next (s.serve req (decide (areaOf req.addr = .mailbox)) (fun t => t.mboxAccess req.src req.op req.addr))

/-- A core's own control-word action through the window. -/
def State.mboxAction (s : State) (acc : Acc) (n : CoreId) (f : State → State) : State :=
  if (decide (acc.src.val = n.val) && !acc.user) || decide (acc.src.val = 4) then (f (s.enters true acc 4)).answer acc .ok []
  else (s.enters (accReachesRegs acc) acc 4).answer acc .denied []

/-- RPLCTL_VALID_CLEAR. -/
def execRplctlValidClear (acc : Acc) (n : CoreId) (s : State) : Out :=
  .next (s.mboxAction acc n (fun t => t.clearValid n))

/-- FRMCTL_NEW_CLEAR: the flag is cleared and nothing else (R382). -/
def execFrmctlNewClear (acc : Acc) (n : CoreId) (s : State) : Out :=
  .next (s.mboxAction acc n (fun t => t.clearNew n))

end Sys2Proof.Machine
end

