-- ==== Sys2Proof/Machine/Alu.lean ====
section
/-! DEFINITION. Machine/Alu.lean: the results of the arithmetic and logic instructions (spec/11 R260 to R263). -/

namespace Sys2Proof.Machine

/-- The number of operand words. -/
def AluOp.arity : AluOp → Nat
  | .adc | .sbc | .bfi => 3
  | .not | .neg | .clz | .popc | .sext8 | .sext16 | .sext18 | .sat18 => 1
  | _ => 2

/-- The number of result words. -/
def AluOp.results : AluOp → Nat
  | .adc | .sbc | .mulwu | .mulws => 2
  | _ => 1

/-- Clamp to −2^17 … 2^17 − 1 (Table 11.5 SAT18). -/
def clamp18 (x : Int) : Int := if x < -131072 then -131072 else if 131071 < x then 131071 else x

/-- SAT18. -/
def sat18w (a : Word) : Word := BitVec.ofInt 32 (clamp18 a.toInt)

/-- Leading zeros of a 32-bit word, 32 for zero (Table 11.6). -/
def clz32 (a : Word) : Nat := 32 - (if a.toNat = 0 then 0 else a.toNat.log2 + 1)

/-- DIVU and REMU (Table 11.6 for a zero divisor). -/
def divu32 (a b : Word) : Word := if b = 0 then BitVec.allOnes 32 else BitVec.ofNat 32 (a.toNat / b.toNat)
def remu32 (a b : Word) : Word := if b = 0 then a else BitVec.ofNat 32 (a.toNat % b.toNat)

/-- DIVS, truncated toward zero, and REMS with the sign of a (Tables 11.5 and 11.6). -/
def divs32 (a b : Word) : Word := if b = 0 then BitVec.allOnes 32 else BitVec.ofInt 32 (Int.tdiv a.toInt b.toInt)
def rems32 (a b : Word) : Word := if b = 0 then a else BitVec.ofInt 32 (Int.tmod a.toInt b.toInt)

/-- SHL, SHR, SAR with the full 32-bit count. -/
def shl32 (a s : Word) : Word := if s.toNat < 32 then a <<< s.toNat else 0
def shr32 (a s : Word) : Word := if s.toNat < 32 then a >>> s.toNat else 0
def sar32 (a s : Word) : Word := a.sshiftRight (min s.toNat 31)

/-- BFX (R262). -/
def bfx32 (a ctl : Word) : Word :=
  let p := (fld ctl 0 5).toNat
  let w := (fld ctl 5 5).toNat + 1
  let f := (a.toNat >>> p) % 2 ^ w
  if ctl.getLsbD 10 && f.testBit (w - 1) then BitVec.ofInt 32 ((f : Int) - 2 ^ w) else BitVec.ofNat 32 f

/-- BFI (R262). -/
def bfi32 (a v ctl : Word) : Word :=
  let p := (fld ctl 0 5).toNat
  let w := (fld ctl 5 5).toNat + 1
  let m : Word := BitVec.ofNat 32 ((2 ^ w - 1) <<< p)
  (a &&& ~~~m) ||| ((v <<< p) &&& m)

/-- One byte of BPERM: code `k`, the byte before it (R263). -/
def bpermByte (a : Word) (k : Nat) (prev : Byte) : Byte :=
  match k with
  | 0 => fld a 0 8
  | 1 => fld a 8 8
  | 2 => fld a 16 8
  | 3 => fld a 24 8
  | 5 => 0xFF
  | 6 => if prev.getLsbD 7 then 0xFF else 0
  | _ => 0

/-- BPERM (R263). -/
def bperm32 (a sel : Word) : Word :=
  let b0 := bpermByte a (fld sel 0 3).toNat 0
  let b1 := bpermByte a (fld sel 4 3).toNat b0
  let b2 := bpermByte a (fld sel 8 3).toNat b1
  let b3 := bpermByte a (fld sel 12 3).toNat b2
  b3 ++ b2 ++ b1 ++ b0

/-- A 64-bit product as low and high words. -/
def lohi (x : BitVec 64) : List Word := [fld x 0 32, fld x 32 32]

/-- One as a word where `b` holds. -/
def flagWord (b : Bool) : Word := if b then 1 else 0

/-- The result words, the last on top (Table 11.5). -/
def AluOp.eval (op : AluOp) (a b c : Word) : List Word :=
  match op with
  | .add => [a + b]
  | .sub => [a - b]
  | .adc => let t := a.toNat + b.toNat + c.toNat % 2; [BitVec.ofNat 32 t, flagWord (decide (2 ^ 32 ≤ t))]
  | .sbc => [a - b - BitVec.ofNat 32 (c.toNat % 2), flagWord (decide (a.toNat < b.toNat + c.toNat % 2))]
  | .mul => [a * b]
  | .mulwu => lohi (a.setWidth 64 * b.setWidth 64)
  | .mulws => lohi (a.signExtend 64 * b.signExtend 64)
  | .divu => [divu32 a b]
  | .divs => [divs32 a b]
  | .remu => [remu32 a b]
  | .rems => [rems32 a b]
  | .and => [a &&& b]
  | .or => [a ||| b]
  | .xor => [a ^^^ b]
  | .not => [~~~a]
  | .neg => [-a]
  | .shl => [shl32 a b]
  | .shr => [shr32 a b]
  | .sar => [sar32 a b]
  | .rol => [a.rotateLeft (b.toNat % 32)]
  | .clz => [BitVec.ofNat 32 (clz32 a)]
  | .popc => [BitVec.ofNat 32 (popcount a)]
  | .bfx => [bfx32 a b]
  | .bfi => [bfi32 a b c]
  | .bperm => [bperm32 a b]
  | .min => [if a.toInt ≤ b.toInt then a else b]
  | .max => [if a.toInt ≤ b.toInt then b else a]
  | .sext8 => [(fld a 0 8).signExtend 32]
  | .sext16 => [(fld a 0 16).signExtend 32]
  | .sext18 => [(fld a 0 18).signExtend 32]
  | .sat18 => [sat18w a]

/-- The result words for a list of operands, in stack order. -/
def AluOp.run (op : AluOp) (args : List Word) : List Word :=
  op.eval (args.getD 0 0) (args.getD 1 0) (args.getD 2 0)

end Sys2Proof.Machine
end

