-- ==== Sys2Proof/Machine/Operands.lean ====
section
/-! DEFINITION. Machine/Operands.lean: the operand forms of the control cores: outcomes of an instruction, address
translation, local memory, the operand stack with pending slots, tags and reservation stations (spec/10 R232, R238
to R241, R247 to R250, spec/11 R258). -/

namespace Sys2Proof.Machine

/-- What an instruction does: it completes (with the address it continues at when that is not the next instruction, the
requests it issues and the record it pours), has not begun and waits, raises an exception with its cause, EVAL (none: not
written) and further ECAUSE bits (the core carries what stands nevertheless), or is interrupted after an element. -/
inductive CRes where
  | done (c : Core) (target : Option Word) (send : List Request) (pour : List PourRec)
  | wait (c : Core)
  | exc (c : Core) (cause : Nat) (eval : Option Word) (bits : Word)
  | broke (c : Core)
deriving DecidableEq, Repr

/-- What an instruction is told from outside its core: its core's number, room in the pour port's buffer, the vital
core's flush rule in force (spec/12 R293), the VCTRL of the vital parameters where this is VCORE after its claim (spec/06
Table 6.4), an interrupt that could be recognised inside the instruction (R246, R242). -/
structure CEnv where
  n : CoreId
  room : Bool
  vflush : Bool
  vctrl : Option Word
  irq : Bool
deriving DecidableEq, Repr

/-- An instruction's meaning on its core. -/
abbrev CBody := CEnv → Core → CRes

/-- A computation that may end the instruction early. -/
abbrev CM (α : Type) := Except CRes α

/-- Close a computation whose two ends are outcomes. -/
def CM.out (x : CM CRes) : CRes := match x with | .ok r => r | .error r => r

/-- Completed, going on at the next instruction. -/
def CRes.ok (c : Core) : CRes := .done c none [] []

/-! ### Status fields -/

/-- CST fields (spec/10 Table 10.2). -/
def Core.priv (c : Core) : Bool := c.cst.getLsbD 0
def Core.ie (c : Core) : Bool := c.cst.getLsbD 1
def Core.ve (c : Core) : Bool := c.cst.getLsbD 3
def Core.te (c : Core) : Bool := c.cst.getLsbD 4
def Core.ftz (c : Core) : Bool := c.cst.getLsbD 5
def Core.tnt (c : Core) : Bool := c.cst.getLsbD 6
def Core.sip (c : Core) : Bool := c.cst.getLsbD 7

/-- Set the taint bit (spec/06 R160, R161). -/
def Core.taint (c : Core) : Core := { c with cst := c.cst ||| 0x40 }

/-- Write CST: bits [7:0] exist, TNT is ORed (spec/10 R233, R243). -/
def Core.writeCst (c : Core) (v : Word) : Core := { c with cst := (v &&& 0xFF) ||| (c.cst &&& 0x40) }

/-- Set or clear SIP. -/
def Core.setSip (c : Core) (b : Bool) : Core := { c with cst := if b then c.cst ||| 0x80 else c.cst &&& 0xFFFFFF7F }

/-! ### Translation (spec/10 R249, R250) -/

/-- What a fetch or a data access needs of a page. -/
inductive XKind where
  | fetch | load | store
deriving DecidableEq, Repr

/-- The address of the level-1 entry for `va` under PTBR. -/
def l1Addr (ptbr va : Word) : PAddr :=
  (((fld ptbr 5 27) ++ (0 : BitVec 13)) : BitVec 40) + ((fld va 22 10).setWidth 40 <<< 3)

/-- A level-1 entry that is not valid or has a nonzero reserved bit. -/
def l1Bad (e : DWord) : Bool := !e.getLsbD 0 || fld e 1 12 != 0 || fld e 40 24 != 0

/-- The address of the level-2 entry. -/
def l2Addr (e : DWord) (va : Word) : PAddr := (fld e 13 27 ++ (0 : BitVec 13) : BitVec 40) + ((fld va 12 10).setWidth 40 <<< 3)

/-- A level-2 entry that is not valid, has a nonzero reserved bit, or maps 64 KiB with PA[15:12] nonzero. -/
def l2Bad (e : DWord) : Bool :=
  !e.getLsbD 0 || fld e 6 6 != 0 || fld e 40 24 != 0 || (e.getLsbD 5 && fld e 12 4 != 0)

/-- The physical address of `va` in the page of a level-2 entry. -/
def pteAddr (e : DWord) (va : Word) : PAddr :=
  if e.getLsbD 5 then fld e 16 24 ++ fld va 0 16 else fld e 12 28 ++ fld va 0 12

/-- The entry permits the access in the privilege. -/
def pteAllows (e : DWord) (k : XKind) (supervisor : Bool) : Bool :=
  (match k with | .load => e.getLsbD 1 | .store => e.getLsbD 2 | .fetch => e.getLsbD 3) && (supervisor || e.getLsbD 4)

/-- A TLB entry maps `va`. -/
def TlbEntry.maps (t : TlbEntry) (va : Word) : Bool :=
  if t.pte.getLsbD 5 then fld t.vpn 4 16 == fld va 16 16 else t.vpn == fld va 12 20

/-- Fill the lowest invalid entry, otherwise the entry after the last one filled. -/
def Core.tlbFill (c : Core) (t : TlbEntry) : Core :=
  let i : Fin 32 := match (List.finRange 32).find? (fun j => (c.tlb[j]).isNone) with
    | some j => j
    | none => c.tlbNext + 1
  { c with tlb := vset c.tlb i (some t), tlbNext := i }

/-- The local SRAM is 256 KiB (spec/10 R231). -/
def inSram (pa : PAddr) (len : Nat) : Bool := decide (pa.toNat + len ≤ 0x40000)

/-- `n` bytes of local SRAM; a byte nothing has written reads as 0. -/
def Core.sramRead (c : Core) (pa n : Nat) : List Byte := rdBytes 0 c.sram pa n

/-- Store bytes in local SRAM. -/
def Core.sramWrite (c : Core) (pa : Nat) (bs : List Byte) : Core :=
  { c with sram := wrBytes 0 c.sram pa bs, sramUe := c.sramUe.filter (fun w => decide (w < pa / 4 ∨ (pa + bs.length - 1) / 4 < w)) }

/-- The words of local SRAM that `n` bytes touch hold an uncorrectable error. -/
def Core.ueAt (c : Core) (pa n : Nat) : Bool := c.sramUe.any (fun w => decide (pa / 4 ≤ w ∧ w ≤ (pa + n - 1) / 4))

/-- The outcome of a walk whose tables both lie in local SRAM: the entry, or the fault with its bits of ECAUSE (bit 9 for a
table word that cannot be read); none when a table lies elsewhere. (DEDUCED, log 37) -/
def Core.localWalk (c : Core) (va : Word) : Option (Except Word DWord) :=
  let read (a : Nat) : Except Word DWord :=
    if c.ueAt a 8 then .error 0x200 else .ok (BitVec.ofNat 64 (natLE (c.sramRead a 8)))
  let a1 := l1Addr c.ptbr va
  if !inSram a1 8 then none
  else
    match read a1.toNat with
    | .error b => some (.error b)
    | .ok e1 =>
      if l1Bad e1 then some (.error 0)
      else
        let a2 := l2Addr e1 va
        if !inSram a2 8 then none
        else
          match read a2.toNat with
          | .error b => some (.error b)
          | .ok e2 => some (if l2Bad e2 then .error 0 else .ok e2)

/-- The exception code of a translation fault (Table 10.9). -/
def XKind.cause : XKind → Nat
  | .fetch => 7 | .load => 8 | .store => 9

/-- The core waits for a walk for `va`: one under way for it goes on. -/
def Core.walkFor (c : Core) (va : Word) : Core := { c with walk := some va, walkL1 := if c.walk = some va then c.walkL1 else none }

/-- Translate `va`: the physical address with the core after any TLB fill; else the fault, or the wait for a walk
through far accesses. -/
def Core.translate (c : Core) (va : Word) (k : XKind) : CM (PAddr × Core) :=
  if !c.te then .ok (va.setWidth 40, c)
  else
    let check (c : Core) (pte : DWord) : CM (PAddr × Core) :=
      if pteAllows pte k c.priv then .ok (pteAddr pte va, c) else .error (.exc c k.cause (some va) 0x100)
    match c.tlb.toList.find? (fun t => match t with | some e => e.maps va | none => false) with
    | some (some e) => check c e.pte
    | _ =>
      match c.walkFault with
      | some (page, bits) =>
        if fld page 12 20 = fld va 12 20 then .error (.exc { c with walkFault := none } k.cause (some va) bits)
        else .error (.wait (({ c with walkFault := none } : Core).walkFor va))
      | none =>
        match c.localWalk va with
        | some (.ok pte) => check (c.tlbFill { vpn := fld va 12 20, pte := pte }) pte
        | some (.error bits) => .error (.exc c k.cause (some va) bits)
        | none => .error (.wait (c.walkFor va))

/-- The 16-bit unit that local SRAM holds at `va` for a fetch (spec/11 R256); 0 where none can be fetched. -/
def Core.unitAt (c : Core) (va : Word) : BitVec 16 :=
  match c.translate va .fetch with
  | .ok (pa, _) => BitVec.ofNat 16 (natLE (c.sramRead pa.toNat 2))
  | .error _ => 0

/-! ### Parked stores and local memory -/

/-- An own global window address as the local address of the same cell (spec/01 R23). -/
def homeAddr (n : CoreId) (pa : PAddr) : Nat :=
  let base := 0x10000000 + n.val * 0x40000
  if base ≤ pa.toNat ∧ pa.toNat < base + 0x40000 then pa.toNat - base else pa.toNat

/-- A station holds a store to a byte of [pa, pa + len) (spec/10 R239). -/
def Core.parkedOverlap (c : Core) (n : CoreId) (pa : PAddr) (len : Nat) : Bool :=
  c.stations.toList.any (fun st => match st with
    | some { op := .store _ _ size spa _, args := _ } =>
      decide (homeAddr n spa < homeAddr n pa + len ∧ homeAddr n pa < homeAddr n spa + size)
    | _ => false)

/-- Natural alignment (R247). -/
def aligned (va : Word) (size : Nat) : Bool := va.toNat % size == 0

/-- The local physical address of a data access, checked for alignment, translation, range and parked stores. -/
def Core.localAddr (c : Core) (n : CoreId) (va : Word) (size : Nat) (k : XKind) : CM (Nat × Core) :=
  if !aligned va size then .error (.exc c 5 (some va) 0)
  else do
    let (pa, c) ← c.translate va k
    if !inSram pa size then .error (.exc c 0xD (some va) 0)
    else if c.parkedOverlap n pa size then .error (.wait c)
    else .ok (pa.toNat, c)

/-- Load `size` bytes locally as a number. -/
def Core.load (c : Core) (n : CoreId) (va : Word) (size : Nat) : CM (Nat × Core) := do
  let (pa, c) ← c.localAddr n va size .load
  .ok (natLE (c.sramRead pa size), c)

/-- Store `size` bytes locally. -/
def Core.store (c : Core) (n : CoreId) (va : Word) (size : Nat) (v : Nat) : CM Core := do
  let (pa, c) ← c.localAddr n va size .store
  .ok (c.sramWrite pa (bytesLE size v))

/-! ### The operand stack -/

/-- The depth. -/
def Core.depth (c : Core) : Nat := c.stack.length

/-- The stack check of R258. -/
def Core.check (c : Core) (pops pushes : Nat) : CM Unit :=
  if c.depth < pops then .error (.exc c 4 none 0)
  else if 256 < c.depth - pops + pushes then .error (.exc c 3 none 0)
  else .ok ()

/-- Release tag `t`: slots filled under it are plain values from now on (R238). -/
def Core.release (c : Core) (t : Fin 64) : Core :=
  { c with
    tags := vmod c.tags t (fun x => { x with alloc := false })
    stack := c.stack.map (fun sl => match sl with
      | .fill u w => if u = t then .val w else .fill u w
      | .poison u l st a => .poison u (l && decide (u ≠ t)) st a
      | sl => sl) }

/-- The tag a slot holds allocated. -/
def Core.slotTag (c : Core) : Slot → Option (Fin 64)
  | .fill t _ => some t
  | .pend t => if (c.tags[t]).alloc then some t else none
  | .poison t l _ _ => if l then some t else none
  | _ => none

/-- Release the tags of consumed or dropped slots. -/
def Core.releaseAll (c : Core) (sls : List Slot) : Core :=
  sls.foldl (fun c sl => match c.slotTag sl with | some t => c.release t | none => c) c

/-- The value of a filled slot. -/
def Slot.value? : Slot → Option Word
  | .val w => some w
  | .fill _ w => some w
  | _ => none

/-- A slot still waiting for a response or a station. -/
def Slot.pending : Slot → Bool
  | .pend _ => true
  | .stn _ _ => true
  | _ => false

/-- REMOTE for a poisoned slot (R241). -/
def Core.remote (c : Core) (t : Fin 64) (st : Status) (addr : PAddr) : CRes :=
  .exc { c with rerrlo := fld addr 0 32, rerrhi := ((fld addr 32 8).setWidth 32) ||| (BitVec.ofNat 32 st.code <<< 8) }
    0xA (some (BitVec.ofNat 32 (t.val + 256 * st.code))) 0

/-- The values of slots an instruction consumes, top first: it waits for a pending one, a poisoned one raises REMOTE. -/
def Core.values (c : Core) : List Slot → CM (List Word)
  | [] => .ok []
  | .val w :: r => do .ok (w :: (← c.values r))
  | .fill _ w :: r => do .ok (w :: (← c.values r))
  | .poison t _ st a :: _ => .error (c.remote t st a)
  | _ :: _ => .error (.wait c)

/-- Pop `k` words (top first), after the stack check for `pushes`. The first pending slot makes the instruction wait. -/
def Core.pop (c : Core) (k pushes : Nat) : CM (List Word × Core) := do
  c.check k pushes
  let top := c.stack.take k
  if top.any Slot.pending then .error (.wait c)
  else
    let ws ← c.values top
    let c' := c.releaseAll top
    .ok (ws, { c' with stack := c'.stack.drop k })

/-- Push plain words, the last on top. -/
def Core.push (c : Core) (ws : List Word) : Core := { c with stack := ws.foldl (fun st w => .val w :: st) c.stack }

/-! ### Tags and stations -/

/-- Allocate the lowest tag that is not allocated; the issue waits while none is free or its response is still due. -/
def Core.allocTag (c : Core) (kind : FillKind) (store : Bool) (addr : PAddr) : CM (Fin 64 × Core) :=
  match (List.finRange 64).find? (fun t => !(c.tags[t]).alloc) with
  | none => .error (.wait c)
  | some t =>
    if (c.tags[t]).out || (c.tags[t]).quar then .error (.wait c)
    else .ok (t, { c with
      tags := vset c.tags t { alloc := true, out := true, quar := false, store := store, kind := kind, addr := addr, order := c.order }
      order := c.order + 1 })

/-- Replace slots everywhere: on the stack and in the stations. -/
def Core.mapSlots (c : Core) (f : Slot → Slot) : Core :=
  { c with
    stack := c.stack.map f
    stations := c.stations.map (fun st => st.map (fun x => { x with args := x.args.map f })) }

/-- Park an operation in the lowest free station, consuming its operands. -/
def Core.park (c : Core) (op : ParkOp) (args : List Slot) : CM (Fin 4 × Core) :=
  match (List.finRange 4).find? (fun k => (c.stations[k]).isNone) with
  | none => .error (.wait c)
  | some k =>
    let plain := args.map (fun sl => match sl with
      | .fill _ w => Slot.val w
      | .poison t _ st a => .poison t false st a
      | sl => sl)
    .ok (k, { c.releaseAll args with stations := vset c.stations k (some { op := op, args := plain }) })

/-- An instruction of Table 11.5: computed where its operands are filled, parked where one is pending (R239, R260). -/
def aluBody (op : AluOp) : CBody := fun _ c => CM.out do
  c.check op.arity op.results
  let args := (c.stack.take op.arity).reverse
  if args.any Slot.pending then
    let (k, c) ← c.park (.alu op) args
    let res := if op.results = 2 then [Slot.stn k true, Slot.stn k false] else [Slot.stn k false]
    .ok (.ok { c with stack := res ++ c.stack.drop op.arity })
  else
    let (ws, c) ← c.pop op.arity op.results
    .ok (.ok (c.push (op.run ws.reverse)))

/-- Every tag answered and every station empty (R239 FENCE). -/
def Core.quiet (c : Core) : Bool :=
  c.tags.toList.all (fun t => !t.out) && c.stations.toList.all Option.isNone

/-- Insert a failed store in program order. -/
def insertFailed (x : FailedStore) : List FailedStore → List FailedStore
  | [] => [x]
  | y :: ys => if x.order < y.order then x :: y :: ys else y :: insertFailed x ys

/-- A response's value as its slot holds it (Table 11.13). -/
def fillValue (k : FillKind) (v : Nat) : Word :=
  match k with
  | .pour | .word => BitVec.ofNat 32 v
  | .ub => BitVec.ofNat 32 (v % 256)
  | .uh => BitVec.ofNat 32 (v % 65536)
  | .sb => (BitVec.ofNat 8 v).signExtend 32
  | .sh => (BitVec.ofNat 16 v).signExtend 32

/-- The answer of tag `t` arrives (R238, R241): slots fill or are poisoned, a failed far store is noted; TIMEOUT and
COLLIDED taint. -/
def Core.answer (c : Core) (t : Fin 64) (st : Status) (v : Nat) : Core :=
  let g := c.tags[t]
  let c := { c with tags := vset c.tags t { g with out := false } }
  let c := if st = .timeout ∨ st = .collided then c.taint else c
  if g.store then
    if st = .ok then c
    else { c with failed := insertFailed { order := g.order, far := true, tag := BitVec.ofNat 6 t.val, status := st, addr := g.addr } c.failed }
  else
    c.mapSlots (fun sl =>
      if sl = .pend t then
        (if st = .ok then (if g.alloc then .fill t (fillValue g.kind v) else .val (fillValue g.kind v))
         else .poison t g.alloc st g.addr)
      else sl)

/-- A parked instruction whose operands have all filled runs (R239, R241): its results fill their slots, a poisoned
operand gives poisoned results, a store stores, or is a failed store when its data is poisoned. -/
def Core.runStation (c : Core) (n : CoreId) (k : Fin 4) : Core × List Request :=
  match c.stations[k] with
  | none => (c, [])
  | some st =>
    if st.args.any Slot.pending then (c, [])
    else
      let c := { c with stations := vset c.stations k none }
      let bad := st.args.find? (fun sl => match sl with | .poison .. => true | _ => false)
      let ws := st.args.filterMap Slot.value?
      match st.op with
      | .alu op =>
        let res := op.run ws
        (c.mapSlots (fun sl => match sl with
          | .stn j hi =>
            if j = k then
              (match bad with
               | some (.poison t _ s a) => .poison t false s a
               | _ => .val (res.getD (if hi then 1 else 0) 0))
            else .stn j hi
          | sl => sl), [])
      | .store far user size pa order =>
        let v := (ws.getD 0 0).toNat
        match bad, far with
        | some (.poison _ _ s a), none =>
          ({ c with failed := insertFailed { order := order, far := false, tag := 0, status := s, addr := pa } c.failed }, [])
        | some (.poison _ _ s a), some t =>
          ({ c with
            tags := vmod c.tags t (fun x => { x with out := false })
            failed := insertFailed { order := order, far := true, tag := BitVec.ofNat 6 t.val, status := s, addr := pa } c.failed }, [])
        | _, none => (c.sramWrite pa.toNat (bytesLE size v), [])
        | _, some t =>
          (c, [{ src := ix 32 n.val, tag := BitVec.ofNat 8 t.val, user := user, op := .write (bytesLE size v), addr := pa }])

end Sys2Proof.Machine
end

