-- ==== Sys2Proof/Machine/Irq.lean ====
section
/-! DEFINITION. Machine/Irq.lean: the interrupt requests of a control core: latched edges and the level sources computed
from the units (spec/10 Table 10.8). -/

namespace Sys2Proof.Machine

/-- Interrupt `i` where `b`. -/
def irqIf (i : Nat) (b : Bool) : Word := if b then 1 <<< i else 0

/-- The level requests of core `n`: ebb warning, Holm mailbox, DMA at its owner, sprue, riser, shore summary, shore user lines,
thermal step (spec/16 R380, spec/14 R343, spec/08 R213, R471, spec/18 R419, R430). -/
def State.levels (s : State) (n : CoreId) : Word :=
  irqIf 2 (!s.pwr.holdOk) ||| irqIf 3 (s.holm.frmNew[n] || s.holm.rplValid[n]) |||
  irqIf 14 (s.dma.toList.any (fun c => decide (c.owner.toNat = n.val) && (c.doneIrq || c.faultIrq))) |||
  irqIf 15 (s.sprue.void || s.sprue.ovr || s.sprue.cache.any (fun e => e.enabled && decide (e.status = 4))) |||
  irqIf 16 (s.riser.part || s.riser.lost) ||| irqIf 19 (decide (s.shore.irq ≠ 0)) |||
  (s.shore.uirq.setWidth 32 <<< 20) ||| irqIf 29 s.pwr.step

/-- Requests present at core `n`. -/
def State.irqWord (s : State) (n : CoreId) : Word := (s.cores[n]).irq ||| s.levels n

/-- Requests enabled in IEN. -/
def State.enabledIrq (s : State) (n : CoreId) : Word := s.irqWord n &&& (s.cores[n]).ien

end Sys2Proof.Machine
end

