-- ==== Sys2Proof/Machine/CoreRun.lean ====
section
/-! DEFINITION. Machine/CoreRun.lean: how a control core runs one instruction: fetch, the mode shadow, exception and
interrupt entry, waits (spec/10 R236, R242 to R246). -/

namespace Sys2Proof.Machine

/-- Kinds of instruction that differ in how they begin: `vector` is not held by R285, `string` keeps SIP, `vstring`
does both (VSAVE, VLOAD), `reti` restores CST. -/
inductive InsnKind where
  | scalar | vector | string | vstring | reti
deriving DecidableEq, Repr

/-- An instruction: its 16-bit units, kind, whether an exception keeps what was done (progress of R246, the report of
R241), and its meaning. -/
structure Insn where
  units : Nat
  kind : InsnKind
  keeps : Bool
  body : CBody

/-- The CSR writes that go through the mode shadow (R242, R264). -/
def Core.setShadowed (c : Core) (num : Byte) (v : Word) : Core :=
  match num.toNat with
  | 0x00 => c.writeCst v
  | 0x01 => { c with ccfg := v &&& 7 }
  | 0x0B => { c with ptbr := v &&& 0xFFFFFFE0, walkFault := none }
  | 0x10 => { c with sloten := fld v 0 16 }
  | _ => c

/-- The pending CSR write takes effect; after a RETI the CST it restored stands (R243). -/
def Core.applyShadow (c : Core) (sh : Option (Byte × Word)) (reti : Bool) : Core :=
  match sh with
  | some (num, v) => if reti && num == 0 then c else c.setShadowed num v
  | none => c

/-- Fetch the units of an instruction at PC: each must translate, lie in local SRAM and overlap no parked store. -/
def Core.fetch (c : Core) (n : CoreId) : Nat → Word → CM Core
  | 0, _ => .ok c
  | k + 1, va => do
    let (pa, c) ← c.translate va .fetch
    if !inSram pa 2 then .error (.exc c 6 (some va) 0)
    else if c.parkedOverlap n pa 2 then .error (.wait c)
    else c.fetch n k (va + 2)

/-- The entry is a memory instruction, or one whose instruction is not read again yet. -/
def VEntry.isMem (e : VEntry) : Bool := match e.op with | some (.mem _) | none => true | _ => false

/-- A reporting point for a fault not yet reported (spec/12 R296): interrupt 12 latches; the instruction does not begin
when it can be taken, and completes otherwise. -/
def Core.report (c : Core) : CM Core :=
  if c.vec.valid && !c.vec.rpt then
    let c' := { c with vec := { c.vec with rpt := true }, irq := c.irq ||| 0x1000 }
    if c.ie && c.ien.getLsbD 12 then .error (.wait c') else .ok c'
  else .ok c

/-- A scalar instruction waits for earlier vector memory instructions and reports a pending fault (spec/12 R285, R296). -/
def Core.vecHold (c : Core) : CM Core :=
  if c.vec.queue.any VEntry.isMem then .error (.wait c) else c.report

/-- What stands of a core whose instruction has not begun or had no effect: walks, TLB, the fault report, and the address
registers of REMOTE. -/
def Core.unbegun (orig new : Core) : Core :=
  { orig with
    tlb := new.tlb, tlbNext := new.tlbNext, walk := new.walk, walkL1 := new.walkL1, walkFault := new.walkFault, irq := new.irq
    vec := { orig.vec with rpt := new.vec.rpt }, rerrlo := new.rerrlo, rerrhi := new.rerrhi }

/-- Run one instruction on a core (its pending shadow taken out). (DEDUCED, log 32) -/
def Core.begin (env : CEnv) (i : Insn) (c : Core) : CRes := CM.out do
  let c1 ← if i.kind = .vector ∨ i.kind = .vstring then .ok c else c.vecHold
  let c2 ← c1.fetch env.n i.units c1.pc
  .ok (i.body env (if i.kind = .string ∨ i.kind = .vstring then c2 else c2.setSip false))

/-- Stack the six words and read the vector word (R244 steps 1 and 2); an exception among them is a double fault. -/
def Core.stackFrame (c : Core) (n : CoreId) (v : Nat) : CM Core := do
  if c.vec.queue.any VEntry.isMem then .error (.wait c) else .ok ()
  let sp := c.sp
  let c ← c.store n (sp - 4) 4 c.pc.toNat
  let c ← c.store n (sp - 8) 4 c.lk.toNat
  let c ← c.store n (sp - 12) 4 c.cst.toNat
  let c ← c.store n (sp - 16) 4 c.depth
  let c ← c.store n (sp - 20) 4 (c.f[0]).toNat
  let c ← c.store n (sp - 24) 4 (c.f[1]).toNat
  let (w, c) ← c.load n (c.vbase + BitVec.ofNat 32 (4 * v)) 4
  .ok { c with sp := sp - 24, cst := (c.cst &&& 0xFFFFFF7D) ||| 1, pc := BitVec.ofNat 32 w }

/-- Take vector `v`: whether it was taken (or ended in the double fault of R245), and the core; else the entry waits.
(DEDUCED, log 33) -/
def Core.enter (c : Core) (n : CoreId) (v : Nat) : Bool × Core :=
  match c.stackFrame n v with
  | .ok c' => (true, { c' with entering := none })
  | .error (.exc c' ..) => (true, { c' with entering := none, halted := true, dfault := true })
  | .error (.wait c') => (false, c.unbegun c')
  | .error _ => (false, c)

/-- Raise an exception (R245). `c` is the core as the exception leaves it before the entry; where the entry has to wait,
`entering` says which. (DEDUCED, log 34) -/
def Core.raise (c : Core) (n : CoreId) (cause : Nat) (eval : Option Word) (bits : Word) : Bool × Core :=
  let c := { c with epc := c.pc, ecause := BitVec.ofNat 32 cause ||| bits, eval := eval.getD c.eval, entering := some cause }
  c.enter n cause

/-- The instruction of a STEP has ended: the core is halted again (R252). -/
def Core.stepEnd (c : Core) : Core := if c.stepping then { c with stepping := false, haltReq := true, halted := true } else c

/-- What core `n` sees from outside (spec/12 R293: VCORE from its claim until its FRAME_DONE is accepted). -/
def State.coreEnv (s : State) (n : CoreId) : CEnv :=
  { n := n
    room := decide ((s.pour.buf[n]).length < 4)
    vflush := decide (s.vital.par.vcore.toNat = n.val) && s.vital.claimed && !s.vital.doneOk
    vctrl := if decide (s.vital.par.vcore.toNat = n.val) && s.vital.claimed then some s.vital.par.vctrl else none
    irq := decide (s.enabledIrq n ≠ 0) && (s.cores[n]).ie && (s.cores[n]).shadow.isNone && !(s.cores[n]).stepping }

/-- Core `n` may begin an instruction: powered, not halted, not halting (a STEP runs on, R252), not in its self-test, no
shadowed write waiting for the vector unit, and not idling after WFI (an enabled request ends the idling; with IE = 1 it is
entered first, but for a STEP, in which no request is entered). -/
def State.coreReady (s : State) (n : CoreId) : Bool :=
  let c := s.cores[n]
  s.pwr.on.getLsbD (304 + n.val) && !c.halted && (!c.haltReq || c.stepping) && !c.selftest && c.late.isNone &&
    (!c.asleep || ((!c.ie || c.stepping) && decide (s.enabledIrq n ≠ 0)))

/-- Replace core `n`. -/
def State.setCore (s : State) (n : CoreId) (c : Core) : State := { s with cores := vset s.cores n c }

/-- A FENCE completes: the tags of far stores are released (R238). (DEDUCED, log 39) -/
def Core.fenceDone (c : Core) : Core :=
  { c with tags := c.tags.map (fun t => if t.store then { t with alloc := false } else t) }

/-- A shadowed write that waited for the vector memory instruction of its shadow takes effect behind it: that instruction
ran as if complete at issue (spec/12 R285). -/
def Core.lateShadow (c : Core) : Core :=
  if c.vec.queue.any VEntry.isMem then c else { c.applyShadow c.late false with late := none }

/-- What becomes due at a core with the end of something it waited for: a shadowed write, and the halt of a halting core when
a FENCE completes (R252). -/
def Core.settle (c : Core) : Core :=
  let c := c.lateShadow
  if c.haltReq && !c.halted && !c.stepping && c.quiet && !c.vec.queue.any VEntry.isMem then { c.fenceDone with halted := true } else c

/-- Replace core `n` by `c`, whose entry was taken; a double fault notifies the Holm (R245). -/
def State.entered (s : State) (n : CoreId) (c : Core) : State :=
  let t := s.setCore n c
  if c.dfault && !(s.cores[n]).dfault then t.notify (.coreFault n) else t

/-- An entry at core `n`, taken or waiting. -/
def State.entry (s : State) (n : CoreId) (r : Bool × Core) : State :=
  if r.1 then s.entered n r.2.stepEnd else s.setCore n r.2

/-- Run instruction `i` at core `n`, or go on with an entry that waits; `pour` takes a record to the pour port. A fenced
core injects nothing: an instruction that would waits (spec/13 R317).
(DEDUCED, log 31) -/
def State.runInsnWith (s : State) (pour : State → PourRec → State) (n : CoreId) (i : Insn) : State :=
  if !s.coreReady n then s
  else
    let orig := { s.cores[n] with asleep := false }
    match orig.entering with
    | some v => s.entry n (orig.enter n v)
    | none =>
      match Core.begin (s.coreEnv n) i { orig with shadow := none } with
      | .done c target send recs =>
        if s.pwr.fence.getLsbD (304 + n.val) && !(send.isEmpty && recs.isEmpty) then s.setCore n (orig.unbegun c) else
        let c := { c with pc := target.getD (orig.pc + BitVec.ofNat 32 (2 * i.units)) }
        let c := if decide (i.kind = .vector) && c.vec.queue.any VEntry.isMem then { c with late := orig.shadow }
          else c.applyShadow orig.shadow (decide (i.kind = .reti))
        let s := s.setCore n c.stepEnd
        let s := send.foldl State.inject s
        recs.foldl pour s
      | .wait c => s.setCore n (orig.unbegun c)
      | .broke c => s.setCore n { c with shadow := orig.shadow }
      | .exc c cause eval bits =>
        let base := if i.keeps then { c with shadow := none, pc := orig.pc } else { orig.unbegun c with shadow := none }
        s.entry n ((base.applyShadow orig.shadow false).raise n cause eval bits)

/-- Recognise the lowest enabled request at core `n` (R244): not inside the mode shadow, not within a STEP or an entry, only
with IE = 1. -/
def State.takeInterrupt (s : State) (n : CoreId) : State :=
  let c := s.cores[n]
  let w := s.enabledIrq n
  if !(s.pwr.on.getLsbD (304 + n.val)) || c.halted || c.haltReq || c.selftest || !c.ie || c.shadow.isSome ||
      c.late.isSome || c.stepping || c.entering.isSome then s
  else
    match (List.range 32).find? (fun i => w.getLsbD i) with
    | none => s
    | some i =>
      let (taken, c') := c.enter n (32 + i)
      if taken then
        s.entered n { c' with irq := c'.irq &&& ~~~((1 : Word) <<< i), asleep := false }
      else s.setCore n c'

end Sys2Proof.Machine
end

