-- ==== Sys2Proof/Machine/CoreStack.lean ====
section
/-! DEFINITION. Machine/CoreStack.lean: stack, literal, register and CSR instructions (spec/11 Tables 11.3, 11.4, 11.7,
spec/10 Table 10.4, spec/12 Table 12.8). -/

namespace Sys2Proof.Machine

/-- Raise ILLEGAL. -/
def illegal (c : Core) : CRes := .exc c 1 none 0

/-- A one-unit scalar instruction. -/
def insn1 (body : CBody) : Insn := { units := 1, kind := .scalar, keeps := false, body := body }
/-- A two-unit and a three-unit scalar instruction. -/
def insn2 (body : CBody) : Insn := { units := 2, kind := .scalar, keeps := false, body := body }
def insn3 (body : CBody) : Insn := { units := 3, kind := .scalar, keeps := false, body := body }

/-- A stack instruction that moves slots: pops, pushes, and the new top slots from the old ones (top first) with those
dropped. -/
def moveBody (pops pushes : Nat) (f : List Slot → List Slot) (dropped : List Slot → List Slot) : CBody := fun _ c => CM.out do
  c.check pops pushes
  let top := c.stack.take pops
  let c' := c.releaseAll (dropped top)
  .ok (.ok { c' with stack := f (c'.stack.take pops) ++ c'.stack.drop pops })

def insnNop : Insn := insn1 (fun _ c => .ok c)
def insnDup : Insn := insn1 (moveBody 1 2 (fun l => l ++ l) (fun _ => []))
def insnDrop : Insn := insn1 (moveBody 1 0 (fun _ => []) id)
def insnSwap : Insn := insn1 (moveBody 2 2 List.reverse (fun _ => []))
def insnOver : Insn := insn1 (moveBody 2 3 (fun l => l.drop 1 ++ l) (fun _ => []))
def insnRot : Insn := insn1 (moveBody 3 3 (fun l => l.drop 2 ++ l.take 2) (fun _ => []))

/-- PICK k: STKUNF when k ≥ d. -/
def insnPick (k : Byte) : Insn := insn1 (moveBody (k.toNat + 1) (k.toNat + 2) (fun l => l.drop k.toNat ++ l) (fun _ => []))

/-- PUT k: STKUNF when k ≥ d − 1; the word overwritten is dropped. -/
def insnPut (k : Byte) : Insn :=
  insn1 (moveBody (k.toNat + 2) (k.toNat + 1) (fun l => (l.drop 1).take k.toNat ++ l.take 1) (fun l => l.drop (k.toNat + 1)))

def insnDepth : Insn := insn1 (fun _ c => CM.out do
  c.check 0 1
  .ok (.ok (c.push [BitVec.ofNat 32 c.depth])))

/-- Push a literal. -/
def litBody (w : Word) : CBody := fun _ c => CM.out do
  c.check 0 1
  .ok (.ok (c.push [w]))

def insnLit8 (imm : Byte) : Insn := insn1 (litBody (imm.signExtend 32))
def insnLit16 (imm : BitVec 16) : Insn := insn2 (litBody (imm.setWidth 32))
def insnLit32 (imm : Word) : Insn := insn3 (litBody imm)
def insnLithi (imm : BitVec 16) : Insn := insn2 (fun _ c => CM.out do
  let (ws, c) ← c.pop 1 1
  .ok (.ok (c.push [imm ++ fld (ws.getD 0 0) 0 16])))

/-! ### Arithmetic (Table 11.5) -/

def insnAlu (op : AluOp) : Insn := insn1 (aluBody op)

/-! ### Register moves -/

/-- Register r of Table 11.7. -/
def Core.reg (c : Core) (r : Nat) : Option Word :=
  if r < 8 then some (c.f[ix 8 r])
  else match r with
    | 8 => some c.cnt | 9 => some c.src | 10 => some c.dst | 11 => some c.lk | 12 => some c.sp | _ => none

/-- Write register r. -/
def Core.setReg (c : Core) (r : Nat) (w : Word) : Core :=
  if r < 8 then { c with f := vset c.f (ix 8 r) w }
  else match r with
    | 8 => { c with cnt := w } | 9 => { c with src := w } | 10 => { c with dst := w } | 11 => { c with lk := w }
    | 12 => { c with sp := w } | _ => c

def insnRdr (r : Byte) : Insn := insn1 (fun _ c => CM.out do
  match c.reg r.toNat with
  | none => .ok (illegal c)
  | some w => do
    c.check 0 1
    .ok (.ok (c.push [w])))

def insnWrr (r : Byte) : Insn := insn1 (fun _ c => CM.out do
  match c.reg r.toNat with
  | none => .ok (illegal c)
  | some _ => do
    let (ws, c) ← c.pop 1 0
    let w := ws.getD 0 0
    .ok (if r.toNat = 12 ∧ fld w 0 2 ≠ 0 then .exc c 5 (some w) 0 else .ok (c.setReg r.toNat w)))

/-! ### CSR moves (R235, R264, spec/12 R299) -/

/-- A CSR of Table 10.4 or 12.8. -/
def csrListed (k : Nat) : Bool := decide (k ≤ 0x10) || (decide (0x20 ≤ k) && decide (k ≤ 0x2C))
/-- A CSR of the vector unit. -/
def csrVector (k : Nat) : Bool := decide (0x20 ≤ k)
/-- A read-only CSR. -/
def csrRO (k : Nat) : Bool := [0x06, 0x07, 0x08, 0x09, 0x0D, 0x0E, 0x0F, 0x26, 0x27, 0x29, 0x2A, 0x2B, 0x2C].contains k
/-- A CSR a core in user privilege may read. -/
def csrUser (k : Nat) : Bool := [0x00, 0x06, 0x07, 0x08, 0x09].contains k

/-- Bit t: tag `lo + t` allocated (Table 10.4 TAGSLO, TAGSHI). -/
def Core.tagWord (c : Core) (lo : Nat) : Word := bvOf 32 (fun t => (c.tags[ix 64 (lo + t)]).alloc)

/-- DTBL (spec/11 Table 11.17). -/
def Core.dtbl (c : Core) : Word := bvOf 16 (fun k => (c.slots[ix 16 k]).getLsbD 31) ++ c.sloten

/-- VFSTAT (spec/12 Table 12.9). -/
def VecUnit.vfstat (v : VecUnit) : Word :=
  (BitVec.ofBool v.valid ++ BitVec.ofBool v.rpt ++ v.kind ++ v.e ++ BitVec.ofNat 3 (v.faulted.length - 1) ++ (0 : BitVec 17) : BitVec 32)

/-- The capture word of an entry (spec/12 Table 12.10). -/
def VEntry.cap (e : VEntry) : Word :=
  (1#1 ++ BitVec.ofNat 2 e.nsc ++ e.vl ++ e.grp ++ e.rm ++ BitVec.ofBool e.ftz ++ (0 : BitVec 17) : BitVec 32)

/-- The words of the selected entry of the fault record (R297): address, A, B, capture word. -/
def VecUnit.entryWord (v : VecUnit) (i k : Nat) : Word :=
  match v.faulted[i]? with
  | none => 0
  | some e => match k with | 0 => e.pc | 1 => e.a | 2 => e.b | _ => e.cap

/-- Read a CSR. -/
def Core.csr (c : Core) (n : CoreId) (k : Nat) : Word :=
  match k with
  | 0x00 => c.cst | 0x01 => c.ccfg | 0x02 => c.vbase | 0x03 => c.epc | 0x04 => c.ecause | 0x05 => c.eval
  | 0x06 => fld (Config.coreCycles n c.draws) 0 32
  | 0x07 => c.cychi
  | 0x08 => c.tagWord 0 | 0x09 => c.tagWord 32 | 0x0A => c.ien | 0x0B => c.ptbr | 0x0C => c.tmr
  | 0x0D => c.rerrlo | 0x0E => c.rerrhi | 0x0F => BitVec.ofNat 32 n.val | 0x10 => c.dtbl
  | 0x20 => c.vec.grp.setWidth 32 | 0x21 => c.vec.vl.setWidth 32 | 0x22 => c.vec.vstart.setWidth 32
  | 0x23 => c.vec.vctrl.setWidth 32 | 0x24 => c.vec.vflags.setWidth 32 | 0x25 => c.vec.vfstat
  | 0x26 => c.vec.vfpc | 0x27 => c.vec.vfva | 0x28 => c.vec.qsel.setWidth 32
  | 0x29 => c.vec.entryWord c.vec.qsel.toNat 0 | 0x2A => c.vec.entryWord c.vec.qsel.toNat 1
  | 0x2B => c.vec.entryWord c.vec.qsel.toNat 2 | 0x2C => c.vec.entryWord c.vec.qsel.toNat 3
  | _ => 0

/-- The side effects of reading a CSR: CYCLO latches CYCHI, both taint (spec/06 Table 6.4). -/
def Core.csrRead (c : Core) (n : CoreId) (k : Nat) : Core :=
  match k with
  | 0x06 => { c with cychi := fld (Config.coreCycles n c.draws) 32 32, draws := c.draws + 1 }.taint
  | 0x07 => c.taint
  | _ => c

/-- Empty the fault record (spec/12 R298). -/
def VecUnit.clearFault (v : VecUnit) : VecUnit :=
  { v with valid := false, rpt := false, kind := 0, e := 0, vfpc := 0, vfva := 0, vstart := 0, faulted := [] }

/-- Clamp a written VL to 64 (spec/12 Table 12.8). -/
def clampVl (w : Word) : BitVec 7 := if 64 < w.toNat then 64 else fld w 0 7

/-- Write a CSR that takes effect at once. -/
def Core.csrWrite (c : Core) (env : CEnv) (k : Nat) (w : Word) : Core :=
  match k with
  | 0x02 => { c with vbase := w &&& 0xFFFFFF00 }
  | 0x03 => { c with epc := w }
  | 0x04 => { c with ecause := w &&& 0x3FF }
  | 0x05 => { c with eval := w }
  | 0x0A => { c with ien := w &&& 0xFFFFDFFF }
  | 0x0C => { c with tmr := w }
  | 0x20 => { c with vec := { c.vec with grp := fld w 0 2 } }
  | 0x21 => { c with vec := { c.vec with vl := clampVl w } }
  | 0x22 => { c with vec := { c.vec with vstart := fld w 0 6 } }
  | 0x23 =>
    let c' := { c with vec := { c.vec with vctrl := fld w 0 3 } }
    (match env.vctrl with
     | some p => if fld w 0 3 ≠ fld p 0 3 then c'.taint else c'
     | none => c')
  | 0x24 => { c with vec := { c.vec with vflags := fld w 0 5 } }
  | 0x25 => if w.getLsbD 31 then c else { c with vec := c.vec.clearFault }
  | 0x28 => { c with vec := { c.vec with qsel := fld w 0 3 } }
  | _ => c

/-- The CSRs behind the mode shadow (R242). -/
def csrShadowed (k : Nat) : Bool := [0x00, 0x01, 0x0B, 0x10].contains k

/-- A CSR move of the vector unit waits until the unit is empty (spec/12 R286). -/
def Core.vecIdle (c : Core) (k : Nat) : CM Unit :=
  if csrVector k && !c.vec.queue.isEmpty then .error (.wait c) else .ok ()

def insnCsrr (k : Byte) : Insn := insn1 (fun env c => CM.out do
  if !csrListed k.toNat then .ok (illegal c)
  else if !c.priv && !csrUser k.toNat then .ok (.exc c 2 none 0)
  else do
    c.check 0 1
    c.vecIdle k.toNat
    .ok (.ok ((c.csrRead env.n k.toNat).push [c.csr env.n k.toNat])))

def insnCsrw (k : Byte) : Insn := insn1 (fun env c => CM.out do
  if !csrListed k.toNat then .ok (illegal c)
  else if !c.priv then .ok (.exc c 2 none 0)
  else if csrRO k.toNat then .ok (illegal c)
  else do
    let (ws, c) ← c.pop 1 0
    let w := ws.getD 0 0
    c.vecIdle k.toNat
    if k.toNat = 0x20 ∧ fld w 0 2 = 3 then .ok (illegal c)
    else if csrShadowed k.toNat then .ok (.ok { c with shadow := some (k, w) })
    else .ok (.ok (c.csrWrite env k.toNat w)))

end Sys2Proof.Machine
end

