-- ==== Sys2Proof/Machine/CoreMem.lean ====
section
/-! DEFINITION. Machine/CoreMem.lean: local loads and stores, branches, calls, returns, TRAP, string instructions, SAVESTK
and LOADSTK (spec/11 R259, R265 to R272). -/

namespace Sys2Proof.Machine

/-! ### Loads and stores (Table 11.8) -/

/-- A local load of `size` bytes widened by `ext`. -/
def loadBody (size : Nat) (ext : Nat → Word) : CBody := fun env c => CM.out do
  let (ws, c) ← c.pop 1 1
  let (v, c) ← c.load env.n (ws.getD 0 0) size
  .ok (.ok (c.push [ext v]))

/-- Sign-extend a byte or a half-word. -/
def sx8 (v : Nat) : Word := (BitVec.ofNat 8 v).signExtend 32
def sx16 (v : Nat) : Word := (BitVec.ofNat 16 v).signExtend 32

/-- A store of `size` bytes: a pending address waits, pending data parks (R239). -/
def storeBody (size : Nat) : CBody := fun env c => CM.out do
  c.check 2 0
  let top := c.stack.take 2
  if (top.drop 1).any Slot.pending && !(top.take 1).any Slot.pending then
    let ws ← c.values (top.take 1)
    let (pa, c) ← c.localAddr env.n (ws.getD 0 0) size .store
    let (_, c') ← c.park (.store none (!c.priv) size (BitVec.ofNat 40 pa) c.order) (top.drop 1)
    let c' := c'.releaseAll (top.take 1)
    .ok (.ok { c' with stack := c'.stack.drop 2, order := c'.order + 1 })
  else
    let (ws, c) ← c.pop 2 0
    let c ← c.store env.n (ws.getD 0 0) size (ws.getD 1 0).toNat
    .ok (.ok c)

def insnLdb : Insn := insn1 (loadBody 1 sx8)
def insnLdbu : Insn := insn1 (loadBody 1 (BitVec.ofNat 32))
def insnLdh : Insn := insn1 (loadBody 2 sx16)
def insnLdhu : Insn := insn1 (loadBody 2 (BitVec.ofNat 32))
def insnLdw : Insn := insn1 (loadBody 4 (BitVec.ofNat 32))
def insnStb : Insn := insn1 (storeBody 1)
def insnSth : Insn := insn1 (storeBody 2)
def insnStw : Insn := insn1 (storeBody 4)

/-! ### Branches, calls, returns (Tables 11.9 to 11.11) -/

/-- Continue at `t`; an odd target raises ALIGN (R247). -/
def Core.goto (c : Core) (t : Word) : CRes := if t.getLsbD 0 then .exc c 5 (some t) 0 else .done c (some t) [] []

/-- The target of a relative transfer. -/
def Core.relTarget (c : Core) (rel : Word) : Word := c.pc + rel + rel

/-- A branch on `pops` operands (in stack order). -/
def branchBody (pops : Nat) (rel : BitVec 16) (taken : Word → Word → Bool) : CBody := fun _ c => CM.out do
  let (ws, c') ← c.pop pops 0
  let a := ws.getD (pops - 1) 0
  let b := ws.getD 0 0
  .ok (if taken a b then c'.goto (c.relTarget (rel.signExtend 32)) else .ok c')

def insnBeq (rel : BitVec 16) : Insn := insn2 (branchBody 2 rel (fun a b => a == b))
def insnBne (rel : BitVec 16) : Insn := insn2 (branchBody 2 rel (fun a b => a != b))
def insnBlt (rel : BitVec 16) : Insn := insn2 (branchBody 2 rel (fun a b => decide (a.toInt < b.toInt)))
def insnBge (rel : BitVec 16) : Insn := insn2 (branchBody 2 rel (fun a b => decide (b.toInt ≤ a.toInt)))
def insnBltu (rel : BitVec 16) : Insn := insn2 (branchBody 2 rel (fun a b => decide (a.toNat < b.toNat)))
def insnBgeu (rel : BitVec 16) : Insn := insn2 (branchBody 2 rel (fun a b => decide (b.toNat ≤ a.toNat)))
def insnBeqz (rel : BitVec 16) : Insn := insn2 (branchBody 1 rel (fun a _ => a == 0))
def insnBnez (rel : BitVec 16) : Insn := insn2 (branchBody 1 rel (fun a _ => a != 0))
def insnBra (rel : BitVec 16) : Insn := insn2 (fun _ c => c.goto (c.relTarget (rel.signExtend 32)))
def insnJmp : Insn := insn1 (fun _ c => CM.out do
  let (ws, c) ← c.pop 1 0
  .ok (c.goto (ws.getD 0 0)))

def insnCalll (rel : BitVec 16) : Insn := insn2 (fun _ c =>
  ({ c with lk := c.pc + 4 } : Core).goto (c.relTarget (rel.signExtend 32)))
def insnCalli : Insn := insn1 (fun _ c => CM.out do
  let (ws, c) ← c.pop 1 0
  .ok (({ c with lk := c.pc + 2 } : Core).goto (ws.getD 0 0)))
def insnRetl : Insn := insn1 (fun _ c => c.goto c.lk)

/-- The registers a mask names, ascending. -/
def maskRegs (m : Byte) : List (Fin 8) := (List.finRange 8).filter (fun i => m.getLsbD i.val)

/-- Store words from an address upward. -/
def Core.storeWords (c : Core) (n : CoreId) : Word → List Word → CM Core
  | _, [] => .ok c
  | a, w :: ws => do
    let c ← c.store n a 4 w.toNat
    c.storeWords n (a + 4) ws

/-- Load `k` words from an address upward. -/
def Core.loadWords (c : Core) (n : CoreId) : Nat → Word → CM (List Word × Core)
  | 0, _ => .ok ([], c)
  | k + 1, a => do
    let (v, c) ← c.load n a 4
    let (r, c) ← c.loadWords n k (a + 4)
    .ok (BitVec.ofNat 32 v :: r, c)

/-- CALL mask: the frame of Table 11.11 (R268). -/
def insnCall (mask : Byte) (rel : BitVec 24) : Insn := insn3 (fun env c => CM.out do
  let rs := maskRegs mask
  let sp := c.sp - BitVec.ofNat 32 (4 * (rs.length + 2))
  let c ← c.storeWords env.n sp (c.lk :: mask.setWidth 32 :: rs.map (fun i => c.f[i]))
  .ok (({ c with sp := sp, lk := c.pc + 6 } : Core).goto (c.relTarget (rel.signExtend 32))))

/-- RET (R268). -/
def insnRet : Insn := insn1 (fun env c => CM.out do
  let (m, c) ← c.load env.n (c.sp + 4) 4
  if 256 ≤ m then .ok (.exc c 0xC none 0)
  else do
    let rs := maskRegs (BitVec.ofNat 8 m)
    let (vals, c) ← c.loadWords env.n rs.length (c.sp + 8)
    let (lk, c) ← c.load env.n c.sp 4
    let f := (rs.zip vals).foldl (fun f rv => vset f rv.1 rv.2) c.f
    .ok (({ c with f := f, lk := BitVec.ofNat 32 lk, sp := c.sp + BitVec.ofNat 32 (4 * (rs.length + 2)) } : Core).goto c.lk))

/-- RETI (R245): the six stacked words, lowest address first F1, F0, depth, CST, LK, PC. (DEDUCED, log 35) -/
def insnReti : Insn := { units := 1, kind := .reti, keeps := false, body := fun env c => CM.out do
  if !c.priv then .ok (.exc c 2 none 0)
  else do
    let (ws, c) ← c.loadWords env.n 6 c.sp
    if (ws.getD 2 0).toNat ≠ c.depth then .ok (.exc c 0xC none 0)
    else
      let c := c.writeCst (ws.getD 3 0)
      .ok (({ c with lk := ws.getD 4 0, sp := c.sp + 24, f := vset (vset c.f 1 (ws.getD 0 0)) 0 (ws.getD 1 0) } : Core).goto
        (ws.getD 5 0)) }

def insnTrap (imm : Byte) : Insn := insn1 (fun _ c => .exc c 0xB (some (imm.setWidth 32)) 0)

/-! ### String instructions (Table 11.12) -/

/-- The element actions. -/
inductive StrOp where
  | cpy | fil | cmp | fnd
deriving DecidableEq, Repr

/-- The comparison word of SCMP and SFND (R270). -/
def cmpWord (x y : Nat) : Word := if x = y then 0 else if y < x then 1 else BitVec.allOnes 32

/-- One element: the core with addresses advanced, and the comparison word. -/
def Core.element (c : Core) (n : CoreId) (op : StrOp) (size : Nat) (v : Word) : CM (Core × Word) :=
  let step := BitVec.ofNat 32 size
  match op with
  | .cpy => do
    let (x, c) ← c.load n c.src size
    let c ← c.store n c.dst size x
    .ok ({ c with src := c.src + step, dst := c.dst + step }, 0)
  | .fil => do
    let c ← c.store n c.dst size v.toNat
    .ok ({ c with dst := c.dst + step }, 0)
  | .cmp => do
    let (x, c) ← c.load n c.src size
    let (y, c) ← c.load n c.dst size
    .ok ({ c with src := c.src + step, dst := c.dst + step }, cmpWord x y)
  | .fnd => do
    let (x, c) ← c.load n c.dst size
    .ok ({ c with dst := c.dst + step }, cmpWord x (v.toNat % 256 ^ size))

/-- An early end inside an interruptible instruction (R246), `c` being the core before the element: a fault sets SIP and
keeps the progress, a walk that must be waited for interrupts the instruction where progress was made. -/
def CRes.mid (c : Core) (progress : Bool) : CRes → CRes
  | .exc c' cause eval bits => .exc ((c.unbegun c').setSip true) cause eval bits
  | .wait c' => if progress then .broke ((c.unbegun c').setSip true) else .wait c'
  | r => r

/-- The end of a string instruction: SIP clears, SCMP and SFND push the comparison word. -/
def Core.strEnd (c : Core) (op : StrOp) (r : Word) : CRes :=
  let c := c.setSip false
  match op with
  | .cmp | .fnd => .ok (c.push [r])
  | _ => .ok c

/-- Elements under RPT: `k` bounds the elements (CNT), `handled` those done, `brk` the element after which a waiting
interrupt is recognised. -/
def Core.strLoop (n : CoreId) (op : StrOp) (size : Nat) (v : Word) (pfx : RptPrefix) (brk : Option Nat) :
    Nat → Nat → Core → Word → CRes
  | 0, _, c, r => c.strEnd op r
  | k + 1, handled, c, _ =>
    match c.element n op size v with
    | .error e => e.mid c (decide (0 < handled))
    | .ok (c, r) =>
      let c := { c with cnt := c.cnt - 1 }
      let goes := match pfx, op with | .eq, .cmp | .eq, .fnd => r == 0 | .ne, .cmp | .ne, .fnd => r != 0 | _, _ => true
      if k = 0 || !goes then c.strEnd op r
      else if brk = some (handled + 1) then .broke (c.setSip true)
      else Core.strLoop n op size v pfx brk k (handled + 1) c r

/-- A string instruction (R270 to R272). Resumed with SIP = 1 it does not examine its prefix again, and v, which an
interruption leaves on the stack, is read there and stays. -/
def strBody (op : StrOp) (size : Nat) (pfx : RptPrefix) (brk : Option Nat) : CBody := fun env c => CM.out do
  let compares := decide (op = .cmp ∨ op = .fnd)
  let takes := decide (op = .fil ∨ op = .fnd)
  if !c.sip && !compares && decide (pfx = .eq ∨ pfx = .ne) then .ok (illegal c)
  else do
    let pops := if takes then 1 else 0
    let (ws, c1) ← c.pop pops (pops + (if compares then 1 else 0))
    let v := ws.getD 0 0
    let c1 := if takes then c1.push [v] else c1
    if pfx = .none then
      let (c2, r) ← c1.element env.n op size v
      .ok (c2.strEnd op r)
    else .ok (Core.strLoop env.n op size v pfx (if env.irq then brk else none) c1.cnt.toNat 0 c1 0)

/-- A string instruction's shape: one unit, or two with its prefix; only the prefixed one keeps progress (R246). -/
def insnStr (op : StrOp) (size : Nat) (pfx : RptPrefix) (brk : Option Nat) : Insn :=
  { units := if pfx = .none then 1 else 2, kind := .string, keeps := decide (pfx ≠ .none), body := strBody op size pfx brk }

/-! ### SAVESTK and LOADSTK (R259) -/

/-- An interruptible run of `k` more words; `word` moves one. -/
def Core.wordLoop (word : Core → CM Core) (brk : Option Nat) : Nat → Nat → Core → CRes
  | 0, _, c => .ok (c.setSip false)
  | k + 1, handled, c =>
    match word c with
    | .error e => e.mid c (decide (0 < handled))
    | .ok c1 =>
      if k = 0 then .ok (c1.setSip false)
      else if brk = some (handled + 1) then .broke (c1.setSip true)
      else Core.wordLoop word brk k (handled + 1) c1

/-- SAVESTK's word: pop the top and store it at DST. (DEDUCED, log 36) -/
def Core.saveWord (n : CoreId) (c : Core) : CM Core := do
  let (ws, c1) ← c.pop 1 0
  let c1 ← c1.store n c.dst 4 (ws.getD 0 0).toNat
  .ok { c1 with cnt := c.cnt - 1, dst := c.dst - 4 }

/-- LOADSTK's word: push the word at SRC. -/
def Core.loadWord (n : CoreId) (c : Core) : CM Core := do
  c.check 0 1
  let (v, c1) ← c.load n c.src 4
  .ok { c1.push [BitVec.ofNat 32 v] with cnt := c.cnt - 1, src := c.src + 4 }

/-- SAVESTK: d at a, then the words from the top downward. -/
def insnSavestk (brk : Option Nat) : Insn := { units := 1, kind := .string, keeps := true, body := fun env c => CM.out do
  let brk := if env.irq then brk else none
  if c.sip then .ok (Core.wordLoop (Core.saveWord env.n) brk c.cnt.toNat 0 c)
  else do
    c.check 1 0
    if c.stack.any Slot.pending then .error (.wait c) else .ok ()
    let ws ← c.values c.stack
    let a := ws.getD 0 0
    let d := c.depth - 1
    let c1 ← c.store env.n a 4 d
    let (_, c1) ← c1.pop 1 0
    .ok (Core.wordLoop (Core.saveWord env.n) brk d 0
      { c1 with cnt := BitVec.ofNat 32 d, dst := a + BitVec.ofNat 32 (4 * d) }) }

/-- LOADSTK. -/
def insnLoadstk (brk : Option Nat) : Insn := { units := 1, kind := .string, keeps := true, body := fun env c => CM.out do
  let brk := if env.irq then brk else none
  if c.sip then .ok (Core.wordLoop (Core.loadWord env.n) brk c.cnt.toNat 0 c)
  else do
    let (ws, c1) ← c.pop 1 0
    let a := ws.getD 0 0
    match c1.load env.n a 4 with
    | .error e => .error (match e with | .exc c' x y z => .exc (c.unbegun c') x y z | r => r)
    | .ok (d, c1) =>
      if 256 < d then .error (.exc (c.unbegun c1) 0xC none 0)
      else if 256 < c1.depth + d then .error (.exc (c.unbegun c1) 3 none 0)
      else .ok (Core.wordLoop (Core.loadWord env.n) brk d 0 { c1 with cnt := BitVec.ofNat 32 d, src := a + 4 }) }

end Sys2Proof.Machine
end

