-- ==== Sys2Proof/Machine/CoreFar.lean ====
section
/-! DEFINITION. Machine/CoreFar.lean: array, remote and system instructions (spec/11 R273, R274, spec/10 R238 to R241). -/

namespace Sys2Proof.Machine

/-- Far access permitted in the present privilege. -/
def Core.farAllowed (c : Core) : Bool := c.priv || c.ccfg.getLsbD 1

/-- The physical address of a far access: aligned, translated, outside the own local range, overlapping no parked store.
An atomic needs R and W and reports TLB_LOAD. -/
def Core.farAddr (c : Core) (n : CoreId) (va : Word) (size : Nat) (k : XKind) : CM (PAddr × Core) :=
  if !aligned va size then .error (.exc c 5 (some va) 0)
  else do
    let (pa, c) ← c.translate va k
    if decide (pa.toNat < 0x40000) then .error (.exc c 0xD (some va) 0)
    else if c.parkedOverlap n pa size then .error (.wait c)
    else .ok (pa, c)

/-- The request of core `n` under tag `t`. -/
def coreReq (n : CoreId) (t : Fin 64) (user : Bool) (op : ReqOp) (pa : PAddr) : Request :=
  { src := ix 32 n.val, tag := BitVec.ofNat 8 t.val, user := user, op := op, addr := pa }

/-- A far load: a pending slot under a new tag, and the request (R238). -/
def farLoadBody (size : Nat) (kind : FillKind) : CBody := fun env c => CM.out do
  if !c.farAllowed then .ok (.exc c 2 none 0)
  else do
    let (ws, c) ← c.pop 1 1
    let (pa, c) ← c.farAddr env.n (ws.getD 0 0) size .load
    let (t, c) ← c.allocTag kind false pa
    .ok (.done { c with stack := .pend t :: c.stack } none [coreReq env.n t (!c.priv) (.read size) pa] [])

/-- A far store: a tag, no slot; pending data parks. -/
def farStoreBody (size : Nat) : CBody := fun env c => CM.out do
  if !c.farAllowed then .ok (.exc c 2 none 0)
  else do
    c.check 2 0
    let top := c.stack.take 2
    if (top.drop 1).any Slot.pending && !(top.take 1).any Slot.pending then
      let ws ← c.values (top.take 1)
      let (pa, c) ← c.farAddr env.n (ws.getD 0 0) size .store
      let order := c.order
      let (t, c1) ← c.allocTag .word true pa
      let (_, c1) ← c1.park (.store (some t) (!c.priv) size pa order) (top.drop 1)
      let c1 := c1.releaseAll (top.take 1)
      .ok (.ok { c1 with stack := c1.stack.drop 2 })
    else
      let (ws, c) ← c.pop 2 0
      let (pa, c) ← c.farAddr env.n (ws.getD 0 0) size .store
      let (t, c) ← c.allocTag .word true pa
      .ok (.done c none [coreReq env.n t (!c.priv) (.write (bytesLE size (ws.getD 1 0).toNat)) pa] [])

/-- A far atomic. -/
def farAtomicBody (op : AtomOp) : CBody := fun env c => CM.out do
  if !c.farAllowed then .ok (.exc c 2 none 0)
  else do
    let (ws, c) ← c.pop 2 1
    let va := ws.getD 0 0
    let (pa, c) ← c.farAddr env.n va 4 .load
    let c ← match c.translate va .store with
      | .ok (_, c) => .ok c
      | .error (.exc c _ ev bits) => .error (.exc c 8 ev bits)
      | .error r => .error r
    let (t, c) ← c.allocTag .word false pa
    .ok (.done { c with stack := .pend t :: c.stack } none
      [coreReq env.n t (!c.priv) (.atomic op ((ws.getD 1 0).setWidth 64)) pa] [])

def insnFldb : Insn := insn1 (farLoadBody 1 .sb)
def insnFldbu : Insn := insn1 (farLoadBody 1 .ub)
def insnFldh : Insn := insn1 (farLoadBody 2 .sh)
def insnFldhu : Insn := insn1 (farLoadBody 2 .uh)
def insnFldw : Insn := insn1 (farLoadBody 4 .word)
def insnFstb : Insn := insn1 (farStoreBody 1)
def insnFsth : Insn := insn1 (farStoreBody 2)
def insnFstw : Insn := insn1 (farStoreBody 4)
def insnFaadd32 : Insn := insn1 (farAtomicBody .add32)
def insnFaadds18 : Insn := insn1 (farAtomicBody .addS18)
def insnFaswap32 : Insn := insn1 (farAtomicBody .swap32)

/-- POUR: issues the 16-byte record at p, whose bits [3:0] are ignored (spec/05 R127, R130). -/
def insnPour : Insn := insn1 (fun env c => CM.out do
  if !c.priv && !c.ccfg.getLsbD 2 then .ok (.exc c 2 none 0)
  else do
    let (ws, c) ← c.pop 1 1
    if !env.room then .error (.wait c) else .ok ()
    let p := ws.getD 0 0 &&& 0xFFFFFFF0
    let (pa, c) ← c.localAddr env.n p 16 .load
    let bits := BitVec.ofNat 128 (natLE (c.sramRead pa 16))
    let (t, c) ← c.allocTag .pour false 0
    .ok (.done { c with stack := .pend t :: c.stack } none [] [{ bits := bits, core := env.n, tag := BitVec.ofNat 6 t.val }]))

/-- TAGWAIT: waits for the top slot and releases its tag. -/
def insnTagwait : Insn := insn1 (fun _ c => CM.out do
  let (ws, c) ← c.pop 1 1
  .ok (.ok (c.push ws)))

/-- FENCE (R239, R241): waits until every tag is answered and every station empty; reports failed stores; a poisoned slot
raises REMOTE. -/
def insnFence : Insn := { units := 1, kind := .scalar, keeps := true, body := fun _ c => CM.out do
  if !c.quiet then .error (.wait c)
  else
    match c.failed with
    | x :: xs =>
      let cnt := min 255 (xs.length + 1)
      let bad := ((x :: xs).filter (fun y => y.far)).map (fun y => y.tag)
      let c := { c with
        failed := []
        tags := Vector.ofFn (fun t => if c.tags[t].store && bad.contains (BitVec.ofNat 6 t.val) then { c.tags[t] with alloc := false } else c.tags[t])
        rerrlo := fld x.addr 0 32
        rerrhi := (fld x.addr 32 8).setWidth 32 ||| BitVec.ofNat 32 (x.status.code * 256 + cnt * 65536) }
      .ok (.exc c 0xA (some (BitVec.ofNat 32 (x.tag.toNat + 256 * x.status.code + 65536))) 0)
    | [] => do
      let _ ← c.values (c.stack.filter (fun sl => match sl with | .poison .. => true | _ => false))
      .ok (.ok c.fenceDone) }

/-! ### System (R274) -/

/-- A supervisor-only instruction. -/
def supervisor (body : CBody) : CBody := fun env c => if c.priv then body env c else .exc c 2 none 0

def insnTlbinv : Insn := insn1 (supervisor (fun _ c =>
  .ok { c with tlb := Vector.replicate 32 none, walkFault := none }))

def insnTlbinva : Insn := insn1 (supervisor (fun _ c => CM.out do
  let (ws, c) ← c.pop 1 0
  let va := ws.getD 0 0
  .ok (.ok { c with
    tlb := c.tlb.map (fun t => match t with | some e => if e.maps va then none else some e | none => none)
    walkFault := none })))

def insnWfi : Insn := insn1 (supervisor (fun _ c => .ok { c with asleep := true }))

end Sys2Proof.Machine
end

