-- ==== Sys2Proof/Machine/Flags.lean ====
section
/-! DEFINITION. Machine/Flags.lean: IEEE 754 arithmetic of the vector unit with its sticky flags (spec/12 R291 to R294).
A finite value is (sign, m, e) for (−1)^sign · m · 2^e, exact in Nat and Int. -/

namespace Sys2Proof.Machine

/-- A binary format: exponent bits and stored mantissa bits. -/
structure Fmt where
  eb : Nat
  mb : Nat
deriving DecidableEq, Repr

/-- binary16 and binary32. -/
def f16 : Fmt := { eb := 5, mb := 10 }
def f32 : Fmt := { eb := 8, mb := 23 }

/-- The exponent bias. -/
def Fmt.bias (f : Fmt) : Nat := 2 ^ (f.eb - 1) - 1
/-- The exponent field of infinities and NaNs. -/
def Fmt.emax (f : Fmt) : Nat := 2 ^ f.eb - 1
/-- The exponent of the least significant bit of a subnormal. -/
def Fmt.qmin (f : Fmt) : Int := 1 - (f.bias : Int) - f.mb

/-- The sticky flags of VFLAGS. -/
structure FFlags where
  nv : Bool
  dz : Bool
  ovf : Bool
  uf : Bool
  nx : Bool
deriving DecidableEq, Repr

def FFlags.none : FFlags := { nv := false, dz := false, ovf := false, uf := false, nx := false }
def FFlags.invalid : FFlags := { FFlags.none with nv := true }

/-- Both sets of flags. -/
def FFlags.or (a b : FFlags) : FFlags :=
  { nv := a.nv || b.nv, dz := a.dz || b.dz, ovf := a.ovf || b.ovf, uf := a.uf || b.uf, nx := a.nx || b.nx }

/-- VFLAGS[4:0] (Table 12.9). -/
def FFlags.bits (a : FFlags) : BitVec 5 :=
  BitVec.ofBool a.nv ++ BitVec.ofBool a.dz ++ BitVec.ofBool a.ovf ++ BitVec.ofBool a.uf ++ BitVec.ofBool a.nx

/-- What an encoding stands for. -/
inductive FVal where
  | nan (signalling : Bool)
  | inf (sign : Bool)
  | fin (sign : Bool) (m : Nat) (e : Int)
deriving DecidableEq, Repr

/-- Fields of an encoding. -/
def Fmt.sign (f : Fmt) (x : Nat) : Bool := x.testBit (f.eb + f.mb)
def Fmt.expo (f : Fmt) (x : Nat) : Nat := x / 2 ^ f.mb % 2 ^ f.eb
def Fmt.mant (f : Fmt) (x : Nat) : Nat := x % 2 ^ f.mb

/-- Encode sign, exponent field and mantissa field. -/
def Fmt.enc (f : Fmt) (s : Bool) (ex m : Nat) : Nat := (if s then 2 ^ (f.eb + f.mb) else 0) + ex * 2 ^ f.mb + m

/-- With flush on, a subnormal input reads as zero of the same sign (R293). -/
def Fmt.input (f : Fmt) (ftz : Bool) (x : Nat) : Nat :=
  if ftz && f.expo x == 0 then f.enc (f.sign x) 0 0 else x

/-- Decode. -/
def Fmt.val (f : Fmt) (x : Nat) : FVal :=
  let ex := f.expo x
  let m := f.mant x
  if ex = f.emax then (if m = 0 then .inf (f.sign x) else .nan (!m.testBit (f.mb - 1)))
  else if ex = 0 then .fin (f.sign x) m f.qmin
  else .fin (f.sign x) (m + 2 ^ f.mb) ((ex : Int) - 1 + f.qmin)

/-- The default NaN (R292). -/
def Fmt.dnan (f : Fmt) : Nat := f.enc false f.emax (2 ^ (f.mb - 1))
/-- An infinity and the largest finite value. -/
def Fmt.infOf (f : Fmt) (s : Bool) : Nat := f.enc s f.emax 0
def Fmt.maxOf (f : Fmt) (s : Bool) : Nat := f.enc s (f.emax - 1) (2 ^ f.mb - 1)
/-- A NaN quieted. -/
def Fmt.quiet (f : Fmt) (x : Nat) : Nat := x ||| 2 ^ (f.mb - 1)

/-- Number of bits of a number. -/
def bitLen (m : Nat) : Nat := if m = 0 then 0 else m.log2 + 1

/-- m · 2^(−sh) rounded to an integer by mode `rm` (R291) for sign `s`, with whether it was inexact; `st` marks a further
nonzero part below the last bit. -/
def roundShift (rm : BitVec 2) (s : Bool) (m : Nat) (sh : Int) (st : Bool) : Nat × Bool :=
  let k := if sh ≤ 0 then 0 else sh.toNat
  let m := if sh ≤ 0 then m * 2 ^ (-sh).toNat else m
  let q := m / 2 ^ k
  let r := m % 2 ^ k
  let inex := r != 0 || st
  let up :=
    match rm.toNat with
    | 0 => if k = 0 then false else decide (2 ^ (k - 1) < r) || (r == 2 ^ (k - 1) && (st || q % 2 == 1))
    | 2 => inex && !s
    | 3 => inex && s
    | _ => false
  (if up then q + 1 else q, inex)

/-- Round the exact value (−1)^s · (m and a part below it when `st`) · 2^e into the format: result and flags. Underflow is
tininess after rounding; flush turns a tiny nonzero result into zero with UF and NX (R291, R293). -/
def Fmt.round (f : Fmt) (rm : BitVec 2) (ftz : Bool) (s : Bool) (m : Nat) (e : Int) (st : Bool) : Nat × FFlags :=
  if m = 0 && !st then (f.enc s 0 0, FFlags.none)
  else
    let p := f.mb + 1
    let qn := e + bitLen m - p
    let q := max qn f.qmin
    let (k, inex) := roundShift rm s m (q - e) st
    let (kn, _) := roundShift rm s m (qn - e) st
    let tiny := decide ((bitLen kn : Int) + qn < f.qmin + f.mb + 1)
    let (k, q) := if k = 2 ^ p then (2 ^ f.mb, q + 1) else (k, q)
    let ex := if k < 2 ^ f.mb then 0 else (q - f.qmin + 1).toNat
    if f.emax ≤ ex then
      let toInf := match rm.toNat with | 0 => true | 2 => !s | 3 => s | _ => false
      (if toInf then f.infOf s else f.maxOf s, { FFlags.none with ovf := true, nx := true })
    else if ftz && tiny && k != 0 then (f.enc s 0 0, { FFlags.none with uf := true, nx := true })
    else (f.enc s ex (k % 2 ^ f.mb), { FFlags.none with uf := tiny && inex, nx := inex })

/-- The first NaN of the operands quieted, with NV where one signals (R292). -/
def Fmt.nanOf (f : Fmt) (xs : List Nat) : Option (Nat × FFlags) :=
  let isNan := fun x => match f.val x with | .nan _ => true | _ => false
  let sig := fun x => match f.val x with | .nan b => b | _ => false
  match xs.find? isNan with
  | some x => some (f.quiet x, { FFlags.none with nv := xs.any sig })
  | none => none

/-- The sign of an exact zero sum of values that are not both of one sign. -/
def zeroSign (rm : BitVec 2) : Bool := rm == 3

/-- An integer as sign and magnitude, at exponent e, rounded; an exact zero takes sign `z`. -/
def Fmt.ofSum (f : Fmt) (rm : BitVec 2) (ftz : Bool) (x : Int) (e : Int) (z : Bool) : Nat × FFlags :=
  if x = 0 then (f.enc z 0 0, FFlags.none) else f.round rm ftz (decide (x < 0)) x.natAbs e false

/-- Signed value of a mantissa at exponent `e0` ≤ e. -/
def scaled (s : Bool) (m : Nat) (e e0 : Int) : Int := (if s then -1 else 1) * ((m * 2 ^ (e - e0).toNat : Nat) : Int)

/-- Sum of two decoded values, neither NaN. -/
def Fmt.sum (f : Fmt) (rm : BitVec 2) (ftz : Bool) (a b : FVal) : Nat × FFlags :=
  match a, b with
  | .inf s, .inf t => if s = t then (f.infOf s, FFlags.none) else (f.dnan, FFlags.invalid)
  | .inf s, _ => (f.infOf s, FFlags.none)
  | _, .inf t => (f.infOf t, FFlags.none)
  | .fin s m e, .fin t n d =>
    let e0 := min e d
    f.ofSum rm ftz (scaled s m e e0 + scaled t n d e0) e0 (if m = 0 && n = 0 && s == t then s else zeroSign rm)
  | _, _ => (f.dnan, FFlags.invalid)

/-- VFADD. -/
def Fmt.add (f : Fmt) (rm : BitVec 2) (ftz : Bool) (a b : Nat) : Nat × FFlags :=
  let a := f.input ftz a
  let b := f.input ftz b
  (f.nanOf [a, b]).getD (f.sum rm ftz (f.val a) (f.val b))

/-- The value with its sign changed. -/
def FVal.neg : FVal → FVal
  | .inf s => .inf (!s)
  | .fin s m e => .fin (!s) m e
  | x => x

/-- VFSUB. -/
def Fmt.sub (f : Fmt) (rm : BitVec 2) (ftz : Bool) (a b : Nat) : Nat × FFlags :=
  let a := f.input ftz a
  let b := f.input ftz b
  (f.nanOf [a, b]).getD (f.sum rm ftz (f.val a) (f.val b).neg)

/-- The exact product of two values, neither NaN; none for infinity times zero. -/
def FVal.mul : FVal → FVal → Option FVal
  | .inf s, .inf t => some (.inf (s != t))
  | .inf s, .fin t n _ => if n = 0 then none else some (.inf (s != t))
  | .fin s m _, .inf t => if m = 0 then none else some (.inf (s != t))
  | .fin s m e, .fin t n d => some (.fin (s != t) (m * n) (e + d))
  | _, _ => none

/-- VFMUL. -/
def Fmt.mul (f : Fmt) (rm : BitVec 2) (ftz : Bool) (a b : Nat) : Nat × FFlags :=
  let a := f.input ftz a
  let b := f.input ftz b
  (f.nanOf [a, b]).getD
    (match (f.val a).mul (f.val b) with
     | some (.inf s) => (f.infOf s, FFlags.none)
     | some (.fin s m e) => f.round rm ftz s m e false
     | _ => (f.dnan, FFlags.invalid))

/-- VFMA: a × b + d with a single rounding. -/
def Fmt.fma (f : Fmt) (rm : BitVec 2) (ftz : Bool) (a b d : Nat) : Nat × FFlags :=
  let a := f.input ftz a
  let b := f.input ftz b
  let d := f.input ftz d
  (f.nanOf [a, b, d]).getD
    (match (f.val a).mul (f.val b) with
     | some p => f.sum rm ftz p (f.val d)
     | none => (f.dnan, FFlags.invalid))

/-- VFDIV. -/
def Fmt.div (f : Fmt) (rm : BitVec 2) (ftz : Bool) (a b : Nat) : Nat × FFlags :=
  let a := f.input ftz a
  let b := f.input ftz b
  (f.nanOf [a, b]).getD
    (match f.val a, f.val b with
     | .inf _, .inf _ => (f.dnan, FFlags.invalid)
     | .inf s, .fin t _ _ => (f.infOf (s != t), FFlags.none)
     | .fin s _ _, .inf t => (f.enc (s != t) 0 0, FFlags.none)
     | .fin s m e, .fin t n d =>
       if n = 0 then
         (if m = 0 then (f.dnan, FFlags.invalid) else (f.infOf (s != t), { FFlags.none with dz := true }))
       else
         let k := 2 * f.mb + 4
         let num := m * 2 ^ k
         f.round rm ftz (s != t) (num / n) (e - d - k) (num % n != 0)
     | _, _ => (f.dnan, FFlags.invalid))

/-- VFSQRT. -/
def Fmt.sqrt (f : Fmt) (rm : BitVec 2) (ftz : Bool) (a : Nat) : Nat × FFlags :=
  let a := f.input ftz a
  (f.nanOf [a]).getD
    (match f.val a with
     | .inf s => if s then (f.dnan, FFlags.invalid) else (f.infOf false, FFlags.none)
     | .fin s m e =>
       if m = 0 then (f.enc s 0 0, FFlags.none)
       else if s then (f.dnan, FFlags.invalid)
       else
         let k := 2 * f.mb + 4 + (if e % 2 = 0 then 0 else 1)
         let x := m * 2 ^ k
         let r := Nat.sqrt x
         f.round rm ftz false r ((e - k) / 2) (r * r != x)
     | _ => (f.dnan, FFlags.invalid))

/-- Order of two values, neither NaN: a < b, with −0 and +0 equal. -/
def FVal.lt : FVal → FVal → Bool
  | .inf s, .inf t => s && !t
  | .inf s, _ => s
  | _, .inf t => !t
  | .fin s m e, .fin t n d => decide (scaled s m e (min e d) < scaled t n d (min e d))
  | _, _ => false

/-- VFMIN and VFMAX (R292): the other operand beside a single NaN; −0 below +0. -/
def Fmt.minmax (f : Fmt) (isMax ftz : Bool) (a b : Nat) : Nat × FFlags :=
  let a := f.input ftz a
  let b := f.input ftz b
  match f.val a, f.val b with
  | .nan x, .nan y => (f.quiet a, { FFlags.none with nv := x || y })
  | .nan x, _ => (b, { FFlags.none with nv := x })
  | _, .nan y => (a, { FFlags.none with nv := y })
  | va, vb =>
    let less := va.lt vb || (!vb.lt va && f.sign a && !f.sign b)
    (if less != isMax then a else b, FFlags.none)

/-- VFNEG and VFABS. (DEDUCED, log 43) -/
def Fmt.negabs (f : Fmt) (abs ftz : Bool) (a : Nat) : Nat × FFlags :=
  let a := f.input ftz a
  (f.nanOf [a]).getD (f.enc (if abs then false else !f.sign a) (f.expo a) (f.mant a), FFlags.none)

/-- VFCMPEQ, LT, LE, UN with NV (R292). -/
def Fmt.cmp (f : Fmt) (o : VFCmpOp) (ftz : Bool) (a b : Nat) : Bool × FFlags :=
  let a := f.input ftz a
  let b := f.input ftz b
  let va := f.val a
  let vb := f.val b
  let nan := fun x => match x with | FVal.nan _ => true | _ => false
  let sig := fun x => match x with | FVal.nan s => s | _ => false
  let un := nan va || nan vb
  let quietOp := decide (o = .eq ∨ o = .un)
  let fl := { FFlags.none with nv := if quietOp then sig va || sig vb else un }
  (match o with
   | .un => un
   | .eq => !un && !va.lt vb && !vb.lt va
   | .lt => !un && va.lt vb
   | .le => !un && !vb.lt va, fl)

/-- An integer as a float. -/
def Fmt.ofInt (f : Fmt) (rm : BitVec 2) (ftz : Bool) (x : Int) : Nat × FFlags := f.ofSum rm ftz x 0 false

/-- A float as an integer in [lo, hi] (R291): NaN gives 0 with NV, out of range saturates with NV. -/
def Fmt.toInt (f : Fmt) (rm : BitVec 2) (ftz : Bool) (lo hi : Int) (a : Nat) : Int × FFlags :=
  match f.val (f.input ftz a) with
  | .nan _ => (0, FFlags.invalid)
  | .inf s => (if s then lo else hi, FFlags.invalid)
  | .fin s m e =>
    let (k, inex) := roundShift rm s m (-e) false
    let x : Int := if s then -(k : Int) else k
    if x < lo then (lo, FFlags.invalid) else if hi < x then (hi, FFlags.invalid)
    else (x, { FFlags.none with nx := inex })

/-- Conversion between formats; a NaN keeps its leading payload bits, quieted. -/
def Fmt.conv (src dst : Fmt) (rm : BitVec 2) (ftz : Bool) (a : Nat) : Nat × FFlags :=
  let a := src.input ftz a
  match src.val a with
  | .nan sg =>
    let p := if src.mb ≤ dst.mb then src.mant a * 2 ^ (dst.mb - src.mb) else src.mant a / 2 ^ (src.mb - dst.mb)
    (dst.quiet (dst.enc (src.sign a) dst.emax p), { FFlags.none with nv := sg })
  | .inf s => (dst.infOf s, FFlags.none)
  | .fin s m e => dst.round rm ftz s m e false

end Sys2Proof.Machine
end

