-- ==== Sys2Proof/Machine/Vector.lean ====
section
/-! DEFINITION. Machine/Vector.lean: the vector unit: element access, the integer and floating operations, memory forms,
execution of one captured instruction and the fault record (spec/12 R281 to R298). -/

namespace Sys2Proof.Machine

/-! ### Types and elements (R282, R283) -/

/-- Lane width of a type code (Table 12.2). -/
def laneW (ty : BitVec 3) : Nat :=
  match ty.toNat with | 0 => 8 | 1 => 16 | 2 => 32 | 3 => 64 | 4 => 32 | 5 => 16 | _ => 32

/-- Group size of a GRP code. -/
def grpSize (g : BitVec 2) : Nat := match g.toNat with | 0 => 1 | 1 => 2 | _ => 4

/-- Elements of `w` bits in a group of g registers. -/
def capacity (g w : Nat) : Nat := 128 * g / w

/-- Element i of width w of the operand at register r, as a number. -/
def VecUnit.get (v : VecUnit) (r w i : Nat) : Nat :=
  ((v.v[ix 32 (r + w * i / 128)]).toNat >>> (w * i % 128)) % 2 ^ w

/-- Write element i. -/
def VecUnit.put (v : VecUnit) (r w i x : Nat) : VecUnit :=
  { v with v := vmod v.v (ix 32 (r + w * i / 128)) (fun b => setFld b (w * i % 128) w (BitVec.ofNat w x)) }

/-- Element i of a 32-bit mask register. -/
def VecUnit.maskBit (v : VecUnit) (k i : Nat) : Bool := (v.vm[ix 4 k]).getLsbD i

/-- Element i takes part: no masking, or its bit of VM0 is 1. -/
def VecUnit.active (v : VecUnit) (men : Bool) (i : Nat) : Bool := !men || v.maskBit 0 i

/-- A number of w bits as signed. -/
def sgn (w x : Nat) : Int := (BitVec.ofNat w x).toInt

/-- A signed value as w bits. -/
def uns (w : Nat) (x : Int) : Nat := (BitVec.ofInt w x).toNat

/-- Clamp to the signed range of w bits. -/
def clampW (w : Nat) (x : Int) : Int :=
  if x < -(2 ^ (w - 1) : Int) then -(2 ^ (w - 1) : Int) else if (2 ^ (w - 1) : Int) ≤ x then 2 ^ (w - 1) - 1 else x

/-- Bits of an integer type that carry its value: 18 for s18. -/
def valW (ty : BitVec 3) : Nat := if ty = 4 then 18 else laneW ty

/-! ### Integer operations (R288) -/

/-- A result of `valW` bits as its lane: s18 is sign-extended from bit 17. -/
def laneOf (ty : BitVec 3) (x : Nat) : Nat := if ty = 4 then uns 32 (sgn 18 x) else x % 2 ^ laneW ty

/-- A signed result narrowed by the type's rule: s18 saturates, the others wrap. -/
def narrow (ty : BitVec 3) (x : Int) : Nat := if ty = 4 then uns 32 (clamp18 x) else uns (laneW ty) x

/-- An elementwise operation on lanes a and b. -/
def VIntOp.eval (o : VIntOp) (ty : BitVec 3) (a b : Nat) : Nat :=
  let n := valW ty
  let ua := a % 2 ^ n
  let ub := b % 2 ^ n
  let sa := sgn n ua
  let sb := sgn n ub
  let w := laneW ty
  match o with
  | .add => narrow ty (sa + sb)
  | .sub => narrow ty (sa - sb)
  | .adds => laneOf ty (uns n (clampW n (sa + sb)))
  | .subs => laneOf ty (uns n (clampW n (sa - sb)))
  | .mul => narrow ty (sa * sb)
  | .min => laneOf ty (if sa ≤ sb then ua else ub)
  | .max => laneOf ty (if sa ≤ sb then ub else ua)
  | .minu => laneOf ty (if ua ≤ ub then ua else ub)
  | .maxu => laneOf ty (if ua ≤ ub then ub else ua)
  | .and => laneOf ty (ua &&& ub)
  | .or => laneOf ty (ua ||| ub)
  | .xor => laneOf ty (ua ^^^ ub)
  | .shl => laneOf ty (if w ≤ ub then 0 else (ua <<< ub) % 2 ^ n)
  | .shr => laneOf ty (if w ≤ ub then 0 else ua >>> ub)
  | .sar => laneOf ty (uns n (sa >>> (Nat.min ub (n - 1))))
  | .neg => narrow ty (-sa)
  | .abs => narrow ty (if sa < 0 then -sa else sa)

/-- The scalar operand as an element value (R287). -/
def scalarElem (ty : BitVec 3) (x : Word) : Nat :=
  if ty = 4 then (sat18w x).toNat else if ty = 3 then uns 64 x.toInt else x.toNat % 2 ^ laneW ty

/-- A compare on lanes. -/
def VCmpOp.eval (o : VCmpOp) (ty : BitVec 3) (a b : Nat) : Bool :=
  let n := valW ty
  let ua := a % 2 ^ n
  let ub := b % 2 ^ n
  let sa := sgn n ua
  let sb := sgn n ub
  match o with
  | .eq => ua == ub
  | .ne => ua != ub
  | .lt => decide (sa < sb)
  | .ltu => decide (ua < ub)
  | .le => decide (sa ≤ sb)
  | .leu => decide (ua ≤ ub)
  | .gt => decide (sb < sa)
  | .gtu => decide (ub < ua)

/-- The floating format of a type. -/
def fmtOf (ty : BitVec 3) : Fmt := if ty = 5 then f16 else f32

/-- Add flags to VFLAGS. -/
def VecUnit.flag (v : VecUnit) (fl : FFlags) : VecUnit := { v with vflags := v.vflags ||| fl.bits }

/-- A floating operation on lanes a (vs1), b (vs2) and d (vd). -/
def VFltOp.eval (o : VFltOp) (f : Fmt) (rm : BitVec 2) (ftz : Bool) (a b d : Nat) : Nat × FFlags :=
  match o with
  | .add => f.add rm ftz a b
  | .sub => f.sub rm ftz a b
  | .mul => f.mul rm ftz a b
  | .fma => f.fma rm ftz a b d
  | .div => f.div rm ftz a b
  | .sqrt => f.sqrt rm ftz a
  | .min => f.minmax false ftz a b
  | .max => f.minmax true ftz a b
  | .neg => f.negabs false ftz a
  | .abs => f.negabs true ftz a

/-- Source and destination lane widths of a conversion, and its value. -/
def VCvtOp.widths : VCvtOp → Nat × Nat
  | .f16f32 => (32, 16)
  | .f32f16 => (16, 32)
  | _ => (32, 32)
def VCvtOp.eval (o : VCvtOp) (rm : BitVec 2) (ftz : Bool) (a : Nat) : Nat × FFlags :=
  match o with
  | .f32s18 => f32.ofInt rm ftz (sgn 18 (a % 2 ^ 18))
  | .s18f32 => let (x, fl) := f32.toInt rm ftz (-131072) 131071 a; (uns 32 x, fl)
  | .f16f32 => f32.conv f16 rm ftz a
  | .f32f16 => f16.conv f32 rm ftz a
  | .f32i32 => f32.ofInt rm ftz (sgn 32 a)
  | .i32f32 => let (x, fl) := f32.toInt rm ftz (-2147483648) 2147483647 a; (uns 32 x, fl)

/-- One step of a reduction: x of vs1 before acc of vd in the order of R292. -/
def VRedOp.eval (o : VRedOp) (ty : BitVec 3) (rm : BitVec 2) (ftz : Bool) (acc x : Nat) : Nat × FFlags :=
  match o with
  | .sum => (VIntOp.add.eval ty acc x, FFlags.none)
  | .min => (VIntOp.min.eval ty acc x, FFlags.none)
  | .max => (VIntOp.max.eval ty acc x, FFlags.none)
  | .minu => (VIntOp.minu.eval ty acc x, FFlags.none)
  | .maxu => (VIntOp.maxu.eval ty acc x, FFlags.none)
  | .fsum => (fmtOf ty).add rm ftz x acc
  | .fmin => (fmtOf ty).minmax false ftz x acc
  | .fmax => (fmtOf ty).minmax true ftz x acc

/-! ### Checks at issue (R282, R287, R289) -/

/-- A register operand: number a multiple of its group, within V0 to V31, with room for `els` elements of w bits. -/
def operandOk (r : Nat) (g w els : Nat) : Bool :=
  (g == 1 || g == 2 || g == 4) && r % g == 0 && decide (r + g ≤ 32) && decide (els ≤ capacity g w)

/-- Integer types, integer types of VMVXS beside the floating ones. -/
def isInt (ty : BitVec 3) : Bool := decide (ty.toNat ≤ 4)
def isFlt (ty : BitVec 3) : Bool := decide (ty.toNat = 5 ∨ ty.toNat = 6)

/-- An unused field is zero. -/
def z5 (x : BitVec 5) : Bool := x == 0

/-- The instruction accepts its fields, type, registers and VL; otherwise ILLEGAL at issue. `k` is the field count. -/
def VOp.legal (o : VOp) (v : VArgs) (k vl : Nat) (grp : BitVec 2) : Bool :=
  let g := grpSize grp
  let w := laneW v.ty
  let d := v.vd.toNat
  let a := v.vs1.toNat
  let b := v.vs2.toNat
  let opd := fun r => operandOk r g w vl
  let maskReg := fun (x : BitVec 5) => decide (x.toNat < 4)
  match o with
  | .mvsx => !v.men && z5 v.vs1 && z5 v.vs2 && decide (v.ty.toNat ≠ 3 ∧ v.ty.toNat ≠ 7) && opd d
  | .mwr => !v.men && z5 v.vs1 && z5 v.vs2 && v.ty == 0 && maskReg v.vd
  | .mask m => !v.men && v.ty == 0 && maskReg v.vd && maskReg v.vs1 && (if m = .not then z5 v.vs2 else maskReg v.vs2)
  | .mv => decide (v.ty.toNat ≠ 7) && z5 v.vs2 && opd d && opd a
  | .int p => isInt v.ty && opd d && opd a && (if p = .neg ∨ p = .abs then z5 v.vs2 else opd b)
  | .intX p => isInt v.ty && z5 v.vs2 && opd d && opd a && decide (p ≠ .neg ∧ p ≠ .abs)
  | .cmp _ => isInt v.ty && maskReg v.vd && opd a && opd b
  | .fcmp _ => isFlt v.ty && maskReg v.vd && opd a && opd b
  | .wmul => decide (v.ty.toNat = 1 ∨ v.ty.toNat = 4) && opd a && opd b && operandOk d (2 * g) (2 * w) vl
  | .dot4 => v.ty == 0 && vl % 4 == 0 && opd a && opd b && operandOk d g 32 (vl / 4)
  | .dot2 => v.ty == 1 && vl % 2 == 0 && opd a && opd b && operandOk d (2 * g) 64 (vl / 2)
  | .dots18 => v.ty == 4 && vl % 2 == 0 && opd a && opd b && operandOk d g 64 (vl / 2)
  | .flt p => isFlt v.ty && opd d && opd a &&
      (if p = .sqrt ∨ p = .neg ∨ p = .abs then z5 v.vs2 else opd b)
  | .cvt c => v.ty == 0 && z5 v.vs2 && operandOk a g c.widths.1 vl &&
      operandOk d (if c = .f32f16 then 2 * g else g) c.widths.2 vl
  | .red r => z5 v.vs2 && opd d && opd a &&
      (match r with | .fsum | .fmin | .fmax => isFlt v.ty | _ => isInt v.ty)
  | .mem m => decide (v.ty.toNat ≠ 7) && z5 v.vs1 &&
      (match m with
       | .ldx | .stx => opd d && operandOk b g 32 vl
       | .deal | .weave => z5 v.vs2 && decide (2 ≤ k ∧ k ≤ 4) && (List.range k).all (fun j => opd (d + j * g))
       | _ => z5 v.vs2 && opd d)

/-! ### Execution -/

/-- Fold over the active elements below `n`. -/
def VecUnit.each (v : VecUnit) (men : Bool) (n : Nat) (f : VecUnit → Nat → VecUnit) : VecUnit :=
  (List.range n).foldl (fun u i => if v.active men i then f u i else u) v

/-- Write mask register k: bits below n from `f` where active, kept where masked off, zero above (R287 Compares). -/
def VecUnit.writeMask (v : VecUnit) (k : Nat) (men : Bool) (n : Nat) (f : Nat → Bool) : VecUnit :=
  let old := v.vm[ix 4 k]
  { v with vm := vset v.vm (ix 4 k) (bvOf 64 (fun i => decide (i < n) && (if v.active men i then f i else old.getLsbD i))) }

/-- Sum of products for the dot forms. -/
def dotSum (m : Nat) (f : Nat → Int) : Int := (List.range m).foldl (fun acc i => acc + f i) 0

/-- A register operation of the captured instruction. -/
def VecUnit.runReg (v : VecUnit) (o : VOp) (x : VEntry) : VecUnit :=
  let ty := x.args.ty
  let w := laneW ty
  let n := x.vl.toNat
  let d := x.args.vd.toNat
  let a := x.args.vs1.toNat
  let b := x.args.vs2.toNat
  let men := x.args.men
  let els := v.each men
  let nw := valW ty
  let src := fun r i => sgn nw (v.get r w i % 2 ^ nw)
  match o with
  | .mvsx => if x.b.toNat < capacity (grpSize x.grp) w then v.put d w x.b.toNat (if ty = 4 then (laneOf 4 (x.a.toNat % 2 ^ 18)) else x.a.toNat) else v
  | .mwr => { v with vm := vset v.vm (ix 4 d) (x.b ++ x.a) }
  | .mask m =>
    let p := v.vm[ix 4 a]
    let q := v.vm[ix 4 b]
    { v with vm := vset v.vm (ix 4 d) (match m with | .and => p &&& q | .or => p ||| q | .xor => p ^^^ q | .not => ~~~p) }
  | .mv => els n (fun u i => u.put d w i (laneOf ty (v.get a w i)))
  | .int p => els n (fun u i => u.put d w i (p.eval ty (v.get a w i) (v.get b w i)))
  | .intX p => els n (fun u i => u.put d w i (p.eval ty (v.get a w i) (scalarElem ty x.a)))
  | .cmp p => v.writeMask d men n (fun i => p.eval ty (v.get a w i) (v.get b w i))
  | .fcmp p =>
    let f := fmtOf ty
    let v' := v.writeMask d men n (fun i => (f.cmp p x.ftz (v.get a w i) (v.get b w i)).1)
    (List.range n).foldl (fun u i => if v.active men i then u.flag (f.cmp p x.ftz (v.get a w i) (v.get b w i)).2 else u) v'
  | .wmul => els n (fun u i => u.put d (2 * w) i (uns (2 * w) (src a i * src b i)))
  | .dot4 => els (n / 4) (fun u j => u.put d 32 j (uns 32 (sgn 32 (v.get d 32 j) + dotSum 4 (fun m => src a (4 * j + m) * src b (4 * j + m)))))
  | .dot2 | .dots18 =>
    els (n / 2) (fun u j => u.put d 64 j (uns 64 (sgn 64 (v.get d 64 j) + dotSum 2 (fun m => src a (2 * j + m) * src b (2 * j + m)))))
  | .flt p => els n (fun u i =>
      let r := p.eval (fmtOf ty) x.rm x.ftz (v.get a w i) (v.get b w i) (v.get d w i)
      (u.put d w i r.1).flag r.2)
  | .cvt c => els n (fun u i =>
      let r := c.eval x.rm x.ftz (v.get a c.widths.1 i)
      (u.put d c.widths.2 i r.1).flag r.2)
  | .red r =>
    let (acc, fl, any) := (List.range n).foldl (fun (st : Nat × FFlags × Bool) i =>
      if v.active men i then
        let y := r.eval ty x.rm x.ftz st.1 (v.get a w i)
        (y.1, st.2.1.or y.2, true)
      else st) (v.get d w 0, FFlags.none, false)
    if any then (v.put d w 0 acc).flag fl else v
  | .mem _ => v

/-- The virtual address of field j of element i (R290). -/
def VecUnit.elemAddr (v : VecUnit) (m : VMemOp) (x : VEntry) (j i : Nat) : Word :=
  let b := laneW x.args.ty / 8
  match m with
  | .ld | .st => x.a + BitVec.ofNat 32 (i * b)
  | .lds | .sts => x.a + BitVec.ofNat 32 i * x.b
  | .ldx | .stx => x.a + BitVec.ofNat 32 (v.get x.args.vs2.toNat 32 i)
  | .deal | .weave => x.a + BitVec.ofNat 32 ((x.k * i + j) * b)

/-- The memory form stores. -/
def VMemOp.stores : VMemOp → Bool
  | .st | .sts | .stx | .weave => true
  | _ => false

/-- How an element access ends early: a fault of Table 12.6, or a walk through far accesses. -/
inductive VStop where
  | fault (kind : BitVec 4) (va : Word)
  | walk (c : Core)
deriving DecidableEq, Repr

/-- The local address of an element access. -/
def Core.vecAddr (c : Core) (va : Word) (size : Nat) (k : XKind) : Except VStop (Nat × Core) :=
  if !aligned va size then .error (.fault 1 va)
  else
    match c.translate va k with
    | .error (.exc _ _ _ bits) =>
      .error (.fault (if bits.getLsbD 9 then 5 else if bits.getLsbD 8 then 4 else 3) va)
    | .error (.wait c') => .error (.walk c')
    | .error _ => .error (.fault 3 va)
    | .ok (pa, c') => if inSram pa size then .ok (pa.toNat, c') else .error (.fault 2 va)

/-- One element with all its fields; nothing of it is done when a field stops it. -/
def Core.vecElem (c : Core) (m : VMemOp) (x : VEntry) (i : Nat) : Except VStop Core :=
  let w := laneW x.args.ty
  let b := w / 8
  let g := grpSize x.grp
  let fields := match m with | .deal | .weave => x.k | _ => 1
  (List.range fields).foldl (fun (acc : Except VStop Core) j => do
    let c ← acc
    let va := c.vec.elemAddr m x j i
    let r := x.args.vd.toNat + j * g
    let (pa, c) ← c.vecAddr va b (if m.stores then .store else .load)
    if m.stores then .ok (c.sramWrite pa (bytesLE b (c.vec.get r w i)))
    else if c.ueAt pa b then .error (.fault 6 va)
    else
      let val := natLE (c.sramRead pa b)
      let val := if x.args.ty = 4 then laneOf 4 (val % 2 ^ 18) else val
      .ok { c with vec := c.vec.put r w i val }) (.ok c)

/-- Elements from `i` on, `k` of them: the core, and where it stopped. -/
def Core.vecMem (m : VMemOp) (x : VEntry) : Nat → Nat → Core → Core × Option (Nat × VStop)
  | 0, _, c => (c, none)
  | k + 1, i, c =>
    if c.vec.active x.args.men i then
      match c.vecElem m x i with
      | .error st => (c, some (i, st))
      | .ok c' => Core.vecMem m x k (i + 1) c'
    else Core.vecMem m x k (i + 1) c

/-- The front entry `x` stops at element `i`: a walk it waits for, or the fault record (R295). -/
def Core.vecStop (c : Core) (x : VEntry) (q : List VEntry) (i : Nat) : VStop → Core
  | .walk w =>
    { c with
      tlb := w.tlb, tlbNext := w.tlbNext, walk := w.walk, walkL1 := w.walkL1, walkFault := w.walkFault
      vec := { c.vec with queue := { x with start := i } :: q } }
  | .fault kind va =>
    { c with
      walkFault := none
      vec := { c.vec with
        valid := true, rpt := false, kind := kind, e := BitVec.ofNat 6 i, vfpc := x.pc, vfva := va
        vstart := BitVec.ofNat 6 i, faulted := (x :: q).take 5, queue := [] } }

/-- The unit executes the entry at the front of its queue (R284, R285, R295). -/
def Core.vecExecute (c : Core) : Core :=
  match c.vec.queue with
  | [] => c
  | x :: q =>
    if c.vec.valid then c
    else
      let popped := { c with vec := { c.vec with queue := q } }
      match x.op with
      | none => popped
      | some (.mem m) =>
        let parked := c.stations.toList.any (fun st => match st with | some { op := .store .., args := _ } => true | _ => false)
        if parked then c
        else
          match Core.vecMem m x (x.vl.toNat - x.start) x.start popped with
          | (c', none) => c'
          | (c', some (i, stop)) => c'.vecStop x q i stop
      | some o => { popped with vec := popped.vec.runReg o x }

end Sys2Proof.Machine
end

