-- ==== Sys2Proof/Machine/VecIssue.lean ====
section
/-! DEFINITION. Machine/VecIssue.lean: issue of vector instructions, VSETVL, VMVXS, VMRD, VSYNC, VRESUME (spec/12 R284,
R286, R296, R298). -/

namespace Sys2Proof.Machine

/-- A vector instruction's shape: two units. -/
def insnV (body : CBody) : Insn :=
  { units := 2, kind := .vector, keeps := false, body := fun env c => if c.ve then body env c else illegal c }

/-- Capture an instruction (R284). (DEDUCED, log 42) -/
def Core.capture (c : Core) (env : CEnv) (o : VOp) (v : VArgs) (k : Nat) (ws : List Word) : VEntry :=
  { pc := c.pc, op := some o, args := v, k := k, a := ws.getD 0 0, b := ws.getD 1 0, nsc := ws.length, vl := c.vec.vl
    grp := c.vec.grp, rm := fld c.vec.vctrl 0 2, ftz := if env.vflush then c.vec.vctrl.getLsbD 2 else c.ftz, start := 0 }

/-- Enter the queue; behind a pending fault the instruction is held in VFQ (R295), a full VFQ is a reporting point and
then waits (R296). -/
def Core.enqueue (c : Core) (x : VEntry) : CM Core :=
  if c.vec.valid then
    if c.vec.rpt then .error (.wait c)
    else if c.vec.faulted.length < 5 then .ok { c with vec := { c.vec with faulted := c.vec.faulted ++ [x] } }
    else do
      let c' ← c.report
      .error (.wait c')
  else if 4 ≤ c.vec.queue.length then .error (.wait c)
  else .ok { c with vec := { c.vec with queue := c.vec.queue ++ [x] } }

/-- Issue an instruction that pops `pops` scalars. -/
def vecBody (o : VOp) (v : VArgs) (k pops : Nat) : CBody := fun env c => CM.out do
  if !o.legal v k c.vec.vl.toNat c.vec.grp then .ok (illegal c)
  else do
    let (ws, c) ← c.pop pops 0
    let c ← c.enqueue (c.capture env o v k ws.reverse)
    .ok (.ok c)

def insnVec (o : VOp) (v : VArgs) (pops : Nat) : Insn := insnV (vecBody o v 0 pops)
def insnVecK (o : VOp) (v : VArgs) (k : BitVec 5) : Insn := insnV (vecBody o v k.toNat 1)

/-- A vector instruction other than those a reported fault lets begin waits while one is pending (R296). -/
def Core.vecOpen (c : Core) : CM Unit := if c.vec.valid && c.vec.rpt then .error (.wait c) else .ok ()

/-- Wait until every earlier vector instruction has completed (R286). -/
def Core.vecDrained (c : Core) : CM Unit := if c.vec.queue.isEmpty then .ok () else .error (.wait c)

/-- VSETVL: VL ← min(n, capacity for the type and g) at issue. -/
def insnVsetvl (v : VArgs) : Insn := insnV (fun _ c => CM.out do
  if v.men || !z5 v.vs1 || !z5 v.vs2 || !z5 v.vd || v.ty == 7 then .ok (illegal c)
  else do
    let (ws, c) ← c.pop 1 1
    c.vecOpen
    let vl := min (ws.getD 0 0).toNat (capacity (grpSize c.vec.grp) (laneW v.ty))
    .ok (.ok (({ c with vec := { c.vec with vl := BitVec.ofNat 7 vl } } : Core).push [BitVec.ofNat 32 vl])))

/-- VSYNC: a reporting point. -/
def insnVsync : Insn := insnV (fun _ c => CM.out do
  c.vecOpen
  c.vecDrained
  let c ← c.report
  .ok (.ok c))

/-- VRESUME (R298): entry 0 goes on from VSTART, the others follow, and the record is empty. -/
def insnVresume : Insn := insnV (fun _ c =>
  let es := match c.vec.faulted with
    | x :: xs => { x with start := c.vec.vstart.toNat } :: xs
    | [] => []
  if c.vec.valid then .ok { c with vec := { c.vec.clearFault with queue := es ++ c.vec.queue } } else .ok c)

/-- VMVXS: element i of vs1, sign-extended for integers, raw for floats, 0 beyond the capacity. -/
def insnVmvxs (v : VArgs) : Insn := insnV (fun _ c => CM.out do
  let g := grpSize c.vec.grp
  let w := laneW v.ty
  if v.men || !z5 v.vs2 || !z5 v.vd || v.ty == 3 || v.ty == 7 || !operandOk v.vs1.toNat g w c.vec.vl.toNat then .ok (illegal c)
  else do
    let (ws, c1) ← c.pop 1 1
    c.vecDrained
    let c1 ← c1.report
    let i := (ws.getD 0 0).toNat
    let x := c.vec.get v.vs1.toNat w i
    let r : Word := if capacity g w ≤ i then 0 else if isFlt v.ty then BitVec.ofNat 32 x
      else BitVec.ofInt 32 (sgn (valW v.ty) (x % 2 ^ valW v.ty))
    .ok (.ok (c1.push [r])))

/-- VMRD k: the mask register, high word on top. -/
def insnVmrd (v : VArgs) : Insn := insnV (fun _ c => CM.out do
  if v.men || !z5 v.vs1 || !z5 v.vs2 || v.ty != 0 || decide (4 ≤ v.vd.toNat) then .ok (illegal c)
  else do
    c.check 0 2
    c.vecDrained
    let c ← c.report
    let m := c.vec.vm[ix 4 v.vd.toNat]
    .ok (.ok (c.push [fld m 0 32, fld m 32 32])))

end Sys2Proof.Machine
end

