-- ==== Sys2Proof/Machine/CoreDecode.lean ====
section
/-! DEFINITION. Machine/CoreDecode.lean: the encodings of the control core instructions (spec/11 R256, R257, spec/12 R287):
the units a core finds in its SRAM, as STEP, customer bodies and re-read vector entries use them. -/

namespace Sys2Proof.Machine

/-- The condition of an RPT prefix (Table 11.12). -/
def prefixOf (b : Byte) : Option RptPrefix :=
  match b.toNat with | 0 => some .always | 1 => some .eq | 2 => some .ne | _ => none

/-- A string instruction under a prefix; only SCMP and SFND under RPT EQ and RPT NE (R271). -/
def prefixed (n : CoreId) (p : RptPrefix) (u : BitVec 16) : Option Instr :=
  match u.toNat with
  | 0x6000 => if p = .always then some (.scpyb n p none) else none
  | 0x6100 => if p = .always then some (.scpyw n p none) else none
  | 0x6200 => if p = .always then some (.sfilb n p none) else none
  | 0x6300 => if p = .always then some (.sfilw n p none) else none
  | 0x6400 => some (.scmpb n p none)
  | 0x6500 => some (.scmpw n p none)
  | 0x6600 => some (.sfndb n p none)
  | 0x6700 => some (.sfndw n p none)
  | _ => none

/-- Decode an instruction from its three units (spec/11 Table 11.1, Tables 11.3 to 11.14); none where it is ILLEGAL. An
RPT prefix and its instruction are one (R271). -/
def decodeScalar (n : CoreId) (u0 u1 u2 : BitVec 16) : Option Instr :=
  let b := fld u0 0 8
  let U := fun (i : Instr) => if b = 0 then some i else none
  match (fld u0 8 8).toNat with
  | 0x00 => U (.nop n)
  | 0x01 => U (.dup n)
  | 0x02 => U (.drop n)
  | 0x03 => U (.swap n)
  | 0x04 => U (.over n)
  | 0x05 => U (.rot n)
  | 0x06 => some (.pick n b)
  | 0x07 => some (.put n b)
  | 0x08 => U (.depth n)
  | 0x09 => U (.savestk n none)
  | 0x0A => U (.loadstk n none)
  | 0x10 => some (.lit8 n b)
  | 0x11 => U (.lit16 n u1)
  | 0x12 => U (.lit32 n (u2 ++ u1))
  | 0x13 => U (.lithi n u1)
  | 0x20 => U (.add n)
  | 0x21 => U (.sub n)
  | 0x22 => U (.adc n)
  | 0x23 => U (.sbc n)
  | 0x24 => U (.mul n)
  | 0x25 => U (.mulwu n)
  | 0x26 => U (.mulws n)
  | 0x27 => U (.divu n)
  | 0x28 => U (.divs n)
  | 0x29 => U (.remu n)
  | 0x2A => U (.rems n)
  | 0x2B => U (.and n)
  | 0x2C => U (.or n)
  | 0x2D => U (.xor n)
  | 0x2E => U (.not n)
  | 0x2F => U (.neg n)
  | 0x30 => U (.shl n)
  | 0x31 => U (.shr n)
  | 0x32 => U (.sar n)
  | 0x33 => U (.rol n)
  | 0x34 => U (.clz n)
  | 0x35 => U (.popc n)
  | 0x36 => U (.bfx n)
  | 0x37 => U (.bfi n)
  | 0x38 => U (.bperm n)
  | 0x39 => U (.min n)
  | 0x3A => U (.max n)
  | 0x3B => U (.sext8 n)
  | 0x3C => U (.sext16 n)
  | 0x3D => U (.sext18 n)
  | 0x3E => U (.sat18 n)
  | 0x40 => some (.rdr n b)
  | 0x41 => some (.wrr n b)
  | 0x42 => some (.csrr n b)
  | 0x43 => some (.csrw n b)
  | 0x50 => U (.ldb n)
  | 0x51 => U (.ldbu n)
  | 0x52 => U (.ldh n)
  | 0x53 => U (.ldhu n)
  | 0x54 => U (.ldw n)
  | 0x58 => U (.stb n)
  | 0x59 => U (.sth n)
  | 0x5A => U (.stw n)
  | 0x70 => U (.beq n u1)
  | 0x71 => U (.bne n u1)
  | 0x72 => U (.blt n u1)
  | 0x73 => U (.bge n u1)
  | 0x74 => U (.bltu n u1)
  | 0x75 => U (.bgeu n u1)
  | 0x76 => U (.beqz n u1)
  | 0x77 => U (.bnez n u1)
  | 0x78 => U (.bra n u1)
  | 0x79 => U (.jmp n)
  | 0x7A => U (.calll n u1)
  | 0x7B => if fld u2 8 8 = 0 then some (.call n b (fld u2 0 8 ++ u1)) else none
  | 0x7C => U (.calli n)
  | 0x7D => (match b.toNat with | 0 => some (.retl n) | 1 => some (.ret n) | 2 => some (.reti n) | _ => none)
  | 0x7E => some (.trap n b)
  | 0x60 => U (.scpyb n .none none)
  | 0x61 => U (.scpyw n .none none)
  | 0x62 => U (.sfilb n .none none)
  | 0x63 => U (.sfilw n .none none)
  | 0x64 => U (.scmpb n .none none)
  | 0x65 => U (.scmpw n .none none)
  | 0x66 => U (.sfndb n .none none)
  | 0x67 => U (.sfndw n .none none)
  | 0x80 => U (.pour n)
  | 0x81 => U (.tagwait n)
  | 0x82 => U (.fence n)
  | 0x84 => U (.fldb n)
  | 0x85 => U (.fldbu n)
  | 0x86 => U (.fldh n)
  | 0x87 => U (.fldhu n)
  | 0x88 => U (.fldw n)
  | 0x8A => U (.fstb n)
  | 0x8B => U (.fsth n)
  | 0x8C => U (.fstw n)
  | 0x8D => U (.faadd32 n)
  | 0x8E => U (.faadds18 n)
  | 0x8F => U (.faswap32 n)
  | 0xC0 => U (.tlbinv n)
  | 0xC1 => U (.tlbinva n)
  | 0xC2 => U (.wfi n)
  | 0x68 => (match prefixOf b with | some p => prefixed n p u1 | none => none)
  | _ => none

/-- Decode a vector instruction (spec/12 Tables 12.3 and 12.4); `v` holds the fields of both units. -/
def decodeVector (n : CoreId) (op fn : Nat) (v : VArgs) : Option Instr :=
  let k := BitVec.ofNat 5 fn
  let zero := fun (i : Instr) => if v = { ty := 0, men := false, vs2 := 0, vs1 := 0, vd := 0 } then some i else none
  match op, fn with
  | 0x90, 0 => some (.vsetvl n v)
  | 0x90, 1 => zero (.vsync n)
  | 0x90, 2 => zero (.vresume n)
  | 0x90, 3 => zero (.vsave n none)
  | 0x90, 4 => zero (.vload n none)
  | 0x90, 5 => some (.vmvxs n v)
  | 0x90, 6 => some (.vmvsx n v)
  | 0x90, 7 => some (.vmrd n v)
  | 0x90, 8 => some (.vmwr n v)
  | 0x90, 9 => some (.vmand n v)
  | 0x90, 10 => some (.vmor n v)
  | 0x90, 11 => some (.vmxor n v)
  | 0x90, 12 => some (.vmnot n v)
  | 0x90, 13 => some (.vmv n v)
  | 0x91, 0 => some (.vadd n v)
  | 0x91, 1 => some (.vsub n v)
  | 0x91, 2 => some (.vadds n v)
  | 0x91, 3 => some (.vsubs n v)
  | 0x91, 4 => some (.vmul n v)
  | 0x91, 5 => some (.vmin n v)
  | 0x91, 6 => some (.vmax n v)
  | 0x91, 7 => some (.vminu n v)
  | 0x91, 8 => some (.vmaxu n v)
  | 0x91, 9 => some (.vand n v)
  | 0x91, 10 => some (.vor n v)
  | 0x91, 11 => some (.vxor n v)
  | 0x91, 12 => some (.vshl n v)
  | 0x91, 13 => some (.vshr n v)
  | 0x91, 14 => some (.vsar n v)
  | 0x91, 15 => some (.vneg n v)
  | 0x91, 16 => some (.vabs n v)
  | 0x92, 0 => some (.vaddX n v)
  | 0x92, 1 => some (.vsubX n v)
  | 0x92, 2 => some (.vaddsX n v)
  | 0x92, 3 => some (.vsubsX n v)
  | 0x92, 4 => some (.vmulX n v)
  | 0x92, 5 => some (.vminX n v)
  | 0x92, 6 => some (.vmaxX n v)
  | 0x92, 7 => some (.vminuX n v)
  | 0x92, 8 => some (.vmaxuX n v)
  | 0x92, 9 => some (.vandX n v)
  | 0x92, 10 => some (.vorX n v)
  | 0x92, 11 => some (.vxorX n v)
  | 0x92, 12 => some (.vshlX n v)
  | 0x92, 13 => some (.vshrX n v)
  | 0x92, 14 => some (.vsarX n v)
  | 0x93, 0 => some (.vcmpeq n v)
  | 0x93, 1 => some (.vcmpne n v)
  | 0x93, 2 => some (.vcmplt n v)
  | 0x93, 3 => some (.vcmpltu n v)
  | 0x93, 4 => some (.vcmple n v)
  | 0x93, 5 => some (.vcmpleu n v)
  | 0x93, 6 => some (.vcmpgt n v)
  | 0x93, 7 => some (.vcmpgtu n v)
  | 0x93, 8 => some (.vfcmpeq n v)
  | 0x93, 9 => some (.vfcmplt n v)
  | 0x93, 10 => some (.vfcmple n v)
  | 0x93, 11 => some (.vfcmpun n v)
  | 0x94, 0 => some (.vwmul n v)
  | 0x94, 1 => some (.vdot4 n v)
  | 0x94, 2 => some (.vdot2 n v)
  | 0x94, 3 => some (.vdots18 n v)
  | 0x95, 0 => some (.vfadd n v)
  | 0x95, 1 => some (.vfsub n v)
  | 0x95, 2 => some (.vfmul n v)
  | 0x95, 3 => some (.vfma n v)
  | 0x95, 4 => some (.vfdiv n v)
  | 0x95, 5 => some (.vfsqrt n v)
  | 0x95, 6 => some (.vfmin n v)
  | 0x95, 7 => some (.vfmax n v)
  | 0x95, 8 => some (.vfneg n v)
  | 0x95, 9 => some (.vfabs n v)
  | 0x96, 0 => some (.vcvtF32S18 n v)
  | 0x96, 1 => some (.vcvtS18F32 n v)
  | 0x96, 2 => some (.vcvtF16F32 n v)
  | 0x96, 3 => some (.vcvtF32F16 n v)
  | 0x96, 4 => some (.vcvtF32I32 n v)
  | 0x96, 5 => some (.vcvtI32F32 n v)
  | 0x97, 0 => some (.vredsum n v)
  | 0x97, 1 => some (.vredmin n v)
  | 0x97, 2 => some (.vredmax n v)
  | 0x97, 3 => some (.vredminu n v)
  | 0x97, 4 => some (.vredmaxu n v)
  | 0x97, 5 => some (.vfredsum n v)
  | 0x97, 6 => some (.vfredmin n v)
  | 0x97, 7 => some (.vfredmax n v)
  | 0xA0, 0 => some (.vld n v)
  | 0xA1, 0 => some (.vst n v)
  | 0xA2, 0 => some (.vlds n v)
  | 0xA3, 0 => some (.vsts n v)
  | 0xA4, 0 => some (.vldx n v)
  | 0xA5, 0 => some (.vstx n v)
  | 0xA6, _ => if 2 ≤ fn ∧ fn ≤ 4 then some (.vdeal n v k) else none
  | 0xA7, _ => if 2 ≤ fn ∧ fn ≤ 4 then some (.vweave n v k) else none
  | _, _ => none

/-- Decode any instruction but a customer slot. -/
def decodeUnits (n : CoreId) (u0 u1 u2 : BitVec 16) : Option Instr :=
  let op := (fld u0 8 8).toNat
  if 0x90 ≤ op ∧ op ≤ 0xBF then
    decodeVector n op (fld u0 0 5).toNat
      { ty := fld u0 5 3, men := u1.getLsbD 15, vs2 := fld u1 10 5, vs1 := fld u1 5 5, vd := fld u1 0 5 }
  else if 0xF0 ≤ op then some (.customerInstruction n (ix 16 (op - 0xF0)) (fld u0 0 8))
  else decodeScalar n u0 u1 u2

/-- The queued operation of an instruction, with its fields and field count (VLOAD re-reads it at the entry's address). -/
def vopOf (i : Instr) : Option (VOp × VArgs × Nat) :=
  match i with
  | .vmvsx _ v => some (.mvsx, v, 0)
  | .vmwr _ v => some (.mwr, v, 0)
  | .vmand _ v => some (.mask .and, v, 0)
  | .vmor _ v => some (.mask .or, v, 0)
  | .vmxor _ v => some (.mask .xor, v, 0)
  | .vmnot _ v => some (.mask .not, v, 0)
  | .vmv _ v => some (.mv, v, 0)
  | .vadd _ v => some (.int .add, v, 0)
  | .vsub _ v => some (.int .sub, v, 0)
  | .vadds _ v => some (.int .adds, v, 0)
  | .vsubs _ v => some (.int .subs, v, 0)
  | .vmul _ v => some (.int .mul, v, 0)
  | .vmin _ v => some (.int .min, v, 0)
  | .vmax _ v => some (.int .max, v, 0)
  | .vminu _ v => some (.int .minu, v, 0)
  | .vmaxu _ v => some (.int .maxu, v, 0)
  | .vand _ v => some (.int .and, v, 0)
  | .vor _ v => some (.int .or, v, 0)
  | .vxor _ v => some (.int .xor, v, 0)
  | .vshl _ v => some (.int .shl, v, 0)
  | .vshr _ v => some (.int .shr, v, 0)
  | .vsar _ v => some (.int .sar, v, 0)
  | .vneg _ v => some (.int .neg, v, 0)
  | .vabs _ v => some (.int .abs, v, 0)
  | .vaddX _ v => some (.intX .add, v, 0)
  | .vsubX _ v => some (.intX .sub, v, 0)
  | .vaddsX _ v => some (.intX .adds, v, 0)
  | .vsubsX _ v => some (.intX .subs, v, 0)
  | .vmulX _ v => some (.intX .mul, v, 0)
  | .vminX _ v => some (.intX .min, v, 0)
  | .vmaxX _ v => some (.intX .max, v, 0)
  | .vminuX _ v => some (.intX .minu, v, 0)
  | .vmaxuX _ v => some (.intX .maxu, v, 0)
  | .vandX _ v => some (.intX .and, v, 0)
  | .vorX _ v => some (.intX .or, v, 0)
  | .vxorX _ v => some (.intX .xor, v, 0)
  | .vshlX _ v => some (.intX .shl, v, 0)
  | .vshrX _ v => some (.intX .shr, v, 0)
  | .vsarX _ v => some (.intX .sar, v, 0)
  | .vcmpeq _ v => some (.cmp .eq, v, 0)
  | .vcmpne _ v => some (.cmp .ne, v, 0)
  | .vcmplt _ v => some (.cmp .lt, v, 0)
  | .vcmpltu _ v => some (.cmp .ltu, v, 0)
  | .vcmple _ v => some (.cmp .le, v, 0)
  | .vcmpleu _ v => some (.cmp .leu, v, 0)
  | .vcmpgt _ v => some (.cmp .gt, v, 0)
  | .vcmpgtu _ v => some (.cmp .gtu, v, 0)
  | .vfcmpeq _ v => some (.fcmp .eq, v, 0)
  | .vfcmplt _ v => some (.fcmp .lt, v, 0)
  | .vfcmple _ v => some (.fcmp .le, v, 0)
  | .vfcmpun _ v => some (.fcmp .un, v, 0)
  | .vwmul _ v => some (.wmul, v, 0)
  | .vdot4 _ v => some (.dot4, v, 0)
  | .vdot2 _ v => some (.dot2, v, 0)
  | .vdots18 _ v => some (.dots18, v, 0)
  | .vfadd _ v => some (.flt .add, v, 0)
  | .vfsub _ v => some (.flt .sub, v, 0)
  | .vfmul _ v => some (.flt .mul, v, 0)
  | .vfma _ v => some (.flt .fma, v, 0)
  | .vfdiv _ v => some (.flt .div, v, 0)
  | .vfsqrt _ v => some (.flt .sqrt, v, 0)
  | .vfmin _ v => some (.flt .min, v, 0)
  | .vfmax _ v => some (.flt .max, v, 0)
  | .vfneg _ v => some (.flt .neg, v, 0)
  | .vfabs _ v => some (.flt .abs, v, 0)
  | .vcvtF32S18 _ v => some (.cvt .f32s18, v, 0)
  | .vcvtS18F32 _ v => some (.cvt .s18f32, v, 0)
  | .vcvtF16F32 _ v => some (.cvt .f16f32, v, 0)
  | .vcvtF32F16 _ v => some (.cvt .f32f16, v, 0)
  | .vcvtF32I32 _ v => some (.cvt .f32i32, v, 0)
  | .vcvtI32F32 _ v => some (.cvt .i32f32, v, 0)
  | .vredsum _ v => some (.red .sum, v, 0)
  | .vredmin _ v => some (.red .min, v, 0)
  | .vredmax _ v => some (.red .max, v, 0)
  | .vredminu _ v => some (.red .minu, v, 0)
  | .vredmaxu _ v => some (.red .maxu, v, 0)
  | .vfredsum _ v => some (.red .fsum, v, 0)
  | .vfredmin _ v => some (.red .fmin, v, 0)
  | .vfredmax _ v => some (.red .fmax, v, 0)
  | .vld _ v => some (.mem .ld, v, 0)
  | .vst _ v => some (.mem .st, v, 0)
  | .vlds _ v => some (.mem .lds, v, 0)
  | .vsts _ v => some (.mem .sts, v, 0)
  | .vldx _ v => some (.mem .ldx, v, 0)
  | .vstx _ v => some (.mem .stx, v, 0)
  | .vdeal _ v k => some (.mem .deal, v, k.toNat)
  | .vweave _ v k => some (.mem .weave, v, k.toNat)
  | _ => none

end Sys2Proof.Machine
end

