-- ==== Sys2Proof/Machine/Pour.lean ====
section
/-! DEFINITION. Machine/Pour.lean: the pour port: refusals, outbound buffers and forwarding into the pour queues (spec/05
R128 to R130, spec/04 R103). -/

namespace Sys2Proof.Machine

/-- Why the pour port refuses a record (spec/05 Table 5.2); of several conditions the lowest DETAIL. (DESIGN CHOICE, log 92) -/
def State.pourRefusal (s : State) (r : PourRec) : Option Nat :=
  let a := r.lead
  if r.reservedSet then some 1
  else if r.width = 0 ∨ 64 < r.width then some 2
  else if r.mask = 0 then some 3
  else if (s.gradeC && decide (4 ≤ a.val)) || !s.domainOpen (264 + a.val) || (s.streamOf a).isEmpty ||
      decide (s.mode = .safeStop) || s.regrouping a then some 4
  else none

/-- A record reaches the port from its core: refused with its completion, or into the core's outbound buffer. -/
def State.pourArrive (s : State) (r : PourRec) : State :=
  match s.pourRefusal r with
  | some d => s.complete r 1 d none
  | none => { s with pour := { s.pour with buf := vmod s.pour.buf r.core (fun l => l ++ [r]) } }

/-- Place a record in a queue: a pre-empting record behind the pre-empting ones and ahead of every other (R103). -/
def Seq.enqueue (q : Seq) (r : PourRec) : Seq :=
  if q.preempts r then { q with queue := q.queue.takeWhile q.preempts ++ [r] ++ q.queue.dropWhile q.preempts }
  else { q with queue := q.queue ++ [r] }

/-- POUR_FORWARD: the oldest record of core n's buffer enters the lead queue of its stream when one of its 16 entries is free
(R128, R130); a younger record whose queue has room does not pass it (DESIGN CHOICE, log 92). An accepted record counts as
queued (R135, Table 5.5): it waits while its stream is regrouped or its domain is fenced, and where the stream is gone it is
ABANDONED in SAFE STOP, DISCARDED with DETAIL 0x3 without its domain and 0x2 without its stream, and lost in the ebb. -/
def execPourForward (n : CoreId) (s : State) : Out :=
  match s.pour.buf[n] with
  | [] => .next s
  | r :: rest =>
    let t := { s with pour := { s.pour with buf := vset s.pour.buf n rest } }
    let lead := s.leadOf r.lead
    if s.mode = .ebb then .next t
    else if s.mode = .safeStop then .next (t.complete r 4 1 none)
    else if !s.pwr.on.getLsbD (264 + r.lead.val) then .next (t.complete r 3 3 none)
    else if !s.domainOpen (264 + r.lead.val) || s.regrouping r.lead then .next s
    else if (s.streamOf r.lead).isEmpty then .next (t.complete r 3 2 none)
    else if (s.arch[lead]).seq.queue.length < 16 then .next (t.modSeq lead (fun q => q.enqueue r))
    else .next s

end Sys2Proof.Machine
end

