-- ==== Sys2Proof/Machine/CoreRet.lean ====
section
/-! DEFINITION. Machine/CoreRet.lean: VSAVE and VLOAD (spec/12 R300) and the run of one instruction with its records taken
to the pour port. -/

namespace Sys2Proof.Machine

/-- Word i of the save area (Table 12.11). -/
def Core.vecWord (c : Core) (n : CoreId) (i : Nat) : Word :=
  if i < 128 then fld (c.vec.v[ix 32 (i / 4)]) (32 * (i % 4)) 32
  else if i < 136 then fld (c.vec.vm[ix 4 ((i - 128) / 2)]) (32 * (i % 2)) 32
  else if i < 144 then c.csr n (0x20 + (i - 136))
  else c.vec.entryWord ((i - 144) / 4) ((i - 144) % 4)

/-- An entry as its capture word says; none where the word marks no entry. Its instruction is read again when the entry is
executed. -/
def VEntry.ofCap (pc a b cap : Word) : Option VEntry :=
  if cap.getLsbD 31 then
    some { pc := pc, op := none, args := { ty := 0, men := false, vs2 := 0, vs1 := 0, vd := 0 }, k := 0, a := a, b := b
           nsc := (fld cap 29 2).toNat, vl := fld cap 22 7, grp := fld cap 20 2, rm := fld cap 18 2, ftz := cap.getLsbD 17, start := 0 }
  else none

/-- The instruction at an entry's address is read again: both units must translate into local SRAM. -/
def Core.entryFetch (c : Core) (n : CoreId) (pc : Word) : Except VStop (Option (VOp × VArgs × Nat) × Core) := do
  let (_, c) ← c.vecAddr pc 2 .fetch
  let (_, c) ← c.vecAddr (pc + 2) 2 .fetch
  .ok ((decodeUnits n (c.unitAt pc) (c.unitAt (pc + 2)) (c.unitAt (pc + 4))).bind vopOf, c)

/-- The unit executes the front entry, whose instruction it reads again where VLOAD restored it (R297, R298, R300): the walk
it needs is waited for, and a failed fetch forms the record anew. (DESIGN CHOICE, log 103) -/
def Core.vecRun (c : Core) (n : CoreId) : Core :=
  match c.vec.queue with
  | [] => c
  | x :: q =>
    if x.op.isSome || c.vec.valid then c.vecExecute
    else
      match c.entryFetch n x.pc with
      | .error stop => c.vecStop x q x.start stop
      | .ok (o, c) =>
        let y := { x with op := o.map (fun o => o.1), args := (o.map (fun o => o.2.1)).getD x.args, k := (o.map (fun o => o.2.2)).getD 0 }
        ({ c with vec := { c.vec with queue := y :: q } } : Core).vecExecute

/-- Load word i of the save area. The words of an entry are kept in the entry as they come; the capture word completes it
or, marking none, drops it. A restored fault is not reported yet (R300). -/
def Core.vecPutWord (c : Core) (env : CEnv) (i : Nat) (w : Word) : Core :=
  let v := c.vec
  let put := fun (v : VecUnit) => { c with vec := v }
  if i < 128 then put { v with v := vmod v.v (ix 32 (i / 4)) (fun b => setFld b (32 * (i % 4)) 32 w) }
  else if i < 136 then put { v with vm := vmod v.vm (ix 4 ((i - 128) / 2)) (fun b => setFld b (32 * (i % 2)) 32 w) }
  else if i < 144 then
    match i - 136 with
    | 0 => put { v with grp := fld w 0 2 }
    | 1 => put { v with vl := clampVl w }
    | 2 => put { v with vstart := fld w 0 6 }
    | 3 => c.csrWrite env 0x23 w
    | 4 => put { v with vflags := fld w 0 5 }
    | 5 => put { v with valid := w.getLsbD 31, rpt := false, kind := fld w 26 4, e := fld w 20 6, faulted := [] }
    | 6 => put { v with vfpc := w }
    | _ => put { v with vfva := w }
  else
    let raw : VEntry := { pc := w, op := none, args := { ty := 0, men := false, vs2 := 0, vs1 := 0, vd := 0 }, k := 0, a := 0
                          b := 0, nsc := 0, vl := 0, grp := 0, rm := 0, ftz := false, start := 0 }
    let last := fun (f : VEntry → Option VEntry) =>
      put { v with faulted := v.faulted.dropLast ++ ((v.faulted.getLast?).bind f).toList }
    match (i - 144) % 4 with
    | 0 => put { v with faulted := v.faulted ++ [raw] }
    | 1 => last (fun e => some { e with a := w })
    | 2 => last (fun e => some { e with b := w })
    | _ => last (fun e => VEntry.ofCap e.pc e.a e.b w)

/-- A reserved bit of a CSR image is nonzero (R300): image k is that of CSR 0x20 + k. -/
def csrImageBad (k : Nat) (w : Word) : Bool :=
  match k with
  | 0 => fld w 2 30 != 0
  | 1 => fld w 7 25 != 0
  | 2 => fld w 6 26 != 0
  | 3 => fld w 3 29 != 0
  | 4 => fld w 5 27 != 0
  | 5 => fld w 0 17 != 0
  | _ => false

/-- VSAVE's word: store the next word of the area at DST. (DEDUCED, log 44) -/
def Core.vsaveWord (n : CoreId) (c : Core) : CM Core := do
  let c1 ← c.store n c.dst 4 (c.vecWord n (164 - c.cnt.toNat)).toNat
  .ok { c1 with cnt := c.cnt - 1, dst := c.dst + 4 }

/-- VLOAD's word: load the word at SRC. -/
def Core.vloadWord (env : CEnv) (c : Core) : CM Core := do
  let (w, c1) ← c.load env.n c.src 4
  .ok { c1.vecPutWord env (164 - c.cnt.toNat) (BitVec.ofNat 32 w) with cnt := c.cnt - 1, src := c.src + 4 }

/-- The first and the last word of the area lie in local SRAM and are aligned. -/
def Core.areaOk (c : Core) (n : CoreId) (a : Word) (k : XKind) : CM Core := do
  let (_, c) ← c.localAddr n a 4 k
  let (_, c) ← c.localAddr n (a + 652) 4 k
  .ok c

/-- VSAVE and VLOAD begin when the unit is empty and do not report a fault (R286, R300). -/
def insnVmove (load : Bool) (brk : Option Nat) : Insn := { units := 2, kind := .vstring, keeps := true, body := fun env c => CM.out do
  let word := if load then Core.vloadWord env else Core.vsaveWord env.n
  let brk := if env.irq then brk else none
  if !c.ve then .ok (illegal c)
  else if c.sip then .ok (Core.wordLoop word brk c.cnt.toNat 0 c)
  else do
    c.vecDrained
    let (ws, c1) ← c.pop 1 0
    let a := ws.getD 0 0
    match (do
      let c2 ← c1.areaOk env.n a (if load then .load else .store)
      if load then do
        let (img, c3) ← c2.loadWords env.n 8 (a + 0x220)
        if (img.zipIdx).any (fun wi => csrImageBad wi.2 wi.1) then .error (.exc c3 0xC none 0) else .ok c3
      else .ok c2 : CM Core) with
    | .error (.exc c' x y z) => .error (.exc (c.unbegun c') x y z)
    | .error r => .error r
    | .ok c2 => .ok (Core.wordLoop word brk 164 0
        (if load then { c2 with cnt := 164, src := a } else { c2 with cnt := 164, dst := a })) }

def insnVsave (brk : Option Nat) : Insn := insnVmove false brk
def insnVload (brk : Option Nat) : Insn := insnVmove true brk

/-- Run instruction `i` at core `n`. (DESIGN CHOICE, log 30) -/
def State.runInsn (s : State) (n : CoreId) (i : Insn) : State := s.runInsnWith State.pourArrive n i

end Sys2Proof.Machine
end

