-- ==== Sys2Proof/Machine/CoreExec.lean ====
section
/-! DEFINITION. Machine/CoreExec.lean: the instructions of the control cores (spec/11, spec/12): each runs its meaning at
its core. -/

namespace Sys2Proof.Machine

/-- The meaning of an instruction on its core; none for a command that is no instruction of a core. -/
def insnOf (i : Instr) : Option Insn :=
  match i with
  | .nop _ => some (insnNop)
  | .dup _ => some (insnDup)
  | .drop _ => some (insnDrop)
  | .swap _ => some (insnSwap)
  | .over _ => some (insnOver)
  | .rot _ => some (insnRot)
  | .pick _ k => some (insnPick k)
  | .put _ k => some (insnPut k)
  | .depth _ => some (insnDepth)
  | .savestk _ brk => some (insnSavestk brk)
  | .loadstk _ brk => some (insnLoadstk brk)
  | .lit8 _ imm => some (insnLit8 imm)
  | .lit16 _ imm => some (insnLit16 imm)
  | .lit32 _ imm => some (insnLit32 imm)
  | .lithi _ imm => some (insnLithi imm)
  | .add _ => some (insnAlu .add)
  | .sub _ => some (insnAlu .sub)
  | .adc _ => some (insnAlu .adc)
  | .sbc _ => some (insnAlu .sbc)
  | .mul _ => some (insnAlu .mul)
  | .mulwu _ => some (insnAlu .mulwu)
  | .mulws _ => some (insnAlu .mulws)
  | .divu _ => some (insnAlu .divu)
  | .divs _ => some (insnAlu .divs)
  | .remu _ => some (insnAlu .remu)
  | .rems _ => some (insnAlu .rems)
  | .and _ => some (insnAlu .and)
  | .or _ => some (insnAlu .or)
  | .xor _ => some (insnAlu .xor)
  | .not _ => some (insnAlu .not)
  | .neg _ => some (insnAlu .neg)
  | .shl _ => some (insnAlu .shl)
  | .shr _ => some (insnAlu .shr)
  | .sar _ => some (insnAlu .sar)
  | .rol _ => some (insnAlu .rol)
  | .clz _ => some (insnAlu .clz)
  | .popc _ => some (insnAlu .popc)
  | .bfx _ => some (insnAlu .bfx)
  | .bfi _ => some (insnAlu .bfi)
  | .bperm _ => some (insnAlu .bperm)
  | .min _ => some (insnAlu .min)
  | .max _ => some (insnAlu .max)
  | .sext8 _ => some (insnAlu .sext8)
  | .sext16 _ => some (insnAlu .sext16)
  | .sext18 _ => some (insnAlu .sext18)
  | .sat18 _ => some (insnAlu .sat18)
  | .rdr _ c => some (insnRdr c)
  | .wrr _ c => some (insnWrr c)
  | .csrr _ c => some (insnCsrr c)
  | .csrw _ c => some (insnCsrw c)
  | .ldb _ => some (insnLdb)
  | .ldbu _ => some (insnLdbu)
  | .ldh _ => some (insnLdh)
  | .ldhu _ => some (insnLdhu)
  | .ldw _ => some (insnLdw)
  | .stb _ => some (insnStb)
  | .sth _ => some (insnSth)
  | .stw _ => some (insnStw)
  | .beq _ rel => some (insnBeq rel)
  | .bne _ rel => some (insnBne rel)
  | .blt _ rel => some (insnBlt rel)
  | .bge _ rel => some (insnBge rel)
  | .bltu _ rel => some (insnBltu rel)
  | .bgeu _ rel => some (insnBgeu rel)
  | .beqz _ rel => some (insnBeqz rel)
  | .bnez _ rel => some (insnBnez rel)
  | .bra _ rel => some (insnBra rel)
  | .jmp _ => some (insnJmp)
  | .calll _ rel => some (insnCalll rel)
  | .call _ mask rel => some (insnCall mask rel)
  | .calli _ => some (insnCalli)
  | .retl _ => some (insnRetl)
  | .ret _ => some (insnRet)
  | .reti _ => some (insnReti)
  | .trap _ imm => some (insnTrap imm)
  | .scpyb _ pfx brk => some (insnStr .cpy 1 pfx brk)
  | .scpyw _ pfx brk => some (insnStr .cpy 4 pfx brk)
  | .sfilb _ pfx brk => some (insnStr .fil 1 pfx brk)
  | .sfilw _ pfx brk => some (insnStr .fil 4 pfx brk)
  | .scmpb _ pfx brk => some (insnStr .cmp 1 pfx brk)
  | .scmpw _ pfx brk => some (insnStr .cmp 4 pfx brk)
  | .sfndb _ pfx brk => some (insnStr .fnd 1 pfx brk)
  | .sfndw _ pfx brk => some (insnStr .fnd 4 pfx brk)
  | .pour _ => some (insnPour)
  | .tagwait _ => some (insnTagwait)
  | .fence _ => some (insnFence)
  | .fldb _ => some (insnFldb)
  | .fldbu _ => some (insnFldbu)
  | .fldh _ => some (insnFldh)
  | .fldhu _ => some (insnFldhu)
  | .fldw _ => some (insnFldw)
  | .fstb _ => some (insnFstb)
  | .fsth _ => some (insnFsth)
  | .fstw _ => some (insnFstw)
  | .faadd32 _ => some (insnFaadd32)
  | .faadds18 _ => some (insnFaadds18)
  | .faswap32 _ => some (insnFaswap32)
  | .tlbinv _ => some (insnTlbinv)
  | .tlbinva _ => some (insnTlbinva)
  | .wfi _ => some (insnWfi)
  | .vsetvl _ v => some (insnVsetvl v)
  | .vsync _ => some (insnVsync)
  | .vresume _ => some (insnVresume)
  | .vsave _ brk => some (insnVsave brk)
  | .vload _ brk => some (insnVload brk)
  | .vmvxs _ v => some (insnVmvxs v)
  | .vmvsx _ v => some (insnVec .mvsx v 2)
  | .vmrd _ v => some (insnVmrd v)
  | .vmwr _ v => some (insnVec .mwr v 2)
  | .vmand _ v => some (insnVec (.mask .and) v 0)
  | .vmor _ v => some (insnVec (.mask .or) v 0)
  | .vmxor _ v => some (insnVec (.mask .xor) v 0)
  | .vmnot _ v => some (insnVec (.mask .not) v 0)
  | .vmv _ v => some (insnVec .mv v 0)
  | .vadd _ v => some (insnVec (.int .add) v 0)
  | .vsub _ v => some (insnVec (.int .sub) v 0)
  | .vadds _ v => some (insnVec (.int .adds) v 0)
  | .vsubs _ v => some (insnVec (.int .subs) v 0)
  | .vmul _ v => some (insnVec (.int .mul) v 0)
  | .vmin _ v => some (insnVec (.int .min) v 0)
  | .vmax _ v => some (insnVec (.int .max) v 0)
  | .vminu _ v => some (insnVec (.int .minu) v 0)
  | .vmaxu _ v => some (insnVec (.int .maxu) v 0)
  | .vand _ v => some (insnVec (.int .and) v 0)
  | .vor _ v => some (insnVec (.int .or) v 0)
  | .vxor _ v => some (insnVec (.int .xor) v 0)
  | .vshl _ v => some (insnVec (.int .shl) v 0)
  | .vshr _ v => some (insnVec (.int .shr) v 0)
  | .vsar _ v => some (insnVec (.int .sar) v 0)
  | .vneg _ v => some (insnVec (.int .neg) v 0)
  | .vabs _ v => some (insnVec (.int .abs) v 0)
  | .vaddX _ v => some (insnVec (.intX .add) v 1)
  | .vsubX _ v => some (insnVec (.intX .sub) v 1)
  | .vaddsX _ v => some (insnVec (.intX .adds) v 1)
  | .vsubsX _ v => some (insnVec (.intX .subs) v 1)
  | .vmulX _ v => some (insnVec (.intX .mul) v 1)
  | .vminX _ v => some (insnVec (.intX .min) v 1)
  | .vmaxX _ v => some (insnVec (.intX .max) v 1)
  | .vminuX _ v => some (insnVec (.intX .minu) v 1)
  | .vmaxuX _ v => some (insnVec (.intX .maxu) v 1)
  | .vandX _ v => some (insnVec (.intX .and) v 1)
  | .vorX _ v => some (insnVec (.intX .or) v 1)
  | .vxorX _ v => some (insnVec (.intX .xor) v 1)
  | .vshlX _ v => some (insnVec (.intX .shl) v 1)
  | .vshrX _ v => some (insnVec (.intX .shr) v 1)
  | .vsarX _ v => some (insnVec (.intX .sar) v 1)
  | .vcmpeq _ v => some (insnVec (.cmp .eq) v 0)
  | .vcmpne _ v => some (insnVec (.cmp .ne) v 0)
  | .vcmplt _ v => some (insnVec (.cmp .lt) v 0)
  | .vcmpltu _ v => some (insnVec (.cmp .ltu) v 0)
  | .vcmple _ v => some (insnVec (.cmp .le) v 0)
  | .vcmpleu _ v => some (insnVec (.cmp .leu) v 0)
  | .vcmpgt _ v => some (insnVec (.cmp .gt) v 0)
  | .vcmpgtu _ v => some (insnVec (.cmp .gtu) v 0)
  | .vfcmpeq _ v => some (insnVec (.fcmp .eq) v 0)
  | .vfcmplt _ v => some (insnVec (.fcmp .lt) v 0)
  | .vfcmple _ v => some (insnVec (.fcmp .le) v 0)
  | .vfcmpun _ v => some (insnVec (.fcmp .un) v 0)
  | .vwmul _ v => some (insnVec .wmul v 0)
  | .vdot4 _ v => some (insnVec .dot4 v 0)
  | .vdot2 _ v => some (insnVec .dot2 v 0)
  | .vdots18 _ v => some (insnVec .dots18 v 0)
  | .vfadd _ v => some (insnVec (.flt .add) v 0)
  | .vfsub _ v => some (insnVec (.flt .sub) v 0)
  | .vfmul _ v => some (insnVec (.flt .mul) v 0)
  | .vfma _ v => some (insnVec (.flt .fma) v 0)
  | .vfdiv _ v => some (insnVec (.flt .div) v 0)
  | .vfsqrt _ v => some (insnVec (.flt .sqrt) v 0)
  | .vfmin _ v => some (insnVec (.flt .min) v 0)
  | .vfmax _ v => some (insnVec (.flt .max) v 0)
  | .vfneg _ v => some (insnVec (.flt .neg) v 0)
  | .vfabs _ v => some (insnVec (.flt .abs) v 0)
  | .vcvtF32S18 _ v => some (insnVec (.cvt .f32s18) v 0)
  | .vcvtS18F32 _ v => some (insnVec (.cvt .s18f32) v 0)
  | .vcvtF16F32 _ v => some (insnVec (.cvt .f16f32) v 0)
  | .vcvtF32F16 _ v => some (insnVec (.cvt .f32f16) v 0)
  | .vcvtF32I32 _ v => some (insnVec (.cvt .f32i32) v 0)
  | .vcvtI32F32 _ v => some (insnVec (.cvt .i32f32) v 0)
  | .vredsum _ v => some (insnVec (.red .sum) v 0)
  | .vredmin _ v => some (insnVec (.red .min) v 0)
  | .vredmax _ v => some (insnVec (.red .max) v 0)
  | .vredminu _ v => some (insnVec (.red .minu) v 0)
  | .vredmaxu _ v => some (insnVec (.red .maxu) v 0)
  | .vfredsum _ v => some (insnVec (.red .fsum) v 0)
  | .vfredmin _ v => some (insnVec (.red .fmin) v 0)
  | .vfredmax _ v => some (insnVec (.red .fmax) v 0)
  | .vld _ v => some (insnVec (.mem .ld) v 1)
  | .vst _ v => some (insnVec (.mem .st) v 1)
  | .vlds _ v => some (insnVec (.mem .lds) v 2)
  | .vsts _ v => some (insnVec (.mem .sts) v 2)
  | .vldx _ v => some (insnVec (.mem .ldx) v 1)
  | .vstx _ v => some (insnVec (.mem .stx) v 1)
  | .vdeal _ v k => some (insnVecK (.mem .deal) v k)
  | .vweave _ v k => some (insnVecK (.mem .weave) v k)
  | _ => none

/-! ### Customer slots (spec/11 R275 to R278) -/

/-- Unit j of a customer body that starts at micro-store word `entry`. -/
def Core.bodyUnit (c : Core) (entry j : Nat) : BitVec 16 := fld (SMap.get 0 c.ustore (entry + j / 6)) (16 * (j % 6)) 16

/-- Run a body on a working copy: at most `fuel` instructions from unit `j`, ending at the unit 0xD000. -/
def Core.runBody (env : CEnv) (entry : Nat) : Nat → Nat → Core → CM Core
  | 0, _, c => .ok c
  | fuel + 1, j, c =>
    let u := fun k => c.bodyUnit entry (j + k)
    if u 0 = 0xD000 then .ok c
    else
      match (decodeUnits env.n (u 0) (u 1) (u 2)).bind insnOf with
      | none => .error (illegal c)
      | some i =>
        match i.body env c with
        | .done c' .. => Core.runBody env entry fuel (j + i.units) c'
        | r => .error r

/-- CXs with operand byte `imm` (R275, R278). -/
def insnCustomer (slot : Fin 16) (imm : Byte) : Insn := insn1 (fun env c => CM.out do
  let e := c.slots[slot]
  let isImm := e.getLsbD 29
  if !c.ccfg.getLsbD 0 || !e.getLsbD 31 || !c.sloten.getLsbD slot.val || (!isImm && imm != 0) then .ok (illegal c)
  else if e.getLsbD 30 && !c.priv then .ok (.exc c 2 none 0)
  else
    let need := (fld e 11 4).toNat - (if isImm then 1 else 0)
    let top := c.stack.take need
    if top.any Slot.pending then .error (.wait c)
    else do
      let _ ← c.values top
      if c.depth < need then .error (.exc c 4 none 0)
      else if 256 < c.depth + (fld e 7 4).toNat then .error (.exc c 3 none 0) else .ok ()
      let w := if isImm then c.push [imm.signExtend 32] else c
      let c' ← Core.runBody env (fld e 15 8).toNat 64 0 w
      .ok (.ok c'))

/-! ### Commands -/

/-- CUSTOMER_INSTRUCTION. -/
def execCustomerInstruction (n : CoreId) (slot : Fin 16) (imm : Byte) (s : State) : Out :=
  .next (s.runInsn n (insnCustomer slot imm))

/-- ILLEGAL_INSTRUCTION: units that spell no instruction raise ILLEGAL (R256, R257). -/
def execIllegalInstruction (n : CoreId) (units : List (BitVec 16)) (s : State) : Out :=
  match decodeUnits n (units.getD 0 0) (units.getD 1 0) (units.getD 2 0) with
  | some _ => .next s
  | none => .next (s.runInsn n (insn1 (fun _ c => illegal c)))

/-- NOP. -/
def execNop (n : CoreId) (s : State) : Out := .next (s.runInsn n (insnNop))

/-- DUP. -/
def execDup (n : CoreId) (s : State) : Out := .next (s.runInsn n (insnDup))

/-- DROP. -/
def execDrop (n : CoreId) (s : State) : Out := .next (s.runInsn n (insnDrop))

/-- SWAP. -/
def execSwap (n : CoreId) (s : State) : Out := .next (s.runInsn n (insnSwap))

/-- OVER. -/
def execOver (n : CoreId) (s : State) : Out := .next (s.runInsn n (insnOver))

/-- ROT. -/
def execRot (n : CoreId) (s : State) : Out := .next (s.runInsn n (insnRot))

/-- PICK. -/
def execPick (n : CoreId) (k : Byte) (s : State) : Out := .next (s.runInsn n (insnPick k))

/-- PUT. -/
def execPut (n : CoreId) (k : Byte) (s : State) : Out := .next (s.runInsn n (insnPut k))

/-- DEPTH. -/
def execDepth (n : CoreId) (s : State) : Out := .next (s.runInsn n (insnDepth))

/-- SAVESTK. -/
def execSavestk (n : CoreId) (brk : Option Nat) (s : State) : Out := .next (s.runInsn n (insnSavestk brk))

/-- LOADSTK. -/
def execLoadstk (n : CoreId) (brk : Option Nat) (s : State) : Out := .next (s.runInsn n (insnLoadstk brk))

/-- LIT8. -/
def execLit8 (n : CoreId) (imm : Byte) (s : State) : Out := .next (s.runInsn n (insnLit8 imm))

/-- LIT16. -/
def execLit16 (n : CoreId) (imm : BitVec 16) (s : State) : Out := .next (s.runInsn n (insnLit16 imm))

/-- LIT32. -/
def execLit32 (n : CoreId) (imm : Word) (s : State) : Out := .next (s.runInsn n (insnLit32 imm))

/-- LITHI. -/
def execLithi (n : CoreId) (imm : BitVec 16) (s : State) : Out := .next (s.runInsn n (insnLithi imm))

/-- ADD. -/
def execAdd (n : CoreId) (s : State) : Out := .next (s.runInsn n (insnAlu .add))

/-- SUB. -/
def execSub (n : CoreId) (s : State) : Out := .next (s.runInsn n (insnAlu .sub))

/-- ADC. -/
def execAdc (n : CoreId) (s : State) : Out := .next (s.runInsn n (insnAlu .adc))

/-- SBC. -/
def execSbc (n : CoreId) (s : State) : Out := .next (s.runInsn n (insnAlu .sbc))

/-- MUL. -/
def execMul (n : CoreId) (s : State) : Out := .next (s.runInsn n (insnAlu .mul))

/-- MULWU. -/
def execMulwu (n : CoreId) (s : State) : Out := .next (s.runInsn n (insnAlu .mulwu))

/-- MULWS. -/
def execMulws (n : CoreId) (s : State) : Out := .next (s.runInsn n (insnAlu .mulws))

/-- DIVU. -/
def execDivu (n : CoreId) (s : State) : Out := .next (s.runInsn n (insnAlu .divu))

/-- DIVS. -/
def execDivs (n : CoreId) (s : State) : Out := .next (s.runInsn n (insnAlu .divs))

/-- REMU. -/
def execRemu (n : CoreId) (s : State) : Out := .next (s.runInsn n (insnAlu .remu))

/-- REMS. -/
def execRems (n : CoreId) (s : State) : Out := .next (s.runInsn n (insnAlu .rems))

/-- AND. -/
def execAnd (n : CoreId) (s : State) : Out := .next (s.runInsn n (insnAlu .and))

/-- OR. -/
def execOr (n : CoreId) (s : State) : Out := .next (s.runInsn n (insnAlu .or))

/-- XOR. -/
def execXor (n : CoreId) (s : State) : Out := .next (s.runInsn n (insnAlu .xor))

/-- NOT. -/
def execNot (n : CoreId) (s : State) : Out := .next (s.runInsn n (insnAlu .not))

/-- NEG. -/
def execNeg (n : CoreId) (s : State) : Out := .next (s.runInsn n (insnAlu .neg))

/-- SHL. -/
def execShl (n : CoreId) (s : State) : Out := .next (s.runInsn n (insnAlu .shl))

/-- SHR. -/
def execShr (n : CoreId) (s : State) : Out := .next (s.runInsn n (insnAlu .shr))

/-- SAR. -/
def execSar (n : CoreId) (s : State) : Out := .next (s.runInsn n (insnAlu .sar))

/-- ROL. -/
def execRol (n : CoreId) (s : State) : Out := .next (s.runInsn n (insnAlu .rol))

/-- CLZ. -/
def execClz (n : CoreId) (s : State) : Out := .next (s.runInsn n (insnAlu .clz))

/-- POPC. -/
def execPopc (n : CoreId) (s : State) : Out := .next (s.runInsn n (insnAlu .popc))

/-- BFX. -/
def execBfx (n : CoreId) (s : State) : Out := .next (s.runInsn n (insnAlu .bfx))

/-- BFI. -/
def execBfi (n : CoreId) (s : State) : Out := .next (s.runInsn n (insnAlu .bfi))

/-- BPERM. -/
def execBperm (n : CoreId) (s : State) : Out := .next (s.runInsn n (insnAlu .bperm))

/-- MIN. -/
def execMin (n : CoreId) (s : State) : Out := .next (s.runInsn n (insnAlu .min))

/-- MAX. -/
def execMax (n : CoreId) (s : State) : Out := .next (s.runInsn n (insnAlu .max))

/-- SEXT8. -/
def execSext8 (n : CoreId) (s : State) : Out := .next (s.runInsn n (insnAlu .sext8))

/-- SEXT16. -/
def execSext16 (n : CoreId) (s : State) : Out := .next (s.runInsn n (insnAlu .sext16))

/-- SEXT18. -/
def execSext18 (n : CoreId) (s : State) : Out := .next (s.runInsn n (insnAlu .sext18))

/-- SAT18. -/
def execSat18 (n : CoreId) (s : State) : Out := .next (s.runInsn n (insnAlu .sat18))

/-- RDR. -/
def execRdr (n : CoreId) (c : Byte) (s : State) : Out := .next (s.runInsn n (insnRdr c))

/-- WRR. -/
def execWrr (n : CoreId) (c : Byte) (s : State) : Out := .next (s.runInsn n (insnWrr c))

/-- CSRR. -/
def execCsrr (n : CoreId) (c : Byte) (s : State) : Out := .next (s.runInsn n (insnCsrr c))

/-- CSRW. -/
def execCsrw (n : CoreId) (c : Byte) (s : State) : Out := .next (s.runInsn n (insnCsrw c))

/-- LDB. -/
def execLdb (n : CoreId) (s : State) : Out := .next (s.runInsn n (insnLdb))

/-- LDBU. -/
def execLdbu (n : CoreId) (s : State) : Out := .next (s.runInsn n (insnLdbu))

/-- LDH. -/
def execLdh (n : CoreId) (s : State) : Out := .next (s.runInsn n (insnLdh))

/-- LDHU. -/
def execLdhu (n : CoreId) (s : State) : Out := .next (s.runInsn n (insnLdhu))

/-- LDW. -/
def execLdw (n : CoreId) (s : State) : Out := .next (s.runInsn n (insnLdw))

/-- STB. -/
def execStb (n : CoreId) (s : State) : Out := .next (s.runInsn n (insnStb))

/-- STH. -/
def execSth (n : CoreId) (s : State) : Out := .next (s.runInsn n (insnSth))

/-- STW. -/
def execStw (n : CoreId) (s : State) : Out := .next (s.runInsn n (insnStw))

/-- BEQ. -/
def execBeq (n : CoreId) (rel : BitVec 16) (s : State) : Out := .next (s.runInsn n (insnBeq rel))

/-- BNE. -/
def execBne (n : CoreId) (rel : BitVec 16) (s : State) : Out := .next (s.runInsn n (insnBne rel))

/-- BLT. -/
def execBlt (n : CoreId) (rel : BitVec 16) (s : State) : Out := .next (s.runInsn n (insnBlt rel))

/-- BGE. -/
def execBge (n : CoreId) (rel : BitVec 16) (s : State) : Out := .next (s.runInsn n (insnBge rel))

/-- BLTU. -/
def execBltu (n : CoreId) (rel : BitVec 16) (s : State) : Out := .next (s.runInsn n (insnBltu rel))

/-- BGEU. -/
def execBgeu (n : CoreId) (rel : BitVec 16) (s : State) : Out := .next (s.runInsn n (insnBgeu rel))

/-- BEQZ. -/
def execBeqz (n : CoreId) (rel : BitVec 16) (s : State) : Out := .next (s.runInsn n (insnBeqz rel))

/-- BNEZ. -/
def execBnez (n : CoreId) (rel : BitVec 16) (s : State) : Out := .next (s.runInsn n (insnBnez rel))

/-- BRA. -/
def execBra (n : CoreId) (rel : BitVec 16) (s : State) : Out := .next (s.runInsn n (insnBra rel))

/-- JMP. -/
def execJmp (n : CoreId) (s : State) : Out := .next (s.runInsn n (insnJmp))

/-- CALLL. -/
def execCalll (n : CoreId) (rel : BitVec 16) (s : State) : Out := .next (s.runInsn n (insnCalll rel))

/-- CALL. -/
def execCall (n : CoreId) (mask : Byte) (rel : BitVec 24) (s : State) : Out := .next (s.runInsn n (insnCall mask rel))

/-- CALLI. -/
def execCalli (n : CoreId) (s : State) : Out := .next (s.runInsn n (insnCalli))

/-- RETL. -/
def execRetl (n : CoreId) (s : State) : Out := .next (s.runInsn n (insnRetl))

/-- RET. -/
def execRet (n : CoreId) (s : State) : Out := .next (s.runInsn n (insnRet))

/-- RETI. -/
def execReti (n : CoreId) (s : State) : Out := .next (s.runInsn n (insnReti))

/-- TRAP. -/
def execTrap (n : CoreId) (imm : Byte) (s : State) : Out := .next (s.runInsn n (insnTrap imm))

/-- SCPYB. -/
def execScpyb (n : CoreId) (pfx : RptPrefix) (brk : Option Nat) (s : State) : Out := .next (s.runInsn n (insnStr .cpy 1 pfx brk))

/-- SCPYW. -/
def execScpyw (n : CoreId) (pfx : RptPrefix) (brk : Option Nat) (s : State) : Out := .next (s.runInsn n (insnStr .cpy 4 pfx brk))

/-- SFILB. -/
def execSfilb (n : CoreId) (pfx : RptPrefix) (brk : Option Nat) (s : State) : Out := .next (s.runInsn n (insnStr .fil 1 pfx brk))

/-- SFILW. -/
def execSfilw (n : CoreId) (pfx : RptPrefix) (brk : Option Nat) (s : State) : Out := .next (s.runInsn n (insnStr .fil 4 pfx brk))

/-- SCMPB. -/
def execScmpb (n : CoreId) (pfx : RptPrefix) (brk : Option Nat) (s : State) : Out := .next (s.runInsn n (insnStr .cmp 1 pfx brk))

/-- SCMPW. -/
def execScmpw (n : CoreId) (pfx : RptPrefix) (brk : Option Nat) (s : State) : Out := .next (s.runInsn n (insnStr .cmp 4 pfx brk))

/-- SFNDB. -/
def execSfndb (n : CoreId) (pfx : RptPrefix) (brk : Option Nat) (s : State) : Out := .next (s.runInsn n (insnStr .fnd 1 pfx brk))

/-- SFNDW. -/
def execSfndw (n : CoreId) (pfx : RptPrefix) (brk : Option Nat) (s : State) : Out := .next (s.runInsn n (insnStr .fnd 4 pfx brk))

/-- POUR. -/
def execPour (n : CoreId) (s : State) : Out := .next (s.runInsn n (insnPour))

/-- TAGWAIT. -/
def execTagwait (n : CoreId) (s : State) : Out := .next (s.runInsn n (insnTagwait))

/-- FENCE. -/
def execFence (n : CoreId) (s : State) : Out := .next (s.runInsn n (insnFence))

/-- FLDB. -/
def execFldb (n : CoreId) (s : State) : Out := .next (s.runInsn n (insnFldb))

/-- FLDBU. -/
def execFldbu (n : CoreId) (s : State) : Out := .next (s.runInsn n (insnFldbu))

/-- FLDH. -/
def execFldh (n : CoreId) (s : State) : Out := .next (s.runInsn n (insnFldh))

/-- FLDHU. -/
def execFldhu (n : CoreId) (s : State) : Out := .next (s.runInsn n (insnFldhu))

/-- FLDW. -/
def execFldw (n : CoreId) (s : State) : Out := .next (s.runInsn n (insnFldw))

/-- FSTB. -/
def execFstb (n : CoreId) (s : State) : Out := .next (s.runInsn n (insnFstb))

/-- FSTH. -/
def execFsth (n : CoreId) (s : State) : Out := .next (s.runInsn n (insnFsth))

/-- FSTW. -/
def execFstw (n : CoreId) (s : State) : Out := .next (s.runInsn n (insnFstw))

/-- FAADD32. -/
def execFaadd32 (n : CoreId) (s : State) : Out := .next (s.runInsn n (insnFaadd32))

/-- FAADDS18. -/
def execFaadds18 (n : CoreId) (s : State) : Out := .next (s.runInsn n (insnFaadds18))

/-- FASWAP32. -/
def execFaswap32 (n : CoreId) (s : State) : Out := .next (s.runInsn n (insnFaswap32))

/-- TLBINV. -/
def execTlbinv (n : CoreId) (s : State) : Out := .next (s.runInsn n (insnTlbinv))

/-- TLBINVA. -/
def execTlbinva (n : CoreId) (s : State) : Out := .next (s.runInsn n (insnTlbinva))

/-- WFI. -/
def execWfi (n : CoreId) (s : State) : Out := .next (s.runInsn n (insnWfi))

/-- VSETVL. -/
def execVsetvl (n : CoreId) (v : VArgs) (s : State) : Out := .next (s.runInsn n (insnVsetvl v))

/-- VSYNC. -/
def execVsync (n : CoreId) (s : State) : Out := .next (s.runInsn n (insnVsync))

/-- VRESUME. -/
def execVresume (n : CoreId) (s : State) : Out := .next (s.runInsn n (insnVresume))

/-- VSAVE. -/
def execVsave (n : CoreId) (brk : Option Nat) (s : State) : Out := .next (s.runInsn n (insnVsave brk))

/-- VLOAD. -/
def execVload (n : CoreId) (brk : Option Nat) (s : State) : Out := .next (s.runInsn n (insnVload brk))

/-- VMVXS. -/
def execVmvxs (n : CoreId) (v : VArgs) (s : State) : Out := .next (s.runInsn n (insnVmvxs v))

/-- VMVSX. -/
def execVmvsx (n : CoreId) (v : VArgs) (s : State) : Out := .next (s.runInsn n (insnVec .mvsx v 2))

/-- VMRD. -/
def execVmrd (n : CoreId) (v : VArgs) (s : State) : Out := .next (s.runInsn n (insnVmrd v))

/-- VMWR. -/
def execVmwr (n : CoreId) (v : VArgs) (s : State) : Out := .next (s.runInsn n (insnVec .mwr v 2))

/-- VMAND. -/
def execVmand (n : CoreId) (v : VArgs) (s : State) : Out := .next (s.runInsn n (insnVec (.mask .and) v 0))

/-- VMOR. -/
def execVmor (n : CoreId) (v : VArgs) (s : State) : Out := .next (s.runInsn n (insnVec (.mask .or) v 0))

/-- VMXOR. -/
def execVmxor (n : CoreId) (v : VArgs) (s : State) : Out := .next (s.runInsn n (insnVec (.mask .xor) v 0))

/-- VMNOT. -/
def execVmnot (n : CoreId) (v : VArgs) (s : State) : Out := .next (s.runInsn n (insnVec (.mask .not) v 0))

/-- VMV. -/
def execVmv (n : CoreId) (v : VArgs) (s : State) : Out := .next (s.runInsn n (insnVec .mv v 0))

/-- VADD. -/
def execVadd (n : CoreId) (v : VArgs) (s : State) : Out := .next (s.runInsn n (insnVec (.int .add) v 0))

/-- VSUB. -/
def execVsub (n : CoreId) (v : VArgs) (s : State) : Out := .next (s.runInsn n (insnVec (.int .sub) v 0))

/-- VADDS. -/
def execVadds (n : CoreId) (v : VArgs) (s : State) : Out := .next (s.runInsn n (insnVec (.int .adds) v 0))

/-- VSUBS. -/
def execVsubs (n : CoreId) (v : VArgs) (s : State) : Out := .next (s.runInsn n (insnVec (.int .subs) v 0))

/-- VMUL. -/
def execVmul (n : CoreId) (v : VArgs) (s : State) : Out := .next (s.runInsn n (insnVec (.int .mul) v 0))

/-- VMIN. -/
def execVmin (n : CoreId) (v : VArgs) (s : State) : Out := .next (s.runInsn n (insnVec (.int .min) v 0))

/-- VMAX. -/
def execVmax (n : CoreId) (v : VArgs) (s : State) : Out := .next (s.runInsn n (insnVec (.int .max) v 0))

/-- VMINU. -/
def execVminu (n : CoreId) (v : VArgs) (s : State) : Out := .next (s.runInsn n (insnVec (.int .minu) v 0))

/-- VMAXU. -/
def execVmaxu (n : CoreId) (v : VArgs) (s : State) : Out := .next (s.runInsn n (insnVec (.int .maxu) v 0))

/-- VAND. -/
def execVand (n : CoreId) (v : VArgs) (s : State) : Out := .next (s.runInsn n (insnVec (.int .and) v 0))

/-- VOR. -/
def execVor (n : CoreId) (v : VArgs) (s : State) : Out := .next (s.runInsn n (insnVec (.int .or) v 0))

/-- VXOR. -/
def execVxor (n : CoreId) (v : VArgs) (s : State) : Out := .next (s.runInsn n (insnVec (.int .xor) v 0))

/-- VSHL. -/
def execVshl (n : CoreId) (v : VArgs) (s : State) : Out := .next (s.runInsn n (insnVec (.int .shl) v 0))

/-- VSHR. -/
def execVshr (n : CoreId) (v : VArgs) (s : State) : Out := .next (s.runInsn n (insnVec (.int .shr) v 0))

/-- VSAR. -/
def execVsar (n : CoreId) (v : VArgs) (s : State) : Out := .next (s.runInsn n (insnVec (.int .sar) v 0))

/-- VNEG. -/
def execVneg (n : CoreId) (v : VArgs) (s : State) : Out := .next (s.runInsn n (insnVec (.int .neg) v 0))

/-- VABS. -/
def execVabs (n : CoreId) (v : VArgs) (s : State) : Out := .next (s.runInsn n (insnVec (.int .abs) v 0))

/-- VADD_X. -/
def execVaddX (n : CoreId) (v : VArgs) (s : State) : Out := .next (s.runInsn n (insnVec (.intX .add) v 1))

/-- VSUB_X. -/
def execVsubX (n : CoreId) (v : VArgs) (s : State) : Out := .next (s.runInsn n (insnVec (.intX .sub) v 1))

/-- VADDS_X. -/
def execVaddsX (n : CoreId) (v : VArgs) (s : State) : Out := .next (s.runInsn n (insnVec (.intX .adds) v 1))

/-- VSUBS_X. -/
def execVsubsX (n : CoreId) (v : VArgs) (s : State) : Out := .next (s.runInsn n (insnVec (.intX .subs) v 1))

/-- VMUL_X. -/
def execVmulX (n : CoreId) (v : VArgs) (s : State) : Out := .next (s.runInsn n (insnVec (.intX .mul) v 1))

/-- VMIN_X. -/
def execVminX (n : CoreId) (v : VArgs) (s : State) : Out := .next (s.runInsn n (insnVec (.intX .min) v 1))

/-- VMAX_X. -/
def execVmaxX (n : CoreId) (v : VArgs) (s : State) : Out := .next (s.runInsn n (insnVec (.intX .max) v 1))

/-- VMINU_X. -/
def execVminuX (n : CoreId) (v : VArgs) (s : State) : Out := .next (s.runInsn n (insnVec (.intX .minu) v 1))

/-- VMAXU_X. -/
def execVmaxuX (n : CoreId) (v : VArgs) (s : State) : Out := .next (s.runInsn n (insnVec (.intX .maxu) v 1))

/-- VAND_X. -/
def execVandX (n : CoreId) (v : VArgs) (s : State) : Out := .next (s.runInsn n (insnVec (.intX .and) v 1))

/-- VOR_X. -/
def execVorX (n : CoreId) (v : VArgs) (s : State) : Out := .next (s.runInsn n (insnVec (.intX .or) v 1))

/-- VXOR_X. -/
def execVxorX (n : CoreId) (v : VArgs) (s : State) : Out := .next (s.runInsn n (insnVec (.intX .xor) v 1))

/-- VSHL_X. -/
def execVshlX (n : CoreId) (v : VArgs) (s : State) : Out := .next (s.runInsn n (insnVec (.intX .shl) v 1))

/-- VSHR_X. -/
def execVshrX (n : CoreId) (v : VArgs) (s : State) : Out := .next (s.runInsn n (insnVec (.intX .shr) v 1))

/-- VSAR_X. -/
def execVsarX (n : CoreId) (v : VArgs) (s : State) : Out := .next (s.runInsn n (insnVec (.intX .sar) v 1))

/-- VCMPEQ. -/
def execVcmpeq (n : CoreId) (v : VArgs) (s : State) : Out := .next (s.runInsn n (insnVec (.cmp .eq) v 0))

/-- VCMPNE. -/
def execVcmpne (n : CoreId) (v : VArgs) (s : State) : Out := .next (s.runInsn n (insnVec (.cmp .ne) v 0))

/-- VCMPLT. -/
def execVcmplt (n : CoreId) (v : VArgs) (s : State) : Out := .next (s.runInsn n (insnVec (.cmp .lt) v 0))

/-- VCMPLTU. -/
def execVcmpltu (n : CoreId) (v : VArgs) (s : State) : Out := .next (s.runInsn n (insnVec (.cmp .ltu) v 0))

/-- VCMPLE. -/
def execVcmple (n : CoreId) (v : VArgs) (s : State) : Out := .next (s.runInsn n (insnVec (.cmp .le) v 0))

/-- VCMPLEU. -/
def execVcmpleu (n : CoreId) (v : VArgs) (s : State) : Out := .next (s.runInsn n (insnVec (.cmp .leu) v 0))

/-- VCMPGT. -/
def execVcmpgt (n : CoreId) (v : VArgs) (s : State) : Out := .next (s.runInsn n (insnVec (.cmp .gt) v 0))

/-- VCMPGTU. -/
def execVcmpgtu (n : CoreId) (v : VArgs) (s : State) : Out := .next (s.runInsn n (insnVec (.cmp .gtu) v 0))

/-- VFCMPEQ. -/
def execVfcmpeq (n : CoreId) (v : VArgs) (s : State) : Out := .next (s.runInsn n (insnVec (.fcmp .eq) v 0))

/-- VFCMPLT. -/
def execVfcmplt (n : CoreId) (v : VArgs) (s : State) : Out := .next (s.runInsn n (insnVec (.fcmp .lt) v 0))

/-- VFCMPLE. -/
def execVfcmple (n : CoreId) (v : VArgs) (s : State) : Out := .next (s.runInsn n (insnVec (.fcmp .le) v 0))

/-- VFCMPUN. -/
def execVfcmpun (n : CoreId) (v : VArgs) (s : State) : Out := .next (s.runInsn n (insnVec (.fcmp .un) v 0))

/-- VWMUL. -/
def execVwmul (n : CoreId) (v : VArgs) (s : State) : Out := .next (s.runInsn n (insnVec .wmul v 0))

/-- VDOT4. -/
def execVdot4 (n : CoreId) (v : VArgs) (s : State) : Out := .next (s.runInsn n (insnVec .dot4 v 0))

/-- VDOT2. -/
def execVdot2 (n : CoreId) (v : VArgs) (s : State) : Out := .next (s.runInsn n (insnVec .dot2 v 0))

/-- VDOTS18. -/
def execVdots18 (n : CoreId) (v : VArgs) (s : State) : Out := .next (s.runInsn n (insnVec .dots18 v 0))

/-- VFADD. -/
def execVfadd (n : CoreId) (v : VArgs) (s : State) : Out := .next (s.runInsn n (insnVec (.flt .add) v 0))

/-- VFSUB. -/
def execVfsub (n : CoreId) (v : VArgs) (s : State) : Out := .next (s.runInsn n (insnVec (.flt .sub) v 0))

/-- VFMUL. -/
def execVfmul (n : CoreId) (v : VArgs) (s : State) : Out := .next (s.runInsn n (insnVec (.flt .mul) v 0))

/-- VFMA. -/
def execVfma (n : CoreId) (v : VArgs) (s : State) : Out := .next (s.runInsn n (insnVec (.flt .fma) v 0))

/-- VFDIV. -/
def execVfdiv (n : CoreId) (v : VArgs) (s : State) : Out := .next (s.runInsn n (insnVec (.flt .div) v 0))

/-- VFSQRT. -/
def execVfsqrt (n : CoreId) (v : VArgs) (s : State) : Out := .next (s.runInsn n (insnVec (.flt .sqrt) v 0))

/-- VFMIN. -/
def execVfmin (n : CoreId) (v : VArgs) (s : State) : Out := .next (s.runInsn n (insnVec (.flt .min) v 0))

/-- VFMAX. -/
def execVfmax (n : CoreId) (v : VArgs) (s : State) : Out := .next (s.runInsn n (insnVec (.flt .max) v 0))

/-- VFNEG. -/
def execVfneg (n : CoreId) (v : VArgs) (s : State) : Out := .next (s.runInsn n (insnVec (.flt .neg) v 0))

/-- VFABS. -/
def execVfabs (n : CoreId) (v : VArgs) (s : State) : Out := .next (s.runInsn n (insnVec (.flt .abs) v 0))

/-- VCVT_F32_S18. -/
def execVcvtF32S18 (n : CoreId) (v : VArgs) (s : State) : Out := .next (s.runInsn n (insnVec (.cvt .f32s18) v 0))

/-- VCVT_S18_F32. -/
def execVcvtS18F32 (n : CoreId) (v : VArgs) (s : State) : Out := .next (s.runInsn n (insnVec (.cvt .s18f32) v 0))

/-- VCVT_F16_F32. -/
def execVcvtF16F32 (n : CoreId) (v : VArgs) (s : State) : Out := .next (s.runInsn n (insnVec (.cvt .f16f32) v 0))

/-- VCVT_F32_F16. -/
def execVcvtF32F16 (n : CoreId) (v : VArgs) (s : State) : Out := .next (s.runInsn n (insnVec (.cvt .f32f16) v 0))

/-- VCVT_F32_I32. -/
def execVcvtF32I32 (n : CoreId) (v : VArgs) (s : State) : Out := .next (s.runInsn n (insnVec (.cvt .f32i32) v 0))

/-- VCVT_I32_F32. -/
def execVcvtI32F32 (n : CoreId) (v : VArgs) (s : State) : Out := .next (s.runInsn n (insnVec (.cvt .i32f32) v 0))

/-- VREDSUM. -/
def execVredsum (n : CoreId) (v : VArgs) (s : State) : Out := .next (s.runInsn n (insnVec (.red .sum) v 0))

/-- VREDMIN. -/
def execVredmin (n : CoreId) (v : VArgs) (s : State) : Out := .next (s.runInsn n (insnVec (.red .min) v 0))

/-- VREDMAX. -/
def execVredmax (n : CoreId) (v : VArgs) (s : State) : Out := .next (s.runInsn n (insnVec (.red .max) v 0))

/-- VREDMINU. -/
def execVredminu (n : CoreId) (v : VArgs) (s : State) : Out := .next (s.runInsn n (insnVec (.red .minu) v 0))

/-- VREDMAXU. -/
def execVredmaxu (n : CoreId) (v : VArgs) (s : State) : Out := .next (s.runInsn n (insnVec (.red .maxu) v 0))

/-- VFREDSUM. -/
def execVfredsum (n : CoreId) (v : VArgs) (s : State) : Out := .next (s.runInsn n (insnVec (.red .fsum) v 0))

/-- VFREDMIN. -/
def execVfredmin (n : CoreId) (v : VArgs) (s : State) : Out := .next (s.runInsn n (insnVec (.red .fmin) v 0))

/-- VFREDMAX. -/
def execVfredmax (n : CoreId) (v : VArgs) (s : State) : Out := .next (s.runInsn n (insnVec (.red .fmax) v 0))

/-- VLD. -/
def execVld (n : CoreId) (v : VArgs) (s : State) : Out := .next (s.runInsn n (insnVec (.mem .ld) v 1))

/-- VST. -/
def execVst (n : CoreId) (v : VArgs) (s : State) : Out := .next (s.runInsn n (insnVec (.mem .st) v 1))

/-- VLDS. -/
def execVlds (n : CoreId) (v : VArgs) (s : State) : Out := .next (s.runInsn n (insnVec (.mem .lds) v 2))

/-- VSTS. -/
def execVsts (n : CoreId) (v : VArgs) (s : State) : Out := .next (s.runInsn n (insnVec (.mem .sts) v 2))

/-- VLDX. -/
def execVldx (n : CoreId) (v : VArgs) (s : State) : Out := .next (s.runInsn n (insnVec (.mem .ldx) v 1))

/-- VSTX. -/
def execVstx (n : CoreId) (v : VArgs) (s : State) : Out := .next (s.runInsn n (insnVec (.mem .stx) v 1))

/-- VDEAL. -/
def execVdeal (n : CoreId) (v : VArgs) (k : BitVec 5) (s : State) : Out := .next (s.runInsn n (insnVecK (.mem .deal) v k))

/-- VWEAVE. -/
def execVweave (n : CoreId) (v : VArgs) (k : BitVec 5) (s : State) : Out := .next (s.runInsn n (insnVecK (.mem .weave) v k))

/-- What a core finds at its PC: the instruction and its shape; ILLEGAL where nothing decodes. -/
def Core.insnAtPc (c : Core) (n : CoreId) : Insn :=
  let u := fun k => c.unitAt (c.pc + k)
  match decodeUnits n (u 0) (u 2) (u 4) with
  | some (.customerInstruction _ slot imm) => insnCustomer slot imm
  | some i => (insnOf i).getD (insn1 (fun _ c => illegal c))
  | none => insn1 (fun _ c => illegal c)

end Sys2Proof.Machine
end

