-- ==== Sys2Proof/Machine/Harbour.lean ====
section
/-! DEFINITION. Machine/Harbour.lean: harbour memory with its check bits, port A, the atomic engine, VITALBUF, the
background test, and the core SRAM windows (spec/14 R325 to R335, R345, spec/06 R165, spec/01 R23). -/

namespace Sys2Proof.Machine

/-- Apply `f` to bank `b`. -/
def State.modBank (s : State) (b : Fin 16) (f : Bank → Bank) : State :=
  { s with harbour := { s.harbour with banks := vmod s.harbour.banks b f } }

/-- The stored 64-bit word `w` of harbour. -/
def State.hRaw (s : State) (w : Nat) : Nat := natLE (rdBytes 0 s.harbour.mem (8 * w) 8)

/-- An uncorrectable word is found by a read (R330). -/
def State.hUe (s : State) (w : Nat) : State :=
  let s := s.modBank (bankOf (8 * w)) (fun b =>
    { b with ue := true, ueValid := true, ueWord := if b.ueValid then b.ueWord else BitVec.ofNat 18 w })
  s.raiseAll 18

/-- Read word `w`: its corrected value, with corrections counted; none when it is uncorrectable, which the bank reports, whoever reads
(R330). -/
def State.hWord (s : State) (w : Nat) : Option Nat × State :=
  let raw := s.hRaw w
  match eccDecode 64 7 (SMap.get 0 s.harbour.delta w).toNat with
  | .clean => (some raw, s)
  | .corrected bit =>
    (some (match bit with | some i => raw ^^^ 2 ^ i | none => raw),
      s.modBank (bankOf (8 * w)) (fun b => { b with cecnt := satInc b.cecnt }))
  | .bad => (none, s.hUe w)

/-- Read words from `w`, `k` of them; none when one is uncorrectable. -/
def State.hWords (s : State) (w : Nat) : Nat → Option (List Byte) × State
  | 0 => (some [], s)
  | k + 1 =>
    let (v, s) := s.hWord w
    let (r, s) := s.hWords (w + 1) k
    (v.bind (fun x => r.map (fun y => bytesLE 8 x ++ y)), s)

/-- Store word `w` with correct check bits. -/
def State.hPut (s : State) (w v : Nat) : State :=
  { s with harbour := { s.harbour with mem := wrBytes 0 s.harbour.mem (8 * w) (bytesLE 8 v), delta := SMap.set 0 s.harbour.delta w 0 } }

/-- The shapes of port A (R327) for an access of `len` bytes at offset `off`. -/
def harbourShape (off len : Nat) : Bool :=
  ([1, 2, 4, 8].contains len && off % len == 0) ||
  (len % 8 == 0 && decide (8 ≤ len ∧ len ≤ 256) && off % 8 == 0 && off / 0x200000 == (off + len - 1) / 0x200000)

/-- A write into the 64 bytes of an enabled stream entry is refused (spec/08 R205). -/
def State.entryDenied (s : State) (off len : Nat) : Bool :=
  s.sprue.cache.any (fun e => e.enabled && (match s.entryOff e.id with
    | some o => decide (o < off + len) && decide (off < o + 64)
    | none => false))

/-- The stored result of an atomic (R329, Table 14.1). -/
def atomicResult (op : AtomOp) (old v : Nat) : Nat :=
  match op with
  | .add32 => (old + v) % 2 ^ 32
  | .add64 => (old + v) % 2 ^ 64
  | .addS18 => (BitVec.ofInt 32 (clamp18 ((BitVec.ofNat 18 old).toInt + (BitVec.ofNat 18 v).toInt))).toNat
  | .swap32 => v % 2 ^ 32
  | .swap64 => v % 2 ^ 64

/-- Replace `len` bytes at byte `o` of a 64-bit word. -/
def spliceWord (old o len v : Nat) : Nat :=
  let low := old % 2 ^ (8 * o)
  let high := old / 2 ^ (8 * (o + len)) * 2 ^ (8 * (o + len))
  high + v % 2 ^ (8 * len) * 2 ^ (8 * o) + low

/-- An access to harbour bytes at port A or B: status and data. `vriser` marks a VRISER context of the riser. (DEDUCED, log 56) -/
def State.harbourAccess (s : State) (vriser : Bool) (op : ReqOp) (addr : PAddr) : Status × List Byte × State :=
  let off := offsetFrom 0x20000000 addr.toNat
  let len := reqLen op
  if !s.domainOpen (288 + (bankOf off).val) then (.domainOff, [], s)
  else
    match op with
    | .read _ =>
      if !harbourShape off len then (.slverr, [], s)
      else
        let w0 := off / 8
        (match s.hWords w0 ((off + len - 1) / 8 - w0 + 1) with
         | (some bs, s) => (.ok, (bs.drop (off % 8)).take len, s)
         | (none, s) => (.eccUncorr, [], s))
    | .write bs =>
      if !harbourShape off len then (.slverr, [], s)
      else if s.vitalbufDenied vriser off len || s.entryDenied off len then (.denied, [], s)
      else if len % 8 = 0 then (.ok, [], s.hPutBytes off bs)
      else
        (match s.hWord (off / 8) with
         | (none, s) => (.eccUncorr, [], s)
         | (some old, s) => (.ok, [], s.hPut (off / 8) (spliceWord old (off % 8) len (natLE bs))))
    | .atomic a v =>
      if off % len ≠ 0 then (.slverr, [], s)
      else if s.vitalbufDenied false off len || s.entryDenied off len then (.denied, [], s)
      else
        (match s.hWord (off / 8) with
         | (none, s) => (.eccUncorr, [], s)
         | (some w, s) =>
           let old := w / 2 ^ (8 * (off % 8)) % 2 ^ (8 * len)
           (.ok, bytesLE len old, s.hPut (off / 8) (spliceWord w (off % 8) len (atomicResult a old v.toNat))))

/-- The access reads a timestamp of the stream table, offsets 0x38 to 0x3F of an entry (spec/08 R203): an atomic answers what
stood there. -/
def State.readsTstamp (s : State) (op : ReqOp) (off : Nat) : Bool :=
  let base := offsetFrom 0x20000000 (s.sprue.streamBase.toNat * 0x40000)
  let hit (len : Nat) : Bool :=
    (List.range len).any (fun i => decide (base ≤ off + i) && decide (off + i < base + 0x40000) && decide (56 ≤ (off + i) % 64))
  match op with
  | .read len => hit len
  | .atomic _ _ => hit (reqLen op)
  | .write _ => false

/-- Set the taint of the core that is initiator `i`. -/
def State.taintReader (s : State) (i : Fin 32) : State :=
  if i.val < 4 then { s with cores := vmod s.cores (ix 4 i.val) Core.taint } else s

/-- A request served at harbour, with the taint of a timestamp read. -/
def State.harbourServe (s : State) (r : Request) : Status × List Byte × State :=
  let x := s.harbourAccess false r.op r.addr
  (x.1, x.2.1, if s.readsTstamp r.op (offsetFrom 0x20000000 r.addr.toNat) then x.2.2.taintReader r.src else x.2.2)

/-- Shapes of an access to a core's SRAM through its window (spec/01 R23). -/
def aliasShape (o len : Nat) : Bool :=
  ([1, 2, 4, 8].contains len && o % len == 0) ||
    (len % 8 == 0 && decide (8 ≤ len) && decide (len ≤ 256) && o % 8 == 0 && decide (o + len ≤ 262144))

/-- An access to offset `o` of the SRAM of core `n`. -/
def State.aliasAt (s : State) (op : ReqOp) (n : CoreId) (o : Nat) : Status × List Byte × State :=
  if !s.domainOpen (304 + n.val) then (.domainOff, [], s)
  else if !aliasShape o (reqLen op) then (.slverr, [], s)
  else
    match op with
    | .read len => (.ok, rdBytes 0 (s.cores[n]).sram o len, s)
    | .write bs =>
      (.ok, [], { s with cores := vmod s.cores n (fun c => { c with
        sram := wrBytes 0 c.sram o bs
        sramUe := c.sramUe.filter (fun w => decide (w < o / 4) || decide ((o + bs.length - 1) / 4 < w)) }) })
    | .atomic _ _ => (.slverr, [], s)

/-- A global window of core SRAM (spec/01 R23). -/
def State.aliasAccess (s : State) (op : ReqOp) (addr : PAddr) : Status × List Byte × State :=
  s.aliasAt op (ix 4 (offsetFrom 0x10000000 addr.toNat / 0x40000)) (offsetFrom 0x10000000 addr.toNat % 0x40000)

/-- HARBOUR_ATOMIC: an atomic is carried out by its bank; one addressed outside harbour is answered SLVERR (R273, R329). -/
def execHarbourAtomic (req : Request) (s : State) : Out :=
  match req.op with
  | .atomic _ _ =>
    .next (s.serve req true (fun t =>
      if areaOf req.addr = .harbour then t.harbourServe req else (.slverr, [], t)))
  | _ => .next s

/-- SRAM_ALIAS_ACCESS. -/
def execSramAliasAccess (req : Request) (s : State) : Out :=
  .next (s.serve req (match areaOf req.addr with | .sramWin _ => true | _ => false) (fun t => t.aliasAccess req.op req.addr))

/-- A spare row of the bank is taken for a failing row, or none is left (R333). -/
def Bank.repair (b : Bank) (row : Nat) : Bank :=
  if b.repaired.length < 4 then { b with repaired := row :: b.repaired, spares := BitVec.ofNat 3 (b.repaired.length + 1) }
  else { b with nospare := true }

/-- HARBOUR_TEST_REGION: the bank's engine copies, tests and restores its next region (R331 to R333): single-bit errors are
counted and written back corrected; a failing row goes to a spare, or sets NOSPARE and interrupt 18. -/
def execHarbourTestRegion (b : Fin 16) (badRow : Option Nat) (s : State) : Out :=
  if !s.harbour.testEn || !s.domainOpen (288 + b.val) then .next s
  else
    let region := (s.harbour.banks[b]).nextRegion
    let w0 := b.val * 262144 + region.toNat * 64
    let s := (List.range 64).foldl (fun t i =>
      match t.hWord (w0 + i) with
      | (some v, u) => u.hPut (w0 + i) v
      | (none, u) => u) s
    let s := s.modBank b (fun x => { x with nextRegion := x.nextRegion + 1 })
    match badRow with
    | none => .next s
    | some _ =>
      let full := decide (4 ≤ (s.harbour.banks[b]).repaired.length)
      let s := s.modBank b (fun x => x.repair region.toNat)
      .next (if full then s.raiseAll 18 else s)

/-- Why an access to the HARBOUR registers of bank `b` is refused (R30, Table 14.6 heading). -/
def State.bankGate (s : State) (acc : Acc) (b : Fin 16) : Option Status :=
  if !accReachesRegs acc then some .denied
  else if !s.domainOpen (288 + b.val) then some .domainOff
  else none

/-- A write to BCTL of bank `b`. -/
def State.bctl (s : State) (acc : Acc) (b : Fin 16) (f : Bank → Bank) : State :=
  let s := s.enters (accReachesRegs acc) acc 4
  match s.bankGate acc b with
  | some st => s.answer acc st []
  | none => (s.modBank b f).answer acc .ok []

/-- BCTL_COLCLR. -/
def execBctlColclr (acc : Acc) (b : Fin 16) (s : State) : Out := .next (s.bctl acc b (fun x => { x with col := 0 }))

/-- BCTL_CECLR. -/
def execBctlCeclr (acc : Acc) (b : Fin 16) (s : State) : Out := .next (s.bctl acc b (fun x => { x with cecnt := 0 }))

end Sys2Proof.Machine
end

