-- ==== Sys2Proof/Machine/Views.lean ====
section
/-! DEFINITION. Machine/Views.lean: accesses to the PE-memory views at the archipelago gateways, and an access performed at
its target at once, as walkers, DMA and the Holm use it (spec/01 R24 to R29, spec/13 R311, R323, R324). -/

namespace Sys2Proof.Machine

/-- The first plane a view access touches. -/
def viewPlane (addr : PAddr) : Nat :=
  if addr.toNat < 0xC0000000 then addr.toNat % 0x40000 / 32 else addr.toNat % 0x400 / 4 * 32

/-- The shapes the views accept. -/
def viewShape (op : ReqOp) (addr : PAddr) : Bool :=
  let len := reqLen op
  match op with
  | .atomic _ _ => false
  | _ =>
    if addr.toNat < 0xC0000000 then [1, 2, 4, 8].contains len && addr.toNat % len == 0
    else len == 4 && addr.toNat % 4 == 0

/-- What a view access is answered instead of being let in, where `shut` says that its archipelago or island takes none (spec/00 R2,
Table 1.6). (DEDUCED, log 49) -/
def State.viewRefusalIf (s : State) (shut : Bool) (op : ReqOp) (addr : PAddr) : Option Status :=
  let a := (viewTarget addr).1
  if s.gradeC && decide (4 ≤ a.val) then some .decerr
  else if shut then some .domainOff
  else if !viewShape op addr then some .slverr
  else if reqWrites op && decide (7680 ≤ viewPlane addr) then some .denied
  else if reqWrites op && s.vitalPairHeld a then some .denied
  else none

/-- Count a packet of initiator `i` entering lagoon `a` (R324). -/
def State.lagoonIn (s : State) (a : Arch) (i : Fin 32) (bytes : Nat) : State :=
  { s with net := { s.net with lagoon := vmod s.net.lagoon a (fun l => { l with
      lreq := vmod l.lreq i satInc, lbyte := vmod l.lbyte i (fun b => satAdd b bytes) }) } }

/-- What the gateway answers instead of letting a view access in. -/
def State.viewRefusal (s : State) (op : ReqOp) (addr : PAddr) : Option Status :=
  let (a, p) := viewTarget addr
  let P := s.islAt a p
  s.viewRefusalIf (!s.domainOpen (264 + a.val) || !s.domainOpen P.val || !(s.isl[P]).ready) op addr

/-- What an access past the gateway is answered at its island: a fence that fell meanwhile does not stop it (spec/13 R317 step 2). -/
def State.islandRefusal (s : State) (op : ReqOp) (addr : PAddr) : Option Status :=
  let (a, p) := viewTarget addr
  let P := s.islAt a p
  s.viewRefusalIf (!s.pwr.on.getLsbD (264 + a.val) || !s.pwr.on.getLsbD P.val || !(s.isl[P]).ready) op addr

/-- The access reaches its island's ladle. -/
def State.viewEnter (s : State) (r : Request) : State :=
  let (a, p) := viewTarget r.addr
  s.modIsl (s.islAt a p) (fun i => { i with waiting := i.waiting ++ [{ req := r, served := 0, got := 0, ue := false, mute := false }] })

/-- PE_VIEW_REQUEST: refused at a node or the gateway, or waiting at the ladle for its slots. -/
def execPeViewRequest (req : Request) (s : State) : Out :=
  if s.heldBack req then .next s
  else
    .next (match nodeCheck req with
      | some st => (s.taken req).replyHere req st
      | none =>
        if inView req.addr then
          (match s.islandRefusal req.op req.addr with
           | some st => (s.taken req).reply req st []
           | none => (s.taken req).viewEnter req)
        else s)

/-- The access a gateway timeout withdraws: the initiator's access no slot of which has been served. -/
def isUnserved (src : Fin 32) (tag : Byte) (v : ViewWait) : Bool :=
  decide (v.req.src = src) && decide (v.req.tag = tag) && decide (v.served = 0) && !v.mute

/-- The request of initiator `src` under `tag` that is past the gateway of `a` and has not reached its ladle: its packet is in the lagoon, or
just at its island. -/
def State.pastGateway (s : State) (a : Arch) (src : Fin 32) (tag : Byte) : Option Request :=
  s.net.requests.find? (fun r => decide (r.src = src) && decide (r.tag = tag) && inView r.addr && decide ((viewTarget r.addr).1 = a) &&
    (!s.underway (.req r) || s.net.packets.any (fun p => decide (p.msg = .req r) && (match p.place with | .lagoon b _ => decide (b = a) | .sound _ => false))))

/-- A view access in the lagoon is withdrawn and answered TIMEOUT (R323). -/
def State.lagoonTimeout (s : State) (a : Arch) (src : Fin 32) (tag : Byte) : State :=
  match s.pastGateway a src tag with
  | none => s
  | some r =>
    let s : State := { s with net := { s.net with packets := s.net.packets.filter (fun p => decide (p.msg ≠ .req r)) } }
    (s.taken r).reply r .timeout []

/-- GATEWAY_VIEW_TIMEOUT's effect: the access is withdrawn and answered TIMEOUT; whether a write that had reached its ladle is
applied nevertheless is open (R27, R323): a free bit decides, and such a write stays at the ladle for its slots.
(DESIGN CHOICE, log 50) -/
def State.gatewayTimeout (s : State) (a : Arch) (src : Fin 32) (tag : Byte) : State :=
  match (s.islands a).find? (fun P => (s.isl[P]).waiting.any (isUnserved src tag)) with
  | none => s.lagoonTimeout a src tag
  | some P =>
    match (s.isl[P]).waiting.find? (isUnserved src tag) with
    | none => s
    | some v =>
      let stays := reqWrites v.req.op && Config.freeBit s.fresh
      let s : State := { s with fresh := s.fresh + (if reqWrites v.req.op then 1 else 0) }
      (s.modIsl P (fun i => { i with
        waiting := if stays then i.waiting.map (fun x => if x = v then { x with mute := true } else x) else i.waiting.erase v })).reply
        v.req .timeout []

/-! ### Accesses of DMA, walkers and the Holm -/

/-- What an access comes to: its status and data, or none while it waits for a ladle slot. -/
abbrev Got := Option (Status × List Byte)

/-- An access to other than a view, performed at its target at once: harbour, SRAM window or mailbox. Register blocks take only
the accesses of their own commands and answer any other shape with SLVERR (spec/01 R30). -/
def State.memAccess (s : State) (r : Request) : Status × List Byte × State :=
  match nodeCheck r with
  | some st => (st, [], s)
  | none =>
    match r.op, areaOf r.addr with
    | _, .harbour => s.harbourServe r
    | .atomic _ _, _ => (.slverr, [], s)
    | _, .sramWin _ => s.aliasAccess r.op r.addr
    | _, .ownSram => s.aliasAt r.op (ix 4 r.src.val) r.addr.toNat
    | _, .mailbox => s.mboxAccess r.src r.op r.addr
    | _, .regs | _, .plane | _, .word => (.slverr, [], s)
    | _, .none => (.decerr, [], s)

/-- Every pour cycle of archipelago `a` is idle as things stand, so each serves a slot (spec/02 R54, spec/03 Table 3.8). A stream
without a mould gives none. (DESIGN CHOICE, log 92) -/
def State.slotsFree (s : State) (a : Arch) : Bool :=
  let ms := s.streamOf a
  s.domainOpen (264 + a.val) && (ms.isEmpty || decide (s.mode = .safeStop) || s.faulted ms ||
    (match (s.arch[s.leadOf a]).seq.mode with
      | .running | .stalled | .twinRoutine | .noMould => false
      | _ => true))

/-- Slots of island `P` until none of its accesses waits, at most `k`. -/
def State.serveSlots (s : State) (a : Arch) (P : Isl) : Nat → State
  | 0 => s
  | k + 1 => if (s.isl[P]).waiting.isEmpty then s else (s.viewSlot1 a P).serveSlots a P k

/-- A tag for a view access of initiator `src`: the lowest from 128 that is neither in use nor in quarantine. -/
def State.viewTag (s : State) (src : Fin 32) : Option Byte :=
  ((List.range 128).map (fun k => BitVec.ofNat 8 (viewTag0 + k))).find? (fun t =>
    !s.net.quarantine.contains (src, t) && !s.net.views.any (fun q => decide (q.src = src) && decide (q.tag = t)))

/-- The answer to the waiting view access `q`, where it has come. -/
def State.takeView (s : State) (q : Request) : Got × State :=
  match s.net.responses.find? (fun x => decide (x.dst = q.src) && decide (x.tag = q.tag)) with
  | some x =>
    (some (x.status, x.data), ({ s with net := { s.net with views := s.net.views.erase q, responses := s.net.responses.erase x } } : State).noteLat q.src)
  | none => (none, s)

/-- A view access of DMA, a walker or the Holm: the one that waits already, refused, or entering its island's ladle, where idle
cycles serve it at once and a running routine makes it wait for its slots (spec/01 R26). (DESIGN CHOICE, log 51) -/
def State.viewAccess (s : State) (r : Request) : Got × State :=
  match s.net.views.find? (fun q => decide (q.src = r.src) && decide (q.op = r.op) && decide (q.addr = r.addr)) with
  | some q => s.takeView q
  | none =>
    match s.viewTag r.src with
    | none => (none, s)
    | some tag =>
      let s := s.count r.src (reqPayload r.op)
      match s.viewRefusal r.op r.addr with
      | some st => (some (st, []), s.noteLat r.src)
      | none =>
        let q := { r with tag := tag }
        let a := (viewTarget r.addr).1
        let P := s.islAt a (viewTarget r.addr).2
        let s := ({ s with net := { s.net with views := s.net.views ++ [q] } } : State).lagoonIn a q.src (reqPayload q.op)
        let s := s.viewEnter q
        if s.slotsFree a then (((s.serveSlots a P (32 * (s.isl[P]).waiting.length)).tellUe a).mirror a).takeView q
        else (none, s)

/-- The initiator of `r` gives its access up: it completes with TIMEOUT (R313). -/
def State.accessTimeout (s : State) (r : Request) : Got × State := (some (.timeout, []), (s.noteTimeout r.src).timeoutIrq r.src)

/-- A request whose timeout REQUEST_TIMEOUT has told: whether its target performed it, and its late response was counted, is open (R27):
a free bit decides. (DESIGN CHOICE, log 107) -/
def State.accessExpired (s : State) (r : Request) : Got × State :=
  let s := (s.count r.src (reqPayload r.op)).useExpired r.src
  let t : State := { s with fresh := s.fresh + 1 }
  (if Config.freeBit s.fresh then (t.memAccess r).2.2.countLate r.src else t).accessTimeout r

/-- An access of an initiator whose requests do not travel as packets, counted with its latency (spec/13 R315): what its own node
answers never enters the network; one whose packet a router has discarded ends with the initiator's timeout (R305). (DESIGN CHOICE, log 51) -/
def State.access (s : State) (r : Request) : Got × State :=
  if (nodeCheck r).isSome then
    let (st, bs, t) := s.memAccess r
    (some (st, bs), t.noteLat r.src)
  else if s.net.lost[r.src] ≠ 0 then ((s.count r.src (reqPayload r.op)).useLost r.src).accessTimeout r
  else if s.net.expired[r.src] ≠ 0 then s.accessExpired r
  else if inView r.addr then s.viewAccess r
  else
    let (st, bs, t) := (s.count r.src (reqPayload r.op)).memAccess r
    (some (st, bs), t.noteLat r.src)

end Sys2Proof.Machine
end

