-- ==== Sys2Proof/Machine/CoreEvents.lean ====
section
/-! DEFINITION. Machine/CoreEvents.lean: what happens at a control core beside its instructions: interrupts, the timer,
stations, responses, table walks, timeouts, the vector unit, and the CORE[n] actions (spec/10 R238 to R255, spec/13 R313). -/

namespace Sys2Proof.Machine

/-- INTERRUPT_ENTRY (R244). -/
def execInterruptEntry (n : CoreId) (s : State) : Out := .next (s.takeInterrupt n)

/-- Core `n` is powered. -/
def State.coreOn (s : State) (n : CoreId) : Bool := s.pwr.on.getLsbD (304 + n.val)

/-- CORE_TIMER_EXPIRY: interrupt 31, unless the timer is stopped (Table 10.4 TMR, Table 10.8). -/
def execCoreTimerExpiry (n : CoreId) (s : State) : Out :=
  if s.coreOn n && decide ((s.cores[n]).tmr ≠ 0) then .next (s.raiseAt n 31) else .next s

/-- Change core `n`, which halts if that was what its FENCE waited for (R252). -/
def State.stepCore (s : State) (n : CoreId) (f : Core → Core) : State := s.setCore n (f s.cores[n]).settle

/-- STATION_EXECUTE (R239). The stations of a fenced core inject nothing (spec/13 R317). -/
def execStationExecute (n : CoreId) (st : Fin 4) (s : State) : Out :=
  if !s.coreOn n then .next s
  else
    let (c, reqs) := (s.cores[n]).runStation n st
    if s.pwr.fence.getLsbD (304 + n.val) && !reqs.isEmpty then .next s
    else .next (reqs.foldl State.inject (s.setCore n c.settle))

/-- VECTOR_EXECUTE (spec/12 R284). -/
def execVectorExecute (n : CoreId) (s : State) : Out :=
  if s.coreOn n then .next (s.stepCore n (fun c => c.vecRun n)) else .next s

/-- The tag's quarantine ends: at the core and among the network's (spec/13 R313). -/
def State.endQuarantine (s : State) (src : Fin 32) (tag : Byte) : State :=
  let s := { s with net := { s.net with quarantine := s.net.quarantine.filter (fun q => decide (q ≠ (src, tag))) } }
  if src.val < 4 ∧ tag.toNat < 64 then
    { s with cores := vmod s.cores (ix 4 src.val) (fun c => { c with
        tags := vmod c.tags (ix 64 tag.toNat) (fun t => { t with quar := false }) }) }
  else s

/-- A response after the synthesised one is discarded and counted (R313). (DEDUCED, log 46) -/
def State.lateResponse (s : State) (src : Fin 32) (tag : Byte) : State :=
  (s.endQuarantine src tag).countLate src

/-- FAR_RESPONSE: a completion or a response for tag `tag` of core `n`, whose packet has come, is taken (spec/10 R238, R241, spec/05 R133). A
response under a tag in quarantine is late (spec/13 R313). -/
def execFarResponse (n : CoreId) (tag : BitVec 6) (s : State) : Out :=
  let t : Fin 64 := ix 64 tag.toNat
  let src : Fin 32 := ix 32 n.val
  match s.net.responses.find? (fun r => decide (r.dst = src) && decide (r.tag = tag.setWidth 8) && !s.underway (.rsp r)) with
  | some r =>
    let s := { s with net := { s.net with responses := s.net.responses.erase r } }
    if ((s.cores[n]).tags[t]).quar then .next (s.lateResponse src r.tag)
    else if !((s.cores[n]).tags[t]).out then .next s
    else .next ((s.stepCore n (fun c => c.answer t r.status (natLE r.data))).noteLat src)
  | none =>
    match s.pour.compl.find? (fun x => decide (x.core = n) && decide (x.tag = tag) && !s.underway (.compl x)) with
    | some x =>
      let s := { s with pour := { s.pour with compl := s.pour.compl.erase x } }
      .next ((s.stepCore n (fun c => c.answer t .ok x.word.toNat)).raiseAt n (4 + (fld x.word 21 3 : BitVec 3).toNat))
    | none => .next s

/-- How the read of a table entry ends: with the entry, with a status other than OK, or not yet. -/
inductive TableRead where
  | entry (e : DWord) | failed | wait
deriving DecidableEq, Repr

/-- A table read's end from an access. -/
def tableRead (g : Got) : TableRead :=
  match g with
  | none => .wait
  | some (st, bs) => if st = .ok then .entry (BitVec.ofNat 64 (natLE bs)) else .failed

/-- Read one table entry for core `n`, which injects nothing while fenced; a TIMEOUT taints it (spec/13 R314, R317). -/
def State.walkRead (s : State) (n : CoreId) (addr : PAddr) : TableRead × State :=
  let c := s.cores[n]
  if inSram addr 8 then
    (if c.ueAt addr.toNat 8 then .failed else .entry (BitVec.ofNat 64 (natLE (c.sramRead addr.toNat 8))), s)
  else if s.pwr.fence.getLsbD (304 + n.val) then (.wait, s)
  else
    let src : Fin 32 := ix 32 n.val
    let (g, t) := s.access { src := src, tag := 0, user := !c.priv, op := .read 8, addr := addr }
    (tableRead g, if g.any (fun x => decide (x.1 = .timeout)) then t.taintReader src else t)

/-- The walk core `n` waits for goes on: its entries read in turn, the TLB is filled, or the fault waits for the access that asked
(R249, R250; ECAUSE[9] for a read that failed). -/
def State.coreWalk (s : State) (n : CoreId) : State :=
  match (s.cores[n]).walk with
  | none => s
  | some va =>
    let setWalk (t : State) (f : Core → Core) : State := t.setCore n (f t.cores[n])
    let fail (t : State) (bits : Word) : State := setWalk t (fun c => { c with walk := none, walkL1 := none, walkFault := some (va, bits) })
    let (r1, s) := match (s.cores[n]).walkL1 with
      | some e => (TableRead.entry e, s)
      | none => s.walkRead n (l1Addr (s.cores[n]).ptbr va)
    match r1 with
    | .wait => s
    | .failed => fail s 0x200
    | .entry e1 =>
      if l1Bad e1 then fail s 0
      else
        let (r2, s) := s.walkRead n (l2Addr e1 va)
        match r2 with
        | .wait => setWalk s (fun c => { c with walkL1 := some e1 })
        | .failed => fail s 0x200
        | .entry e2 =>
          if l2Bad e2 then fail s 0
          else setWalk s (fun c => ({ c with walk := none, walkL1 := none } : Core).tlbFill { vpn := fld va 12 20, pte := e2 })

/-- TABLE_WALK_COMPLETE. -/
def execTableWalkComplete (n : CoreId) (s : State) : Out := .next (s.coreWalk n)

/-- Run the instruction at PC, with the table walks it waits for, one left from before it first (R252: waits included): as
far as it goes now. (DEDUCED, log 41) -/
def State.stepRun (s : State) (n : CoreId) : Nat → State
  | 0 => s
  | k + 1 =>
    let w := s.coreWalk n
    let t := w.runInsn n ((w.cores[n]).insnAtPc n)
    if (t.cores[n]).walk.isSome && (t.cores[n]).stepping then t.stepRun n k else t

/-- Why an access to block CORE[n] is refused: reach, and the domain of the core (spec/01 R30, R31, spec/13 R317). -/
def State.coreGate (s : State) (acc : Acc) (n : CoreId) : Option Status :=
  if !accReachesRegs acc then some .denied
  else if !s.domainOpen (304 + n.val) then some .domainOff
  else none

/-- Run an action at CORE[n] after the gate. -/
def State.coreAction (s : State) (acc : Acc) (n : CoreId) (f : State → Status × State) : State :=
  let s := s.enters (accReachesRegs acc) acc 4
  match s.coreGate acc n with
  | some st => s.answer acc st []
  | none => let (st, t) := f s; t.answer acc st []

/-- Outside SERVICE only HC writes CCTL (R252). -/
def State.cctlOpen (s : State) (acc : Acc) : Bool := s.service || decide (acc.src.val = 4)

/-- CCTL.RST: the core is reset and its SRAM, stations and tags wiped; what its customer slots hold and the responses still
due stay (spec/11 R277). (DEDUCED, log 40) -/
def Core.rst (c : Core) : Core :=
  { Core.reset with
    slots := c.slots, ustore := c.ustore, draws := c.draws, stest := c.stest
    tags := c.tags.map (fun t => { TagSt.free with out := t.out, quar := t.quar }) }

/-- Write RST of CCTL. -/
def State.writeRst (s : State) (acc : Acc) (n : CoreId) : Status × State :=
  if s.cctlOpen acc then (.ok, s.setCore n (s.cores[n]).rst) else (.denied, s)

/-- Write HALT of CCTL: 1 asks for a halt after FENCE, 0 releases, but for a core that a double fault halted,
which RST frees (R252, R253). -/
def State.writeCoreHalt (s : State) (acc : Acc) (n : CoreId) (h : Bool) : Status × State :=
  if !s.cctlOpen acc then (.denied, s)
  else if h then (.ok, s.stepCore n (fun c => { c with haltReq := true }))
  else (.ok, s.setCore n { s.cores[n] with haltReq := false, stepping := false, halted := (s.cores[n]).dfault })

/-- Write STEP of CCTL: outside SERVICE refused to everyone; while halted exactly one instruction runs, its waits included,
and the core is halted again behind it (R252). An instruction that has to wait goes on with the next command that runs the
core. -/
def State.writeCoreStep (s : State) (n : CoreId) : Status × State :=
  if !s.service then (.denied, s)
  else if !(s.cores[n]).halted then (.ok, s)
  else
    let t := s.setCore n { s.cores[n] with haltReq := false, halted := false, stepping := true }
    (.ok, t.stepRun n 16)

/-- CCTL_RST. -/
def execCctlRst (acc : Acc) (n : CoreId) (s : State) : Out := .next (s.coreAction acc n (fun t => t.writeRst acc n))

/-- CCTL_STEP. -/
def execCctlStep (acc : Acc) (n : CoreId) (s : State) : Out := .next (s.coreAction acc n (fun t => t.writeCoreStep n))

/-- CCTL_HALT. -/
def execCctlHalt (acc : Acc) (n : CoreId) (halt : Bool) (s : State) : Out :=
  .next (s.coreAction acc n (fun t => t.writeCoreHalt acc n halt))

/-- CDBELL_RING (R255). -/
def execCdbellRing (acc : Acc) (n : CoreId) (s : State) : Out :=
  .next (s.coreAction acc n (fun t => (.ok, t.raiseAt n 30)))

end Sys2Proof.Machine
end

