-- ==== Sys2Proof/Machine/Xlat.lean ====
section
/-! DEFINITION. Machine/Xlat.lean: shared translation for DMA, sprue and riser (spec/14 R336, R337, R347). -/

namespace Sys2Proof.Machine

/-- What a translation answers: an address, a fault of KIND (Table 14.8), or a walk to wait for. -/
inductive XAns where
  | ok (pa : PAddr)
  | fault (kind : Nat)
  | wait
deriving DecidableEq, Repr

/-- Record the first fault since XFSTAT was cleared (R337). -/
def State.xlatFault (s : State) (src : Fin 32) (k : Fin 16) (va : Word) (kind : Nat) : State :=
  if s.xlat.fvalid then s
  else { s with xlat := { s.xlat with fvalid := true, fsrc := src, fkind := BitVec.ofNat 4 kind, fctx := k, fva := va } }

/-- A request of a finished or running walk for the page of `va` and that access. -/
def XReq.same (q : XReq) (src : Fin 32) (k : Fin 16) (va : Word) (write : Bool) : Bool :=
  decide (q.src = src) && decide (q.write = write) && decide (q.ctx = k) && decide ((fld q.va 12 20 : BitVec 20) = fld va 12 20)

/-- The entry permits the access. -/
def ptePermits (pte : DWord) (write : Bool) : Bool := pte.getLsbD (if write then 2 else 1)

/-- A TLB slot maps `va` in context `k`. -/
def slotMaps (k : Fin 16) (va : Word) (t : Option (Fin 16 × TlbEntry)) : Bool :=
  match t with
  | some (j, e) => decide (j = k) && e.maps va
  | none => false

/-- The fault a walk for this access has found is met, or the walk is waited for. -/
def State.xlateWalk (s : State) (src : Fin 32) (k : Fin 16) (va : Word) (write : Bool) : XAns × State :=
  match s.xlat.faults.find? (fun q => q.1.same src k va write) with
  | some q =>
    (.fault q.2, { (s.xlatFault src k va q.2) with xlat := { (s.xlatFault src k va q.2).xlat with faults := s.xlat.faults.erase q } })
  | none =>
    (.wait, if s.xlat.walks.any (fun q => q.same src k va write) then s
      else { s with xlat := { s.xlat with walks := s.xlat.walks ++ [{ src := src, ctx := k, va := va, write := write, l1 := none }] } })

/-- Translate `va` in context `k` for a read or a write of requester `src` (R336). An entry that does not permit the access goes, and the
tables are read again: it may be stale (R337). -/
def State.xlate (s : State) (src : Fin 32) (k : Fin 16) (va : Word) (write : Bool) : XAns × State :=
  if !(s.xlat.ctx[k]).getLsbD 0 then (.fault 8, s.xlatFault src k va 8)
  else
    match s.xlat.tlb.toList.find? (slotMaps k va) with
    | some (some (_, e)) =>
      if ptePermits e.pte write then (.ok (pteAddr e.pte va), s)
      else State.xlateWalk { s with xlat := { s.xlat with tlb := s.xlat.tlb.map (fun t => if slotMaps k va t then none else t) } } src k va write
    | _ => s.xlateWalk src k va write

/-- Fill the next TLB entry in rotation. (DESIGN CHOICE, log 58) -/
def Xlat.fill (x : Xlat) (k : Fin 16) (t : TlbEntry) : Xlat :=
  { x with tlb := vset x.tlb x.tlbNext (some (k, t)), tlbNext := x.tlbNext + 1 }

/-- Read a table entry under the requester's SRCID; a fenced sprue or riser injects nothing (spec/13 R317). -/
def State.xlatRead (s : State) (src : Fin 32) (addr : PAddr) : TableRead × State :=
  if (src = 21 ∧ s.domainOpen 312 = false) ∨ (src = 22 ∧ s.domainOpen 313 = false) then (.wait, s)
  else
    let (g, t) := s.access { src := src, tag := 0, user := false, op := .read 8, addr := addr }
    (tableRead g, t)

/-- XLAT_WALK_COMPLETE: the oldest walk goes on and ends in a TLB entry, or in a fault its requester meets next (R336, R337). -/
def execXlatWalkComplete (s : State) : Out :=
  match s.xlat.walks with
  | [] => .next s
  | q :: rest =>
    let fail (t : State) (kind : Nat) : State := { t with xlat := { t.xlat with walks := rest, faults := t.xlat.faults ++ [(q, kind)] } }
    let (r1, s) := match q.l1 with
      | some e => (TableRead.entry e, s)
      | none => s.xlatRead q.src (l1Addr (s.xlat.ctx[q.ctx]) q.va)
    match r1 with
    | .wait => .next s
    | .failed => .next (fail s 0xA)
    | .entry e1 =>
      if l1Bad e1 then .next (fail s 8)
      else
        let (r2, s) := s.xlatRead q.src (l2Addr e1 q.va)
        match r2 with
        | .wait => .next { s with xlat := { s.xlat with walks := { q with l1 := some e1 } :: rest } }
        | .failed => .next (fail s 0xA)
        | .entry e2 =>
          if l2Bad e2 then .next (fail s 8)
          else if !ptePermits e2 q.write then .next (fail s 9)
          else .next { s with xlat := ({ s.xlat with walks := rest } : Xlat).fill q.ctx { vpn := fld q.va 12 20, pte := e2 } }

/-- XINV's effect: entries of the context, all or those of the page, go, and its walks under way read their tables again (R337,
Table 14.8). -/
def Xlat.invalidate (x : Xlat) (v : Word) : Xlat :=
  let k : Fin 16 := ix 16 (fld v 0 4 : BitVec 4).toNat
  { x with
    tlb := x.tlb.map (fun t => match t with
      | some (j, e) => if decide (j = k) && (v.getLsbD 8 || e.maps (v &&& 0xFFFFF000)) then none else some (j, e)
      | none => none)
    walks := x.walks.map (fun q => if q.ctx = k then { q with l1 := none } else q)
    faults := x.faults.filter (fun q => decide (q.1.ctx ≠ k)) }

/-- Run an action at a register of a block that is always powered. -/
def State.plainAction (s : State) (acc : Acc) (f : State → Status × State) : State :=
  if accReachesRegs acc then (let (st, t) := f (s.enters true acc 4); t.answer acc st []) else s.answer acc .denied []

/-- XINV. -/
def execXinv (acc : Acc) (v : Word) (s : State) : Out :=
  .next (s.plainAction acc (fun t => (.ok, { t with xlat := t.xlat.invalidate v })))

end Sys2Proof.Machine
end

