-- ==== Sys2Proof/Machine/Dma.lean ====
section
/-! DEFINITION. Machine/Dma.lean: the DMA channels, a bank's port B, and initiators' timeouts (spec/14 R328, R338 to R343,
R346, spec/13 R313). -/

namespace Sys2Proof.Machine

/-! ### Descriptors (Table 14.2, R339) -/

/-- A descriptor's words 0x00 to 0x1C. -/
abbrev Desc := Vector Word 8

def dOp (d : Desc) : Nat := (fld (d[0]) 0 4 : BitVec 4).toNat
def dIrq (d : Desc) : Bool := (d[0]).getLsbD 4
def dXs (d : Desc) : Bool := (d[0]).getLsbD 5
def dXd (d : Desc) : Bool := (d[0]).getLsbD 6
def dCtx (d : Desc) : Fin 16 := ix 16 (fld (d[0]) 8 4 : BitVec 4).toNat
def dLen (d : Desc) : Nat := (fld (d[1]) 0 24 : BitVec 24).toNat
def dSrc (d : Desc) : DWord := d[3] ++ d[2]
def dDst (d : Desc) : Nat := (d[4]).toNat + (fld (d[5]) 0 8 : BitVec 8).toNat * 2 ^ 32
def dRows (d : Desc) : Nat := (fld (d[5]) 16 16 : BitVec 16).toNat + 1
def dSstride (d : Desc) : Nat := (fld (d[6]) 0 16 : BitVec 16).toNat
def dDstride (d : Desc) : Nat := (fld (d[6]) 16 16 : BitVec 16).toNat
def dTotal (d : Desc) : Nat := dRows d * dLen d
def dCopy (d : Desc) : Bool := decide (dOp d = 0)
def dAtomic (d : Desc) : Bool := decide (dOp d = 2) || decide (dOp d = 3)

/-- A malformed descriptor (R339). -/
def dBad (d : Desc) : Bool :=
  decide (3 < dOp d) || (d[0]).getLsbD 7 || decide ((fld (d[0]) 12 20 : BitVec 20) ≠ 0)
  || decide ((fld (d[1]) 24 8 : BitVec 8) ≠ 0) || decide ((fld (d[5]) 8 8 : BitVec 8) ≠ 0)
  || decide (dLen d = 0) || decide (dLen d % 4 ≠ 0) || (dAtomic d && decide (dLen d ≠ 8)) || (dAtomic d && decide (dRows d ≠ 1))
  || decide (dSstride d % 4 ≠ 0) || decide (dDstride d % 4 ≠ 0)
  || decide (2 ^ 24 ≤ dTotal d)
  || (dCopy d && (decide ((dSrc d).toNat % 4 ≠ 0) || decide (dDst d % 4 ≠ 0) ||
      decide ((if dXs d then 2 ^ 32 else 2 ^ 40) ≤ (dSrc d).toNat)))
  || (dAtomic d && decide (dDst d % 8 ≠ 0))
  || (dXd d && decide (2 ^ 32 ≤ dDst d))

/-- Source and destination of the byte at offset `o`. -/
def dSrcAt (d : Desc) (o : Nat) : Nat := (dSrc d).toNat + o / dLen d * dSstride d + o % dLen d
def dDstAt (d : Desc) (o : Nat) : Nat := dDst d + o / dLen d * dDstride d + o % dLen d

/-- The length of the beat at offset `o` (R340). -/
def dBeatLen (d : Desc) (o : Nat) : Nat :=
  let row := dLen d - o % dLen d
  let dst := 64 - dDstAt d o % 64
  if dAtomic d then 8 else if dCopy d then min row (min dst (64 - dSrcAt d o % 64)) else min row dst

/-- Bytes of FILL at offset `o`: byte x is byte x mod 8 of the pattern. -/
def dFill (d : Desc) (o n : Nat) : List Byte := (List.range n).map (fun i => fld (dSrc d) (8 * ((o + i) % 8)) 8)

/-! ### Accesses of a beat -/

/-- The largest access at `a` with `n` bytes left that the target's shapes permit (R340, R24, R25, R327). -/
def pieceLen (a n : Nat) : Nat :=
  let word := decide (0xC0000000 ≤ a)
  let view := decide (0x80000000 ≤ a)
  if a % 8 = 0 ∧ 8 ≤ n ∧ word = false then (if view then 8 else n / 8 * 8)
  else if a % 4 = 0 ∧ 4 ≤ n then 4
  else if a % 2 = 0 ∧ 2 ≤ n then 2
  else 1

/-- The initiator ID of channel `c` (spec/13 Table 13.5). -/
def dmaSrc (c : Fin 16) : Fin 32 := ix 32 (5 + c.val)

/-- How a beat ends: done, failed with its DETAIL, or waiting for a walk or a ladle slot. -/
inductive BeatEnd where
  | done | failed (detail : Nat) | wait
deriving DecidableEq, Repr

/-- Read `n` bytes from physical address `a` behind those already read, with fuel. -/
def State.dmaRead (s : State) (c : Fin 16) : Nat → Nat → Nat → List Byte → BeatEnd × List Byte × State
  | 0, _, _, got => (.done, got, s)
  | k + 1, a, n, got =>
    if n = 0 then (.done, got, s)
    else
      let l := pieceLen a n
      match s.access { src := dmaSrc c, tag := 0, user := false, op := .read l, addr := BitVec.ofNat 40 a } with
      | (some (.ok, bs), s) => s.dmaRead c k (a + l) (n - l) (got ++ bs)
      | (some (st, _), s) => (.failed st.code, got, s)
      | (none, s) => (.wait, got, s)

/-- Write bytes to physical address `a`, with fuel: the end, and how many were written. -/
def State.dmaWrite (s : State) (c : Fin 16) : Nat → Nat → List Byte → BeatEnd × Nat × State
  | 0, _, _ => (.done, 0, s)
  | k + 1, a, bs =>
    if bs = [] then (.done, 0, s)
    else
      let l := pieceLen a bs.length
      match s.access { src := dmaSrc c, tag := 0, user := false, op := .write (bs.take l), addr := BitVec.ofNat 40 a } with
      | (some (.ok, _), s) => let (e, m, s) := s.dmaWrite c k (a + l) (bs.drop l); (e, l + m, s)
      | (some (st, _), s) => (.failed st.code, 0, s)
      | (none, s) => (.wait, 0, s)

/-- Apply `f` to channel `c`. -/
def State.modDma (s : State) (c : Fin 16) (f : DmaChan → DmaChan) : State := { s with dma := vmod s.dma c f }

/-- The address of one side of a beat: physical, or through XLAT. -/
def State.dmaAddr (s : State) (c : Fin 16) (virt : Bool) (k : Fin 16) (a : Nat) (write : Bool) : XAns × State :=
  if virt then s.xlate (dmaSrc c) k (BitVec.ofNat 32 a) write else (.ok (BitVec.ofNat 40 a), s)

/-- The destination address of the beat at offset `o`: an atomic reads and writes it. -/
def State.dmaDst (s : State) (c : Fin 16) (d : Desc) (o : Nat) : XAns × State :=
  let (old, s) := if dAtomic d then s.dmaAddr c (dXd d) (dCtx d) (dDstAt d o) false else (.ok 0, s)
  match old with
  | .ok _ => s.dmaAddr c (dXd d) (dCtx d) (dDstAt d o) true
  | _ => (old, s)

/-- The atomic of a descriptor at `da`; the old value stays for the status word. -/
def State.dmaAtomic (s : State) (c : Fin 16) (d : Desc) (da : PAddr) : BeatEnd × State :=
  let op : AtomOp := if dOp d = 2 then .add64 else .swap64
  match s.access { src := dmaSrc c, tag := 0, user := false, op := .atomic op (dSrc d), addr := da } with
  | (some (.ok, bs), s) => (.done, s.modDma c (fun x => { x with old := some (BitVec.ofNat 64 (natLE bs)) }))
  | (some (st, _), s) => (.failed st.code, s)
  | (none, s) => (.wait, s)

/-- Move the bytes of the beat at offset `o` from `sa`, or its fill pattern, to `da`, going on where it had to wait. -/
def State.dmaMove (s : State) (c : Fin 16) (d : Desc) (o : Nat) (sa da : PAddr) : BeatEnd × State :=
  let n := dBeatLen d o
  let g := (s.dma[c]).got
  let w := (s.dma[c]).put
  let (e, bs, s) := if dCopy d then s.dmaRead c 64 (sa.toNat + g.length) (n - g.length) g else (.done, dFill d o n, s)
  match e with
  | .done =>
    let (e, m, s) := s.dmaWrite c 64 (da.toNat + w) (bs.drop w)
    (e, if e = .wait then s.modDma c (fun x => { x with got := if dCopy d then bs else [], put := w + m }) else s)
  | .wait => (.wait, s.modDma c (fun x => { x with got := bs }))
  | .failed k => (.failed k, s)

/-- Perform the beat of channel `c` at offset `o` (R340). -/
def State.dmaBeat (s : State) (c : Fin 16) (d : Desc) (o : Nat) : BeatEnd × State :=
  let (src, s) := if dCopy d then s.dmaAddr c (dXs d) (dCtx d) (dSrcAt d o) false else (.ok 0, s)
  match src with
  | .wait => (.wait, s)
  | .fault k => (.failed k, s)
  | .ok sa =>
    let (dst, s) := s.dmaDst c d o
    match dst with
    | .wait => (.wait, s)
    | .fault k => (.failed k, s)
    | .ok da => if dAtomic d then s.dmaAtomic c d da else s.dmaMove c d o sa da

/-! ### The channel -/

/-- The physical address of the descriptor at DRTAIL (R338). -/
def DmaChan.descAddr (x : DmaChan) : Nat := x.base.toNat * 256 + x.tail.toNat * 32

/-- DRTAIL advances modulo 2^RSIZE. -/
def DmaChan.next (x : DmaChan) : DmaChan :=
  { x with tail := BitVec.ofNat 12 ((x.tail.toNat + 1) % 2 ^ x.rsize.toNat), desc := none, issued := 0
           inflight := [], tags := [], got := [], put := 0, fail := none, old := none }

/-- Issue beats while fewer than four are in flight and none has failed, each under the lowest tag that is neither in use nor in
quarantine (`held`; R340, R342, spec/13 R313). -/
def DmaChan.issue (x : DmaChan) (held : List Byte) (d : Desc) : Nat → DmaChan
  | 0 => x
  | k + 1 =>
    if decide (x.st = .running) && x.fail.isNone && decide (x.issued < dTotal d) && decide (x.inflight.length < 4) then
      match ((List.range viewTag0).map (BitVec.ofNat 8)).find? (fun t => !held.contains t && !x.tags.any (fun y => decide (y.2 = t))) with
      | some t =>
        ({ x with inflight := x.inflight ++ [x.issued], tags := x.tags ++ [(x.issued, t)]
                  issued := x.issued + dBeatLen d x.issued } : DmaChan).issue held d k
      | none => x
    else x

/-- The tags of channel `c` in quarantine. -/
def State.dmaHeld (s : State) (c : Fin 16) : List Byte :=
  (s.net.quarantine.filter (fun q => decide (q.1 = dmaSrc c))).map (fun q => q.2)

/-- Channel `c` issues what it can. -/
def State.dmaIssue (s : State) (c : Fin 16) (d : Desc) : State := s.modDma c (fun y => y.issue (s.dmaHeld c) d 4)

/-- Write back bytes at offset `o` of the descriptor at DRTAIL: the DETAIL of a response other than OK, and the state. -/
def State.dmaBack (s : State) (c : Fin 16) (o : Nat) (bs : List Byte) : Option Nat × State :=
  match s.dmaWrite c 64 ((s.dma[c]).descAddr + o) bs with
  | (.failed k, _, t) => (some k, t)
  | (_, _, t) => (none, t)

/-- Write the status word of the descriptor at DRTAIL. -/
def State.dmaStatus (s : State) (c : Fin 16) (status detail off : Nat) : Option Nat × State :=
  s.dmaBack c 0x1C (bytesLE 4 (status * 2 ^ 28 + detail * 2 ^ 24 + off))

/-- Channel `c` faults: STATUS FAULTED, DSTAT FAULTED, FAULTIRQ (R342). -/
def State.dmaFault (s : State) (c : Fin 16) (detail off : Nat) : State :=
  (s.dmaStatus c 2 detail off).2.modDma c (fun x => { x with
    st := .faulted, faultIrq := true, issued := off, inflight := [], tags := [], got := [], put := 0, fail := none })

/-- Every beat is answered: the old value and the status word are written back, DRTAIL advances, DONEIRQ is set (R341); a writeback answered
other than OK faults the channel (R342). -/
def State.dmaComplete (s : State) (c : Fin 16) (d : Desc) : State :=
  let (e, s) := match (s.dma[c]).old with
    | some v => s.dmaBack c 8 (bytesLE 8 v.toNat)
    | none => (none, s)
  match e with
  | some k => s.dmaFault c k (dTotal d)
  | none =>
    match s.dmaStatus c 1 0 (dTotal d) with
    | (some k, t) => t.dmaFault c k (dTotal d)
    | (none, t) => t.modDma c (fun y => { y.next with st := if y.en then .idle else .off, doneIrq := y.doneIrq || dIrq d })

/-- When every beat has ended: fault (R342), stop (R343, whatever is left to do), or complete the descriptor (R341); else issue
further beats. -/
def State.dmaSettle (s : State) (c : Fin 16) (d : Desc) : State :=
  let x := s.dma[c]
  if !x.inflight.isEmpty then
    (match x.fail with
     | none => s.dmaIssue c d
     | some _ => s)
  else
    match x.fail with
    | some (off, detail) => s.dmaFault c detail off
    | none =>
      if x.st = .stopping then
        (match s.dmaStatus c 3 0 x.issued with
         | (some k, t) => t.dmaFault c k x.issued
         | (none, t) => t.modDma c (fun y => { y with st := .stopped }))
      else if dTotal d ≤ x.issued then s.dmaComplete c d
      else s.dmaIssue c d

/-- The beat at offset `o` is no longer in flight; the oldest one takes its progress along. -/
def DmaChan.over (x : DmaChan) (o : Nat) : DmaChan :=
  let front := decide (x.inflight.head? = some o)
  { x with inflight := x.inflight.erase o, tags := x.tags.filter (fun y => decide (y.1 ≠ o))
           got := if front then [] else x.got, put := if front then 0 else x.put }

/-- A beat of channel `c` at offset `o` has ended. -/
def State.dmaEnded (s : State) (c : Fin 16) (d : Desc) (o : Nat) (e : BeatEnd) : State :=
  match e with
  | .wait => s
  | .done => (s.modDma c (fun x => x.over o)).dmaSettle c d
  | .failed k =>
    (s.modDma c (fun x => { x.over o with
      fail := (match x.fail with
        | some (f, g) => if o < f then some (o, k) else some (f, g)
        | none => some (o, k)) })).dmaSettle c d

/-- DMA_BEAT_RESPONSE: the oldest beat in flight is answered. -/
def execDmaBeatResponse (c : Fin 16) (s : State) : Out :=
  match (s.dma[c]).desc, (s.dma[c]).inflight with
  | some d, o :: _ =>
    let (e, s) := s.dmaBeat c d o
    .next (s.dmaEnded c d o e)
  | _, _ => .next s

/-- Read the descriptor at DRTAIL and begin at offset `off`: a failed read or a malformed descriptor faults (R338, R339,
R342). -/
def State.dmaFetch (s : State) (c : Fin 16) (off : Nat) : State :=
  let (e, bs, s) := s.dmaRead c 64 (s.dma[c]).descAddr 32 []
  match e with
  | .wait => s
  | .failed k => s.dmaFault c k off
  | .done =>
    let d : Desc := Vector.ofFn (fun (i : Fin 8) => BitVec.ofNat 32 (natAt bs (4 * i.val) 4))
    if dBad d then (s.modDma c (fun x => { x with desc := some d })).dmaFault c 0xB 0
    else
      (s.modDma c (fun x => { x with
        st := .running, desc := some d, issued := off, inflight := [], tags := [], got := [], put := 0, fail := none
        old := if off = 0 then none else x.old })).dmaIssue c d

/-- DMA_DESCRIPTOR_START: an enabled idle channel with work takes the descriptor at DRTAIL. -/
def execDmaDescriptorStart (c : Fin 16) (s : State) : Out :=
  let x := s.dma[c]
  if x.en && decide (x.st = .idle) && decide (x.tail ≠ x.head) && decide (s.mode ≠ .safeStop) then .next (s.dmaFetch c 0)
  else .next s

/-- EN of DCTL is written (R343, Table 14.7). (DEDUCED, log 57) -/
def State.dmaEn (s : State) (c : Fin 16) (en : Bool) : State :=
  let x := s.dma[c]
  if en then
    match x.st, x.desc with
    | .off, _ => s.modDma c (fun y => { y with en := true, st := .idle, tail := 0 })
    | .stopping, _ => s.modDma c (fun y => { y with en := true, st := .running })
    | .stopped, some d => (s.modDma c (fun y => { y with en := true, st := .running })).dmaSettle c d
    | .stopped, none => s.modDma c (fun y => { y with en := true, st := .idle })
    | _, _ => s.modDma c (fun y => { y with en := true })
  else
    match x.st, x.desc with
    | .idle, _ => s.modDma c (fun y => { y with en := false, st := .off })
    | .running, some d => (s.modDma c (fun y => { y with en := false, st := .stopping })).dmaSettle c d
    | _, _ => s.modDma c (fun y => { y with en := false })

/-- RESUME of DCTL: in FAULTED the descriptor is read again and goes on from OFFSET (R342). -/
def State.dmaResume (s : State) (c : Fin 16) : State :=
  let x := s.dma[c]
  if x.st = .faulted then s.dmaFetch c x.issued else s

/-- SKIP of DCTL: in FAULTED or STOPPED the descriptor is abandoned and the next one follows, as soon as the channel is enabled (R342). -/
def State.dmaSkip (s : State) (c : Fin 16) : State :=
  let x := s.dma[c]
  if x.st = .faulted ∨ x.st = .stopped then s.modDma c (fun y => { y.next with st := if y.en then .idle else .stopped }) else s

/-- Ebb or reset: the beats are lost, nothing is written back, the channel is OFF (Table 14.3). -/
def DmaChan.dropped (x : DmaChan) : DmaChan :=
  { x with en := false, st := .off, desc := none, issued := 0, inflight := [], tags := [], got := [], put := 0, fail := none, old := none }

/-- DRHEAD_WRITE. -/
def execDrheadWrite (acc : Acc) (c : Fin 16) (v : Word) (s : State) : Out :=
  .next (s.plainAction acc (fun t => (.ok, t.modDma c (fun x => { x with head := fld v 0 12 }))))

/-- DCTL_EN. -/
def execDctlEn (acc : Acc) (c : Fin 16) (en : Bool) (s : State) : Out := .next (s.plainAction acc (fun t => (.ok, t.dmaEn c en)))

/-- DCTL_RESUME. -/
def execDctlResume (acc : Acc) (c : Fin 16) (s : State) : Out := .next (s.plainAction acc (fun t => (.ok, t.dmaResume c)))

/-- DCTL_SKIP. -/
def execDctlSkip (acc : Acc) (c : Fin 16) (s : State) : Out := .next (s.plainAction acc (fun t => (.ok, t.dmaSkip c)))

/-- Every channel stops as on SAFE STOP (Table 14.3). -/
def State.dmaStopAll (s : State) : State := (List.finRange 16).foldl (fun t c => t.dmaEn c false) s

/-! ### Port A against port B (R328) -/

/-- The harbour words an access of `n` bytes at address `a` covers. -/
def wordsOf (a n : Nat) : List Nat :=
  if 0x20000000 ≤ a ∧ a < 0x22000000 ∧ 0 < n then
    (List.range ((a % 8 + n + 7) / 8)).map (fun i => offsetFrom 0x20000000 a / 8 + i)
  else []

/-- The physical side of a beat, where it is known without a walk. -/
def State.beatSide (s : State) (c : Fin 16) (d : Desc) (o : Nat) (dst : Bool) : List Nat :=
  let ans := if dst then (s.dmaAddr c (dXd d) (dCtx d) (dDstAt d o) true).1
    else if dCopy d then (s.dmaAddr c (dXs d) (dCtx d) (dSrcAt d o) false).1 else .wait
  match ans with
  | .ok pa => wordsOf pa.toNat (dBeatLen d o)
  | _ => []

/-- Put back the stored words listed, as they stand in `old`. -/
def State.restoreWords (s old : State) (ws : List Nat) : State :=
  ws.foldl (fun t w => { t with harbour := { t.harbour with
    mem := wrBytes 0 t.harbour.mem (8 * w) (rdBytes 0 old.harbour.mem (8 * w) 8)
    delta := SMap.set 0 t.harbour.delta w (SMap.get 0 old.harbour.delta w) } }) s

/-- The request on port A alone. -/
def State.portA (s : State) (r : Request) : State :=
  s.serve r (decide (areaOf r.addr = .harbour)) (fun t => t.harbourServe r)

/-- HARBOUR_PORT_A_REQUEST: a request on port A, in the same cycle as the oldest beat of channel `portB` on port B where one
is named. Write against write stores port A's data and answers port B's with COLLIDED; a read sees the new data (R328). -/
def execHarbourPortARequest (req : Request) (portB : Option (Fin 16)) (s : State) : Out :=
  match portB with
  | none => .next (s.portA req)
  | some c =>
    match (s.dma[c]).desc, (s.dma[c]).inflight with
    | some d, o :: _ =>
      let mine := wordsOf req.addr.toNat (reqLen req.op)
      let hit := (s.beatSide c d o true).filter mine.contains
      let refused := decide ((s.harbourAccess false req.op req.addr).1 ≠ .ok)
      let lone := refused || (match req.op with | .atomic _ _ => true | _ => dAtomic d)
      if s.heldBack req || (nodeCheck req).isSome then .next (s.portA req)
      else if !reqWrites req.op then
        let (e, t) := s.dmaBeat c d o
        .next ((t.portA req).dmaEnded c d o e)
      else if lone || hit.isEmpty then
        let t := s.portA req
        let (e, t) := t.dmaBeat c d o
        .next (t.dmaEnded c d o e)
      else
        let (e, t) := s.dmaBeat c d o
        let t := (t.restoreWords s hit).portA req
        if e = .done then
          let t := t.modBank (bankOf (8 * hit.headD 0)) (fun b => { b with col := satAdd b.col hit.length })
          .next ((t.raiseAll 18).dmaEnded c d o (.failed Status.collided.code))
        else .next (t.dmaEnded c d o e)
    | _, _ => .next (s.portA req)

/-! ### Timeouts (spec/13 R313) -/

/-- A tag of initiator `src` is in quarantine from now on. -/
def State.quarantined (s : State) (src : Fin 32) (tag : Byte) : State :=
  { s with net := { s.net with quarantine := s.net.quarantine ++ [(src, tag)] } }

/-- The view accesses that initiator `src` waits for are given up: their answers will be late. -/
def State.dropViews (s : State) (src : Fin 32) : State :=
  let mine := s.net.views.filter (fun q => decide (q.src = src))
  { s with net := { s.net with
      views := s.net.views.filter (fun q => decide (q.src ≠ src)), quarantine := s.net.quarantine ++ mine.map (fun q => (src, q.tag)) } }

/-- Tag `tag` of initiator `src` stands for a request not answered yet: one on the networks, or a waiting view access. -/
def State.outstanding (s : State) (src : Fin 32) (tag : Byte) : Bool :=
  !s.net.quarantine.contains (src, tag) &&
    (s.net.requests ++ s.net.views).any (fun q => decide (q.src = src) && decide (q.tag = tag))

/-- REQUEST_TIMEOUT's effect: the initiator completes its request with TIMEOUT, interrupt 17, and its tag goes into quarantine
(R313). Whether the write of a DMA beat was applied is open (R27). A timeout of the Holm, the sprue or a core's walk is that of its next
access, which travels as no packet. (DEDUCED, log 47) -/
def State.requestTimeout (s : State) (src : Fin 32) (tag : Byte) : State :=
  if src.val < 4 ∧ tag.toNat < 64 then
    let n : CoreId := ix 4 src.val
    let t : Fin 64 := ix 64 tag.toNat
    let g := (s.cores[n]).tags[t]
    if !g.out || g.quar || decide (g.kind = .pour) then s
    else
      let s := s.stepCore n (fun c =>
        let c := c.answer t .timeout 0
        { c with tags := vmod c.tags t (fun x => { x with quar := true }) })
      ((s.quarantined src tag).noteTimeout src).timeoutIrq src
  else if s.outstanding src tag then
    (((s.respond { dst := src, tag := tag, status := .timeout, data := [] }).quarantined src tag).noteTimeout src).timeoutIrq src
  else if isDma src then
    let c : Fin 16 := ix 16 (src.val - 5)
    match (s.dma[c]).desc, (s.dma[c]).tags.find? (fun y => decide (y.2 = tag)) with
    | some d, some (o, _) =>
      let x := s.dma[c]
      let front := decide (x.inflight.head? = some o)
      let s1 := { s with fresh := s.fresh + 1 }
      let s2 := if Config.freeBit s.fresh then ((s1.modDma c (fun y => { y with got := [], put := 0 })).dmaBeat c d o).2 else s1
      let s3 := if front then s2.dropViews src else s2.modDma c (fun y => { y with got := x.got, put := x.put })
      (((s3.quarantined src tag).noteTimeout src).timeoutIrq src).dmaEnded c d o (.failed Status.timeout.code)
    | _, _ => s
  else if src.val = 4 ∨ src.val = 21 ∨ (src.val < 4 ∧ 64 ≤ tag.toNat) then
    { s with net := { s.net with expired := vmod s.net.expired src (fun n => n + 1) } }
  else s

/-- TAG_QUARANTINE_EXPIRY (R313): the quarantine of a DMA beat's tag that travelled as no packet may have ended with its late response, which
is counted then: a free bit decides. (DESIGN CHOICE, log 107) -/
def execTagQuarantineExpiry (src : Fin 32) (tag : Byte) (s : State) : Out :=
  if isDma src && decide (tag.toNat < viewTag0) && s.net.quarantine.contains (src, tag) then
    let t := ({ s with fresh := s.fresh + 1 } : State).endQuarantine src tag
    .next (if Config.freeBit s.fresh then t.countLate src else t)
  else .next (s.endQuarantine src tag)

end Sys2Proof.Machine
end

