-- ==== Sys2Proof/Machine/Network.lean ====
section
/-! DEFINITION. Machine/Network.lean: packets in the routers of the sound and lagoon networks: header check, routing, virtual
channels, credits, arbitration, ageing, ejection, and the routing epochs (spec/13 R301 to R311, R316). -/

namespace Sys2Proof.Machine

/-! ### Routing (R301 to R303, R307) -/

/-- A hop: the next router, the port it is entered by (1 +x, 2 -x, 3 +y, 4 -y), and whether the link crosses its ring's
dateline, between the last coordinate and 0. -/
structure Hop where
  next : RouterId
  port : Fin 5
  wraps : Bool
deriving DecidableEq, Repr

/-- One step on a ring of `w` from `x` towards `d`: the shorter way, + where both are equal, or the other way; the new
coordinate, whether the way is -, and whether the step crosses the dateline. -/
def ringStep (w x d : Nat) (flip : Bool) : Nat × Bool × Bool :=
  let minus := decide (w < 2 * ((d + w - x) % w)) != flip
  if minus then ((x + w - 1) % w, true, decide (x = 0)) else ((x + 1) % w, false, decide (x + 1 = w))

/-- The next node of a torus of width `w` by a table entry, its port and the dateline. -/
def torusNext (w : Nat) (yx : Bool) (flips : BitVec 2) (cur dst : Nat) : Nat × Fin 5 × Bool :=
  let x := cur % w
  let y := cur / w
  let dx := dst % w
  let dy := dst / w
  let moveX := if yx then decide (y = dy) else decide (x ≠ dx)
  if moveX then
    let (x', minus, wr) := ringStep w x dx (flips.getLsbD 0)
    (x' + w * y, if minus then 2 else 1, wr)
  else
    let (y', minus, wr) := ringStep w y dy (flips.getLsbD 1)
    (x + w * y', if minus then 4 else 3, wr)

/-- The entry index of a router and a destination (RouteTable). -/
def routeIndex : RouterId → Nat → Nat
  | .sound n, d => n.val * 16 + d
  | .lagoon a r, d => 256 + a.val * 1296 + r.val * 36 + d

/-- The node of its network a packet at a router goes to: in the sound network DSN; in the lagoon of archipelago a, DLP when the
destination is there, else the gateway at position 34. -/
def localDest (at' : RouterId) (h : BitVec 128) : Nat :=
  match at' with
  | .sound _ => (hDsn h).val
  | .lagoon a _ => if hDsn h = gatewayNode a ∧ hDlp h ≠ 0x3F then hDlp h else 34

/-- A router's own number. -/
def routerNum : RouterId → Nat
  | .sound n => n.val
  | .lagoon _ r => r.val

/-- The hop a packet at a router takes next by the table of its epoch bit (R316); none at its destination there. -/
def State.hop (s : State) (at' : RouterId) (h : BitVec 128) : Option Hop :=
  let t := s.net.table[if hEpoch h then (1 : Fin 2) else 0]
  let d := localDest at' h
  let f := SMap.get 0 t.flips (routeIndex at' d)
  if routerNum at' = d then none
  else match at' with
    | .sound n =>
      let (m, port, wr) := torusNext 4 (t.yx.getLsbD 0) f n.val d
      some { next := .sound (ix 16 m), port := port, wraps := wr }
    | .lagoon a r =>
      let (m, port, wr) := torusNext 6 (t.yx.getLsbD (1 + a.val)) f r.val d
      some { next := .lagoon a (ix 36 m), port := port, wraps := wr }

/-- The router a packet goes to next; none at its destination there. -/
def State.routeNext (s : State) (at' : RouterId) (h : BitVec 128) : Option RouterId := (s.hop at' h).map (fun x => x.next)

/-! ### Virtual channels, credits, arbitration (R307 to R309) -/

/-- The channel a packet takes on a hop: VC1 once it has crossed the dateline of the ring it travels on, until that dimension
ends. -/
def Packet.nextVc (p : Packet) (x : Hop) : Bool := x.wraps || (p.vc && decide (p.port = some x.port))

/-- The leg stands in the same input buffer. -/
def Leg.same (l m : Leg) : Bool := decide (l.place = m.place) && decide (l.port = m.port) && decide (l.vc = m.vc)

/-- Flits of packet `p` in the input buffer of `l` on virtual network `vn`. -/
def Packet.flitsAt (p : Packet) (vn : Nat) (l : Leg) : Nat :=
  if hVn p.hdr = vn then ((p.legs.filter (fun m => m.same l)).map (fun m => m.flits)).sum else 0

/-- Flits in an input buffer. -/
def flitsIn (ps : List Packet) (vn : Nat) (l : Leg) : Nat := (ps.map (fun p => p.flitsAt vn l)).sum

/-- All flits of a packet where its header is. -/
def Packet.size (p : Packet) : Nat := flits p.place p.payload.length

/-- Packet `p` is part-way into the buffer of `l`: some of its flits are still behind it. -/
def Packet.partWay (p : Packet) (vn : Nat) (l : Leg) : Bool :=
  decide (hVn p.hdr = vn) && (match p.legs.findIdx? (fun m => m.same l) with
    | some k => decide (((p.legs.take (k + 1)).map (fun m => m.flits)).sum < p.size)
    | none => false)

/-- The flits an input buffer of a router holds. -/
def bufDepth : RouterId → Nat
  | .sound _ => 4
  | .lagoon _ _ => 8

/-- The buffer that `l` names has a credit for a header of virtual network `vn`: room for a flit, and no other packet is part-way into
it (R308, R309). -/
def State.credit (s : State) (vn : Nat) (l : Leg) : Bool :=
  decide (flitsIn s.net.packets vn l < bufDepth l.place) && !s.net.packets.any (fun q => q.partWay vn l)

/-- The buffer packet `p` enters on hop `x`. -/
def Packet.legTo (p : Packet) (x : Hop) : Leg := { place := x.next, port := x.port, vc := p.nextVc x, flits := 1 }

/-- `n` flits spread over legs as far forward as the room of each allows. -/
def spread (room : Leg → Nat) : List Leg → Nat → List Leg
  | [], _ => []
  | l :: ls, n => if n = 0 then [] else { l with flits := min (room l) n } :: spread room ls (n - min (room l) n)

/-- The flits of `p` follow its header, each into a buffer with a credit for it (R308); `others` are the packets beside it. -/
def Packet.draw (p : Packet) (others : List Packet) : Packet :=
  { p with legs := spread (fun l => bufDepth l.place - flitsIn others (hVn p.hdr) l) p.legs p.size }

/-- The flits of every packet follow, one packet after the other. -/
def drawAll (done : List Packet) : List Packet → List Packet
  | [] => done
  | p :: ps => drawAll (done ++ [p.draw (done ++ ps)]) ps

/-- Every flit on the networks goes as far as the credits let it. A header's arrival is a command; the flits behind it follow at once.
(DESIGN CHOICE, log 52) -/
def State.flow (s : State) : State := { s with net := { s.net with packets := drawAll [] s.net.packets } }

/-- `p` is the first of its queue: no older packet stands in its buffer, or at its interface on its VN, and no flits of one whose header has
gone on. -/
def State.first (s : State) (p : Packet) : Bool :=
  decide ((s.net.packets.find? (fun q => decide (q.place = p.place) && decide (q.port = p.port) && decide (hVn q.hdr = hVn p.hdr) && decide (q.vc = p.vc)))
    = some p) &&
  (match p.legs.head? with
    | some l => s.net.packets.all (fun q => !decide (hVn q.hdr = hVn p.hdr) || (q.legs.drop 1).all (fun m => !m.same l))
    | none => true)

/-- The node a packet goes to: its sound node and its lagoon position, by logical position for a view request (R311). -/
def destKey (h : BitVec 128) : Fin 16 × Bool × Nat :=
  if hIsReq h && inView (hAddr h) then (hDsn h, true, (viewTarget (hAddr h)).2.val) else (hDsn h, false, hDlp h)

/-- An interface holds a packet of the new epoch while one of the old epoch from it to the same destination on the same VN is in flight
(R316 step 4). -/
def State.epochHeld (s : State) (p : Packet) : Bool :=
  decide (hEpoch p.hdr = s.parity) && s.net.packets.any (fun q => (hEpoch q.hdr != s.parity) && decide (hSsn q.hdr = hSsn p.hdr) &&
    decide (hSlp q.hdr = hSlp p.hdr) && decide (destKey q.hdr = destKey p.hdr) && decide (hVn q.hdr = hVn p.hdr))

/-- The urgency of a packet: the base of its VN plus its AGE. -/
def urgency (h : BitVec 128) : Nat := (match hVn h with | 0 => 4 | 1 => 8 | 2 => 0 | _ => 12) + hAge h

/-- The place of a packet's buffer in the round: by input port, then by virtual channel. -/
def Packet.turn (p : Packet) : Nat :=
  (match p.port with | some k => k.val | none => 0) * 8 + hVn p.hdr * 2 + (if p.vc then 1 else 0)

/-- A link, named by the router it leads to and the port it enters. -/
def linkIndex (x : Hop) : Nat :=
  (match x.next with | .sound n => n.val | .lagoon a r => 16 + a.val * 36 + r.val) * 5 + x.port.val

/-- The hop of a candidate for a link: in a router's buffer, first there, with a credit beyond. -/
def State.linkFor (s : State) (p : Packet) : Option Hop :=
  if p.port.isNone || !s.first p then none
  else match s.hop p.place p.hdr with
    | some x => if s.credit (hVn p.hdr) (p.legTo x) then some x else none
    | none => none

/-- How long a turn waits behind the turn granted last. -/
def turnsLeft (last t : Nat) : Nat := (t + 40 - last - 1) % 40

/-- Packet `p` is granted the link of hop `x`: no candidate for it is more urgent, and of those equally urgent none is nearer in
the round. -/
def State.granted (s : State) (p : Packet) (x : Hop) : Bool :=
  let last := SMap.get 0 s.net.grants (linkIndex x)
  decide (s.linkFor p = some x) && s.net.packets.all (fun q =>
    !decide (s.linkFor q = some x) || decide (urgency q.hdr < urgency p.hdr) ||
      (decide (urgency q.hdr = urgency p.hdr) && decide (turnsLeft last p.turn ≤ turnsLeft last q.turn)))

/-! ### Losing and ejecting packets -/

/-- One old-epoch packet has left the network (R316 step 5). -/
def State.leftNet (s : State) (h : BitVec 128) : State :=
  if hEpoch h != s.net.epoch.getLsbD 0 then { s with net := { s.net with oldInFlight := s.net.oldInFlight - 1 } } else s

/-- What a discarded packet carried is lost (R305, R314). -/
def State.lose (s : State) (m : Msg) : State :=
  match m with
  | .req r => s.taken r
  | .rsp r => { s with net := { s.net with responses := s.net.responses.erase r } }
  | .compl c => { s with pour := { s.pour with compl := s.pour.compl.erase c } }
  | .other => s

/-- A packet of initiator `i` that the model does not hold as one is lost on its way: its next posted packet, or table read or beat, is the
one (R305). (DESIGN CHOICE, log 52) -/
def State.loseNext (s : State) (i : Fin 32) : State := { s with net := { s.net with lost := vmod s.net.lost i (fun n => n + 1) } }

/-- A poisoned packet at its endpoint: a request is answered ECC_UNCORR and not acted on, a response carries that status; so does
what a poisoned completion fills (R305). (DESIGN CHOICE, log 103) -/
def State.arrivePoisoned (s : State) (m : Msg) : State :=
  match m with
  | .req r => (s.taken r).reply r .eccUncorr []
  | .rsp r => { s with net := { s.net with responses := s.net.responses.map (fun q => if q = r then { q with status := .eccUncorr } else q) } }
  | .compl c => (s.lose (.compl c)).respond { dst := ix 32 c.core.val, tag := c.tag.setWidth 8, status := .eccUncorr, data := [] }
  | .other => s

/-- A packet leaves the networks at its endpoint: a completion for a closed core is dropped and counted (R317). -/
def State.eject (s : State) (p : Packet) : State :=
  let s := s.leftNet p.hdr
  match p.msg with
  | .compl c =>
    if !s.domainOpen (304 + c.core.val) then (s.lose p.msg).dropPosted (hSrc p.hdr)
    else if p.poisoned then s.arrivePoisoned p.msg else s
  | _ => if p.poisoned then s.arrivePoisoned p.msg else s

/-- Put a packet at a router. -/
def State.hold (s : State) (p : Packet) : State := { s with net := { s.net with packets := s.net.packets ++ [p] } }

/-- The slot that carries the logical position of a view request in archipelago `a`. -/
def State.viewSlotOf (s : State) (a : Arch) (h : BitVec 128) : Nat := (s.arch[a].islmap[(viewTarget (hAddr h)).2]).toNat

/-- The header with another lagoon position to go to. -/
def toSlot (h : BitVec 128) (slot : Nat) : BitVec 128 := sealHeader (setFld h 20 6 (BitVec.ofNat 6 slot))

/-- A view request on its way to an island. -/
def isViewReq (h : BitVec 128) : Bool := hIsReq h && inView (hAddr h)

/-- The header of a packet as it leaves the gateway into its lagoon: a view request goes to the slot ISLMAP names now (R311). -/
def State.gatewayHeader (s : State) (at' : RouterId) (p : Packet) : BitVec 128 :=
  match at' with
  | .lagoon a r => if decide (r.val = 34) && p.port.isNone && isViewReq p.hdr then toSlot p.hdr (s.viewSlotOf a p.hdr) else p.hdr
  | .sound _ => p.hdr

/-- A view request enters lagoon `a` at its gateway and is counted there, unless the gateway answers it itself (R317, R324). -/
def State.enterLagoon (s : State) (a : Arch) (p : Packet) : State :=
  let inner : Packet := { p with place := .lagoon a 34, port := none, vc := false, legs := [] }
  match p.msg with
  | .req r =>
    (match s.viewRefusal r.op r.addr with
     | some st => ((s.leftNet p.hdr).taken r).reply r st []
     | none => (s.lagoonIn a r.src (reqPayload r.op)).hold inner)
  | _ => (s.lagoonIn a (hSrc p.hdr) p.payload.length).hold inner

/-- A packet at the end of its way in one network: it enters a gateway for the other one; a view request at an island that no
longer carries its position goes on to the slot that does (R311); position 35 has no endpoint, so what is sent there stays
(R301); any other packet is ejected. A gateway with its archipelago closed answers itself (R317). -/
def State.atEnd (s : State) (at' : RouterId) (p : Packet) : State :=
  match at' with
  | .sound n =>
    (match gatewayArch n with
     | some a =>
       if hDlp p.hdr ≠ 0x3F ∧ (isViewReq p.hdr || s.domainOpen (264 + a.val)) then s.enterLagoon a p else s.eject p
     | none => s.eject p)
  | .lagoon a r =>
    if hDsn p.hdr ≠ gatewayNode a ∨ hDlp p.hdr = 0x3F then s.hold { p with place := .sound (gatewayNode a), port := none, vc := false, legs := [] }
    else if isViewReq p.hdr && decide (r.val < 33) && decide (s.viewSlotOf a p.hdr ≠ r.val) then
      s.hold { p with place := at', port := none, vc := false, hdr := toSlot p.hdr (s.viewSlotOf a p.hdr), legs := [] }
    else if r.val = 35 then s.hold p
    else s.eject p

/-- A packet's header is at router `at'`, entered by `p.port`: a bad header is discarded with its packet and counted; else the
packet waits there for its next link, or is at its end (R305, R314). -/
def State.arrive (s : State) (at' : RouterId) (p : Packet) : State :=
  if !headerOk p.hdr then ((s.dropPosted (hSrc p.hdr)).leftNet p.hdr).lose p.msg
  else
    let p := { p with place := at' }
    match s.hop at' p.hdr with
    | some _ => s.hold p
    | none => s.atEnd at' p

/-! ### Commands -/

/-- What an arriving header is: one from the interface of the router, one granted the link of a hop, one that is not granted (and
so does not arrive), or none of the packets the model holds. -/
inductive Arrival where
  | interface (p : Packet) | link (p : Packet) (x : Hop) | held | fresh
deriving DecidableEq, Repr

/-- The header received is that of `p`: the same, or damaged on the way with its initiator and tag still readable. -/
def sameHeader (p : Packet) (h : BitVec 128) : Bool :=
  decide (p.hdr = h) || (!headerOk h && decide (hSrc p.hdr = hSrc h) && decide (hTag p.hdr = hTag h))

/-- Packet `p` may arrive at router `at'`, from its interface or over a link. -/
def State.comes (s : State) (at' : RouterId) (p : Packet) : Arrival :=
  if p.port.isNone then
    if decide (p.place = at') && s.first p && !s.epochHeld p && s.credit (hVn p.hdr) { place := at', port := 0, vc := false, flits := 1 } then
      .interface p
    else .held
  else match s.hop p.place p.hdr with
    | some x => if decide (x.next = at') && s.granted p x then .link p x else .held
    | none => .held

/-- Which packet a header that reaches router `at'` belongs to. -/
def State.arrivalOf (s : State) (at' : RouterId) (h : BitVec 128) : Arrival :=
  match s.net.packets.filter (fun p => sameHeader p h) with
  | [] => .fresh
  | ps => ((ps.map (s.comes at')).find? (fun x => decide (x ≠ .held))).getD .held

/-- ROUTER_HEADER_ARRIVAL: a header reaches router `at'` from the interface of its node, or over a link it was granted; `poisoned`
tells whether its payload met an uncorrectable error on this link, and the mark stays with the packet (R305, R307 to R309). A
header of no packet the model holds enters here, at the interface. (DESIGN CHOICE, log 52) -/
def execRouterHeaderArrival (at' : RouterId) (hdr : BitVec 128) (payload : List Byte) (poisoned : Bool) (s : State) : Out :=
  let drop (p : Packet) : State := { s with net := { s.net with packets := s.net.packets.erase p } }
  let good := headerOk hdr
  let first (t : State) : State := -- an old-epoch packet is counted on injection (R316)
    if hEpoch hdr != t.parity then { t with net := { t.net with oldInFlight := t.net.oldInFlight + 1 } } else t
  let leg0 : Leg := { place := at', port := 0, vc := false, flits := 1 }
  match s.arrivalOf at' hdr with
  | .held => .next s
  | .fresh =>
    if good && !s.credit (hVn hdr) leg0 then .next s
    else
      let t := if good && !poisoned then s else s.loseNext (hSrc hdr)
      .next ((first t).arrive at' { place := at', port := some 0, vc := false, hdr := hdr, payload := payload, poisoned := poisoned, msg := .other,
                                    legs := [leg0] }).flow
  | .interface p =>
    .next ((drop p).arrive at' { p with
      port := some 0, hdr := if good then s.gatewayHeader at' p else hdr, poisoned := p.poisoned || poisoned, legs := [leg0] }).flow
  | .link p x =>
    let t := drop p
    let t := { t with net := { t.net with grants := SMap.set 0 t.net.grants (linkIndex x) p.turn } }
    .next (t.arrive at' { p with
      port := some x.port, vc := p.nextVc x, hdr := hdr, poisoned := p.poisoned || poisoned, legs := p.legTo x :: p.legs }).flow

/-- PACKET_AGE_TICK: a header that has waited 256 nc in a router grows older by one, up to 15 (R309). -/
def execPacketAgeTick (at' : RouterId) (slot : Nat) (s : State) : Out :=
  match (s.net.packets.filter (fun p => decide (p.place = at') && p.port.isSome))[slot]? with
  | none => .next s
  | some p =>
    let p' := { p with hdr := sealHeader (setFld p.hdr 10 4 (BitVec.ofNat 4 (min 15 (hAge p.hdr + 1)))) }
    .next { s with net := { s.net with packets := s.net.packets.map (fun q => if q = p then p' else q) } }

/-- ROUTING_EPOCH_BARRIER: every router has confirmed the loaded tables and the commit point is reached (spec/17 R411); the epoch number
increments and everything under way belongs to the old epoch (R316 step 3). -/
def execRoutingEpochBarrier (s : State) : Out :=
  if s.net.epochLoaded ∧ s.holm.txn.st ≠ .accepted then
    .next (State.settleCommit { s with net := { s.net with
      epoch := s.net.epoch + 1, epochLoaded := false, drained := false, oldInFlight := s.net.packets.length } })
  else .next s

/-- EPOCH_DRAIN_COMPLETE: the count of old-epoch packets is zero; the old tables are discarded and DRAINED is set (R316 step 5). -/
def execEpochDrainComplete (s : State) : Out :=
  if !s.net.drained && decide (s.net.oldInFlight = 0) then
    let cur : Fin 2 := if s.net.epoch.getLsbD 0 then 1 else 0
    .next { s with net := { s.net with drained := true, table := Vector.replicate 2 (s.net.table[cur]) } }
  else .next s

end Sys2Proof.Machine
end

