-- ==== Sys2Proof/Machine/Ingest.lean ====
section
/-! DEFINITION. Machine/Ingest.lean: lanes, JESD204C receive, the stream port, fills into ladles and harbour, and the
sprue's actions (spec/08 R190 to R216, R224, spec/15 R356, R357). -/

namespace Sys2Proof.Machine

/-! ### Lanes and links (R190 to R194) -/

def Lane.role (l : Lane) : Nat := (fld l.lcfg 0 3 : BitVec 3).toNat
def Lane.jrx (l : Lane) : Bool := decide (l.role = 1) || decide (l.role = 3)
def Lane.jtx (l : Lane) : Bool := decide (l.role = 2) || decide (l.role = 3)
def Lane.rxLink (l : Lane) : Nat := (fld l.lcfg 6 3 : BitVec 3).toNat
def Lane.rxIdx (l : Lane) : Nat := (fld l.lcfg 9 3 : BitVec 3).toNat
def Lane.txLink (l : Lane) : Nat := (fld l.lcfg 12 2 : BitVec 2).toNat
def Lane.txIdx (l : Lane) : Nat := (fld l.lcfg 14 2 : BitVec 2).toNat

def JLink.en (k : JLink) : Bool := k.cfg0.getLsbD 27
/-- Samples per converter per frame. -/
def JLink.samples (k : JLink) : Nat := (fld k.cfg0 12 2 : BitVec 2).toNat + 1

/-- Apply `f` to lane `l`. -/
def State.modLane (s : State) (l : Fin 16) (f : Lane → Lane) : State := { s with lanes := vmod s.lanes l f }

/-- The lanes of receive link `k`. -/
def State.rxLanes (s : State) (k : Fin 8) : List (Fin 16) :=
  (List.finRange 16).filter (fun l => (s.lanes[l]).jrx && decide ((s.lanes[l]).rxLink = k.val))

/-- The enabled entries that receive link `k`. -/
def State.linkStreams (s : State) (k : Fin 8) : List (BitVec 12) :=
  (s.sprue.cache.filter (fun e => e.enabled && decide (e.src = 0) && decide (e.link = k.val))).map (fun e => e.id)

/-- A lane report: an event and interrupt 17 (R213). -/
def State.laneReport (s : State) (l : Fin 16) : State := (s.raiseAll 17).event .laneReport [BitVec.ofNat 8 l.val]

/-- Every stream of a link ends its frame void with GAP (Table 8.10). -/
def State.voidLink (s : State) (k : Fin 8) : State := (s.linkStreams k).foldl (fun t id => t.frameEnd id (some 1)) s

/-- One receive link at a SYSREF edge (R193, R210). -/
def State.sysrefLink (s : State) (mis : Byte) (k : Fin 8) : State :=
  let x := s.rxLinks[k]
  if !x.en then s
  else
    let s := (s.rxLanes k).foldl (fun t l => t.modLane l (fun y => { y with sysrefOk := true })) s
    if !x.lemcOk then { s with rxLinks := vset s.rxLinks k { x with lemc := 0, lemcOk := true } }
    else if mis.getLsbD k.val then
      let s := { s with rxLinks := vset s.rxLinks k { x with lemc := 0 } }
      let s := s.voidLink k
      (s.rxLanes k).foldl (fun t l => (t.modLane l (fun y => { y with aligned := false, up := false })).laneReport l) s
    else s

/-- The lanes of transmit link `k`. -/
def State.txLanes (s : State) (k : Fin 4) : List (Fin 16) :=
  (List.finRange 16).filter (fun l => (s.lanes[l]).jtx && decide ((s.lanes[l]).txLink = k.val))

/-- SYSREF_EDGE: the LEMC of every enabled link aligns; bit k of `misaligned` says that receive link k's had another phase. -/
def execSysrefEdge (misaligned : Byte) (s : State) : Out :=
  let s := (List.finRange 8).foldl (fun t k => t.sysrefLink misaligned k) s
  let s := (List.finRange 4).foldl (fun t k =>
    if (t.txLinks[k]).en then (t.txLanes k).foldl (fun u l => u.modLane l (fun y => { y with sysrefOk := true })) t else t) s
  .next { s with txLinks := s.txLinks.map (fun x => if x.en then { x with lemcOk := true } else x) }

/-- LINK_ALIGNED: an enabled link with its LEMC aligned is deskewed and its buffer released (R210, Table 8.3). -/
def execLinkAligned (link : Fin 8) (s : State) : Out :=
  let x := s.rxLinks[link]
  if x.en && x.lemcOk then
    .next ((s.rxLanes link).foldl (fun t l => t.modLane l (fun y => { y with lock := true, aligned := true, up := true })) s)
  else .next s

/-- Mark a frame in progress as holding a CRC-12 error. -/
def Stream.bad (e : Stream) (ok : Bool) : Stream := if ok then e else { e with crcBad := true }

/-- A received container without its control bits: N significant bits left-justified in N' bits, CS control bits behind them
(Table 8.4). (DEDUCED, log 59) -/
def JLink.strip (k : JLink) (v : Word) : Word :=
  let np := if k.cfg0.getLsbD 14 then 24 else 16
  let low := np - ((fld k.cfg0 15 5 : BitVec 5).toNat + 1)
  (v >>> low) <<< low

/-- The samples of one JESD frame for entry `id`: sample `k` of converter c stands at c * S + k. (DEDUCED, log 59) -/
def State.feedFrame (s : State) (id : BitVec 12) (x : JLink) (ok : Bool) (f : List Word) : State :=
  match s.stream? id with
  | none => s
  | some e =>
    (List.range x.samples).foldl (fun t k => e.fields.foldl (fun t j =>
      (t.modStream id (fun y => y.bad ok)).feed id j (x.strip (f.getD ((e.conv + j.val) * x.samples + k) 0))) t) s

/-- An extended multiblock of link `k` for entry `id`. -/
def State.feedLink (s : State) (k : Fin 8) (ok : Bool) (frames : List (List Word)) (id : BitVec 12) : State :=
  match s.stream? id with
  | none => s
  | some e =>
    let x := s.rxLinks[k]
    let s := s.modStream id (fun y => y.bad ok)
    let start := (decide (e.mksrc = 0) && decide (e.mkdiv ≠ 0) && decide (x.lemc % e.mkdiv = 0)) || (decide (e.mksrc = 2) && e.trig)
    let s := if start then s.marker id else if e.mksrc = 1 ∧ e.inFrame = false then s.frameStart id else s
    let s := s.modStream id (fun y => y.bad ok)
    frames.foldl (fun t f => t.feedFrame id x ok f) s

/-- JESD_MULTIBLOCK_RX: an extended multiblock of a link passes, which counts from the SYSREF alignment on; a link with every lane aligned
releases it (R210). -/
def execJesdMultiblockRx (link : Fin 8) (crcOk : Bool) (frames : List (List Word)) (s : State) : Out :=
  let x := s.rxLinks[link]
  let ls := s.rxLanes link
  if !x.en || !x.lemcOk || ls.isEmpty then .next s
  else if !ls.all (fun l => (s.lanes[l]).aligned) then .next { s with rxLinks := vset s.rxLinks link { x with lemc := x.lemc + 1 } }
  else
    let s := if crcOk then s else ls.foldl (fun t l => t.modLane l (fun y => { y with errCnt := satInc y.errCnt })) s
    let s := (s.linkStreams link).foldl (fun t id => t.feedLink link crcOk frames id) s
    .next { s with rxLinks := vset s.rxLinks link { s.rxLinks[link] with lemc := x.lemc + 1 } }

/-! ### The stream port (spec/15 R356, R357) -/

/-- The stream port takes beats and triggers of the fabric: a configuration that enables it is loaded and released (spec/15 R363, R365). -/
def State.portOpen (s : State) : Bool := s.shore.bits.any (fun b => b.portEn) && !s.shore.gsr

/-- The words of a beat: W1 without W0 stands for W0 (spec/15 Table 15.3). -/
def beatWords (b : Beat) : List Word := [b.w0, b.w1].filterMap id

/-- A beat for entry `id`: number `n`, the marks of its first word. Under count markers a frame that a gap has voided is followed by one
that starts with this word. (DESIGN CHOICE, log 104) -/
def State.feedBeat (s : State) (n : BitVec 16) (marks : Byte) (words : List Word) (id : BitVec 12) : State :=
  match s.stream? id with
  | none => s
  | some e =>
    let s := if e.seq = n then s else s.frameEnd id (some 1)
    let s := s.modStream id (fun x => { x with seq := n + 1 })
    let s := if decide (e.mksrc = 2) && marks.getLsbD e.trigNo then s.marker id
      else if e.mksrc = 1 ∧ ((s.stream? id).any (fun x => !x.inFrame)) then s.frameStart id else s
    words.foldl (fun t w => t.feedItem id w) s

/-- STREAM_PORT_BEAT: the port numbers every beat with a word on channel `ch`; a sprue that is closed loses what the beat brings. -/
def execStreamPortBeat (ch : Fin 128) (beat : Beat) (s : State) : Out :=
  if !s.portOpen || beatWords beat = [] then .next s
  else
    let n := s.shore.portSeq[ch]
    let marks := s.shore.marks[ch]
    let s := { s with shore := { s.shore with portSeq := vset s.shore.portSeq ch (n + 1), marks := vset s.shore.marks ch 0 } }
    if s.domainOpen 312 then .next ((s.streamsOf 1 ch.val).foldl (fun t id => t.feedBeat n marks (beatWords beat) id) s) else .next s

/-- Trigger `k` rises: the next word of every channel is marked, and lane entries that it names start with the next frame
their link releases; trigger 7, the frame boundary, raises FBND (R210, R357). -/
def State.triggerRise (s : State) (k : Fin 8) : State :=
  { s with
    shore := { s.shore with marks := s.shore.marks.map (fun m => m ||| (1 <<< k.val)), fbnd := s.shore.fbnd || decide (k = 7) }
    sprue := { s.sprue with cache := s.sprue.cache.map (fun e =>
      if e.enabled && decide (e.src = 0) && decide (e.mksrc = 2) && decide (e.trigNo = k.val) then { e with trig := true } else e) } }

/-- TRIGGER_RISE: running fabric logic raises TRG0 to TRG6; trigger 7 is the frame boundary's. -/
def execTriggerRise (k : Fin 8) (s : State) : Out := if s.portOpen && decide (k.val < 7) then .next (s.triggerRise k) else .next s

/-! ### Fills (R208, R209, R211, R216) -/

/-- Write word `v` as fill `k` of its frame into bank `b` at the place of PE `x`, in the odd twin of a vital pair as well; the packet, and
its copy, enter their lagoons (spec/13 R324). -/
def State.putLadle (s : State) (x : Nat) (b : Bool) (k : Nat) (v : Word) : State :=
  let (a, p, i) := peSplit x
  let put (t : State) (a' : Arch) (odd : Bool) : State :=
    ((t.lagoonIn a' 21 4).modIsl (t.islAt a' p) (fun y => { y with ladle := y.ladle.putWord b i k v odd })).mirror a'
  let s := put s a (s.oddTwin a)
  if s.arch[a].seq.part.twin && decide (a.val % 2 = 0) then put s (ix 8 (a.val + 1)) true else s

/-- The island at position `p` of archipelago `a` and its archipelago let a fill in (spec/13 R317). -/
def State.fillOpen (s : State) (a : Arch) (p : Fin 32) : Bool := s.domainOpen (264 + a.val) && s.domainOpen (s.islAt a p).val

/-- Move waiting words of a ladle entry into freed banks, in order; a fence drops the packet (spec/13 R314). -/
def State.fillLadles (s : State) (id : BitVec 12) : Nat → State
  | 0 => s
  | n + 1 =>
    match s.stream? id with
    | some e =>
      (match e.waiting with
       | [] => s
       | w :: rest =>
         let x := e.dstpe + w.field.val * e.fstride + w.idx % e.dstN
         if s.bankFree e w.fill x then
           let (a, p, _) := peSplit x
           let (comes, t) := s.sendPosted (fillHeader s.parity a (s.arch[a].islmap[p]).toNat id (e.bankOfFill w.fill))
           let t := if !comes then t
             else if s.fillOpen a p then t.putLadle x (e.bankOfFill w.fill) (w.idx / e.dstN) w.word else t.dropPosted 21
           (t.modStream id (fun y => { y with waiting := rest })).fillLadles id n
         else s)
    | none => s

/-- Move waiting words of a harbour entry to its ring (R208): a fault pauses the entry, a refused write is dropped. -/
def State.fillHarbour (s : State) (id : BitVec 12) : Nat → State
  | 0 => s
  | n + 1 =>
    match s.stream? id with
    | some e =>
      (match e.waiting with
       | [] => s
       | w :: rest =>
         let frame := (e.deint + 1) * e.total * 4
         let va := BitVec.ofNat 32 (e.hva + w.frame % (max 1 e.hring) * frame + (w.field.val * e.total + w.idx) * 4)
         match s.xlate 21 (ix 16 e.xctx) va true with
         | (.wait, t) => t
         | (.fault _, t) => (t.modStream id (fun y => { y with status := 4 })).event .sprueReport (bytesLE 2 id.toNat)
         | (.ok pa, t) =>
           let t := t.modStream id (fun y => { y with waiting := rest })
           let (comes, t) := t.sendPosted (pwrHeader t.parity 21 4 pa)
           if !comes then t.fillHarbour id n
           else if areaOf pa = .harbour then
             match t.harbourAccess false (.write (bytesLE 4 w.word.toNat)) pa with
             | (.ok, _, u) => u.fillHarbour id n
             | (_, _, u) => (u.dropPosted 21).fillHarbour id n
           else (t.dropPosted 21).fillHarbour id n)
    | none => s

/-- LADLE_FILL. A paused entry moves nothing (R216), nor does a fenced sprue (spec/13 R317). -/
def execLadleFill (entry : BitVec 12) (s : State) : Out :=
  match s.stream? entry with
  | none => .next s
  | some e =>
    if e.status = 4 ∨ s.domainOpen 312 = false then .next s
    else if e.dsth then .next (s.fillHarbour entry e.waiting.length)
    else .next (s.fillLadles entry e.waiting.length)

/-! ### Entries (R204, R205) -/

/-- An entry as it is cached, from its ten configuration words. -/
def Stream.fresh (id : BitVec 12) (cfg : Vector Word 10) : Stream :=
  { id := id, cfg := cfg, enabled := false, seq := 0, voidCnt := 0, lastFrame := 0, status := 0, last := 0, voidLast := false, tstamp := 0
    inFrame := false, item := 0, got := Vector.replicate 4 0, put := Vector.replicate 4 0, decSum := Vector.replicate 4 0, decCnt := Vector.replicate 4 0
    fillBase := 0, frames := 0, waiting := [], dropping := false, dropped := false, crcBad := false, trig := false }

/-- The words of an entry from its first 40 bytes. -/
def cfgOf (bs : List Byte) : Vector Word 10 := Vector.ofFn (fun i => BitVec.ofNat 32 (natAt bs (4 * i.val) 4))

/-- The configuration of entry `id`: the cached copy, else read from harbour; none where it cannot be read. -/
def State.entryCfg (s : State) (id : BitVec 12) : Option (Vector Word 10) × State :=
  match s.stream? id, s.entryOff id with
  | some e, _ => (some e.cfg, s)
  | none, none => (none, s)
  | none, some off =>
    match s.access { src := 21, tag := 0, user := false, op := .read 64, addr := BitVec.ofNat 40 (0x20000000 + off) } with
    | (some (.ok, bs), t) => (some (cfgOf bs), t)
    | (_, t) => (none, t)

/-- Put an entry into the cache as the most recently used, replacing the least recently used disabled one of 64 (R205). -/
def Sprue.put (p : Sprue) (e : Stream) : Sprue :=
  let rest := p.cache.filter (fun x => decide (x.id ≠ e.id))
  let keep := if rest.length < 64 then rest
    else match rest.reverse.find? (fun x => !x.enabled) with
      | some v => rest.filter (fun x => decide (x.id ≠ v.id))
      | none => rest
  { p with cache := e :: keep }

/-- Entry `id` becomes the most recently used (R205). -/
def Sprue.touch (p : Sprue) (id : BitVec 12) : Sprue :=
  { p with cache := p.cache.filter (fun e => decide (e.id = id)) ++ p.cache.filter (fun e => decide (e.id ≠ id)) }

/-- Write the EN bit of entry `id` into harbour. -/
def State.putEntryWord0 (s : State) (id : BitVec 12) (w : Word) : State :=
  match s.entryOff id with
  | some off => s.tablePut off (bytesLE 4 w.toNat ++ rdBytes 0 s.harbour.mem (off + 4) 4)
  | none => s

/-- Enable entry `id` with configuration `cfg` (R202, R205): the kept fields start, a shore channel's number is the port's. -/
def State.enableStream (s : State) (id : BitVec 12) (cfg : Vector Word 10) : State :=
  let cfg := vmod cfg 0 (fun w => w ||| 0x1000)
  let e0 := Stream.fresh id cfg
  let e : Stream := { e0 with enabled := true, seq := if e0.src = 1 then s.shore.portSeq[ix 128 e0.srcsel] else 0 }
  let t : State := State.putEntryWord0 { s with sprue := s.sprue.put e } id (cfg[0])
  if e.mksrc = 1 then t.frameStart id else t

/-- Disable entry `id`: its frame is void with GAP, the kept bytes are written back (R213, Table 8.10). Until then it was in use, so it is
the most recently used one (R205). -/
def State.disableStream (s : State) (id : BitVec 12) : State :=
  match s.stream? id with
  | none => s
  | some e =>
    if !e.enabled then s
    else
      let w := e.cfg[0] &&& 0xFFFFEFFF
      let s := s.frameEnd id (some 1)
      let s := s.modStream id (fun x => { x with enabled := false, cfg := vset x.cfg 0 w })
      let s : State := { s with sprue := s.sprue.touch id }
      (s.putEntryWord0 id w).writeBack id

/-- Every entry is disabled (SAFE STOP). -/
def State.disableAllStreams (s : State) : State :=
  ((s.sprue.cache.filter (fun e => e.enabled)).map (fun e => e.id)).foldl State.disableStream s

/-- Why an access to the SPRUE registers is refused. -/
def State.domGate (s : State) (acc : Acc) (d : Nat) : Option Status :=
  if !accReachesRegs acc then some .denied else if !s.domainOpen d then some .domainOff else none

/-- Run an action at a block of domain `d`. -/
def State.domAction (s : State) (acc : Acc) (d : Nat) (f : State → Status × State) : State :=
  let s := s.enters (accReachesRegs acc) acc 4
  match s.domGate acc d with
  | some st => s.answer acc st []
  | none => let (st, t) := f s; t.answer acc st []

/-- RESUME of SCTL: a paused entry goes on; where data were dropped the frame in flight is void and delivery resumes at the next
marker (R216). -/
def State.resumeStream (s : State) (id : BitVec 12) : State :=
  match s.stream? id with
  | none => s
  | some e =>
    if e.status ≠ 4 then s
    else
      let t := s.modStream id (fun x => { x with status := x.last, dropping := false, dropped := false })
      if e.dropping then t.frameEnd id (some 2) else t

/-- INVAL of SCTL: the cached copy of a disabled entry is dropped (R205). -/
def State.invalStream (s : State) (id : BitVec 12) : State :=
  { s with sprue := { s.sprue with cache := s.sprue.cache.filter (fun e => e.enabled || decide (e.id ≠ id)) } }

/-- SCTL_RESUME. -/
def execSctlResume (acc : Acc) (id : BitVec 16) (s : State) : Out :=
  .next (s.domAction acc 312 (fun t => (.ok, t.resumeStream (fld id 0 12))))

/-- SCTL_INVAL. -/
def execSctlInval (acc : Acc) (id : BitVec 16) (s : State) : Out :=
  .next (s.domAction acc 312 (fun t => (.ok, t.invalStream (fld id 0 12))))

end Sys2Proof.Machine
end

