-- ==== Sys2Proof/Machine/Riser.lean ====
section
/-! DEFINITION. Machine/Riser.lean: the drain of word groups to harbour, JESD204C transmit, Ethernet and the sprue's loop-back,
and received Ethernet frames (spec/08 R195, R217 to R223). -/

namespace Sys2Proof.Machine

/-- Word j of a drained group: the bits of its B plane-outs, logical zero above (R217). -/
def State.groupWord (s : State) (a : Arch) (bank : Bool) (x : RCtx) (j : Nat) : Word :=
  let k := x.pestart + j
  let (_, p, i) := peSplit k
  let l := (s.isl[s.islAt a p]).ladle
  let odd := s.oddTwin a
  bvOf 32 (fun b => if b < x.planesB then ((if bank then l.out1 else l.out0)[ix 32 b]).getLsbD i else odd)

/-- The words of a drained group. -/
def State.groupWords (s : State) (a : Arch) (bank : Bool) (x : RCtx) : List Word :=
  (List.range x.peN).map (s.groupWord a bank x)

/-- How a group ends: delivered, lost to its destination, or waiting for a walk. -/
inductive GroupEnd where
  | delivered | lost | wait
deriving DecidableEq, Repr

/-- The pages a harbour group touches, translated: every one before a word is written. -/
def State.groupPages (s : State) (x : RCtx) (va : Nat) : Nat → GroupEnd × State
  | 0 => (.delivered, s)
  | k + 1 =>
    match s.groupPages x va k with
    | (.delivered, t) =>
      let a := va + 4 * k
      if k = 0 ∨ a % 4096 < 4 then
        match t.xlate 22 (ix 16 x.xctx) (BitVec.ofNat 32 a) true with
        | (.ok pa, u) => (if areaOf pa = .harbour then .delivered else .lost, u)
        | (.fault _, u) => (.lost, u)
        | (.wait, u) => (.wait, u)
      else (.delivered, t)
    | r => r

/-- Write a group's words to harbour, stopping at the first one not answered OK (R219). -/
def State.groupStore (s : State) (c : Fin 16) (x : RCtx) (va : Nat) : List Word → GroupEnd × State
  | [] => (.delivered, s)
  | w :: ws =>
    match s.xlate 22 (ix 16 x.xctx) (BitVec.ofNat 32 va) true with
    | (.ok pa, t) =>
      let (comes, t) := t.sendPosted (pwrHeader t.parity 22 4 pa)
      if !comes then t.groupStore c x (va + 4) ws
      else
      (match t.harbourAccess (t.vital.par.vriser.contains c) (.write (bytesLE 4 w.toNat)) pa with
       | (.ok, _, u) => u.groupStore c x (va + 4) ws
       | (_, _, u) => (.lost, u.dropPosted 22))
    | (.fault _, t) => (.lost, t)
    | (.wait, t) => (.wait, t)

/-- Bytes of one sample in a transmit link's container. (DEDUCED, log 62) -/
def JLink.sampleBytes (k : JLink) : Nat := if k.cfg0.getLsbD 14 then 3 else 2
/-- Converters of a link. -/
def JLink.convs (k : JLink) : Nat := (fld k.cfg0 8 4 : BitVec 4).toNat + 1

/-- Words of group `g` of context `c` enter the half of link `k` that is not playing, from converter CONV on, up to 32 KiB; the
first group of a ring cycle replaces what the context wrote there before, the last one completes the half (R220). -/
def State.groupTx (s : State) (c : Fin 16) (x : RCtx) (g : Nat) (ws : List Word) : State :=
  let k : Fin 4 := ix 4 (fld x.rc2 0 2 : BitVec 2).toNat
  let conv := (fld x.rc2 2 4 : BitVec 4).toNat
  let link := s.txLinks[k]
  let r := s.riser.replay[k]
  let half1 := match r.playing with | some b => !b | none => false
  let first := decide (g % x.groupsG = 0)
  let held := if half1 then r.half1 else r.half0
  let old := if first then held.filter (fun w => decide (w.ctx ≠ c)) else held
  let put : List TxWord := (ws.zipIdx).map (fun wi => { ctx := c, conv := BitVec.ofNat 4 ((conv + wi.2) % link.convs), word := wi.1 })
  let new := (old ++ put).take (32768 / link.sampleBytes)
  let last := decide ((g + 1) % x.groupsG = 0)
  let r' : Replay := { (if half1 then { r with half1 := new } else { r with half0 := new }) with filled := r.filled || last }
  { s with riser := { s.riser with replay := vset s.riser.replay k r' } }

/-- The lane that carries result datagrams: the lowest-numbered one in the 10GBASE-R role. -/
def State.ethLane (s : State) : Option (Fin 16) := (List.finRange 16).find? (fun l => decide ((s.lanes[l]).role = 4))

/-- A result datagram (R223). -/
def State.groupEth (s : State) (c : Fin 16) (x : RCtx) (g : Nat) (ws : List Word) : State :=
  let hdr : List Byte := bytesLE 2 0x5253 ++ [BitVec.ofNat 8 c.val, 0] ++ bytesLE 4 g ++ bytesLE 4 x.restarts.toNat ++ bytesLE 4 ws.length
  let out : EthOut := .result (ix 8 (fld x.rc2 0 3 : BitVec 3).toNat) (hdr ++ ws.flatMap (fun w => bytesLE 4 w.toNat))
  match s.ethLane with
  | some l => { s with ethTx := s.ethTx ++ [(l, out)] }
  | none => s

/-- Words posted one packet each under header `h`: those that reach their target (spec/13 R305). -/
def State.posts (s : State) (h : BitVec 128) : List Word → State × List Word
  | [] => (s, [])
  | w :: ws =>
    let (comes, t) := s.sendPosted h
    let (u, vs) := t.posts h ws
    (u, if comes then w :: vs else vs)

/-- Words for the loop-back streams of context `c`; a fenced sprue drops them (spec/13 R314). (DESIGN CHOICE, log 53) -/
def State.groupLoop (s : State) (c : Fin 16) (ws : List Word) : State :=
  let (s, ws) := s.posts (loopHeader s.parity (((s.streamsOf 2 c.val).head?).getD 0)) ws
  if !s.domainOpen 312 then s.dropsPosted 22 ws.length
  else
  (s.streamsOf 2 c.val).foldl (fun t id =>
    let t := t.modStream id (fun e => { e with seq := e.seq + 1 })
    let t := if (t.stream? id).any (fun e => decide (e.mksrc = 1) && !e.inFrame) then t.frameStart id else t
    ws.foldl (fun u w => u.feedItem id w) t) s

/-- Take the group `d` from an out bank of `a` to its destination, as its context stood when it was formed (R219). -/
def State.groupOut (s : State) (a : Arch) (bank : Bool) (d : Drain) : GroupEnd × State :=
  let c := d.ctx
  let g := d.group
  let x : RCtx := { s.riser.ctx[c] with rc0 := d.rc0, rc1 := d.rc1, rc2 := d.rc2 }
  let ws := s.groupWords a bank x
  if s.net.lost[ix 32 (24 + a.val)] ≠ 0 then (.lost, s.useLost (ix 32 (24 + a.val))) else
  match x.dest with
  | 0 =>
    let va := x.rc2.toNat + 4 * (g * x.peN)
    (match s.groupPages x va x.peN with
     | (.delivered, t) => t.groupStore c x va ws
     | r => r)
  | 1 => (.delivered, s.groupTx c x g ws)
  | 2 => (.delivered, s.groupEth c x g ws)
  | _ => (.delivered, s.groupLoop c ws)

/-- A group of context `c` has left its out bank: the marker of a restart that waited for it follows (R219). -/
def State.afterDrain (s : State) (c : Fin 16) : State :=
  let x := s.riser.ctx[c]
  let s := { s with riser := { s.riser with ctx := vmod s.riser.ctx c (fun y => { y with markAfter := y.markAfter - 1 }) } }
  if x.markAfter = 1 then s.loopMark c else s

/-- RISER_OUTBANK_DRAIN: the older completed group of archipelago `a` drains (R222). A context disabled since then still has
its formed words delivered (Table 8.10). The packets of the drain carry the archipelago's SRCID (spec/13 R312):
a fenced archipelago sends none, and a fenced riser drops them, counted under it (R317). (DESIGN CHOICE, log 53) -/
def execRiserOutbankDrain (a : Arch) (s : State) : Out :=
  let r := s.arch[a].ring
  let bank : Bool := if r.bank then r.drain1.isSome else r.drain0.isNone
  match (if bank then r.drain1 else r.drain0) with
  | none => .next s
  | some d =>
    let words := ({ s.riser.ctx[d.ctx] with rc1 := d.rc1 } : RCtx).peN
    let free (t : State) : State :=
      (t.modRing a (fun q => if bank then { q with drain1 := none } else { q with drain0 := none })).counts (ix 32 (24 + a.val)) words (4 * words)
    if s.pwr.fence.getLsbD (264 + a.val) then .next s
    else if !s.domainOpen 313 then .next (((free s).dropsPosted (ix 32 (24 + a.val)) words).afterDrain d.ctx)
    else match s.groupOut a bank d with
    | (.wait, t) => .next t
    | (.delivered, t) =>
      let t := { t with riser := { t.riser with ctx := vmod t.riser.ctx d.ctx (fun y => { y with groups := y.groups + 1 }) } }
      .next ((free t).afterDrain d.ctx)
    | (.lost, t) => .next (((free t).groupLost d.ctx).afterDrain d.ctx)

/-! ### The transmitters (R181, R220) -/

/-- What a lane's transmitter drives (spec/07 Table 7.1). -/
inductive LaneDrive where
  | noSignal | idle | on
deriving DecidableEq, Repr

/-- The transmitter of lane `l` (Table 7.1): no signal where the device or the lane is off, electrical idle in reset, boot, ebb and, but
for 10GBASE-R and strait lanes, SAFE STOP. -/
def State.laneDrive (s : State) (l : Fin 16) : LaneDrive :=
  let role := (s.lanes[l]).role
  match s.mode with
  | .off => .noSignal
  | .boot | .ebb => .idle
  | m =>
    if !s.domainOpen (272 + l.val) then .noSignal
    else if m = .safeStop ∧ role ≠ 4 ∧ role ≠ 5 then .idle
    else if role = 0 then .noSignal
    else .on

/-- Lane `l` of an enabled transmit link sends samples: of a link that SENTINEL keeps in part, its kept lanes do (R181). -/
def State.laneSends (s : State) (l : Fin 16) : Bool :=
  s.mode.sendsJesd && (s.lanes[l]).jtx && (s.txLinks[ix 4 (s.lanes[l]).txLink]).en && decide (s.laneDrive l = .on)

/-- Transmit link `k` sends on some lane. -/
def State.txOn (s : State) (k : Fin 4) : Bool := (s.txLanes k).any s.laneSends

/-- A word of a replay half as a sample in the link's N' (R220): the N' low bits of the word. (DEDUCED, log 62) -/
def JLink.sample (k : JLink) (w : Word) : Word := if k.cfg0.getLsbD 14 then w &&& 0xFFFFFF else w &&& 0xFFFF

/-- The samples link `k` transmits, cyclically: those of its playing half, none while it is off. Each of its lanes that sends carries its
octets of them. -/
def State.txSamples (s : State) (k : Fin 4) : List (BitVec 4 × Word) :=
  let r := s.riser.replay[k]
  let words := match r.playing with | none => [] | some true => r.half1 | some false => r.half0
  if s.txOn k then words.map (fun w => (w.conv, (s.txLinks[k]).sample w.word)) else []

/-- REPLAY_HALF_SWITCH: a filled half starts playing at a SYSREF-aligned boundary, and the riser fills the other, empty at first
(R220). -/
def execReplayHalfSwitch (link : Fin 4) (s : State) : Out :=
  let r := s.riser.replay[link]
  if r.filled && (s.txLinks[link]).lemcOk && s.mode.sendsJesd then
    let half1 := match r.playing with | some b => !b | none => false
    let r' : Replay := { (if half1 then { r with half0 := [] } else { r with half1 := [] }) with playing := some half1, filled := false }
    .next { s with riser := { s.riser with replay := vset s.riser.replay link r' } }
  else .next s

/-! ### Received Ethernet frames (R195) -/

/-- Big-endian 16-bit number at offset `o`. -/
def be16 (f : List Byte) (o : Nat) : Nat := (f.getD o 0).toNat * 256 + (f.getD (o + 1) 0).toNat

/-- `n` bytes at offset `o`. -/
def slice (f : List Byte) (o n : Nat) : List Byte := (f.drop o).take n

/-- What a lane does with a frame. -/
inductive EthIn where
  | drop | pass | send (out : EthOut)
deriving DecidableEq, Repr

/-- The header of an IPv6 packet's upper layer behind extension headers, from header type `nh` at offset `o`: none for a fragment. -/
def ipv6Upper (f : List Byte) : Nat → Nat → Nat → Option (Nat × Nat)
  | 0, nh, o => some (nh, o)
  | k + 1, nh, o =>
    if nh = 44 then none
    else if nh = 0 ∨ nh = 43 ∨ nh = 60 then ipv6Upper f k (f.getD o 0).toNat (o + 8 * ((f.getD (o + 1) 0).toNat + 1))
    else some (nh, o)

/-- The answer of a lane with network object `net` to a frame with a good FCS: at most one IEEE 802.1Q tag; pause frames and
IP fragments are dropped; ARP, ICMP echo and IPv6 neighbour discovery for the own address are answered; the datagrams of Vevis
pass to it, whose commands arrive as commands of their own. (PRESUMED, log 61) -/
def ethAnswer (net f : List Byte) : EthIn :=
  let tagged := decide (be16 f 12 = 0x8100)
  let o := if tagged then 18 else 14
  let ty := be16 f (o - 2)
  let mac := slice f 6 6
  let ver := (net.getD 8 0).toNat
  let own4 := slice net 16 4
  let own6 := slice net 16 16
  if tagged && decide (ty = 0x8100) then .drop
  else if ty = 0x8808 then .drop
  else if ty = 0x0806 then
    if ver = 4 ∧ be16 f (o + 6) = 1 ∧ slice f (o + 24) 4 = own4 then .send (.arp mac (slice f (o + 14) 4)) else .pass
  else if ty = 0x0800 then
    let ihl := ((f.getD o 0).toNat % 16) * 4
    if be16 f (o + 6) % 0x4000 ≠ 0 then .drop
    else if ver = 4 ∧ f.getD (o + 9) 0 = 1 ∧ slice f (o + 16) 4 = own4 ∧ f.getD (o + ihl) 0 = 8 then
      .send (.echo mac (slice f (o + 12) 4) (slice f (o + ihl + 4) (be16 f (o + 2) - ihl - 4)))
    else .pass
  else if ty = 0x86DD then
    match ipv6Upper f 190 (f.getD (o + 6) 0).toNat (o + 40) with
    | none => .drop
    | some (nh, u) =>
      if ver = 6 ∧ nh = 58 ∧ f.getD u 0 = 135 ∧ slice f (u + 8) 16 = own6 then .send (.neighbour mac (slice f (o + 8) 16))
      else if ver = 6 ∧ nh = 58 ∧ f.getD u 0 = 128 ∧ slice f (o + 24) 16 = own6 then
        .send (.echo mac (slice f (o + 8) 16) (slice f (u + 4) (be16 f (o + 4) + (o + 40) - u - 4)))
      else .pass
  else .pass

/-- ETH_FRAME_RX: a lane in the 10GBASE-R role whose link is up receives a frame. -/
def execEthFrameRx (l : Fin 16) (frame : List Byte) (fcsOk : Bool) (s : State) : Out :=
  let x := s.lanes[l]
  if x.role ≠ 4 ∨ x.up = false then .next s
  else
    let dropped := s.modLane l (fun y => { y with ethDrop := y.ethDrop + 1 })
    if !fcsOk || decide (1522 < frame.length) then .next dropped
    else match ethAnswer (s.holm.netObj[l]) frame with
      | .drop => .next dropped
      | .pass => .next s
      | .send out => .next { s with ethTx := s.ethTx ++ [(l, out)] }

/-- ETHERNET_LINK_UP: a lane in the 10GBASE-R role gains block lock (R192). -/
def execEthernetLinkUp (l : Fin 16) (s : State) : Out :=
  if (s.lanes[l]).role = 4 then .next (s.modLane l (fun y => { y with lock := true, up := true })) else .next s

end Sys2Proof.Machine
end

