-- ==== Sys2Proof/Machine/Strait.lean ====
section
/-! DEFINITION. Machine/Strait.lean: the strait links: delivery, edge planes, lattice reductions, assays, heartbeats, and links
going up and down (spec/08 R196 to R201, spec/04 R119, spec/06 R168). -/

namespace Sys2Proof.Machine

/-! ### Messages on the wire (R196) -/

/-- Type code of a message (Table 8.7). -/
def bodyType : StraitBody → Nat
  | .edge _ _ _ => 1 | .red _ _ _ _ => 2 | .assay _ _ => 3 | .hb _ => 4 | .bar _ => 5 | .ack => 6

/-- The data bytes of a message, whole blocks of 8 (Table 8.7). -/
def bodyBytes : StraitBody → List Byte
  | .edge cycle side plane => bytesLE 4 cycle.toNat ++ [BitVec.ofNat 8 side.val, 0, 0, 0] ++ bytesLE 32 plane.toNat
  | .red orv cnt m hops =>
    [if orv then 1 else 0, 0] ++ bytesLE 3 cnt.toNat ++ [BitVec.ofNat 8 m.val, hops, 0]
  | .assay f a => bytesLE 8 f.toNat ++ a
  | .hb b =>
    bytesLE 8 b.f.toNat ++ bytesLE 4 b.us.toNat ++ [b.mode] ++
    [BitVec.ofNat 8 (b.win.toNat + (if b.degr then 4 else 0) + (if b.running then 8 else 0))] ++ bytesLE 2 b.latbar.toNat ++ bytesLE 8 b.election.toNat
  | .bar n => bytesLE 2 n.toNat ++ List.replicate 6 0
  | .ack => []

/-- Bytes 1 to 7 of the start block (Table 8.6). -/
def startBytes (body : StraitBody) (seq ack : BitVec 16) (credits : BitVec 7) (nak : Bool) : List Byte :=
  [BitVec.ofNat 8 (bodyType body)] ++ bytesLE 2 seq.toNat ++ bytesLE 2 ack.toNat ++ [credits.setWidth 8, if nak then 1 else 0]

/-- The CRC-32C of the message with header `h`: over start-block bytes 1 to 7 and every data byte (Table 8.6). -/
def msgCrc (h : StraitHdr) (body : StraitBody) : Word :=
  crc32c (startBytes body h.seq h.ack h.credits h.nak ++ bodyBytes body)

/-- The end block's CRC matches. -/
def msgGood (h : StraitHdr) (body : StraitBody) : Bool := decide (h.crc = msgCrc h body)

/-- A block of 64b/66b: its sync header and eight bytes. -/
structure WireBlock where
  sync : BitVec 2
  bytes : List Byte
deriving DecidableEq, Repr

/-- The block that fills gaps between messages. -/
def WireBlock.idle : WireBlock := { sync := 2, bytes := 0x1E :: List.replicate 7 0 }

/-- Data bytes as blocks of eight. -/
def dataBlocks : Nat → List Byte → List WireBlock
  | 0, _ => []
  | k + 1, bs => if bs.isEmpty then [] else { sync := 1, bytes := bs.take 8 } :: dataBlocks k (bs.drop 8)

/-- The blocks of a message sent: start, data, end (Table 8.6). -/
def StraitSent.blocks (m : StraitSent) : List WireBlock :=
  let start := startBytes m.body m.seq m.ack m.credits m.nak
  let data := bodyBytes m.body
  [{ sync := 2, bytes := 0xB4 :: start }] ++ dataBlocks 9 data ++
  [{ sync := 2, bytes := [0xE1] ++ bytesLE 4 (crc32c (start ++ data)).toNat ++ [0, 0, 0] }]

/-- What a link's transmitter has to send, before scrambling. -/
def Strait.wire (x : Strait) : List WireBlock := x.outbox.flatMap StraitSent.blocks

/-! ### Delivery -/

/-- Number of a strait link: lane 14 is 0, lane 15 is 1. -/
def linkNo (lane : Bool) : Fin 2 := if lane then 1 else 0

/-- Its lane. -/
def linkLane (lane : Bool) : Fin 16 := if lane then 15 else 14

/-- The lane has the strait role and is powered. -/
def State.straitOn (s : State) (lane : Bool) : Bool :=
  decide ((s.lanes[linkLane lane]).role = 5) && s.domainOpen (272 + (linkLane lane).val)

/-- Apply `f` to a strait link. -/
def State.modStrait (s : State) (lane : Bool) (f : Strait → Strait) : State :=
  { s with straits := vmod s.straits (linkNo lane) f }

/-- An ACK message with NAK set, as the discard of a message sends it (R197). -/
def Strait.sendNak (x : Strait) : Strait :=
  if x.nakTx then x
  else
    let m : StraitSent := { seq := x.sendSeq, nak := true, ack := x.recvSeq, credits := BitVec.ofNat 7 x.owed, body := .ack }
    { x with sendSeq := x.sendSeq + 1, outbox := x.outbox ++ [m], owed := 0, nakTx := true
             replay := (x.replay ++ [m]).drop (x.replay.length + 1 - 128) }

/-- Take the delivery fields of a message received in order: its number, credits and NAK. (DEDUCED, log 63) -/
def Strait.accept (x : Strait) (h : StraitHdr) : Strait :=
  { x with recvSeq := h.seq, nakTx := false, credits := min 64 (x.credits + h.credits.toNat)
           nakRx := if h.nak then some h.ack else x.nakRx }

/-- The message brings a link back that is down: its first heartbeat, from which the numbers count on (R201: nothing from before the
loss is replayed). (DEDUCED, log 63) -/
def Strait.starts (x : Strait) (body : StraitBody) : Bool :=
  !x.up && decide (x.hbValid = 0) && decide (bodyType body = 4)

/-- Deliver a message to its user `f` when it is good and in order; discard it and ask for a replay when its CRC fails or
messages before it are missing; discard a copy of one already delivered (R197). -/
def State.deliver (s : State) (lane : Bool) (h : StraitHdr) (body : StraitBody) (f : State → State) : State :=
  let x := s.straits[linkNo lane]
  if !s.straitOn lane then s
  else if !msgGood h body then
    (s.modStrait lane Strait.sendNak).modLane (linkLane lane) (fun y => { y with errCnt := satInc y.errCnt })
  else if h.seq = x.recvSeq + 1 || x.starts body then f (s.modStrait lane (fun y => y.accept h))
  else if (h.seq - x.recvSeq).toNat = 0 ∨ 0x8000 ≤ (h.seq - x.recvSeq).toNat then s
  else s.modStrait lane Strait.sendNak

/-- EDGE: the plane waits for the microword that consumes it, at most 64 a side (R198, R119). -/
def execEdge (lane : Bool) (h : StraitHdr) (cycle : Word) (side : Fin 4) (plane : PeVec) (s : State) : Out :=
  .next (s.deliver lane h (.edge cycle side plane) (fun t =>
    if t.neighbour side = some lane && t.latLink lane then
      t.modStrait lane (fun x => if x.edgeRx.length < 64 then { x with edgeRx := x.edgeRx ++ [(cycle, plane)] } else x)
    else t))

/-- A RED of member `m`: the first copy of each result is taken, and one that has not been relayed goes onto the other link
(R199). -/
def State.redIn (s : State) (lane : Bool) (orv : Bool) (cnt : BitVec 19) (m : Fin 4) (hops : Byte) : State :=
  let seen := (s.straits[linkNo lane]).redSeen[m] + 1
  let s := s.modStrait lane (fun x => { x with redSeen := vset x.redSeen m seen })
  let s := if hops = 0 && s.latLanes.contains (!lane) then s.modStrait (!lane) (fun x => x.send (.red orv cnt m 1)) else s
  if s.lattice.redTaken[m] < seen then
    State.latCombine { s with lattice := { s.lattice with
      redTaken := vset s.lattice.redTaken m seen
      redRx := vmod s.lattice.redRx m (fun l => l ++ [(orv, cnt)]) } }
  else s

/-- RED. (DEDUCED, log 16) -/
def execRed (lane : Bool) (h : StraitHdr) (orv : Bool) (cnt : BitVec 19) (member : Fin 4) (hops : Byte) (s : State) : Out :=
  .next (s.deliver lane h (.red orv cnt member hops) (fun t => if t.latLanes.contains lane && t.latLink lane then t.redIn lane orv cnt member hops else t))

/-- Assays are exchanged on the lane (PARTNER, spec/06 Table 6.5). -/
def State.partnerLane (s : State) (lane : Bool) : Bool := s.vital.par.partner.getLsbD (linkNo lane).val

/-- ASSAY: kept for the judgement at the next boundary (spec/06 R168). Assays on a link that is down are missing (R201). -/
def execAssay (lane : Bool) (h : StraitHdr) (f : BitVec 64) (assay : List Byte) (s : State) : Out :=
  .next (s.deliver lane h (.assay f assay) (fun t =>
    if t.partnerLane lane && (t.straits[linkNo lane]).up then
      { t with vital := { t.vital with partnerRx := t.vital.partnerRx ++ [{ lane := lane, f := f, assay := assay }] } }
    else t))

/-- A time of the frame, in microseconds from its boundary, not before the latest time a command has told: free value `k`. -/
def Vital.someTime (v : Vital) (k : Nat) : Nat := v.now + (Config.freeWord k).toNat % (v.par.frameMs.toNat * 1000 - v.now + 1)

/-- The own boundary against the leader's, which comes in `us` microseconds: the present frame is lengthened by at most 1 µs toward it
(R200). How far off the own boundary is when the heartbeat arrives is a free value. -/
def State.slewTo (s : State) (us : Word) : State :=
  let own : Int := (s.vital.par.frameMs.toNat * 1000 : Nat) - (s.vital.someTime s.fresh : Nat)
  { s with
    fresh := s.fresh + 1
    vital := { s.vital with bndUs := some us, slew := max (-1) (min 1 ((us.toNat : Int) - own)) } }

/-- HB: the heartbeat is kept, the second one brings the link up, and within 200 µs of GUARD entry a partner whose frames run
gives the frame number and the next boundary; a follower keeps to its leader (R200, R201). When the partner's window has left OPEN
to the heartbeat that says so is a free value, not before the latest time that is known (spec/07 R179). -/
def State.heartbeat (s : State) (lane : Bool) (b : HbBody) : State :=
  let x := s.straits[linkNo lane]
  let n := x.hbValid + 1
  let left := x.hb.any (fun o => decide (o.win = 2)) && decide (b.win ≠ 2)
  let at' : Int := s.vital.someTime s.fresh
  let s := s.modStrait lane (fun x => { x with
    hb := some b, hbValid := n, up := x.up || decide (2 ≤ n), hbLeft := if left then some at' else x.hbLeft })
  let s : State := { s with fresh := if left then s.fresh + 1 else s.fresh }
  let s := s.modLane (linkLane lane) (fun y => { y with lock := true, up := y.up || decide (2 ≤ n) })
  if s.vital.hbWait && s.partnerLane lane && b.running then
    { s with vital := { s.vital with hbWait := false, nextF := b.f + 1, leader := some lane, bndUs := some b.us } }
  else if s.vital.leader = some lane && s.vital.running then s.slewTo b.us
  else s

/-- HB. -/
def execHb (lane : Bool) (h : StraitHdr) (b : HbBody) (s : State) : Out :=
  .next (s.deliver lane h (.hb b) (fun t => t.heartbeat lane b))

/-- BAR: a neighbour has reached a latbar (spec/04 R119). -/
def execBar (lane : Bool) (h : StraitHdr) (seq : BitVec 16) (s : State) : Out :=
  .next (s.deliver lane h (.bar seq) (fun t => if t.latLink lane then t.modStrait lane (fun x => { x with barRx := some seq }) else t))

/-- ACK: the delivery fields only. -/
def execAck (lane : Bool) (h : StraitHdr) (s : State) : Out := .next (s.deliver lane h .ack id)

/-- STRAIT_REPLAY: after a NAK every message behind the acknowledged one is sent again (R197). -/
def execStraitReplay (lane : Bool) (s : State) : Out :=
  .next (s.modStrait lane (fun x => match x.nakRx with
    | none => x
    | some a => { x with nakRx := none, outbox := x.outbox ++ x.replay.filter (fun m => decide (0 < (m.seq - a).toNat ∧ (m.seq - a).toNat < 0x8000)) }))

/-- The device sends heartbeats in its mode (spec/07 Table 7.1). -/
def Mode.beats (m : Mode) : Bool := decide (4 ≤ m.code)

/-- The window state as VSTAT.WIN codes it. -/
def Window.code : Window → Nat
  | .closed => 0 | .pending => 1 | .opened => 2

/-- The device's own heartbeat (R200). -/
def State.ownHb (s : State) (us : Nat) : HbBody :=
  { f := s.vital.f, us := BitVec.ofNat 32 us, mode := BitVec.ofNat 8 s.mode.code, win := BitVec.ofNat 2 s.vital.win.code
    degr := s.vital.degr, running := s.vital.running, latbar := ((s.present.head?).map (fun a => (s.arch[a]).seq.latSeq)).getD 0
    election := s.vital.election }

/-- HB_SEND: every configured strait link sends a heartbeat. -/
def execHbSend (usToBoundary : Nat) (s : State) : Out :=
  if s.mode.beats then
    .next (s.sendLanes ([false, true].filter s.straitOn) (.hb (s.ownHb usToBoundary)))
  else .next s

/-- A strait link goes down (R201): the report of R213 and an event; nothing from before is replayed, and the link serves no lattice
until a reset. -/
def State.straitDown (s : State) (lane : Bool) : State :=
  if !(s.straits[linkNo lane]).up then s.modStrait lane (fun x => { x with hbValid := 0 })
  else
    let s := s.modStrait lane (fun x => { x with
      up := false, hbValid := 0, cut := true, replay := [], outbox := [], nakRx := none, nakTx := false, edgeRx := [], barRx := none })
    let s := s.modLane (linkLane lane) (fun y => { y with up := false })
    (s.raiseAll 17).event .straitDown [BitVec.ofNat 8 (linkLane lane).val]

/-- A lane is disabled: the frames of its streams are void, it loses lock and alignment, and where it had a role it reports (R213). -/
def State.laneStop (s : State) (l : Fin 16) : State :=
  let y := s.lanes[l]
  let s := if y.jrx then s.voidLink (ix 8 y.rxLink) else s
  let s := if y.role = 5 ∧ 14 ≤ l.val then s.straitDown (decide (l.val = 15)) else s
  let s := s.modLane l (fun y => { y with up := false, sysrefOk := false, aligned := false, lock := false })
  if y.role = 0 ∨ y.role = 5 then s else s.laneReport l

/-- STRAIT_LINK_DOWN. -/
def execStraitLinkDown (lane : Bool) (s : State) : Out := .next (s.straitDown lane)

/-- A lane loses lock or alignment on sync-header or block errors, one at least; how many is a free value (Table 8.3 ERRCNT). -/
def State.lockErrors (s : State) (l : Fin 16) : State :=
  ({ s with fresh := s.fresh + 1 } : State).modLane l (fun y => { y with
    errCnt := BitVec.ofNat 16 (min 0xFFFF (y.errCnt.toNat + 1 + (Config.freeWord s.fresh).toNat % 0x10000)) })

/-- LANE_LINK_LOSS: a lane with a role loses block lock or alignment (R192, R213, Table 8.10). -/
def execLaneLinkLoss (l : Fin 16) (s : State) : Out :=
  let x := s.lanes[l]
  let s := if x.role = 0 then s else s.lockErrors l
  if x.role = 0 then .next s
  else if x.role = 5 then
    let lane := decide (l.val = 15)
    .next ((s.straitDown lane).modLane l (fun y => { y with lock := false, up := false }))
  else
    let s := s.modLane l (fun y => { y with lock := false, aligned := false, up := false })
    let s := if x.jrx then s.voidLink (ix 8 x.rxLink) else s
    .next (s.laneReport l)

/-- The partner this device follows where neither has frames running: one in GUARD with the higher election value (R200). -/
def State.elected (s : State) : Option Bool :=
  [false, true].find? (fun lane => s.partnerLane lane && (s.straits[linkNo lane]).hb.any (fun b =>
    !b.running && decide (b.mode = 8) && decide (s.vital.election.toNat < b.election.toNat)))

/-- GUARD_ENTRY_HB_TIMEOUT: no partner's frames ran within 200 µs; frames count from 0, and the lower election value follows (R200). -/
def execGuardEntryHbTimeout (s : State) : Out :=
  if s.vital.hbWait then .next { s with vital := { s.vital with hbWait := false, nextF := 0, leader := s.elected } } else .next s

end Sys2Proof.Machine
end

