-- ==== Sys2Proof/Machine/Power.lean ====
section
/-! DEFINITION. Machine/Power.lean: switching of power domains, regrouping, mode transitions, SAFE STOP and the vital window's
move out of OPEN (spec/18 R416, R421 to R425, spec/13 R317, spec/04 R117, spec/06 R148, R170). -/

namespace Sys2Proof.Machine

/-! ### Domains -/

/-- PLL locks that follow from what is powered (Table 18.2). -/
def State.clocks (s : State) : State :=
  let lanesOn (q : Nat) : Bool := (List.range 4).any (fun i => s.pwr.on.getLsbD (272 + 4 * q + i))
  let net := !(decide (s.mode = .off) || decide (s.mode = .ebb) || decide (s.mode = .dormant))
  { s with pwr := { s.pwr with
      plock := decide (s.pwr.on &&& domRange 264 8 ≠ 0), nlock := net, flock := s.shore.pll
      qlock := bvOf 4 lanesOn } }

/-- What an island loses without power (spec/02 R56). -/
def State.offIsland (s : State) (P : Isl) : State := s.modIsl P (fun i => { i.wiped with ready := false })

/-- The registers of an island block at reset; ROLE follows the island map (spec/02 R59 to R63). -/
def IslSt.blockReset (i : IslSt) : IslSt :=
  { i with ue := false, ueValid := false, uePlane := 0, ueCluster := 0, cecnt := 0, injPlane := 0, injCl := 0, injD := false
           inj := false, tell := false }

/-- What an archipelago-control domain loses beside its mould: sequencer, queue, the counts of its LAGOON block (spec/13 R318) and the blocks
of its islands (spec/02 R59); its
configuration fields are written back by the Holm. Queued records are DISCARDED with DETAIL 0x3 (spec/05 Table 5.5). -/
def State.loseArch (s : State) (a : Arch) : State :=
  let s := (s.flushQueue a 3 3).settleOwed a 3 3
  let s := (List.range 33).foldl (fun t slot => t.modIsl (islOf a slot) IslSt.blockReset) s
  let s : State := { s with net := { s.net with
    lagoon := vmod s.net.lagoon a (fun l => { l with lreq := Vector.replicate 32 0, lbyte := Vector.replicate 32 0 }) } }
  s.modArch a (fun x => { x with
    ring := RiserRing.reset
    seq := { Seq.reset with preen := x.seq.preen, wdog := x.seq.wdog, preent := x.seq.preent, nxtLock := x.seq.nxtLock,
                            part := x.seq.part, mode := if x.mould.loaded then .dispatchWait else .noMould }
    twin := { Twin.reset with force := x.twin.force, react := x.twin.react } })

/-- What an archipelago-control domain loses without power: all of that and its mould. -/
def State.offArch (s : State) (a : Arch) : State :=
  (s.loseArch a).modArch a (fun x => { x with mould := Mould.empty, seq := { x.seq with mode := .noMould } })

/-- What a harbour bank loses (spec/14 R334). -/
def State.offBank (s : State) (b : Nat) : State :=
  { s with harbour := { s.harbour with
      banks := vset s.harbour.banks (ix 16 b) Harbour.reset.banks[ix 16 b]
      mem := s.harbour.mem.filter (fun c => decide (c.1 / 0x200000 ≠ b))
      delta := s.harbour.delta.filter (fun c => decide (c.1 / 0x40000 ≠ b)) } }

/-- Remove the power of domain `d`: its state is lost, its configuration fields excepted (R416). -/
def State.powerOff (s : State) (d : Nat) : State :=
  let s := { s with pwr := { s.pwr with on := s.pwr.on &&& ~~~(domBit d), retained := s.pwr.retained &&& ~~~(domBit d) } }
  if d < 264 then s.offIsland (ix 264 d)
  else if d < 272 then s.offArch (ix 8 (d - 264))
  else if d < 288 then
    let l : Fin 16 := ix 16 (d - 272)
    s.modLane l (fun y => { Lane.reset with lcfg := y.lcfg })
  else if d < 304 then s.offBank (d - 288)
  else if d < 308 then { s with cores := vmod s.cores (ix 4 (d - 304)) (fun c => { Core.reset with draws := c.draws }) }
  else if d = 312 then { s with sprue := { Sprue.reset with streamBase := s.sprue.streamBase } }
  else if d = 313 then
    { s with riser := { Riser.reset with ctx := s.riser.ctx.map (fun c =>
        { c with groups := 0, lostCnt := 0, restarts := 0, markAfter := 0 }) } }
  else s

/-- Initiators of domain `d`. -/
def domInitiators (d : Nat) : List (Fin 32) :=
  if 304 ≤ d ∧ d < 308 then [ix 32 (d - 304)] else if d = 312 then [21] else if d = 313 then [22]
  else if 308 ≤ d ∧ d < 312 then [23] else if 264 ≤ d ∧ d < 272 then [ix 32 (24 + (d - 264))] else if d = 314 then [4] else []

/-- The domain a request to `addr` goes into, beside its archipelago's: a harbour bank, a core's window, an island. -/
def State.addrDom (s : State) (addr : PAddr) : Option Nat :=
  match areaOf addr with
  | .harbour => some (288 + offsetFrom 0x20000000 addr.toNat / 0x200000)
  | .sramWin n => some (304 + n.val)
  | .plane | .word => some (s.islAt (viewTarget addr).1 (viewTarget addr).2).val
  | _ => none

/-- Packet `p` holds credits of the links into domain `d`: it is in the lagoon of that archipelago, or at the domain's node and for it. -/
def State.holdsCredit (s : State) (d : Nat) (p : Packet) : Bool :=
  (match p.place with
    | .lagoon a _ => decide (d = 264 + a.val) || (isViewReq p.hdr && decide (s.addrDom (hAddr p.hdr) = some d))
    | .sound n => p.port.isSome && hIsReq p.hdr && decide (n = hDsn p.hdr) && decide (s.addrDom (hAddr p.hdr) = some d))

/-- Nothing is outstanding that the fence of `d` waits for: no request, response or packet of its initiators, no walk of theirs, no view
access at an island's ladle, no outstanding tag of a core, no packet that holds a credit of the fenced links (spec/13 R317). -/
def State.domDrained (s : State) (d : Nat) : Bool :=
  let is := domInitiators d
  s.net.requests.all (fun r => !is.contains r.src) && s.net.responses.all (fun r => !is.contains r.dst) &&
  s.net.views.all (fun r => !is.contains r.src) && s.net.packets.all (fun p => !is.contains (hSrc p.hdr)) &&
  s.xlat.walks.all (fun q => !is.contains q.src) && s.net.packets.all (fun p => !s.holdsCredit d p) &&
  (if d < 264 then (s.isl[ix 264 d]).waiting.isEmpty
   else if d < 272 then (List.range 33).all (fun slot => (s.isl[islOf (ix 8 (d - 264)) slot]).waiting.isEmpty) else true) &&
  (if 304 ≤ d ∧ d < 308 then (s.cores[ix 4 (d - 304)]).quiet else true)

/-- Switch domain `d` off behind its fence: at once where nothing is outstanding, else when DOMAIN_POWER_OFF finds it drained (spec/13
R317). -/
def State.switchOff (s : State) (d : Nat) : State :=
  let s : State := { s with pwr := { s.pwr with fence := s.pwr.fence ||| domBit d } }
  if s.domDrained d then s.powerOff d else s

/-- Abandon a tide step that has not reached its test (spec/19 Table 19.2): the reserve is switched off. -/
def State.tideAbandon (s : State) (a : Arch) : State :=
  let t := s.arch[a].tide
  if t.phase = 1 ∨ t.phase = 2 ∨ t.phase = 3 then
    let R := islOf a (s.arch[a].rslot).toNat
    let s := (s.switchOff R.val).modIsl R (fun i => { i with role := 1 })
    s.modArch a (fun x => { x with tide := { x.tide with phase := 0, tslot := 0x3F, last := 4 } })
  else s

/-- A test of the tide is abandoned without a result (spec/19 Table 19.2): the untested island is the reserve. -/
def State.tideLose (s : State) (a : Arch) : State :=
  let t := s.arch[a].tide
  if t.phase = 4 then
    (s.modIsl (islOf a t.tslot.toNat) (fun i => { i with role := 1 })).modArch a (fun x => { x with
      rslot := t.tslot, tide := { x.tide with phase := 0, tslot := 0x3F, last := 4 } })
  else s

/-- Enabled ladle entries with a word in island `P`. -/
def State.islandStreams (s : State) (P : Isl) : List (BitVec 12) :=
  ((s.sprue.cache.filter (fun e => e.enabled && !e.dsth &&
    (List.finRange 8).any (fun a => (List.finRange 32).any (fun p => decide (s.islAt a p = P) &&
      (List.range 256).any (fun i => e.covers (linearPe (s.dataArch a) p.val i)))))).map (fun e => e.id))

/-- Enabled ladle entries with a word in archipelago `a`. -/
def State.archStreams (s : State) (a : Arch) : List (BitVec 12) :=
  ((s.sprue.cache.filter (fun e => e.enabled && !e.dsth &&
    (List.range 8192).any (fun i => e.covers (s.dataArch a * 8192 + i)))).map (fun e => e.id))

/-- Fence domain `d` (spec/13 R317): streams into an island or an archipelago are disabled first and a lane stops (spec/08 Table 8.10), a tide step of a fenced
archipelago is abandoned, and a test loses its island (spec/19 Table 19.2); its queued records are DISCARDED while completions can leave
(spec/05 Table 5.5). -/
def State.fenceDom (s : State) (d : Nat) : State :=
  let s := if d < 264 then (s.islandStreams (ix 264 d)).foldl State.disableStream s
    else if d < 272 then (s.archStreams (ix 8 (d - 264))).foldl State.disableStream s
    else if d < 288 ∧ s.pwr.fence.getLsbD d = false then s.laneStop (ix 16 (d - 272)) else s
  let s :=
    if 264 ≤ d ∧ d < 272 then (((s.tideAbandon (ix 8 (d - 264))).tideLose (ix 8 (d - 264))).flushQueue (ix 8 (d - 264)) 3 3).settleOwed (ix 8 (d - 264)) 3 3
    else if d < 264 ∧ islOf (ix 8 (d / 33)) (s.arch[ix 8 (d / 33)].tide.tslot).toNat = ix 264 d then s.tideLose (ix 8 (d / 33))
    else s
  { s with pwr := { s.pwr with fence := s.pwr.fence ||| domBit d } }

/-- DOMAIN_POWER_OFF: a fenced domain that has drained loses power. -/
def execDomainPowerOff (d : Nat) (s : State) : Out :=
  if d < 316 ∧ s.pwr.on.getLsbD d ∧ s.pwr.fence.getLsbD d ∧ s.domDrained d then .next (s.powerOff d).clocks else .next s

/-! ### The window leaves OPEN (spec/06 R170) -/

/-- The window moves for `cause`: to PENDING, or to CLOSED where no pair is in vital use; a move out of OPEN raises interrupt 0
and records its cause. When it falls is a free value, not before the latest time of the frame that is known. -/
def State.leaveNow (s : State) (cause : BitVec 4) : State :=
  let was := s.vital.win
  let now : Window := if s.vitalUse then .pending else .closed
  let at' : Int := s.vital.someTime s.fresh
  let t : State := { s with
    fresh := if was = .opened then s.fresh + 1 else s.fresh
    vital := { s.vital with
      leaveDue := none, win := now, lcause := if was = .opened then cause else s.vital.lcause
      leftAt := if was = .opened then some at' else s.vital.leftAt } }
  if was = .opened then t.raiseAll 0 else t

/-- WINDOW_LEAVE_OPEN: the Holm acts on a recorded cause. -/
def execWindowLeaveOpen (cause : BitVec 4) (s : State) : Out :=
  if s.vital.leaveDue = some cause then .next (s.leaveNow cause) else .next s

/-- Note that the window has to leave OPEN for `cause`; the first cause stands. -/
def State.leaveFor (s : State) (cause : BitVec 4) : State :=
  if s.vital.win = .closed then s else { s with vital := { s.vital with leaveDue := s.vital.leaveDue.or (some cause) } }

/-! ### Pins and outputs of a mode (spec/15 R357, R366, spec/07 Table 7.1) -/

/-- The stream port breaks every channel (spec/15 R357). -/
def State.portBreak (s : State) : State := { s with shore := { s.shore with portSeq := s.shore.portSeq.map (fun n => n + 1) } }

/-- The pins leave function for their presets, on the next FREF edge, while the fabric runs on (R366). -/
def State.pinsLeave (s : State) : State :=
  let s := if s.shore.pins = .function ∧ s.shore.pinsNext ≠ some .presets then s.portBreak else s
  { s with shore := { s.shore with
      pins := if s.shore.pins = .function ∧ s.shore.loaded = false then .presets else s.shore.pins
      pinsNext := if s.shore.pins = .function ∧ s.shore.loaded then some .presets else none } }

/-- FREF edges from a request to the release of GSR: RELCNT. -/
def Shore.releaseEdges (h : Shore) : Nat := match h.bits with | some b => b.relcnt.toNat | none => 0

/-- The shore on entry to mode `m`: the release is requested, or the pins return to function on the next FREF edge (R366). -/
def State.pinsFor (s : State) (m : Mode) : State :=
  if m.pinsFunction then
    (if s.shore.st = 2 ∧ s.shore.loaded then { s with shore := { s.shore with release := true, relLeft := s.shore.releaseEdges } }
     else if s.shore.st = 3 then
       { s with shore := { s.shore with pinsNext := if s.shore.pins = .function then none else some .function } }
     else s)
  else s.pinsLeave

/-- Every DYN driver drives low. -/
def State.dynLow (s : State) : State :=
  { s with dyn := { s.dyn with
      pin := Vector.replicate 8 .low, drv := 0, periodHalf := Vector.replicate 8 0, periodAt := Vector.replicate 8 none } }

/-- JESD204C transmit stops: no half plays or waits (R220, spec/07 Table 7.1). -/
def State.jesdStop (s : State) : State :=
  let still (r : Replay) : Replay := { r with playing := none, filled := false, half0 := [], half1 := [] }
  { s with riser := { s.riser with replay := s.riser.replay.map still } }

/-! ### Regrouping (spec/04 R117, spec/06 R148) -/

/-- Put archipelago `a` into its stream of mode `m`: PART set, the sequencer at dispatch. -/
def State.regroupArch (s : State) (m : Mode) (a : Arch) : State :=
  let g := s.groupOf m a
  s.modArch a (fun x => { x with
    seq := { x.seq with
      queue := [], stepSlot := none, slot0 := none, slot1 := none, tnt := x.seq.tnt && g.2
      held := false, ctx := { x.seq.ctx with cur := none, posted := false, failed := false, stack := [] }
      mode := if x.mould.loaded then (if x.seq.haltReq then .halted false else .dispatchWait) else .noMould
      part := { inStream := !g.1.isEmpty, lat := s.latIn m a, lock := decide (1 < g.1.length), twin := g.2,
                pid := BitVec.ofNat 3 ((g.1.headD 0).val) } }
    twin := { x.twin with ck := none, pend := false, found := [], pendCause := none, retried := false } })

/-- The islands of a newly formed pair start at logical zero. -/
def State.formPair (s : State) (a : Arch) : State :=
  if s.arch[a].seq.part.twin then
    (s.islands a).foldl (fun t P => t.modIsl P (fun i => i.logicalZero (s.oddTwin a))) s
  else s

/-- Enabled ladle entries that a grouping no longer holds in one stream, or that it puts on the odd twin of a pair
(spec/08 R204). -/
def State.strayEntries (s : State) (m : Mode) : List (BitVec 12) :=
  (s.sprue.cache.filter (fun e => e.enabled && !e.dsth && (
    let as := (List.finRange 8).filter (fun a => (List.range 8192).any (fun i => e.covers (a.val * 8192 + i)))
    !((s.groups m).any (fun g => as.all (fun a => g.1.contains a) && !(g.2 && as.any (fun a => decide (a.val % 2 = 1))))))
    )).map (fun e => e.id)

/-- Regroup to mode `m`: queued records are DISCARDED with DETAIL 0x2 (spec/05 Table 5.5), entries that lose their stream are disabled, then the archipelagos whose stream changes move, and a
tide step of one that leaves every stream is abandoned. -/
def State.regroup (s : State) (m : Mode) : State :=
  let moved := s.present.filter (s.groupChanges m)
  let stray := s.strayEntries m
  let s := stray.foldl State.disableStream s
  let s := stray.foldl (fun t id => t.event .regroupDisable (bytesLE 2 id.toNat)) s
  let s := (moved.filter (fun a => (s.groupOf m a).1.isEmpty)).foldl State.tideAbandon s
  let s := (moved.filter (fun a => decide (s.leadOf a = a))).foldl (fun t a => (t.flushQueue a 3 2).settleOwed a 3 2) s
  moved.foldl State.formPair (moved.foldl (fun t a => t.regroupArch m a) s)

/-! ### Transitions (spec/18 R422 to R425) -/

/-- Reserve islands the tide keeps powered in mode `m`: one under test, or one shadowing in an archipelago that stays in a
stream. -/
def State.tideKeeps (s : State) (m : Mode) : BitVec 316 :=
  s.present.foldl (fun b a =>
    let t := s.arch[a].tide
    if t.phase = 4 then b ||| domBit (islOf a t.tslot.toNat).val
    else if (t.phase = 1 ∨ t.phase = 2 ∨ t.phase = 3) ∧ (s.groupOf m a).1.isEmpty = false then
      b ||| domBit (islOf a (s.arch[a].rslot).toNat).val
    else b) 0

/-- Domains that mode `m` switches off. -/
def State.leaving (s : State) (m : Mode) : List Nat :=
  let stay := s.wanted m ||| (m.keeps &&& s.permitted) ||| (if m = .dormant ∨ m = .ebb ∨ m = .off then 0 else s.tideKeeps m &&& s.permitted)
  (List.range 316).filter (fun d => s.pwr.on.getLsbD d && !stay.getLsbD d)

/-- Domains kept with retention that are neither kept on nor powered lose their state (R416). -/
def State.dropRetained (s : State) (stay : BitVec 316) : State :=
  ((List.range 316).filter (fun d => s.pwr.retained.getLsbD d && !stay.getLsbD d)).foldl State.powerOff s

/-- Power the domains of mode `m` and retain what it keeps; what was kept and is wanted resumes (R416). -/
def State.powerFor (s : State) (m : Mode) : State :=
  let s := (s.leaving m).foldl State.powerOff s
  let keep := m.keeps &&& s.permitted &&& (s.pwr.on ||| s.pwr.retained)
  let on := (s.wanted m ||| (if m = .dormant then 0 else s.pwr.on)) &&& ~~~keep
  let s := s.dropRetained (keep ||| on)
  State.clocks { s with pwr := { s.pwr with on := on, retained := keep, fence := s.pwr.fence &&& ~~~on } }

/-- Entry to GUARD (spec/06 R164, R169, spec/08 R200): frames wait for the first boundary, and with PARTNER set for the
partner's heartbeat; the election value is drawn. -/
def State.enterGuard (s : State) : State :=
  { s with
    fresh := s.fresh + 1
    vital := { s.vital with
      running := false, nextF := 0, hbWait := decide (s.vital.par.partner ≠ 0), election := Config.freeWord64 s.fresh
      win := if s.vital.par.pairs = 0 then .closed else .pending, claimed := false, doneOk := false
      frameCause := none, twinFault := false, seqFault := false, assay := none, partnerRx := [], leaveDue := none
      accepted := [], vrLost := false, leader := none, bndUs := none, slew := 0 } }

/-- The mode becomes `m`. -/
def State.enterMode (s : State) (m : Mode) : State :=
  let s := match s.vital.leaveDue with
    | some c => s.leaveNow c
    | none => if s.vital.win = Window.opened then s.leaveNow 8 else s
  let s := s.regroup m
  let s : State := { s with mode := m, pwr := { s.pwr with target := none } }
  let s := (s.powerFor m).pinsFor m
  let s := if m.sendsJesd then s else s.jesdStop
  let s := if m = .guard then s.enterGuard
    else { s with vital := { s.vital with win := .closed, hbWait := false } }
  s.dynLow

/-- The vital frames end: GUARD is being left (spec/06 R169, R170). -/
def State.stopFrames (s : State) (cause : BitVec 4) : State :=
  let s := s.leaveFor cause
  { s with vital := { s.vital with running := false, hbWait := false } }

/-- On leaving SAFE STOP every island is powered down, every queue emptied and every sequencer back at dispatch (R423). -/
def State.leaveSafeStop (s : State) : State :=
  let s := s.present.foldl (fun t a => if t.leadOf a = a then t.flushQueue a 3 3 else t) s
  let s := s.modSeqs s.present (fun q => { q with
    stepSlot := none, slot0 := none, slot1 := none
    held := false, ctx := { q.ctx with cur := none, posted := false, failed := false, stack := [] }
    mode := if q.mode = .noMould then .noMould else if q.haltReq then .halted false else .dispatchWait })
  let s := s.present.foldl State.tideLose s
  ((List.range 264).filter (fun d => s.pwr.on.getLsbD d)).foldl State.switchOff s

/-- A transition to `m` begins: GUARD is left, and what the new mode switches off is fenced where its precondition holds.
(DEDUCED, log 69) -/
def State.startTransition (s : State) (m : Mode) (alarm : Word) : State :=
  let s := if s.mode = .guard then s.stopFrames 8 else s
  let s := if s.mode = .safeStop then s.leaveSafeStop else s
  let s : State := { s with pwr := { s.pwr with target := some m, alarm := alarm } }
  let ok (d : Nat) : Bool :=
    if d < 272 then
      let a : Arch := if d < 264 then ix 8 (d / 33) else ix 8 (d - 264)
      s.atDispatch a || (s.streamOf a).isEmpty
    else true
  ((s.leaving m).filter ok).foldl State.fenceDom s

/-- Every sequencer the transition to `m` regroups stands at a dispatch point with no slot in use (spec/04 R117). -/
def State.mayRegroup (s : State) (m : Mode) : Bool :=
  (s.present.filter (s.groupChanges m)).all (fun a => (s.streamOf a).isEmpty || s.atDispatch a ||
    decide (s.arch[s.leadOf a].seq.mode = .noMould))

/-- The cores that a mode retains stand at a boundary after FENCE (R424). -/
def State.coresQuiet (s : State) (m : Mode) : Bool :=
  (List.finRange 4).all (fun n => !(m.keeps.getLsbD (304 + n.val)) || (s.cores[n]).quiet)

/-- What DORMANT loses beside the domains it switches off, and the sessions it closes (R424): of an archipelago-control domain all but
the mould, the fabric configuration, DMA, XLAT's
translations, the networks' traffic and counts, mailbox RAM, messages on the way out. The Holm writes RWC fields back. -/
def State.dormantLoss (s : State) : State :=
  let s := (s.present.foldl State.loseArch s).closeAll
  { s with
    holm := { s.holm with
      jobs := [], hello := none, part0 := none, mbox := [], go := Vector.replicate 4 false
      frmNew := Vector.replicate 4 false, fseq := Vector.replicate 4 0, rplValid := Vector.replicate 4 false }
    shore := { s.shore with
      irq := 0, lerr := 0, fixcnt := 0, st := 0, engine := Shore.reset.engine, bits := none, loaded := false, load := none, pll := false
      pins := s.shore.pinsNext.getD s.shore.pins, pinsNext := none, relLeft := 0, fbnd := false, strobe := 0
      regs := Shore.reset.regs, taps := Shore.reset.taps
      fdelta := [], scrubPos := 0, gsr := false, release := false, mcells := 0, segs := [], cells := Shore.reset.cells
      sdWord := Shore.reset.sdWord, portSeq := Shore.reset.portSeq, marks := Shore.reset.marks, uirq := 0, capArmed := none
      capture := none }
    dma := Vector.replicate 16 DmaChan.reset
    xlat := { Xlat.reset with ctx := s.xlat.ctx }
    net := { Net.reset with
      table := s.net.table, epoch := s.net.epoch, drained := s.net.drained
      epochLoaded := s.net.epochLoaded, tout := s.net.tout
      lagoon := s.net.lagoon.map (fun l => { l with lreq := Vector.replicate 32 0, lbyte := Vector.replicate 32 0 }) }
    lattice := Lattice.reset, pour := { buf := Vector.replicate 4 [], compl := [] }, ethTx := [] }

/-- MODE_TRANSITION_COMPLETE: the transition in progress finishes, once its regrouping is allowed and what it switches off is fenced and
drained (R416, spec/13 R317), out of SAFE STOP with every island off before (R423). -/
def execModeTransitionComplete (s : State) : Out :=
  match s.pwr.target with
  | none => .next s
  | some m =>
    if s.mode = .dormant then .next s -- the wake's own steps end it (R424)
    else if s.mayRegroup m && s.coresQuiet m then
      let s := if s.mode = .safeStop then ((List.range 264).filter (fun d => s.pwr.on.getLsbD d && s.pwr.fence.getLsbD d && s.domDrained d)).foldl State.powerOff s
        else s
      let s := ((s.leaving m).filter (fun d => !s.pwr.fence.getLsbD d)).foldl State.fenceDom s
      if s.mode = .safeStop ∧ (List.range 264).any (fun d => s.pwr.on.getLsbD d) then .next s
      else if (s.leaving m).all s.domDrained then
        let s := s.enterMode m
        .next (if m = .dormant then s.dormantLoss.clocks else s)
      else .next s
    else .next s

/-! ### SAFE STOP (R423) -/

/-- Complete the current record and the records of trap slots of the stream led by `lead` as ABANDONED, DETAIL 0x1. -/
def State.abandonCurrent (s : State) (lead : Arch) : State :=
  let q := (s.arch[lead]).seq
  let ctxs := ([q.slot0, q.slot1].filterMap id).map (fun t => t.ctx) ++ [q.ctx]
  let s := ctxs.foldl (fun t c => match c.cur with
    | some r => if c.posted then t else t.complete r 4 1 none
    | none => t) s
  let done (c : SeqCtx) : SeqCtx := { c with posted := true }
  s.modSeqs (s.streamOf lead) (fun x => { x with
    ctx := { x.ctx with cur := none, posted := false, failed := false }, stepSlot := none
    slot0 := x.slot0.map (fun t => { t with ctx := done t.ctx })
    slot1 := x.slot1.map (fun t => { t with ctx := done t.ctx })
    mode := if x.mode = .noMould ∨ x.mode = .fault then x.mode else .halted false })

/-- SAFE STOP may be entered from the present mode (Table 18.4) in the present life-cycle state (spec/16 Table 16.15). -/
def State.mayStop (s : State) : Bool := (s.mode.working || decide (s.mode = .provision)) && lcPermits (min s.holm.lcCount.toNat 4) .safeStop

/-- A transition out of SAFE STOP is broken off: the device stays in SAFE STOP (R422, Table 18.4). (DEDUCED, log 69) -/
def State.stopAgain (s : State) (data : List Byte) : State :=
  if s.mode = .safeStop ∧ s.pwr.target.isSome then
    State.event { s with pwr := { s.pwr with target := none, fence := s.pwr.fence &&& ~~~s.pwr.on } } .safeStop data
  else s

/-- SAFE STOP with an event carrying `data`: the array halts between two microwords, records are ABANDONED, outputs and pins
take their SAFE STOP state, streams, riser contexts, DMA and tide stop, the frames end (R423, spec/08 Table 8.10, spec/14
Table 14.3, spec/19 Table 19.2). -/
def State.safeStop (s : State) (data : List Byte) : State :=
  if !s.mayStop then s.stopAgain data
  else
    let s := if s.mode = .guard then s.stopFrames 9 else s
    let leads := s.present.filter (fun a => !(s.streamOf a).isEmpty && decide (s.leadOf a = a))
    let s := leads.foldl (fun t a => ((t.abandonCurrent a).flushQueue a 4 1).settleOwed a 4 1) s
    let s := s.disableAllStreams
    let s : State := { s with pwr := { s.pwr with fence := s.pwr.fence &&& ~~~s.pwr.on } }
    let s := s.present.foldl (fun t a => (t.ringRestart a false).tideAbandon a) s
    let s := s.jesdStop.dmaStopAll
    let s := (s.dynLow).pinsLeave
    let s : State := { s with mode := .safeStop, pwr := { s.pwr with target := none } }
    s.event .safeStop data

end Sys2Proof.Machine
end

