-- ==== Sys2Proof/Machine/Twin.lean ====
section
/-! DEFINITION. Machine/Twin.lean: the twin-fault routine's reaction, and the pour cycle of a sequencer (spec/06 R155 to R157,
spec/03 R66, Table 3.8). -/

namespace Sys2Proof.Machine

/-- The slot the twin-fault trap of `q` uses: slot 1 (true) or slot 0. -/
def Seq.twinSlot (q : Seq) : Option Bool :=
  if q.slot1.any (fun t => t.cause = .twinFault) then some true
  else if q.slot0.any (fun t => t.cause = .twinFault) then some false
  else none

/-- The slot that holds the routine in which the twin fault was taken. -/
def Seq.twinHeld (q : Seq) : Option TrapSlot :=
  match q.twinSlot with
  | some true => q.slot1
  | some false => q.slot0
  | none => none

/-- A retry is allowed for cause `c`: the fault was taken inside the record that made the checkpoint (R157). -/
def State.mayRetry (s : State) (lead : Arch) (c : TwinCause) : Bool :=
  let x := (s.arch[lead]).twin
  let q := (s.arch[lead]).seq
  x.react && decide (c ≠ .mword) && !x.retried && !x.swapped && q.twinHeld.any (fun t => t.ctx.cur.isSome) &&
    x.ck.any (fun k => k.pre == q.preempting)

/-- The retry (R157): the twin-fault slot is released, the checkpoint reloaded, reduction results are zero (the raw 0 in both
twins: DESIGN CHOICE, log 92) and the PE registers at their logical start values. That the record has posted stays so (R158).
(DEDUCED, log 11) -/
def State.twinRetry (s : State) (lead : Arch) (ms : List Arch) (ck : Checkpoint) : State :=
  let slot := (s.arch[lead]).seq.twinSlot
  let s := s.modSeqs ms (fun q =>
    let saved := if slot = some true then q.slot1 else q.slot0
    let q := if slot = some true then { q with slot1 := none } else { q with slot0 := none }
    { q with
      pc := ck.pc, mode := .running, held := false, lastNt := true
      tnt := q.tnt || saved.any (fun t => t.tnt)
      ctx := { stack := ck.stack, lc := ck.lc, ba := ck.ba, uf := ck.uf, ufShadow := none, red := RedSet.zero
               cur := saved.bind (fun t => t.ctx.cur), posted := ck.posted || saved.any (fun t => t.ctx.posted), failed := false
               mop := none } })
  let s := (ms.zipIdx).foldl (fun t ai => ((t.islands ai.1).zipIdx).foldl (fun u Pj =>
    u.modIsl Pj.1 (fun i =>
      let i := i.regStart (t.oddTwin ai.1)
      { i with ladle := { i.ladle with rd := ck.ladleRd.getD (32 * ai.2 + Pj.2) 0 } })) t) s
  let s := (ms.zip ck.riser).foldl (fun t ar => t.modRing ar.1 (fun r =>
    { r with pos := ar.2.pos, planes := ar.2.planes, groups := ar.2.groups, nextGroup := ar.2.nextGroup, lossy := ar.2.lossy })) s
  s.eachArch ms (fun t a => t.modTwin a (fun x => { x with retried := true }))

/-- What the twin-fault routine leaves in its scratch planes (spec/05 R138). -/
def State.twinJunk (s : State) (ms : List Arch) : State :=
  let t := s.eachArch ms (fun t a =>
    let t := (t.islands a).foldl (fun u P => u.modIsl P (fun i => i.scratch 2 (s.fresh + 264 * a.val + P.val))) t
    match t.shadowPair a with
    | some (R, q) => t.modIsl R (fun i => i.scratch 2 (((t.isl[t.islAt a q]).junk2).getD 0))
    | none => t)
  { t with fresh := s.fresh + 4096 }

/-- The twin-fault routine has been dispatched: PEND clears; it retries or asks for SAFE STOP (R155). -/
def State.twinReact (s : State) (lead : Arch) (ms : List Arch) : State :=
  let c := ((s.arch[lead]).twin.pendCause).getD .mword
  let retry := s.mayRetry lead c
  let ck := (s.arch[lead]).twin.ck
  let s := (s.twinJunk ms).eachArch ms (fun t a => t.modTwin a (fun x => { x with pend := false, pendCause := none }))
  match retry, ck with
  | true, some k => s.twinRetry lead ms k
  | _, _ => s.safeStop [BitVec.ofNat 8 lead.val]

/-- One pour cycle of the stream of `a`: a microword issues, after the trap that is due and permitted before it (spec/04 R105), or
the cycle is idle and serves access slots (Table 3.8). (DESIGN CHOICE, log 8) -/
def State.pourCycle (s : State) (a : Arch) : State :=
  let lead := s.leadOf a
  let ms := s.streamOf a
  if s.slotsFree a then s.eachArch (if ms.isEmpty then [a] else ms) State.viewSlots1
  else if !s.domainOpen (264 + a.val) || !s.streamReady ms then s
  else match (s.arch[lead]).seq.mode with
    | .running | .stalled => s.holdEnds a (fun t => t.issueWord lead ms false)
    | .twinRoutine => s.twinReact lead ms
    | _ => s

end Sys2Proof.Machine
end

