-- ==== Sys2Proof/Machine/Tide.lean ====
section
/-! DEFINITION. Machine/Tide.lean: the tide: start of a step, shadow, swap, test and map-out, and the commands of TIDE_CTL
(spec/19 R436 to R443, R446). -/

namespace Sys2Proof.Machine

/-- Apply `f` to the tide registers of archipelago `a`. -/
def State.modTide (s : State) (a : Arch) (f : TideSt → TideSt) : State := s.modArch a (fun x => { x with tide := f x.tide })

/-- The tide runs in `a` (R436). -/
def State.tideRuns (s : State) (a : Arch) : Bool :=
  s.holm.tcfg.getLsbD (16 + a.val) && s.arch[a].seq.part.inStream && !s.arch[a].consumed && decide (6 ≤ s.mode.code ∧ s.mode.code ≤ 10) &&
  s.permitted.getLsbD (264 + a.val)

/-- The slot carries a logical position of `a`. -/
def ArchSt.carries (x : ArchSt) (slot : BitVec 6) : Bool := x.islmap.toList.contains slot

/-- The target of the next step: a slot to map out, else the priority target, else the normal order (R437, R443). The flag says
that it is not the normal order. -/
def State.tideTarget (s : State) (a : Arch) : BitVec 6 × Bool :=
  let x := s.arch[a]
  let f := s.holm.keep.persist.failslot[a]
  if x.tide.mapOutNow && x.carries f then (f, true)
  else match x.tide.priority with
    | some p => if x.carries p then (p, true) else (x.islmap[ix 32 x.tide.nextPos.toNat], false)
    | none => (x.islmap[ix 32 x.tide.nextPos.toNat], false)

/-- Phase 1: the reserve island is switched on (Table 19.1). -/
def State.tideStart (s : State) (a : Arch) : State :=
  let x := s.arch[a]
  if !s.tideRuns a || x.tide.susp || decide (x.tide.phase ≠ 0) then s
  else
    let R := islOf a x.rslot.toNat
    let tgt := s.tideTarget a
    let s : State := { s with pwr := { s.pwr with on := s.pwr.on ||| domBit R.val, fence := s.pwr.fence &&& ~~~(domBit R.val) } }
    (s.modIsl R (fun i => { i.wiped with ready := false })).modTide a (fun t => { t with
      phase := 1, tslot := tgt.1, byPrio := tgt.2, badCopy := false })

/-- TIDE_STEP_START. (DEDUCED, log 78) -/
def execTideStepStart (a : Arch) (s : State) : Out := .next (s.tideStart a)

/-- Count the corrections and note the uncorrectable words that the tide copy meets in the target (spec/02 R42). -/
def IslSt.noteCopy (i : IslSt) : IslSt :=
  i.delta.foldl (fun j kd => j.note (BitVec.ofNat 13 kd.1) (decodePlane (i.raw (BitVec.ofNat 13 kd.1)) kd.2)) i

/-- TIDE_SHADOW_COMPLETE: the copy has reached plane 8191 (R438): every plane of the reserve is the target's. -/
def execTideShadowComplete (a : Arch) (s : State) : Out :=
  let t := s.arch[a].tide
  if t.phase = 2 then
    let P := islOf a t.tslot.toNat
    let s := (s.modIsl P IslSt.noteCopy).tellUe a
    let i := s.isl[P]
    .next (((s.modIsl (islOf a s.arch[a].rslot.toNat) (fun r => r.takeCopy i)).modTide a (fun t => { t with phase := 3 })).mirror a)
  else .next s

/-- A tide swap may take place in a sequencer: the microword issued last has NT = 0 and no change stands in the mode shadow
(spec/04 R104, R105, spec/03 R80). -/
def Seq.swapHere (q : Seq) : Bool := !q.lastNt && q.ctx.ufShadow.isNone

/-- Map island `slot` of `a` out (R441). -/
def State.mapOut (s : State) (a : Arch) (slot : BitVec 6) (last : BitVec 4) : State :=
  let P := islOf a slot.toNat
  let s := (s.switchOff P.val).modIsl P (fun i => { i with role := 4 })
  let s := s.modArch a (fun x => { x with
    failSlot := slot, rslot := 0x3F, consumed := true
    tide := { x.tide with phase := 5, tslot := 0x3F, last := last, mapOutNow := false, steps := x.tide.steps + 1 } })
  (s.raiseAll 28).event .tideMapOut [BitVec.ofNat 8 a.val, slot.setWidth 8, last.setWidth 8]

/-- The swap of archipelago `a` (R439, spec/01 R16): registers are copied, the map changes, waiting view accesses go to the
island that now carries the position (spec/13 R311). -/
def State.tideSwap (s : State) (a : Arch) : State :=
  match s.shadowPair a with
  | none => s
  | some (R, p) =>
    let x := s.arch[a]
    let P := s.islAt a p
    let i := s.isl[P]
    let s := s.modIsl R (fun r => { r with
      c := i.c, x := i.x, y := i.y, k := i.k, n := i.n, t := i.t, role := 0, ready := true, waiting := i.waiting })
    let s := s.modIsl P (fun r => { r with role := 3, waiting := [] })
    let s := s.modArch a (fun y => { y with
      islmap := vset y.islmap p y.rslot, gen := y.gen + 1
      tide := { y.tide with
        phase := 4
        nextPos := if y.tide.byPrio then y.tide.nextPos else y.tide.nextPos + 1
        priority := if y.tide.priority = some y.tide.tslot then none else y.tide.priority } })
    if x.tide.mapOutNow && decide (s.holm.keep.persist.failslot[a] = x.tide.tslot) then s.mapOut a x.tide.tslot x.tide.last else s

/-- TIDE_SWAP: at the first permitted boundary of the stream at which no trap of lower priority number is due (spec/04 R102). -/
def execTideSwap (a : Arch) (s : State) : Out :=
  let ms := if (s.streamOf a).isEmpty then [a] else s.streamOf a
  if s.arch[a].tide.phase = 3 ∧ ms.all (fun b => (s.arch[b]).seq.swapHere) ∧ s.trapNow a = none then .next (s.tideSwap a)
  else .next s

/-- A coverage cycle is 33 steps of the normal order (R437). -/
def TideSt.stepDone (t : TideSt) : TideSt :=
  let n := if t.byPrio then t.cycleSteps else t.cycleSteps + 1
  { t with steps := t.steps + 1, cycleSteps := if n = 33 then 0 else n, cover := if n = 33 then satInc t.cover else t.cover }

/-- TIDE_TEST_COMPLETE: on a pass the island becomes the reserve and is switched off; a failed one is mapped out. An island whose
copy met an uncorrectable word fails (Table 19.2). Which test a failure is of is a free value. -/
def execTideTestComplete (a : Arch) (pass : Bool) (s : State) : Out :=
  let t := s.arch[a].tide
  if t.phase ≠ 4 then .next s
  else
  let s := s.modIsl (islOf a t.tslot.toNat) (fun i => (i.inject i.injPlane (List.range 16) 0).2)
  if pass && !t.badCopy then
    let P := islOf a t.tslot.toNat
    let s := (s.switchOff P.val).modIsl P (fun i => { i with role := 1 })
    .next ((s.modArch a (fun x => { x with
      rslot := t.tslot, tide := { x.tide.stepDone with phase := 0, tslot := 0x3F, last := 1 } })).event .tideStep
        [BitVec.ofNat 8 a.val, t.tslot.setWidth 8, 1])
  else
    let last : BitVec 4 := if Config.freeBit s.fresh then 2 else 3
    .next (({ s with fresh := s.fresh + 1 } : State).mapOut a t.tslot last)

/-! ### TIDE_CTL (R446, Table 19.2) -/

/-- Command 0x01: the tide is suspended; a step that is waking or shadowing is abandoned. -/
def State.tideSuspend (s : State) (a : Arch) : State :=
  let p := s.arch[a].tide.phase
  (if p = 1 ∨ p = 2 then s.tideAbandon a else s).modTide a (fun t => { t with susp := true })

/-- Command 0x02. -/
def State.tideResume (s : State) (a : Arch) : State := s.modTide a (fun t => { t with susp := false })

/-- Command 0x03 is refused with BUSY. -/
def State.tideBusy (s : State) (a : Arch) : Bool :=
  let t := s.arch[a].tide
  t.susp || (decide (t.phase ≠ 0) && decide (t.phase ≠ 5))

end Sys2Proof.Machine
end

