-- ==== Sys2Proof/Machine/Mldsa.lean ====
section
/-! DEFINITION. Machine/Mldsa.lean: ML-DSA-87 (spec/00 Table 0.6, spec/16 R376, R383, R390, spec/17 R400, R401, R406): key generation,
signing and verification. PRESUMED: the algorithms are those of FIPS 204, which the spec cites and does not restate. Polynomials are
lists of 256 residues modulo q = 8,380,417. (PRESUMED, log 77) -/

namespace Sys2Proof.Machine

/-- A polynomial of degree below 256, the constant first. -/
abbrev Poly := List Nat

/-- SHAKE128 of a byte string: `n` bytes. (PRESUMED, log 77) -/
def shake128 (m : List Byte) (n : Nat) : List Byte := sponge 168 0x1F m n

/-- The low `n` bits of `k`, turned round. -/
def bitRev (n k : Nat) : Nat := (List.range n).foldl (fun a i => 2 * a + k / 2 ^ i % 2) 0

/-- Sum, difference and coefficient-wise product modulo `q`. -/
def polyAdd (q : Nat) (a b : Poly) : Poly := List.zipWith (fun x y => (x + y) % q) a b
def polySub (q : Nat) (a b : Poly) : Poly := List.zipWith (fun x y => (x + (q - y)) % q) a b
def polyMul (q : Nat) (a b : Poly) : Poly := List.zipWith (fun x y => x * y % q) a b

/-- The transform of a block of `u` 2^n coefficients, which stands at node `k` of the tree; `z k` is that node's root. -/
def nttGo (q u : Nat) (z : Nat → Nat) : Nat → Nat → Poly → Poly
  | 0, _, w => w
  | n + 1, k, w =>
    let lo := w.take (u * 2 ^ n)
    let hi := (w.drop (u * 2 ^ n)).map (fun x => x * z k % q)
    nttGo q u z n (2 * k) (polyAdd q lo hi) ++ nttGo q u z n (2 * k + 1) (polySub q lo hi)

/-- Its inverse but for the factor 2^n; `y k` is the inverse of the node's root. -/
def inttGo (q u : Nat) (y : Nat → Nat) : Nat → Nat → Poly → Poly
  | 0, _, w => w
  | n + 1, k, w =>
    let lo := inttGo q u y n (2 * k) (w.take (u * 2 ^ n))
    let hi := inttGo q u y n (2 * k + 1) (w.drop (u * 2 ^ n))
    polyAdd q lo hi ++ (polySub q lo hi).map (fun x => x * y k % q)

/-- 256 fields of `w` bits of a byte string, and back. -/
def unpackBits (w : Nat) (bs : List Byte) : Poly := let n := natLE bs; (List.range 256).map (fun i => n / 2 ^ (w * i) % 2 ^ w)
def packBits (w : Nat) (p : Poly) : List Byte := bytesLE (32 * w) (p.foldr (fun c a => c + 2 ^ w * a) 0)

/-- The `n` parts of `len` bytes that a byte string starts with. -/
def parts (n len : Nat) (bs : List Byte) : List (List Byte) := (List.range n).map (fun i => (bs.drop (len * i)).take len)

/-! ### The ring of ML-DSA -/

/-- The modulus. -/
def dsaQ : Nat := 8380417
/-- The root of node `k`: 1753 to the power of `k` with its eight bits turned round; and its inverse. -/
def dsaZeta (k : Nat) : Nat := 1753 ^ bitRev 8 k % dsaQ
def dsaZinv (k : Nat) : Nat := 1753 ^ (512 - bitRev 8 k) % dsaQ
/-- The transform and its inverse. -/
def dsaNtt (w : Poly) : Poly := nttGo dsaQ 1 dsaZeta 8 1 w
def dsaIntt (w : Poly) : Poly := (inttGo dsaQ 1 dsaZinv 8 1 w).map (fun x => x * 8347681 % dsaQ)
/-- The distance of a residue from 0. -/
def dsaNorm (x : Nat) : Nat := min (x % dsaQ) (dsaQ - x % dsaQ)
/-- Every coefficient is nearer to 0 than `b`. -/
def dsaBelow (b : Nat) (v : List Poly) : Bool := v.all (fun p => p.all (fun x => decide (dsaNorm x < b)))

/-- Residues of three bytes each, below q, the top bit ignored. -/
def dsaTriples : List Byte → Poly
  | a :: b :: c :: r =>
    let x := a.toNat + 256 * b.toNat + 65536 * (c.toNat % 128)
    if x < dsaQ then x :: dsaTriples r else dsaTriples r
  | _ => []

/-- The public matrix, row by row, as its transform: k = 8 rows, l = 7 columns. -/
def dsaMatrix (rho : List Byte) : List (List Poly) :=
  (List.range 8).map (fun r => (List.range 7).map (fun c =>
    (dsaTriples (shake128 (rho ++ [BitVec.ofNat 8 c, BitVec.ofNat 8 r]) 1008)).take 256))

/-- The matrix by a transformed vector. -/
def dsaApply (a : List (List Poly)) (v : List Poly) : List Poly :=
  a.map (fun row => (List.zipWith (polyMul dsaQ) row v).foldl (polyAdd dsaQ) (List.replicate 256 0))

/-- Half bytes below 15 as residues 2, 1, 0, -1, -2. -/
def dsaHalves (bs : List Byte) : Poly :=
  (bs.flatMap (fun b => [b.toNat % 16, b.toNat / 16])).filterMap (fun h => if h < 15 then some ((dsaQ + 2 - h % 5) % dsaQ) else none)

/-- A short polynomial. -/
def dsaShort (seed : List Byte) (n : Nat) : Poly := (dsaHalves (shake256 (seed ++ bytesLE 2 n) 272)).take 256

/-- The first byte not above `i`, and what follows it. -/
def ballPos (i : Nat) : List Byte → Nat × List Byte
  | [] => (0, [])
  | b :: r => if b.toNat ≤ i then (b.toNat, r) else ballPos i r

/-- The challenge: 60 coefficients 1 or -1. -/
def dsaBall (c : List Byte) : Poly :=
  let bs := shake256 c 272
  let h := natLE (bs.take 8)
  ((List.range 60).foldl (fun (st : Poly × List Byte) n =>
    let i := n + 196
    let (j, r) := ballPos i st.2
    ((st.1.set i (st.1.getD j 0)).set j (if h.testBit n then dsaQ - 1 else 1), r)) (List.replicate 256 0, bs.drop 8)).1

/-- The multiple of 523,776 nearest to a residue, as HighBits counts it; 16 stands for 0. -/
def dsaNear (x : Nat) : Nat := (x + 261887) / 523776
/-- HighBits. -/
def dsaHigh (x : Nat) : Nat := dsaNear x % 16
/-- LowBits as a residue. -/
def dsaLow (x : Nat) : Nat := (x + dsaQ - 523776 * dsaNear x % dsaQ + (if dsaNear x = 16 then dsaQ - 1 else 0)) % dsaQ
/-- UseHint. -/
def dsaUseHint (h : Bool) (x : Nat) : Nat :=
  if !h then dsaHigh x else if dsaNear x < 16 ∧ 523776 * dsaNear x < x then (dsaHigh x + 1) % 16 else (dsaHigh x + 15) % 16

/-- Power2Round: the high part, and the low part as a residue. -/
def dsaT1 (x : Nat) : Nat := (x + 4095) / 8192
def dsaT0 (x : Nat) : Nat := (x + (dsaQ - 8192 * dsaT1 x % dsaQ)) % dsaQ

/-- The encoding of hints: positions row by row, then where each row ends. -/
def hintPack (h : List (List Bool)) : List Byte :=
  let rows := h.map (fun r => (List.range 256).filter (fun i => r.getD i false))
  let pos := rows.flatten
  let ends := (List.range 8).map (fun i => ((rows.take (i + 1)).map List.length).sum)
  (pos ++ List.replicate (75 - pos.length) 0 ++ ends).map (BitVec.ofNat 8)

/-- Strictly rising. -/
def rising : List Nat → Bool
  | a :: b :: r => decide (a < b) && rising (b :: r)
  | _ => true

/-- The hints that 83 bytes encode; none where the encoding is not the one a signer makes. -/
def hintUnpack (bs : List Byte) : Option (List (List Bool)) :=
  let pos := (bs.take 75).map BitVec.toNat
  let ends := 0 :: ((bs.drop 75).take 8).map BitVec.toNat
  let row (i : Nat) : List Nat := (pos.drop (ends.getD i 0)).take (ends.getD (i + 1) 0 - ends.getD i 0)
  let ok := (List.range 8).all (fun i => decide (ends.getD i 0 ≤ ends.getD (i + 1) 0) && decide (ends.getD (i + 1) 0 ≤ 75) && rising (row i)) &&
    (pos.drop (ends.getD 8 0)).all (fun x => decide (x = 0))
  if ok then some ((List.range 8).map (fun i => (List.range 256).map (fun j => (row i).contains j))) else none

/-- The message a signature is over: domain 0, the context string, the message. -/
def dsaMessage (ctx m : List Byte) : List Byte := [0, BitVec.ofNat 8 ctx.length] ++ ctx ++ m

/-- Its digest under a public key. -/
def dsaMu (pk ctx m : List Byte) : List Byte := shake256 (shake256 pk 64 ++ dsaMessage ctx m) 64

/-! ### Keys, signatures -/

/-- A signing key: matrix seed, K, the two secret vectors and the low part of t. -/
structure DsaKey where
  rho : List Byte
  k : List Byte
  s1 : List Poly
  s2 : List Poly
  t0 : List Poly
  pub : List Byte
deriving DecidableEq, Repr

/-- Key generation from a seed. (PRESUMED, log 77) -/
def dsaKeyGen (seed : List Byte) : DsaKey :=
  let h := shake256 (seed ++ [8, 7]) 128
  let rho := h.take 32
  let s1 := (List.range 7).map (dsaShort ((h.drop 32).take 64))
  let s2 := (List.range 8).map (fun r => dsaShort ((h.drop 32).take 64) (r + 7))
  let t := List.zipWith (polyAdd dsaQ) ((dsaApply (dsaMatrix rho) (s1.map dsaNtt)).map dsaIntt) s2
  { rho := rho, k := h.drop 96, s1 := s1, s2 := s2, t0 := t.map (fun p => p.map dsaT0)
    pub := rho ++ t.flatMap (fun p => packBits 10 (p.map dsaT1)) }

/-- The w1 encoding. -/
def dsaW1 (w : List Poly) : List Byte := w.flatMap (packBits 4)

/-- Signing from try `kappa` on, at most `n` tries. -/
def dsaTry (key : DsaKey) (a : List (List Poly)) (mu r2 : List Byte) : Nat → Nat → List Byte
  | 0, _ => []
  | n + 1, kappa =>
    let y := (List.range 7).map (fun r =>
      (unpackBits 20 (shake256 (r2 ++ bytesLE 2 (kappa + r)) 640)).map (fun x => (524288 + dsaQ - x) % dsaQ))
    let w := (dsaApply a (y.map dsaNtt)).map dsaIntt
    let ct := shake256 (mu ++ dsaW1 (w.map (fun p => p.map dsaHigh))) 64
    let c := dsaNtt (dsaBall ct)
    let by' (v : List Poly) : List Poly := v.map (fun p => dsaIntt (polyMul dsaQ c (dsaNtt p)))
    let z := List.zipWith (polyAdd dsaQ) y (by' key.s1)
    let wcs := List.zipWith (polySub dsaQ) w (by' key.s2)
    let ct0 := by' key.t0
    let hint := List.zipWith (List.zipWith (fun x t => decide (dsaHigh ((x + t) % dsaQ) ≠ dsaHigh x))) wcs ct0
    let ones := (hint.map (fun r => (r.filter id).length)).sum
    if dsaBelow (524288 - 120) z && dsaBelow (261888 - 120) (wcs.map (fun p => p.map dsaLow)) && dsaBelow 261888 ct0 && decide (ones ≤ 75) then
      ct ++ z.flatMap (fun p => packBits 20 (p.map (fun x => (524288 + dsaQ - x) % dsaQ))) ++ hintPack hint
    else dsaTry key a mu r2 n (kappa + 7)

/-- A signature of 4,627 bytes under a context string, with 32 random bytes. (PRESUMED, log 77) -/
def dsaSign (key : DsaKey) (ctx m rnd : List Byte) : List Byte :=
  let mu := dsaMu key.pub ctx m
  dsaTry key (dsaMatrix key.rho) mu (shake256 (key.k ++ rnd ++ mu) 64) 814 0

/-- The vector w' that a signature answers to, before its hints. -/
def dsaAnswer (pk ct : List Byte) (z : List Poly) : List Poly :=
  let t1 := (parts 8 320 (pk.drop 32)).map (fun b => dsaNtt ((unpackBits 10 b).map (fun x => x * 8192)))
  let c := dsaNtt (dsaBall ct)
  (List.zipWith (polySub dsaQ) (dsaApply (dsaMatrix (pk.take 32)) (z.map dsaNtt)) (t1.map (polyMul dsaQ c))).map dsaIntt

/-- A signature of a message under a context string verifies with a public key of 2,592 bytes. (PRESUMED, log 77) -/
def dsaVerify (pk ctx m sig : List Byte) : Bool :=
  let ct := sig.take 64
  let z := (parts 7 640 (sig.drop 64)).map (fun b => (unpackBits 20 b).map (fun x => (524288 + dsaQ - x) % dsaQ))
  decide (pk.length = 2592) && decide (sig.length = 4627) &&
  match hintUnpack (sig.drop 4544) with
  | none => false
  | some h =>
    dsaBelow (524288 - 120) z &&
    decide (ct = shake256 (dsaMu pk ctx m ++ dsaW1 (List.zipWith (List.zipWith dsaUseHint) h (dsaAnswer pk ct z))) 64)

end Sys2Proof.Machine
end

