-- ==== Sys2Proof/Machine/Mlkem.lean ====
section
/-! DEFINITION. Machine/Mlkem.lean: ML-KEM-1024 (spec/00 Table 0.6, spec/17 R400): key generation, encapsulation as decapsulation needs
it, and decapsulation. PRESUMED: the algorithms are those of FIPS 203, which the spec cites and does not restate. Polynomials are
lists of 256 residues modulo q = 3,329. (PRESUMED, log 77) -/

namespace Sys2Proof.Machine

/-- SHA3-256 of a byte string. (PRESUMED, log 77) -/
def sha3x256 (m : List Byte) : List Byte := sponge 136 0x06 m 32

/-- The modulus. -/
def kemQ : Nat := 3329
/-- The root of node `k`: 17 to the power of `k` with its seven bits turned round; and its inverse. -/
def kemZeta (k : Nat) : Nat := 17 ^ bitRev 7 k % kemQ
def kemZinv (k : Nat) : Nat := 17 ^ (256 - bitRev 7 k) % kemQ
/-- The transform to 128 pairs and its inverse. -/
def kemNtt (w : Poly) : Poly := nttGo kemQ 2 kemZeta 7 1 w
def kemIntt (w : Poly) : Poly := (inttGo kemQ 2 kemZinv 7 1 w).map (fun x => x * 3303 % kemQ)

/-- The product of two transforms: pair `i` modulo X² - 17^(2 i' + 1), i' being i with its seven bits turned round. -/
def kemMul (a b : Poly) : Poly :=
  (List.range 128).flatMap (fun i =>
    let g := 17 ^ (2 * bitRev 7 i + 1) % kemQ
    let a0 := a.getD (2 * i) 0
    let a1 := a.getD (2 * i + 1) 0
    let b0 := b.getD (2 * i) 0
    let b1 := b.getD (2 * i + 1) 0
    [(a0 * b0 + a1 * b1 % kemQ * g) % kemQ, (a0 * b1 + a1 * b0) % kemQ])

/-- The inner product of two vectors of transforms. -/
def kemDot (a b : List Poly) : Poly := (List.zipWith kemMul a b).foldl (polyAdd kemQ) (List.replicate 256 0)

/-- Residues of twelve bits each, below q. -/
def kemTriples : List Byte → Poly
  | a :: b :: c :: r =>
    let x := a.toNat + 256 * (b.toNat % 16)
    let y := b.toNat / 16 + 16 * c.toNat
    (if x < kemQ then [x] else []) ++ (if y < kemQ then [y] else []) ++ kemTriples r
  | _ => []

/-- Entry (i, j) of the public matrix, as its transform. -/
def kemEntry (rho : List Byte) (i j : Nat) : Poly :=
  (kemTriples (shake128 (rho ++ [BitVec.ofNat 8 j, BitVec.ofNat 8 i]) 840)).take 256

/-- A noise polynomial: two bits less two bits. -/
def kemNoise (seed : List Byte) (n : Nat) : Poly :=
  let x := natLE (shake256 (seed ++ [BitVec.ofNat 8 n]) 128)
  (List.range 256).map (fun i =>
    let b (k : Nat) : Nat := x / 2 ^ (4 * i + k) % 2
    (b 0 + b 1 + kemQ - b 2 - b 3) % kemQ)

/-- Compression to `d` bits, and back. -/
def kemCompress (d x : Nat) : Nat := (2 ^ (d + 1) * x + kemQ) / (2 * kemQ) % 2 ^ d
def kemExpand (d y : Nat) : Nat := (2 * kemQ * y + 2 ^ d) / 2 ^ (d + 1)

/-- A key pair: the encapsulation key, the transformed secret and the value that answers a false ciphertext. -/
structure KemKey where
  ek : List Byte
  s : List Poly
  z : List Byte
deriving DecidableEq, Repr

/-- Key generation from 64 bytes. (PRESUMED, log 77) -/
def kemKeyGen (seed : List Byte) : KemKey :=
  let g := sha3 (seed.take 32 ++ [4])
  let rho := g.take 32
  let s := (List.range 4).map (fun n => kemNtt (kemNoise (g.drop 32) n))
  let e := (List.range 4).map (fun n => kemNtt (kemNoise (g.drop 32) (n + 4)))
  let t := (List.range 4).map (fun i => polyAdd kemQ (kemDot ((List.range 4).map (kemEntry rho i)) s) (e.getD i []))
  { ek := t.flatMap (packBits 12) ++ rho, s := s, z := (seed.drop 32).take 32 }

/-- Encryption of 32 bytes under an encapsulation key with 32 random bytes. -/
def kemEncrypt (ek m r : List Byte) : List Byte :=
  let t := (parts 4 384 ek).map (fun b => (unpackBits 12 b).map (fun x => x % kemQ))
  let rho := ek.drop 1536
  let y := (List.range 4).map (fun n => kemNtt (kemNoise r n))
  let u := (List.range 4).map (fun i =>
    polyAdd kemQ (kemIntt (kemDot ((List.range 4).map (fun j => kemEntry rho j i)) y)) (kemNoise r (i + 4)))
  let mu := (unpackBits 1 m).map (kemExpand 1)
  let v := polyAdd kemQ (polyAdd kemQ (kemIntt (kemDot t y)) (kemNoise r 8)) mu
  u.flatMap (fun p => packBits 11 (p.map (kemCompress 11))) ++ packBits 5 (v.map (kemCompress 5))

/-- Encapsulation with 32 random bytes: ciphertext and shared secret. (PRESUMED, log 77) -/
def kemEncaps (ek m : List Byte) : List Byte × List Byte :=
  let g := sha3 (m ++ sha3x256 ek)
  (kemEncrypt ek m (g.drop 32), g.take 32)

/-- Decapsulation: the shared secret of a ciphertext of 1,568 bytes. (PRESUMED, log 77) -/
def kemDecaps (key : KemKey) (c : List Byte) : List Byte :=
  let u := (parts 4 352 c).map (fun b => kemNtt ((unpackBits 11 b).map (kemExpand 11)))
  let v := (unpackBits 5 (c.drop 1408)).map (kemExpand 5)
  let m := packBits 1 ((polySub kemQ v (kemIntt (kemDot key.s u))).map (kemCompress 1))
  let (c', k) := kemEncaps key.ek m
  if c = c' then k else shake256 (key.z ++ c) 32

end Sys2Proof.Machine
end

