-- ==== Sys2Proof/Machine/Crypto.lean ====
section
/-! DEFINITION. Machine/Crypto.lean: AES-256-GCM (spec/00 Table 0.6, spec/16 R389, spec/17 R397), and the keys the device derives
from its PUF root key (spec/16 R376, Table 16.3, R390). PRESUMED: the cipher is FIPS 197's and SP 800-38D's, which the spec cites
and does not restate. (PRESUMED, log 77) -/

namespace Sys2Proof.Machine

/-! ### AES-256 -/

/-- Times x in the field of AES. -/
def xtime (b : Byte) : Byte := (b <<< 1) ^^^ (if b.getLsbD 7 then 0x1B else 0)

/-- The product in the field of AES. -/
def gmul (a b : Byte) : Byte :=
  ((List.range 8).foldl (fun (acc, x) i => (if b.getLsbD i then acc ^^^ x else acc, xtime x)) ((0 : Byte), a)).1

/-- The S-box: inverse (the 254th power), then the affine map. -/
def sbox (b : Byte) : Byte :=
  let sq (x : Byte) : Byte := gmul x x
  let inv := ((List.range 6).foldl (fun (acc, p) _ => (gmul acc (sq p), sq p)) (sq b, sq b)).1
  inv ^^^ inv.rotateLeft 1 ^^^ inv.rotateLeft 2 ^^^ inv.rotateLeft 3 ^^^ inv.rotateLeft 4 ^^^ 0x63

/-- One word of the key schedule of a 256-bit key: `w` holds the words so far, the newest first. -/
def keyWord (w : List (List Byte)) : List (List Byte) :=
  let i := w.length
  let prev := w.headD []
  let rcon : Byte := (List.range (i / 8 - 1)).foldl (fun x _ => xtime x) 1
  let t : List Byte :=
    if i % 8 = 0 then match (prev.drop 1 ++ prev.take 1).map sbox with | b :: r => (b ^^^ rcon) :: r | [] => []
    else if i % 8 = 4 then prev.map sbox
    else prev
  (List.zipWith (· ^^^ ·) (w.getD 7 []) t) :: w

/-- The 15 round keys. -/
def roundKeys (key : List Byte) : List (List Byte) :=
  let ws := ((List.range 52).foldl (fun w _ => keyWord w) ((List.range 8).map (fun i => (key.drop (4 * i)).take 4)).reverse).reverse
  (List.range 15).map (fun r => ((ws.drop (4 * r)).take 4).flatten)

/-- SubBytes and ShiftRows on the 16 bytes of a block. -/
def subShift (b : List Byte) : List Byte := (List.range 16).map (fun i => sbox (b.getD ((i + 4 * (i % 4)) % 16) 0))

/-- MixColumns. -/
def mixColumns (b : List Byte) : List Byte :=
  (List.range 16).map (fun i =>
    let at' (k : Nat) : Byte := b.getD (i / 4 * 4 + (i + k) % 4) 0
    xtime (at' 0) ^^^ (xtime (at' 1) ^^^ at' 1) ^^^ at' 2 ^^^ at' 3)

/-- Byte-wise exclusive or. -/
def xorBytes (a b : List Byte) : List Byte := List.zipWith (· ^^^ ·) a b

/-- One block of AES-256 under the round keys. -/
def aesBlock (ks : List (List Byte)) (b : List Byte) : List Byte :=
  let k (r : Nat) : List Byte := ks.getD r []
  let mid := (List.range 13).foldl (fun x r => xorBytes (mixColumns (subShift x)) (k (r + 1))) (xorBytes b (k 0))
  xorBytes (subShift mid) (k 14)

/-! ### GCM -/

/-- The number a block spells, most significant byte first. -/
def natBE (b : List Byte) : Nat := natLE b.reverse

/-- The product in the field of GCM, on blocks as numbers (bit 0 of the polynomial is the most significant). -/
def ghashMul (x y : BitVec 128) : BitVec 128 :=
  ((List.range 128).foldl (fun (z, v) i =>
    (if x.getMsbD i then z ^^^ v else z, (v >>> 1) ^^^ (if v.getLsbD 0 then 0xE1000000000000000000000000000000 else 0))) ((0 : BitVec 128), y)).1

/-- GHASH over `n` blocks. -/
def ghash (h : BitVec 128) : Nat → BitVec 128 → List Byte → BitVec 128
  | 0, y, _ => y
  | n + 1, y, bs => ghash h n (ghashMul (y ^^^ BitVec.ofNat 128 (natBE (bs.take 16))) h) (bs.drop 16)

/-- A block from its number. -/
def blockOf (x : BitVec 128) : List Byte := (bytesLE 16 x.toNat).reverse

/-- Zero padding to a multiple of 16 bytes. -/
def pad16 (m : List Byte) : List Byte := m ++ List.replicate ((16 - m.length % 16) % 16) 0

/-- CTR mode from counter block `iv` ‖ `c`: `n` blocks of key stream over the message. -/
def ctrXor (ks : List (List Byte)) (iv : List Byte) (c n : Nat) (m : List Byte) : List Byte :=
  xorBytes m ((List.range n).flatMap (fun i => aesBlock ks (iv ++ (bytesLE 4 (c + i)).reverse)))

/-- The tag of a ciphertext without additional data. -/
def gcmTag (ks : List (List Byte)) (iv ct : List Byte) : List Byte :=
  let h : BitVec 128 := BitVec.ofNat 128 (natBE (aesBlock ks (List.replicate 16 0)))
  let x := pad16 ct ++ (bytesLE 16 (8 * ct.length)).reverse
  xorBytes (blockOf (ghash h (x.length / 16) 0 x)) (aesBlock ks (iv ++ [0, 0, 0, 1]))

/-- AES-256-GCM under a 12-byte IV: ciphertext, then the 16-byte tag. (PRESUMED, log 77) -/
def gcmSeal (key iv m : List Byte) : List Byte :=
  let ks := roundKeys key
  let ct := ctrXor ks iv 2 (m.length / 16 + 1) m
  ct ++ gcmTag ks iv ct

/-- The plaintext, where the tag holds. (PRESUMED, log 77) -/
def gcmOpen (key iv c : List Byte) : Option (List Byte) :=
  let ks := roundKeys key
  let n := c.length - 16
  let ct := c.take n
  if 16 ≤ c.length ∧ gcmTag ks iv ct = c.drop n then some (ctrXor ks iv 2 (n / 16 + 1) ct) else none

/-! ### Keys of the device (R376, Table 16.3) -/

/-- A key derived from the PUF root key: 256 bits, customisation string "SV6518". -/
def derive (puf input : List Byte) : List Byte := kmac256 puf input 32 [0x53, 0x56, 0x36, 0x35, 0x31, 0x38]

/-- The PUF root key as the PUF and its helper data give it at each boot. (DESIGN CHOICE, log 97) -/
def pufKey (helper : List Byte) : List Byte := (List.range 32).map (Config.pufByte helper)

/-- The identity seed: input "ID". -/
def identitySeed (puf : List Byte) : List Byte := derive puf [0x49, 0x44]
/-- K_wrap: input "WRAP" and the life-cycle count. -/
def wrapKey (puf : List Byte) (lc : Byte) : List Byte := derive puf [0x57, 0x52, 0x41, 0x50, lc]
/-- K_sess: input "SESS", the life-cycle count and 64 DRBG bytes. -/
def sessKey (puf : List Byte) (lc : Byte) (drbg : List Byte) : List Byte := derive puf ([0x53, 0x45, 0x53, 0x53, lc] ++ drbg)

/-- The identity public key (R390): ML-DSA-87 key generation from the seed. -/
def identityKey (puf : List Byte) : List Byte := (dsaKeyGen (identitySeed puf)).pub

/-- An ML-DSA-87 signature by the identity key under a context string; `d` numbers the draw of its 32 random bytes.
(DESIGN CHOICE, log 97) -/
def identitySign (puf ctx m : List Byte) (d : Nat) : List Byte :=
  dsaSign (dsaKeyGen (identitySeed puf)) ctx m ((List.range 32).map (Config.freeByte d))

/-- This device's ID: SHA3-512 of the identity public key (R390). -/
def Holm.deviceId (h : Holm) : List Byte := sha3 (identityKey (pufKey h.helper))

/-- The ML-KEM-1024 key pair of K_sess (spec/17 R400). (DESIGN CHOICE, log 97) -/
def kemPair (kSess : List Byte) : KemKey := kemKeyGen ((List.range 64).map (Config.kemSeed kSess))

end Sys2Proof.Machine
end

