-- ==== Sys2Proof/Machine/Manifest.lean ====
section
/-! DEFINITION. Machine/Manifest.lean: an image and its trailer (manifest, signature), its measurement, and the keys it is verified under
(spec/16 R383 to R385, Tables 16.8, 16.10). -/

namespace Sys2Proof.Machine

/-- The owner key slot is programmed and not revoked (spec/16 R384). -/
def Holm.keyLive (h : Holm) (k : BitVec 2) : Bool := h.slotProg.getLsbD k.toNat && !h.slotRev.getLsbD k.toNat

/-- The manifest an image carries (Table 16.8). -/
def manifestOf (i : Image) : List Byte :=
  bytesLE 4 i.magic.toNat ++ bytesLE 2 i.format.toNat ++ bytesLE 2 i.typ.toNat ++ bytesLE 4 i.target.toNat ++ bytesLE 8 i.version.toNat ++
  [i.ctrIdx, i.ctrVal, i.keySlot, i.flags] ++ bytesLE 4 i.bodyLen.toNat ++ bytesLE 4 i.entOff.toNat ++ bytesLE 2 i.entCnt.toNat ++
  i.zero1 ++ i.bodyDigest ++ i.zero2

/-- The image as it stands in flash: body, manifest, signature, the rest of the trailer of 4,888 bytes (R383). -/
def imageFile (i : Image) : List Byte := i.bytes ++ manifestOf i ++ i.sig ++ i.tail

/-- The image that a file of at least 4,888 bytes is, its body spelling `body` to its loader (R383, Table 16.8). -/
def imageOf (file : List Byte) (body : ImageBody) : Image :=
  let n := file.length - 4888
  let m := (file.drop n).take 256
  let g (o k : Nat) : Nat := natAt m o k
  { magic := BitVec.ofNat 32 (g 0 4), format := BitVec.ofNat 16 (g 4 2), typ := BitVec.ofNat 16 (g 6 2), target := BitVec.ofNat 32 (g 8 4)
    version := BitVec.ofNat 64 (g 0x0C 8), ctrIdx := BitVec.ofNat 8 (g 0x14 1), ctrVal := BitVec.ofNat 8 (g 0x15 1)
    keySlot := BitVec.ofNat 8 (g 0x16 1), flags := BitVec.ofNat 8 (g 0x17 1), bodyLen := BitVec.ofNat 32 (g 0x18 4)
    entOff := BitVec.ofNat 32 (g 0x1C 4), entCnt := BitVec.ofNat 16 (g 0x20 2), zero1 := (m.drop 0x22).take 30
    bodyDigest := (m.drop 0x40).take 64, zero2 := m.drop 0x80, sig := (file.drop (n + 256)).take 4627, tail := file.drop (n + 4883)
    bytes := file.take n, body := body }

/-- The measurement of an image: SHA3-512 of its manifest (R383). -/
def measureOf (i : Image) : List Byte := sha3 (manifestOf i)

/-- Magic, format, flags and counter fields hold and the reserved bytes are zero (R384). -/
def imageFormat (i : Image) : Bool :=
  decide (i.magic = 0x53564D46) && decide (i.format = 1) && decide (i.ctrIdx.toNat < 64) && decide (i.ctrVal.toNat ≤ 128) &&
  decide (i.keySlot.toNat < 4) && decide (i.flags.toNat < 2) && i.zero1.all (fun b => decide (b = 0)) && i.zero2.all (fun b => decide (b = 0))

/-- The body has its length and its digest (R383, R384). -/
def imageDigest (i : Image) : Bool := decide (i.bodyLen.toNat = i.bytes.length) && decide (i.bodyDigest = sha3 i.bytes)

/-- The signature verifies under `key` with context string "SVZ-IMG" (R383). -/
def imageSigned (i : Image) (key : List Byte) : Bool := dsaVerify key [0x53, 0x56, 0x5A, 0x2D, 0x49, 0x4D, 0x47] (manifestOf i) i.sig

/-- Flag bit 0 of a manifest, RBADV: the counter advances when the image is activated (R385). -/
def imageAdvances (i : Image) : Bool := i.flags.getLsbD 0

/-- The counter an image names stands above its value (R385). -/
def Holm.rolledBack (h : Holm) (i : Image) : Bool := decide (i.ctrVal.toNat < (h.counters[ix 64 i.ctrIdx.toNat]).toNat)

/-- The keys of an owner key file that are accepted, by slot: one per programmed slot, in slot order, each with the hash of OTP (R384). -/
def Holm.acceptKeys (h : Holm) : Vector (List Byte) 4 :=
  Vector.ofFn (fun k =>
    let j := ((List.range k.val).filter (fun i => h.slotProg.getLsbD i)).length
    let key := h.keyFile.getD j []
    if h.slotProg.getLsbD k.val ∧ key.length = 2592 ∧ sha3 key = h.keyHash[k] then key else [])

/-- The Ohmesk manufacturing key, where OTP's hash authenticates it (Table 16.10). -/
def Holm.vendorKey (h : Holm) : List Byte := if sha3 h.ohmeskKey = h.ohmeskHash then h.ohmeskKey else []

/-- A signature by an owner slot that is programmed and not revoked, under a context string. -/
def Holm.ownerSigned (h : Holm) (k : Nat) (ctx m sig : List Byte) : Bool :=
  decide (k < 4) && h.keyLive (BitVec.ofNat 2 k) && dsaVerify h.keys[ix 4 k] ctx m sig

/-- The keys of an owner key file image: one per programmed slot, in slot order, with the hashes of OTP, and its bytes are theirs (R384). -/
def Holm.keysFit (h : Holm) (i : Image) (ks : List (List Byte)) : Bool :=
  let slots := (List.finRange 4).filter (fun (k : Fin 4) => h.slotProg.getLsbD k.val)
  decide (i.bytes = ks.flatten) && decide (ks.length = slots.length) &&
  (ks.zip slots).all (fun x => decide (x.1.length = 2592) && decide (sha3 x.1 = h.keyHash[x.2]))

/-! ### OTP (R385, Table 16.10) -/

/-- The 2,048 bytes of OTP: key hashes, slot bits, LC count, hash of the manufacturing key, counters as thermometers, PUF helper data,
grade, trim and test fuses, the reserved bits. -/
def Holm.otp (h : Holm) : List Byte :=
  h.keyHash.toList.flatMap (fun k => (k ++ List.replicate 64 0).take 64) ++ [h.slotRev ++ h.slotProg] ++ bytesLE 1 (2 ^ h.lcCount.toNat - 1) ++
  (h.ohmeskHash ++ List.replicate 64 0).take 64 ++ h.counters.toList.flatMap (fun c => bytesLE 16 (2 ^ c.toNat - 1)) ++
  (h.helper ++ List.replicate 256 0).take 256 ++ bytesLE 126 h.trim.toNat ++ bytesLE 320 h.otpRest.toNat

end Sys2Proof.Machine
end

