-- ==== Sys2Proof/Machine/Shore.lean ====
section
/-! DEFINITION. Machine/Shore.lean: the shore fabric: loading, release, scrubbing and the safe state, cells, serial engines,
the control port, capture and the fabric flash (spec/15 R354 to R373). -/

namespace Sys2Proof.Machine

/-- Apply `f` to the shore. -/
def State.modShore (s : State) (f : Shore → Shore) : State := { s with shore := f s.shore }

/-- Set bit `i` of SHIRQ. -/
def State.shirq (s : State) (i : Nat) : State := s.modShore (fun h => { h with irq := h.irq ||| (1 <<< i) })

/-! ### Loading (R363 to R367) -/

/-- A preset entry without a reserved code or bit (Table 15.7). -/
def presetOk (e : BitVec 16) : Bool :=
  decide ((fld e 0 3 : BitVec 3) ≠ 7) && decide ((fld e 3 2 : BitVec 2) ≠ 3) && decide ((fld e 9 3 : BitVec 3) ≠ 7) &&
  decide ((fld e 12 4 : BitVec 4) = 0)

/-- The presets give signal `sig` of engine `e` to a cell with code 0b110 (R362). -/
def presetHas (b : Bitstream) (e sig : Nat) : Bool :=
  b.presets.toList.any (fun p => decide ((fld p 0 3 : BitVec 3) = 6) && decide ((fld p 6 3 : BitVec 3).toNat = e) &&
    decide ((fld p 9 3 : BitVec 3).toNat = sig))

/-- The engine of the service UART (R362, Table 20.5). -/
def State.uartEngine (s : State) : Fin 8 := (fld s.holm.straps 0 3 : BitVec 3).toFin

/-- The image in a slot. -/
def State.slotImage (s : State) (slot : Bool) : Option Image := s.shore.slots[if slot then (1 : Fin 2) else 0]

/-- The bitstream of an image. -/
def imageBits (i : Image) : Option Bitstream := match i.body with | .bitstream b => some b | _ => none

/-- The image is signed by the owner slot it names (spec/16 R384). -/
def State.imageKeyed (s : State) (i : Image) : Bool :=
  s.holm.ownerSigned i.keySlot.toNat [0x53, 0x56, 0x5A, 0x2D, 0x49, 0x4D, 0x47] (manifestOf i) i.sig

/-- The checks of step 3, in the order of Table 15.9. -/
def State.loadCheck3 (s : State) (i : Option Image) : Nat :=
  match i with
  | none => 1
  | some m =>
    if !(imageFormat m && s.imageKeyed m && imageDigest m) then (if imageFormat m then 1 else 3)
    else if s.holm.rolledBack m then 2
    else match imageBits m with
      | none => 3
      | some b => if !bitsWf b then 3 else if b.levels ≠ s.shore.levels then 4 else 0

/-- The refusal found at the end of a step; 0 none. `ok` is the outcome of what only the hardware finds: the flash read
and signature of steps 2 and 3, the PLL's lock at step 5, the read-back at step 6. -/
def State.loadCheck (s : State) (step : Nat) (i : Option Image) (ok : Bool) : Nat :=
  match i.bind imageBits, step with
  | _, 2 => if ok then 0 else 1
  | _, 3 => let c := s.loadCheck3 i; if c = 0 ∧ !ok then 1 else c
  | some b, 4 => if b.presets.toList.all presetOk && ok then 0 else 3
  | some b, 5 =>
    if !netMuxOk b.net then 5
    else if !cellResourceOk b || !netResourceOk b.net || !presetHas b s.uartEngine.val 0 || !presetHas b s.uartEngine.val 1 then 7
    else if ok then 0 else 8
  | some b, 6 => if bitsCrcOk b && ok then 0 else 6
  | none, _ => 3
  | _, _ => 0

/-- Step 1: GSR, the stream port stops; the first load leaves the pins at high impedance with weak pull-down, a reload takes
the old presets (Table 15.8, R357). -/
def State.loadStart (s : State) (slot retry : Bool) : State :=
  let again := decide (s.shore.st ≠ 0) && (decide (s.shore.st ≠ 1) || s.shore.bits.isSome)
  let s := if again then s.portBreak else s
  s.modShore (fun h => { h.holdGsr with
    st := 1, release := false, loaded := false, load := some { step := 2, slot := slot, retry := retry }
    pins := if again then .presets else .pullDown, pinsNext := none, uirq := 0 })

/-- Record a refusal of the boot: bit `bit` of BOOTSTAT, REASON where it is the first, an event (spec/16 R388). -/
def State.bootRefuse (s : State) (bit reason : Nat) : State :=
  let b := s.holm.bootstat
  let b := if (fld b 20 4 : BitVec 4) = 0 then setFld b 20 4 (BitVec.ofNat 4 reason) else b
  State.event { s with holm := { s.holm with bootstat := b ||| (1 <<< bit) } } .bootRefusal
    [BitVec.ofNat 8 bit, BitVec.ofNat 8 reason]

/-- BOOTSTAT.REASON (spec/16 Table 16.11) for a code of Table 15.9: CFG_SIG stands for a flash that cannot be read, a bad signature, a
revoked key slot or a bad digest. (DEDUCED, log 75) -/
def State.lerrReason (s : State) (step code : Nat) (i : Option Image) : Nat :=
  match code with
  | 1 =>
    if step = 2 then 7
    else (match i with
      | some m => if s.holm.slotRev.getLsbD m.keySlot.toNat then 5 else if !s.imageKeyed m then 1 else if !imageDigest m then 3 else 1
      | none => 1)
  | 2 => 2 | 3 => 4 | _ => 6

/-- A refused load (R367). -/
def State.loadRefuse (s : State) (l : ShoreLoad) (code : Nat) : State :=
  let s := (s.modShore (fun h => { h with lerr := BitVec.ofNat 4 code })).shirq 1
  let s := s.event .fabricLoad [BitVec.ofNat 8 code]
  let s := if s.mode = .boot then s.bootRefuse 16 (s.lerrReason l.step code (s.slotImage l.slot)) else s
  if l.step < 5 then
    let s := s.modShore (fun h => { h with bits := none, pll := false, st := 0, load := none })
    if l.retry then s.loadStart (!l.slot) false else s
  else if l.step = 5 then s.modShore (fun h => { h with bits := none, pll := false, st := 2, load := none })
  else s.modShore (fun h => { h with st := 2, load := none })

/-- What a completed step of the load leaves (Table 15.8): presets at step 4, frames and the locked PLL at step 5; a quadrant that the
bitstream leaves unused is off from step 7 on (R370). (DEDUCED, log 75) -/
def State.loadStep (s : State) (l : ShoreLoad) (b : Bitstream) : State :=
  match l.step with
  | 4 => s.modShore (fun h => { h with
      latches := b.presets, pins := .presets, load := some { l with step := 5 }
      engine := Vector.ofFn (fun e => { h.engine[e] with mode := (b.engines[e]).mode, canAt := 0, canOk := false }) })
  | 5 => s.modShore (fun h => { h with
      bits := some { b with frames := SMap.norm 0 b.frames }, pll := true, fdelta := [], scrubPos := 0, load := some { l with step := 6 }
      taps := Vector.ofFn (fun c => (cellOf b c.val).tap), strobe := 0 })
  | 7 =>
    let s := (s.modShore (fun h => { h with
      mcells := b.init, st := 2, loaded := true, slotRun := l.slot, load := none, release := s.mode.pinsFunction, relLeft := b.relcnt.toNat })).shirq 0
    let s : State := { s with pwr := { s.pwr with on := s.pwr.on ||| (s.quadrants &&& s.permitted) } }
    ((List.range 4).filter (fun q => s.pwr.on.getLsbD (308 + q) && !s.quadrants.getLsbD (308 + q))).foldl (fun t q => t.switchOff (308 + q)) s
  | _ => s.modShore (fun h => { h with load := some { l with step := l.step + 1 } })

/-- The running step of the load completes, or the load is refused. -/
def State.loadDone (s : State) (ok : Bool) : State :=
  match s.shore.load with
  | none => s
  | some l =>
    let i := s.slotImage l.slot
    let code := s.loadCheck l.step i ok
    if code ≠ 0 then (s.loadRefuse l code).clocks
    else match i.bind imageBits with
      | some b => (s.loadStep l b).clocks
      | none => s.modShore (fun h => { h with load := some { l with step := l.step + 1 } })

/-- FABRIC_LOAD_STEP_DONE. -/
def execFabricLoadStepDone (ok : Bool) (s : State) : Out := .next (s.loadDone ok).settleCommit

/-- FABRIC_RELEASE: the RELCNT-th FREF edge after the request releases GSR; the pins take their function on the next one where the mode has
them there (R366). -/
def execFabricRelease (s : State) : Out :=
  if s.shore.release && s.shore.loaded && decide (s.shore.st = 2) then
    .next (s.modShore (fun h => { h with
      gsr := false, st := 3, release := false, relLeft := 0, pins := .presets, pinsNext := if s.mode.pinsFunction then some .function else none }))
  else .next s

/-! ### Scrubbing (R368, R369) -/

/-- The fabric enters its safe state; with AUTORELOAD the loaded slot is reloaded, but a second one within 60 s of an automatic
reload leaves the fabric held. -/
def State.fabricSafe (s : State) (recent : Bool) : State :=
  let s := ((s.portBreak).modShore (fun h => { h.holdGsr with st := 4, pins := .presets, pinsNext := none, uirq := 0, release := false })).shirq 3
  let s := s.event .fabricSafe []
  if !s.shore.autoReload then s
  else if recent then s.modShore (fun h => { h with st := 2, loaded := false })
  else s.loadStart s.shore.slotRun false

/-- The scrubber has found what it cannot correct: the safe state, unless the fabric stands there already. (DEDUCED, log 75) -/
def State.scrubBad (s : State) (recent : Bool) : State := if s.shore.st = 4 then s else s.fabricSafe recent

/-- FABRIC_SCRUB: while a configuration is loaded one of its frames is read. `crcOk` tells an upset that the CRC-32C of the whole array
finds; a select field with more than one bit set is found in the logic. -/
def execFabricScrub (crcOk recent : Bool) (s : State) : Out :=
  if s.shore.loaded && (decide (s.shore.st = 2) || decide (s.shore.st = 3) || decide (s.shore.st = 4)) then
    let p := s.shore.scrubPos
    let s := s.modShore (fun h => { h with scrubPos := if p + 1 < 720 then p + 1 else 0 })
    if !crcOk || !s.shore.bits.all (fun b => netMuxOk b.net) then .next (s.scrubBad recent)
    else match eccDecode 1008 10 (SMap.get 0 s.shore.fdelta p).toNat with
      | .clean => .next s
      | .corrected bit =>
        let fix (b : Bitstream) : Bitstream :=
          { b with frames := SMap.set 0 b.frames p (match bit with
              | some i => SMap.get 0 b.frames p ^^^ (1 <<< i)
              | none => SMap.get 0 b.frames p) }
        .next ((s.modShore (fun h => { h with
          fixcnt := satInc h.fixcnt, fdelta := SMap.set 0 h.fdelta p 0, bits := h.bits.map fix })).shirq 2)
      | .bad => .next (s.scrubBad recent)
  else .next s

/-! ### Cells and engines (R354, R355, R361, R362) -/

/-- PERIOD_COUNT_EDGE: at a cell in period mode a rising edge that its glitch filter lets pass ends a period of `ticks` ticks of the cell's
clock: it is latched with a strobe into the fabric, 0xFFFFFF with the overflow flag where it is longer, and the count starts again. -/
def execPeriodCountEdge (cell ticks : Nat) (s : State) : Out :=
  if h : cell < 224 then
    if s.shore.bits.any (fun b => (cellOf b cell).period) then
      .next (s.modShore (fun x => { x with
        strobe := x.strobe ||| ((1 : BitVec 224) <<< cell)
        cells := x.cells.set cell (if ticks ≤ 0xFFFFFF then BitVec.ofNat 25 ticks else 0x1FFFFFF) h }))
    else .next s
  else .next s

/-- SIGMA_DELTA_WORD: a packed word of a cell in sigma-delta capture is complete. -/
def execSigmaDeltaWord (cell : Nat) (w : Word) (s : State) : Out :=
  if h : cell < 224 then
    if s.shore.bits.any (fun b => (cellOf b cell).sigma) then .next (s.modShore (fun x => { x with sdWord := x.sdWord.set cell w h })) else .next s
  else .next s

/-- The frame of the service UART after byte `b` (spec/17 R394): a flag ends one and starts the next, an escaped byte is restored, and
a second escape byte or a 1,453rd byte discards it. (DEDUCED, log 99) -/
def uartTake (f : Option (List Byte × Bool)) (b : Byte) : Option (List Byte × Bool) :=
  let push (bs : List Byte) (x : Byte) : Option (List Byte × Bool) := if bs.length < 1452 then some (bs ++ [x], false) else none
  if b = 0x7E then some ([], false)
  else match f with
    | none => none
    | some (bs, true) => if b = 0x7D then none else push bs (b ^^^ 0x20)
    | some (bs, false) => if b = 0x7D then some (bs, true) else push bs b

/-- The Holm takes a byte of the service UART. A flag behind at least one byte ends a frame: it waits to be taken as a packet, or is dropped
and counted where it is shorter than header and tag (spec/17 R394, R395). (DEDUCED, log 99) -/
def Holm.uartByte (h : Holm) (b : Byte) : Holm :=
  let next : Holm := { h with uart := uartTake h.uart b }
  match h.uart with
  | some (bs, false) =>
    if b ≠ 0x7E ∨ bs = [] then next
    else if bs.length < 64 then { next with dropped := h.dropped + 1 }
    else { next with frames := h.frames ++ [bs] }
  | _ => next

/-- A packet as it goes out on the service UART (spec/17 R394). -/
def uartStuff (bs : List Byte) : List Byte :=
  0x7E :: bs.flatMap (fun b => if b = 0x7E ∨ b = 0x7D then [0x7D, b ^^^ 0x20] else [b]) ++ [0x7E]

/-- Without a bitstream the service UART runs on fixed cells in four modes (spec/20 R457). -/
def State.uartFixed (s : State) : Bool :=
  decide (s.shore.st = 0) &&
    (decide (s.mode = .provision) || decide (s.mode = .configure) || decide (s.mode = .service) || decide (s.mode = .safeStop))

/-- Its cells then, transmit and receive: SH(28e + 26) and SH(28e + 27). -/
def State.uartCells (s : State) : Nat × Nat := (28 * s.uartEngine.val + 26, 28 * s.uartEngine.val + 27)

/-- The Holm takes what engine `e` receives: the service UART in a mode that serves Vevis (R362, spec/17 R393). -/
def State.holmListens (s : State) (e : Fin 8) : Bool :=
  decide (e = s.uartEngine) && decide (4 ≤ s.mode.code) && (decide ((s.shore.engine[e]).mode ≠ 0) || s.uartFixed)

/-- Payload words of a CAN FD frame by its DLC word; a classic one has at most 8 bytes (R361, ISO 11898-1). (PRESUMED, log 106) -/
def canWords (dlc : Nat) (fd : Bool) : Nat :=
  let n := if dlc ≤ 8 then dlc else if !fd then 8 else [12, 16, 20, 24, 32, 48, 64].getD (dlc - 9) 64
  (n + 3) / 4

/-- A filter takes the frame of a header word; without filters every frame is taken. (DESIGN CHOICE, log 105) -/
def canAccepts (fs : List CanFilter) (w : Word) : Bool :=
  fs.isEmpty || fs.any (fun f => (f.ide == w.getLsbD 29) && decide ((fld w 0 29 ^^^ f.id) &&& f.mask = 0))

/-- The filters of engine `e`. -/
def State.canFilters (s : State) (e : Fin 8) : List CanFilter :=
  match (s.shore.bits.map (fun b => b.engines[e]) : Option EngineCfg) with
  | some (.can _ _ fs) => fs.take 32
  | _ => []

/-- A received word of a CAN FD engine, and whether it enters the FIFO: header word, DLC word, payload (R361). -/
def Engine.canTake (g : Engine) (fs : List CanFilter) (w : Word) : Bool × Engine :=
  if g.canAt = 0 then (canAccepts fs w, { g with canAt := 1, canOk := canAccepts fs w, canFd := w.getLsbD 30 })
  else if g.canAt = 1 then
    let n := canWords (fld w 0 4 : BitVec 4).toNat g.canFd
    (g.canOk, { g with canAt := if n = 0 then 0 else n + 1 })
  else (g.canOk, { g with canAt := if g.canAt = 2 then 0 else g.canAt - 1 })

/-- SERIAL_ENGINE_RX: received data enter the FIFO (OVR where it is full), from which the Holm takes those of the service UART at
once, or an error is noted; either sets the SHIRQ bit. -/
def execSerialEngineRx (e : Fin 8) (data : Option Word) (s : State) : Out :=
  let g := s.shore.engine[e]
  if s.holmListens e ∧ data.isSome then
    .next (({ s with holm := s.holm.uartByte (fld (data.getD 0) 0 8) } : State).shirq (8 + e.val))
  else if g.mode = 0 then .next s
  else
    let (takes, g) := match data with
      | some w => if g.mode = 6 then g.canTake (s.canFilters e) w else (true, g)
      | none => (true, { g with canAt := 0 })
    if !takes then .next (s.modShore (fun x => { x with engine := vset x.engine e g })) else
    let g' : Engine := match data with
      | none => { g with err := true }
      | some w => if g.rx.length < 64 then { g with rx := g.rx ++ [w] } else { g with ovr := true }
    .next ((s.modShore (fun x => { x with engine := vset x.engine e g' })).shirq (8 + e.val))

/-- The initiator reaches the SHORE block (spec/01 Table 1.9). -/
def accReachesShore (acc : Acc) : Bool := accReachesRegs acc || decide (acc.src.val = 23)

/-- The engine's registers are closed to the accessor: the service UART's answer only HC (R362). -/
def State.engineDenied (s : State) (acc : Acc) (e : Fin 8) : Bool :=
  !accReachesShore acc || (decide (e = s.uartEngine) && decide (acc.src.val ≠ 4))

/-- Push a word to the transmit FIFO of engine `e`; a full one drops it and sets OVR. -/
def State.enginePush (s : State) (e : Fin 8) (v : Word) : State :=
  let g := s.shore.engine[e]
  if g.tx.length < 64 then s.modShore (fun x => { x with engine := vset x.engine e { g with tx := g.tx ++ [v] } })
  else (s.modShore (fun x => { x with engine := vset x.engine e { g with ovr := true } })).shirq (8 + e.val)

/-- Pop the receive FIFO: 0 when empty. -/
def State.enginePop (s : State) (e : Fin 8) : Word × State :=
  let g := s.shore.engine[e]
  match g.rx with
  | [] => (0, s)
  | w :: rest => (w, s.modShore (fun x => { x with engine := vset x.engine e { g with rx := rest } }))

/-- SEDATA_WRITE. -/
def execSedataWrite (acc : Acc) (e : Fin 8) (v : Word) (s : State) : Out :=
  let s := s.enters (accReachesShore acc) acc 4
  if s.engineDenied acc e then .next (s.answer acc .denied []) else .next ((s.enginePush e v).answer acc .ok [])

/-- SEDATA_READ. -/
def execSedataRead (acc : Acc) (e : Fin 8) (s : State) : Out :=
  let s := s.enters (accReachesShore acc) acc 0
  if s.engineDenied acc e then .next (s.answer acc .denied [])
  else let (w, t) := s.enginePop e; .next (t.answer acc .ok (bytesLE 4 w.toNat))

/-! ### Control port and capture (R358, R372) -/

/-- CONTROL_PORT_ACCESS: running fabric logic issues an access of 1, 2, 4 or 8 bytes, at most four outstanding, under a
tag neither in use nor in quarantine (spec/13 R313). -/
def execControlPortAccess (req : Request) (s : State) : Out :=
  let plain := match req.op with | .atomic _ _ => false | _ => true
  let few := decide ((s.net.requests.filter (fun r => decide (r.src = 23))).length < 4)
  let free := !s.net.quarantine.contains (23, req.tag) && !s.net.requests.any (fun r => decide (r.src = 23) && decide (r.tag = req.tag))
  if decide (req.src = 23) && decide (s.shore.st = 3) && free && plain && [1, 2, 4, 8].contains (reqLen req.op) && few then
    .next (s.inject req)
  else .next s

/-- The 24 bits of cell `c` in a snapshot: its period count, or its registers (R372). -/
def Shore.cellShadow (h : Shore) (c : Fin 224) : List Byte :=
  let v : Nat := if h.bits.any (fun b => (cellOf b c.val).period) then (h.cells[c]).toNat % 2 ^ 24 else (h.regs[c]).toNat
  bytesLE 3 v

/-- CAPTURE_TRIGGER: the armed edge or trigger arrives, a snapshot of 800 bytes is taken (`snap` has that length). Every shadow holds what its
register holds, since an edge of a clock is a step of its own. The fabric does not stop. (DESIGN CHOICE, log 98) -/
def execCaptureTrigger (snap : List Byte) (s : State) : Out :=
  if s.shore.capArmed.isSome && decide (snap.length = 800) then
    .next ((s.modShore (fun x => { x with
      capArmed := none, capture := some (bytesLE 128 x.mcells.toNat ++ (List.finRange 224).flatMap x.cellShadow) })).shirq 4)
  else .next s

/-! ### Clock edges -/

/-- What the fabric does by itself on an empty queue: the next clock edge of a configured one. Which clock source has it, and what
the serial engines have sent, are free values: the spec fixes no phases. (DESIGN CHOICE, log 98) -/
def State.fabricTick (s : State) : State :=
  match s.shore.bits with
  | some b =>
    if s.shore.loaded then
      let k := Config.freeTick s.fresh
      { s with fresh := s.fresh + 1, shore := ((s.shore.edge b s.fresh (k / 2 % 25) (decide (k % 2 = 1))).fref b (k / 2 % 25) (decide (k % 2 = 1)) s.mode.pinsFunction).sendTx s.fresh }
    else s
  | none => s

/-! ### The user area of the flash (R360, R373) -/

/-- A command written to NVCTL starts, unless one is in progress; ADDR takes the written value. -/
def State.nvStart (s : State) (cmd : BitVec 2) (addr : BitVec 16) : State :=
  let s := s.modShore (fun x => { x with nvAddr := addr })
  if s.shore.nvBusy || decide (cmd = 0) then s
  else s.modShore (fun x => { x with nvBusy := true, nvCmd := cmd, nvOpAddr := addr &&& 0xFFFC, nvOpData := x.nvData })

/-- A command through NVCTL by an accessor. -/
def State.nvAction (s : State) (acc : Acc) (cmd : BitVec 2) (addr : BitVec 16) : State :=
  if accReachesShore acc then ((s.enters true acc 4).nvStart cmd addr).answer acc .ok [] else s.answer acc .denied []

/-- NVCTL_READ. -/
def execNvctlRead (acc : Acc) (addr : BitVec 16) (s : State) : Out := .next (s.nvAction acc 1 addr)
/-- NVCTL_PROGRAM. -/
def execNvctlProgram (acc : Acc) (addr : BitVec 16) (s : State) : Out := .next (s.nvAction acc 2 addr)
/-- NVCTL_ERASE. -/
def execNvctlErase (acc : Acc) (addr : BitVec 16) (s : State) : Out := .next (s.nvAction acc 3 addr)

/-- The word or sector the command in progress leaves undefined: free bytes (R360). -/
def State.nvSpoil (s : State) : State :=
  let a := s.shore.nvOpAddr.toNat
  let free (n : Nat) : List Byte := (List.range n).map (fun i => Config.freeByte s.fresh i)
  let put (o : Nat) (bs : List Byte) : State :=
    { s with fresh := s.fresh + 1, shore := { s.shore with flash := wrBytes 0xFF s.shore.flash o bs } }
  if !s.shore.nvBusy then s
  else if s.shore.nvCmd = 2 then put a (free 4)
  else if s.shore.nvCmd = 3 then put (a / 4096 * 4096) (free 4096)
  else s

/-- NV_COMMAND_DONE: the command completes; a failed verification sets ERR and leaves the place undefined. -/
def execNvCommandDone (ok : Bool) (s : State) : Out :=
  if !s.shore.nvBusy then .next s
  else
    let a := s.shore.nvOpAddr.toNat
    let t := if !ok then s.nvSpoil
      else match s.shore.nvCmd with
        | 1 => s.modShore (fun x => { x with nvData := BitVec.ofNat 32 (natLE (rdBytes 0xFF x.flash a 4)) })
        | 2 => s.modShore (fun x => { x with flash := wrBytes 0xFF x.flash a (bytesLE 4 x.nvOpData.toNat) })
        | _ => s.modShore (fun x => { x with flash := x.flash.filter (fun c => decide (c.1 / 4096 ≠ a / 4096)) })
    .next (t.modShore (fun x => { x with nvBusy := false, nvErr := if ok then x.nvErr else true }))

end Sys2Proof.Machine
end

