-- ==== Sys2Proof/Machine/Images.lean ====
section
/-! DEFINITION. Machine/Images.lean: the acceptance of images: manifest, key slot, signature, digest, counter, and the loader
checks of moulds, customer slots and bitstreams (spec/16 R383 to R386, spec/11 R279, spec/03 R90, spec/15 R367). -/

namespace Sys2Proof.Machine

/-- Why an image is refused (BOOTSTAT.REASON, spec/16 Table 16.11). -/
inductive ImgFault where
  | signature | rollback | digest | format | revoked | loader | flash
deriving DecidableEq, Repr

/-- Codes of BOOTSTAT.REASON. -/
def ImgFault.code : ImgFault → Nat
  | .signature => 1 | .rollback => 2 | .digest => 3 | .format => 4 | .revoked => 5 | .loader => 6 | .flash => 7

/-! ### Customer slots (spec/11 Table 11.16) -/

/-- What a body instruction is to the checks: units, FIXED count, stack words reached below the top, change of depth, and
whether it is a store. -/
structure BodyStep where
  units : Nat
  count : Nat
  reach : Nat
  change : Int
  store : Bool
deriving DecidableEq, Repr

/-- A body unit's instruction; none where the checks do not permit it (Tables 11.3 to 11.8, 11.16). -/
def bodyStep (u0 : BitVec 16) : Option BodyStep :=
  let op := (fld u0 8 8 : Byte).toNat
  let b := (fld u0 0 8 : Byte).toNat
  let mk (units count reach : Nat) (change : Int) : Option BodyStep :=
    some { units := units, count := count, reach := reach, change := change, store := false }
  let U (x : Option BodyStep) : Option BodyStep := if b = 0 then x else none
  match op with
  | 0x00 => U (mk 1 1 0 0)
  | 0x01 => U (mk 1 1 1 1)
  | 0x02 => U (mk 1 1 1 (-1))
  | 0x03 => U (mk 1 1 2 0)
  | 0x04 => U (mk 1 1 2 1)
  | 0x05 => U (mk 1 1 3 0)
  | 0x06 => mk 1 1 (b + 1) 1
  | 0x07 => mk 1 1 (b + 2) (-1)
  | 0x08 => U (mk 1 1 0 1)
  | 0x10 => mk 1 1 0 1
  | 0x11 => U (mk 2 2 0 1)
  | 0x12 => U (mk 3 3 0 1)
  | 0x13 => U (mk 2 2 1 0)
  | 0x22 | 0x23 => U (mk 1 2 3 (-1))
  | 0x24 => U (mk 1 10 2 (-1))
  | 0x25 | 0x26 => U (mk 1 11 2 0)
  | 0x27 | 0x28 | 0x29 | 0x2A => U (mk 1 36 2 (-1))
  | 0x2E | 0x2F | 0x34 | 0x35 | 0x3B | 0x3C | 0x3D | 0x3E => U (mk 1 2 1 0)
  | 0x36 => U (mk 1 3 2 (-1))
  | 0x37 => U (mk 1 3 3 (-2))
  | 0x20 | 0x21 | 0x2B | 0x2C | 0x2D | 0x30 | 0x31 | 0x32 | 0x33 | 0x38 | 0x39 | 0x3A => U (mk 1 2 2 (-1))
  | 0x40 => if b ≤ 10 then mk 1 1 0 1 else none
  | 0x41 => if b ≤ 10 then mk 1 1 1 (-1) else none
  | 0x50 | 0x51 | 0x52 | 0x53 | 0x54 => U (mk 1 3 1 0)
  | 0x58 | 0x59 | 0x5A => U (some { units := 1, count := 3, reach := 2, change := -2, store := true })
  | _ => none

/-- What a body measures to: count, words read below the start, greatest and last depth relative to the start. -/
structure BodyMeasure where
  count : Nat
  reads : Int
  peak : Int
  depth : Int
deriving DecidableEq, Repr

/-- Walk a body from unit `j`; none where a check of Table 11.16 fails. -/
def measureBody (unit : Nat → BitVec 16) (limit : Nat) : Nat → Nat → BodyMeasure → Option BodyMeasure
  | 0, _, _ => none
  | fuel + 1, j, m =>
    if limit ≤ j then none
    else if unit j = 0xD000 then some m
    else
      match bodyStep (unit j) with
      | none => none
      | some st =>
        if st.store && unit (j + st.units) != 0xD000 then none
        else
          let d := m.depth + st.change
          measureBody unit limit fuel (j + st.units)
            { count := m.count + st.count, reads := max m.reads (st.reach - m.depth), peak := max m.peak d, depth := d }

/-- An enabled slot passes every check of Table 11.16. An IMM word is a push before the body. -/
def slotLegal (e : Word) (ustore : SMap (BitVec 96)) : Bool :=
  let entry := (fld e 15 8 : Byte).toNat
  let imm := if e.getLsbD 29 then 1 else 0
  let unit (j : Nat) : BitVec 16 := fld (SMap.get 0 ustore (entry + j / 6)) (16 * (j % 6)) 16
  !e.getLsbD 31 ||
  (decide ((fld e 0 3 : BitVec 3) = 0) &&
   match measureBody unit ((256 - entry) * 6) 64 0 { count := 0, reads := 0, peak := 0, depth := 0 } with
   | none => false
   | some m =>
     let cc := (fld e 23 6 : BitVec 6).toNat
     decide (cc = 1 + imm + m.count) && decide (cc ≤ 36) && decide (((fld e 11 4 : BitVec 4).toNat : Int) = m.reads) &&
     decide (((fld e 7 4 : BitVec 4).toNat : Int) = max 0 (m.peak + imm)) &&
     decide ((fld e 3 4 : BitVec 4).toInt = m.depth + imm))

/-! ### Loader checks by type (spec/16 R384) -/

/-- The archipelagos of a mask. -/
def maskArchs (t : Word) : List Arch := (List.finRange 8).filter (fun a => t.getLsbD a.val)

/-- The mould of archipelago `a` with an image's area in place of what stands there. -/
def Mould.withImage (m : Mould) (vendor : Bool) (words : List (A13 × Micro)) (entries : List A13) : SMap Micro × List A13 :=
  let mine (i : Nat) : Bool := decide (i < 0x1800) == vendor
  let rest := m.word.filter (fun x => !mine x.1)
  (words.foldl (fun (t : SMap Micro) w => SMap.set 0 t w.1.toNat w.2) rest,
   m.entries.filter (fun e => !mine e.toNat) ++ entries)

/-- A mould image passes Table 3.10 in archipelago `a` and keeps to its area. -/
def State.mouldFits (s : State) (a : Arch) (vendor : Bool) (words : List (A13 × Micro)) (entries : List A13) : Bool :=
  let (ws, es) := (s.arch[a]).mould.withImage vendor words entries
  words.all (fun w => decide (w.1.toNat < 0x1800) == vendor) && mouldLegal ws es (s.arch[a]).seq.nxtLock

/-- TYPE and TARGET fit the device and grade, and the body is of the type (Table 16.9). -/
def State.targetFits (s : State) (i : Image) : Bool :=
  let t := i.target.toNat
  let archs := decide (0 < t) && decide (t < (if s.gradeC then 16 else 256))
  match i.typ.toNat, i.body with
  | 1, .uzoug => decide (t = 0)
  | 2, .mould _ _ => archs
  | 3, .mould _ _ => archs
  | 4, .core _ _ _ => decide (0 < t) && decide (t < 16)
  | 5, .bitstream _ => decide (t < 2)
  | 6, .config _ _ _ _ => decide (t = 0)
  | 7, .keys _ => decide (t = 0)
  | _, _ => false

/-- The entry table of a mould image: ENTCNT 16-bit addresses at ENTOFF of the body (Table 16.8). -/
def entryTable (i : Image) : List Nat := (List.range i.entCnt.toNat).map (fun k => natAt i.bytes (i.entOff.toNat + 2 * k) 2)

/-- The loader checks of the image's type. -/
def State.loaderOk (s : State) (i : Image) : Bool :=
  match i.body with
  | .mould ws es => decide (entryTable i = es.map BitVec.toNat) && (maskArchs i.target).all (fun a => s.mouldFits a (decide (i.typ = 2)) ws es)
  | .core _ slots ustore => slots.toList.all (fun e => slotLegal e ustore)
  | .bitstream b =>
    bitsWf b && b.presets.toList.all presetOk && netMuxOk b.net && cellResourceOk b && netResourceOk b.net &&
    presetHas b s.uartEngine.val 0 && presetHas b s.uartEngine.val 1
  | _ => true

/-- The key that must have signed the image has (Table 16.15): the manufacturing key for Uzoug in BLANK and RETURNED, an
owner slot otherwise; nothing in SCRAPPED. The owner key file is not signed: its keys must have the hashes of OTP (R384). -/
def State.keyFault (s : State) (i : Image) : Option ImgFault :=
  let lc := s.holm.lcState
  if lc = 4 then some .signature
  else if i.typ = 7 then (match i.body with | .keys ks => if s.holm.keysFit i ks then none else some .signature | _ => some .signature)
  else if i.typ = 1 ∧ (lc = 0 ∨ lc = 3) then (if imageSigned i s.holm.vendorKey then none else some .signature)
  else if s.holm.slotRev.getLsbD i.keySlot.toNat then some .revoked
  else if !s.holm.slotProg.getLsbD i.keySlot.toNat || !imageSigned i s.holm.keys[ix 4 i.keySlot.toNat] then some .signature
  else none

/-- Why an image is refused; none when it is accepted (R384). -/
def State.imageFault (s : State) (i : Image) : Option ImgFault :=
  if !imageFormat i then some .format
  else match s.keyFault i with
    | some f => some f
    | none =>
      if !imageDigest i then some .digest
      else if s.holm.rolledBack i then some .rollback
      else if (decide (i.typ = 1) && decide (i.ctrIdx ≠ 0)) || !s.targetFits i then some .format
      else if !s.loaderOk i then some .loader
      else none

end Sys2Proof.Machine
end

