-- ==== Sys2Proof/Machine/RegRead.lean ====
section
/-! DEFINITION. Machine/RegRead.lean: the register map of spec/01 Table 1.8, what a read of each register returns, and which
reads taint (the register tables of every chapter, spec/06 Table 6.4). -/

namespace Sys2Proof.Machine

/-- The register blocks of Table 1.8. -/
inductive Block where
  | sys | pwr | clk | arch (a : Arch) | isl (P : Isl) | sprue | riser | lane (l : Fin 16) | sound | lagoon (a : Arch)
  | harbour | dma | xlat | shore | core (n : CoreId) | vital | tide
deriving DecidableEq, Repr

/-- The block at an offset from 0x00_4000_0000 and the offset within it. -/
def blockAt (o : Nat) : Option (Block × Nat) :=
  let at64 (b : Block) : Option (Block × Nat) := some (b, o % 0x10000)
  if o < 0x10000 then at64 .sys
  else if o < 0x20000 then at64 .pwr
  else if o < 0x30000 then at64 .clk
  else if 0x100000 ≤ o ∧ o < 0x180000 then at64 (.arch (ix 8 (offsetFrom 0x100000 o / 0x10000)))
  else if 0x200000 ≤ o ∧ o < 0x308000 then some (.isl (ix 264 (offsetFrom 0x200000 o / 0x1000)), o % 0x1000)
  else if 0x400000 ≤ o ∧ o < 0x410000 then at64 .sprue
  else if 0x410000 ≤ o ∧ o < 0x420000 then at64 .riser
  else if 0x420000 ≤ o ∧ o < 0x430000 then some (.lane (ix 16 (offsetFrom 0x420000 o / 0x1000)), o % 0x1000)
  else if 0x500000 ≤ o ∧ o < 0x510000 then at64 .sound
  else if 0x510000 ≤ o ∧ o < 0x518000 then some (.lagoon (ix 8 (offsetFrom 0x510000 o / 0x1000)), o % 0x1000)
  else if 0x600000 ≤ o ∧ o < 0x610000 then at64 .harbour
  else if 0x610000 ≤ o ∧ o < 0x620000 then at64 .dma
  else if 0x620000 ≤ o ∧ o < 0x630000 then at64 .xlat
  else if 0x700000 ≤ o ∧ o < 0x710000 then at64 .shore
  else if 0x800000 ≤ o ∧ o < 0x840000 then at64 (.core (ix 4 (offsetFrom 0x800000 o / 0x10000)))
  else if 0x900000 ≤ o ∧ o < 0x910000 then at64 .vital
  else if 0xA00000 ≤ o ∧ o < 0xA10000 then at64 .tide
  else none

/-- The block a register address names. -/
def regAt (addr : PAddr) : Option (Block × Nat) := blockAt (offsetFrom 0x40000000 addr.toNat)

/-- The archipelago a block belongs to. -/
def Block.archOf : Block → Option Arch
  | .arch a => some a
  | .isl P => some (islArch P)
  | .lagoon a => some a
  | _ => none

/-- The power domain a register lies in, where it has one (R92, R59, R318, R224, R317, spec/14 R345). -/
def Block.domain (b : Block) (off : Nat) : Option Nat :=
  match b with
  | .arch a | .lagoon a => some (264 + a.val)
  | .isl P => some (264 + (islArch P).val)
  | .sprue => some 312
  | .riser => some 313
  | .lane l => some (272 + l.val)
  | .core n => some (304 + n.val)
  | .harbour => if 0x100 ≤ off ∧ off < 0x300 then some (288 + (off - 0x100) / 0x20) else none
  | _ => none

/-! ### Words -/

/-- A field placed at bit `lo` of a register. -/
def at32 {n : Nat} (x : BitVec n) (lo : Nat) : Word := x.setWidth 32 <<< lo

/-- A flag placed at bit `i`. -/
def flag (b : Bool) (i : Nat) : Word := if b then 1 <<< i else 0

/-- Word `k` of a domain vector. -/
def domWord (v : BitVec 316) (k : Nat) : Word := fld v (32 * k) 32

/-- SYS.IDENT (R5). -/
def State.ident (s : State) : Word := if s.gradeC then 0x65182111 else 0x65182101

/-- SYS.MODE (R432). -/
def State.modeWord (s : State) : Word := BitVec.ofNat 32 s.mode.code ||| flag s.pwr.target.isSome 8

/-- SYS registers. -/
def State.sysReg (s : State) (off : Nat) : Option Word :=
  match off with
  | 0x00 => some s.ident
  | 0x04 => some (at32 s.pwr.rstCause 0)
  | 0x08 => some s.modeWord
  | 0x0C => some (at32 s.holm.straps 0)
  | 0x10 => some (at32 s.latpos 0)
  | _ => none

/-- PWR registers (R433, R434). -/
def State.pwrReg (s : State) (off : Nat) : Option Word :=
  let k := off % 0x40 / 4
  if off % 4 ≠ 0 then none
  else if off = 0x100 then some (flag s.pwr.holdOk 16 ||| at32 s.pwr.holdV 0)
  else if 0xC0 ≤ off ∨ 10 ≤ k then none
  else if off < 0x40 then some (domWord s.pwr.perm k)
  else if off < 0x80 then some (domWord s.pwr.on k)
  else some (domWord s.fenced k)

/-- CLK registers (R435). -/
def State.clkReg (s : State) (off : Nat) : Option Word :=
  match off with
  | 0 => some (flag s.pwr.sysrefSrc 8 ||| at32 s.pwr.qlock 4 ||| flag s.pwr.step 3 ||| flag s.pwr.flock 2 |||
      flag s.pwr.nlock 1 ||| flag s.pwr.plock 0)
  | 4 => some (at32 s.pwr.tj 0)
  | _ => none

/-! ### ARCH[a] and ISL[P] -/

/-- SEQSTAT.STATE (Table 3.13). -/
def SeqMode.code : SeqMode → Nat
  | .running | .twinRoutine => 0
  | .stalled => 1
  | .dispatchWait => 2
  | .parkWait | .barrier => 3
  | .halted _ => 4
  | .fault => 5
  | .noMould => 6

/-- Codes of trap causes (Table 4.10). -/
def TrapCause.code : TrapCause → Nat
  | .twinFault => 1 | .halt => 2 | .preempt => 3

/-- Codes of twin-fault causes (Table 6.9). -/
def TwinCause.code : TwinCause → Nat
  | .data => 1 | .mword => 2 | .flow => 3 | .value => 4

/-- The cause of a slot; 0 when empty. -/
def slotCode (t : Option TrapSlot) : Nat := match t with | some x => x.cause.code | none => 0

/-- TRAPPCn (Table 4.11). -/
def slotPc (t : Option TrapSlot) : Word :=
  match t with | some x => flag true 31 ||| flag x.waiting 30 ||| at32 x.pc 0 | none => 0

/-- ISLRES (Table 1.3). -/
def ArchSt.islres (x : ArchSt) : Word :=
  at32 x.gen 24 ||| at32 x.failSlot 16 ||| flag x.consumed 8 ||| (if x.consumed then 0x3F else at32 x.rslot 0)

/-- The stored word and check field that MRADDR names (R101). -/
def Mould.readRaw (m : Mould) : Micro × BitVec 9 :=
  let w := SMap.get 0 m.word m.rdAddr.toNat
  (w, BitVec.ofNat 9 (eccCheck 144 8 w.toNat) ^^^ SMap.get 0 m.delta m.rdAddr.toNat)

/-- The twin whose TWCFG a pair uses: the even one (spec/06, twin registers). -/
def evenOf (a : Arch) : Arch := ix 8 (a.val / 2 * 2)

/-- ARCH[a] registers. -/
def State.archReg (s : State) (a : Arch) (off : Nat) : Option Word :=
  let x := s.arch[a]
  let q := x.seq
  let m := x.mould
  let t := x.twin
  let raw := m.readRaw
  match off with
  | 0x000 => some (flag q.haltReq 0)
  | 0x004 => some (flag q.tnt 31 ||| BitVec.ofNat 32 (q.queue.length * 0x10000 + q.ctx.stack.length * 0x100 +
      (([q.slot0, q.slot1].filterMap id).length) * 0x10 + q.mode.code))
  | 0x008 => some (flag q.nxtLock 0)
  | 0x00C => some (flag q.seqFault.valid 31 ||| at32 q.seqFault.fpc 16 ||| at32 q.seqFault.cause 0)
  | 0x010 => some (at32 q.lastPc 0)
  | 0x020 => some (flag m.plock 17 ||| flag m.vlock 16 ||| flag m.sue 1 ||| flag m.loaded 0)
  | 0x024 => some (flag m.ueValid 31 ||| at32 m.ueWord 0)
  | 0x028 => some (at32 m.ceCnt 0)
  | 0x030 => some (at32 m.rdAddr 0)
  | 0x034 => some (fld raw.1 0 32)
  | 0x038 => some (fld raw.1 32 32)
  | 0x03C => some (fld raw.1 64 32)
  | 0x040 => some (fld raw.1 96 32)
  | 0x044 => some (at32 raw.2 16 ||| at32 (fld raw.1 128 16 : BitVec 16) 0)
  | 0x100 => some (at32 q.preen 16 ||| at32 q.wdog 0)
  | 0x104 => some (at32 q.preent[(0 : Fin 4)] 0)
  | 0x108 => some (at32 q.preent[(1 : Fin 4)] 0)
  | 0x10C => some (at32 q.preent[(2 : Fin 4)] 0)
  | 0x110 => some (at32 q.preent[(3 : Fin 4)] 0)
  | 0x120 => some (at32 q.defMax 16 ||| at32 q.tfSub 12 ||| BitVec.ofNat 32 (slotCode q.slot1 * 16 + slotCode q.slot0))
  | 0x124 => some (slotPc q.slot0)
  | 0x128 => some (slotPc q.slot1)
  | 0x130 => some (flag q.part.lat 12 ||| flag q.part.lock 8 ||| flag q.part.twin 4 ||| at32 q.part.pid 0)
  | 0x140 => some 0
  | 0x144 => some (flag q.recFault.valid 31 ||| at32 q.recFault.sub 24 ||| at32 q.recFault.entry 0)
  | 0x200 =>
    let e := (s.arch[evenOf a]).twin
    some (flag e.force 1 ||| flag e.react 0)
  | 0x204 => some (flag t.pend 31 ||| flag t.retried 30 ||| flag t.ck.isSome 29 |||
      (match t.ck with | some c => at32 c.pc 0 | none => 0))
  | 0x208 =>
    if t.fault.valid then
      some (flag true 31 ||| BitVec.ofNat 32 (t.fault.mis.cause.code * 2 ^ 28) ||| at32 t.fault.mis.row 21 |||
        at32 t.fault.mis.col 13 ||| at32 t.fault.mis.pc 0)
    else some 0
  | 0x20C => some (at32 t.cnt 0)
  | 0x480 => some x.islres
  | _ => if h : 0x400 ≤ off ∧ off < 0x480 ∧ off % 4 = 0 then some (at32 (x.islmap[ix 32 ((off - 0x400) / 4)]) 0) else none

/-- The logical position island `P` carries; 0x3F when none. -/
def State.lposOf (s : State) (P : Isl) : Nat :=
  match (List.finRange 32).find? (fun p => decide (s.islAt (islArch P) p = P)) with | some p => p.val | none => 0x3F

/-- The pour clock of island `P` is ungated: its sequencer does not wait, nor is it held by a faulted member of its stream
(spec/04 R116), or the island is under test (R55), whose clock runs. (DESIGN CHOICE, log 92) -/
def State.clkOn (s : State) (P : Isl) : Bool :=
  let m := (s.arch[islArch P]).seq.mode
  s.pwr.on.getLsbD P.val && ((s.isl[P]).role == 3 ||
    ((decide (m = .running) || decide (m = .twinRoutine)) && !s.faulted (s.streamOf (islArch P))))

/-- ISL[P] registers. -/
def State.islReg (s : State) (P : Isl) (off : Nat) : Option Word :=
  let i := s.isl[P]
  match off with
  | 0x0 => some (BitVec.ofNat 32 (s.lposOf P * 0x100000) ||| flag i.ue 16 ||| at32 i.role 8 ||| flag (s.clkOn P) 1 |||
      flag (s.pwr.on.getLsbD P.val && i.ready) 0)
  | 0x4 => some (at32 i.cecnt 0)
  | 0x8 => some (flag i.ueValid 31 ||| at32 i.uePlane 16 ||| at32 i.ueCluster 0)
  | 0xC => some (at32 i.injPlane 16 ||| at32 i.injCl 12 ||| flag i.injD 9 ||| flag i.inj 8)
  | _ => none

/-! ### Lanes, sprue, riser -/

/-- JLCFG word `off - 0x100` of a list of links. -/
def jlReg (ls : List JLink) (off : Nat) : Option Word :=
  match ls[(off - 0x100) / 8]? with
  | some k => if off % 8 = 0 then some k.cfg0 else if off % 8 = 4 then some k.cfg1 else none
  | none => none

/-- SSTAT (Table 8.15). -/
def State.sstat (s : State) : Word :=
  let paused := s.sprue.cache.any (fun e => e.enabled && decide (e.status = 4))
  flag s.sprue.void 31 ||| flag paused 30 ||| flag s.sprue.ovr 29 ||| BitVec.ofNat 32 (s.sprue.cache.length * 0x10000) |||
  BitVec.ofNat 32 (s.sprue.cache.filter (fun e => e.enabled)).length

/-- SPRUE registers; the low word of the timestamp is read by `State.stampLow`. -/
def State.sprueReg (s : State) (off : Nat) : Option Word :=
  if off = 0 then some (at32 s.sprue.streamBase 18)
  else if off = 4 then some 0
  else if off = 8 then some s.sstat
  else if off = 0x10 then some 0
  else if off = 0x14 then some s.sprue.stsHi
  else if 0x100 ≤ off ∧ off < 0x140 then jlReg s.rxLinks.toList off
  else none

/-- RISER registers. -/
def State.riserReg (s : State) (off : Nat) : Option Word :=
  if off = 8 then some (flag s.riser.part 1 ||| flag s.riser.lost 0)
  else if off = 0x10 then some 0
  else if off = 0x14 then some s.riser.rtsHi
  else if 0x100 ≤ off ∧ off < 0x120 then jlReg s.txLinks.toList off
  else if 0x200 ≤ off ∧ off < 0x300 then
    let c := s.riser.ctx[ix 16 ((off - 0x200) / 16)]
    match off % 16 with
    | 0 => some c.rc0
    | 4 => some c.rc1
    | 8 => some c.rc2
    | 12 => some (at32 c.groups 16 ||| at32 c.lostCnt 0)
    | _ => none
  else none

/-- LANE[l] registers. -/
def State.laneReg (s : State) (l : Fin 16) (off : Nat) : Option Word :=
  let x := s.lanes[l]
  match off with
  | 0 => some x.lcfg
  | 4 => some (at32 x.errCnt 16 ||| flag x.up 3 ||| flag x.sysrefOk 2 ||| flag x.aligned 1 ||| flag x.lock 0)
  | _ => none

/-! ### Networks, harbour, DMA, XLAT -/

/-- Statistics registers of one initiator (Table 13.9). -/
def statReg (x : InitStat) (off : Nat) : Option Word :=
  match off with
  | 0x00 => some x.reqCnt
  | 0x04 => some (fld x.bytes 0 32)
  | 0x08 => some x.byteHi
  | 0x0C => some (at32 x.maxLat 0)
  | 0x10 => some (at32 x.lateCnt 0)
  | 0x14 => some (at32 x.toCnt 0)
  | 0x18 => some (at32 x.fdrop 0)
  | 0x3C => some 0
  | _ => if 0x40 ≤ off ∧ off < 0x80 ∧ off % 4 = 0 then some (x.hist[ix 16 ((off - 0x40) / 4)]) else none

/-- SOUND registers. -/
def State.soundReg (s : State) (off : Nat) : Option Word :=
  if off = 0 then some (flag s.net.drained 31 ||| flag (s.net.epoch.getLsbD 0) 8 ||| at32 s.net.epoch 0)
  else if 0x100 ≤ off ∧ off < 0x180 ∧ off % 4 = 0 then some (at32 (s.net.tout[ix 32 ((off - 0x100) / 4)]) 0)
  else if off = 0x200 then some s.net.neterr
  else if 0x1000 ≤ off ∧ off < 0x2000 then statReg (s.net.stat[ix 32 (offsetFrom 0x1000 off / 0x80)]) (off % 0x80)
  else none

/-- LAGOON[a] registers. -/
def State.lagoonReg (s : State) (a : Arch) (off : Nat) : Option Word :=
  let l := s.net.lagoon[a]
  if off = 0 then some (at32 l.lvwto 0)
  else if 0x100 ≤ off ∧ off < 0x200 then
    let i : Fin 32 := ix 32 ((off - 0x100) / 8)
    if off % 8 = 0 then some (l.lreq[i]) else if off % 8 = 4 then some (l.lbyte[i]) else none
  else none

/-- BSTAT of bank `b` (Table 14.6). -/
def Bank.bstat (x : Bank) : Word := flag x.nospare 23 ||| at32 x.spares 20 ||| flag x.ue 16 ||| at32 x.cecnt 0

/-- HARBOUR registers. -/
def State.harbourReg (s : State) (off : Nat) : Option Word :=
  if off = 0 then some (flag s.harbour.testEn 16 ||| at32 s.harbour.pace 0)
  else if 0x100 ≤ off ∧ off < 0x300 then
    let x := s.harbour.banks[ix 16 ((off - 0x100) / 0x20)]
    match off % 0x20 with
    | 0x0 => some x.bstat
    | 0x4 => some (flag x.ueValid 31 ||| at32 x.ueWord 0)
    | 0x8 => some (at32 x.col 0)
    | 0xC => some 0
    | _ => none
  else none

/-- DSTAT.STATE (Table 14.7). -/
def DmaState.code : DmaState → Nat
  | .off => 0 | .idle => 1 | .running => 2 | .stopping => 3 | .stopped => 4 | .faulted => 5

/-- DMA registers. -/
def State.dmaReg (s : State) (off : Nat) : Option Word :=
  if 0x1000 ≤ off then none
  else
    let x := s.dma[ix 16 (off / 0x100)]
    match off % 0x100 with
    | 0x00 => some (at32 x.rsize 8 ||| at32 x.owner 4 ||| flag x.en 0)
    | 0x04 => some x.base
    | 0x08 => some (at32 x.head 0)
    | 0x0C => some (at32 x.tail 0)
    | 0x10 => some (flag x.faultIrq 9 ||| flag x.doneIrq 8 ||| BitVec.ofNat 32 x.st.code)
    | _ => none

/-- XLAT registers. -/
def State.xlatReg (s : State) (off : Nat) : Option Word :=
  let x := s.xlat
  if off < 0x40 ∧ off % 4 = 0 then some (x.ctx[ix 16 (off / 4)])
  else match off with
    | 0x80 => some 0
    | 0x84 => some (flag x.fvalid 31 ||| BitVec.ofNat 32 (x.fsrc.val * 0x100000) ||| at32 x.fkind 8 ||| BitVec.ofNat 32 x.fctx.val)
    | 0x88 => some x.fva
    | _ => none

/-! ### SHORE, CORE[n], VITAL, TIDE -/

/-- SESTAT[e] (Table 15.10). -/
def Engine.stat (g : Engine) : Word :=
  BitVec.ofNat 32 ((64 - g.tx.length) * 0x1000000 + g.rx.length * 0x10000) ||| at32 g.mode 8 ||| flag g.ovr 1 ||| flag g.err 0

/-- SHORE registers; SEDATA is read by `State.enginePop`. -/
def State.shoreReg (s : State) (off : Nat) : Option Word :=
  let h := s.shore
  match off with
  | 0x00 => some (flag h.slot 1 ||| flag h.autoReload 0)
  | 0x04 => some (at32 h.fixcnt 24 ||| at32 h.lerr 8 ||| flag h.slotRun 3 ||| at32 h.st 0)
  | 0x08 => some (at32 h.irq 0)
  | 0x10 => some (flag h.nvErr 19 ||| flag h.nvBusy 18 ||| at32 h.nvAddr 0)
  | 0x14 => some h.nvData
  | _ =>
    if 0x100 ≤ off ∧ off < 0x180 then
      (if off % 16 = 0 then some 0 else if off % 16 = 4 then some (h.engine[ix 8 ((off - 0x100) / 16)]).stat else none)
    else none

/-- CORE[n] registers. -/
def State.coreReg (s : State) (n : CoreId) (off : Nat) : Option Word :=
  let c := s.cores[n]
  match off with
  | 0x0 => some (flag c.haltReq 0)
  | 0x4 => some (at32 (if c.selftest && c.quiet then 1 else c.stest) 2 ||| flag c.dfault 1 ||| flag c.halted 0)
  | 0x8 => some (if c.halted then c.pc else 0)
  | 0xC => some 0
  | _ => none

/-- VSTAT (Table 6.11). -/
def State.vstat (s : State) : Word :=
  let v := s.vital
  at32 v.miss 24 ||| flag v.degr 17 ||| flag (decide (v.par.partner ≠ 0)) 16 ||| at32 v.lcause 8 ||| at32 s.pairsInUse 4 |||
  (match v.win with | .closed => 0 | .pending => 1 | .opened => 2)

/-- DYNSTAT (Table 7.6). -/
def State.dynstat (s : State) : Word := at32 s.dyn.mis 16 ||| at32 s.dyn.drv 0

/-- VITAL registers. -/
def State.vitalReg (s : State) (off : Nat) : Option Word :=
  match off with
  | 0x000 => some s.vstat
  | 0x008 => some (fld s.vital.f 0 32)
  | 0x00C => some (fld s.vital.f 32 32)
  | 0x100 => some (at32 s.dyn.monreact 16 ||| at32 s.dyn.en 0)
  | 0x104 => some (at32 s.dyn.f1 16 ||| at32 s.dyn.f0 0)
  | 0x108 => some (at32 s.dyn.msrc 0)
  | 0x10C => some s.dynstat
  | 0x110 => some (at32 s.dyn.misCnt 0)
  | 0x114 => some (flag s.dyn.degrade1 0)
  | _ =>
    if 0x40 ≤ off ∧ off < 0x80 ∧ off % 4 = 0 then some (BitVec.ofNat 32 (natAt s.vital.lastAssay (off - 0x40) 4)) else none

/-- TSTAT[a] (Table 19.5). -/
def TideSt.tstat (t : TideSt) : Word := flag t.susp 31 ||| at32 t.phase 28 ||| at32 t.tslot 16 ||| at32 t.last 4

/-- TIDE registers. -/
def State.tideReg (s : State) (off : Nat) : Option Word :=
  if off = 0 then some s.holm.tcfg
  else if 0x100 ≤ off ∧ off < 0x180 then
    let k := (off - 0x100) / 16
    if s.gradeC ∧ 4 ≤ k then none
    else
      let t := (s.arch[ix 8 k]).tide
      match off % 16 with
      | 0 => some t.tstat
      | 4 => some t.steps
      | 8 => some (at32 t.cover 0)
      | _ => none
  else none

/-- The present value of a register; none where the block's chapter defines no register at the offset. -/
def State.regVal (s : State) (b : Block) (off : Nat) : Option Word :=
  match b with
  | .sys => s.sysReg off
  | .pwr => s.pwrReg off
  | .clk => s.clkReg off
  | .arch a => s.archReg a off
  | .isl P => s.islReg P off
  | .sprue => s.sprueReg off
  | .riser => s.riserReg off
  | .lane l => s.laneReg l off
  | .sound => s.soundReg off
  | .lagoon a => s.lagoonReg a off
  | .harbour => s.harbourReg off
  | .dma => s.dmaReg off
  | .xlat => s.xlatReg off
  | .shore => s.shoreReg off
  | .core n => s.coreReg n off
  | .vital => s.vitalReg off
  | .tide => s.tideReg off

/-! ### Taint (spec/06 Table 6.4) -/

/-- A read of the register taints the reading core (R19, R59, R92, R120, R172, R224, R315, R345, R447). -/
def taints (b : Block) (off : Nat) : Bool :=
  match b with
  | .isl _ | .tide | .vital => true
  | .arch _ => [0x004, 0x010, 0x020, 0x024, 0x028, 0x120, 0x124, 0x128].contains off || decide (0x400 ≤ off ∧ off ≤ 0x480)
  | .sound => decide (off = 0x200) || (decide (0x1000 ≤ off ∧ off < 0x2000) && decide (off % 0x80 ≠ 0x3C))
  | .lagoon _ => decide (0x100 ≤ off ∧ off < 0x200)
  | .harbour => decide (0x100 ≤ off ∧ off < 0x300) && decide (off % 0x20 = 8)
  | .sprue | .riser => decide (off = 0x10 ∨ off = 0x14)
  | _ => false

/-! ### Reading -/

/-- The access is refused before the register itself: reach, no block there, fused off, domain off (which the gateway answers),
then shape (R22, R30, R31, spec/00 R2, R317). (DEDUCED, log 48) -/
def State.regGate (s : State) (acc : Acc) (addr : PAddr) : Option Status :=
  match regAt addr with
  | none => if accReachesRegs acc then some .decerr else some .denied
  | some (b, off) =>
    if !(accReachesRegs acc || (decide (b = .shore) && accReachesShore acc)) then some .denied
    else if (b.archOf.any (fun a => s.gradeC && decide (4 ≤ a.val))) then some .decerr
    else if (match b.domain off with | some d => !s.domainOpen d | none => false) then some .domainOff
    else if addr.toNat % 4 ≠ 0 then some .slverr
    else none

/-- A register closed to the accessor by its own chapter, for reads (R101, R254, R319, R362, R433). -/
def State.readDenied (s : State) (acc : Acc) (b : Block) (off : Nat) : Bool :=
  let hc := decide (acc.src.val = 4)
  match b with
  | .arch _ => decide (0x30 ≤ off ∧ off < 0x48) && !s.service
  | .core _ => decide (off = 8) && !s.service
  | .sound => decide (off = 0) && !hc
  | .pwr => decide (off < 0xC0) && !hc && !s.service
  | .shore => decide (0x100 ≤ off ∧ off < 0x180) && decide ((off - 0x100) / 16 = s.uartEngine.val) && !hc
  | _ => false

/-- The network-clock count since reset, of which the model knows nothing (time is not modelled): its low word is read and
its high word latched. -/
def State.stampLow (s : State) (riser : Bool) : Word × State :=
  let t := Config.freeWord64 s.fresh
  let s := { s with fresh := s.fresh + 1 }
  (fld t 0 32,
    if riser then { s with riser := { s.riser with rtsHi := fld t 32 32 } }
    else { s with sprue := { s.sprue with stsHi := fld t 32 32 } })

/-- BYTELO is read and BYTEHI latched (R322). -/
def State.byteLow (s : State) (i : Fin 32) : Word × State :=
  let b := (s.net.stat[i]).bytes
  (fld b 0 32, { s with net := { s.net with stat := vmod s.net.stat i (fun x => { x with byteHi := fld b 32 32 }) } })

/-- Read a register with the effect of the read. -/
def State.regReadAt (s : State) (b : Block) (off : Nat) : Option Word × State :=
  match b with
  | .sprue => if off = 0x10 then (let (w, t) := s.stampLow false; (some w, t)) else (s.sprueReg off, s)
  | .riser => if off = 0x10 then (let (w, t) := s.stampLow true; (some w, t)) else (s.riserReg off, s)
  | .sound =>
    if 0x1000 ≤ off ∧ off < 0x2000 ∧ off % 0x80 = 4 then
      (let (w, t) := s.byteLow (ix 32 (offsetFrom 0x1000 off / 0x80)); (some w, t))
    else (s.soundReg off, s)
  | .shore =>
    if 0x100 ≤ off ∧ off < 0x180 ∧ off % 16 = 0 then
      (let (w, t) := s.enginePop (ix 8 ((off - 0x100) / 16)); (some w, t))
    else (s.shoreReg off, s)
  | _ => (s.regVal b off, s)

/-- A 32-bit register read: status, word, and the state with the reader tainted where the register taints, whatever the
outcome (R160). -/
def State.regRead (s : State) (acc : Acc) (addr : PAddr) : Status × Word × State :=
  let s := match regAt addr with
    | some (b, off) => if taints b off then s.taintReader acc.src else s
    | none => s
  match s.regGate acc addr, regAt addr with
  | some st, _ => (st, 0, s)
  | none, none => (.decerr, 0, s)
  | none, some (b, off) =>
    if s.readDenied acc b off then (.denied, 0, s)
    else match s.regReadAt b off with
      | (some w, t) => (.ok, w, t)
      | (none, t) => (.decerr, 0, t)

/-- Answer a register read. -/
def State.readAnswer (s : State) (acc : Acc) (addr : PAddr) : State :=
  let (st, w, t) := (s.enters (accReachesRegs acc || (inShore addr && decide (acc.src.val = 23))) acc 0).regRead acc addr
  t.answer acc st (if st = .ok then bytesLE 4 w.toNat else [])

/-- TAINT_SOURCE_READ: a read of a timing-dependent register or stream timestamp (R160, Table 6.4, R203). -/
def execTaintSourceRead (acc : Acc) (addr : PAddr) (s : State) : Out :=
  match areaOf addr with
  | .regs =>
    if (regAt addr).any (fun x => taints x.1 x.2) then .next (s.readAnswer acc addr) else .next s
  | .harbour =>
    if s.readsTstamp (.read 4) (offsetFrom 0x20000000 addr.toNat) then
      let r : Request := { src := acc.src, tag := acc.tag, user := acc.user, op := .read 4, addr := addr }
      match nodeCheck r with
      | some st => .next ((s.taintReader acc.src).answer acc st [])
      | none => let (st, bs, t) := (s.enters true acc 0).harbourServe r; .next (t.answer acc st bs)
    else .next s
  | _ => .next s

/-- TIMESTAMP_LOW_READ: STSLO or RTSLO (R224). -/
def execTimestampLowRead (acc : Acc) (riser : Bool) (s : State) : Out :=
  .next (s.readAnswer acc (if riser then 0x40410010 else 0x40400010))

/-- BYTELO_READ (R322). -/
def execByteloRead (acc : Acc) (i : Fin 32) (s : State) : Out :=
  .next (s.readAnswer acc (BitVec.ofNat 40 (0x40501004 + 0x80 * i.val)))

end Sys2Proof.Machine
end

