-- ==== Sys2Proof/Machine/RegWrite.lean ====
section
/-! DEFINITION. Machine/RegWrite.lean: what a write of each register does, the RWC fields, and the register-access commands
(spec/00 R11, R469, spec/01 R30, and the register tables of every chapter). -/

namespace Sys2Proof.Machine

/-! ### RWC fields (spec/00 Table 0.10, R469) -/

/-- A lane takes a new LCFG. One whose role or receive link and index change stops as a disabled lane does and aligns anew; one
that moves in its transmit link waits for a SYSREF (spec/08 R192, R213). -/
def State.setLcfg (s : State) (l : Fin 16) (v : Word) : State :=
  let old := s.lanes[l]
  let new : Lane := { old with lcfg := v &&& 0xFFF7 }
  let rxMoves := old.jrx && (decide (new.rxLink ≠ old.rxLink) || decide (new.rxIdx ≠ old.rxIdx))
  let txMoves := old.jtx && (decide (new.txLink ≠ old.txLink) || decide (new.txIdx ≠ old.txIdx))
  let s := if decide (new.role ≠ old.role) || rxMoves then s.laneStop l else s
  s.modLane l (fun y => { y with lcfg := new.lcfg, sysrefOk := y.sysrefOk && !txMoves })

/-- A link takes a new JLCFG word; a change needs a new alignment. -/
def JLink.setCfg (k : JLink) (second : Bool) (v : Word) : JLink :=
  let n := if second then { k with cfg1 := v } else { k with cfg0 := v &&& 0x0FFFFFFF }
  if n.cfg0 = k.cfg0 ∧ n.cfg1 = k.cfg1 then k else { n with lemc := 0, lemcOk := false }

/-- Receive link `k` takes a new JLCFG word: with a change its lanes are aligned no more, at a new rate without lock, and the frames in
flight are void (R192, R213). -/
def State.setRxCfg (s : State) (k : Fin 8) (second : Bool) (v : Word) : State :=
  let n := (s.rxLinks[k]).setCfg second v
  if n = s.rxLinks[k] then s
  else
    let s := (s.rxLanes k).foldl (fun t l => t.modLane l (fun y => { y with
      sysrefOk := false, aligned := false, up := false, lock := y.lock && !second })) (s.voidLink k)
    { s with rxLinks := vset s.rxLinks k n }

/-- Transmit link `k` takes a new JLCFG word: with a change its lanes wait for a SYSREF. -/
def State.setTxCfg (s : State) (k : Fin 4) (second : Bool) (v : Word) : State :=
  let n := (s.txLinks[k]).setCfg second v
  if n = s.txLinks[k] then s
  else
    let s := (s.txLanes k).foldl (fun t l => t.modLane l (fun y => { y with sysrefOk := false })) s
    { s with txLinks := vset s.txLinks k n }

/-- A riser context takes a new word; enabling starts the counts since enable, and the rings it is or was part of restart
(spec/08 R218, Table 8.17). -/
def State.setRctx (s : State) (c : Fin 16) (k : Nat) (v : Word) : State :=
  let old := s.riser.ctx[c]
  let new : RCtx := match k with
    | 0 => { old with rc0 := v &&& 0x07FFFFFF }
    | 1 => { old with rc1 := v &&& 0x1FFF1FFF }
    | _ => { old with rc2 := v }
  if new = old then s
  else
    let new : RCtx := if new.en && !old.en then { new with groups := 0, restarts := 0, markAfter := 0 } else new
    let hit := (if old.en then [old.archNo] else []) ++ (if new.en && !(old.en && decide (old.archNo = new.archNo)) then [new.archNo] else [])
    let s : State := { s with riser := { s.riser with ctx := vset s.riser.ctx c new } }
    hit.foldl (fun t a => t.ringRestart (ix 8 a) false) s

/-- NXTLOCK may become `on` in archipelago `a`: its mould passes the check of R83, now and after every replacement it waits for,
or stands under it already. -/
def State.nxtLockFits (s : State) (a : Arch) (on : Bool) : Bool :=
  !on || s.arch[a].seq.nxtLock || !s.arch[a].mould.loaded ||
    (s.arch[a].mould :: s.arch[a].mould.coming).all (fun m => mouldLegal m.word m.entries true)

/-- The RWC fields of an ARCH[a] register (R95, R121, R122, R171); the odd twin's TWCFG takes nothing. NXTLOCK stays 0 where the
mould does not pass (R83). -/
def State.rwcArch (s : State) (a : Arch) (off : Nat) (v : Word) : Option State :=
  match off with
  | 0x008 => some (s.modSeq a (fun q => { q with nxtLock := v.getLsbD 0 && s.nxtLockFits a (v.getLsbD 0) }))
  | 0x100 => some (s.modSeq a (fun q => { q with preen := fld v 16 4, wdog := fld v 0 16 }))
  | 0x104 => some (s.modSeq a (fun q => { q with preent := vset q.preent 0 (fld v 0 13) }))
  | 0x108 => some (s.modSeq a (fun q => { q with preent := vset q.preent 1 (fld v 0 13) }))
  | 0x10C => some (s.modSeq a (fun q => { q with preent := vset q.preent 2 (fld v 0 13) }))
  | 0x110 => some (s.modSeq a (fun q => { q with preent := vset q.preent 3 (fld v 0 13) }))
  | 0x200 =>
    some (if a.val % 2 = 0 then s.modTwin a (fun t => { t with force := v.getLsbD 1, react := v.getLsbD 0 }) else s)
  | _ => none

/-- Set the RWC fields of a register; none where it has none. (DEDUCED, log 54) -/
def State.rwcSet (s : State) (b : Block) (off : Nat) (v : Word) : Option State :=
  match b with
  | .arch a => s.rwcArch a off v
  | .lane l => if off = 0 then some (s.setLcfg l v) else none
  | .sprue =>
    if off = 0 then some { s with sprue := { s.sprue with streamBase := fld v 18 14 } }
    else if 0x100 ≤ off ∧ off < 0x140 ∧ off % 4 = 0 then
      some (s.setRxCfg (ix 8 ((off - 0x100) / 8)) (decide (off % 8 = 4)) v)
    else none
  | .riser =>
    if 0x100 ≤ off ∧ off < 0x120 ∧ off % 4 = 0 then
      some (s.setTxCfg (ix 4 ((off - 0x100) / 8)) (decide (off % 8 = 4)) v)
    else if 0x200 ≤ off ∧ off < 0x300 ∧ off % 4 = 0 ∧ off % 16 ≠ 12 then
      some (s.setRctx (ix 16 ((off - 0x200) / 16)) (off % 16 / 4) v)
    else none
  | .sound =>
    if 0x100 ≤ off ∧ off < 0x180 ∧ off % 4 = 0 then
      some { s with net := { s.net with tout := vset s.net.tout (ix 32 ((off - 0x100) / 4)) (fld v 0 20) } }
    else none
  | .lagoon a =>
    if off = 0 then
      some { s with net := { s.net with lagoon := vmod s.net.lagoon a (fun l => { l with lvwto := fld v 0 20 }) } }
    else none
  | .harbour =>
    if off = 0 then some { s with harbour := { s.harbour with testEn := v.getLsbD 16, pace := fld v 0 16 } } else none
  | .xlat =>
    if off < 0x40 ∧ off % 4 = 0 then
      some { s with xlat := { s.xlat with ctx := vset s.xlat.ctx (ix 16 (off / 4)) (v &&& 0xFFFFFFE1) } }
    else none
  | .shore =>
    if off = 0 then some (s.modShore (fun h => { h with slot := v.getLsbD 1, autoReload := v.getLsbD 0 })) else none
  | .tide => if off = 0 then some { s with holm := { s.holm with tcfg := v } } else none
  | _ => none

/-! ### Writes with an effect of their own -/

/-- SEQCTL (R93): a refused STEP or HALT change refuses the whole write. -/
def State.writeSeqctl (s : State) (a : Arch) (v : Word) : Status × State :=
  if v.getLsbD 1 && !s.service then (.denied, s)
  else if v.getLsbD 0 != s.arch[a].seq.haltReq && s.vitalPairHeld a then (.denied, s)
  else
    let s := if v.getLsbD 2 then s.clrFault a else s
    let (_, s) := s.writeHalt a (v.getLsbD 0)
    if v.getLsbD 1 then s.writeStep a else (.ok, s)

/-- ICTRL (R63). -/
def State.writeIctrl (s : State) (P : Isl) (v : Word) : Status × State :=
  if v.getLsbD 8 && !s.service then (.denied, s)
  else
    (.ok, s.modIsl P (fun i => { i with
      injPlane := fld v 16 13, injCl := fld v 12 4, injD := v.getLsbD 9, inj := i.inj || v.getLsbD 8
      cecnt := if v.getLsbD 0 then 0 else i.cecnt }))

/-- CCTL (R252): a refused write has no effect; RST leaves the core halted whatever HALT says. -/
def State.writeCctl (s : State) (acc : Acc) (n : CoreId) (v : Word) : Status × State :=
  if !s.cctlOpen acc || (v.getLsbD 1 && !s.service) then (.denied, s)
  else if v.getLsbD 2 then s.writeRst acc n
  else
    let (_, s) := s.writeCoreHalt acc n (v.getLsbD 0)
    if v.getLsbD 1 then s.writeCoreStep n else (.ok, s)

/-- DCTL (Table 14.7). Of several bits in one write SKIP acts first, so that EN = 1 goes on with the next descriptor. (DEDUCED, log 57) -/
def State.writeDctl (s : State) (c : Fin 16) (v : Word) : State :=
  let s := if (s.dma[c]).st = .off then s.modDma c (fun x => { x with rsize := fld v 8 4, owner := fld v 4 2 }) else s
  let s := if v.getLsbD 2 then s.dmaSkip c else s
  let s := if v.getLsbD 0 != (s.dma[c]).en then s.dmaEn c (v.getLsbD 0) else s
  if v.getLsbD 1 then s.dmaResume c else s

/-- SCTL (Table 8.14). -/
def State.writeSctl (s : State) (v : Word) : State :=
  let id : BitVec 12 := fld v 0 12
  let s := if v.getLsbD 13 then s.resumeStream id else s
  if v.getLsbD 12 then s.invalStream id else s

/-- CLR of one initiator's statistics, with its lagoon counters (R322, R324). (DEDUCED, log 55) -/
def State.clearStat (s : State) (i : Fin 32) : State :=
  { s with net := { s.net with
      stat := vmod s.net.stat i (fun x => { x with
        reqCnt := 0, bytes := 0, maxLat := 0, lateCnt := 0, toCnt := 0, fdrop := 0, hist := Vector.replicate 16 0 })
      lagoon := s.net.lagoon.map (fun l => { l with lreq := vset l.lreq i 0, lbyte := vset l.lbyte i 0 }) } }

/-- NVCTL (Table 15.10). -/
def State.writeNvctl (s : State) (v : Word) : State :=
  let s := if v.getLsbD 19 then s.modShore (fun h => { h with nvErr := false }) else s
  s.nvStart (fld v 16 2) (fld v 0 16)

/-- SESTAT: OVR and ERR are cleared by 1. -/
def State.writeSestat (s : State) (e : Fin 8) (v : Word) : State :=
  s.modShore (fun h => { h with engine := vmod h.engine e (fun g => { g with
    ovr := g.ovr && !v.getLsbD 1, err := g.err && !v.getLsbD 0 }) })

/-- Write an ARCH[a] register's fields other than RWC. -/
def State.writeArch (s : State) (a : Arch) (off : Nat) (v : Word) : Status × State :=
  match off with
  | 0x000 => s.writeSeqctl a v
  | 0x020 => (.ok, if v.getLsbD 1 then s.modMould a (fun m => { m with sue := false, ueValid := false }) else s)
  | 0x028 => (.ok, if v.getLsbD 31 then s.modMould a (fun m => { m with ceCnt := 0 }) else s)
  | 0x030 => (.ok, s.modMould a (fun m => { m with rdAddr := fld v 0 13 }))
  | 0x140 => if v.getLsbD 0 || s.vitalPairHeld a then s.writeFlush a else (.ok, s)
  | _ => (.ok, s)

/-- Write a SHORE register's fields other than RWC. -/
def State.writeShore (s : State) (off : Nat) (v : Word) : State :=
  match off with
  | 0x08 => s.modShore (fun h => { h with irq := h.irq &&& ~~~(fld v 0 16) })
  | 0x10 => s.writeNvctl v
  | 0x14 => s.modShore (fun h => { h with nvData := v })
  | _ =>
    if 0x100 ≤ off ∧ off < 0x180 then
      let e : Fin 8 := ix 8 ((off - 0x100) / 16)
      if off % 16 = 0 then s.enginePush e v else if off % 16 = 4 then s.writeSestat e v else s
    else s

/-- Write a HARBOUR register's fields other than RWC (R345). -/
def State.writeHarbour (s : State) (off : Nat) (v : Word) : State :=
  if 0x100 ≤ off ∧ off < 0x300 then
    let b : Fin 16 := ix 16 ((off - 0x100) / 0x20)
    match off % 0x20 with
    | 0x0 => if v.getLsbD 16 then s.modBank b (fun x => { x with ue := false, ueValid := false }) else s
    | 0xC => s.modBank b (fun x => { x with
        col := if v.getLsbD 1 then 0 else x.col, cecnt := if v.getLsbD 0 then 0 else x.cecnt })
    | _ => s
  else s

/-- Write a DMA register (R346). -/
def State.writeDma (s : State) (off : Nat) (v : Word) : State :=
  let c : Fin 16 := ix 16 (off / 0x100)
  match off % 0x100 with
  | 0x00 => s.writeDctl c v
  | 0x04 => if (s.dma[c]).st = .off then s.modDma c (fun x => { x with base := v }) else s
  | 0x08 => s.modDma c (fun x => { x with head := fld v 0 12 })
  | 0x10 => s.modDma c (fun x => { x with
      faultIrq := x.faultIrq && !v.getLsbD 9, doneIrq := x.doneIrq && !v.getLsbD 8 })
  | _ => s

/-- Write the fields of a register that are not RWC. -/
def State.writeFields (s : State) (acc : Acc) (b : Block) (off : Nat) (v : Word) : Status × State :=
  match b with
  | .arch a => s.writeArch a off v
  | .isl P =>
    if off = 0 then (.ok, if v.getLsbD 16 then s.modIsl P (fun i => { i with ue := false, ueValid := false }) else s)
    else if off = 0xC then s.writeIctrl P v else (.ok, s)
  | .sprue =>
    if off = 4 then (.ok, s.writeSctl v)
    else if off = 8 then
      (.ok, { s with sprue := { s.sprue with void := s.sprue.void && !v.getLsbD 31, ovr := s.sprue.ovr && !v.getLsbD 29 } })
    else (.ok, s)
  | .riser =>
    if off = 8 then
      (.ok, { s with riser := { s.riser with part := s.riser.part && !v.getLsbD 1, lost := s.riser.lost && !v.getLsbD 0 } })
    else (.ok, s)
  | .sound =>
    if off = 0x200 then (.ok, { s with net := { s.net with neterr := s.net.neterr &&& ~~~v } })
    else if 0x1000 ≤ off ∧ off < 0x2000 ∧ off % 0x80 = 0x3C ∧ v.getLsbD 0 then
      (.ok, s.clearStat (ix 32 (offsetFrom 0x1000 off / 0x80)))
    else (.ok, s)
  | .harbour => (.ok, s.writeHarbour off v)
  | .dma => (.ok, s.writeDma off v)
  | .xlat =>
    if off = 0x80 then (.ok, { s with xlat := s.xlat.invalidate v })
    else if off = 0x84 then (.ok, if v.getLsbD 31 then { s with xlat := { s.xlat with fvalid := false } } else s)
    else (.ok, s)
  | .shore => (.ok, s.writeShore off v)
  | .core n =>
    if off = 0 then s.writeCctl acc n v
    else if off = 0xC then (.ok, if v.getLsbD 0 then s.raiseAt n 30 else s)
    else (.ok, s)
  | _ => (.ok, s)

/-- A register closed to the accessor by its own chapter, for writes (R101, R319, R362). -/
def State.writeDenied (s : State) (acc : Acc) (b : Block) (off : Nat) : Bool :=
  let hc := decide (acc.src.val = 4)
  match b with
  | .arch _ => decide (0x30 ≤ off ∧ off < 0x48) && !s.service
  | .core _ => decide (off = 8) && !s.service
  | .sound => decide (off = 0) && !hc
  | .shore => decide (0x100 ≤ off ∧ off < 0x180) && decide ((off - 0x100) / 16 = s.uartEngine.val) && !hc
  | _ => false

/-- A 32-bit register write. -/
def State.regWrite (s : State) (acc : Acc) (addr : PAddr) (v : Word) : Status × State :=
  match s.regGate acc addr, regAt addr with
  | some st, _ => (st, s)
  | none, none => (.decerr, s)
  | none, some (b, off) =>
    if (s.regVal b off).isNone then (.decerr, s)
    else if s.writeDenied acc b off then (.denied, s)
    else
      let t := if s.committed then s else (s.rwcSet b off v).getD s
      t.writeFields acc b off v

/-! ### Commands -/

/-- REGISTER_WRITE. -/
def execRegisterWrite (acc : Acc) (addr : PAddr) (value : Word) (s : State) : Out :=
  let (st, t) := (s.enters (accReachesRegs acc || (inShore addr && decide (acc.src.val = 23))) acc 4).regWrite acc addr value
  .next (t.answer acc st [])

/-- SOUND_STAT_CLR (R322). -/
def execSoundStatClr (acc : Acc) (i : Fin 32) (s : State) : Out :=
  .next (s.plainAction acc (fun t => (.ok, t.clearStat i)))

/-- A request at a register block: aligned 32-bit reads and writes; any other shape is answered SLVERR behind the gate (R30). -/
def State.regServe (s : State) (r : Request) : Status × List Byte × State :=
  let acc : Acc := { src := r.src, tag := r.tag, user := r.user }
  match r.op with
  | .read 4 => let (st, w, t) := s.regRead acc r.addr; (st, if st = .ok then bytesLE 4 w.toNat else [], t)
  | .write bs =>
    if bs.length = 4 then (let (st, t) := s.regWrite acc r.addr (BitVec.ofNat 32 (natLE bs)); (st, [], t))
    else ((s.regGate acc r.addr).getD .slverr, [], s)
  | _ => ((s.regGate acc r.addr).getD .slverr, [], s)

/-- The taint of a read of a register, which is set whatever the answer (R160). -/
def State.regTaint (s : State) (r : Request) : State :=
  match r.op, regAt r.addr with
  | .read _, some (b, off) => if taints b off && !s.heldBack r then s.taintReader r.src else s
  | _, _ => s

/-- REGISTER_BLOCK_ACCESS. -/
def execRegisterBlockAccess (req : Request) (s : State) : Out :=
  if areaOf req.addr ≠ .regs then .next s
  else .next ((s.regTaint req).serve req true (fun t => t.regServe req))

end Sys2Proof.Machine
end

