-- ==== Sys2Proof/Machine/TxnCheck.lean ====
section
/-! DEFINITION. Machine/TxnCheck.lean: configuration objects, their values in force, and the checks a TXN_COMMIT makes on the
transaction as a whole (spec/17 R408 to R410, spec/07 R177, spec/08 R190 to R194, R204, R217, R218, spec/13 R303, R320,
spec/14 R334, spec/15 R370, spec/18 R417, spec/19 R443). -/

namespace Sys2Proof.Machine

/-! ### Objects (Table 17.6) -/

/-- The size of an object; none for an unknown class or an index out of range. -/
def State.objSize (s : State) (cls idx : Nat) : Option Nat :=
  let arch := decide (idx < (if s.gradeC then 4 else 8))
  match cls with
  | 1 => if idx = 0 then some 96 else none
  | 2 => if idx = 0 then some 16 else none
  | 3 => if idx < 16 then some 256 else none
  | 4 => if idx < 4096 then some 40 else none
  | 5 => if idx = 0 then some 0x10000000 else none
  | 6 => if idx = 0 then some 257 else if idx ≤ 8 ∧ (!s.gradeC ∨ idx ≤ 4) then some 1297 else none
  | 7 => if arch then some 68 else none
  | 8 => if idx = 0 then some 68 else none
  | 9 => if arch then some 4 else none
  | 10 => if idx = 0 then some 40 else none
  | _ => none

/-- The vital parameters object (Table 17.6A). -/
def VitalParams.bytes (p : VitalParams) : List Byte :=
  let vr := (p.vrBytes ++ List.replicate 4 0xFF).take 4
  bytesLE 8 p.frameMs.toNat ++ bytesLE 8 p.pairs.toNat ++ bytesLE 8 p.vcore.toNat ++ bytesLE 8 p.vlen.toNat ++
  bytesLE 8 p.vwkey.toNat ++ bytesLE 8 p.vwmin.toNat ++ bytesLE 8 p.vwmax.toNat ++ (vr ++ List.replicate 4 0) ++
  bytesLE 8 p.vctrl.toNat ++ bytesLE 8 p.partner.toNat ++ List.replicate 16 0

/-- The parameters a checked object gives. -/
def vitalOf (bs : List Byte) : VitalParams :=
  { frameMs := BitVec.ofNat 16 (natAt bs 0 1), pairs := BitVec.ofNat 4 (natAt bs 8 1), vcore := BitVec.ofNat 2 (natAt bs 16 1)
    vlen := BitVec.ofNat 16 (natAt bs 0x18 2), vwkey := BitVec.ofNat 32 (natAt bs 0x20 4)
    vwmin := BitVec.ofNat 32 (natAt bs 0x28 4), vwmax := BitVec.ofNat 32 (natAt bs 0x30 4)
    vrBytes := (bs.drop 0x38).take 4
    vctrl := BitVec.ofNat 32 (natAt bs 0x40 4), partner := BitVec.ofNat 2 (natAt bs 0x48 1) }

/-- The DYN configuration object: DYNCFG, DYNFREQ, DYNMSRC, PAIR images (Tables 7.3 to 7.8). -/
def Dyn.bytes (d : Dyn) : List Byte :=
  [d.en, 0, d.monreact, 0] ++ bytesLE 2 d.f0.toNat ++ bytesLE 2 d.f1.toNat ++ bytesLE 4 d.msrc.toNat ++
  [if d.degrade1 then 1 else 0, 0, 0, 0]

/-- The network minus bit of a table's default direction (R303). -/
def goesMinus (w x d : Nat) (flip : Bool) : Bool := decide (w < 2 * ((d + w - x) % w)) != flip

/-- One routing byte: bit 0 x direction, bit 1 y direction, 1 meaning minus. -/
def routeByte (t : RouteTable) (w n : Nat) (at' : RouterId) (d : Nat) : Byte :=
  let f := SMap.get 0 t.flips (routeIndex at' d)
  (if goesMinus w (n % w) (d % w) (f.getLsbD 0) then 1 else 0) + (if goesMinus w (n / w) (d / w) (f.getLsbD 1) then 2 else 0)

/-- The number of routers of network `k`: 0 sound, 1 + a lagoon a. -/
def netSize (k : Nat) : Nat := if k = 0 then 16 else 36

/-- Router `n` of network `k`. -/
def netRouter (k n : Nat) : RouterId := if k = 0 then .sound (ix 16 n) else .lagoon (ix 8 (k - 1)) (ix 36 n)

/-- The width of the torus of network `k`. -/
def netWidth (k : Nat) : Nat := if k = 0 then 4 else 6

/-- The table in force. -/
def State.curTable (s : State) : RouteTable := s.net.table[if s.net.epoch.getLsbD 0 then (1 : Fin 2) else 0]

/-- The routing object of network `k`. -/
def State.routeBytes (s : State) (k : Nat) : List Byte :=
  let t := s.curTable
  let z := netSize k
  (if t.yx.getLsbD k then 1 else 0) ::
    (List.range (z * z)).map (fun i => routeByte t (netWidth k) (i / z) (netRouter k (i / z)) (i % z))

/-- The table with network `k` set from a routing object. -/
def RouteTable.withObj (t : RouteTable) (k : Nat) (bs : List Byte) : RouteTable :=
  let z := netSize k
  let w := netWidth k
  { yx := if natAt bs 0 1 = 1 then t.yx ||| (1 <<< k) else t.yx &&& ~~~((1 : BitVec 9) <<< k)
    flips := (List.range (z * z)).foldl (fun m i =>
      let b : Byte := bs.getD (i + 1) 0
      let n := i / z
      let d := i % z
      let f : BitVec 2 := (if b.getLsbD 0 != goesMinus w (n % w) (d % w) false then 1 else 0) +
        (if b.getLsbD 1 != goesMinus w (n / w) (d / w) false then 2 else 0)
      SMap.set 0 m (routeIndex (netRouter k n) d) f) t.flips }

/-- The first 40 bytes of a stream entry: the committed object, else the cached or stored entry. -/
def State.entryBytes (s : State) (id : BitVec 12) : List Byte :=
  match (s.entryCfg id).1 with
  | some cfg => cfg.toList.flatMap (fun w => bytesLE 4 w.toNat)
  | none => List.replicate 40 0

/-- An object's value in force (R408). -/
def State.objBytes (s : State) (cls idx : Nat) : List Byte :=
  match cls with
  | 1 => s.vital.par.bytes
  | 2 => s.dyn.bytes
  | 3 => s.holm.netObj[ix 16 idx]
  | 4 => s.entryBytes (BitVec.ofNat 12 idx)
  | 6 => s.routeBytes idx
  | 9 => [(s.holm.keep.persist.failslot[ix 8 idx]).setWidth 8, 0, 0, 0]
  | 10 => bytesLE 40 (s.pwr.perm.toNat + s.pwr.aS.toNat * 2 ^ 316)
  | 7 => s.holm.patObj[ix 8 idx]
  | 8 => s.holm.slotObj
  | _ => []

/-- Lay a write over an object. -/
def overlay (bs : List Byte) (off : Nat) (data : List Byte) : List Byte := bs.take off ++ data ++ bs.drop (off + data.length)

/-- The writes of a transaction to one object, in order. -/
def objWrites (ws : List TxnWrite) (cls idx : Nat) : List TxnWrite :=
  ws.filter (fun w => decide (w.cls.toNat = cls) && decide (w.idx.toNat = idx))

/-- The staged copy of an object. -/
def State.objStaged (s : State) (ws : List TxnWrite) (cls idx : Nat) : List Byte :=
  (objWrites ws cls idx).foldl (fun bs w => overlay bs w.off w.data) (s.objBytes cls idx)

/-- The indices of a class that a transaction writes, each once, rising. -/
def stagedIdx (ws : List TxnWrite) (cls : Nat) : List Nat :=
  ((ws.filter (fun w => decide (w.cls.toNat = cls))).map (fun w => w.idx.toNat)).dedup.mergeSort

/-- An object is staged. -/
def stages (ws : List TxnWrite) (cls idx : Nat) : Bool := ws.any (fun w => decide (w.cls.toNat = cls) && decide (w.idx.toNat = idx))

/-- The register and value of a class 0x0005 write; none where it names no register with RWC fields. -/
def State.rwcTarget (s : State) (off : Nat) (data : List Byte) : Option (Block × Nat × Word) :=
  match blockAt off with
  | some (b, o) =>
    if data.length ≠ 4 ∨ off % 4 ≠ 0 then none
    else if b.archOf.any (fun a => s.gradeC && decide (4 ≤ a.val)) then none
    else if (s.rwcSet b o 0).isNone then none
    else some (b, o, BitVec.ofNat 32 (natLE data))
  | none => none

/-- A TXN_WRITE the Holm refuses with BAD_PARAM: unknown object, index out of range, bytes beyond the object, a register
without RWC fields, or pattern words on the C grade (R4, R408). -/
def State.writeBad (s : State) (w : TxnWrite) : Bool :=
  match s.objSize w.cls.toNat w.idx.toNat with
  | none => true
  | some n =>
    decide (n < w.off + w.data.length) || (decide (w.cls = 7) && s.gradeC) ||
    (decide (w.cls = 5) && (s.rwcTarget w.off w.data).isNone)

/-! ### The candidate configuration -/

/-- The power policy of an object. -/
def permOf (bs : List Byte) : BitVec 316 × BitVec 3 := (BitVec.ofNat 316 (natLE bs), BitVec.ofNat 3 (natLE bs / 2 ^ 316))

/-- The DYN settings of an object. -/
def Dyn.withObj (d : Dyn) (bs : List Byte) : Dyn :=
  { d with
    en := bs.getD 0 0, monreact := bs.getD 2 0, f0 := BitVec.ofNat 16 (natAt bs 4 2), f1 := BitVec.ofNat 16 (natAt bs 6 2)
    msrc := BitVec.ofNat 16 (natAt bs 8 2), degrade1 := decide (natAt bs 12 1 % 2 = 1) }

/-- Set the registers of the class 0x0005 writes, in write order. -/
def State.setRegs (s : State) (ws : List TxnWrite) : State :=
  (objWrites ws 5 0).foldl (fun t w =>
    match t.rwcTarget w.off w.data with
    | some (b, o, v) => (t.rwcSet b o v).getD t
    | none => t) s

/-- The state the checks look at: the configuration as it will stand. -/
def State.candidate (s : State) (ws : List TxnWrite) : State :=
  let t := if stages ws 1 0 then { s with vital := { s.vital with par := vitalOf (s.objStaged ws 1 0) } } else s
  let t := if stages ws 2 0 then { t with dyn := t.dyn.withObj (s.objStaged ws 2 0) } else t
  let t := if stages ws 10 0 then
      (let p := permOf (s.objStaged ws 10 0); { t with pwr := { t.pwr with perm := p.1, aS := p.2 } }) else t
  t.setRegs ws

/-! ### Checks of single objects -/

/-- All bytes of a range are zero. -/
def zeroAt (bs : List Byte) (o n : Nat) : Bool := ((bs.drop o).take n).all (fun b => decide (b = 0))

/-- The first byte range of the vital parameters object that breaks R409. -/
def State.vitalFault (s : State) (bs : List Byte) : Option Nat :=
  let pairs := natAt bs 8 1
  let key := natAt bs 0x20 4
  let vr := ((bs.drop 0x38).take 4).filter (fun b => decide (b ≠ 0xFF))
  let rules : List (Nat × Bool) :=
    [ (0x00, decide (2 ≤ natAt bs 0 1 ∧ natAt bs 0 1 ≤ 50)), (0x01, zeroAt bs 0x01 7)
    , (0x08, decide (pairs < (if s.gradeC then 4 else 16))), (0x09, zeroAt bs 0x09 7)
    , (0x10, decide (natAt bs 0x10 1 ≤ 3)), (0x11, zeroAt bs 0x11 7)
    , (0x18, decide (8 ≤ natAt bs 0x18 2 ∧ natAt bs 0x18 2 ≤ 4096 ∧ natAt bs 0x18 2 % 8 = 0)), (0x1A, zeroAt bs 0x1A 6)
    , (0x20, decide (key % 2 = 1) || (decide (key = 0) && decide (pairs = 0))), (0x24, zeroAt bs 0x24 4)
    , (0x28, decide (natAt bs 0x28 4 < natAt bs 0x30 4)), (0x2C, zeroAt bs 0x2C 4)
    , (0x30, decide (natAt bs 0x30 4 + 1000 ≤ natAt bs 0 1 * 1000)), (0x34, zeroAt bs 0x34 4)
    , (0x38, vr.all (fun b => decide (b.toNat < 16)) && decide vr.Nodup), (0x3C, zeroAt bs 0x3C 4)
    , (0x40, decide (natAt bs 0x40 4 < 8)), (0x44, zeroAt bs 0x44 4)
    , (0x48, decide (natAt bs 0x48 1 < 4)), (0x49, zeroAt bs 0x49 7), (0x50, zeroAt bs 0x50 16) ]
  (rules.find? (fun r => !r.2)).map (fun r => r.1)

/-- A DYN half period in microseconds (R174). -/
def halfPeriod (f : Nat) : Nat := if f = 0 then 0 else (1000000 + f) / (2 * f)

/-- The DYN rules between frequencies and FRAME (R177); `frame` in milliseconds. -/
def dynTimesOk (f0 f1 frame : Nat) : Bool :=
  let p0 := 2 * halfPeriod f0
  let p1 := 2 * halfPeriod f1
  decide (6 * min p0 p1 ≤ 5 * max p0 p1) && decide (32 * max p0 p1 ≤ frame * 1000)

/-- The first byte of the DYN object that breaks R177 by itself. -/
def dynFault (bs : List Byte) (frame : Nat) : Option Nat :=
  let f0 := natAt bs 4 2
  let f1 := natAt bs 6 2
  let ms := natAt bs 8 4
  let rules : List (Nat × Bool) :=
    [ (1, zeroAt bs 1 1), (3, zeroAt bs 3 1), (4, decide (1000 ≤ f0 ∧ f0 ≤ 20000)), (6, decide (1000 ≤ f1 ∧ f1 ≤ 20000))
    , (8, decide (ms < 65536) && (List.range 8).all (fun n => decide (ms / 4 ^ n % 4 ≠ 3))), (12, decide (natAt bs 12 4 < 2))
    , (4, dynTimesOk f0 f1 frame) ]
  (rules.find? (fun r => !r.2)).map (fun r => r.1)

/-- The first byte of a network object that breaks Table 17.6. -/
def netFault (bs : List Byte) : Option Nat :=
  let rules : List (Nat × Bool) :=
    [ (8, [0, 4, 6].contains (natAt bs 8 1)), (12, decide (natAt bs 12 1 < 2)), (13, zeroAt bs 13 3) ] ++
    (List.range 8).map (fun k => (66 + 24 * k, zeroAt bs (66 + 24 * k) 6)) ++ [ (240, zeroAt bs 240 16) ]
  (rules.find? (fun r => !r.2)).map (fun r => r.1)

/-! ### Lanes, links, riser contexts, registers -/

/-- A configured JESD204C link keeps to Table 8.4. -/
def JLink.fits (k : JLink) (tx : Bool) : Bool :=
  let g (lo w : Nat) : Nat := (fld k.cfg0 lo w : BitVec w).toNat
  let np := if k.cfg0.getLsbD 14 then 24 else 16
  let n := g 15 5 + 1
  let L := g 5 3 + 1
  let M := g 8 4 + 1
  !k.en ||
  (decide (12 ≤ n ∧ n ≤ (if np = 16 ∧ !tx then 16 else 18)) && decide (n + g 20 2 ≤ np) && decide (g 20 2 ≤ (if tx then 0 else 2)) &&
   (!tx || (decide (L ≤ 4) && decide (M ≤ 8))) && decide ((g 0 5 + 1) * 8 * L = M * (g 12 2 + 1) * np) &&
   decide (8000000 ≤ k.cfg1.toNat ∧ k.cfg1.toNat ≤ 25781250))

/-- The lane's role is one it can carry, and its link fields are zero where the role has no JESD link (R190, R191). -/
def laneFits (l : Fin 16) (x : Lane) : Bool :=
  decide (x.role ≤ 5) && (decide (x.role ≠ 5) || decide (14 ≤ l.val)) &&
  (decide (x.role < 4) || decide ((fld x.lcfg 6 10 : BitVec 10) = 0))

/-- The lanes of a link carry indices 0 to L - 1, once each (R191). -/
def idxOk (idx : List Nat) (k : JLink) : Bool :=
  (idx.isEmpty && !k.en) || decide (idx.mergeSort = List.range ((fld k.cfg0 5 3 : BitVec 3).toNat + 1))

/-- Every lane and link is consistent. -/
def State.linksOk (t : State) : Bool :=
  (List.finRange 16).all (fun l => laneFits l t.lanes[l]) &&
  (List.finRange 8).all (fun k => (t.rxLinks[k]).fits false && idxOk ((t.rxLanes k).map (fun l => (t.lanes[l]).rxIdx)) t.rxLinks[k]) &&
  (List.finRange 4).all (fun k => (t.txLinks[k]).fits true &&
    idxOk (((List.finRange 16).filter (fun l => (t.lanes[l]).jtx && decide ((t.lanes[l]).txLink = k.val))).map
      (fun l => (t.lanes[l]).txIdx)) t.txLinks[k])

/-- An enabled riser context keeps to R217, R219 and R223. -/
def State.ctxFits (t : State) (c : RCtx) : Bool :=
  !c.en ||
  (decide (c.pestart + c.peN ≤ 8192) && (!t.gradeC || decide (c.archNo < 4)) &&
   (decide (c.dest ≠ 0) || decide (c.rc2.toNat % 4 = 0)) && (decide (c.dest ≠ 2) || decide (c.peN ≤ 364)))

/-- The rings have at most four contexts, each with a RING of its own (R218). -/
def State.ringsOk (t : State) : Bool :=
  t.riser.ctx.toList.all t.ctxFits &&
  (List.finRange 8).all (fun a =>
    let cs := t.riser.ctx.toList.filter (fun c => c.en && decide (c.archNo = a.val))
    decide (cs.length ≤ 4) && decide ((cs.map (fun c => c.ringNo)).Nodup))

/-- A value an RWC register's own rules allow (R320, R323, R344, R447, R347, R224, R83). -/
def State.rwcFits (s : State) (b : Block) (off : Nat) (v : Word) : Bool :=
  match b with
  | .sound => decide (0x100 ≤ (fld v 0 20 : BitVec 20).toNat)
  | .lagoon _ => decide (0x100 ≤ (fld v 0 20 : BitVec 20).toNat)
  | .harbour => decide (10 ≤ (fld v 0 16 : BitVec 16).toNat)
  | .tide => decide (10 ≤ (fld v 24 8 : Byte).toNat) && decide (50 ≤ (fld v 0 16 : BitVec 16).toNat)
  | .xlat => !v.getLsbD 4
  | .sprue => decide (off ≠ 0) || decide (0x800 ≤ (fld v 18 14 : BitVec 14).toNat ∧ (fld v 18 14 : BitVec 14).toNat < 0x880)
  | .arch a =>
    decide (off ≠ 8) || s.nxtLockFits a (v.getLsbD 0)
  | _ => true

/-! ### Stream entries (R204) -/

/-- The mode whose grouping the stream rules look at: the present one, else the one the configuration names for entry. -/
def State.judgeMode (s : State) : Mode :=
  if (s.groups s.mode).isEmpty then
    match s.holm.loaded.findSome? (fun i => match i.body with | .config _ m _ _ => Mode.ofCode m | _ => none) with
    | some m => m
    | none => s.mode
  else s.mode

/-- First and last PE of each field. -/
def Stream.ranges (e : Stream) : List (Nat × Nat) :=
  e.fields.map (fun j => (e.dstpe + j.val * e.fstride, e.dstpe + j.val * e.fstride + e.dstN - 1))

/-- The archipelagos of a range. -/
def rangeArchs (r : Nat × Nat) : List Nat := (List.range 8).filter (fun a => decide (a * 8192 ≤ r.2) && decide (r.1 < (a + 1) * 8192))

/-- The logical islands of a range, bit row group * 16 + column group. -/
def rangeIslands (r : Nat × Nat) : BitVec 256 :=
  (List.range (r.2 / 256 + 1 - r.1 / 256)).foldl (fun m i =>
    let row := r.1 / 256 + i
    let c0 := if i = 0 then r.1 % 256 / 16 else 0
    let c1 := if row = r.2 / 256 then r.2 % 256 / 16 else 15
    (List.range (c1 + 1 - c0)).foldl (fun n k => n ||| (1 <<< (row / 16 * 16 + c0 + k))) m) 0

/-- Ranges without a common PE. -/
def apart (a b : Nat × Nat) : Bool := decide (a.2 < b.1) || decide (b.2 < a.1)

/-- Every two of a list of ranges are apart. -/
def pairwiseApart : List (Nat × Nat) → Bool
  | [] => true
  | r :: rs => rs.all (apart r) && pairwiseApart rs

/-- The layout rules of R202. -/
def Stream.layoutOk (e : Stream) : Bool :=
  decide (e.fieldN 0 0 12 = e.id.toNat) && decide (e.src < 3) && decide (e.fmt < 4) && decide (e.decim < 3) && decide (e.mksrc < 3) &&
  decide (e.srcsel < (if e.src = 1 then 128 else 16)) && !e.bit 1 7 && decide (e.fieldN 1 13 3 = 0) &&
  (if e.mksrc = 0 then decide (1 ≤ e.mkdiv) else decide (e.mkdiv = 0)) && decide (e.fieldN 3 21 11 = 0) &&
  (if e.fmt = 2 then decide (e.fieldN 4 12 4 = 0) else decide (1 ≤ e.fills ∧ e.fills ≤ 4096)) &&
  (if e.dsth then decide (1 ≤ e.hring) && decide (e.hva % 64 = 0) else decide (e.hring = 0) && decide (e.hva = 0)) &&
  decide (e.fieldN 8 0 32 = 0) && decide (e.fieldN 9 0 32 = 0)

/-- The source can give what the entry asks for. -/
def State.sourceOk (t : State) (e : Stream) : Bool :=
  if e.src = 0 then
    let l := t.lanes[ix 16 e.srcsel]
    let k := t.rxLinks[ix 8 e.link]
    l.jrx && decide (l.rxLink = e.link) && decide (e.conv + e.deint < k.convs) &&
    ((decide (e.fmt = 0) && k.cfg0.getLsbD 14) || (decide (e.fmt = 1) && !k.cfg0.getLsbD 14))
  else true

/-- The stream of `a` that an entry is judged by: the grouping in force, else the one of the mode the configuration names (R204). -/
def State.judgedGroup (t : State) (a : Arch) : List Arch × Bool :=
  if (t.groups t.mode).isEmpty then t.groupOf t.judgeMode a else (t.streamOf a, t.arch[a].seq.part.twin)

/-- The ladle rules: one stream, no odd twin, no PE twice, islands shared only with equal SPF and BANK0. SPF is compared as the field holds
it, whatever the formats. (DESIGN CHOICE, log 104) -/
def State.ladleOk (t : State) (e : Stream) (others : List Stream) : Bool :=
  let rs := e.ranges
  let as := (rs.flatMap rangeArchs).dedup
  let isl := rs.foldl (fun x r => x ||| rangeIslands r) 0
  let oddTwin (a : Nat) : Bool := decide (a % 2 = 1) && (t.judgedGroup (ix 8 a)).2
  rs.all (fun r => decide (r.2 < 65536)) && as.all (fun a => t.present.contains (ix 8 a)) &&
  (match as with
   | [] => false
   | a :: _ =>
     let g := (t.judgedGroup (ix 8 a)).1
     as.all (fun b => g.contains (ix 8 b))) &&
  !as.any oddTwin && pairwiseApart rs &&
  (others.filter (fun o => !o.dsth)).all (fun o =>
    o.ranges.all (fun q => rs.all (apart q)) &&
    (decide ((o.ranges.foldl (fun x r => x ||| rangeIslands r) 0) &&& isl = 0) ||
      (decide (o.fieldN 4 0 16 = e.fieldN 4 0 16) && decide (o.bank0 = e.bank0)))) &&
  (!e.vital || as.all (fun a => decide (a % 2 = 0) && (t.judgedGroup (ix 8 a)).2))

/-- An entry may be enabled beside the others (R204). -/
def State.entryOk (t : State) (e : Stream) (others : List Stream) : Bool :=
  e.layoutOk && decide (others.length < 64) && t.sourceOk e && (decide (e.fmt < 2) || decide (e.src ≠ 0)) &&
  (decide (e.fmt ≠ 2) || decide (e.decim = 0)) && decide (e.skipWords + e.dstN * e.fills ≤ e.frameWords) &&
  (e.dsth || t.ladleOk e others) &&
  (!e.vital || (e.barrier && (decide (e.mksrc = 0) || decide (e.mksrc = 2)) && !e.dsth))

/-! ### Power policy (spec/18 R417, spec/14 R334, spec/15 R370) -/

/-- The policy the candidate holds breaks a rule; `on`: some stream entry will be enabled. -/
def State.policyBad (s t : State) (on : Bool) : Bool :=
  let p := t.pwr.perm
  let used := t.permitted
  let base := (offsetFrom 0x20000000 (t.sprue.streamBase.toNat * 0x40000)) / 0x200000
  !p.getLsbD 314 || !p.getLsbD 315 ||
  (List.range 8).any (fun a => (List.range 33).any (fun k => p.getLsbD (33 * a + k) != p.getLsbD (264 + a))) ||
  !used.getLsbD (264 + t.pwr.aS.toNat) ||
  (List.finRange 16).any (fun l => decide ((t.lanes[l]).role ≠ 0) && !p.getLsbD (272 + l.val)) ||
  s.present.any (fun a => (s.arch[a]).seq.part.inStream && !p.getLsbD (264 + a.val)) ||
  (decide (t.vital.par.pairs ≠ 0) && (!p.getLsbD (304 + t.vital.par.vcore.toNat) || !p.getLsbD 303)) ||
  (on && !p.getLsbD (288 + base)) || decide (s.quadrants &&& ~~~p ≠ 0)

/-! ### Moulds and bitstreams -/

/-- The image with a measurement in the boot flash. -/
def Holm.imageBy (h : Holm) (m : List Byte) (typ : Nat) : Option Image :=
  (h.flash.find? (fun e => decide (measureOf e.image = m) && decide (e.image.typ.toNat = typ))).map (fun e => e.image)

/-- The replacement a pattern-replacement object gives for archipelago `a` (R89). -/
def State.replacementOf (s : State) (a : Arch) (bs : List Byte) : Option Replacement :=
  let first := natAt bs 64 2
  let count := natAt bs 66 2
  match s.holm.imageBy (bs.take 64) 3 with
  | some i =>
    match i.body with
    | .mould ws es =>
      if i.target.getLsbD a.val && decide (0x1800 ≤ first) && decide (1 ≤ count) && decide (first + count ≤ 0x2000) then
        let m : SMap Micro := ws.foldl (fun t w => SMap.set 0 t w.1.toNat w.2) []
        some { first := BitVec.ofNat 13 first
               words := (List.range count).map (fun k => SMap.get 0 m (first + k))
               entries := es.filter (fun e => decide (first ≤ e.toNat) && decide (e.toNat < first + count)) }
      else none
    | _ => none
  | none => none

/-- The pattern-replacement object of `a` breaks a rule: no such words, a member of the stream left out or given other words,
or a mould that would not pass Table 3.10. -/
def State.patternBad (s t : State) (ws : List TxnWrite) (a : Arch) : Bool :=
  let bs := s.objStaged ws 7 a.val
  match s.replacementOf a bs with
  | none => true
  | some r =>
    (s.streamOf a).any (fun b => !stages ws 7 b.val || decide (s.objStaged ws 7 b.val ≠ bs)) ||
    ({ (s.arch[a]).mould with repl := (s.arch[a]).mould.repl ++ [r] } : Mould).coming.any (fun m =>
      !mouldLegal m.word m.entries (t.arch[a]).seq.nxtLock)

/-- Why a bitstream-slot object is refused (R410, R365). -/
def State.slotFault (s : State) (bs : List Byte) : Option VStatus :=
  let slot := natAt bs 64 1
  if 1 < slot ∨ 3 < natAt bs 65 1 ∨ !zeroAt bs 66 2 then some .badParam
  else if s.shore.bits.isSome ∧ s.shore.slotRun = decide (slot = 1) then some .badParam
  else match s.holm.imageBy (bs.take 64) 5 with
    | none => some .badParam
    | some i =>
      if i.target.toNat ≠ slot then some .badParam
      else match s.imageFault i with
        | some .signature | some .revoked | some .digest => some .sigInvalid
        | some .rollback => some .rollback
        | some _ => some .badParam
        | none => if (imageBits i).any (fun b => decide (b.levels ≠ s.shore.levels)) then some .badParam else none

/-! ### The whole transaction (R410) -/

/-- A refusal of a commit: status, object ID, offset. -/
abbrev CommitFail := VStatus × Nat × Nat

/-- Fault `f` of object (cls, idx) as BAD_PARAM. -/
def badAt (cls idx : Nat) (f : Option Nat) : Option CommitFail := f.map (fun o => (.badParam, cls * 0x10000 + idx, o))

/-- BAD_PARAM at offset 0 where `b`. -/
def badIf (cls idx : Nat) (b : Bool) : Option CommitFail := if b then some (.badParam, cls * 0x10000 + idx, 0) else none

/-- Staged entries that will be enabled, checked one after the other beside those that stay enabled. -/
def State.streamFault (s t : State) (ws : List TxnWrite) : Option CommitFail :=
  let ids := stagedIdx ws 4
  let stay := s.sprue.cache.filter (fun e => e.enabled && !ids.contains e.id.toNat)
  (ids.foldl (fun (acc : Option CommitFail × List Stream) i =>
    let e := Stream.fresh (BitVec.ofNat 12 i) (cfgOf (s.objStaged ws 4 i))
    match acc with
    | (some f, l) => (some f, l)
    | (none, l) =>
      if !e.bit 0 12 then (none, l)
      else if t.entryOk e l then (none, l ++ [e]) else (some (.badParam, 0x40000 + i, 0), l)) (none, stay)).1

/-- Some entry will be enabled. -/
def State.anyEnabled (s : State) (ws : List TxnWrite) : Bool :=
  s.sprue.cache.any (fun e => e.enabled && !(stagedIdx ws 4).contains e.id.toNat) ||
  (stagedIdx ws 4).any (fun i => (natAt (s.objStaged ws 4 i) 0 4).testBit 12)

/-- Registers of the transaction that break a rule of their own, then the lanes, links and rings as they will stand. -/
def State.regFault (s t : State) (ws : List TxnWrite) : Option CommitFail :=
  let rs := objWrites ws 5 0
  match rs.find? (fun w => match s.rwcTarget w.off w.data with
      | some (b, o, v) => !s.rwcFits b o v
      | none => true) with
  | some w => some (.badParam, 0x50000, w.off)
  | none =>
    if rs.isEmpty then none
    else if !t.linksOk then some (.badParam, 0x50000, ((rs.find? (fun w => decide (0x400000 ≤ w.off))).map (fun w => w.off)).getD 0)
    else if !t.ringsOk then some (.badParam, 0x50000, ((rs.find? (fun w => decide (0x410200 ≤ w.off))).map (fun w => w.off)).getD 0)
    else none

/-- A frame change that the committed DYN configuration does not fit (R177). -/
def State.frameFault (s t : State) (ws : List TxnWrite) : Option CommitFail :=
  badIf 1 0 (stages ws 1 0 && !stages ws 2 0 && decide (t.dyn.f0 ≠ 0) &&
    !dynTimesOk s.dyn.f0.toNat s.dyn.f1.toNat t.vital.par.frameMs.toNat)

/-- An ISLMAP policy object is refused (R443). -/
def State.failslotBad (s : State) (a : Arch) (bs : List Byte) : Bool :=
  let f := natAt bs 0 1
  let had := s.holm.keep.persist.failslot[a]
  let now := (s.arch[a]).failSlot
  !zeroAt bs 1 3 || (decide (32 < f) && decide (f ≠ 0x3F)) || (s.arch[a]).tide.susp ||
  (decide (f ≠ 0x3F) && decide (had ≠ 0x3F) && decide (had.toNat ≠ f)) ||
  (decide (f ≠ 0x3F) && decide (now ≠ 0x3F) && decide (now.toNat ≠ f))

/-- Why a commit of the staged writes is refused; none when it is accepted. Objects are checked in class order. -/
def State.commitFault (s : State) (ws : List TxnWrite) : Option CommitFail :=
  let t := s.candidate ws
  let policyHit := (stages ws 10 0 || stages ws 1 0 || !(objWrites ws 5 0).isEmpty) && s.policyBad t (s.anyEnabled ws)
  ((if stages ws 1 0 then badAt 1 0 (s.vitalFault (s.objStaged ws 1 0)) else none).or <|
   (s.frameFault t ws).or <|
   (if stages ws 2 0 then badAt 2 0 (dynFault (s.objStaged ws 2 0) t.vital.par.frameMs.toNat) else none).or <|
   ((stagedIdx ws 3).findSome? (fun l => badAt 3 l (netFault (s.objStaged ws 3 l)))).or <|
   (s.streamFault t ws).or <|
   (s.regFault t ws).or <|
   ((stagedIdx ws 6).findSome? (fun k =>
      if !s.net.drained || s.net.epochLoaded then some (VStatus.busy, 0x60000 + k, 0)
      else badIf 6 k (!(decide (natAt (s.objStaged ws 6 k) 0 1 < 2)) || ((s.objStaged ws 6 k).drop 1).any (fun b => decide (3 < b.toNat))))).or <|
   ((stagedIdx ws 7).findSome? (fun a => badIf 7 a (s.patternBad t ws (ix 8 a)))).or <|
   (if stages ws 8 0 then (s.slotFault (s.objStaged ws 8 0)).map (fun st => (st, 0x80000, 0)) else none).or <|
   ((stagedIdx ws 9).findSome? (fun a => badIf 9 a (s.failslotBad (ix 8 a) (s.objStaged ws 9 a)))).or <|
   (if policyHit then
      some (if stages ws 10 0 then (VStatus.badParam, 0xA0000, 0)
        else (VStatus.badParam, if stages ws 1 0 then 0x10000 else 0x50000, 0))
    else none).or <|
   (if stages ws 10 0 ∧ 2 ^ 319 ≤ natLE (s.objStaged ws 10 0) then some (VStatus.badParam, 0xA0000, 39) else none))

end Sys2Proof.Machine
end

