-- ==== Sys2Proof/Machine/Txn.lean ====
section
/-! DEFINITION. Machine/Txn.lean: the configuration transaction: its epoch and hash, acceptance, the commit point, the application of
its objects, and what ends it (spec/17 R407 to R413). -/

namespace Sys2Proof.Machine

/-! ### Epoch and hash (R410) -/

/-- Byte `k` of write `w` is covered by a later write to the same object. -/
def laterCovers (w : TxnWrite) (later : List TxnWrite) (k : Nat) : Bool :=
  later.any (fun v => decide (v.cls = w.cls) && decide (v.idx = w.idx) && decide (v.off ≤ k) && decide (k < v.off + v.data.length))

/-- The writes that some later write does not supersede whole, in write order. -/
def standing : List TxnWrite → List TxnWrite
  | [] => []
  | w :: ws =>
    if (List.range w.data.length).all (fun i => laterCovers w ws (w.off + i)) && !w.data.isEmpty then standing ws
    else w :: standing ws

/-- A staged write as the epoch hash takes it: object ID, offset, length, data. -/
def TxnWrite.bytes (w : TxnWrite) : List Byte :=
  bytesLE 2 w.idx.toNat ++ bytesLE 2 w.cls.toNat ++ bytesLE 4 w.off ++ bytesLE 4 w.data.length ++ w.data

/-- The new epoch hash. (DEDUCED, log 87) -/
def epochHashOf (old : List Byte) (epoch : BitVec 64) (ws : List TxnWrite) : List Byte :=
  sha3 (old ++ bytesLE 8 epoch.toNat ++ sha3 ((standing ws).flatMap TxnWrite.bytes))

/-- Staging space a write takes (R408). -/
def TxnWrite.cost (w : TxnWrite) : Nat := (16 + w.data.length + 7) / 8 * 8

/-! ### What is vital (Table 17.6) -/

/-- Archipelago `a` is in a pair of the mask. -/
def inPairs (pairs : BitVec 4) (a : Nat) : Bool := pairs.getLsbD (a / 2)

/-- A write is to a vital object. `all` are the staged writes with this one. -/
def State.isVital (s : State) (all : List TxnWrite) (w : TxnWrite) : Bool :=
  let after := if stages all 1 0 then vitalOf (s.objStaged all 1 0) else s.vital.par
  let pairs := s.vital.par.pairs ||| after.pairs
  match w.cls.toNat with
  | 1 | 2 => true
  | 4 => (natAt (s.objBytes 4 w.idx.toNat) 0 4).testBit 13 || (natAt (s.objStaged all 4 w.idx.toNat) 0 4).testBit 13
  | 5 =>
    match blockAt w.off with
    | some (.arch a, _) => inPairs pairs a.val
    | some (.riser, o) =>
      decide (0x200 ≤ o ∧ o < 0x300) && (s.vital.par.vriser ++ after.vriser).contains (ix 16 ((o - 0x200) / 16))
    | _ => false
  | 7 => inPairs pairs w.idx.toNat
  | _ => false

/-- Some staged write is vital. -/
def State.anyVital (s : State) (ws : List TxnWrite) : Bool := ws.any (s.isVital ws)

/-! ### Application (R411) -/

/-- A staged stream entry: disabled, rewritten, re-enabled; where the grouping has changed since acceptance and no longer holds the
entry in one stream it stays disabled, as a regrouping disables it (spec/08 R204). (DEDUCED, log 68) -/
def State.applyEntry (s : State) (i : Nat) (bs : List Byte) : State :=
  let id : BitVec 12 := BitVec.ofNat 12 i
  let cfg := cfgOf bs
  let off := vmod cfg 0 (fun w => w &&& 0xFFFFEFFF)
  let s := (s.disableStream id).invalStream id
  let s : State := { s with holm := { s.holm with streamObj := (SMap.set (Vector.replicate 10 0) s.holm.streamObj i cfg) } }
  let s := match s.entryOff id with
    | some o => s.tablePut o (off.toList.flatMap (fun w => bytesLE 4 w.toNat))
    | none => s
  if !(cfg[0]).getLsbD 12 then s
  else
    let e := Stream.fresh id cfg
    if e.dsth || s.ladleOk e (s.sprue.cache.filter (fun x => x.enabled)) then s.enableStream id cfg
    else s.event .regroupDisable (bytesLE 2 i)

/-- The routing tables of the next epoch are loaded before the commit point: the present ones with the staged objects, in the buffer of the
other parity (R411, spec/13 R316). -/
def State.applyRoutes (s : State) (ws : List TxnWrite) : State :=
  let ks := stagedIdx ws 6
  if ks.isEmpty then s
  else
    let t := ks.foldl (fun t k => t.withObj k (s.objStaged ws 6 k)) s.curTable
    { s with net := { s.net with
        table := vset s.net.table (if s.net.epoch.getLsbD 0 then 0 else 1) t, epochLoaded := true } }

/-- A staged pattern replacement waits for its dispatch point (spec/03 R89). -/
def State.applyPattern (s : State) (a : Arch) (bs : List Byte) : State :=
  let s : State := { s with holm := { s.holm with patObj := vset s.holm.patObj a bs } }
  match s.replacementOf a bs with
  | some r => s.modMould a (fun m => { m with repl := m.repl ++ [r] })
  | none => s

/-- A staged bitstream slot with the load flag is loaded, one with the boot flag is SHCFG.SLOT from now on (spec/15 R365, R373). -/
def State.applySlot (s : State) (bs : List Byte) : State :=
  let slot := decide (natAt bs 64 1 = 1)
  let s : State := { s with holm := { s.holm with slotObj := bs } }
  let s : State := if (natAt bs 65 1).testBit 1 then { s with shore := { s.shore with slot := slot } } else s
  if (natAt bs 65 1).testBit 0 then s.loadStart slot false else s

/-- A staged ISLMAP policy naming an active island runs a step at once with it as target (spec/19 R443). -/
def State.applyFailslot (s : State) (a : Arch) (bs : List Byte) : State :=
  let f : BitVec 6 := BitVec.ofNat 6 (natAt bs 0 1)
  if s.arch[a].carries f then (s.modTide a (fun t => { t with mapOutNow := true })).tideStart a else s

/-- A staged power policy: domains held off are fenced, domains that the present mode wants are powered (spec/18 R417). Islands of an
archipelago in no stream stay off until a mode entry groups it (spec/04 R117). -/
def State.applyPolicy (s : State) (bs : List Byte) : State :=
  let p := permOf bs
  let s : State := { s with pwr := { s.pwr with perm := p.1, aS := p.2 } }
  let off := (List.range 316).filter (fun d => s.pwr.on.getLsbD d && !s.permitted.getLsbD d)
  let s := off.foldl State.fenceDom s
  let idle := (List.finRange 8).filter (fun a => !s.arch[a].seq.part.inStream)
  let up := s.wanted s.mode &&& ~~~s.mode.keeps &&& ~~~s.islandBits idle
  State.clocks { s with pwr := { s.pwr with on := s.pwr.on ||| up, fence := s.pwr.fence &&& ~~~up } }

/-- The persistent settings after a transaction (R413). -/
def State.persistAfter (s : State) (ws : List TxnWrite) : Persist :=
  let p := s.holm.keep.persist
  let bs := s.objStaged ws 8 0
  { bootSlot := if stages ws 8 0 && (natAt bs 65 1).testBit 1 then decide (natAt bs 64 1 = 1) else p.bootSlot
    failslot := (stagedIdx ws 9).foldl (fun v a => vset v (ix 8 a) (BitVec.ofNat 6 (natAt (s.objStaged ws 9 a) 0 1))) p.failslot }

/-- The objects in class order, all from their staged copies `z`, a state before anything is applied. -/
def State.applyObjects (z : State) (ws : List TxnWrite) : State :=
  let s := if stages ws 1 0 then { z with vital := { z.vital with par := vitalOf (z.objStaged ws 1 0) } } else z
  let s := if stages ws 2 0 then { s with dyn := s.dyn.withObj (z.objStaged ws 2 0) } else s
  let s : State := { s with holm := { s.holm with
    netObj := (stagedIdx ws 3).foldl (fun v l => vset v (ix 16 l) (z.objStaged ws 3 l)) s.holm.netObj } }
  let s := (stagedIdx ws 4).foldl (fun t i => t.applyEntry i (z.objStaged ws 4 i)) s
  let s := s.setRegs ws
  let s := (stagedIdx ws 7).foldl (fun t a => t.applyPattern (ix 8 a) (z.objStaged ws 7 a)) s
  let s := if stages ws 8 0 then s.applySlot (z.objStaged ws 8 0) else s
  let s := (stagedIdx ws 9).foldl (fun t a => t.applyFailslot (ix 8 a) (z.objStaged ws 9 a)) s
  if stages ws 10 0 then s.applyPolicy (z.objStaged ws 10 0) else s

/-- The journal entry of a commit in state `st` (R413). -/
def State.journal (s : State) (st : JState) (epoch : BitVec 64) (new old : Persist) : State :=
  { s with holm := { s.holm with keep := { s.holm.keep with
      journal := some (Journal.sealed { st := st, epoch := epoch, new := new, old := old, stored := [] }) } } }

/-- The accepted commit takes effect: journal entry APPLYING, every object, the new epoch, and the entry is marked APPLIED once all of
them are in force. -/
def State.applyCommit (s : State) : State :=
  let ws := s.holm.txn.writes
  let epoch := s.holm.epoch + 1
  let hash := epochHashOf s.holm.epochHash epoch ws
  let new := s.persistAfter ws
  let old := s.holm.keep.persist
  let s := s.journal .applying epoch new old
  let s : State := { s with holm := { s.holm with keep := { s.holm.keep with persist := new } } }
  let s := s.applyObjects ws
  State.settleCommit { s with
      committed := true
      holm := { s.holm with epoch := epoch, epochHash := hash, txn := { s.holm.txn with st := .applied } } }

/-- The accepted commit's point is the boundary that starts frame `f`: the target frame, or the first boundary at least 100 µs after
acceptance. `long` says that the first boundary after acceptance comes that late. -/
def Txn.dueAt (t : Txn) (f : BitVec 64) (long : Bool) : Bool :=
  decide (t.st = .accepted) &&
  (if t.point = 2 then decide (t.target.toNat ≤ f.toNat) else decide (t.point = 1) && (t.waited || long))

/-- At a frame boundary: the commit is applied when due, else it has waited for one boundary. How long ago it was accepted is a
free value. (DESIGN CHOICE, log 67) -/
def State.commitAtBoundary (s : State) (f : BitVec 64) : State :=
  if s.holm.txn.st ≠ .accepted then s.settleCommit
  else if s.holm.txn.dueAt f (Config.freeBit s.fresh) then ({ s with fresh := s.fresh + 1 } : State).applyCommit
  else { s with fresh := s.fresh + 1, holm := { s.holm with txn := { s.holm.txn with waited := true } } }

/-- COMMIT_POINT: acceptance itself is the commit point, or GUARD has been left and the window has closed (R411, Table 17.7). -/
def execCommitPoint (s : State) : Out :=
  let t := s.holm.txn
  if t.st = .accepted ∧ (t.point = 0 ∨ (s.mode ≠ .guard ∧ s.vital.leaveDue = none)) then .next s.applyCommit else .next s

/-- TXN_EXPIRY: 60 s after TXN_BEGIN (R407). -/
def execTxnExpiry (s : State) : Out :=
  .next s.txnAbort

end Sys2Proof.Machine
end

