-- ==== Sys2Proof/Machine/Vital.lean ====
section
/-! DEFINITION. Machine/Vital.lean: the vital frame: boundaries, claims, FRAME_DONE, the assay, the judgement of a frame and the window,
the mailbox requests of the cores, the DYN outputs and monitors (spec/06 R162 to R170, spec/07 R173 to R183, spec/16 R380 to
R382). -/

namespace Sys2Proof.Machine

/-- Apply `f` to the vital frame state. -/
def State.modVital (s : State) (f : Vital → Vital) : State := { s with vital := f s.vital }

/-- The archipelagos of the pairs in vital use. -/
def State.pairArchs (s : State) : List Arch := (List.finRange 8).filter (fun a => inPairs s.vital.par.pairs a.val)

/-! ### The judgement of a frame (R168, R169, R182) -/

/-- What the partner's assays of a frame say. -/
inductive PartnerSays where
  | unused | missing | noOwn | equal | different
deriving DecidableEq, Repr

/-- The partner assays received for the running frame beside the own one. -/
def Vital.partnerSays (v : Vital) : PartnerSays :=
  let rx := (v.partnerRx.filter (fun a => decide (a.f = v.f))).map (fun a => a.assay)
  if v.par.partner = 0 then .unused
  else if rx.isEmpty then .missing
  else match v.assay with
    | none => .noOwn
    | some own => if rx.all (fun a => decide (a = own)) then .equal else .different

/-- Why the frame that ends is not clean: the LCAUSE code of the first failed condition; none when it is clean. -/
def Vital.fault (v : Vital) : Option (BitVec 4) :=
  if v.twinFault then some 1
  else if v.seqFault then some 0xB
  else match v.frameCause with
    | some c => some c
    | none =>
      if !v.doneOk then some 3
      else if v.vrLost then some 2
      else if v.assay.isNone then some 2
      else match v.partnerSays with
        | .different => some 6
        | .missing | .noOwn => if v.degr then none else some 7
        | _ => none

/-- MISS and DEGR after the frame that ends (R182). DEGR, once set, stays until an assay matches, whatever DEGRADE1 becomes.
(DESIGN CHOICE, log 104) -/
def Vital.countMiss (v : Vital) (degrade1 : Bool) : Vital :=
  match v.partnerSays with
  | .unused => v
  | .missing => { v with miss := satInc v.miss, degr := v.degr || (decide (v.miss = 2) && degrade1) }
  | .equal => { v with miss := 0, degr := false }
  | _ => { v with miss := 0 }

/-- The window as the next frame starts (R169), `frame` microseconds into the ended one, with the cause recorded where it does not
open. (DEDUCED, log 65) -/
def State.judge (s : State) (frame : Nat) : State :=
  let v := s.vital
  let bad := v.fault
  let clean := bad.isNone
  let cause : BitVec 4 := match bad with | some c => c | none => 0xA
  let lost := decide (v.partnerSays = .missing) && decide (v.miss = 2)
  let s := s.modVital (fun x => x.countMiss s.dyn.degrade1)
  let s := if lost then s.event .partnerLoss [] else s
  if clean && !v.awaitResume && s.vitalUse then s.modVital (fun x => { x with win := .opened })
  else
    let s := if v.win = .opened then (s.raiseAll 0).modVital (fun x => { x with leftAt := some frame }) else s
    s.modVital (fun x => { x with win := if s.vitalUse then .pending else .closed, lcause := if s.vitalUse then cause else x.lcause })

/-- The first boundary after GUARD is entered judges nothing (R164, R183). -/
def State.firstWindow (s : State) : State :=
  s.modVital (fun x => { x with
    win := if s.vitalUse then .pending else .closed, lcause := if x.awaitResume then 0xA else x.lcause })

/-! ### The boundary (R164, R166, R381) -/

/-- The FRAME_START message of frame `f`, challenge `c`. -/
def frameStartMsg (f : BitVec 64) (c : Word) : List Byte :=
  bytesLE 2 1 ++ bytesLE 2 12 ++ bytesLE 4 (f.toNat % 2 ^ 32) ++ List.replicate 8 0 ++ bytesLE 8 f.toNat ++ bytesLE 4 c.toNat

/-- FRAME_START is written into the frame slot of VCORE. -/
def State.postStart (s : State) : State :=
  let n : CoreId := s.vital.par.vcore.toFin
  { s with holm := { s.holm with
      mbox := wrBytes 0 s.holm.mbox (0x3000 * n.val + 0x1010) (frameStartMsg s.vital.f s.vital.challenge)
      fseq := vmod s.holm.fseq n (fun k => k + 1), frmNew := vset s.holm.frmNew n true } }

/-- The window a monitor expects: this device's own, or the partner's as its heartbeat reports it (R179), lane 14's where both have
reported. (DESIGN CHOICE, log 104) -/
def State.expectOpen (s : State) (i : Fin 8) : Bool :=
  let src : BitVec 2 := fld s.dyn.msrc (2 * i.val) 2
  let hb (lane : Bool) : Option HbBody := if s.vital.par.partner.getLsbD (linkNo lane).val then (s.straits[linkNo lane]).hb else none
  let win := if src = 1 then decide (s.vital.win = .opened)
    else ((hb false).or (hb true)).any (fun b => decide (b.win = 2))
  s.dyn.en.getLsbD i.val && win

/-- What the DYN side does at a boundary: mismatches of the ended frame are reported, the new frame is keyed by `key`, times count
from the new boundary. -/
def State.dynBoundary (s : State) (frame : Nat) (key : List Byte) (before : Fin 8 → Bool) : State :=
  let shift (i : Fin 8) (m : Monitor) : Monitor :=
    { lastEdge := if before i then m.lastEdge.map (fun e => e - (frame : Int)) else none, lastHalf := 16, expect := m.expect }
  let back (t : Option Int) : Option Int := t.map (fun e => e - (frame : Int))
  { s with
    dyn := { s.dyn with
      mis := s.dyn.misFrame, misFrame := 0, keyAssay := key, mon := Vector.ofFn (fun i => shift i s.dyn.mon[i])
      periodAt := s.dyn.periodAt.map back }
    vital := { s.vital with leftAt := back s.vital.leftAt }
    straits := s.straits.map (fun x => { x with hbLeft := back x.hbLeft }) }

/-- What every frame starts with (R162, R166, Table 6.9). -/
def State.startFrame (s : State) (f : BitVec 64) : State :=
  let s := s.eachArch s.pairArchs (fun t a => (t.modSeq a (fun q => { q with tnt := false })).modTwin a (fun x => { x with
    fault := { x.fault with valid := false }, faulted := false, retried := false }))
  let s := s.modVital (fun v => { v with
    f := f, nextF := f + 1, running := true, challenge := Config.freeWord s.fresh, claimed := false, doneOk := false
    frameCause := none, twinFault := false, seqFault := false, vrLost := false, assay := none, fepoch := s.holm.epoch, slew := 0, now := 0
    partnerRx := v.partnerRx.filter (fun a => decide (f.toNat ≤ a.f.toNat)) })
  (({ s with fresh := s.fresh + 1 } : State).postStart).triggerRise 7

/-- FRAME_BOUNDARY: the ended frame is judged, a commit due here takes effect, and the next frame starts; none while a transition out of
GUARD is in progress. A window that was OPEN when
the commit takes PAIRS to 0 closes with LCAUSE 0x8. (DESIGN CHOICE, log 92) -/
def execFrameBoundary (s : State) : Out :=
  if s.mode ≠ .guard ∨ s.vital.hbWait ∨ s.pwr.target.isSome then .next s
  else
    let s := match s.vital.leaveDue with | some c => s.leaveNow c | none => s
    let frame := (((s.vital.par.frameMs.toNat * 1000 : Nat) : Int) + s.vital.slew).toNat
    let key := if s.vital.running then s.vital.assay.getD [] else []
    let before := s.expectOpen
    let f := s.vital.nextF
    let s := if s.vital.running then s.judge frame else s.firstWindow
    let s := s.commitAtBoundary f
    let s := if s.vitalUse then s.modVital (fun v => { v with win := if v.win = .closed then .pending else v.win })
      else if s.vital.win = .closed then s else s.leaveNow 8
    .next ((s.dynBoundary frame key before).startFrame f)

/-! ### Requests of the cores (R166, R380, R382) -/

/-- The Holm takes the request of core `n` that carries TYPE, SEQ and payload as given, and answers it. (DEDUCED, log 90) -/
def State.mboxTake (s : State) (n : CoreId) (type : Nat) (seq : Word) (payload : List Byte) (act : State → VStatus × State) :
    State :=
  let m := s.mboxMsg n
  if s.holm.go[n] && decide (m.type = type) && decide (m.seq = seq) && decide (m.payload = payload) then
    match s.mboxRefusal n m with
    | some st => s.mboxReply n m st
    | none => let (st, t) := act s; t.mboxReply n m st
  else s

/-- A claim from VCORE. -/
def State.claim (s : State) (n : CoreId) (f : BitVec 64) : VStatus × State :=
  let v := s.vital
  if v.running && !v.claimed && decide (f = v.f) then
    (.ok, { s with
      vital := { v with claimed := true }
      cores := vmod s.cores n (fun c => { c with cst := c.cst &&& ~~~0x40, vec := { c.vec with vctrl := fld v.par.vctrl 0 3 } }) })
  else (.denied, s)

/-- FRAME_CLAIM. -/
def execFrameClaim (n : CoreId) (seq : Word) (f : BitVec 64) (s : State) : Out :=
  .next (s.mboxTake n 2 seq (bytesLE 8 f.toNat) (fun t => t.claim n f))

/-- The watchdog answer of the running frame (R166). -/
def Vital.answer (v : Vital) : Word := (v.challenge * v.par.vwkey).rotateLeft (v.f.toNat % 32)

/-- Why a FRAME_DONE that arrives `us` microseconds after the boundary is refused: the LCAUSE code. -/
def State.doneFault (s : State) (n : CoreId) (f : BitVec 64) (ans : Word) (us : Nat) : Option (BitVec 4) :=
  let v := s.vital
  if !v.claimed || decide (f ≠ v.f) || !(decide (v.par.vwmin.toNat ≤ us) && decide (us ≤ v.par.vwmax.toNat)) then some 3
  else if ans ≠ v.answer then some 4
  else if s.cores[n].cst.getLsbD 6 || s.pairArchs.any (fun a => (s.arch[a]).seq.tnt) then some 5
  else none

/-- The complement check reads `k` words of both copies from word `w` of copy E: the bytes of copy E, none where a word fails. -/
def State.readCopies (s : State) (k : Nat) : Option (List Byte) × State :=
  if !s.domainOpen 303 then (none, s)
  else
    let (e, s) := s.hWords 0x3FFC00 k
    let (o, s) := s.hWords 0x3FFE00 k
    match e, o with
    | some be, some bo =>
      if (List.range (8 * k)).all (fun i => decide ((be.getD i 0) ^^^ (bo.getD i 0) = 0xFF)) then (some be, s) else (none, s)
    | _, _ => (none, s)

/-- The assay of frame `f` (R167). -/
def assayOf (f epoch : BitVec 64) (copyE : List Byte) : List Byte := sha3 (bytesLE 8 f.toNat ++ bytesLE 8 epoch.toNat ++ copyE)

/-- The check and the assay that follow an accepted FRAME_DONE; the assay goes to the partner (R167, R168, spec/18 R428). A lost group of
a VRISER context fails the check (spec/08 R222). -/
def State.makeAssay (s : State) : State :=
  match s.readCopies (s.vital.par.vlen.toNat / 8), s.vital.vrLost with
  | (none, s), _ | (some _, s), true => s.modVital (fun v => { v with frameCause := some 2 })
  | (some copy, s), false =>
    let f := s.vital.f
    let a := assayOf f s.vital.fepoch copy
    let s : State := { s with
      vital := { s.vital with assay := some a, lastAssay := a }
      pwr := { s.pwr with kept := some (f, a, copy) } }
    s.sendLanes ([false, true].filter (fun l => s.partnerLane l && s.straitOn l)) (.assay f a)

/-- A FRAME_DONE from VCORE: one for a frame already accepted changes nothing, one refused for any other reason spoils the frame. -/
def State.done (s : State) (n : CoreId) (f : BitVec 64) (ans : Word) (us : Nat) : VStatus × State :=
  if !s.vital.running || s.vital.accepted.contains f then (.denied, s)
  else match s.doneFault n f ans us with
    | some c => (.denied, s.modVital (fun v => { v with frameCause := v.frameCause.or (some c) }))
    | none => (.ok, (s.modVital (fun v => { v with doneOk := true, accepted := v.accepted ++ [f] })).makeAssay)

/-- A command tells that it is `t` microseconds after the boundary: what has happened before lies not later. -/
def State.timeIs (s : State) (t : Nat) : State :=
  let clip (e : Option Int) : Option Int := e.map (fun e => min e (t : Int))
  { s with
    vital := { s.vital with now := max s.vital.now t, leftAt := clip s.vital.leftAt }
    straits := s.straits.map (fun x => { x with hbLeft := clip x.hbLeft }) }

/-- FRAME_DONE, `us` microseconds after the boundary. -/
def execFrameDone (n : CoreId) (seq : Word) (f : BitVec 64) (ans : Word) (us : Nat) (s : State) : Out :=
  .next ((s.timeIs us).mboxTake n 3 seq (bytesLE 8 f.toNat ++ bytesLE 4 ans.toNat) (fun t => t.done n f ans us))

/-- EVENT_POST. -/
def execEventPost (n : CoreId) (seq : Word) (code : BitVec 16) (data : List Byte) (s : State) : Out :=
  .next (s.mboxTake n 4 seq (bytesLE 2 code.toNat ++ data) (fun t => (.ok, t.event (.posted code) data)))

/-- SAFE_STOP_REQ: the reason is recorded with the event. -/
def execSafeStopReq (n : CoreId) (seq : Word) (reason : BitVec 16) (s : State) : Out :=
  .next (s.mboxTake n 5 seq (bytesLE 2 reason.toNat) (fun t =>
    if t.mayStop then (.ok, t.safeStop (bytesLE 2 reason.toNat)) else (.modeConflict, t)))

/-! ### DYN outputs (R173 to R176) -/

/-- The half-slot in which time `t` lies, of a frame of `frame` microseconds. -/
def halfSlot (t frame : Nat) : Nat := min 15 (t * 16 / frame)

/-- The frequency of half-slot `h` on output `i`: f_1 where true (R174). -/
def keyBit (key : List Byte) (i : Fin 8) (h : Nat) : Bool :=
  (key.getD i.val 0).getLsbD (h / 2) != decide (h % 2 = 1)

/-- The half period in microseconds for frequency choice `b`. -/
def Dyn.half (d : Dyn) (b : Bool) : Nat := halfPeriod (if b then d.f1.toNat else d.f0.toNat)

/-- The period in progress on output `i` ends at time `t`, or none is in progress (R175). -/
def Dyn.ends (d : Dyn) (i : Fin 8) (t : Nat) : Bool :=
  d.periodAt[i].all (fun p => decide ((t : Int) = p + 2 * (d.periodHalf[i]).toNat))

/-- A period may begin on output `i` at `t`: where the one before it ends, or, with none in progress, within 2 µs of the boundary at which
the window became OPEN (R175). -/
def Dyn.begins (d : Dyn) (i : Fin 8) (t : Nat) : Bool := d.periodAt[i].isSome || decide (t ≤ 2)

/-- The level of pin `i` at time `t`: a square wave, high for the first half of its period (R174). -/
def Dyn.level (d : Dyn) (i : Fin 8) (t : Int) : PinLevel :=
  match d.pin[i], d.periodAt[i] with
  | .high, some p => if p ≤ t ∧ t < p + (d.periodHalf[i]).toNat then .high else .low
  | x, _ => x

/-- DYN_PERIOD: output `i` begins a period `t` microseconds after the boundary, where the one before it ends, or is low from there once
the window has left OPEN (R175, R176). (DESIGN CHOICE, log 66) -/
def execDynPeriod (i : Fin 8) (t : Nat) (s : State) : Out :=
  let d := s.dyn
  let s := s.timeIs t
  if !d.ends i t then .next s
  else if s.vital.win = .opened ∧ s.mode = .guard ∧ d.en.getLsbD i.val then
    if !d.begins i t then .next s else
    let b := keyBit d.keyAssay i (halfSlot t (s.vital.par.frameMs.toNat * 1000))
    .next { s with dyn := { d with
      pin := vset d.pin i .high, drv := d.drv ||| (1 <<< i.val), periodHalf := vset d.periodHalf i (BitVec.ofNat 16 (d.half b))
      periodAt := vset d.periodAt i (some (t : Int)) } }
  else
    .next { s with dyn := { d with
      pin := vset d.pin i (if d.pin[i] = .hiZ then .hiZ else .low), drv := d.drv &&& ~~~((1 : Byte) <<< i.val)
      periodHalf := vset d.periodHalf i 0, periodAt := vset d.periodAt i none } }

/-! ### Monitors (R179) -/

/-- A mismatch on monitor `i`: counted, marked, and with MONREACT a SAFE STOP. -/
def State.monMismatch (s : State) (i : Fin 8) : State :=
  let s : State := { s with dyn := { s.dyn with misCnt := satInc s.dyn.misCnt, misFrame := s.dyn.misFrame ||| (1 <<< i.val) } }
  if s.dyn.monreact.getLsbD i.val then s.safeStop [BitVec.ofNat 8 i.val] else s

/-- A measured period is within 8 % of frequency `b`'s. -/
def Dyn.near (d : Dyn) (b : Bool) (p : Int) : Bool :=
  let P : Int := 2 * d.half b
  decide (100 * (p - P) ≤ 8 * P) && decide (100 * (P - p) ≤ 8 * P)

/-- When the window that monitor `i` expects last left OPEN, in microseconds from the present boundary. -/
def State.expectLeft (s : State) (i : Fin 8) : Option Int :=
  let hb (lane : Bool) : Option Int := if s.vital.par.partner.getLsbD (linkNo lane).val then (s.straits[linkNo lane]).hbLeft else none
  if (fld s.dyn.msrc (2 * i.val) 2 : BitVec 2) = 1 then s.vital.leftAt else (hb false).or (hb true)

/-- A rising edge at `t` comes later than one period and 100 µs after the expected window has left OPEN; the period is the longer of the
two, and an edge before any window has left is none such. (DESIGN CHOICE, log 103) (DESIGN CHOICE, log 104) -/
def State.edgeLate (s : State) (i : Fin 8) (t : Nat) : Bool :=
  (s.expectLeft i).any (fun e => decide (e + 2 * (max (s.dyn.half false) (s.dyn.half true) : Nat) + 100 < (t : Int)))

/-- DYNMON_EDGE: a rising edge `t` microseconds after the boundary closes a period. An edge while the expected window is not OPEN is a
mismatch where it comes too late after the window left. -/
def execDynmonEdge (i : Fin 8) (t : Nat) (s : State) : Out :=
  let s := s.timeIs t
  let d := s.dyn
  let m := d.mon[i]
  let h := halfSlot t (s.vital.par.frameMs.toNat * 1000)
  if (fld d.msrc (2 * i.val) 2 : BitVec 2) = 0 then .next s
  else if !s.expectOpen i then
    let s : State := { s with dyn := { d with mon := vset d.mon i { lastEdge := none, lastHalf := 16, expect := none } } }
    .next (if s.edgeLate i t then s.monMismatch i else s)
  else
    let bad := match m.lastEdge with
      | none => false
      | some e =>
        let p := (t : Int) - e
        !(d.near false p || d.near true p) || (match m.expect with | some b => !d.near b p | none => false)
    let new : Monitor := { lastEdge := some (t : Int), lastHalf := h
                           expect := if m.lastEdge.isSome ∧ m.lastHalf = h then some (keyBit d.keyAssay i h) else none }
    let s : State := { s with dyn := { d with mon := vset d.mon i new } }
    .next (if bad then s.monMismatch i else s)

/-- DYNMON_STATIC_TIMEOUT: the input has stayed static for more than two periods while alternation is expected. -/
def execDynmonStaticTimeout (i : Fin 8) (s : State) : Out :=
  if (fld s.dyn.msrc (2 * i.val) 2 : BitVec 2) ≠ 0 ∧ s.expectOpen i then .next (s.monMismatch i) else .next s

end Sys2Proof.Machine
end

