-- ==== Sys2Proof/Machine/Boot.lean ====
section
/-! DEFINITION. Machine/Boot.lean: device reset, the boot sequence of the Holm, and the life-cycle transition (spec/16 R387, R388, R391,
R392, spec/18 R426, R429, spec/19 R442, spec/15 R371). -/

namespace Sys2Proof.Machine

/-! ### Reset -/

/-- Device reset with SYS.RSTCAUSE `cause`: every session closes, and everything takes its reset value but OTP, boot flash, fabric flash,
keep store, event journal, the Skerry and the hold charger (Table 16.13, R371, R426, spec/17 R402). A flash command under way spoils its
place (R360). -/
def State.resetDevice (s : State) (cause : BitVec 4) : State :=
  let s := s.nvSpoil.closeAll
  let h := s.holm
  let z := State.reset
  { z with
    pending := s.pending, fresh := s.fresh, gradeC := s.gradeC, events := s.events
    cores := s.cores.map (fun c => { Core.reset with draws := c.draws })
    shore := { Shore.reset with flash := s.shore.flash, slots := s.shore.slots }
    pwr := { Power.reset with rstCause := cause, holdOk := s.pwr.holdOk, holdV := s.pwr.holdV, crystal := s.pwr.crystal }
    holm := { Holm.reset with
      lcCount := h.lcCount, slotProg := h.slotProg, slotRev := h.slotRev, counters := h.counters, keyHash := h.keyHash
      ohmeskHash := h.ohmeskHash, helper := h.helper, trim := h.trim, otpRest := h.otpRest, rom := h.rom, ohmeskKey := h.ohmeskKey
      keyFile := h.keyFile, flash2 := h.flash2
      bootCount := h.bootCount, flash := h.flash, keep := h.keep, replies := h.replies } }

/-- RESET_N_LOW: drivers and pins go to high impedance and the device is reset; unpowered, nothing happens. -/
def execResetNLow (s : State) : Out := if s.mode = .off then .next s else .next (s.resetDevice 1)

/-! ### The life-cycle transition (R391, Table 16.15) -/

/-- Step 2: the pending-transition record is written; the steps after it follow on an empty queue. (DEDUCED, log 74) -/
def State.lcBegin (s : State) : State :=
  { s with holm := { s.holm with keep := s.holm.keep.putHdr s.holm.lcCount true, lcStep := 3 } }

/-- Step 3: the memories of Table 16.13 and the keep store, all but its header, and in PROVISIONED all but the wrapped keys. -/
def State.lcWipe (s : State) : State :=
  let h := s.holm
  let kept := decide (min h.keep.hdrLc.toNat 4 = 1)
  let keep : Keep := { h.keep with
    snapA := none, snapB := none, journal := none, persist := { bootSlot := false, failslot := Vector.replicate 8 0x3F }
    wrapGen := if kept then h.keep.wrapGen else 0, wrapped := if kept then h.keep.wrapped else [], wrapSeal := if kept then h.keep.wrapSeal else [] }
  { s with
    fresh := max s.fresh s.eventNo, events := [], isl := s.isl.map IslSt.wiped
    arch := s.arch.map (fun x => { x with mould := Mould.empty, seq := { x.seq with mode := .noMould } })
    harbour := { s.harbour with mem := [], delta := [] }, cores := s.cores.map (fun c => { c with sram := [], sramUe := [] })
    shore := { s.shore with bits := none, loaded := false, load := none, pll := false }
    holm := { h with keep := keep, mbox := [], sram := [], sramDelta := [] } }

/-- Step 4: the LC bit after those that the header counts is burnt; one already burnt stays (R385). -/
def State.lcBurn (s : State) : State :=
  let n := s.holm.keep.hdrLc + 1
  { s with holm := { s.holm with lcCount := if s.holm.lcCount ≤ n then n else s.holm.lcCount, bootCount := 0 } }

/-- Step 5: the record is cleared. -/
def State.lcClear (s : State) : State := { s with holm := { s.holm with keep := s.holm.keep.putHdr s.holm.lcCount false } }

/-- The next step of a life-cycle transition; step 6 is the reset. -/
def State.lcNext (s : State) : State :=
  let at' (t : State) (k : Nat) : State := { t with holm := { t.holm with lcStep := k } }
  match s.holm.lcStep with
  | 3 => at' s.lcWipe 4
  | 4 => at' s.lcBurn 5
  | 5 => at' s.lcClear 6
  | 6 => s.resetDevice 3
  | _ => s

/-- Steps 3 to 6, as a boot that finds a pending record repeats them. -/
def State.lcFinish (s : State) : State := s.lcWipe.lcBurn.lcClear.resetDevice 3

/-! ### Boot (R387) -/

/-- A refused image of step 5. -/
def State.bootRefuseImage (s : State) (bit : Nat) (f : ImgFault) : State := s.bootRefuse bit f.code

/-- An image has been loaded: its measurement is reported from now on (R390). -/
def State.noteLoaded (s : State) (i : Image) : State := { s with holm := { s.holm with loaded := s.holm.loaded ++ [i] } }

/-- Active images of a type in a directory, in its order. -/
def activeIn (dir : List DirEntry) (typ : Nat) : List Image :=
  (dir.filter (fun e => e.active && !e.alternate && decide (e.image.typ.toNat = typ))).map (fun e => e.image)

/-- Active images of a type in the directory in force. -/
def State.activeImages (s : State) (typ : Nat) : List Image := activeIn s.holm.flash typ

/-- The alternate Uzoug of a directory. -/
def alternateIn (dir : List DirEntry) : Option Image :=
  (dir.find? (fun e => e.alternate && decide (e.image.typ = 1))).map (fun e => e.image)

/-- BOOTSTAT.REASON holds the first refusal. -/
def State.noteReason (s : State) (why : Nat) : State :=
  let b := s.holm.bootstat
  { s with holm := { s.holm with bootstat := if (fld b 20 4 : BitVec 4) = 0 then setFld b 20 4 (BitVec.ofNat 4 why) else b } }

/-- The Uzoug of a directory that verifies, the active one before the alternate, and whether it is the alternate. -/
def State.uzougIn (s : State) (dir : List DirEntry) : Option (Image × Bool) :=
  let ok (i : Image) : Bool := (s.imageFault i).isNone
  match (activeIn dir 1).head?.filter ok with
  | some i => some (i, false)
  | none => ((alternateIn dir).filter ok).map (fun j => (j, true))

/-- The REASON for a directory whose active Uzoug is not the one booted: that image's fault, or the alternate's where there is no
active one, or a flash that cannot be read. -/
def State.uzougWhy (s : State) (dir : List DirEntry) : Nat :=
  match ((activeIn dir 1).head?.or (alternateIn dir)).bind s.imageFault with | some f => f.code | none => 7

/-- Step 4: the Uzoug that verifies, in the first directory or else in the second, which is the one in force from then on (R387).
(DEDUCED, log 73) -/
def State.bootUzoug (s : State) : Option (Image × Bool) × State :=
  match s.uzougIn s.holm.flash with
  | some (i, false) => (some (i, false), s)
  | some (j, true) => (some (j, true), s.noteReason (s.uzougWhy s.holm.flash))
  | none =>
    let t := s.noteReason (s.uzougWhy s.holm.flash)
    match s.uzougIn s.holm.flash2 with
    | some u => (some u, { t with holm := { t.holm with flash := t.holm.flash2 } })
    | none => (none, t)

/-- The configuration image: its writes are checked and applied as a commit would, and RWC fields close (R387 step 5, R388, R469,
spec/17 R410). A C-grade part takes no lattice position (spec/00 Table 0.2). (DEDUCED, log 95) -/
def State.bootConfig (s : State) (i : Image) : State :=
  match s.imageFault i, i.body with
  | some f, _ => s.bootRefuseImage 17 f
  | none, .config ws _ latpos parts =>
    let t : State := (s.noteLoaded i)
    let t : State := { t with latpos := if t.gradeC then 0 else latpos, holm := { t.holm with parts := parts } }
    if ws.any t.writeBad || (t.commitFault ws).isSome then s.bootRefuseImage 17 .loader
    else
      let persist := t.persistAfter ws
      let t : State := { t with holm := { t.holm with keep := { t.holm.keep with persist := persist } } }
      let t := (t.applyRoutes ws).applyObjects ws
      { t with committed := true, holm := { t.holm with epoch := i.version, epochHash := measureOf i } }
  | none, _ => s.bootRefuseImage 17 .format

/-- Put a mould image into archipelago `a`, lock the areas, and let its sequencer wait for records (spec/03 R88, Table 3.9). The
first accepted area starts it: an archipelago with one of the two areas counts as loaded. (DESIGN CHOICE, log 92) -/
def State.installMould (s : State) (a : Arch) (vendor : Bool) (ws : List (A13 × Micro)) (es : List A13) : State :=
  let x := s.arch[a]
  let (m, entries) := x.mould.withImage vendor ws es
  s.modArch a (fun y => { y with
    mould := { y.mould with word := m, verified := m, delta := [], entries := entries, loaded := true, vlock := true, plock := s.gradeC }
    seq := { y.seq with mode := if y.seq.haltReq then .halted false else .dispatchWait } })

/-- A mould image in one archipelago: refused, it leaves the archipelago without a mould. -/
def State.bootMould (s : State) (i : Image) (a : Arch) : State :=
  if s.holm.bootstat.getLsbD a.val then s
  else match s.imageFault { i with target := 1 <<< a.val }, i.body with
    | none, .mould ws es => s.installMould a (decide (i.typ = 2)) ws es
    | f, _ =>
      let s := s.modArch a (fun y => { y with mould := Mould.empty, seq := { y.seq with mode := .noMould } })
      s.bootRefuseImage a.val (f.getD .format)

/-- Every archipelago a mould image names. -/
def State.bootMoulds (s : State) (i : Image) : State :=
  let as := (maskArchs i.target).filter (fun a => s.present.contains a)
  let t := as.foldl (fun t a => t.bootMould i a) s
  if as.any (fun a => !t.holm.bootstat.getLsbD a.val) then t.noteLoaded i else t

/-- Core firmware: SRAM, customer slots and micro-store of every core named; a refused image leaves its cores halted (R388,
spec/11 R279). -/
def State.bootCore (s : State) (i : Image) : State :=
  let ns := (List.finRange 4).filter (fun (n : CoreId) => i.target.getLsbD n.val)
  match s.imageFault i, i.body with
  | none, .core sram slots ustore =>
    (ns.foldl (fun t n => { t with cores := vmod t.cores n (fun c => { c with sram := SMap.norm 0 sram, slots := slots, ustore := SMap.norm 0 ustore }) }) s).noteLoaded i
  | f, _ => ns.foldl (fun t n => t.bootRefuseImage (12 + n.val) (f.getD .format)) s

/-- The load of the bitstream runs to its end; at most two slots are tried (spec/15 R365). -/
def State.runLoad (inp : BootInput) : Nat → State → State
  | 0, s => s
  | k + 1, s =>
    match s.shore.load with
    | none => s
    | some l => State.runLoad inp k (s.loadDone (if l.step = 2 then inp.flashOk else if l.step = 5 then inp.pllOk else true))

/-- The island map of an archipelago with a persistent FAILSLOT (spec/19 R442). -/
def State.bootMap (s : State) (a : Arch) : State :=
  let f := s.holm.keep.persist.failslot[a]
  if 32 < f.toNat then s
  else
    let s := s.modArch a (fun x => { x with
      islmap := Vector.ofFn (fun p : Fin 32 => BitVec.ofNat 6 (if p.val < f.toNat then p.val else p.val + 1))
      failSlot := f, rslot := 0x3F, consumed := true, tide := { x.tide with phase := 5 } })
    (s.modIsl (islOf a 32) (fun i => { i with role := 0 })).modIsl (islOf a f.toNat) (fun i => { i with role := 4 })

/-- Step 6: the commit journal is completed or undone, and the vital snapshot selected (R387, R389, spec/17 R413). -/
def State.bootKeep (s : State) : State :=
  let k := s.holm.keep
  let persist := match k.entry with
    | none => k.persist
    | some j => if j.st = .applied then j.new else j.old
  let s : State := { s with holm := { s.holm with keep := { k with persist := persist } } }
  match k.newest with
  | none => s
  | some (p, _) =>
    { s with
      vital := { s.vital with reportedDigest := p.seal }
      holm := { s.holm with bootstat := s.holm.bootstat ||| 0x40000000 } }

/-- Mode `m` would join archipelagos whose moulds hold different images into one stream (spec/04 R116, spec/06 R147). -/
def State.mouldsDiffer (s : State) (m : Mode) : Bool :=
  (s.groups m).any (fun g => g.1.any (fun a => !((s.arch[g.1.headD a]).mould.sameImage (s.arch[a]).mould)))

/-- Entry to mode `m` is refused by the life cycle, by its grouping or by GUARD's conditions (spec/18 R422, spec/04 R116); with the
Skerry RC as reference GUARD waits for the crystal (spec/20 R451). -/
def State.entryRefused (s : State) (m : Mode) : Bool :=
  !lcPermits s.holm.lcState m || s.mouldsDiffer m ||
  (decide (m = .guard) && (decide (s.vital.par.pairs = 0) || !s.committed || !s.pwr.holdOk || (s.pwr.sysrefSrc && !s.pwr.crystal)))

/-- The mode the configuration names. -/
def State.namedMode (s : State) : Option Mode :=
  s.holm.loaded.findSome? (fun i => match i.body with | .config _ m _ _ => Mode.ofCode m | _ => none)

/-- Step 7: cores with firmware are released; PROVISION in BLANK, else CONFIGURE and the transition to the mode named. -/
def State.bootEnd (s : State) : State :=
  let ready (n : CoreId) : Bool := !s.holm.bootstat.getLsbD (12 + n.val) && s.holm.loaded.any (fun i => decide (i.typ = 4) && i.target.getLsbD n.val)
  let s : State := { s with
    cores := Vector.ofFn (fun n : CoreId => if ready n then { s.cores[n] with haltReq := false, halted := false } else s.cores[n])
    holm := { s.holm with bootstat := s.holm.bootstat ||| 0x80000000 } }
  if s.holm.lcState = 0 then s.enterMode .provision
  else if s.holm.lcState = 3 then s.enterMode .service
  else
    let s := s.enterMode .configure
    match s.namedMode with
    | some m =>
      if !m.working || decide (m = .configure) then s
      else if s.entryRefused m then s
      else s.startTransition m 0
    | none => s

/-- Steps 5 to 7. -/
def State.bootImages (s : State) (inp : BootInput) : State :=
  let s := match (s.activeImages 6).head? with | some i => s.bootConfig i | none => s
  let s := (s.activeImages 2).foldl State.bootMoulds s
  let s := (s.activeImages 3).foldl State.bootMoulds s
  let s := (s.activeImages 4).foldl State.bootCore s
  let s : State := { s with shore := { s.shore with slot := s.holm.keep.persist.bootSlot } }
  let s := State.runLoad inp 14 (s.loadStart s.shore.slot true)
  let s := if s.shore.loaded then (match s.slotImage s.shore.slotRun with | some i => s.noteLoaded i | none => s) else s
  let s := s.bootKeep
  (s.present.foldl State.bootMap s).bootEnd

/-- The boot of a device that is out of reset and has not started. (DEDUCED, log 20) (DEDUCED, log 73) -/
def State.boot (s : State) (inp : BootInput) : State :=
  let s : State := { s with
    shore := { s.shore with levels := inp.levels }
    pwr := { s.pwr with sysrefSrc := inp.straps.getLsbD 5 }
    holm := { s.holm with straps := inp.straps, started := true, romBad := !inp.romOk, bootCount := s.holm.bootCount + 1 } }
  if !inp.romOk then { s with pwr := { s.pwr with rstCause := 4 } }
  else
  let s : State := { s with holm := { s.holm with puf := pufKey s.holm.helper } }
  if s.holm.keep.pendingLc then s.lcFinish
  else if s.holm.lcState = 4 then s
  else
    let s : State := { s with holm := { s.holm with keys := if inp.flashOk then s.holm.acceptKeys else s.holm.keys } }
    let s := s.powerFor .boot
    match if inp.flashOk then s.bootUzoug else (none, s.noteReason 7) with
    | (none, t) => t
    | (some (i, alt), t) =>
      let t := t.noteLoaded i
      (if alt then { t with holm := { t.holm with bootstat := t.holm.bootstat ||| 0x20000000 } } else t).bootImages inp

/-! ### System pins (spec/20 R453) -/

/-- A row of Table 20.4. -/
inductive SysPin where
  | spiClk | spiData | avs | bootsel | dynmon | tdo | resetPfail
deriving DecidableEq, Repr

/-- How a system pin stands; `access`: driven while it is used, else as named. -/
inductive SysPinState where
  | hiZ | pullUp | input | inputPulled | accessLow | accessPullUp | shiftOnly | low | driven | held | ignored
deriving DecidableEq, Repr

/-- Table 20.4: unpowered, RESET_N low, BOOT and later modes, ebb. -/
def State.sysPin (s : State) (p : SysPin) : SysPinState :=
  if s.mode = .off then .hiZ
  else if s.mode = .ebb then
    match p with
    | .spiClk => .low | .spiData => .pullUp | .avs => .held | .bootsel => .ignored | .dynmon => .input | .tdo => .hiZ | .resetPfail => .input
  else if s.mode = .boot ∧ s.holm.started = false then
    match p with
    | .spiClk => .hiZ | .spiData => .pullUp | .avs => .hiZ | .bootsel => .input | .dynmon => .inputPulled | .tdo => .hiZ | .resetPfail => .input
  else
    match p with
    | .spiClk => .accessLow | .spiData => .accessPullUp | .avs => .driven | .bootsel => .ignored | .dynmon => .inputPulled
    | .tdo => .shiftOnly | .resetPfail => .input

/-- BOOT_SEQUENCE: after a reset, or from OFF with a power-on reset. -/
def execBootSequence (inp : BootInput) (s : State) : Out :=
  if s.mode = .off then .next ((s.resetDevice 0).boot inp)
  else if s.mode = .boot ∧ s.holm.started = false then .next (s.boot inp)
  else .next s

end Sys2Proof.Machine
end

