-- ==== Sys2Proof/Machine/Ebb.lean ====
section
/-! DEFINITION. Machine/Ebb.lean: supply, thermal and wake events, the ebb, and the online tests of cores, lanes and the Holm
(spec/18 R419, R420, R424, R427 to R430, spec/19 R444, spec/17 R414, spec/20 R450, R464). -/

namespace Sys2Proof.Machine

/-! ### The ebb (Table 18.7) -/

/-- A snapshot is due in this ebb (R428). -/
def State.snapshotDue (s : State) : Bool := s.vital.running && decide (s.vital.par.pairs ≠ 0) && s.pwr.kept.isSome

/-- A sequencer isolated by an ebb: its records are lost, nothing completes and nothing issues (spec/05 Table 5.5). -/
def Seq.isolated (q : Seq) : Seq :=
  { q with
    queue := [], stepSlot := none, slot0 := none, slot1 := none, held := false
    ctx := { q.ctx with cur := none, posted := false, failed := false, stack := [] }
    mode := if q.mode = .noMould then .noMould else .halted false }

/-- What the isolation of every domain but Holm and Skerry loses at once: records, table walks, DMA beats (spec/14 Table 14.3), packets. -/
def State.isolate (s : State) : State :=
  { s with
    arch := s.arch.map (fun x => { x with seq := x.seq.isolated, twin := { x.twin with pend := false, found := [], pendCause := none, owed := [] } })
    pour := { buf := Vector.replicate 4 [], compl := [] }
    dma := s.dma.map DmaChan.dropped, xlat := { s.xlat with walks := [] }
    net := { s.net with requests := [], responses := [], views := [], packets := [] } }

/-- Steps 1 and 2: window CLOSED, sessions closed, the transaction lost with a commit whose point has not come (spec/17 Table 17.7), DYN
low, pins at presets where a preset vector has loaded, every domain but Holm and Skerry isolated. A life-cycle transition and the write of a
bitstream slot break off (R427). (DEDUCED, log 70) -/
def State.ebbStart (s : State) : State :=
  let s := (s.nvSpoil.jesdStop).closeAll
  let s := if s.vital.win = .opened then s.leaveNow 8 else s
  let s := if s.shore.pins = .function then s.portBreak else s
  let s := s.isolate
  { s with
    mode := .ebb
    vital := { s.vital with win := .closed, leaveDue := none }
    dyn := { s.dyn with pin := Vector.replicate 8 .low, drv := 0, periodHalf := Vector.replicate 8 0, periodAt := Vector.replicate 8 none }
    shore := { s.shore with nvBusy := false, pins := if s.shore.pins = .function then .presets else s.shore.pins, pinsNext := none }
    pwr := { s.pwr with on := domBit 314 ||| domBit 315, fence := 0, retained := 0, target := none, ebbStep := 2, plock := false,
                        nlock := false, flock := false, qlock := 0 }
    holm := { s.holm with
      hello := none, part0 := none, stage := [], jobs := [], uart := none, frames := [], txn := Txn.none, lcStep := 0, slotJob := none } }

/-- EBB: PFAIL_N falls or a droop is detected; a second fall in EBB is ignored. -/
def execEbb (s : State) : Out := if s.mode = .off ∨ s.mode = .ebb then .next s else .next s.ebbStart

/-- The snapshot made of the kept values (R428, Table 18.8). -/
def State.snapshotOf (s : State) (f : BitVec 64) (assay copy : List Byte) : Snapshot :=
  let gen := match s.holm.keep.newest with | some (p, _) => p.gen + 1 | none => 1
  let tail : Byte × BitVec 64 := match s.holm.keep.journal with
    | none => (0, 0)
    | some j => (BitVec.ofNat 8 j.st.code, j.epoch)
  { gen := gen, vlen := BitVec.ofNat 16 copy.length, f := f, epoch := s.holm.epoch, hash := s.holm.epochHash, assay := assay
    copyE := copy, jstate := tail.1, jepoch := tail.2, stored := [] }

/-- Steps 3 and 4: snapshot, an APPLYING journal entry becomes UNDO, event EBB. -/
def State.ebbSeal (s : State) : State :=
  let s : State := match s.snapshotDue, s.pwr.kept with
    | true, some (f, a, c) => { s with holm := { s.holm with keep := s.holm.keep.putSnapshot (s.snapshotOf f a c) } }
    | _, _ => s
  let undo (j : Journal) : Journal := if j.st = .applying then Journal.sealed { j with st := .undo } else j
  let s : State := { s with
    holm := { s.holm with keep := { s.holm.keep with journal := s.holm.keep.journal.map undo } }
    pwr := { s.pwr with ebbStep := 4 } }
  s.event .ebb []

/-- SNAPSHOT_SEALED. -/
def execSnapshotSealed (s : State) : Out := if s.mode = .ebb ∧ s.pwr.ebbStep = 2 then .next s.ebbSeal else .next s

/-- EBB_COMPLETE: a snapshot that is due has to be sealed before. -/
def execEbbComplete (s : State) : Out :=
  if s.mode ≠ .ebb then .next s
  else
    let s := if s.pwr.ebbStep = 2 ∧ s.snapshotDue = false then s.ebbSeal else s
    if s.pwr.ebbStep = 4 then .next { s with pwr := { s.pwr with ebbStep := 5 } } else .next s

/-- EBB_RECOVERY: 10 ms of good supply after step 5 start an internal reset (R429). -/
def execEbbRecovery (s : State) : Out :=
  if s.mode = .ebb ∧ s.pwr.ebbStep = 5 then .next (s.resetDevice 2) else .next s

/-- HOLD as HOLDSTAT gives it, in units of 25 mV: a free value of the range [lo, hi]. (DESIGN CHOICE, log 18) -/
def holdUnits (lo hi d : Nat) : Byte := BitVec.ofNat 8 (lo + (Config.freeWord d).toNat % (hi + 1 - lo))

/-- HOLD_COLLAPSE: the device goes to OFF (R429, Table 7.1 Unpowered); a snapshot that is not yet sealed is torn (spec/16 R389). -/
def execHoldCollapse (s : State) : Out :=
  if s.mode = .ebb then
    let torn := decide (s.pwr.ebbStep = 2) && s.snapshotDue
    .next { s with
      mode := .off
      fresh := s.fresh + 1
      holm := { s.holm with keep := if torn then s.holm.keep.tearSnapshot else s.holm.keep }
      dyn := { s.dyn with pin := Vector.replicate 8 .hiZ }
      shore := { s.shore with pins := .hiZ }
      pwr := { s.pwr with on := 0, crystal := false, holdOk := false, holdV := holdUnits 0 119 s.fresh } }
  else .next s

/-- VDDIO_SYS_COLLAPSE: during an ebb the DYN drivers go to high impedance (R173). -/
def execVddioSysCollapse (s : State) : Out :=
  if s.mode = .ebb then .next { s with dyn := { s.dyn with pin := Vector.replicate 8 .hiZ } } else .next s

/-! ### Hold capacitor, temperature, supply -/

/-- HOLDOK_CHANGE: HOLD crosses 4.5 V, 180 units of 25 mV; the charger takes it to at most 5.0 V, 200 units (R430, R434). -/
def execHoldokChange (ok : Bool) (s : State) : Out :=
  if s.mode = .off then .next s
  else .next { s with
    fresh := s.fresh + 1
    pwr := { s.pwr with holdOk := ok, holdV := if ok then holdUnits 180 200 s.fresh else holdUnits 0 179 s.fresh } }

/-- HOLDOK_TIMEOUT: HOLDOK has stayed 0 for 100 ms in GUARD. -/
def execHoldokTimeout (s : State) : Out :=
  if s.mode = .guard ∧ s.pwr.holdOk = false then .next (s.safeStop [2]) else .next s

/-- The Holm runs: out of reset, booted, not idling in EBB or asleep. -/
def State.holmRuns (s : State) : Bool :=
  s.holm.started && !s.holm.romBad && decide (s.mode ≠ .off) && decide (s.mode ≠ .ebb) && decide (s.mode ≠ .dormant)

/-- THERMAL_SAMPLE, in units of 1/16 °C: above 105 °C the pour clock steps down, below 100 °C up; 128 °C enters SAFE STOP (R419,
R420). -/
def execThermalSample (tj : BitVec 16) (s : State) : Out :=
  if !s.holmRuns then .next s
  else
    let old := s.pwr.tj
    let s : State := { s with pwr := { s.pwr with
      tj := tj, step := if 1680 < tj.toInt then true else if tj.toInt < 1600 then false else s.pwr.step } }
    if 2048 ≤ tj.toInt then
      if s.mayStop then .next ((s.event .thermal (bytesLE 2 tj.toNat)).safeStop (bytesLE 2 tj.toNat))
      else if old.toInt < 2048 then .next (s.event .thermal (bytesLE 2 tj.toNat))
      else .next s
    else .next s

/-- A new VDD_CORE target has been sent: the regulator acknowledges it, or the failure is recorded and the device goes on with the
voltage present (R450). -/
def State.avsTo (s : State) (target : Nat) (ack : Bool) : State :=
  if ack then { s with pwr := { s.pwr with avs := target } } else s.event .avsLost (bytesLE 2 target)

/-- AVS_STEP: a new target in mV, one step of 5 mV within 720 to 780. Whether the regulator acknowledges it is a free value.
(DESIGN CHOICE, log 71) -/
def execAvsStep (target : Nat) (s : State) : Out :=
  if s.holmRuns ∧ 720 ≤ target ∧ target ≤ 780 ∧ target % 5 = 0 ∧ (target = s.pwr.avs + 5 ∨ target + 5 = s.pwr.avs) then
    .next (({ s with fresh := s.fresh + 1 } : State).avsTo target (Config.freeBit s.fresh))
  else .next s

/-- CRYSTAL_START. -/
def execCrystalStart (s : State) : Out :=
  if s.mode = .off then .next s else .next { s with pwr := { s.pwr with crystal := true } }

/-! ### DORMANT and the wake (R424) -/

/-- A wake begins: the transition to SENTINEL is in progress. -/
def State.wakeStart (s : State) : State :=
  if s.mode = .dormant then { s with pwr := { s.pwr with target := some .sentinel, alarm := 0 } } else s

/-- SKERRY_ALARM: the alarm set with MODE_SET expires. -/
def execSkerryAlarm (s : State) : Out :=
  if s.mode = .dormant ∧ s.pwr.alarm ≠ 0 then .next s.wakeStart else .next s

/-- SH000_WAKE_EDGE: wakes where the preset STATE of SH000 is 0b001. -/
def execSh000WakeEdge (s : State) : Out :=
  if (fld s.shore.latches[(0 : Fin 224)] 0 3 : BitVec 3) = 1 then .next s.wakeStart else .next s

/-- The configuration bytes of every committed entry return to the wiped stream table. -/
def State.rewriteEntries (s : State) : State :=
  s.holm.streamObj.foldl (fun t ic =>
    match t.entryOff (BitVec.ofNat 12 ic.1) with
    | some o => t.tablePut o ((vmod ic.2 0 (fun (w : Word) => w &&& 0xFFFFEFFF)).toList.flatMap (fun (w : Word) => bytesLE 4 w.toNat))
    | none => t) s

/-- The committed entries with EN = 1 are enabled again. -/
def State.reenableEntries (s : State) : State :=
  s.holm.streamObj.foldl (fun t ic => if (ic.2[(0 : Fin 10)]).getLsbD 12 then t.enableStream (BitVec.ofNat 12 ic.1) ic.2 else t) s

/-- WAKE_COMPLETE: domains powered, stream table rewritten, the fabric reloads, the mode reads SENTINEL, event WAKE (Table 18.5). -/
def execWakeComplete (s : State) : Out :=
  if s.mode = .dormant ∧ s.pwr.target = some .sentinel then
    let s := s.enterMode .sentinel
    let s := (s.rewriteEntries).reenableEntries
    let s := if (s.slotImage s.shore.slot).isSome then
        (let p := s.shore.pins
         (s.loadStart s.shore.slot false).modShore (fun h => { h with pins := p }))
      else s
    .next (s.event .wake [])
  else .next s

/-! ### Online tests (spec/19 R444, spec/17 R414) -/

/-- The vendor self-test of core `n` may not run: VCORE while pairs are in use, or a core without power. -/
def State.testBarred (s : State) (n : CoreId) : Bool :=
  (decide (s.vital.par.vcore.toNat = n.val) && decide (s.vital.par.pairs ≠ 0)) || !s.pwr.on.getLsbD (304 + n.val)

/-- A core is under test. -/
def State.coreTesting (s : State) : Bool := s.cores.toList.any (fun c => c.selftest)

/-- Core `n` halts at a boundary for its self-test, which begins once what it has outstanding is done, as after FENCE (spec/17 R414); from
then on CSTAT.STEST reads 1. -/
def State.testCore (s : State) (n : CoreId) : State :=
  { s with cores := vmod s.cores n (fun c => { c with selftest := true }) }

/-- CORE_SELFTEST_TIMER: the next core in turn that may be tested. (DEDUCED, log 79) -/
def execCoreSelftestTimer (s : State) : Out :=
  if !s.holmRuns || s.coreTesting then .next s
  else
    let turn := (List.range 4).map (fun k => (ix 4 ((s.holm.selfNext.val + k) % 4) : CoreId))
    match turn.find? (fun n => !s.testBarred n) with
    | some n => .next (({ s with holm := { s.holm with selfNext := n + 1 } } : State).testCore n)
    | none => .next s

/-- CORE_SELFTEST_DONE: the result is recorded and the core resumes with its state kept. -/
def execCoreSelftestDone (n : CoreId) (pass : Bool) (s : State) : Out :=
  if s.cores[n].selftest ∧ s.cores[n].quiet then
    .next (State.event { s with cores := vmod s.cores n (fun c => { c with selftest := false, stest := if pass then 2 else 3 }) }
      .selfTest [BitVec.ofNat 8 n.val, if pass then 1 else 0])
  else .next s

/-- HOLM_ROM_CHECK: a failed check is recorded and requests SAFE STOP (spec/16 R377). -/
def execHolmRomCheck (ok : Bool) (s : State) : Out :=
  if ok || !s.holmRuns then .next s else .next ((s.event .romCheck []).safeStop [0])

/-- HOLM_SRAM_SCRUB: one 64-bit word of the data SRAM; an uncorrectable one is a failed check (spec/16 R377). -/
def execHolmSramScrub (s : State) : Out :=
  if !s.holmRuns then .next s
  else
    let p := s.holm.scrubPos
    let s : State := { s with holm := { s.holm with scrubPos := (p + 1) % 131072 } }
    let raw := natLE (rdBytes 0 s.holm.sram (8 * p) 8)
    match eccDecode 64 7 (SMap.get 0 s.holm.sramDelta p).toNat with
    | .clean => .next s
    | .corrected bit =>
      let v := match bit with | some i => raw ^^^ 2 ^ i | none => raw
      .next { s with holm := { s.holm with sram := wrBytes 0 s.holm.sram (8 * p) (bytesLE 8 v), sramDelta := SMap.set 0 s.holm.sramDelta p 0 } }
    | .bad => .next ((s.event .romCheck [1]).safeStop [1])

/-- LANE_RECALIBRATION_DONE. -/
def execLaneRecalibrationDone (l : Fin 16) (ok : Bool) (s : State) : Out :=
  if (s.lanes[l]).recal then
    .next ((s.modLane l (fun y => { y with recal := false })).event .recal [BitVec.ofNat 8 l.val, if ok then 1 else 0])
  else .next s

/-- OFFLINE_TEST_DONE. -/
def execOfflineTestDone (ok : Bool) (s : State) : Out :=
  if s.holm.offline then
    .next (State.event { s with holm := { s.holm with offline := false } } .offlineTest [if ok then 1 else 0])
  else .next s

/-- JTAG_PIN_CONTROL: in GUARD or with the window not CLOSED the device first goes to SAFE STOP and the window closes; then the pins
change: DYN drives low, under HIGHZ every driver is off (R464). (DEDUCED, log 72) -/
def execJtagPinControl (ir : JtagPin) (s : State) : Out :=
  if s.mode = .off then .next s
  else
    let s := if s.mode = .guard ∨ s.vital.win ≠ .closed then
        (let t := s.safeStop [3]
         match t.vital.leaveDue with | some c => t.leaveNow c | none => t)
      else s
    let lvl : PinLevel := if ir = .highz then .hiZ else .low
    .next { s with
      dyn := { s.dyn with pin := Vector.replicate 8 lvl, drv := 0, periodHalf := Vector.replicate 8 0, periodAt := Vector.replicate 8 none }
      shore := { s.shore with pins := if ir = .highz then .hiZ else s.shore.pins }
      holm := { s.holm with jtag := some ir } }

end Sys2Proof.Machine
end

