-- ==== Sys2Proof/Machine/Vevis.lean ====
section
/-! DEFINITION. Machine/Vevis.lean: how the Holm takes a Vevis packet: where it is served, sessions, sequence numbers, fragments, the
order of checks and the reply (spec/17 R393 to R404), and what sessions are opened and closed with. -/

namespace Sys2Proof.Machine

/-- The Vevis roles (spec/17 Table 17.2). -/
def roleRead : BitVec 6 := 0x01
def roleConfig : BitVec 6 := 0x02
def roleVital : BitVec 6 := 0x04
def roleService : BitVec 6 := 0x08
def roleLifecycle : BitVec 6 := 0x10
def roleImage : BitVec 6 := 0x20

/-- The served modes (R393). -/
def Mode.served (m : Mode) : Bool := decide (4 ≤ m.code)
/-- The modes of the transaction commands (Table 17.3). -/
def Mode.txnServed (m : Mode) : Bool := m.working

/-- Flag bits 1 and 2 of a packet: encrypted, last fragment (Table 17.1). -/
def pkEnc (pk : VPacket) : Bool := pk.flags.getLsbD 1
def pkLast (pk : VPacket) : Bool := pk.flags.getLsbD 2

/-- Magic, version, the reserved flag bits and the payload length hold (R395). -/
def pkHdrOk (pk : VPacket) : Bool :=
  decide (pk.magic = 0x5653) && decide (pk.version = 1) && decide (pk.flags.toNat < 8) && decide (pk.len.toNat = pk.payload.length)

/-- The header of a packet as it is sent (Table 17.1). -/
def pkHeader (pk : VPacket) : List Byte :=
  bytesLE 2 pk.magic.toNat ++ [pk.version, pk.flags] ++ bytesLE 2 pk.op.toNat ++ bytesLE 2 pk.status.toNat ++ bytesLE 4 pk.sess.toNat ++
  bytesLE 4 pk.seq.toNat ++ bytesLE 4 pk.len.toNat ++ bytesLE 4 pk.txn.toNat ++ bytesLE 2 pk.frag.toNat ++ bytesLE 6 pk.ctr.toNat

/-- The packet: header, payload, tag (R395). -/
def pkBytes (pk : VPacket) : List Byte := pkHeader pk ++ pk.payload ++ bytesLE 32 pk.tag.toNat

/-- The device takes the packet from its transport: a lane whose network object enables Vevis, at the UDP port it names, or the service
UART, which without a bitstream runs in four modes only and whose packets are the frames received whole, in their order (R393, R394,
spec/15 R362, spec/20 R457). Nothing is taken while a life-cycle transition runs. (DEDUCED, log 80) -/
def State.answers (s : State) (pk : VPacket) : Bool :=
  s.mode.served && decide (s.holm.lcStep = 0) &&
  match pk.peer.lane with
  | some l =>
    let o := s.holm.netObj[l]
    decide (natAt o 8 1 ≠ 0) && decide (natAt o 12 1 = 1) && decide (natAt o 10 2 = pk.dstPort.toNat) &&
    decide ((fld s.lanes[l].lcfg 0 3 : BitVec 3) = 4) && s.domainOpen (272 + l.val)
  | none =>
    (decide (s.shore.st ≠ 0) || decide (s.mode = .provision) || decide (s.mode = .configure) || decide (s.mode = .service) ||
      decide (s.mode = .safeStop)) && decide (s.holm.frames.head? = some (pkBytes pk))

/-- The frame that carried the packet is gone. -/
def State.takeFrame (s : State) (pk : VPacket) : State :=
  if pk.peer.lane.isNone then { s with holm := { s.holm with frames := s.holm.frames.tail } } else s

/-- Draw `n` free bytes. -/
def State.freeBytes (s : State) (n : Nat) : List Byte × State :=
  ((List.range n).map (fun i => Config.freeByte s.fresh i), { s with fresh := s.fresh + 1 })

/-! ### Sessions -/

/-- What stands for session 0: no role, nothing accepted. -/
def Session.zero : Session :=
  { id := 0, roles := 0, seq := 0, lastTag := 0, cached := none, ctrIn := 0, ctrOut := 0, part := none
    mac := List.replicate 32 0, enc := [] }

/-- The MAC key of a session; 32 zero bytes for session 0 (R397). -/
def State.macKey (s : State) (id : Word) : List Byte := match s.session? id with | some x => x.mac | none => Session.zero.mac

/-- The tag a request of session `x` must carry: KMAC256 under the session's MAC key over header and payload as sent, customisation
string "SVZ-PKT" (R397). -/
def rightTag (pk : VPacket) (x : Session) : List Byte := kmac256 x.mac (pkHeader pk ++ pk.payload) 32 [0x53, 0x56, 0x5A, 0x2D, 0x50, 0x4B, 0x54]

/-- The payload in clear: of an encrypted packet what AES-256-GCM opens under the session's encryption key, IV the session ID and nonce
bytes 24 to 31; none where its tag fails (R397). -/
def clearPayload (pk : VPacket) (x : Session) : Option (List Byte) :=
  if pkEnc pk then gcmOpen x.enc (bytesLE 4 pk.sess.toNat ++ bytesLE 2 pk.frag.toNat ++ bytesLE 6 pk.ctr.toNat) pk.payload else some pk.payload

/-- The payload of a packet whose tag holds, in clear; the tag is checked first (R397). -/
def opened (pk : VPacket) (x : Session) : Option (List Byte) := if bytesLE 32 pk.tag.toNat = rightTag pk x then clearPayload pk x else none

/-! ### Secrets in the keep store (spec/16 R376, R389) -/

/-- The wrapped-keys record is rewritten with the secret of session `id` sealed under K_wrap and a DRBG nonce. Which secrets are
stored and when the spec leaves open: here a session's two keys, from its opening to its end. (DESIGN CHOICE, log 97) -/
def State.wrapSecret (s : State) (id : Word) (m : List Byte) : State :=
  let (iv, t) := s.freeBytes 12
  let c := iv ++ gcmSeal (wrapKey t.holm.puf t.holm.lcCount) iv m
  let others := t.holm.keep.wrappedKeys.filter (fun x => decide (x.1 ≠ id))
  { t with holm := { t.holm with keep := t.holm.keep.putWrapped (others ++ [(id, c)]) } }

/-- The secret wrapped for session `id`, where its tag holds under K_wrap of the present life-cycle count: after a transition it
reads as absent (R376). -/
def State.unwrapSecret (s : State) (id : Word) : Option (List Byte) :=
  (s.holm.keep.wrappedKeys.find? (fun x => decide (x.1 = id))).bind (fun x =>
    gcmOpen (wrapKey s.holm.puf s.holm.lcCount) (x.2.take 12) (x.2.drop 12))

/-- The transaction ID of a reply's header: that of the transaction in the three commands that name one (Table 17.1). -/
def State.replyTxn (s : State) (op : BitVec 16) : Word :=
  if op = 0x0402 ∨ op = 0x0403 ∨ op = 0x0404 then s.holm.txn.id else 0

/-- The packets a reply goes out in: fragments of 1,388 bytes, each with the header of Table 17.1 and its tag, the KMAC256 under
the MAC key with customisation string "SVZ-PKT" (R395 to R397). A reply is sent in clear. (DESIGN CHOICE, log 97) -/
def Reply.packets (r : Reply) : List (List Byte) :=
  let n := (r.payload.length + 1387) / 1388
  (List.range (max n 1)).map (fun i =>
    let p := (r.payload.drop (1388 * i)).take 1388
    let flags := if i + 1 = max n 1 then 0x05 else 0x01
    let h := bytesLE 2 0x5653 ++ bytesLE 1 1 ++ bytesLE 1 flags ++ bytesLE 2 r.op.toNat ++ bytesLE 2 r.status.toNat ++
      bytesLE 4 r.sess.toNat ++ bytesLE 4 r.seq.toNat ++ bytesLE 4 p.length ++ bytesLE 4 r.txn.toNat ++ bytesLE 2 i ++ bytesLE 6 r.ctr.toNat
    h ++ p ++ kmac256 r.mac (h ++ p) 32 [0x53, 0x56, 0x5A, 0x2D, 0x50, 0x4B, 0x54])

/-- A reply as its transport carries it: datagrams to the source of the request, or frames on the service UART (R393, R394). -/
def Reply.wire (r : Reply) : List (List Byte) := if r.peer.lane.isNone then r.packets.map uartStuff else r.packets

/-- Send a reply tagged under `key`: a session's messages are counted, bit 47 of the counter being the device's (R397). -/
def State.sendUnder (s : State) (key : List Byte) (peer : Peer) (sess seq : Word) (op : BitVec 16) (st : VStatus) (data : List Byte) : State :=
  let n : BitVec 48 := match s.session? sess with | some x => x.ctrOut + 1 | none => 0
  let f (x : Session) : Session := { x with ctrOut := x.ctrOut + 1 }
  let r : Reply :=
    { peer := peer, sess := sess, seq := seq, ctr := n ||| 0x800000000000, op := op, status := BitVec.ofNat 16 st.code, payload := data
      txn := s.replyTxn op, mac := key }
  let t := s.modSession sess f
  { t with holm := { t.holm with replies := t.holm.replies ++ [r] } }

/-- Send a reply tagged under the session's MAC key. -/
def State.send (s : State) (peer : Peer) (sess seq : Word) (op : BitVec 16) (st : VStatus) (data : List Byte) : State :=
  s.sendUnder (s.macKey sess) peer sess seq op st data

/-! ### One packet -/

/-- What a command answers: status, payload, state, the session the reply names where it is not the request's, and whether the
reply waits (MEM_READ and MEM_WRITE, log 51). -/
structure Ans where
  st : VStatus
  data : List Byte
  next : State
  sess : Option Word
  held : Bool
deriving DecidableEq, Repr

/-- A refusal, which changes nothing (R404). -/
def State.no (s : State) (st : VStatus) : Ans := { st := st, data := [], next := s, sess := none, held := false }
/-- OK with a payload. -/
def State.ok (s : State) (data : List Byte) : Ans := { st := .ok, data := data, next := s, sess := none, held := false }
/-- ACCEPTED with a payload. -/
def State.acc (s : State) (data : List Byte) : Ans := { st := .accepted, data := data, next := s, sess := none, held := false }

/-- An opcode of Table 17.3: its code, the roles a request needs, the modes it is served in, what it does, what follows the reply, and which
requests a rule of another chapter denies, which Table 17.4 puts before the mode. -/
structure Opcode where
  code : BitVec 16
  need : State → List Byte → BitVec 6
  modes : Mode → Bool
  run : State → VPacket → Session → List Byte → Ans
  after : State → Word → List Byte → State
  deny : List Byte → Bool := fun _ => false

/-- Opcodes that session 0 may carry (R399). -/
def zeroAllowed (s : State) (lane : Option (Fin 16)) (code : BitVec 16) : Bool :=
  [0x0001, 0x0002, 0x0004, 0x0101, 0x0102, 0x0201].contains code.toNat ||
  (decide (code = 0x0202) && decide (s.holm.lcState = 0) && lane.isNone)

/-- Fragments: the message is complete, or goes on, or is broken off with a status (R396). -/
inductive Assembled where
  | whole (data : List Byte)
  | more (p : BitVec 16 × Word × List Byte × Nat)
  | broken (st : VStatus)
deriving DecidableEq, Repr

/-- A packet that is a message of its own: index 0 with flag bit 2, or with less than a full payload. (DEDUCED, log 81) -/
def pkLone (pk : VPacket) : Bool := decide (pk.frag = 0) && (pkLast pk || decide (pk.payload.length ≠ 1388))

/-- Take a packet with payload `clear` into the partial message `p`. -/
def assemble (p : Option (BitVec 16 × Word × List Byte × Nat)) (code : BitVec 16) (pk : VPacket) (clear : List Byte) : Assembled :=
  if pkLone pk then .whole clear
  else
    let ctx : Option (List Byte) := match p with
      | none => if pk.frag = 0 then some [] else none
      | some (op, sq, got, n) => if op = code ∧ sq = pk.seq ∧ n = pk.frag.toNat then some got else none
    match ctx with
    | none => .broken .badSeq
    | some got =>
      let all := got ++ clear
      if 65536 < all.length then .broken .badLength
      else if pkLast pk then .whole all
      else if pk.payload.length = 1388 then .more (code, pk.seq, all, pk.frag.toNat + 1)
      else .broken .badLength

/-- The partial message of a session, or of session 0. -/
def State.setPart (s : State) (id : Word) (p : Option (BitVec 16 × Word × List Byte × Nat)) : State :=
  let f (x : Session) : Session := { x with part := p }
  if id = 0 then { s with holm := { s.holm with part0 := p } } else s.modSession id f

/-- The reply to the request with sequence number `seq` of session `sess`, kept for a repeat (R398). -/
def State.finish (s : State) (peer : Peer) (sess as : Word) (seq : Word) (code : BitVec 16) (st : VStatus) (data : List Byte) : State :=
  let keep (y : Session) : Session := { y with cached := some (BitVec.ofNat 16 st.code, data) }
  (s.modSession sess keep).send peer as seq code st data

/-- Roles, mode, then the opcode's own checks and effect; the reply is sent and kept for a repeat (R398, R404). (DEDUCED, log 82) -/
def State.perform (s : State) (o : Opcode) (pk : VPacket) (x : Session) (data : List Byte) : State :=
  let a :=
    if pk.op ≠ o.code then s.no .badOpcode
    else if (pk.sess ≠ 0 ∧ o.need s data &&& ~~~x.roles ≠ 0) ∨ o.deny data then s.no .denied
    else if !o.modes s.mode then s.no .modeConflict
    else o.run s pk x data
  if a.held then a.next
  else
  let t := a.next.finish pk.peer pk.sess (a.sess.getD pk.sess) pk.seq pk.op a.st a.data
  if a.st = .ok then o.after t pk.sess data else t

/-- A request of session `id` waits for its reply: a MEM_READ, a MEM_WRITE or a TXN_COMMIT that writes a bitstream slot. -/
def State.awaited (s : State) (id : Word) : Bool := s.holm.jobs.any (fun j => decide (j.sess = id)) || s.holm.slotJob.any (fun j => decide (j.sess = id))

/-- A packet of session 0 or of session `x` whose tag holds, with its payload in clear: sequence number, counter and fragments, then the
command. A stale fragment discards the partial message (R396); the next request is BUSY while one is unanswered (R398). (DEDUCED, log 82) -/
def State.takePacket (s : State) (o : Opcode) (pk : VPacket) (x : Session) (clear : List Byte) : State :=
  let refuse (t : State) (st : VStatus) : State := t.send pk.peer pk.sess pk.seq pk.op st []
  let stale := decide (pk.sess ≠ 0) && (decide (pk.ctr.toNat ≤ x.ctrIn.toNat) || pk.ctr.getLsbD 47 || decide (pk.seq ≠ x.seq + 1))
  if stale then refuse (if pkLone pk then s else s.setPart pk.sess none) .badSeq
  else if decide (pk.sess ≠ 0) && s.awaited pk.sess then refuse s .busy
  else match assemble (if pk.sess = 0 then s.holm.part0 else x.part) pk.op pk clear with
    | .broken st => refuse (s.setPart pk.sess none) st
    | .more p => s.setPart pk.sess (some p)
    | .whole data =>
      let f (y : Session) : Session := { y with seq := pk.seq, lastTag := pk.tag, cached := none, ctrIn := pk.ctr, part := none }
      let t := if pk.sess = 0 then (if pkLone pk then s else s.setPart 0 none) else s.modSession pk.sess f
      t.perform o pk x data

/-- A packet with opcode `o`, or with one that Table 17.3 does not have, in the order of Table 17.4. A repeat of a request that is still
unanswered gets the reply when it comes. -/
def State.vevis (s : State) (o : Opcode) (pk : VPacket) : State :=
  if !s.answers pk then s
  else
    let s := s.takeFrame pk
    if !pkHdrOk pk then { s with holm := { s.holm with dropped := s.holm.dropped + 1 } }
    else
    match if pk.sess = 0 then (if zeroAllowed s pk.lane pk.op then some Session.zero else none) else s.session? pk.sess with
    | none => s.send pk.peer pk.sess pk.seq pk.op .noSession []
    | some x =>
      match opened pk x with
      | none =>
        (let t : State := { s with fresh := s.fresh + 1 }
         if Config.freeBit s.fresh then t.sendUnder Session.zero.mac pk.peer pk.sess pk.seq pk.op .badMac [] else t)
      | some clear =>
        if pk.sess ≠ 0 ∧ pk.seq = x.seq ∧ pk.tag = x.lastTag ∧ s.awaited pk.sess then s
        else match if pk.sess ≠ 0 ∧ pk.seq = x.seq ∧ pk.tag = x.lastTag then x.cached else none with
        | some (st, data) =>
          let f (y : Session) : Session := { y with ctrOut := y.ctrOut + 1 }
          let r : Reply :=
            { peer := pk.peer, sess := pk.sess, seq := pk.seq, ctr := (x.ctrOut + 1) ||| 0x800000000000, op := pk.op, status := st, payload := data
              txn := s.replyTxn pk.op, mac := x.mac }
          let t := s.modSession pk.sess f
          { t with holm := { t.holm with replies := t.holm.replies ++ [r] } }
        | none => s.takePacket o pk x clear

/-- Roles that do not depend on the request. -/
def needs (r : BitVec 6) : State → List Byte → BitVec 6 := fun _ _ => r
/-- Nothing follows the reply. -/
def stay : State → Word → List Byte → State := fun t _ _ => t

/-! ### Expiries -/

/-- UART_FRAME_TIMEOUT: the frame the service UART is receiving is discarded (R394). -/
def execUartFrameTimeout (s : State) : Out :=
  .next (({ s with holm := { s.holm with uart := none } } : State).modShore (fun x => { x with engine := vmod x.engine s.uartEngine (fun g => { g with rx := [] }) }))

/-- HELLO_EXPIRY: the key pair of a HELLO is discarded after 10 s (R400). -/
def execHelloExpiry (s : State) : Out := .next { s with holm := { s.holm with hello := none } }

/-- SESSION_IDLE_EXPIRY: 300 s without an accepted request (R402). -/
def execSessionIdleExpiry (id : Word) (s : State) : Out :=
  match s.session? id with
  | some _ => .next (s.closeSession id)
  | none => .next s

/-! ### Opening and closing (R400 to R402) -/

/-- HELLO: the DRBG gives a nonce and 64 bytes for K_sess; the reply is the nonce, the encapsulation key generated from K_sess and
the identity key's signature, context "SVZ-HLO", over the digest of both nonces and the key (R400). (DEDUCED, log 83) -/
def runHello (s : State) (_ : VPacket) (_ : Session) (data : List Byte) : Ans :=
  if data.length ≠ 32 then s.no .badLength
  else
    let (nonce, t) := s.freeBytes 32
    let (drbg, t) := t.freeBytes 64
    let k := sessKey t.holm.puf t.holm.lcCount drbg
    let ek := (kemPair k).ek
    let sig := identitySign t.holm.puf [0x53, 0x56, 0x5A, 0x2D, 0x48, 0x4C, 0x4F] (sha3 (data ++ nonce ++ ek)) t.fresh
    let bs := nonce ++ ek ++ sig
    State.ok { t with fresh := t.fresh + 1, holm := { t.holm with hello := some { req := data, reply := bs, key := k } } } bs

def opHello : Opcode := { code := 0x0001, need := needs 0, modes := Mode.served, run := runHello, after := stay }
/-- HELLO. -/
def execHello (pk : VPacket) (s : State) : Out := .next (s.vevis opHello pk)

/-- An operator certificate is accepted (R401): its fields hold, and its signature verifies under its slot's key, context "SVZ-OPR". -/
def State.certOk (s : State) (c : List Byte) : Bool :=
  let slot := natAt c 3 1
  let id := (c.drop 0x14).take 64
  decide (natAt c 0 2 = 0x4F50) && decide (natAt c 2 1 = 1) && decide (slot < 4) && s.holm.keyLive (BitVec.ofNat 2 slot) &&
  decide (natAt c 4 4 < 64) && decide (natAt c 8 1 < 64) && decide ((s.holm.counters[ix 64 (natAt c 8 1)]).toNat ≤ natAt c 9 1) &&
  decide (natAt c 10 2 = 0) && (decide (id = List.replicate 64 0) || decide (id = s.holm.deviceId)) &&
  s.holm.ownerSigned slot [0x53, 0x56, 0x5A, 0x2D, 0x4F, 0x50, 0x52] (c.take 0xA74) (c.drop 0xA74)

/-- A session ID not in use. -/
def State.newSessionId (s : State) : Word :=
  let w := Config.freeWord s.fresh
  (((List.range 5).map (fun k => w + BitVec.ofNat 32 k)).find? (fun i => decide (i ≠ 0) && (s.session? i).isNone)).getD 1

/-- The transcript digest: HELLO request and reply, SESSION_OPEN up to the signature (R400). -/
def Hello.transcript (h : Hello) (data : List Byte) : List Byte := sha3 (h.req ++ h.reply ++ data.take 8903)

/-- The operator's signature over the transcript digest verifies under the certificate's key, context "SVZ-OPN" (R400). -/
def Hello.signed (h : Hello) (data : List Byte) : Bool :=
  dsaVerify ((data.drop (1600 + 0x54)).take 2592) [0x53, 0x56, 0x5A, 0x2D, 0x4F, 0x50, 0x4E] (h.transcript data) (data.drop 8903)

/-- The MAC and the encryption key of a session (R400 step 4): the shared secret decapsulated with the key pair of the HELLO keys
KMAC256 over the transcript digest, customisation string "SVZ-SES". -/
def Hello.keys (h : Hello) (data : List Byte) : List Byte × List Byte :=
  let secret := kemDecaps (kemPair h.key) ((data.drop 32).take 1568)
  let ks := kmac256 secret (h.transcript data) 64 [0x53, 0x56, 0x5A, 0x2D, 0x53, 0x45, 0x53]
  (ks.take 32, ks.drop 32)

/-- SESSION_OPEN: a refusal with DENIED discards the HELLO key pair. -/
def runSessionOpen (s : State) (_ : VPacket) (_ : Session) (data : List Byte) : Ans :=
  if data.length ≠ 13530 then s.no .badLength
  else
    let cert := (data.drop 1600).take 7303
    let openOk := match s.holm.hello with | some h => decide (h.reply.take 32 = data.take 32) && h.signed data | none => false
    if !openOk || !s.certOk cert then State.no { s with holm := { s.holm with hello := none } } .denied
    else if 4 ≤ s.holm.sessions.length then s.no .busy
    else
      let id := s.newSessionId
      let ks := match s.holm.hello with | some h => h.keys data | none => ([], [])
      let x : Session := { Session.zero with id := id, roles := BitVec.ofNat 6 (natAt cert 4 4), mac := ks.1, enc := ks.2 }
      let t : State := { s with fresh := s.fresh + 1, holm := { s.holm with hello := none, sessions := s.holm.sessions ++ [x] } }
      { st := .ok, data := bytesLE 4 (natAt cert 4 4) ++ bytesLE 8 s.holm.epoch.toNat, sess := some id, held := false
        next := t.wrapSecret id (ks.1 ++ ks.2) }

def opSessionOpen : Opcode := { code := 0x0002, need := needs 0, modes := Mode.served, run := runSessionOpen, after := stay }
/-- SESSION_OPEN. -/
def execSessionOpen (pk : VPacket) (s : State) : Out := .next (s.vevis opSessionOpen pk)

/-- A request without payload that answers `f`. -/
def runEmpty (f : State → Session → Ans) (s : State) (_ : VPacket) (x : Session) (data : List Byte) : Ans :=
  if data.length ≠ 0 then s.no .badLength else f s x

def opSessionClose : Opcode :=
  { code := 0x0003, need := needs 0, modes := Mode.served, run := runEmpty (fun s _ => s.ok []), after := fun t id _ => t.closeSession id }
/-- SESSION_CLOSE. -/
def execSessionClose (pk : VPacket) (s : State) : Out := .next (s.vevis opSessionClose pk)

/-- PING. -/
def runPing (s : State) (_ : VPacket) (_ : Session) (data : List Byte) : Ans :=
  if 64 < data.length then s.no .badLength else s.ok data

def opPing : Opcode := { code := 0x0004, need := needs 0, modes := Mode.served, run := runPing, after := stay }
/-- PING. -/
def execPing (pk : VPacket) (s : State) : Out := .next (s.vevis opPing pk)

/-! ### Identity and attestation (spec/16 R390) -/

def opGetIdentity : Opcode :=
  { code := 0x0101, need := needs 0, modes := Mode.served, after := stay
    run := runEmpty (fun s _ => s.ok (bytesLE 4 s.ident.toNat ++ bytesLE 2 Config.identityCert.length ++ Config.identityCert)) }
/-- GET_IDENTITY. -/
def execGetIdentity (pk : VPacket) (s : State) : Out := .next (s.vevis opGetIdentity pk)

/-- The images loaded at the last boot or activated since, in the order they boot. -/
def Holm.measured (h : Holm) : List Image :=
  [1, 6, 2, 3, 4, 5, 7].flatMap (fun t => h.loaded.filter (fun i => decide (i.typ.toNat = t)))

/-- One measurement entry. -/
def measureEntry (i : Image) : List Byte :=
  bytesLE 2 i.typ.toNat ++ [0, 0] ++ bytesLE 4 i.target.toNat ++ bytesLE 8 i.version.toNat ++ measureOf i

/-- The attestation report (Table 16.14). -/
def State.report (s : State) (nonce : List Byte) : List Byte :=
  let h := s.holm
  let k := h.measured.length
  let flags := (if h.bootstat.getLsbD 30 then 1 else 0) + (if h.bootstat.getLsbD 29 then 2 else 0)
  bytesLE 2 0x4154 ++ bytesLE 1 1 ++ bytesLE 1 h.lcState ++ bytesLE 1 s.mode.code ++ bytesLE 1 k ++ bytesLE 2 flags ++
  bytesLE 4 (256 + 80 * k) ++ bytesLE 4 h.bootCount.toNat ++ bytesLE 8 h.epoch.toNat ++ nonce ++ h.epochHash ++ h.deviceId ++
  h.counters.toList ++ List.replicate 8 0 ++ h.measured.flatMap measureEntry

/-- ATTEST: the report and the identity key's signature over it, context "SVZ-ATT". -/
def runAttest (s : State) (_ : VPacket) (_ : Session) (data : List Byte) : Ans :=
  if data.length ≠ 32 then s.no .badLength
  else
    let sig := identitySign s.holm.puf [0x53, 0x56, 0x5A, 0x2D, 0x41, 0x54, 0x54] (s.report data) s.fresh
    State.ok { s with fresh := s.fresh + 1 } (s.report data ++ sig)

def opAttest : Opcode := { code := 0x0102, need := needs 0, modes := Mode.served, run := runAttest, after := stay }
/-- ATTEST. -/
def execAttest (pk : VPacket) (s : State) : Out := .next (s.vevis opAttest pk)

def opGetMeasurements : Opcode :=
  { code := 0x0103, need := needs roleRead, modes := Mode.served, after := stay
    run := runEmpty (fun s _ => s.ok (bytesLE 1 s.holm.measured.length ++ [0, 0, 0] ++ s.holm.measured.flatMap measureEntry)) }
/-- GET_MEASUREMENTS. -/
def execGetMeasurements (pk : VPacket) (s : State) : Out := .next (s.vevis opGetMeasurements pk)

def opLcGet : Opcode :=
  { code := 0x0201, need := needs 0, modes := Mode.served, after := stay
    run := runEmpty (fun s _ => s.ok (bytesLE 1 s.holm.lcState ++ [s.holm.slotRev ++ s.holm.slotProg] ++ [0, 0] ++ bytesLE 4 s.holm.bootCount.toNat)) }
/-- LC_GET. -/
def execLcGet (pk : VPacket) (s : State) : Out := .next (s.vevis opLcGet pk)

end Sys2Proof.Machine
end

