-- ==== Sys2Proof/Machine/TxnCmds.lean ====
section
/-! DEFINITION. Machine/TxnCmds.lean: the transaction commands of Vevis (spec/17 R407 to R412). -/

namespace Sys2Proof.Machine

/-- TXN_BEGIN. -/
def txnBegin (s : State) (x : Session) : Ans :=
  if s.holm.txn.isOpen || decide (s.holm.txn.st = .accepted) then s.no .txnOpen
  else
    let w := Config.freeWord s.fresh
    let id := if w = 0 then 1 else w
    let t : Txn := { Txn.none with st := .opened, id := id, owner := x.id }
    State.ok { s with fresh := s.fresh + 1, holm := { s.holm with txn := t } } (bytesLE 4 id.toNat ++ bytesLE 8 s.holm.epoch.toNat)

def opTxnBegin : Opcode :=
  { code := 0x0401, need := needs roleConfig, modes := Mode.txnServed, run := runEmpty txnBegin, after := stay }
/-- TXN_BEGIN. -/
def execTxnBegin (pk : VPacket) (s : State) : Out := .next (s.vevis opTxnBegin pk)

/-- Why a command on the open transaction is refused: accepted already, no transaction or another ID, another session's (R407).
(DEDUCED, log 86) -/
def State.txnFault (s : State) (pk : VPacket) (x : Session) : Option VStatus :=
  let t := s.holm.txn
  if t.st = .accepted then some .txnOpen
  else if !t.isOpen || decide (t.id ≠ pk.txn) then some .noTxn
  else if t.owner ≠ x.id then some .txnConflict
  else none

/-- The write a TXN_WRITE payload spells. -/
def writeOf (data : List Byte) : TxnWrite :=
  { cls := BitVec.ofNat 16 (natAt data 2 2), idx := BitVec.ofNat 16 (natAt data 0 2), off := natAt data 4 4, data := data.drop 12 }

/-- TXN_WRITE needs CONFIG, and VITAL for a vital object. -/
def needTxnWrite (s : State) (data : List Byte) : BitVec 6 :=
  roleConfig ||| (if s.isVital (s.holm.txn.writes ++ [writeOf data]) (writeOf data) then roleVital else 0)

/-- TXN_WRITE. -/
def runTxnWrite (s : State) (pk : VPacket) (x : Session) (data : List Byte) : Ans :=
  let t := s.holm.txn
  let w := writeOf data
  let used := t.staged + TxnWrite.cost w
  if data.length < 12 ∨ data.length ≠ 12 + natAt data 8 4 then s.no .badLength
  else if s.writeBad w then s.no .badParam
  else match s.txnFault pk x with
    | some .txnConflict => if 0x40000 < used then s.no .txnFull else s.no .txnConflict
    | some st => s.no st
    | none =>
      if 0x40000 < used then s.no .txnFull
      else
        let u : Txn := { t with st := .opened, writes := t.writes ++ [w], staged := used }
        State.ok { s with holm := { s.holm with txn := u } } (bytesLE 4 used)

def opTxnWrite : Opcode := { code := 0x0402, need := needTxnWrite, modes := Mode.txnServed, run := runTxnWrite, after := stay }
/-- TXN_WRITE. -/
def execTxnWrite (pk : VPacket) (s : State) : Out := .next (s.vevis opTxnWrite pk)

/-- TXN_COMMIT needs CONFIG, and VITAL if any staged object is vital. -/
def needTxnCommit (s : State) (_ : List Byte) : BitVec 6 :=
  roleConfig ||| (if s.anyVital s.holm.txn.writes then roleVital else 0)

/-- The target frame breaks a rule of R410. -/
def State.targetBad (s : State) (target : Nat) : Bool :=
  decide (target ≠ 0) &&
  (!s.vital.running || decide (target < s.vital.f.toNat + 2) || decide (s.vital.f.toNat + 6000 < target))

/-- The commit point of an accepted transaction (R411): 2 target frame, 1 vital frame boundary, 0 acceptance. Outside GUARD no boundary
comes, and a commit with code 1 is applied as one is after GUARD was left (Table 17.7). (DESIGN CHOICE, log 67) -/
def State.pointOf (s : State) (ws : List TxnWrite) (target : Nat) : Byte :=
  let after := if stages ws 1 0 then (vitalOf (s.objStaged ws 1 0)).pairs else 0
  if target ≠ 0 then 2
  else if s.anyVital ws && decide (s.vital.par.pairs ||| after ≠ 0) then 1
  else 0

/-- The commit is accepted: the journal entry is made, a routing epoch is loaded (R410, R411, R413). -/
def State.acceptCommit (s : State) (target : Nat) : Ans :=
  let ws := s.holm.txn.writes
  let epoch := s.holm.epoch + 1
  let hash := epochHashOf s.holm.epochHash epoch ws
  let point := s.pointOf ws target
  let s2 := (s.applyRoutes ws).journal .applying epoch (s.persistAfter ws) s.holm.keep.persist
  let t : Txn := { s2.holm.txn with st := .accepted, target := BitVec.ofNat 64 target, point := point, waited := false }
  State.acc { s2 with holm := { s2.holm with txn := t } } (bytesLE 8 epoch.toNat ++ hash ++ [point])

/-- The last step of validation erases and writes the bitstream slot, which takes time: the reply waits for it (R410). -/
def State.writeSlot (s : State) (pk : VPacket) (target : Nat) : Ans :=
  let bs := s.objStaged s.holm.txn.writes 8 0
  let k : Fin 2 := if natAt bs 64 1 = 1 then 1 else 0
  let j : SlotJob :=
    { peer := pk.peer, sess := pk.sess, seq := pk.seq, txn := s.holm.txn.id, target := target, slot := k, image := s.holm.imageBy (bs.take 64) 5 }
  { st := .ok, data := [], sess := none, held := true
    next := { s with shore := { s.shore with slots := vset s.shore.slots k none }, holm := { s.holm with slotJob := some j } } }

/-- The slot is written: the commit is accepted, unless its transaction has ended meanwhile; a closed session gets no reply. -/
def State.slotDone (s : State) (j : SlotJob) : State :=
  let t : State := { s with shore := { s.shore with slots := vset s.shore.slots j.slot j.image }, holm := { s.holm with slotJob := none } }
  if (t.session? j.sess).isNone then t
  else
    let a := if t.holm.txn.isOpen ∧ t.holm.txn.id = j.txn then t.acceptCommit j.target else t.no .noTxn
    a.next.finish j.peer j.sess j.sess j.seq 0x0403 a.st a.data

/-- TXN_COMMIT: a transaction that fails validation stays open, the reply naming what was found first. -/
def runTxnCommit (s : State) (pk : VPacket) (x : Session) (data : List Byte) : Ans :=
  let target := natAt data 0 8
  if data.length ≠ 8 then s.no .badLength
  else if s.targetBad target then s.no .badParam
  else if s.holm.slotJob.isSome then s.no .busy
  else match s.txnFault pk x with
    | some st => s.no st
    | none =>
      match s.commitFault s.holm.txn.writes with
      | some (st, obj, off) =>
        { st := st, data := bytesLE 4 obj ++ bytesLE 4 off, sess := none, held := false
          next := { s with holm := { s.holm with txn := { s.holm.txn with st := .refused } } } }
      | none => if stages s.holm.txn.writes 8 0 then s.writeSlot pk target else s.acceptCommit target

def opTxnCommit : Opcode := { code := 0x0403, need := needTxnCommit, modes := Mode.txnServed, run := runTxnCommit, after := stay }
/-- TXN_COMMIT. -/
def execTxnCommit (pk : VPacket) (s : State) : Out := .next (s.vevis opTxnCommit pk)

/-- TXN_ABORT. -/
def runTxnAbort (s : State) (pk : VPacket) (x : Session) (data : List Byte) : Ans :=
  if data.length ≠ 0 then s.no .badLength
  else match s.txnFault pk x with
    | some st => s.no st
    | none => (s.txnAbort).ok []

def opTxnAbort : Opcode := { code := 0x0404, need := needs roleConfig, modes := Mode.txnServed, run := runTxnAbort, after := stay }
/-- TXN_ABORT. -/
def execTxnAbort (pk : VPacket) (s : State) : Out := .next (s.vevis opTxnAbort pk)

/-- Codes of the transaction states. -/
def TxnState.code : TxnState → Nat
  | .none => 0 | .opened => 1 | .accepted => 2 | .applied => 3 | .refused => 4

/-- TXN_STATUS; the seconds a transaction has been open are a free value (time is not modelled). -/
def txnStatus (s : State) (_ : Session) : Ans :=
  let t := s.holm.txn
  let objs := (t.writes.map (fun w => (w.cls, w.idx))).dedup.length
  let (secs, u) := if t.isOpen then s.freeBytes 2 else ([0, 0], s)
  u.ok (bytesLE 1 t.st.code ++ [0, 0, 0] ++ bytesLE 4 (if t.st = .none then 0 else t.id.toNat) ++ bytesLE 4 t.staged ++ bytesLE 2 objs ++ secs ++
    bytesLE 8 s.holm.epoch.toNat)

def opTxnStatus : Opcode := { code := 0x0405, need := needs roleRead, modes := Mode.served, run := runEmpty txnStatus, after := stay }
/-- TXN_STATUS. -/
def execTxnStatus (pk : VPacket) (s : State) : Out := .next (s.vevis opTxnStatus pk)

end Sys2Proof.Machine
end

