-- ==== Sys2Proof/Machine/Commands.lean ====
section
/-! DEFINITION. Machine/Commands.lean: the Vevis commands on modes, the vital window and streams (spec/17 R403, R412, spec/18 R422 to
R424, spec/06 R183, spec/08 R204). -/

namespace Sys2Proof.Machine

/-! ### Modes -/

/-- VSTAT.WIN. -/
def State.winCode (s : State) : Nat := (fld s.vstat 0 2 : BitVec 2).toNat

def opModeGet : Opcode :=
  { code := 0x0501, need := needs roleRead, modes := Mode.served, after := stay
    run := runEmpty (fun s _ => s.ok (bytesLE 1 s.mode.code ++ bytesLE 1 s.winCode ++ [0, 0] ++ bytesLE 8 s.holm.epoch.toNat)) }
/-- MODE_GET. -/
def execModeGet (pk : VPacket) (s : State) : Out := .next (s.vevis opModeGet pk)

/-- MODE_SET needs CONFIG, with VITAL to enter GUARD and SERVICE to enter SERVICE. -/
def needModeSet (_ : State) (data : List Byte) : BitVec 6 :=
  roleConfig ||| (match Mode.ofCode (natAt data 0 1) with | some .guard => roleVital | some .service => roleService | _ => 0)

/-- MODE_SET may name `m` (R422). -/
def Mode.named (m : Mode) : Bool := m.working || decide (m = .dormant) || decide (m = .safeStop)

/-- MODE_SET may not take the device from its mode to `m` (R422). Naming the present mode changes nothing. -/
def State.modeBarred (s : State) (m : Mode) : Bool :=
  !m.named || (decide (m ≠ s.mode) && (!s.mode.mayGo m || s.entryRefused m))

/-- MODE_SET. SAFE STOP is served whatever is in progress. (DEDUCED, log 88) -/
def runModeSet (s : State) (_ : VPacket) (_ : Session) (data : List Byte) : Ans :=
  let m := Mode.ofCode (natAt data 0 1)
  let alarm : Word := BitVec.ofNat 32 (natAt data 4 4)
  let size := if m = some .dormant then 8 else 4
  if !data.isEmpty && m.any s.modeBarred then s.no .modeConflict
  else if data.length ≠ size then s.no .badLength
  else match m with
    | none => s.no .badParam
    | some m =>
      if !zeroAt data 1 3 || (decide (m = .dormant) && decide (alarm = 0)) then s.no .badParam
      else if m = .safeStop then (s.safeStop [4]).ok []
      else if s.pwr.target.isSome ∨ s.holm.txn.st = .accepted then s.no .busy
      else if m = s.mode then s.ok []
      else (s.startTransition m alarm).ok []

def opModeSet : Opcode := { code := 0x0502, need := needModeSet, modes := Mode.served, run := runModeSet, after := stay }
/-- MODE_SET. -/
def execModeSet (pk : VPacket) (s : State) : Out := .next (s.vevis opModeSet pk)

/-- VITAL_RESUME (spec/06 R183). -/
def runVitalResume (s : State) (_ : VPacket) (_ : Session) (data : List Byte) : Ans :=
  if data.length ≠ 64 then s.no .badLength
  else if data ≠ s.vital.reportedDigest then s.no .badParam
  else (s.modVital (fun v => { v with awaitResume := false })).ok []

def opVitalResume : Opcode :=
  { code := 0x0503, need := needs roleVital, modes := fun m => decide (m = .guard), run := runVitalResume, after := stay }
/-- VITAL_RESUME. -/
def execVitalResume (pk : VPacket) (s : State) : Out := .next (s.vevis opVitalResume pk)

/-- SAFE_STOP: the reason is recorded with the event; in SAFE STOP it only breaks off a transition to another mode. A life-cycle state
without SAFE STOP refuses it (spec/16 Table 16.15). -/
def runSafeStop (s : State) (_ : VPacket) (_ : Session) (data : List Byte) : Ans :=
  if decide (s.mode ≠ .safeStop) && !s.mayStop then s.no .modeConflict
  else if data.length ≠ 2 then s.no .badLength else (s.safeStop data).ok []

def opSafeStop : Opcode := { code := 0x0504, need := needs 0, modes := Mode.served, run := runSafeStop, after := stay }
/-- SAFE_STOP. -/
def execSafeStop (pk : VPacket) (s : State) : Out := .next (s.vevis opSafeStop pk)

/-! ### Streams -/

/-- An index (2) and zero (2): the entry named, or the refusal. -/
def indexOf (data : List Byte) : VStatus × BitVec 12 :=
  if data.length ≠ 4 then (.badLength, 0)
  else if 4095 < natAt data 0 2 ∨ !zeroAt data 2 2 then (.badParam, 0)
  else (.ok, BitVec.ofNat 12 (natAt data 0 2))

/-- The Holm failed to act: the event is recorded. -/
def State.failed (s : State) (data : List Byte) : Ans := { st := .internal, data := [], next := s.event .internal data, sess := none, held := false }

/-- STREAM_GET: the entry as it stands in harbour. -/
def runStreamGet (s : State) (_ : VPacket) (_ : Session) (data : List Byte) : Ans :=
  match indexOf data with
  | (.ok, id) =>
    match s.entryOff id with
    | none => s.failed data
    | some off =>
      match s.access { src := 4, tag := 0, user := false, op := .read 64, addr := BitVec.ofNat 40 (0x20000000 + off) } with
      | (some (.ok, bs), t) => t.ok bs
      | (_, t) => t.failed data
  | (st, _) => s.no st

def opStreamGet : Opcode := { code := 0x0601, need := needs roleRead, modes := Mode.served, run := runStreamGet, after := stay }
/-- STREAM_GET. -/
def execStreamGet (pk : VPacket) (s : State) : Out := .next (s.vevis opStreamGet pk)

/-- Keep the committed object's EN bit with the entry's. -/
def State.keepEn (s : State) (id : BitVec 12) (en : Bool) : State :=
  let z : Vector Word 10 := Vector.replicate 10 0
  let cfg : Vector Word 10 := SMap.get z s.holm.streamObj id.toNat
  let w : Word := (cfg[0] &&& 0xFFFFEFFF) ||| (if en then 0x1000 else 0)
  if cfg = z then s
  else { s with holm := { s.holm with streamObj := SMap.set z s.holm.streamObj id.toNat (vset cfg 0 w) } }

/-- STREAM_ENABLE or STREAM_DISABLE of an entry staged in a transaction, or VITAL while pairs are in use (Table 17.7); `bad` is a breach of
a rule of the entry's own, which Table 17.4 puts first. -/
def runStream (bad : State → BitVec 12 → Bool) (act : State → BitVec 12 → Ans) (s : State) (_ : VPacket) (_ : Session) (data : List Byte) : Ans :=
  let i : BitVec 12 := BitVec.ofNat 12 (natAt data 0 2)
  let t := s.holm.txn
  if s.vital.par.pairs ≠ 0 ∧ (natAt (s.entryBytes i) 0 4).testBit 13 then s.no .modeConflict
  else match indexOf data with
    | (.ok, id) =>
      if bad s id then s.no .badParam
      else if stages t.writes 4 id.toNat ∧ t.st = .accepted then s.no .busy
      else if stages t.writes 4 id.toNat ∧ t.isOpen then s.no .txnConflict
      else act s id
    | (st, _) => s.no st

/-- The entry, not yet enabled, breaks a rule of R204 beside those enabled. -/
def State.enableBad (s : State) (id : BitVec 12) : Bool :=
  !(s.stream? id).any (fun e => e.enabled) &&
  match s.entryCfg id with
  | (none, _) => false
  | (some cfg, t) =>
    !t.entryOk (Stream.fresh id (vmod cfg 0 (fun w => w ||| 0x1000))) (t.sprue.cache.filter (fun e => e.enabled))

/-- STREAM_ENABLE: the cached copy, else the entry read from harbour; one that breaks a rule of R204 is refused. -/
def State.enableCmd (s : State) (id : BitVec 12) : Ans :=
  if (s.stream? id).any (fun e => e.enabled) then s.ok []
  else match s.entryCfg id with
    | (none, t) => t.failed (bytesLE 2 id.toNat)
    | (some cfg, t) => ((t.enableStream id cfg).keepEn id true).ok []

def opStreamEnable : Opcode :=
  { code := 0x0602, need := needs roleConfig, modes := Mode.txnServed, run := runStream State.enableBad State.enableCmd, after := stay }
/-- STREAM_ENABLE. -/
def execStreamEnable (pk : VPacket) (s : State) : Out := .next (s.vevis opStreamEnable pk)

def opStreamDisable : Opcode :=
  { code := 0x0603, need := needs roleConfig, modes := fun m => m.txnServed || decide (m = .safeStop), after := stay
    run := runStream (fun _ _ => false) (fun s id => ((s.disableStream id).keepEn id false).ok []) }
/-- STREAM_DISABLE: the write-back is done before the reply (spec/08 Table 8.10). -/
def execStreamDisable (pk : VPacket) (s : State) : Out := .next (s.vevis opStreamDisable pk)

/-! ### Partner and lattice -/

/-- Link-up bits: bit 0 lane 14, bit 1 lane 15. -/
def State.linkBits (s : State) : Nat := (if s.straits[0].up then 1 else 0) + (if s.straits[1].up then 2 else 0)

/-- PARTNER_STATUS: the frame number of the partner's last HB, the later one of the two links; a free value before the first. -/
def partnerStatus (s : State) (_ : Session) : Ans :=
  let fs := s.straits.toList.filterMap (fun x => x.hb.map (fun b => b.f.toNat))
  let (f, t) := match fs with
    | [] => s.freeBytes 8
    | f :: r => (bytesLE 8 (r.foldl max f), s)
  t.ok (bytesLE 4 s.vstat.toNat ++ bytesLE 4 s.dynstat.toNat ++ bytesLE 1 s.linkBits ++ [0, 0, 0] ++ f)

def opPartnerStatus : Opcode :=
  { code := 0x0901, need := needs roleRead, modes := Mode.served, run := runEmpty partnerStatus, after := stay }
/-- PARTNER_STATUS. -/
def execPartnerStatus (pk : VPacket) (s : State) : Out := .next (s.vevis opPartnerStatus pk)

/-- The latbar sequence number (spec/08 Table 8.7). -/
def State.latSeqNow (s : State) : BitVec 16 := ((s.present.head?).map (fun a => (s.arch[a]).seq.latSeq)).getD 0

def opLatticeStatus : Opcode :=
  { code := 0x0902, need := needs roleRead, modes := Mode.served, after := stay
    run := runEmpty (fun s _ => s.ok (bytesLE 4 s.latpos.toNat ++ bytesLE 1 s.linkBits ++ [0] ++ bytesLE 2 s.latSeqNow.toNat)) }
/-- LATTICE_STATUS. -/
def execLatticeStatus (pk : VPacket) (s : State) : Out := .next (s.vevis opLatticeStatus pk)

end Sys2Proof.Machine
end

