-- ==== Sys2Proof/Machine/Life.lean ====
section
/-! DEFINITION. Machine/Life.lean: the signed life-cycle commands, the staging and activation of images (spec/17 R405, R406, Table 17.5,
spec/16 R385, R386, R391). -/

namespace Sys2Proof.Machine

/-! ### Life-cycle commands -/

/-- A life-cycle command (Table 17.5). -/
structure LcCmd where
  code : Nat
  arg : Nat
  count : Nat
  signer : Nat
  device : List Byte
  key : List Byte
deriving DecidableEq, Repr

/-- Its fields from the payload. -/
def lcCmdOf (bs : List Byte) : LcCmd :=
  { code := natAt bs 0 1, arg := natAt bs 1 1, count := natAt bs 2 1, signer := natAt bs 3 1
    device := (bs.drop 4).take 64, key := (bs.drop 0x44).take 2592 }

/-- The command installs the key it carries: programming a slot, or the BLANK advance. -/
def LcCmd.carriesKey (c : LcCmd) (lc : Nat) : Bool := decide (c.code = 2) || (decide (c.code = 1) && decide (lc = 0))

/-- A field breaks a rule (R386, R406). (DEDUCED, log 85) -/
def Holm.lcBad (h : Holm) (c : LcCmd) : Bool :=
  let k : BitVec 2 := BitVec.ofNat 2 c.arg
  let others := (List.range 4).any (fun j => decide (j ≠ c.arg) && h.keyLive (BitVec.ofNat 2 j))
  decide (c.device ≠ h.deviceId) || decide (c.count ≠ h.lcCount.toNat) ||
  (!c.carriesKey h.lcState && c.key.any (fun b => decide (b ≠ 0))) ||
  (match c.code with
   | 1 => decide (c.arg ≠ h.lcState + 1) || decide (4 ≤ h.lcState)
   | 2 => decide (3 < c.arg) || h.slotProg.getLsbD k.toNat
   | 3 => decide (3 < c.arg) || !h.keyLive k || !others
   | _ => true)

/-- The signer may make the command (Table 16.15, R386, R406). -/
def Holm.signerOk (h : Holm) (c : LcCmd) : Bool :=
  let owner := decide (c.signer < 4) && h.keyLive (BitVec.ofNat 2 c.signer)
  match c.code with
  | 1 => if h.lcState = 0 then decide (c.signer = 0xFE) else owner || (decide (h.lcState = 3) && decide (c.signer = 0xFF))
  | 3 => owner && decide (c.signer ≠ c.arg)
  | _ => owner

/-- The command's signature verifies under its signer, context "SVZ-LC": an owner slot, the manufacturing key, or the key carried (R406,
Table 17.5). -/
def Holm.lcSigned (h : Holm) (c : LcCmd) (data : List Byte) : Bool :=
  let ctx : List Byte := [0x53, 0x56, 0x5A, 0x2D, 0x4C, 0x43]
  let m := data.take 0xA64
  let sig := data.drop 0xA64
  if c.signer = 0xFE then dsaVerify c.key ctx m sig
  else if c.signer = 0xFF then dsaVerify h.vendorKey ctx m sig
  else h.ownerSigned c.signer ctx m sig

/-- Slot `k` is programmed: its hash and bit are burnt, and the key takes its place in the owner key file, which holds one key for each
programmed slot, in slot order (spec/16 R384, R386). (DEDUCED, log 85) -/
def Holm.program (h : Holm) (k : Fin 4) (key : List Byte) : Holm :=
  let j := ((List.range k.val).filter (fun i => h.slotProg.getLsbD i)).length
  { h with
    keyHash := vset h.keyHash k (sha3 key), slotProg := h.slotProg ||| BitVec.ofNat 4 (2 ^ k.val)
    keyFile := h.keyFile.take j ++ [key] ++ h.keyFile.drop j, keys := vset h.keys k key }

/-- The effect on fuses before the reply: the key of the BLANK advance goes to slot 0, a slot is programmed or revoked. -/
def State.lcApply (s : State) (c : LcCmd) : State :=
  let s := s.txnAbort
  match c.code with
  | 1 => if s.holm.lcState = 0 then { s with holm := s.holm.program 0 c.key } else s
  | 2 => { s with holm := s.holm.program (ix 4 c.arg) c.key }
  | _ => { s with holm := { s.holm with slotRev := s.holm.slotRev ||| BitVec.ofNat 4 (2 ^ c.arg) } }

/-- A life-cycle command. Programming is only for PROVISION; a commit accepted makes it BUSY (Table 17.7). -/
def runLc (s : State) (_ : VPacket) (_ : Session) (data : List Byte) : Ans :=
  let c := lcCmdOf data
  if c.code = 2 ∧ s.mode ≠ .provision then s.no .modeConflict
  else if data.length ≠ 7287 then s.no .badLength
  else if s.holm.lcBad c then s.no .badParam
  else if s.holm.txn.st = .accepted then s.no .busy
  else if !s.holm.signerOk c || !s.holm.lcSigned c data then s.no .sigInvalid
  else (s.lcApply c).ok []

/-- After its reply an advance proceeds as R391 states. -/
def afterLc (t : State) (_ : Word) (data : List Byte) : State := if natAt data 0 1 = 1 then t.lcBegin else t

def opLcAdvance : Opcode :=
  { code := 0x0202, need := needs roleLifecycle, modes := fun m => decide (m = .provision) || decide (m = .service), run := runLc, after := afterLc }
/-- LC_ADVANCE. -/
def execLcAdvance (pk : VPacket) (s : State) : Out := .next (s.vevis opLcAdvance pk)
/-- PROGRAM_KEY_SLOT: the opcode LC_ADVANCE with code 0x02. -/
def execProgramKeySlot (pk : VPacket) (s : State) : Out := .next (s.vevis opLcAdvance pk)
/-- REVOKE_KEY_SLOT: the opcode LC_ADVANCE with code 0x03. -/
def execRevokeKeySlot (pk : VPacket) (s : State) : Out := .next (s.vevis opLcAdvance pk)

/-! ### Images (R405) -/

/-- The status that refuses an image at staging or activation. (DEDUCED, log 84) -/
def ImgFault.status : ImgFault → VStatus
  | .rollback => .rollback
  | _ => .sigInvalid

/-- The partial stage of a TYPE and TARGET. -/
def Holm.stageOf (h : Holm) (typ : BitVec 16) (target : Word) : Option (List Byte) :=
  (h.stage.find? (fun x => decide (x.1 = typ) && decide (x.2.1 = target))).map (fun x => x.2.2)

/-- The partial stages without that of a TYPE and TARGET. -/
def Holm.unstage (h : Holm) (typ : BitVec 16) (target : Word) : List (BitVec 16 × Word × List Byte) :=
  h.stage.filter (fun x => !(decide (x.1 = typ) && decide (x.2.1 = target)))

/-- The directory entry staged for a TYPE and TARGET: inactive and not the alternate Uzoug. -/
def DirEntry.spare (e : DirEntry) (typ : BitVec 16) (target : Word) : Bool :=
  !e.active && !e.alternate && decide (e.image.typ = typ) && decide (e.image.target = target)

/-- Rewrite the boot flash directory; the one before it stands in second place meanwhile, and stays there (spec/16 R387). -/
def Holm.putDir (h : Holm) (dir : List DirEntry) : Holm := { h with flash := dir, flash2 := h.flash }

/-- IMG_STAGE: the last chunk completes the image that its manifest describes, which is verified (R384). (DEDUCED, log 84) -/
def runImgStage (s : State) (pk : VPacket) (_ : Session) (data : List Byte) : Ans :=
  let typ : BitVec 16 := BitVec.ofNat 16 (natAt data 0 2)
  let flags := natAt data 2 2
  let target : Word := BitVec.ofNat 32 (natAt data 4 4)
  let off := natAt data 8 4
  let first := flags.testBit 0
  let had : Option (List Byte) := if first then some [] else s.holm.stageOf typ target
  let all := had.getD [] ++ data.drop 12
  let i := imageOf all (pk.body.getD .other)
  let dir := s.holm.flash.filter (fun e => !e.spare typ target)
  if data.length < 12 then s.no .badLength
  else if 3 < flags ∨ had.isNone ∨ (had.getD []).length ≠ off then s.no .badParam
  else
    let rest := s.holm.unstage typ target
    if !flags.testBit 1 then State.acc { s with holm := { s.holm with stage := (typ, target, all) :: rest } } []
    else if 4888 ≤ all.length ∧ (i.typ ≠ typ ∨ i.target ≠ target) then s.no .badParam
    else if 64 ≤ dir.length then s.no .busy
    else if all.length < 4888 then s.no .sigInvalid
    else match s.imageFault i with
      | some f => s.no f.status
      | none =>
        let e : DirEntry :=
          { active := false, alternate := false, offset := Config.freeWord s.fresh, length := BitVec.ofNat 32 all.length, image := i }
        State.ok { s with fresh := s.fresh + 1, holm := { (s.holm.putDir (dir ++ [e])) with stage := rest } } (measureOf i)

def opImgStage : Opcode := { code := 0x0301, need := needs roleImage, modes := Mode.served, run := runImgStage, after := stay }
/-- IMG_STAGE. -/
def execImgStage (pk : VPacket) (s : State) : Out := .next (s.vevis opImgStage pk)

/-- Mark `i` active in place of the image of its TYPE and TARGET, burn its counter when RBADV is set, and report it (R385, R405). -/
def State.activate (s : State) (i : Image) : State :=
  let h := s.holm
  let f (e : DirEntry) : DirEntry :=
    if e.alternate || decide (e.image.typ ≠ i.typ) || decide (e.image.target ≠ i.target) then e
    else { e with active := decide (measureOf e.image = measureOf i) && !e.active }
  let k := ix 64 i.ctrIdx.toNat
  let old := h.counters[k]
  { s with holm := { (h.putDir (h.flash.map f)) with
      keyFile := (match i.body with | .keys ks => ks | _ => h.keyFile)
      counters := if imageAdvances i ∧ old.toNat < i.ctrVal.toNat then vset h.counters k i.ctrVal else h.counters
      loaded := h.loaded ++ [i] } }

/-- IMG_ACTIVATE. -/
def runImgActivate (s : State) (_ : VPacket) (_ : Session) (data : List Byte) : Ans :=
  let typ : BitVec 16 := BitVec.ofNat 16 (natAt data 0 2)
  let target : Word := BitVec.ofNat 32 (natAt data 4 4)
  if data.length ≠ 72 then s.no .badLength
  else match s.holm.flash.find? (fun e => e.spare typ target && decide (measureOf e.image = data.drop 8)) with
    | none => s.no .badParam
    | some e =>
      if natAt data 2 2 ≠ 0 then s.no .badParam
      else if s.holm.txn.st = .accepted then s.no .busy
      else match s.imageFault e.image with
        | some f => s.no f.status
        | none => (s.activate e.image).ok []

def opImgActivate : Opcode :=
  { code := 0x0302, need := needs roleImage, modes := fun m => m.served && !decide (m = .safeStop), run := runImgActivate, after := stay }
/-- IMG_ACTIVATE. -/
def execImgActivate (pk : VPacket) (s : State) : Out := .next (s.vevis opImgActivate pk)

/-- One entry of IMG_LIST. -/
def DirEntry.bytes (e : DirEntry) : List Byte :=
  bytesLE 2 e.image.typ.toNat ++ bytesLE 2 ((if e.active then 1 else 0) + (if e.alternate then 2 else 0)) ++ bytesLE 4 e.image.target.toNat ++
  bytesLE 8 e.image.version.toNat ++ measureOf e.image

def opImgList : Opcode :=
  { code := 0x0303, need := needs roleRead, modes := Mode.served, after := stay
    run := runEmpty (fun s _ => s.ok (bytesLE 1 s.holm.flash.length ++ [0, 0, 0] ++ s.holm.flash.flatMap DirEntry.bytes)) }
/-- IMG_LIST. -/
def execImgList (pk : VPacket) (s : State) : Out := .next (s.vevis opImgList pk)

end Sys2Proof.Machine
end

