-- ==== Sys2Proof/Machine/Service.lean ====
section
/-! DEFINITION. Machine/Service.lean: the Vevis commands on tests, the tide, statistics, capture, the event journal, memory and the
keep store (spec/17 R403, R414, spec/19 R446, spec/15 R372, spec/16 R389). -/

namespace Sys2Proof.Machine

/-! ### SELFTEST (R414, Table 17.8) -/

/-- SELFTEST needs CONFIG, with SERVICE for class 3. -/
def needSelftest (_ : State) (data : List Byte) : BitVec 6 := roleConfig ||| (if natAt data 0 1 = 3 then roleService else 0)

/-- The action is not permitted in the present mode: the vital core, a core without power, the offline test outside SERVICE. -/
def State.selftestBarred (s : State) (cls k : Nat) : Bool :=
  match cls with
  | 0 => decide (k < 4) && (!s.pwr.on.getLsbD (304 + k) || (decide (s.mode = .guard) && decide (s.vital.par.vcore.toNat = k)))
  | 3 => decide (s.mode ≠ .service)
  | _ => false

/-- Class 1: BSTAT of bank n and ISLRES of archipelago n; there is no archipelago of that number from 8 up, and its word is free. -/
def State.testReport (s : State) (k : Nat) : Ans :=
  let (r, t) := if k < 8 then (bytesLE 4 (s.arch[ix 8 k].islres).toNat, s) else s.freeBytes 4
  t.ok (bytesLE 4 (s.harbour.banks[ix 16 k].bstat).toNat ++ r)

/-- Class 2: full recalibration of a lane whose role is off. -/
def State.recalCmd (s : State) (l : Fin 16) : Ans :=
  let x := s.lanes[l]
  if (fld x.lcfg 0 3 : BitVec 3) ≠ 0 ∨ x.recal then s.no .busy
  else (s.modLane l (fun y => { y with recal := true })).acc []

/-- SELFTEST. -/
def runSelftest (s : State) (_ : VPacket) (_ : Session) (data : List Byte) : Ans :=
  let cls := natAt data 0 1
  let k := natAt data 1 1
  let lim := match cls with | 0 => 4 | 1 => 16 | 2 => 16 | 3 => 256 | _ => 0
  if s.selftestBarred cls k then s.no .modeConflict
  else if data.length ≠ 4 then s.no .badLength
  else if lim ≤ k ∨ !zeroAt data 2 2 then s.no .badParam
  else match cls with
    | 0 => if s.coreTesting then s.no .busy else (s.testCore (ix 4 k)).acc []
    | 1 => s.testReport k
    | 2 => s.recalCmd (ix 16 k)
    | _ => if s.holm.offline then s.no .busy else State.acc { s with holm := { s.holm with offline := true } } []

def opSelftest : Opcode := { code := 0x0701, need := needSelftest, modes := Mode.served, run := runSelftest, after := stay }
/-- SELFTEST_CORE: class 0. -/
def execSelftestCore (pk : VPacket) (s : State) : Out := .next (s.vevis opSelftest pk)
/-- SELFTEST_HARBOUR_TIDE: class 1. -/
def execSelftestHarbourTide (pk : VPacket) (s : State) : Out := .next (s.vevis opSelftest pk)
/-- SELFTEST_LANE_RECAL: class 2. -/
def execSelftestLaneRecal (pk : VPacket) (s : State) : Out := .next (s.vevis opSelftest pk)
/-- SELFTEST_OFFLINE: class 3. -/
def execSelftestOffline (pk : VPacket) (s : State) : Out := .next (s.vevis opSelftest pk)

/-! ### TIDE_CTL (spec/19 R446) -/

/-- The reply: TSTAT, ISLRES, TSTEPS, TCOVER. -/
def State.tideReply (s : State) (a : Arch) : List Byte :=
  let x := s.arch[a]
  bytesLE 4 x.tide.tstat.toNat ++ bytesLE 4 x.islres.toNat ++ bytesLE 4 x.tide.steps.toNat ++ bytesLE 4 x.tide.cover.toNat

/-- TIDE_CTL. -/
def runTideCtl (s : State) (_ : VPacket) (_ : Session) (data : List Byte) : Ans :=
  let k := natAt data 0 1
  let a : Arch := ix 8 k
  let cmd := natAt data 1 1
  if data.length ≠ 4 then s.no .badLength
  else if 7 < k ∨ !s.present.contains a ∨ 3 < cmd ∨ !zeroAt data 2 2 then s.no .badParam
  else if cmd = 3 ∧ s.tideBusy a then s.no .busy
  else
    let t := match cmd with | 1 => s.tideSuspend a | 2 => s.tideResume a | 3 => s.tideStart a | _ => s
    t.ok (t.tideReply a)

def opTideCtl : Opcode := { code := 0x0702, need := needs roleConfig, modes := Mode.served, run := runTideCtl, after := stay }
/-- TIDE_STATUS: command 0x00. -/
def execTideStatus (pk : VPacket) (s : State) : Out := .next (s.vevis opTideCtl pk)
/-- TIDE_SUSPEND: command 0x01. -/
def execTideSuspend (pk : VPacket) (s : State) : Out := .next (s.vevis opTideCtl pk)
/-- TIDE_RESUME: command 0x02. -/
def execTideResume (pk : VPacket) (s : State) : Out := .next (s.vevis opTideCtl pk)
/-- TIDE_STEP_NOW: command 0x03. -/
def execTideStepNow (pk : VPacket) (s : State) : Out := .next (s.vevis opTideCtl pk)

/-! ### Statistics and capture -/

/-- STATS_READ: the 32 words of an initiator's statistics. -/
def runStatsRead (s : State) (_ : VPacket) (_ : Session) (data : List Byte) : Ans :=
  let k := natAt data 0 1
  if data.length ≠ 4 then s.no .badLength
  else if 31 < k ∨ !zeroAt data 1 3 then s.no .badParam
  else
    let t := (s.byteLow (ix 32 k)).2
    t.ok ((List.range 32).flatMap (fun j => bytesLE 4 ((statReg (t.net.stat[ix 32 k]) (4 * j)).getD 0).toNat))

def opStatsRead : Opcode := { code := 0x0703, need := needs roleRead, modes := Mode.served, run := runStatsRead, after := stay }
/-- STATS_READ. -/
def execStatsRead (pk : VPacket) (s : State) : Out := .next (s.vevis opStatsRead pk)

/-- The modes that serve CAPTURE and CAPTURE_READ. -/
def Mode.captureServed (m : Mode) : Bool :=
  decide (m = .sentinel) || decide (m = .survey) || decide (m = .split) || decide (m = .service) || decide (m = .safeStop)

/-- CAPTURE: a snapshot is armed (spec/15 R372). -/
def runCapture (s : State) (_ : VPacket) (_ : Session) (data : List Byte) : Ans :=
  let n := natAt data 4 4
  let kind := natAt data 2 1
  let countBad := decide (kind = 0) && (decide (n = 0) || decide (2 ^ 24 < n))
  if data.length ≠ 8 then s.no .badLength
  else if 7 < natAt data 0 1 ∨ 1 < natAt data 1 1 ∨ 1 < kind ∨ (kind = 1 ∧ 6 < natAt data 3 1) ∨ countBad then s.no .badParam
  else if s.shore.capArmed.isSome then s.no .busy
  else
    let c : CapReq :=
      { gck := BitVec.ofNat 3 (natAt data 0 1), falling := decide (natAt data 1 1 = 1), count := if kind = 0 then some n else none
        trg := BitVec.ofNat 3 (natAt data 3 1) }
    (s.modShore (fun x => { x with capArmed := some c, capture := none })).ok []

def opCapture : Opcode := { code := 0x0704, need := needs roleService, modes := Mode.captureServed, run := runCapture, after := stay }
/-- CAPTURE. -/
def execCapture (pk : VPacket) (s : State) : Out := .next (s.vevis opCapture pk)

def opCaptureRead : Opcode :=
  { code := 0x0705, need := needs roleService, modes := Mode.captureServed, after := stay
    run := runEmpty (fun s _ => match s.shore.capture with | some bs => s.ok bs | none => s.no .busy) }
/-- CAPTURE_READ. -/
def execCaptureRead (pk : VPacket) (s : State) : Out := .next (s.vevis opCaptureRead pk)

/-! ### The event journal (spec/16 Table 16.12) -/

/-- Number of an event kind. (DESIGN CHOICE, log 21) -/
def EventKind.ix : EventKind → Nat
  | .laneReport => 0 | .sprueReport => 1 | .riserReport => 2 | .straitDown => 3 | .regroupDisable => 4 | .partnerLoss => 5 | .posted _ => 6
  | .safeStop => 7 | .thermal => 8 | .fabricLoad => 9 | .fabricSafe => 10 | .bootRefusal => 11 | .romCheck => 12 | .tideStep => 13
  | .tideMapOut => 14 | .ebb => 15 | .wake => 16 | .selfTest => 17 | .recal => 18 | .offlineTest => 19 | .internal => 20 | .avsLost => 21

/-- The event code: what a core posted, else a value the spec does not give. -/
def EventKind.code (k : EventKind) : BitVec 16 := match k with | .posted c => c | _ => Config.eventCode k.ix

/-- A record of 32 bytes: Skerry time, code, source, data, CRC-32C. Time and source the spec does not give. -/
def Event.record (e : Event) : List Byte :=
  let body := bytesLE 8 (Config.eventTime e.no).toNat ++ bytesLE 2 e.kind.code.toNat ++ bytesLE 2 (Config.eventSource e.no).toNat ++
    (e.data ++ List.replicate 16 0).take 16
  body ++ bytesLE 4 (crc32c body).toNat

/-- Records `first` to `first + n - 1` of those held, oldest first. -/
def State.records (s : State) (first n : Nat) : List Byte := ((s.events.drop first).take n).flatMap Event.record

/-- EVENT_READ. -/
def runEventRead (s : State) (_ : VPacket) (_ : Session) (data : List Byte) : Ans :=
  let n := natAt data 4 2
  if data.length ≠ 8 then s.no .badLength
  else if n = 0 ∨ 2048 < n ∨ !zeroAt data 6 2 then s.no .badParam
  else s.ok (s.records (natAt data 0 4) n)

def opEventRead : Opcode := { code := 0x0706, need := needs roleRead, modes := Mode.served, run := runEventRead, after := stay }
/-- EVENT_READ. -/
def execEventRead (pk : VPacket) (s : State) : Out := .next (s.vevis opEventRead pk)

/-! ### Memory (R403, spec/01 R32) -/

/-- One access of the Holm for the host, as initiator 4. -/
def State.holmAccess (s : State) (op : ReqOp) (addr : Nat) : Got × State :=
  let r : Request := { src := 4, tag := 0, user := false, op := op, addr := BitVec.ofNat 40 addr }
  if areaOf r.addr = .regs then
    (let (st, bs, t) := (s.count 4 (reqPayload op)).regServe r
     (some (st, bs), t.noteLat 4))
  else s.access r

/-- Size of the next access: the largest aligned power of two up to 8 within what is left. (DEDUCED, log 89) -/
def accSize (addr left : Nat) : Nat :=
  if addr % 8 = 0 ∧ 8 ≤ left then 8 else if addr % 4 = 0 ∧ 4 ≤ left then 4 else if addr % 2 = 0 ∧ 2 ≤ left then 2 else 1

/-- The status that stops a MEM_READ or MEM_WRITE. -/
def memStatus (st : Status) : VStatus := if st = .denied ∨ st = .domainOff then .denied else .badParam

/-- Go on with a MEM_READ or MEM_WRITE in ascending order until it ends, with a status and a payload, or has to wait; the first
access not answered OK ends it. -/
def State.memGo (s : State) : Nat → MemJob → Option (VStatus × List Byte) × MemJob × State
  | 0, j => (some (.ok, if j.read then j.bytes else []), j, s)
  | k + 1, j =>
    if j.left = 0 then (some (.ok, if j.read then j.bytes else []), j, s)
    else
      let n := accSize j.addr j.left
      match s.holmAccess (if j.read then .read n else .write (j.bytes.take n)) j.addr with
      | (none, t) => (none, j, t)
      | (some (.ok, bs), t) =>
        t.memGo k { j with addr := j.addr + n, left := j.left - n, bytes := if j.read then j.bytes ++ bs else j.bytes.drop n }
      | (some (st, _), t) => (some (memStatus st, []), j, t)

/-- Perform a MEM_READ or MEM_WRITE; one that has to wait is kept and replies later. -/
def State.memStart (s : State) (j : MemJob) : Ans :=
  match s.memGo j.left j with
  | (some (st, data), _, t) => { st := st, data := data, next := t, sess := none, held := false }
  | (none, j, t) =>
    { st := .ok, data := [], next := { t with holm := { t.holm with jobs := t.holm.jobs ++ [j] } }, sess := none, held := true }

/-- Go on with a kept MEM_READ or MEM_WRITE. -/
def State.memResume (s : State) (j : MemJob) : State :=
  match s.memGo j.left j with
  | (some (st, data), _, t) => t.finish j.peer j.sess j.sess j.seq j.op st data
  | (none, j, t) => { t with holm := { t.holm with jobs := t.holm.jobs ++ [j] } }

/-- Go on with every kept MEM_READ and MEM_WRITE, oldest first. -/
def State.memResumeAll (s : State) : State :=
  s.holm.jobs.foldl State.memResume { s with holm := { s.holm with jobs := [] } }

/-- MEM_READ. -/
def runMemRead (s : State) (pk : VPacket) (_ : Session) (data : List Byte) : Ans :=
  let addr := natAt data 0 8
  let n := natAt data 8 4
  if data.length ≠ 12 then s.no .badLength
  else if n = 0 ∨ 65536 < n ∨ 2 ^ 40 < addr + n then s.no .badParam
  else s.memStart { peer := pk.peer, sess := pk.sess, seq := pk.seq, op := 0x0801, read := true, addr := addr, left := n, bytes := [] }

def opMemRead : Opcode :=
  { code := 0x0801, need := needs roleService, modes := fun m => decide (m = .service) || decide (m = .safeStop), run := runMemRead, after := stay }
/-- MEM_READ. -/
def execMemRead (pk : VPacket) (s : State) : Out := .next (s.vevis opMemRead pk)

/-- MEM_WRITE. -/
def runMemWrite (s : State) (pk : VPacket) (_ : Session) (data : List Byte) : Ans :=
  let addr := natAt data 0 8
  let bs := data.drop 8
  if data.length < 9 then s.no .badLength
  else if 2 ^ 40 < addr + bs.length then s.no .badParam
  else s.memStart { peer := pk.peer, sess := pk.sess, seq := pk.seq, op := 0x0802, read := false, addr := addr, left := bs.length, bytes := bs }

def opMemWrite : Opcode :=
  { code := 0x0802, need := needs roleService, modes := fun m => decide (m = .service), run := runMemWrite, after := stay }
/-- MEM_WRITE. -/
def execMemWrite (pk : VPacket) (s : State) : Out := .next (s.vevis opMemWrite pk)

/-! ### The keep store (spec/16 Table 16.12) -/

/-- One byte of the keep store: header and newest journal entry with their seals, snapshot slots and event ring; what unused places hold are
free values (draw `d`). -/
def keepByte (hdr jrnl : List Byte) (a b : Option (List Byte)) (ring : List Byte) (d o : Nat) : Byte :=
  let free : Byte := Config.freeByte d o
  let from' (x : Option (List Byte)) (lo : Nat) : Byte := match x with | some l => l.getD (o - lo) free | none => free
  if o < 0x1000 then hdr.getD o free
  else if o < 0x9000 then from' a 0x1000
  else if o < 0x11000 then from' b 0x9000
  else if o < 0x21000 then jrnl.getD (o - 0x11000) free
  else if o < 0x61000 then ring.getD (offsetFrom 0x21000 o) free
  else free

/-- The range of a KEEP_READ meets the wrapped-keys region: DENIED (R403). -/
def keepDenied (data : List Byte) : Bool :=
  decide (data.length = 8 ∧ 0 < natAt data 4 4 ∧ natAt data 0 4 < 0x65000 ∧ 0x61000 < natAt data 0 4 + natAt data 4 4)

/-- KEEP_READ. -/
def runKeepRead (s : State) (_ : VPacket) (_ : Session) (data : List Byte) : Ans :=
  let off := natAt data 0 4
  let n := natAt data 4 4
  let k := s.holm.keep
  let f (p : Snapshot) : List Byte := p.bytes ++ p.stored
  let g (j : Journal) : List Byte := j.bytes ++ j.stored
  if data.length ≠ 8 then s.no .badLength
  else if n = 0 ∨ 65536 < n ∨ 0x80000 < off + n then s.no .badParam
  else
    let a := k.snapA.map f
    let b := k.snapB.map f
    let ring := s.records 0 8192
    let bytes := (List.range n).map (fun i => keepByte (k.hdrBytes ++ k.hdrSeal) ((k.journal.map g).getD []) a b ring s.fresh (off + i))
    State.ok { s with fresh := s.fresh + 1 } bytes

def opKeepRead : Opcode :=
  { code := 0x0803, need := needs roleService, modes := fun m => decide (m = .service) || decide (m = .safeStop), run := runKeepRead, after := stay
    deny := keepDenied }
/-- KEEP_READ. -/
def execKeepRead (pk : VPacket) (s : State) : Out := .next (s.vevis opKeepRead pk)

/-! ### HC's local map (spec/16 R375, Table 16.2) -/

/-- What HC raises at an address outside its map. -/
inductive HcFault where
  | fetch | range
deriving DecidableEq, Repr

/-- An instruction fetch of HC: data SRAM and boot ROM only. -/
def State.hcFetch (s : State) (addr : Nat) : Except HcFault Byte :=
  if addr < 0x100000 then .ok (rdByte 0 s.holm.sram addr)
  else if addr < 0x110000 then .ok (rdByte 0 s.holm.rom (offsetFrom 0x100000 addr))
  else .error .fetch

/-- A local read of HC: data SRAM, boot ROM, its registers, the Holm side of the mailbox, the keep store. -/
def State.hcRead (s : State) (addr : Nat) : Except HcFault Byte :=
  let k := s.holm.keep
  if addr < 0x100000 then .ok (rdByte 0 s.holm.sram addr)
  else if addr < 0x110000 then .ok (rdByte 0 s.holm.rom (offsetFrom 0x100000 addr))
  else if 0x200000 ≤ addr ∧ addr < 0x210000 then .ok (rdByte 0 s.holm.hcRegs (offsetFrom 0x200000 addr))
  else if 0x300000 ≤ addr ∧ addr < 0x310000 then .ok (if offsetFrom 0x300000 addr < 0xD000 then s.mboxByte (offsetFrom 0x300000 addr) else 0)
  else if 0x400000 ≤ addr ∧ addr < 0x480000 then
    .ok (keepByte (k.hdrBytes ++ k.hdrSeal) ((k.journal.map (fun j => j.bytes ++ j.stored)).getD []) (k.snapA.map (fun p => p.bytes ++ p.stored))
      (k.snapB.map (fun p => p.bytes ++ p.stored)) (s.records 0 8192) s.fresh (offsetFrom 0x400000 addr))
  else .error .range

/-- A local write of HC; the boot ROM keeps its contents. -/
def State.hcWrite (s : State) (addr : Nat) (b : Byte) : Except HcFault State :=
  if addr < 0x100000 then .ok { s with holm := { s.holm with sram := wrBytes 0 s.holm.sram addr [b] } }
  else if 0x200000 ≤ addr ∧ addr < 0x210000 then .ok { s with holm := { s.holm with hcRegs := wrBytes 0 s.holm.hcRegs (offsetFrom 0x200000 addr) [b] } }
  else if 0x300000 ≤ addr ∧ addr < 0x30C000 then .ok { s with holm := { s.holm with mbox := wrBytes 0 s.holm.mbox (offsetFrom 0x300000 addr) [b] } }
  else if addr < 0x110000 ∨ (0x30C000 ≤ addr ∧ addr < 0x310000) ∨ (0x400000 ≤ addr ∧ addr < 0x480000) then .ok s
  else .error .range

/-! ### What goes on by itself on an empty queue -/

/-- A life-cycle transition takes its next step, else a bitstream slot is written to its end, else the fabric's next clock edge comes.
(DESIGN CHOICE, log 98) -/
def State.idle (s : State) : State :=
  if s.holm.lcStep ≠ 0 then s.lcNext
  else match s.holm.slotJob with
    | some j => s.slotDone j
    | none => s.fabricTick

end Sys2Proof.Machine
end

