-- ==== Sys2Proof/Machine/Waits.lean ====
section
/-! DEFINITION. Machine/Waits.lean: the events behind which a MEM_READ or MEM_WRITE that waits for a ladle slot goes on: a pour
cycle, a view timeout at the gateway and an initiator's timeout (spec/01 R26, R27, R32, spec/03 Table 3.8, spec/13 R313, R323). -/

namespace Sys2Proof.Machine

/-- MICROWORD_ISSUE: one pour cycle of the stream of `a`. -/
def execMicrowordIssue (a : Arch) (s : State) : Out := .next (s.pourCycle a).memResumeAll

/-- GATEWAY_VIEW_TIMEOUT. -/
def execGatewayViewTimeout (a : Arch) (src : Fin 32) (tag : Byte) (s : State) : Out :=
  .next (s.gatewayTimeout a src tag).memResumeAll

/-- REQUEST_TIMEOUT. -/
def execRequestTimeout (src : Fin 32) (tag : Byte) (s : State) : Out := .next (s.requestTimeout src tag).memResumeAll

end Sys2Proof.Machine
end

