-- ==== Sys2Proof/Machine/Dispatch.lean ====
section
/-! DEFINITION. Machine/Dispatch.lean: one arm per command, each a direct call of the command's own meaning. -/

namespace Sys2Proof.Machine

def exec (i : Instr) (s : State) : Host.Outcome State Fault Refusal :=
  match i with
  | .microwordIssue a => Sys2Proof.Machine.execMicrowordIssue a s
  | .reductionResult a which => Sys2Proof.Machine.execReductionResult a which s
  | .dispatchWaitEnd a => Sys2Proof.Machine.execDispatchWaitEnd a s
  | .waitRelease a => Sys2Proof.Machine.execWaitRelease a s
  | .framebarRelease a => Sys2Proof.Machine.execFramebarRelease a s
  | .latbarRelease a => Sys2Proof.Machine.execLatbarRelease a s
  | .microTrap a => Sys2Proof.Machine.execMicroTrap a s
  | .trapWatchdogExpiry a => Sys2Proof.Machine.execTrapWatchdogExpiry a s
  | .mouldScrub a => Sys2Proof.Machine.execMouldScrub a s
  | .mouldWordRewrite a => Sys2Proof.Machine.execMouldWordRewrite a s
  | .patternReplacement a => Sys2Proof.Machine.execPatternReplacement a s
  | .twinCompareMismatch pair => Sys2Proof.Machine.execTwinCompareMismatch pair s
  | .islandReady P => Sys2Proof.Machine.execIslandReady P s
  | .seqctlHalt acc a halt => Sys2Proof.Machine.execSeqctlHalt acc a halt s
  | .seqctlStep acc a => Sys2Proof.Machine.execSeqctlStep acc a s
  | .seqctlClrfault acc a => Sys2Proof.Machine.execSeqctlClrfault acc a s
  | .pqctlFlush acc a => Sys2Proof.Machine.execPqctlFlush acc a s
  | .ictrlInj acc P plane cl dbl => Sys2Proof.Machine.execIctrlInj acc P plane cl dbl s
  | .ictrlCeclr acc P => Sys2Proof.Machine.execIctrlCeclr acc P s
  | .mcecntCeclr acc a => Sys2Proof.Machine.execMcecntCeclr acc a s
  | .registerWrite acc addr value => Sys2Proof.Machine.execRegisterWrite acc addr value s
  | .taintSourceRead acc addr => Sys2Proof.Machine.execTaintSourceRead acc addr s
  | .timestampLowRead acc riser => Sys2Proof.Machine.execTimestampLowRead acc riser s
  | .byteloRead acc k => Sys2Proof.Machine.execByteloRead acc k s
  | .soundStatClr acc k => Sys2Proof.Machine.execSoundStatClr acc k s
  | .pourForward n => Sys2Proof.Machine.execPourForward n s
  | .interruptEntry n => Sys2Proof.Machine.execInterruptEntry n s
  | .coreTimerExpiry n => Sys2Proof.Machine.execCoreTimerExpiry n s
  | .stationExecute n st => Sys2Proof.Machine.execStationExecute n st s
  | .farResponse n tag => Sys2Proof.Machine.execFarResponse n tag s
  | .tableWalkComplete n => Sys2Proof.Machine.execTableWalkComplete n s
  | .requestTimeout src tag => Sys2Proof.Machine.execRequestTimeout src tag s
  | .tagQuarantineExpiry src tag => Sys2Proof.Machine.execTagQuarantineExpiry src tag s
  | .nop n => Sys2Proof.Machine.execNop n s
  | .dup n => Sys2Proof.Machine.execDup n s
  | .drop n => Sys2Proof.Machine.execDrop n s
  | .swap n => Sys2Proof.Machine.execSwap n s
  | .over n => Sys2Proof.Machine.execOver n s
  | .rot n => Sys2Proof.Machine.execRot n s
  | .pick n k => Sys2Proof.Machine.execPick n k s
  | .put n k => Sys2Proof.Machine.execPut n k s
  | .depth n => Sys2Proof.Machine.execDepth n s
  | .savestk n brk => Sys2Proof.Machine.execSavestk n brk s
  | .loadstk n brk => Sys2Proof.Machine.execLoadstk n brk s
  | .lit8 n imm => Sys2Proof.Machine.execLit8 n imm s
  | .lit16 n imm => Sys2Proof.Machine.execLit16 n imm s
  | .lit32 n imm => Sys2Proof.Machine.execLit32 n imm s
  | .lithi n imm => Sys2Proof.Machine.execLithi n imm s
  | .add n => Sys2Proof.Machine.execAdd n s
  | .sub n => Sys2Proof.Machine.execSub n s
  | .adc n => Sys2Proof.Machine.execAdc n s
  | .sbc n => Sys2Proof.Machine.execSbc n s
  | .mul n => Sys2Proof.Machine.execMul n s
  | .mulwu n => Sys2Proof.Machine.execMulwu n s
  | .mulws n => Sys2Proof.Machine.execMulws n s
  | .divu n => Sys2Proof.Machine.execDivu n s
  | .divs n => Sys2Proof.Machine.execDivs n s
  | .remu n => Sys2Proof.Machine.execRemu n s
  | .rems n => Sys2Proof.Machine.execRems n s
  | .and n => Sys2Proof.Machine.execAnd n s
  | .or n => Sys2Proof.Machine.execOr n s
  | .xor n => Sys2Proof.Machine.execXor n s
  | .not n => Sys2Proof.Machine.execNot n s
  | .neg n => Sys2Proof.Machine.execNeg n s
  | .shl n => Sys2Proof.Machine.execShl n s
  | .shr n => Sys2Proof.Machine.execShr n s
  | .sar n => Sys2Proof.Machine.execSar n s
  | .rol n => Sys2Proof.Machine.execRol n s
  | .clz n => Sys2Proof.Machine.execClz n s
  | .popc n => Sys2Proof.Machine.execPopc n s
  | .bfx n => Sys2Proof.Machine.execBfx n s
  | .bfi n => Sys2Proof.Machine.execBfi n s
  | .bperm n => Sys2Proof.Machine.execBperm n s
  | .min n => Sys2Proof.Machine.execMin n s
  | .max n => Sys2Proof.Machine.execMax n s
  | .sext8 n => Sys2Proof.Machine.execSext8 n s
  | .sext16 n => Sys2Proof.Machine.execSext16 n s
  | .sext18 n => Sys2Proof.Machine.execSext18 n s
  | .sat18 n => Sys2Proof.Machine.execSat18 n s
  | .rdr n c => Sys2Proof.Machine.execRdr n c s
  | .wrr n c => Sys2Proof.Machine.execWrr n c s
  | .csrr n c => Sys2Proof.Machine.execCsrr n c s
  | .csrw n c => Sys2Proof.Machine.execCsrw n c s
  | .ldb n => Sys2Proof.Machine.execLdb n s
  | .ldbu n => Sys2Proof.Machine.execLdbu n s
  | .ldh n => Sys2Proof.Machine.execLdh n s
  | .ldhu n => Sys2Proof.Machine.execLdhu n s
  | .ldw n => Sys2Proof.Machine.execLdw n s
  | .stb n => Sys2Proof.Machine.execStb n s
  | .sth n => Sys2Proof.Machine.execSth n s
  | .stw n => Sys2Proof.Machine.execStw n s
  | .beq n rel => Sys2Proof.Machine.execBeq n rel s
  | .bne n rel => Sys2Proof.Machine.execBne n rel s
  | .blt n rel => Sys2Proof.Machine.execBlt n rel s
  | .bge n rel => Sys2Proof.Machine.execBge n rel s
  | .bltu n rel => Sys2Proof.Machine.execBltu n rel s
  | .bgeu n rel => Sys2Proof.Machine.execBgeu n rel s
  | .beqz n rel => Sys2Proof.Machine.execBeqz n rel s
  | .bnez n rel => Sys2Proof.Machine.execBnez n rel s
  | .bra n rel => Sys2Proof.Machine.execBra n rel s
  | .jmp n => Sys2Proof.Machine.execJmp n s
  | .calll n rel => Sys2Proof.Machine.execCalll n rel s
  | .call n mask rel => Sys2Proof.Machine.execCall n mask rel s
  | .calli n => Sys2Proof.Machine.execCalli n s
  | .retl n => Sys2Proof.Machine.execRetl n s
  | .ret n => Sys2Proof.Machine.execRet n s
  | .reti n => Sys2Proof.Machine.execReti n s
  | .trap n imm => Sys2Proof.Machine.execTrap n imm s
  | .scpyb n pfx brk => Sys2Proof.Machine.execScpyb n pfx brk s
  | .scpyw n pfx brk => Sys2Proof.Machine.execScpyw n pfx brk s
  | .sfilb n pfx brk => Sys2Proof.Machine.execSfilb n pfx brk s
  | .sfilw n pfx brk => Sys2Proof.Machine.execSfilw n pfx brk s
  | .scmpb n pfx brk => Sys2Proof.Machine.execScmpb n pfx brk s
  | .scmpw n pfx brk => Sys2Proof.Machine.execScmpw n pfx brk s
  | .sfndb n pfx brk => Sys2Proof.Machine.execSfndb n pfx brk s
  | .sfndw n pfx brk => Sys2Proof.Machine.execSfndw n pfx brk s
  | .illegalInstruction n units => Sys2Proof.Machine.execIllegalInstruction n units s
  | .pour n => Sys2Proof.Machine.execPour n s
  | .tagwait n => Sys2Proof.Machine.execTagwait n s
  | .fence n => Sys2Proof.Machine.execFence n s
  | .fldb n => Sys2Proof.Machine.execFldb n s
  | .fldbu n => Sys2Proof.Machine.execFldbu n s
  | .fldh n => Sys2Proof.Machine.execFldh n s
  | .fldhu n => Sys2Proof.Machine.execFldhu n s
  | .fldw n => Sys2Proof.Machine.execFldw n s
  | .fstb n => Sys2Proof.Machine.execFstb n s
  | .fsth n => Sys2Proof.Machine.execFsth n s
  | .fstw n => Sys2Proof.Machine.execFstw n s
  | .faadd32 n => Sys2Proof.Machine.execFaadd32 n s
  | .faadds18 n => Sys2Proof.Machine.execFaadds18 n s
  | .faswap32 n => Sys2Proof.Machine.execFaswap32 n s
  | .tlbinv n => Sys2Proof.Machine.execTlbinv n s
  | .tlbinva n => Sys2Proof.Machine.execTlbinva n s
  | .wfi n => Sys2Proof.Machine.execWfi n s
  | .customerInstruction n slot imm => Sys2Proof.Machine.execCustomerInstruction n slot imm s
  | .vsetvl n v => Sys2Proof.Machine.execVsetvl n v s
  | .vsync n => Sys2Proof.Machine.execVsync n s
  | .vresume n => Sys2Proof.Machine.execVresume n s
  | .vsave n brk => Sys2Proof.Machine.execVsave n brk s
  | .vload n brk => Sys2Proof.Machine.execVload n brk s
  | .vmvxs n v => Sys2Proof.Machine.execVmvxs n v s
  | .vmvsx n v => Sys2Proof.Machine.execVmvsx n v s
  | .vmrd n v => Sys2Proof.Machine.execVmrd n v s
  | .vmwr n v => Sys2Proof.Machine.execVmwr n v s
  | .vmand n v => Sys2Proof.Machine.execVmand n v s
  | .vmor n v => Sys2Proof.Machine.execVmor n v s
  | .vmxor n v => Sys2Proof.Machine.execVmxor n v s
  | .vmnot n v => Sys2Proof.Machine.execVmnot n v s
  | .vmv n v => Sys2Proof.Machine.execVmv n v s
  | .vadd n v => Sys2Proof.Machine.execVadd n v s
  | .vsub n v => Sys2Proof.Machine.execVsub n v s
  | .vadds n v => Sys2Proof.Machine.execVadds n v s
  | .vsubs n v => Sys2Proof.Machine.execVsubs n v s
  | .vmul n v => Sys2Proof.Machine.execVmul n v s
  | .vmin n v => Sys2Proof.Machine.execVmin n v s
  | .vmax n v => Sys2Proof.Machine.execVmax n v s
  | .vminu n v => Sys2Proof.Machine.execVminu n v s
  | .vmaxu n v => Sys2Proof.Machine.execVmaxu n v s
  | .vand n v => Sys2Proof.Machine.execVand n v s
  | .vor n v => Sys2Proof.Machine.execVor n v s
  | .vxor n v => Sys2Proof.Machine.execVxor n v s
  | .vshl n v => Sys2Proof.Machine.execVshl n v s
  | .vshr n v => Sys2Proof.Machine.execVshr n v s
  | .vsar n v => Sys2Proof.Machine.execVsar n v s
  | .vneg n v => Sys2Proof.Machine.execVneg n v s
  | .vabs n v => Sys2Proof.Machine.execVabs n v s
  | .vaddX n v => Sys2Proof.Machine.execVaddX n v s
  | .vsubX n v => Sys2Proof.Machine.execVsubX n v s
  | .vaddsX n v => Sys2Proof.Machine.execVaddsX n v s
  | .vsubsX n v => Sys2Proof.Machine.execVsubsX n v s
  | .vmulX n v => Sys2Proof.Machine.execVmulX n v s
  | .vminX n v => Sys2Proof.Machine.execVminX n v s
  | .vmaxX n v => Sys2Proof.Machine.execVmaxX n v s
  | .vminuX n v => Sys2Proof.Machine.execVminuX n v s
  | .vmaxuX n v => Sys2Proof.Machine.execVmaxuX n v s
  | .vandX n v => Sys2Proof.Machine.execVandX n v s
  | .vorX n v => Sys2Proof.Machine.execVorX n v s
  | .vxorX n v => Sys2Proof.Machine.execVxorX n v s
  | .vshlX n v => Sys2Proof.Machine.execVshlX n v s
  | .vshrX n v => Sys2Proof.Machine.execVshrX n v s
  | .vsarX n v => Sys2Proof.Machine.execVsarX n v s
  | .vcmpeq n v => Sys2Proof.Machine.execVcmpeq n v s
  | .vcmpne n v => Sys2Proof.Machine.execVcmpne n v s
  | .vcmplt n v => Sys2Proof.Machine.execVcmplt n v s
  | .vcmpltu n v => Sys2Proof.Machine.execVcmpltu n v s
  | .vcmple n v => Sys2Proof.Machine.execVcmple n v s
  | .vcmpleu n v => Sys2Proof.Machine.execVcmpleu n v s
  | .vcmpgt n v => Sys2Proof.Machine.execVcmpgt n v s
  | .vcmpgtu n v => Sys2Proof.Machine.execVcmpgtu n v s
  | .vfcmpeq n v => Sys2Proof.Machine.execVfcmpeq n v s
  | .vfcmplt n v => Sys2Proof.Machine.execVfcmplt n v s
  | .vfcmple n v => Sys2Proof.Machine.execVfcmple n v s
  | .vfcmpun n v => Sys2Proof.Machine.execVfcmpun n v s
  | .vwmul n v => Sys2Proof.Machine.execVwmul n v s
  | .vdot4 n v => Sys2Proof.Machine.execVdot4 n v s
  | .vdot2 n v => Sys2Proof.Machine.execVdot2 n v s
  | .vdots18 n v => Sys2Proof.Machine.execVdots18 n v s
  | .vfadd n v => Sys2Proof.Machine.execVfadd n v s
  | .vfsub n v => Sys2Proof.Machine.execVfsub n v s
  | .vfmul n v => Sys2Proof.Machine.execVfmul n v s
  | .vfma n v => Sys2Proof.Machine.execVfma n v s
  | .vfdiv n v => Sys2Proof.Machine.execVfdiv n v s
  | .vfsqrt n v => Sys2Proof.Machine.execVfsqrt n v s
  | .vfmin n v => Sys2Proof.Machine.execVfmin n v s
  | .vfmax n v => Sys2Proof.Machine.execVfmax n v s
  | .vfneg n v => Sys2Proof.Machine.execVfneg n v s
  | .vfabs n v => Sys2Proof.Machine.execVfabs n v s
  | .vcvtF32S18 n v => Sys2Proof.Machine.execVcvtF32S18 n v s
  | .vcvtS18F32 n v => Sys2Proof.Machine.execVcvtS18F32 n v s
  | .vcvtF16F32 n v => Sys2Proof.Machine.execVcvtF16F32 n v s
  | .vcvtF32F16 n v => Sys2Proof.Machine.execVcvtF32F16 n v s
  | .vcvtF32I32 n v => Sys2Proof.Machine.execVcvtF32I32 n v s
  | .vcvtI32F32 n v => Sys2Proof.Machine.execVcvtI32F32 n v s
  | .vredsum n v => Sys2Proof.Machine.execVredsum n v s
  | .vredmin n v => Sys2Proof.Machine.execVredmin n v s
  | .vredmax n v => Sys2Proof.Machine.execVredmax n v s
  | .vredminu n v => Sys2Proof.Machine.execVredminu n v s
  | .vredmaxu n v => Sys2Proof.Machine.execVredmaxu n v s
  | .vfredsum n v => Sys2Proof.Machine.execVfredsum n v s
  | .vfredmin n v => Sys2Proof.Machine.execVfredmin n v s
  | .vfredmax n v => Sys2Proof.Machine.execVfredmax n v s
  | .vld n v => Sys2Proof.Machine.execVld n v s
  | .vst n v => Sys2Proof.Machine.execVst n v s
  | .vlds n v => Sys2Proof.Machine.execVlds n v s
  | .vsts n v => Sys2Proof.Machine.execVsts n v s
  | .vldx n v => Sys2Proof.Machine.execVldx n v s
  | .vstx n v => Sys2Proof.Machine.execVstx n v s
  | .vdeal n v k => Sys2Proof.Machine.execVdeal n v k s
  | .vweave n v k => Sys2Proof.Machine.execVweave n v k s
  | .vectorExecute n => Sys2Proof.Machine.execVectorExecute n s
  | .cctlRst acc n => Sys2Proof.Machine.execCctlRst acc n s
  | .cctlStep acc n => Sys2Proof.Machine.execCctlStep acc n s
  | .cctlHalt acc n halt => Sys2Proof.Machine.execCctlHalt acc n halt s
  | .cdbellRing acc n => Sys2Proof.Machine.execCdbellRing acc n s
  | .routerHeaderArrival at' hdr payload poisoned => Sys2Proof.Machine.execRouterHeaderArrival at' hdr payload poisoned s
  | .packetAgeTick at' slot => Sys2Proof.Machine.execPacketAgeTick at' slot s
  | .routingEpochBarrier => Sys2Proof.Machine.execRoutingEpochBarrier s
  | .epochDrainComplete => Sys2Proof.Machine.execEpochDrainComplete s
  | .domainPowerOff d => Sys2Proof.Machine.execDomainPowerOff d s
  | .peViewRequest req => Sys2Proof.Machine.execPeViewRequest req s
  | .gatewayViewTimeout a src tag => Sys2Proof.Machine.execGatewayViewTimeout a src tag s
  | .registerBlockAccess req => Sys2Proof.Machine.execRegisterBlockAccess req s
  | .sramAliasAccess req => Sys2Proof.Machine.execSramAliasAccess req s
  | .mailboxWindowAccess req => Sys2Proof.Machine.execMailboxWindowAccess req s
  | .harbourPortARequest req portB => Sys2Proof.Machine.execHarbourPortARequest req portB s
  | .harbourAtomic req => Sys2Proof.Machine.execHarbourAtomic req s
  | .harbourTestRegion b badRow => Sys2Proof.Machine.execHarbourTestRegion b badRow s
  | .bctlColclr acc b => Sys2Proof.Machine.execBctlColclr acc b s
  | .bctlCeclr acc b => Sys2Proof.Machine.execBctlCeclr acc b s
  | .drheadWrite acc c v => Sys2Proof.Machine.execDrheadWrite acc c v s
  | .dctlEn acc c en => Sys2Proof.Machine.execDctlEn acc c en s
  | .dctlResume acc c => Sys2Proof.Machine.execDctlResume acc c s
  | .dctlSkip acc c => Sys2Proof.Machine.execDctlSkip acc c s
  | .dmaDescriptorStart c => Sys2Proof.Machine.execDmaDescriptorStart c s
  | .dmaBeatResponse c => Sys2Proof.Machine.execDmaBeatResponse c s
  | .xinv acc v => Sys2Proof.Machine.execXinv acc v s
  | .xlatWalkComplete => Sys2Proof.Machine.execXlatWalkComplete s
  | .sysrefEdge misaligned => Sys2Proof.Machine.execSysrefEdge misaligned s
  | .linkAligned link => Sys2Proof.Machine.execLinkAligned link s
  | .jesdMultiblockRx link crcOk frames => Sys2Proof.Machine.execJesdMultiblockRx link crcOk frames s
  | .laneLinkLoss l => Sys2Proof.Machine.execLaneLinkLoss l s
  | .streamPortBeat ch words => Sys2Proof.Machine.execStreamPortBeat ch words s
  | .triggerRise k => Sys2Proof.Machine.execTriggerRise k s
  | .ladleFill entry => Sys2Proof.Machine.execLadleFill entry s
  | .sctlResume acc id => Sys2Proof.Machine.execSctlResume acc id s
  | .sctlInval acc id => Sys2Proof.Machine.execSctlInval acc id s
  | .riserOutbankDrain a => Sys2Proof.Machine.execRiserOutbankDrain a s
  | .replayHalfSwitch link => Sys2Proof.Machine.execReplayHalfSwitch link s
  | .ethFrameRx l frame fcsOk => Sys2Proof.Machine.execEthFrameRx l frame fcsOk s
  | .edge lane h cycle side plane => Sys2Proof.Machine.execEdge lane h cycle side plane s
  | .red lane h orv cnt member hops => Sys2Proof.Machine.execRed lane h orv cnt member hops s
  | .assay lane h f assay => Sys2Proof.Machine.execAssay lane h f assay s
  | .hb lane h b => Sys2Proof.Machine.execHb lane h b s
  | .bar lane h seq => Sys2Proof.Machine.execBar lane h seq s
  | .ack lane h => Sys2Proof.Machine.execAck lane h s
  | .straitReplay lane => Sys2Proof.Machine.execStraitReplay lane s
  | .hbSend usToBoundary => Sys2Proof.Machine.execHbSend usToBoundary s
  | .straitLinkDown lane => Sys2Proof.Machine.execStraitLinkDown lane s
  | .frameBoundary => Sys2Proof.Machine.execFrameBoundary s
  | .frameClaim n seq f => Sys2Proof.Machine.execFrameClaim n seq f s
  | .frameDone n seq f ans us => Sys2Proof.Machine.execFrameDone n seq f ans us s
  | .eventPost n seq code data => Sys2Proof.Machine.execEventPost n seq code data s
  | .safeStopReq n seq reason => Sys2Proof.Machine.execSafeStopReq n seq reason s
  | .rplctlValidClear acc n => Sys2Proof.Machine.execRplctlValidClear acc n s
  | .frmctlNewClear acc n => Sys2Proof.Machine.execFrmctlNewClear acc n s
  | .windowLeaveOpen cause => Sys2Proof.Machine.execWindowLeaveOpen cause s
  | .dynPeriod k t => Sys2Proof.Machine.execDynPeriod k t s
  | .dynmonEdge k t => Sys2Proof.Machine.execDynmonEdge k t s
  | .dynmonStaticTimeout k => Sys2Proof.Machine.execDynmonStaticTimeout k s
  | .holdokTimeout => Sys2Proof.Machine.execHoldokTimeout s
  | .thermalSample tj => Sys2Proof.Machine.execThermalSample tj s
  | .avsStep target => Sys2Proof.Machine.execAvsStep target s
  | .fabricLoadStepDone ok => Sys2Proof.Machine.execFabricLoadStepDone ok s
  | .fabricRelease => Sys2Proof.Machine.execFabricRelease s
  | .fabricScrub crcOk recent => Sys2Proof.Machine.execFabricScrub crcOk recent s
  | .periodCountEdge cell ticks => Sys2Proof.Machine.execPeriodCountEdge cell ticks s
  | .sigmaDeltaWord cell w => Sys2Proof.Machine.execSigmaDeltaWord cell w s
  | .serialEngineRx e data => Sys2Proof.Machine.execSerialEngineRx e data s
  | .sedataWrite acc e v => Sys2Proof.Machine.execSedataWrite acc e v s
  | .sedataRead acc e => Sys2Proof.Machine.execSedataRead acc e s
  | .controlPortAccess req => Sys2Proof.Machine.execControlPortAccess req s
  | .captureTrigger snap => Sys2Proof.Machine.execCaptureTrigger snap s
  | .nvctlRead acc addr => Sys2Proof.Machine.execNvctlRead acc addr s
  | .nvctlProgram acc addr => Sys2Proof.Machine.execNvctlProgram acc addr s
  | .nvctlErase acc addr => Sys2Proof.Machine.execNvctlErase acc addr s
  | .nvCommandDone ok => Sys2Proof.Machine.execNvCommandDone ok s
  | .resetNLow => Sys2Proof.Machine.execResetNLow s
  | .bootSequence inp => Sys2Proof.Machine.execBootSequence inp s
  | .ebb => Sys2Proof.Machine.execEbb s
  | .snapshotSealed => Sys2Proof.Machine.execSnapshotSealed s
  | .ebbComplete => Sys2Proof.Machine.execEbbComplete s
  | .ebbRecovery => Sys2Proof.Machine.execEbbRecovery s
  | .holdCollapse => Sys2Proof.Machine.execHoldCollapse s
  | .skerryAlarm => Sys2Proof.Machine.execSkerryAlarm s
  | .sh000WakeEdge => Sys2Proof.Machine.execSh000WakeEdge s
  | .wakeComplete => Sys2Proof.Machine.execWakeComplete s
  | .modeTransitionComplete => Sys2Proof.Machine.execModeTransitionComplete s
  | .crystalStart => Sys2Proof.Machine.execCrystalStart s
  | .tideStepStart a => Sys2Proof.Machine.execTideStepStart a s
  | .tideShadowComplete a => Sys2Proof.Machine.execTideShadowComplete a s
  | .tideSwap a => Sys2Proof.Machine.execTideSwap a s
  | .tideTestComplete a pass => Sys2Proof.Machine.execTideTestComplete a pass s
  | .coreSelftestTimer => Sys2Proof.Machine.execCoreSelftestTimer s
  | .coreSelftestDone n pass => Sys2Proof.Machine.execCoreSelftestDone n pass s
  | .holmRomCheck ok => Sys2Proof.Machine.execHolmRomCheck ok s
  | .holmSramScrub => Sys2Proof.Machine.execHolmSramScrub s
  | .uartFrameTimeout => Sys2Proof.Machine.execUartFrameTimeout s
  | .helloExpiry => Sys2Proof.Machine.execHelloExpiry s
  | .sessionIdleExpiry id => Sys2Proof.Machine.execSessionIdleExpiry id s
  | .txnExpiry => Sys2Proof.Machine.execTxnExpiry s
  | .commitPoint => Sys2Proof.Machine.execCommitPoint s
  | .hello pk => Sys2Proof.Machine.execHello pk s
  | .sessionOpen pk => Sys2Proof.Machine.execSessionOpen pk s
  | .sessionClose pk => Sys2Proof.Machine.execSessionClose pk s
  | .ping pk => Sys2Proof.Machine.execPing pk s
  | .getIdentity pk => Sys2Proof.Machine.execGetIdentity pk s
  | .attest pk => Sys2Proof.Machine.execAttest pk s
  | .getMeasurements pk => Sys2Proof.Machine.execGetMeasurements pk s
  | .lcGet pk => Sys2Proof.Machine.execLcGet pk s
  | .lcAdvance pk => Sys2Proof.Machine.execLcAdvance pk s
  | .programKeySlot pk => Sys2Proof.Machine.execProgramKeySlot pk s
  | .revokeKeySlot pk => Sys2Proof.Machine.execRevokeKeySlot pk s
  | .imgStage pk => Sys2Proof.Machine.execImgStage pk s
  | .imgActivate pk => Sys2Proof.Machine.execImgActivate pk s
  | .imgList pk => Sys2Proof.Machine.execImgList pk s
  | .txnBegin pk => Sys2Proof.Machine.execTxnBegin pk s
  | .txnWrite pk => Sys2Proof.Machine.execTxnWrite pk s
  | .txnCommit pk => Sys2Proof.Machine.execTxnCommit pk s
  | .txnAbort pk => Sys2Proof.Machine.execTxnAbort pk s
  | .txnStatus pk => Sys2Proof.Machine.execTxnStatus pk s
  | .modeGet pk => Sys2Proof.Machine.execModeGet pk s
  | .modeSet pk => Sys2Proof.Machine.execModeSet pk s
  | .vitalResume pk => Sys2Proof.Machine.execVitalResume pk s
  | .safeStop pk => Sys2Proof.Machine.execSafeStop pk s
  | .streamGet pk => Sys2Proof.Machine.execStreamGet pk s
  | .streamEnable pk => Sys2Proof.Machine.execStreamEnable pk s
  | .streamDisable pk => Sys2Proof.Machine.execStreamDisable pk s
  | .selftestCore pk => Sys2Proof.Machine.execSelftestCore pk s
  | .selftestHarbourTide pk => Sys2Proof.Machine.execSelftestHarbourTide pk s
  | .selftestLaneRecal pk => Sys2Proof.Machine.execSelftestLaneRecal pk s
  | .selftestOffline pk => Sys2Proof.Machine.execSelftestOffline pk s
  | .tideStatus pk => Sys2Proof.Machine.execTideStatus pk s
  | .tideSuspend pk => Sys2Proof.Machine.execTideSuspend pk s
  | .tideResume pk => Sys2Proof.Machine.execTideResume pk s
  | .tideStepNow pk => Sys2Proof.Machine.execTideStepNow pk s
  | .statsRead pk => Sys2Proof.Machine.execStatsRead pk s
  | .capture pk => Sys2Proof.Machine.execCapture pk s
  | .captureRead pk => Sys2Proof.Machine.execCaptureRead pk s
  | .eventRead pk => Sys2Proof.Machine.execEventRead pk s
  | .memRead pk => Sys2Proof.Machine.execMemRead pk s
  | .memWrite pk => Sys2Proof.Machine.execMemWrite pk s
  | .keepRead pk => Sys2Proof.Machine.execKeepRead pk s
  | .partnerStatus pk => Sys2Proof.Machine.execPartnerStatus pk s
  | .latticeStatus pk => Sys2Proof.Machine.execLatticeStatus pk s
  | .jtagPinControl ir => Sys2Proof.Machine.execJtagPinControl ir s
  | .holdokChange ok => Sys2Proof.Machine.execHoldokChange ok s
  | .vddioSysCollapse => Sys2Proof.Machine.execVddioSysCollapse s
  | .guardEntryHbTimeout => Sys2Proof.Machine.execGuardEntryHbTimeout s
  | .ethernetLinkUp l => Sys2Proof.Machine.execEthernetLinkUp l s
  | .laneRecalibrationDone l ok => Sys2Proof.Machine.execLaneRecalibrationDone l ok s
  | .offlineTestDone ok => Sys2Proof.Machine.execOfflineTestDone ok s

end Sys2Proof.Machine
end

