-- ==== Sys2Proof/Machine/Step.lean ====
section
/-! DEFINITION. Machine/Step.lean: one step of the block takes the command at the front of the queue. -/

namespace Sys2Proof.Machine

/-- Take the front command and run it with the rest of the queue; on an empty queue the block idles, but for the
clocks of a configured fabric. (DESIGN CHOICE, log 2) (DESIGN CHOICE, log 98) -/
def step (s : State) : Host.Outcome State Fault Refusal :=
  match s.pending with
  | [] => .next s.idle
  | c :: rest => exec c { s with pending := rest }

/-- The state with the command that a word spells put at the front of its queue; unchanged where the word spells none. -/
def State.withFetchWord (s : State) (nbits w : Nat) : State :=
  match decodeTableWord nbits w with
  | some c => { s with pending := c :: s.pending }
  | none => s

end Sys2Proof.Machine
end

