-- ==== Sys2Proof/Safety.lean ====
section
/-! DEFINITION. Safety.lean: what the claims call a safe run: fuses that never unburn, canonical memories, bounded queues, and the
conditions under which a control core runs its next instruction undisturbed. -/

namespace Sys2Proof.Machine

/-- The fuses that a run may burn: LC count, slots programmed and revoked, anti-rollback counters (spec/16 Table 16.10). -/
structure Fuses where
  lcCount : Byte
  slotProg : BitVec 4
  slotRev : BitVec 4
  counters : Vector Byte 64
deriving DecidableEq, Repr

/-- The fuses of the Holm. -/
def Holm.fuses (h : Holm) : Fuses := { lcCount := h.lcCount, slotProg := h.slotProg, slotRev := h.slotRev, counters := h.counters }

/-- `g` is `f` with the same or later values: no bit unburnt (spec/16 R385). -/
def Fuses.upTo (f g : Fuses) : Prop :=
  f.lcCount.toNat ≤ g.lcCount.toNat ∧ f.slotProg &&& g.slotProg = f.slotProg ∧ f.slotRev &&& g.slotRev = f.slotRev ∧
  ∀ k : Fin 64, (f.counters[k]).toNat ≤ (g.counters[k]).toNat

/-- What no command but a fuse burn changes: the queue, the grade (a fuse), the fuses. -/
structure Fixed where
  pending : List Instr
  gradeC : Bool
  fuses : Fuses
deriving DecidableEq, Repr

/-- The fixed part of a state. -/
def State.fixed (s : State) : Fixed := { pending := s.pending, gradeC := s.gradeC, fuses := s.holm.fuses }

/-- From `s` to `t` the queue and the grade stand, and no fuse is unburnt. -/
def State.Kept (s t : State) : Prop := t.pending = s.pending ∧ t.gradeC = s.gradeC ∧ s.holm.fuses.upTo t.holm.fuses

/-- Every memory of the machine is in canonical form: harbour, Holm SRAM, mailbox RAM, boot ROM and control registers of the Holm, fabric
flash, core SRAM and micro-stores, moulds, PE planes. -/
def State.memWf (s : State) : Bool :=
  Memory.wf 0 s.harbour.mem && SMap.wf 0 s.harbour.delta && Memory.wf 0 s.holm.sram && SMap.wf 0 s.holm.sramDelta &&
  Memory.wf 0 s.holm.mbox && Memory.wf 0 s.holm.rom && Memory.wf 0 s.holm.hcRegs &&
  Memory.wf 0xFF s.shore.flash && SMap.wf 0 s.shore.fdelta && s.cores.all (fun c => Memory.wf 0 c.sram && SMap.wf 0 c.ustore) &&
  s.arch.all (fun a => SMap.wf 0 a.mould.word && SMap.wf 0 a.mould.delta && SMap.wf 0 a.mould.verified) &&
  s.isl.all (fun i => SMap.wf 0 i.mem && SMap.wf 0 i.delta)

/-! ### A core that runs undisturbed -/

/-- Translation is off, the units at PC lie in local SRAM, no CSR write is pending, no station is occupied, no STEP is under way and no
entry waits. -/
def Core.Fetches (c : Core) : Prop :=
  c.te = false ∧ c.pc.toNat + 6 ≤ 0x40000 ∧ c.shadow = none ∧ c.stations = Vector.replicate 4 none ∧ c.stepping = false ∧ c.entering = none

/-- And the vector unit is empty and holds no fault to report. -/
def Core.Settled (c : Core) : Prop := c.Fetches ∧ c.vec.queue = [] ∧ c.vec.valid = false

/-- Core `n` begins its next instruction now. -/
def State.Settled (s : State) (n : CoreId) : Prop := s.coreReady n = true ∧ (s.cores[n]).Settled

/-- A core as a plain instruction finds it: awake, SIP clear (spec/10 R246). -/
def Core.begun (c : Core) : Core := { c with asleep := false, cst := c.cst &&& 0xFFFFFF7F }

/-- The core goes on after `units` 16-bit units. -/
def Core.past (c : Core) (units : Nat) : Core := { c with pc := c.pc + BitVec.ofNat 32 (2 * units) }

/-- The outcome of an instruction of `units` units that changes core `n` by `f` and goes on behind it. -/
def State.retire (s : State) (n : CoreId) (units : Nat) (f : Core → Core) : Out := .next (s.setCore n (f ((s.cores[n]).begun.past units)))

/-- The same with the operand stack `l` left. -/
def State.leaves (s : State) (n : CoreId) (units : Nat) (l : List Slot) : Out := s.retire n units (fun c => { c with stack := l })

/-- The outcome of a transfer of control to `t` with the operand stack `l` left. -/
def State.jumps (s : State) (n : CoreId) (t : Word) (l : List Slot) : Out :=
  .next (s.setCore n { (s.cores[n]).begun with pc := t, stack := l })

/-- The little-endian word at local address `a`. -/
def Core.wordAt (c : Core) (a : Nat) : Word :=
  rdByte 0 c.sram (a + 3) ++ rdByte 0 c.sram (a + 2) ++ rdByte 0 c.sram (a + 1) ++ rdByte 0 c.sram a

/-- `a` is aligned to `size` and the access lies in local SRAM. -/
def reachable (a : Word) (size : Nat) : Prop := a.toNat % size = 0 ∧ a.toNat + size ≤ 0x40000

/-- Outside the bytes from `a` to `a + k - 1` local SRAM is the same in `c'` as in `c`. -/
def Core.SameOutside (c c' : Core) (a k : Nat) : Prop :=
  ∀ x, ¬ (a ≤ x ∧ x < a + k) → rdByte 0 c'.sram x = rdByte 0 c.sram x

/-- `c'` is what entry through vector `v` makes of `c`: six words stacked, SP down by 24, PRIV set, IE and SIP clear, PC from the vector
table, nothing else changed (spec/10 R244). -/
def Core.Entered (c c' : Core) (v : Nat) : Prop :=
  c' = { c with sp := c.sp - 24, cst := (c.cst &&& 0xFFFFFF7D) ||| 1, pc := c'.wordAt (c.vbase.toNat + 4 * v), sram := c'.sram, sramUe := c'.sramUe } ∧
  c'.wordAt (c.sp.toNat - 4) = c.pc ∧ c'.wordAt (c.sp.toNat - 8) = c.lk ∧ c'.wordAt (c.sp.toNat - 12) = c.cst ∧
  c'.wordAt (c.sp.toNat - 16) = BitVec.ofNat 32 c.depth ∧ c'.wordAt (c.sp.toNat - 20) = c.f[0] ∧ c'.wordAt (c.sp.toNat - 24) = c.f[1] ∧
  c.SameOutside c' (c.sp.toNat - 24) 24

/-- Entry through vector `v` can stack and can read its vector. -/
def Core.CanEnter (c : Core) (v : Nat) : Prop :=
  c.sp.toNat % 4 = 0 ∧ 24 ≤ c.sp.toNat ∧ c.sp.toNat ≤ 0x40000 ∧ c.vbase.toNat % 4 = 0 ∧ c.vbase.toNat + 4 * v + 4 ≤ 0x40000

end Sys2Proof.Machine
end

