-- ==== Sys2Proof/Certificates/Slice0/Obligations.lean ====
section
/-! DEFINITION. Certificates/Slice0/Obligations.lean: the statements about the model that the provers prove. -/

open Sys2Proof Sys2Proof.Machine

/-! ### The machine as a whole -/

/-- A step takes the command at the front of the queue and runs it with the rest (the model's queue: log 2). -/
def Obligations.StepRunsFront : Prop :=
  ∀ (c : Instr) (rest : List Instr) (s : State), s.pending = c :: rest → step s = exec c { s with pending := rest }

/-- With no command waiting and no transition or slot write in progress the block idles (DESIGN CHOICE, log 2); where a fabric is loaded,
one edge of its clocks changes the shore alone: its flip-flops, segment and cell registers and strobes, the pins and the release due on an
FREF edge, and serial engines may have sent the word at the head of their FIFO; the configuration, the flash and what the registers of the
block hold stay, and under GSR the flip-flops hold their initial values (spec/15 R350, R352, R361, R366; log 98). -/
def stepIdlesRule : Prop :=
  ∀ s : State, s.pending = [] → s.holm.lcStep = 0 → s.holm.slotJob = none →
    (s.shore.loaded = false ∨ s.shore.bits = none → step s = .next s) ∧
    (∀ b, s.shore.loaded = true → s.shore.bits = some b → ∃ t, step s = .next t ∧
      t = { s with fresh := s.fresh + 1, shore := { s.shore with
        segs := t.shore.segs, mcells := t.shore.mcells, engine := t.shore.engine, regs := t.shore.regs, taps := t.shore.taps, strobe := t.shore.strobe
        fbnd := t.shore.fbnd, uirq := t.shore.uirq, pins := t.shore.pins, pinsNext := t.shore.pinsNext, gsr := t.shore.gsr, st := t.shore.st
        release := t.shore.release, relLeft := t.shore.relLeft } } ∧
      (∀ e : Fin 8, t.shore.engine[e] = s.shore.engine[e] ∨ t.shore.engine[e] = { s.shore.engine[e] with tx := (s.shore.engine[e]).tx.tail }) ∧
      (s.shore.release = false → t.shore.gsr = s.shore.gsr ∧ t.shore.st = s.shore.st) ∧
      (s.shore.gsr = true → t.shore.mcells = b.init))

/-- The steps of a life-cycle transition follow on an empty queue (that they do is the model's reading, log 74): the wipe empties harbour,
core SRAM, moulds, mailboxes, journal and snapshots, and the wrapped keys but in PROVISIONED; then the LC bit behind those that the keep
store's header counts is burnt and the boot count starts anew; then the record is cleared; then the device is reset (spec/16 R391). -/
def lifeCycleStepsRule : Prop :=
  ∀ s : State, s.pending = [] →
    let h := s.holm
    let next := fun (P : State → Prop) => ∃ t, step s = .next t ∧ P t
    (h.lcStep = 3 → next (fun t => t.holm.lcStep = 4 ∧ t.events = [] ∧ t.harbour.mem = [] ∧ (∀ n : CoreId, (t.cores[n]).sram = []) ∧
      (∀ a : Arch, (t.arch[a]).mould.loaded = false ∧ (t.arch[a]).mould.word = []) ∧ (∀ P : Isl, (t.isl[P]).mem = []) ∧ t.holm.mbox = [] ∧
      t.holm.keep.snapA = none ∧ t.holm.keep.snapB = none ∧ t.holm.keep.journal = none ∧
      (h.keep.hdrLc ≠ 1 → t.holm.keep.wrapped = []) ∧ (h.keep.hdrLc = 1 → t.holm.keep.wrapped = h.keep.wrapped) ∧ t.holm.fuses = h.fuses)) ∧
    (h.lcStep = 4 → next (fun t => t.holm.lcStep = 5 ∧ t.holm.bootCount = 0 ∧ t.holm.keep = h.keep ∧
      (h.keep.hdrLc.toNat = h.lcCount.toNat → h.lcCount.toNat < 8 → t.holm.lcCount = h.lcCount + 1) ∧
      (h.keep.hdrLc.toNat < h.lcCount.toNat → t.holm.lcCount = h.lcCount))) ∧
    (h.lcStep = 5 → next (fun t => t.holm.lcStep = 6 ∧ t.holm.keep.transition = false ∧ t.holm.fuses = h.fuses)) ∧
    (h.lcStep = 6 → next (fun t => t.mode = .boot ∧ t.pwr.rstCause = 3 ∧ t.holm.lcStep = 0 ∧ t.holm.sessions = [] ∧ t.holm.fuses = h.fuses))

/-- No command of the table stops the machine, and none touches the queue or the fused grade. -/
def everyCommandAnswersRule : Prop :=
  ∀ (i : Instr) (s : State), ∃ t, exec i s = .next t ∧ t.pending = s.pending ∧ t.gradeC = s.gradeC

/-- The queue: with none waiting a step goes on with a life-cycle transition or a slot write (log 74), else with the loaded fabric alone
(logs 2, 98); every command answers a next state and leaves the queue behind it and the fused grade as they are. What a step does with
no command waiting is the model's choice (DESIGN CHOICE, logs 2 and 98; DEDUCED, log 74). -/
def Obligations.QueueStep : Prop := stepIdlesRule ∧ lifeCycleStepsRule ∧ everyCommandAnswersRule

/-- No step unburns a fuse: the life-cycle count, the slots programmed and revoked and the anti-rollback counters stay at or above any
floor they have reached. -/
def Obligations.FusesNeverUnburn : Prop :=
  ∀ (floor : Fuses) (s t : State), floor.upTo s.holm.fuses → step s = .next t → floor.upTo t.holm.fuses

/-- At reset the fuses stand at the least floor (nothing burnt: DESIGN CHOICE, log 4). -/
def Obligations.FusesAtReset : Prop := Fuses.upTo { lcCount := 0, slotProg := 0, slotRev := 0, counters := Vector.replicate 64 0 } State.reset.holm.fuses

/-- Only a life-cycle command, an image activation or a boot burns a fuse: no other command changes one. (The LC count of a transition
burns in the step that follows on the empty queue: QueueStep.) -/
def Obligations.FusesBurnOnlyHere : Prop :=
  ∀ (i : Instr) (s t : State),
    (∀ p, i ≠ .lcAdvance p ∧ i ≠ .programKeySlot p ∧ i ≠ .revokeKeySlot p ∧ i ≠ .imgActivate p) → (∀ b, i ≠ .bootSequence b) →
    exec i s = .next t → t.holm.fuses = s.holm.fuses

/-! ### Control cores (spec/10, spec/11) -/

/-- Stack moves. NOP, DUP, SWAP, OVER, ROT, PICK and PUT move slots of any kind without waiting (spec/11 Table 11.3). -/
def stackMovesRule : Prop :=
  ∀ (n : CoreId) (s : State) (x y z : Slot) (v w : Word) (k : Byte) (l r : List Slot), s.Settled n → r.length + l.length ≤ 252 →
    exec (.nop n) s = s.leaves n 1 (s.cores[n]).stack ∧
    ((s.cores[n]).stack = x :: r → exec (.dup n) s = s.leaves n 1 (x :: x :: r)) ∧
    ((s.cores[n]).stack = .val v :: r → exec (.drop n) s = s.leaves n 1 r) ∧
    ((s.cores[n]).stack = x :: y :: r → exec (.swap n) s = s.leaves n 1 (y :: x :: r)) ∧
    ((s.cores[n]).stack = x :: y :: r → exec (.over n) s = s.leaves n 1 (y :: x :: y :: r)) ∧
    ((s.cores[n]).stack = x :: y :: z :: r → exec (.rot n) s = s.leaves n 1 (z :: x :: y :: r)) ∧
    ((s.cores[n]).stack = l ++ x :: r → l.length = k.toNat → exec (.pick n k) s = s.leaves n 1 (x :: l ++ x :: r)) ∧
    ((s.cores[n]).stack = x :: l ++ .val w :: r → l.length = k.toNat → exec (.put n k) s = s.leaves n 1 (l ++ x :: r)) ∧
    ((s.cores[n]).stack = r → exec (.depth n) s = s.leaves n 1 (.val (BitVec.ofNat 32 r.length) :: r))

/-- Dropping a pending slot releases its tag (spec/10 R238). -/
def dropReleasesRule : Prop :=
  ∀ (n : CoreId) (s : State) (t : Fin 64) (r : List Slot), s.Settled n → (s.cores[n]).stack = .pend t :: r → ((s.cores[n]).tags[t]).alloc = true →
    ∃ u, exec (.drop n) s = .next u ∧ ((u.cores[n]).tags[t]).alloc = false ∧ (u.cores[n]).stack.length = r.length ∧
      ∀ j, j ≠ t → (u.cores[n]).tags[j] = (s.cores[n]).tags[j]

/-- Literals (spec/11 Table 11.4). -/
def literalsRule : Prop :=
  ∀ (n : CoreId) (s : State) (b : Byte) (h : BitVec 16) (w x : Word) (r : List Slot), s.Settled n → r.length ≤ 255 →
    ((s.cores[n]).stack = r → exec (.lit8 n b) s = s.leaves n 1 (.val (b.signExtend 32) :: r)) ∧
    ((s.cores[n]).stack = r → exec (.lit16 n h) s = s.leaves n 2 (.val (h.setWidth 32) :: r)) ∧
    ((s.cores[n]).stack = r → exec (.lit32 n w) s = s.leaves n 3 (.val w :: r)) ∧
    ((s.cores[n]).stack = .val x :: r → exec (.lithi n h) s = s.leaves n 2 (.val (h ++ x.setWidth 16) :: r))

/-- Stack moves and literals: the slots moved by NOP, DUP, DROP, SWAP, OVER, ROT, PICK and PUT, a tag released by dropping its pending slot,
and the words the literal instructions push (spec/11 Tables 11.3, 11.4; spec/10 R238). -/
def Obligations.StackAndLiterals : Prop := stackMovesRule ∧ dropReleasesRule ∧ literalsRule

/-- Instructions of one operand (spec/11 Table 11.5). -/
def aluOneOperandRule : Prop :=
  ∀ (n : CoreId) (s : State) (a : Word) (r : List Slot), s.Settled n → (s.cores[n]).stack = .val a :: r → r.length ≤ 255 →
    exec (.not n) s = s.leaves n 1 (.val (~~~a) :: r) ∧
    exec (.neg n) s = s.leaves n 1 (.val (-a) :: r) ∧
    exec (.clz n) s = s.leaves n 1 (.val (BitVec.ofNat 32 (32 - if a = 0 then 0 else a.toNat.log2 + 1)) :: r) ∧
    exec (.popc n) s = s.leaves n 1 (.val (BitVec.ofNat 32 ((List.range 32).countP (fun i => a.getLsbD i))) :: r) ∧
    exec (.sext8 n) s = s.leaves n 1 (.val ((a.setWidth 8).signExtend 32) :: r) ∧
    exec (.sext16 n) s = s.leaves n 1 (.val ((a.setWidth 16).signExtend 32) :: r) ∧
    exec (.sext18 n) s = s.leaves n 1 (.val ((a.setWidth 18).signExtend 32) :: r) ∧
    exec (.sat18 n) s = s.leaves n 1 (.val (BitVec.ofInt 32 (max (-131072) (min a.toInt 131071))) :: r)

/-- Instructions of two operands (spec/11 Table 11.5), and the edges of their ranges (R261). -/
def aluTwoOperandsRule : Prop :=
  ∀ (n : CoreId) (s : State) (a b : Word) (r : List Slot), s.Settled n → (s.cores[n]).stack = .val b :: .val a :: r → r.length ≤ 254 →
    exec (.add n) s = s.leaves n 1 (.val (a + b) :: r) ∧
    exec (.sub n) s = s.leaves n 1 (.val (a - b) :: r) ∧
    exec (.mul n) s = s.leaves n 1 (.val (a * b) :: r) ∧
    exec (.divu n) s = s.leaves n 1 (.val (if b = 0 then 0xFFFFFFFF else a / b) :: r) ∧
    exec (.divs n) s = s.leaves n 1 (.val (if b = 0 then 0xFFFFFFFF else a.sdiv b) :: r) ∧
    exec (.remu n) s = s.leaves n 1 (.val (if b = 0 then a else a % b) :: r) ∧
    exec (.rems n) s = s.leaves n 1 (.val (if b = 0 then a else a.srem b) :: r) ∧
    exec (.and n) s = s.leaves n 1 (.val (a &&& b) :: r) ∧
    exec (.or n) s = s.leaves n 1 (.val (a ||| b) :: r) ∧
    exec (.xor n) s = s.leaves n 1 (.val (a ^^^ b) :: r) ∧
    exec (.shl n) s = s.leaves n 1 (.val (a <<< b.toNat) :: r) ∧
    exec (.shr n) s = s.leaves n 1 (.val (a >>> b.toNat) :: r) ∧
    exec (.sar n) s = s.leaves n 1 (.val (a.sshiftRight b.toNat) :: r) ∧
    exec (.rol n) s = s.leaves n 1 (.val (a.rotateLeft (b.toNat % 32)) :: r) ∧
    exec (.min n) s = s.leaves n 1 (.val (if a.slt b then a else b) :: r) ∧
    exec (.max n) s = s.leaves n 1 (.val (if a.slt b then b else a) :: r) ∧
    exec (.mulwu n) s = s.leaves n 1 (.val (BitVec.ofNat 32 (a.toNat * b.toNat / 2 ^ 32)) :: .val (a * b) :: r) ∧
    exec (.mulws n) s = s.leaves n 1 (.val (BitVec.ofInt 32 (a.toInt * b.toInt / 2 ^ 32)) :: .val (a * b) :: r)

/-- Bit i of a field extracted by BFX (spec/11 R262). -/
def bfxBit (a ctl : Word) (i : Nat) : Bool :=
  let p := (ctl.toNat % 32)
  let w := ctl.toNat / 32 % 32 + 1
  if i < w then a.getLsbD (p + i) else ctl.getLsbD 10 && a.getLsbD (p + w - 1)

/-- Field and byte instructions, and the adds and subtracts with carry (spec/11 Table 11.5, R262, R263). -/
def aluFieldsRule : Prop :=
  ∀ (n : CoreId) (s : State) (a b c : Word) (r : List Slot), s.Settled n → r.length ≤ 253 →
    ((s.cores[n]).stack = .val b :: .val a :: r →
      ∃ f, exec (.bfx n) s = s.leaves n 1 (.val f :: r) ∧ ∀ i < 32, f.getLsbD i = bfxBit a b i) ∧
    ((s.cores[n]).stack = .val c :: .val b :: .val a :: r →
      ∃ f, exec (.bfi n) s = s.leaves n 1 (.val f :: r) ∧
        ∀ i < 32, f.getLsbD i = if c.toNat % 32 ≤ i ∧ i < c.toNat % 32 + (c.toNat / 32 % 32 + 1) then b.getLsbD (i - c.toNat % 32) else a.getLsbD i) ∧
    ((s.cores[n]).stack = .val b :: .val a :: r →
      ∃ b3 b2 b1 b0 : Byte, exec (.bperm n) s = s.leaves n 1 (.val (b3 ++ b2 ++ b1 ++ b0) :: r) ∧
        ∀ j < 4, ∀ byte prev : Byte, [b0, b1, b2, b3][j]? = some byte → prev = (if j = 0 then 0 else [b0, b1, b2, b3].getD (j - 1) 0) →
          byte = match b.toNat / 16 ^ j % 8 with
            | 0 => a.setWidth 8 | 1 => (a >>> 8).setWidth 8 | 2 => (a >>> 16).setWidth 8 | 3 => (a >>> 24).setWidth 8
            | 5 => 0xFF | 6 => if prev.msb then 0xFF else 0 | _ => 0) ∧
    ((s.cores[n]).stack = .val c :: .val b :: .val a :: r →
      exec (.adc n) s = s.leaves n 1 (.val (if 2 ^ 32 ≤ a.toNat + b.toNat + (c &&& 1).toNat then 1 else 0) :: .val (a + b + (c &&& 1)) :: r)) ∧
    ((s.cores[n]).stack = .val c :: .val b :: .val a :: r →
      exec (.sbc n) s = s.leaves n 1 (.val (if a.toNat < b.toNat + (c &&& 1).toNat then 1 else 0) :: .val (a - b - (c &&& 1)) :: r))

/-- Arithmetic and logic: what every instruction of spec/11 Table 11.5 leaves on the stack for its operands, with the edges of R261 and the
field and carry instructions of R262, R263; nothing but the stack and PC changes. -/
def Obligations.Arithmetic : Prop := aluOneOperandRule ∧ aluTwoOperandsRule ∧ aluFieldsRule

/-- Local loads (spec/11 Table 11.8): the bytes at an aligned address of local SRAM, sign- or zero-extended. -/
def localLoadsRule : Prop :=
  ∀ (n : CoreId) (s : State) (a : Word) (r : List Slot), s.Settled n → (s.cores[n]).stack = .val a :: r → r.length ≤ 255 →
    let m := fun k => rdByte 0 (s.cores[n]).sram (a.toNat + k)
    (reachable a 1 → exec (.ldb n) s = s.leaves n 1 (.val ((m 0).signExtend 32) :: r)) ∧
    (reachable a 1 → exec (.ldbu n) s = s.leaves n 1 (.val ((m 0).setWidth 32) :: r)) ∧
    (reachable a 2 → exec (.ldh n) s = s.leaves n 1 (.val ((m 1 ++ m 0).signExtend 32) :: r)) ∧
    (reachable a 2 → exec (.ldhu n) s = s.leaves n 1 (.val ((m 1 ++ m 0).setWidth 32) :: r)) ∧
    (reachable a 4 → exec (.ldw n) s = s.leaves n 1 (.val (m 3 ++ m 2 ++ m 1 ++ m 0) :: r))

/-- A store of `k` bytes of `v` at `a`: those bytes change, every other byte, register and unit stays (spec/11 Table 11.8). -/
def storesAt (s : State) (n : CoreId) (i : Instr) (a v : Word) (k : Nat) (r : List Slot) : Prop :=
  ∃ t, exec i s = .next t ∧
    t = s.setCore n { (s.cores[n]).begun.past 1 with stack := r, sram := (t.cores[n]).sram, sramUe := (t.cores[n]).sramUe } ∧
    (∀ j < k, rdByte 0 (t.cores[n]).sram (a.toNat + j) = (v >>> (8 * j)).setWidth 8) ∧ (s.cores[n]).SameOutside (t.cores[n]) a.toNat k

/-- Local stores. -/
def localStoresRule : Prop :=
  ∀ (n : CoreId) (s : State) (a v : Word) (r : List Slot), s.Settled n → (s.cores[n]).stack = .val a :: .val v :: r → r.length ≤ 254 →
    (reachable a 1 → storesAt s n (.stb n) a v 1 r) ∧
    (reachable a 2 → storesAt s n (.sth n) a v 2 r) ∧
    (reachable a 4 → storesAt s n (.stw n) a v 4 r)

/-- Local loads push, and local stores write, the bytes at an aligned address inside local SRAM; a store changes no other byte (spec/11
Table 11.8). -/
def Obligations.LocalAccesses : Prop := localLoadsRule ∧ localStoresRule

/-- What raising exception `cause` with EVAL `ev` makes of the state: the entry of spec/10 R244 with EPC the instruction's address
(R245). -/
def raises (s : State) (n : CoreId) (i : Instr) (cause : Nat) (ev : Word) : Prop :=
  ∃ t, exec i s = .next t ∧ t = s.setCore n (t.cores[n]) ∧
    Core.Entered { s.cores[n] with asleep := false, epc := (s.cores[n]).pc, ecause := BitVec.ofNat 32 cause, eval := ev } (t.cores[n]) cause

/-- A misaligned access raises ALIGN, an address outside local SRAM raises RANGE, with EVAL the address (spec/10 R247, Table 10.9). -/
def localFaultsRule : Prop :=
  ∀ (n : CoreId) (s : State) (a : Word) (v : Slot) (r : List Slot), s.Settled n → (s.cores[n]).stack = .val a :: v :: r → r.length ≤ 254 → v.pending = false →
    ((s.cores[n]).CanEnter 5 →
      (a.toNat % 4 ≠ 0 → raises s n (.ldw n) 5 a ∧ (∀ w, v = .val w → raises s n (.stw n) 5 a)) ∧
      (a.toNat % 2 ≠ 0 → raises s n (.ldh n) 5 a ∧ raises s n (.ldhu n) 5 a ∧ (∀ w, v = .val w → raises s n (.sth n) 5 a))) ∧
    ((s.cores[n]).CanEnter 0xD → 0x40000 ≤ a.toNat →
      raises s n (.ldb n) 0xD a ∧ raises s n (.ldbu n) 0xD a ∧ (∀ w, v = .val w → raises s n (.stb n) 0xD a) ∧
      (a.toNat % 4 = 0 → raises s n (.ldw n) 0xD a ∧ (∀ w, v = .val w → raises s n (.stw n) 0xD a)))

/-- The target of a relative transfer: the instruction's address plus twice the signed offset (spec/11 R266). -/
def relTo (s : State) (n : CoreId) (rel : BitVec 16) : Word := (s.cores[n]).pc + 2 * rel.signExtend 32

/-- Branches on two operands, on one, and unconditional (spec/11 Table 11.9). -/
def branchesRule : Prop :=
  ∀ (n : CoreId) (s : State) (rel : BitVec 16) (a b : Word) (r : List Slot), s.Settled n → (s.cores[n]).pc.getLsbD 0 = false → r.length ≤ 254 →
    let go := fun (taken : Bool) => s.jumps n (if taken then relTo s n rel else (s.cores[n]).pc + 4) r
    ((s.cores[n]).stack = .val b :: .val a :: r →
      exec (.beq n rel) s = go (a == b) ∧ exec (.bne n rel) s = go (a != b) ∧ exec (.blt n rel) s = go (a.slt b) ∧
      exec (.bge n rel) s = go (!a.slt b) ∧ exec (.bltu n rel) s = go (a.ult b) ∧ exec (.bgeu n rel) s = go (!a.ult b)) ∧
    ((s.cores[n]).stack = .val a :: r → exec (.beqz n rel) s = go (a == 0) ∧ exec (.bnez n rel) s = go (a != 0)) ∧
    ((s.cores[n]).stack = r → exec (.bra n rel) s = go true) ∧
    ((s.cores[n]).stack = .val a :: r → a.getLsbD 0 = false → exec (.jmp n) s = s.jumps n a r)

/-- CALLL, CALLI and RETL (spec/11 Table 11.10). -/
def linkCallsRule : Prop :=
  ∀ (n : CoreId) (s : State) (rel : BitVec 16) (a : Word) (r : List Slot), s.Settled n → (s.cores[n]).pc.getLsbD 0 = false → r.length ≤ 255 →
    exec (.calll n rel) s = .next (s.setCore n { (s.cores[n]).begun with pc := relTo s n rel, lk := (s.cores[n]).pc + 4 }) ∧
    ((s.cores[n]).stack = .val a :: r → a.getLsbD 0 = false →
      exec (.calli n) s = .next (s.setCore n { (s.cores[n]).begun with pc := a, lk := (s.cores[n]).pc + 2, stack := r })) ∧
    ((s.cores[n]).lk.getLsbD 0 = false → exec (.retl n) s = s.jumps n (s.cores[n]).lk (s.cores[n]).stack)

/-- Branches taken and not taken, and calls and returns by LK (spec/11 Tables 11.9, 11.10). -/
def Obligations.Transfers : Prop := branchesRule ∧ linkCallsRule

/-- The registers a frame mask names, in ascending order. -/
def named (mask : Byte) : List (Fin 8) := (List.finRange 8).filter (fun k => mask.getLsbD k.val)

/-- CALL builds the frame of spec/11 Table 11.11 below SP, and only it. -/
def callFrameRule : Prop :=
  ∀ (n : CoreId) (s : State) (mask : Byte) (rel : BitVec 24), s.Settled n → (s.cores[n]).pc.getLsbD 0 = false →
    let c := s.cores[n]
    let size := 4 * ((named mask).length + 2)
    c.sp.toNat % 4 = 0 → size ≤ c.sp.toNat → c.sp.toNat ≤ 0x40000 →
    ∃ t, exec (.call n mask rel) s = .next t ∧
      t = s.setCore n { c.begun with
        pc := c.pc + 2 * rel.signExtend 32, lk := c.pc + 6, sp := c.sp - BitVec.ofNat 32 size, sram := (t.cores[n]).sram, sramUe := (t.cores[n]).sramUe } ∧
      (t.cores[n]).wordAt (c.sp.toNat - size) = c.lk ∧ (t.cores[n]).wordAt (c.sp.toNat - size + 4) = mask.setWidth 32 ∧
      (∀ k (h : k < (named mask).length), (t.cores[n]).wordAt (c.sp.toNat - size + 8 + 4 * k) = c.f[(named mask)[k]]) ∧
      c.SameOutside (t.cores[n]) (c.sp.toNat - size) size

/-- RET reloads the named registers and LK from the frame at SP and goes on where LK pointed (spec/11 R268). -/
def retFrameRule : Prop :=
  ∀ (n : CoreId) (s : State) (mask : Byte), s.Settled n → (s.cores[n]).lk.getLsbD 0 = false →
    let c := s.cores[n]
    let size := 4 * ((named mask).length + 2)
    c.sp.toNat % 4 = 0 → c.sp.toNat + size ≤ 0x40000 → c.wordAt (c.sp.toNat + 4) = mask.setWidth 32 →
    ∃ t, exec (.ret n) s = .next t ∧
      t = s.setCore n { c.begun with pc := c.lk, lk := c.wordAt c.sp.toNat, sp := c.sp + BitVec.ofNat 32 size, f := (t.cores[n]).f } ∧
      (∀ k (h : k < (named mask).length), ((t.cores[n]).f)[(named mask)[k]] = c.wordAt (c.sp.toNat + 8 + 4 * k)) ∧
      ∀ j : Fin 8, j ∉ named mask → ((t.cores[n]).f)[j] = c.f[j]

/-- CALL builds its frame below SP and RET takes it down (spec/11 R267, R268, Table 11.11). -/
def Obligations.Frames : Prop := callFrameRule ∧ retFrameRule

/-- TRAP raises TRAP with EVAL its number; units that spell no instruction raise ILLEGAL (spec/11 R269, R256). -/
def trapAndIllegalRule : Prop :=
  ∀ (n : CoreId) (s : State) (imm : Byte) (us : List (BitVec 16)), s.Settled n →
    ((s.cores[n]).CanEnter 0xB → raises s n (.trap n imm) 0xB (imm.setWidth 32)) ∧
    ((s.cores[n]).CanEnter 1 → decodeUnits n (us.getD 0 0) (us.getD 1 0) (us.getD 2 0) = none →
      raises s n (.illegalInstruction n us) 1 (s.cores[n]).eval)

/-- RETI reloads the six stacked words and moves SP up by 24; TNT can only be set (spec/10 R245, R243, R161). -/
def Obligations.Reti : Prop :=
  ∀ (n : CoreId) (s : State), s.Settled n → (s.cores[n]).priv = true →
    let c := s.cores[n]
    c.sp.toNat % 4 = 0 → c.sp.toNat + 24 ≤ 0x40000 → c.wordAt (c.sp.toNat + 8) = BitVec.ofNat 32 c.depth → c.depth ≤ 256 →
    (c.wordAt (c.sp.toNat + 20)).getLsbD 0 = false →
    exec (.reti n) s = .next (s.setCore n { c.begun with
      pc := c.wordAt (c.sp.toNat + 20), lk := c.wordAt (c.sp.toNat + 16), sp := c.sp + 24
      cst := (c.wordAt (c.sp.toNat + 12) &&& 0xFF) ||| (c.cst &&& 0x40)
      f := (c.f.set 0 (c.wordAt (c.sp.toNat + 4))).set 1 (c.wordAt c.sp.toNat) })

/-- In user privilege the supervisor-only instructions raise PRIV (spec/10 R235, spec/11 R274). -/
def Obligations.SupervisorOnly : Prop :=
  ∀ (n : CoreId) (s : State) (k : Byte), s.Settled n → (s.cores[n]).priv = false → (s.cores[n]).CanEnter 2 →
    let ev := (s.cores[n]).eval
    raises s n (.reti n) 2 ev ∧ raises s n (.tlbinv n) 2 ev ∧ raises s n (.tlbinva n) 2 ev ∧ raises s n (.wfi n) 2 ev ∧
    (csrListed k.toNat = true → raises s n (.csrw n k) 2 ev) ∧
    (csrListed k.toNat = true → k.toNat ∉ [0, 6, 7, 8, 9] → raises s n (.csrr n k) 2 ev)

/-- The stack check comes before any effect: too few words raise STKUNF, a push at depth 256 STKOVF (spec/11 R258). -/
def stackCheckRule : Prop :=
  ∀ (n : CoreId) (s : State) (b : Byte), s.Settled n →
    let ev := (s.cores[n]).eval
    ((s.cores[n]).CanEnter 4 → (s.cores[n]).stack = [] →
      raises s n (.drop n) 4 ev ∧ raises s n (.dup n) 4 ev ∧ raises s n (.add n) 4 ev ∧ raises s n (.ldw n) 4 ev ∧ raises s n (.stw n) 4 ev ∧
      raises s n (.beq n 0) 4 ev ∧ raises s n (.jmp n) 4 ev ∧ raises s n (.pick n b) 4 ev) ∧
    ((s.cores[n]).CanEnter 3 → (s.cores[n]).stack.length = 256 →
      raises s n (.lit8 n b) 3 ev ∧ raises s n (.dup n) 3 ev ∧ raises s n (.over n) 3 ev ∧ raises s n (.depth n) 3 ev)

/-- Entries an instruction takes as its own effect or for its stack: TRAP, ILLEGAL and the stack check before any effect (spec/11 R258,
R269, R256; spec/10 R244, R247). -/
def Obligations.CoreExceptions : Prop := trapAndIllegalRule ∧ stackCheckRule

/-- Frame registers, CNT, SRC, DST, LK and SP (spec/11 Table 11.7). -/
def registerMovesRule : Prop :=
  ∀ (n : CoreId) (s : State) (k : Fin 8) (w : Word) (r : List Slot), s.Settled n → r.length ≤ 255 →
    let c := s.cores[n]
    (c.stack = r →
      exec (.rdr n (BitVec.ofNat 8 k.val)) s = s.leaves n 1 (.val c.f[k] :: r) ∧ exec (.rdr n 8) s = s.leaves n 1 (.val c.cnt :: r) ∧
      exec (.rdr n 9) s = s.leaves n 1 (.val c.src :: r) ∧ exec (.rdr n 10) s = s.leaves n 1 (.val c.dst :: r) ∧
      exec (.rdr n 11) s = s.leaves n 1 (.val c.lk :: r) ∧ exec (.rdr n 12) s = s.leaves n 1 (.val c.sp :: r)) ∧
    (c.stack = .val w :: r →
      exec (.wrr n (BitVec.ofNat 8 k.val)) s = s.retire n 1 (fun d => { d with stack := r, f := d.f.set k.val w }) ∧
      exec (.wrr n 8) s = s.retire n 1 (fun d => { d with stack := r, cnt := w }) ∧
      exec (.wrr n 9) s = s.retire n 1 (fun d => { d with stack := r, src := w }) ∧
      exec (.wrr n 10) s = s.retire n 1 (fun d => { d with stack := r, dst := w }) ∧
      exec (.wrr n 11) s = s.retire n 1 (fun d => { d with stack := r, lk := w }) ∧
      (w.toNat % 4 = 0 → exec (.wrr n 12) s = s.retire n 1 (fun d => { d with stack := r, sp := w })) ∧
      (w.toNat % 4 ≠ 0 → c.CanEnter 5 → raises s n (.wrr n 12) 5 w))

/-- CSR reads and writes in supervisor privilege: the registers of spec/10 Table 10.4, and the mode shadow of R242. -/
def csrMovesRule : Prop :=
  ∀ (n : CoreId) (s : State) (w : Word) (r : List Slot), s.Settled n → (s.cores[n]).priv = true → r.length ≤ 255 →
    let c := s.cores[n]
    (c.stack = r →
      exec (.csrr n 0x00) s = s.leaves n 1 (.val (c.cst &&& 0xFFFFFF7F) :: r) ∧ exec (.csrr n 0x01) s = s.leaves n 1 (.val c.ccfg :: r) ∧
      exec (.csrr n 0x02) s = s.leaves n 1 (.val c.vbase :: r) ∧ exec (.csrr n 0x03) s = s.leaves n 1 (.val c.epc :: r) ∧
      exec (.csrr n 0x04) s = s.leaves n 1 (.val c.ecause :: r) ∧ exec (.csrr n 0x05) s = s.leaves n 1 (.val c.eval :: r) ∧
      exec (.csrr n 0x0A) s = s.leaves n 1 (.val c.ien :: r) ∧ exec (.csrr n 0x0B) s = s.leaves n 1 (.val c.ptbr :: r) ∧
      exec (.csrr n 0x0C) s = s.leaves n 1 (.val c.tmr :: r) ∧ exec (.csrr n 0x0F) s = s.leaves n 1 (.val (BitVec.ofNat 32 n.val) :: r)) ∧
    (c.stack = .val w :: r →
      exec (.csrw n 0x02) s = s.retire n 1 (fun d => { d with stack := r, vbase := w &&& 0xFFFFFF00 }) ∧
      exec (.csrw n 0x03) s = s.retire n 1 (fun d => { d with stack := r, epc := w }) ∧
      exec (.csrw n 0x05) s = s.retire n 1 (fun d => { d with stack := r, eval := w }) ∧
      exec (.csrw n 0x0A) s = s.retire n 1 (fun d => { d with stack := r, ien := w &&& 0xFFFFDFFF }) ∧
      exec (.csrw n 0x0C) s = s.retire n 1 (fun d => { d with stack := r, tmr := w }) ∧
      (∀ k : Byte, k ∈ [0x00, 0x01, 0x0B, 0x10] → exec (.csrw n k) s = s.retire n 1 (fun d => { d with stack := r, shadow := some (k, w) })))

/-- The instruction after a CSR write runs under the old setting; the write takes effect behind it (spec/10 R242). -/
def modeShadowRule : Prop :=
  ∀ (n : CoreId) (s : State) (w : Word), State.Settled { s with cores := vmod s.cores n (fun c => { c with shadow := none }) } n →
    (s.cores[n]).shadow = some (0x01, w) →
    exec (.nop n) s = s.retire n 1 (fun d => { d with shadow := none, ccfg := w &&& 7 })

/-- Register moves, CSR reads and writes in supervisor privilege, and the one instruction that still runs under the old setting after a
write (spec/11 Table 11.7; spec/10 Table 10.4, R242). -/
def Obligations.RegistersAndCsrs : Prop := registerMovesRule ∧ csrMovesRule ∧ modeShadowRule

/-- String instructions without the prefix handle one element and leave CNT (spec/11 R270, Table 11.12). -/
def stringElementRule : Prop :=
  ∀ (n : CoreId) (s : State) (v : Word) (r : List Slot) (brk : Option Nat), s.Settled n → (s.cores[n]).sip = false → r.length ≤ 254 →
    let c := s.cores[n]
    let m := fun (a : Word) k => rdByte 0 c.sram (a.toNat + k)
    let rel := fun (x y : Word) => if x = y then (0 : Word) else if y.ult x then 1 else 0xFFFFFFFF
    -- `copies t a k b`: the k bytes at `a` become `b`, the rest stays
    let copies := fun (t : State) (a : Word) (k : Nat) (b : Nat → Byte) =>
      (∀ j < k, rdByte 0 (t.cores[n]).sram (a.toNat + j) = b j) ∧ c.SameOutside (t.cores[n]) a.toNat k
    (reachable c.src 1 → reachable c.dst 1 → c.stack = r →
      ∃ t, exec (.scpyb n .none brk) s = .next t ∧ copies t c.dst 1 (m c.src) ∧
        t = s.setCore n { c.begun.past 1 with src := c.src + 1, dst := c.dst + 1, sram := (t.cores[n]).sram, sramUe := (t.cores[n]).sramUe }) ∧
    (reachable c.src 4 → reachable c.dst 4 → c.stack = r →
      ∃ t, exec (.scpyw n .none brk) s = .next t ∧ copies t c.dst 4 (m c.src) ∧
        t = s.setCore n { c.begun.past 1 with src := c.src + 4, dst := c.dst + 4, sram := (t.cores[n]).sram, sramUe := (t.cores[n]).sramUe }) ∧
    (reachable c.dst 1 → c.stack = .val v :: r →
      ∃ t, exec (.sfilb n .none brk) s = .next t ∧ copies t c.dst 1 (fun _ => v.setWidth 8) ∧
        t = s.setCore n { c.begun.past 1 with dst := c.dst + 1, sram := (t.cores[n]).sram, sramUe := (t.cores[n]).sramUe }) ∧
    (reachable c.dst 4 → c.stack = .val v :: r →
      ∃ t, exec (.sfilw n .none brk) s = .next t ∧ copies t c.dst 4 (fun j => (v >>> (8 * j)).setWidth 8) ∧
        t = s.setCore n { c.begun.past 1 with dst := c.dst + 4, sram := (t.cores[n]).sram, sramUe := (t.cores[n]).sramUe }) ∧
    (reachable c.src 1 → reachable c.dst 1 → c.stack = r →
      exec (.scmpb n .none brk) s = s.retire n 1 (fun d => { d with
        src := c.src + 1, dst := c.dst + 1, stack := .val (rel ((m c.src 0).setWidth 32) ((m c.dst 0).setWidth 32)) :: r })) ∧
    (reachable c.src 4 → reachable c.dst 4 → c.stack = r →
      exec (.scmpw n .none brk) s = s.retire n 1 (fun d => { d with
        src := c.src + 4, dst := c.dst + 4, stack := .val (rel (c.wordAt c.src.toNat) (c.wordAt c.dst.toNat)) :: r })) ∧
    (reachable c.dst 1 → c.stack = .val v :: r →
      exec (.sfndb n .none brk) s = s.retire n 1 (fun d => { d with
        dst := c.dst + 1, stack := .val (rel ((m c.dst 0).setWidth 32) (v &&& 0xFF)) :: .val v :: r })) ∧
    (reachable c.dst 4 → c.stack = .val v :: r →
      exec (.sfndw n .none brk) s = s.retire n 1 (fun d => { d with
        dst := c.dst + 4, stack := .val (rel (c.wordAt c.dst.toNat) v) :: .val v :: r }))

/-- Under RPT with CNT = 0 no element is handled; SCMP and SFND push 0 (spec/11 R270). -/
def stringEmptyRule : Prop :=
  ∀ (n : CoreId) (s : State) (v : Word) (r : List Slot) (brk : Option Nat), s.Settled n → (s.cores[n]).sip = false → r.length ≤ 254 → (s.cores[n]).cnt = 0 →
    let l := Slot.val v :: r
    ((s.cores[n]).stack = l →
      exec (.scpyb n .always brk) s = s.leaves n 2 l ∧ exec (.scpyw n .always brk) s = s.leaves n 2 l ∧
      exec (.sfilb n .always brk) s = s.leaves n 2 l ∧ exec (.sfilw n .always brk) s = s.leaves n 2 l) ∧
    (∀ p, p ≠ RptPrefix.none → (s.cores[n]).stack = l →
      exec (.scmpb n p brk) s = s.leaves n 2 (.val 0 :: l) ∧ exec (.scmpw n p brk) s = s.leaves n 2 (.val 0 :: l) ∧
      exec (.sfndb n p brk) s = s.leaves n 2 (.val 0 :: l) ∧ exec (.sfndw n p brk) s = s.leaves n 2 (.val 0 :: l))

/-- RPT SFILB fills CNT bytes from DST upward and only these (spec/11 R270), where no interrupt breaks it off. -/
def rptFillRule : Prop :=
  ∀ (n : CoreId) (s : State) (v : Word) (r : List Slot), s.Settled n → (s.cores[n]).sip = false → (s.cores[n]).stack = .val v :: r → r.length ≤ 255 →
    let c := s.cores[n]
    c.dst.toNat + c.cnt.toNat ≤ 0x40000 →
    ∃ t, exec (.sfilb n .always none) s = .next t ∧
      t = s.setCore n { c.begun.past 2 with cnt := 0, dst := c.dst + c.cnt, sram := (t.cores[n]).sram, sramUe := (t.cores[n]).sramUe } ∧
      (∀ j < c.cnt.toNat, rdByte 0 (t.cores[n]).sram (c.dst.toNat + j) = v.setWidth 8) ∧ c.SameOutside (t.cores[n]) c.dst.toNat c.cnt.toNat

/-- String instructions: one element without the prefix, none under RPT with CNT = 0, and RPT SFILB whole (spec/11 R270, Table 11.12). -/
def Obligations.Strings : Prop := stringElementRule ∧ stringEmptyRule ∧ rptFillRule

/-- SAVESTK stores the depth and the words, bottom first, and leaves the stack empty (spec/11 R259), where no interrupt breaks it off. -/
def saveStackRule : Prop :=
  ∀ (n : CoreId) (s : State) (a : Word) (ws : List Word), s.Settled n → (s.cores[n]).sip = false → (s.cores[n]).stack = .val a :: ws.map .val →
    ws.length ≤ 255 → a.toNat % 4 = 0 → a.toNat + 4 * ws.length + 4 ≤ 0x40000 →
    ∃ t, exec (.savestk n none) s = .next t ∧
      t = s.setCore n { (s.cores[n]).begun.past 1 with
        stack := [], cnt := 0, dst := a, sram := (t.cores[n]).sram, sramUe := (t.cores[n]).sramUe } ∧
      (t.cores[n]).wordAt a.toNat = BitVec.ofNat 32 ws.length ∧
      (∀ k (h : k < ws.length), (t.cores[n]).wordAt (a.toNat + 4 * (ws.length - k)) = ws[k]) ∧
      (s.cores[n]).SameOutside (t.cores[n]) a.toNat (4 * ws.length + 4)

/-- LOADSTK pushes the words of a save area from a + 4 upward (spec/11 R259), where no interrupt breaks it off. -/
def loadStackRule : Prop :=
  ∀ (n : CoreId) (s : State) (a : Word) (d : Nat) (r : List Slot), s.Settled n → (s.cores[n]).sip = false → (s.cores[n]).stack = .val a :: r →
    let c := s.cores[n]
    a.toNat % 4 = 0 → a.toNat + 4 * d + 4 ≤ 0x40000 → c.wordAt a.toNat = BitVec.ofNat 32 d → d + r.length ≤ 256 → r.length < 256 →
    exec (.loadstk n none) s = s.retire n 1 (fun e => { e with
      cnt := 0, src := a + 4 + BitVec.ofNat 32 (4 * d)
      stack := ((List.range d).reverse.map (fun k => Slot.val (c.wordAt (a.toNat + 4 + 4 * k)))) ++ r })

/-- SAVESTK stores the stack in its area and empties it, LOADSTK pushes it back, where no interrupt breaks them off (spec/11 R259). -/
def Obligations.StackSaving : Prop := saveStackRule ∧ loadStackRule

/-- An instruction of class 0x20 to 0x3F with a pending operand parks in the lowest free station, its result pending on the station
(spec/10 R239). -/
def pendingParksRule : Prop :=
  ∀ (n : CoreId) (s : State) (t : Fin 64) (a : Word) (r : List Slot), s.Settled n → (s.cores[n]).stack = .pend t :: .val a :: r → r.length ≤ 254 →
    ∃ u, exec (.add n) s = .next u ∧ (u.cores[n]).stack.length = r.length + 1 ∧ (u.cores[n]).stack.head? = some (.stn 0 false) ∧
      (u.cores[n]).stations[0] = some { op := .alu .add, args := [.val a, .pend t] } ∧ (u.cores[n]).pc = (s.cores[n]).pc + 2

/-- A parked instruction runs once its operands have filled, and its result fills its slots (spec/10 R239). -/
def stationRunsRule : Prop :=
  ∀ (n : CoreId) (s : State) (k : Fin 4) (op : AluOp) (ws : List Word), s.coreOn n = true → (s.cores[n]).haltReq = false →
    (s.cores[n]).stations[k] = some { op := .alu op, args := ws.map .val } →
    ∃ u, exec (.stationExecute n k) s = .next u ∧ (u.cores[n]).stations[k] = none ∧
      (u.cores[n]).stack = (s.cores[n]).stack.map (fun sl => if sl = .stn k false then .val ((op.run ws).getD 0 0) else
        if sl = .stn k true then .val ((op.run ws).getD 1 0) else sl) ∧ (u.cores[n]).sram = (s.cores[n]).sram

/-- An instruction with a pending operand parks in the lowest free station and runs once its operands have filled (spec/10 R239). -/
def Obligations.Stations : Prop := pendingParksRule ∧ stationRunsRule

/-- The lowest tag that is not allocated is `t`, and it is free for use (spec/10 R238). -/
def lowestFree (c : Core) (t : Fin 64) : Prop :=
  (c.tags[t]).alloc = false ∧ (c.tags[t]).out = false ∧ (c.tags[t]).quar = false ∧ ∀ j : Fin 64, j < t → (c.tags[j]).alloc = true

/-- The far access of core `n` at address `a` under tag `t`. -/
def farReq (s : State) (n : CoreId) (t : Fin 64) (op : ReqOp) (a : Word) : Request :=
  { src := ⟨n.val, by omega⟩, tag := BitVec.ofNat 8 t.val, user := !(s.cores[n]).priv, op := op, addr := a.setWidth 40 }

/-- `i` issues request `op` under tag `t`: the tag is allocated and its answer due, the stack is `l`, the request leaves, and no other
tag, register or core and no byte of local memory changes. -/
def issues (s : State) (n : CoreId) (i : Instr) (t : Fin 64) (op : ReqOp) (a : Word) (l : List Slot) : Prop :=
  ∃ u, exec i s = .next u ∧ u.net.requests = s.net.requests ++ [farReq s n t op a] ∧ (∀ m, m ≠ n → u.cores[m] = s.cores[m]) ∧
    ((u.cores[n]).tags[t]).alloc = true ∧ ((u.cores[n]).tags[t]).out = true ∧ (∀ j, j ≠ t → (u.cores[n]).tags[j] = (s.cores[n]).tags[j]) ∧
    u.cores[n] = { (s.cores[n]).begun.past 1 with stack := l, tags := (u.cores[n]).tags, order := (u.cores[n]).order }

/-- Far loads and atomics push a pending slot, far stores push nothing; each allocates the lowest free tag (spec/10 R238, spec/11 Table
11.13). -/
def farAccessesRule : Prop :=
  ∀ (n : CoreId) (s : State) (t : Fin 64) (a v : Word) (r : List Slot), s.Settled n → (s.cores[n]).priv = true ∨ (s.cores[n]).ccfg.getLsbD 1 = true →
    lowestFree (s.cores[n]) t → s.pwr.fence.getLsbD (304 + n.val) = false → 0x40000 ≤ a.toNat → r.length ≤ 254 →
    ((s.cores[n]).stack = .val a :: r →
      issues s n (.fldb n) t (.read 1) a (.pend t :: r) ∧ issues s n (.fldbu n) t (.read 1) a (.pend t :: r) ∧
      (a.toNat % 2 = 0 → issues s n (.fldh n) t (.read 2) a (.pend t :: r) ∧ issues s n (.fldhu n) t (.read 2) a (.pend t :: r)) ∧
      (a.toNat % 4 = 0 → issues s n (.fldw n) t (.read 4) a (.pend t :: r))) ∧
    ((s.cores[n]).stack = .val a :: .val v :: r →
      issues s n (.fstb n) t (.write [v.setWidth 8]) a r ∧
      (a.toNat % 2 = 0 → issues s n (.fsth n) t (.write [v.setWidth 8, (v >>> 8).setWidth 8]) a r) ∧
      (a.toNat % 4 = 0 →
        issues s n (.fstw n) t (.write [v.setWidth 8, (v >>> 8).setWidth 8, (v >>> 16).setWidth 8, (v >>> 24).setWidth 8]) a r ∧
        issues s n (.faadd32 n) t (.atomic .add32 (v.setWidth 64)) a (.pend t :: r) ∧
        issues s n (.faadds18 n) t (.atomic .addS18 (v.setWidth 64)) a (.pend t :: r) ∧
        issues s n (.faswap32 n) t (.atomic .swap32 (v.setWidth 64)) a (.pend t :: r)))

/-- A far address inside local SRAM raises RANGE; user privilege without UFAR raises PRIV (spec/11 R273). -/
def farFaultsRule : Prop :=
  ∀ (n : CoreId) (s : State) (a : Word) (r : List Slot), s.Settled n → (s.cores[n]).stack = .val a :: r → r.length ≤ 255 →
    ((s.cores[n]).CanEnter 0xD → (s.cores[n]).priv = true → a.toNat < 0x40000 → a.toNat % 4 = 0 → raises s n (.fldw n) 0xD a) ∧
    ((s.cores[n]).CanEnter 2 → (s.cores[n]).priv = false → (s.cores[n]).ccfg.getLsbD 1 = false → raises s n (.fldw n) 2 (s.cores[n]).eval)

/-- Accesses that fault: misaligned or outside local SRAM, a far address inside local SRAM, a far access in user privilege without UFAR
(spec/10 R247; spec/11 R273). -/
def Obligations.AccessFaults : Prop := localFaultsRule ∧ farFaultsRule

/-- The response that FAR_RESPONSE takes for tag `tag` of core `n`: the first of its tag whose packet has come. -/
def taken (s : State) (n : CoreId) (tag : BitVec 6) : Option Response :=
  s.net.responses.find? (fun r => decide (r.dst.val = n.val) && decide (r.tag = tag.setWidth 8) && !s.underway (.rsp r))

/-- The completion it takes where no such response is there. -/
def completed (s : State) (n : CoreId) (tag : BitVec 6) : Option Completion :=
  s.pour.compl.find? (fun x => decide (x.core = n) && decide (x.tag = tag) && !s.underway (.compl x))

/-- A response answered OK fills every slot pending on its tag with its value, extended as the access asked, any other poisons them; one
to a far store ends it, failed where it was not OK; TIMEOUT and COLLIDED taint; a response under a tag in quarantine is counted late; a
completion fills with its word and raises the interrupt of its priority (spec/10 R238, R241; spec/11 Table 11.13; spec/13 R313; spec/05
R133). -/
def responseFillsRule : Prop :=
  ∀ (n : CoreId) (s : State) (tag : BitVec 6),
    let t : Fin 64 := ⟨tag.toNat, tag.isLt⟩
    let c := s.cores[n]
    let g := c.tags[t]
    let fills := fun (f : Slot) (u : State) => ((u.cores[n]).tags[t]).out = false ∧
      (u.cores[n]).stack = c.stack.map (fun sl => if sl = .pend t then f else sl) ∧ (u.cores[n]).sram = c.sram ∧ ∀ m, m ≠ n → u.cores[m] = s.cores[m]
    let value := fun (v : Nat) => if g.alloc then Slot.fill t (fillValue g.kind v) else .val (fillValue g.kind v)
    (∀ rsp, taken s n tag = some rsp →
      ∃ u, exec (.farResponse n tag) s = .next u ∧ u.net.responses = s.net.responses.erase rsp ∧
        (g.quar = true → ((u.cores[n]).tags[t]).quar = false ∧ (u.cores[n]).stack = c.stack ∧
          ∀ i : Fin 32, i.val = n.val → (u.net.stat[i]).lateCnt = satInc (s.net.stat[i]).lateCnt) ∧
        (g.quar = false → g.out = true →
          (g.store = false → rsp.status = .ok → fills (value (natLE rsp.data)) u) ∧
          (g.store = false → rsp.status ≠ .ok → fills (.poison t g.alloc rsp.status g.addr) u) ∧
          (g.store = true → ((u.cores[n]).tags[t]).out = false ∧ (u.cores[n]).stack = c.stack ∧ (rsp.status = .ok → (u.cores[n]).failed = c.failed) ∧
            (rsp.status ≠ .ok → { order := g.order, far := true, tag := tag, status := rsp.status, addr := g.addr } ∈ (u.cores[n]).failed)) ∧
          (rsp.status = .timeout ∨ rsp.status = .collided → (u.cores[n]).tnt = true))) ∧
    (taken s n tag = none → ∀ x, completed s n tag = some x →
      ∃ u, exec (.farResponse n tag) s = .next u ∧ u.pour.compl = s.pour.compl.erase x ∧
        (u.cores[n]).irq.getLsbD (4 + (fld x.word 21 3 : BitVec 3).toNat) = true ∧ (g.store = false → fills (value x.word.toNat) u)) ∧
    (taken s n tag = none → completed s n tag = none → exec (.farResponse n tag) s = .next s)

/-- POUR hands the 16-byte record at its address to the pour port under a new tag; TAGWAIT takes a filled slot and releases its tag
(spec/11 Table 11.13, spec/05 R127). -/
def pourAndTagwaitRule : Prop :=
  ∀ (n : CoreId) (s : State) (t : Fin 64) (p w : Word) (r : List Slot), s.Settled n → r.length ≤ 255 →
    let c := s.cores[n]
    let rec' : PourRec := { bits := BitVec.ofNat 128 (natLE (rdBytes 0 c.sram (p.toNat / 16 * 16) 16)), core := n, tag := BitVec.ofNat 6 t.val }
    (c.priv = true ∨ c.ccfg.getLsbD 2 = true → lowestFree c t → s.pwr.fence.getLsbD (304 + n.val) = false → p.toNat + 16 ≤ 0x40000 → (s.pour.buf[n]).length < 4 → s.pourRefusal rec' = none →
      c.stack = .val p :: r →
      ∃ u, exec (.pour n) s = .next u ∧ u.pour = { s.pour with buf := s.pour.buf.set n.val (s.pour.buf[n] ++ [rec']) } ∧
        ((u.cores[n]).tags[t]).alloc = true ∧ (u.cores[n]).stack = .pend t :: r ∧ (u.cores[n]).sram = c.sram) ∧
    (c.stack = .val w :: r → exec (.tagwait n) s = s.leaves n 1 (.val w :: r)) ∧
    (c.stack = .fill t w :: r →
      ∃ u, exec (.tagwait n) s = .next u ∧ (u.cores[n]).stack.head? = some (.val w) ∧ ((u.cores[n]).tags[t]).alloc = false ∧ (u.cores[n]).sram = c.sram)

/-- FENCE completes when every tag is answered and every station empty, and releases the tags of far stores (spec/10 R239, R238). -/
def fenceRule : Prop :=
  ∀ (n : CoreId) (s : State), s.Settled n → (∀ t : Fin 64, ((s.cores[n]).tags[t]).out = false) → (s.cores[n]).failed = [] →
    (∀ sl ∈ (s.cores[n]).stack, ∀ t l st a, sl ≠ .poison t l st a) →
    exec (.fence n) s = s.retire n 1 (fun d => { d with tags := d.tags.map (fun t => if t.store then { t with alloc := false } else t) })

/-- POUR hands a record to the pour port, TAGWAIT takes a filled slot, FENCE completes when nothing is outstanding (spec/11 Table 11.13;
spec/05 R127; spec/10 R238, R239). -/
def Obligations.TagsAndPours : Prop := pourAndTagwaitRule ∧ fenceRule

/-- TLBINV, TLBINVA and WFI in supervisor privilege (spec/11 Table 11.14). -/
def systemInstructionsRule : Prop :=
  ∀ (n : CoreId) (s : State) (a : Word) (r : List Slot), s.Settled n → (s.cores[n]).priv = true → r.length ≤ 255 →
    exec (.tlbinv n) s = s.retire n 1 (fun d => { d with tlb := Vector.replicate 32 none, walkFault := none }) ∧
    exec (.wfi n) s = s.retire n 1 (fun d => { d with asleep := true }) ∧
    ((s.cores[n]).stack = .val a :: r →
      ∃ u, exec (.tlbinva n) s = .next u ∧
        u = s.setCore n { (s.cores[n]).begun.past 1 with stack := r, tlb := (u.cores[n]).tlb, walkFault := none } ∧
        ∀ j : Fin 32, (u.cores[n]).tlb[j] = if (((s.cores[n]).tlb[j]).any (fun e => e.maps a)) then none else (s.cores[n]).tlb[j])

/-- A customer slot that is enabled runs its body on a working copy and commits it as one instruction; disabled, or with a nonzero
operand that it does not take, it raises ILLEGAL (spec/11 R275, R278). -/
def customerSlotRule : Prop :=
  ∀ (n : CoreId) (s : State) (k : Fin 16) (imm : Byte) (ws : List Word) (r : List Slot) (c' : Core), s.Settled n →
    let c := s.cores[n]
    let e := c.slots[k]
    let on := c.ccfg.getLsbD 0 = true ∧ e.getLsbD 31 = true ∧ c.sloten.getLsbD k.val = true
    (on → e.getLsbD 29 = false → imm = 0 → (e.getLsbD 30 = true → c.priv = true) → c.stack = ws.map .val ++ r → ws.length = (fld e 11 4).toNat →
      c.stack.length + (fld e 7 4).toNat ≤ 256 →
      Core.runBody (s.coreEnv n) (fld e 15 8).toNat 64 0 c.begun = .ok c' →
      exec (.customerInstruction n k imm) s = .next (s.setCore n { c' with pc := c.pc + 2 })) ∧
    (¬ on → c.CanEnter 1 → raises s n (.customerInstruction n k imm) 1 c.eval) ∧
    (on → e.getLsbD 29 = false → imm ≠ 0 → c.CanEnter 1 → raises s n (.customerInstruction n k imm) 1 c.eval)

/-- System instructions in supervisor privilege and the customer slots: an enabled slot commits its body as one instruction, a disabled one
raises ILLEGAL (spec/11 Table 11.14, R275, R278). -/
def Obligations.SystemAndCustomer : Prop := systemInstructionsRule ∧ customerSlotRule

/-! ### What happens at a core from outside -/

/-- The lowest enabled request is entered at an instruction boundary, its edge latch cleared (spec/10 R244). -/
def interruptEntryRule : Prop :=
  ∀ (n : CoreId) (s : State) (k : Nat), (s.pwr.on.getLsbD (304 + n.val)) = true → (s.cores[n]).Settled → (s.cores[n]).halted = false →
    (s.cores[n]).haltReq = false → (s.cores[n]).selftest = false → (s.cores[n]).late = none → (s.cores[n]).ie = true → k < 32 → (s.enabledIrq n).getLsbD k = true →
    (∀ j < k, (s.enabledIrq n).getLsbD j = false) → (s.cores[n]).CanEnter (32 + k) →
    ∃ c', Core.Entered s.cores[n] c' (32 + k) ∧
      exec (.interruptEntry n) s = .next (s.setCore n { c' with irq := c'.irq &&& ~~~((1 : Word) <<< k), asleep := false })

/-- The timer raises interrupt 31 while TMR is not 0; CDBELL raises interrupt 30 (spec/10 Table 10.8, R255). -/
def timerAndDoorbellRule : Prop :=
  ∀ (n : CoreId) (s : State) (acc : Acc),
    (s.coreOn n = true → (s.cores[n]).tmr ≠ 0 →
      exec (.coreTimerExpiry n) s = .next (s.setCore n { s.cores[n] with irq := (s.cores[n]).irq ||| 0x80000000 })) ∧
    ((s.cores[n]).tmr = 0 → exec (.coreTimerExpiry n) s = .next s) ∧
    (s.coreGate acc n = none →
      ∃ t, exec (.cdbellRing acc n) s = .next t ∧ t.cores = s.cores.set n.val { s.cores[n] with irq := (s.cores[n]).irq ||| 0x40000000 })

/-- The lowest enabled request is entered at an instruction boundary; the timer and CDBELL raise their interrupts (spec/10 R244, Table 10.8,
R255). -/
def Obligations.Interrupts : Prop := interruptEntryRule ∧ timerAndDoorbellRule

/-- A walk that ends: its two entries are read in turn, the one found goes to the TLB, or the fault waits for the access (spec/10 R249,
R250): here with the tables in local SRAM, or with the level-1 entry read before. -/
def walkCompletesRule : Prop :=
  ∀ (n : CoreId) (s : State),
    let c := s.cores[n]
    (c.walk = none → exec (.tableWalkComplete n) s = .next s) ∧
    (∀ va, c.walk = some va →
      let word := fun (a : PAddr) => (BitVec.ofNat 64 (natLE (c.sramRead a.toNat 8)) : DWord)
      let fails := fun (bits : Word) =>
        exec (.tableWalkComplete n) s = .next (s.setCore n { c with walk := none, walkL1 := none, walkFault := some (va, bits) })
      let second := fun (e1 : DWord) => inSram (l2Addr e1 va) 8 = true →
        (c.ueAt (l2Addr e1 va).toNat 8 = true → fails 0x200) ∧
        (c.ueAt (l2Addr e1 va).toNat 8 = false → l2Bad (word (l2Addr e1 va)) = true → fails 0) ∧
        (c.ueAt (l2Addr e1 va).toNat 8 = false → l2Bad (word (l2Addr e1 va)) = false →
          ∃ t, exec (.tableWalkComplete n) s = .next t ∧
            t = s.setCore n { c with walk := none, walkL1 := none, tlb := (t.cores[n]).tlb, tlbNext := (t.cores[n]).tlbNext } ∧
            ∃ j : Fin 32, (t.cores[n]).tlb[j] = some { vpn := fld va 12 20, pte := word (l2Addr e1 va) } ∧ ∀ k, k ≠ j → (t.cores[n]).tlb[k] = c.tlb[k])
      (∀ e1, c.walkL1 = some e1 → l1Bad e1 = false → second e1) ∧
      (c.walkL1 = none → inSram (l1Addr c.ptbr va) 8 = true →
        (c.ueAt (l1Addr c.ptbr va).toNat 8 = true → fails 0x200) ∧
        (c.ueAt (l1Addr c.ptbr va).toNat 8 = false →
          (l1Bad (word (l1Addr c.ptbr va)) = true → fails 0) ∧
          (l1Bad (word (l1Addr c.ptbr va)) = false → second (word (l1Addr c.ptbr va))))))

/-- Far accesses allocate a tag and send a request, its response fills the slots that wait on it, and a walk that ends fills the TLB
(spec/10 R238, R249, R250; spec/11 Table 11.13). -/
def Obligations.FarData : Prop := farAccessesRule ∧ responseFillsRule ∧ walkCompletesRule

/-- CCTL: RST leaves the core reset and halted with its SRAM wiped, HALT asks for a halt and 0 releases; outside SERVICE only HC writes
it, and STEP is refused to everyone; in SERVICE a halted core runs one instruction (here a NOP) and is halted again (spec/10 R252). -/
def Obligations.CoreControl : Prop :=
  ∀ (n : CoreId) (s : State) (acc : Acc), s.coreGate acc n = none →
    (s.mode = .service ∨ acc.src.val = 4 →
      (∃ t, exec (.cctlRst acc n) s = .next t ∧ (t.cores[n]).halted = true ∧ (t.cores[n]).haltReq = true ∧ (t.cores[n]).sram = [] ∧
        (t.cores[n]).stack = [] ∧ (t.cores[n]).pc = 0 ∧ (t.cores[n]).sp = 0x40000 ∧ (t.cores[n]).cst = 1 ∧
        ∀ m, m ≠ n → t.cores[m] = s.cores[m]) ∧
      (∃ t, exec (.cctlHalt acc n false) s = .next t ∧ t.cores[n] = { s.cores[n] with haltReq := false, stepping := false, halted := (s.cores[n]).dfault }) ∧
      (∃ t, exec (.cctlHalt acc n true) s = .next t ∧ (t.cores[n]).haltReq = true ∧
        ((∀ k : Fin 64, ((s.cores[n]).tags[k]).out = false) → (s.cores[n]).stations = Vector.replicate 4 none → (s.cores[n]).vec.queue = [] →
          (s.cores[n]).stepping = false → (t.cores[n]).halted = true))) ∧
    (s.mode ≠ .service → acc.src.val ≠ 4 →
      (∃ t, exec (.cctlRst acc n) s = .next t ∧ t.cores = s.cores) ∧ (∃ t, exec (.cctlHalt acc n true) s = .next t ∧ t.cores = s.cores)) ∧
    (s.mode ≠ .service → ∃ t, exec (.cctlStep acc n) s = .next t ∧ t.cores = s.cores) ∧
    (s.mode = .service → (s.cores[n]).halted = true → (s.cores[n]).walk = none → State.Settled (s.setCore n { s.cores[n] with haltReq := false, halted := false }) n →
      rdByte 0 (s.cores[n]).sram (s.cores[n]).pc.toNat = 0 → rdByte 0 (s.cores[n]).sram ((s.cores[n]).pc.toNat + 1) = 0 →
      ∃ t, exec (.cctlStep acc n) s = .next t ∧ (t.cores[n]).pc = (s.cores[n]).pc + 2 ∧ (t.cores[n]).halted = true ∧
        (t.cores[n]).stack = (s.cores[n]).stack ∧ (t.cores[n]).sram = (s.cores[n]).sram ∧ ∀ m, m ≠ n → t.cores[m] = s.cores[m])

/-! ### The vector unit (spec/12) -/

/-- Vector rows that enqueue (masks, moves and mask compares): the row, its operation, the scalars it takes. -/
def vecMasks : List ((CoreId → VArgs → Instr) × VOp × Nat) :=
  [(.vmvsx, .mvsx, 2), (.vmwr, .mwr, 2), (.vmand, .mask .and, 0), (.vmor, .mask .or, 0), (.vmxor, .mask .xor, 0), (.vmnot, .mask .not, 0),
   (.vmv, .mv, 0), (.vcmpeq, .cmp .eq, 0), (.vcmpne, .cmp .ne, 0), (.vcmplt, .cmp .lt, 0), (.vcmpltu, .cmp .ltu, 0), (.vcmple, .cmp .le, 0),
   (.vcmpleu, .cmp .leu, 0), (.vcmpgt, .cmp .gt, 0), (.vcmpgtu, .cmp .gtu, 0), (.vfcmpeq, .fcmp .eq, 0), (.vfcmplt, .fcmp .lt, 0),
   (.vfcmple, .fcmp .le, 0), (.vfcmpun, .fcmp .un, 0)]

/-- Vector rows that enqueue (integer operations): the row, its operation, the scalars it takes. -/
def vecInts : List ((CoreId → VArgs → Instr) × VOp × Nat) :=
  [(.vadd, .int .add, 0), (.vsub, .int .sub, 0), (.vadds, .int .adds, 0), (.vsubs, .int .subs, 0), (.vmul, .int .mul, 0), (.vmin, .int .min, 0),
   (.vmax, .int .max, 0), (.vminu, .int .minu, 0), (.vmaxu, .int .maxu, 0), (.vand, .int .and, 0), (.vor, .int .or, 0), (.vxor, .int .xor, 0),
   (.vshl, .int .shl, 0), (.vshr, .int .shr, 0), (.vsar, .int .sar, 0), (.vneg, .int .neg, 0), (.vabs, .int .abs, 0), (.vaddX, .intX .add, 1),
   (.vsubX, .intX .sub, 1), (.vaddsX, .intX .adds, 1), (.vsubsX, .intX .subs, 1), (.vmulX, .intX .mul, 1), (.vminX, .intX .min, 1),
   (.vmaxX, .intX .max, 1), (.vminuX, .intX .minu, 1), (.vmaxuX, .intX .maxu, 1), (.vandX, .intX .and, 1), (.vorX, .intX .or, 1),
   (.vxorX, .intX .xor, 1), (.vshlX, .intX .shl, 1), (.vshrX, .intX .shr, 1), (.vsarX, .intX .sar, 1)]

/-- Vector rows that enqueue (floating operations, conversions, reductions and products): the row, its operation, the scalars it takes. -/
def vecFloats : List ((CoreId → VArgs → Instr) × VOp × Nat) :=
  [(.vwmul, .wmul, 0), (.vdot4, .dot4, 0), (.vdot2, .dot2, 0), (.vdots18, .dots18, 0), (.vfadd, .flt .add, 0), (.vfsub, .flt .sub, 0),
   (.vfmul, .flt .mul, 0), (.vfma, .flt .fma, 0), (.vfdiv, .flt .div, 0), (.vfsqrt, .flt .sqrt, 0), (.vfmin, .flt .min, 0), (.vfmax, .flt .max, 0),
   (.vfneg, .flt .neg, 0), (.vfabs, .flt .abs, 0), (.vcvtF32S18, .cvt .f32s18, 0), (.vcvtS18F32, .cvt .s18f32, 0), (.vcvtF16F32, .cvt .f16f32, 0),
   (.vcvtF32F16, .cvt .f32f16, 0), (.vcvtF32I32, .cvt .f32i32, 0), (.vcvtI32F32, .cvt .i32f32, 0), (.vredsum, .red .sum, 0),
   (.vredmin, .red .min, 0), (.vredmax, .red .max, 0), (.vredminu, .red .minu, 0), (.vredmaxu, .red .maxu, 0), (.vfredsum, .red .fsum, 0),
   (.vfredmin, .red .fmin, 0), (.vfredmax, .red .fmax, 0)]

/-- Vector rows that enqueue (memory): the row, its operation, the scalars it takes. -/
def vecMems : List ((CoreId → VArgs → Instr) × VOp × Nat) :=
  [(.vld, .mem .ld, 1), (.vst, .mem .st, 1), (.vlds, .mem .lds, 2), (.vsts, .mem .sts, 2), (.vldx, .mem .ldx, 1), (.vstx, .mem .stx, 1)]

/-- A vector instruction enters the queue with its captured state, and control goes on behind it (spec/12 R284). `ws` are the scalars,
top first; the entry keeps the deepest first. -/
def vecIssues (s : State) (n : CoreId) (i : Instr) (op : VOp) (v : VArgs) (k : Nat) (ws : List Word) (r : List Slot) : Prop :=
  let c := s.cores[n]
  exec i s = s.retire n 2 (fun d => { d with
    stack := r
    vec := { c.vec with queue := c.vec.queue ++ [{
      pc := c.pc, op := some op, args := v, k := k, a := ws.reverse.getD 0 0, b := ws.reverse.getD 1 0, nsc := ws.length, vl := c.vec.vl, grp := c.vec.grp
      rm := fld c.vec.vctrl 0 2, ftz := if (s.coreEnv n).vflush then c.vec.vctrl.getLsbD 2 else c.ftz, start := 0 }] } })

/-- Every vector instruction that the unit executes queues behind the earlier ones when its fields, type, registers and VL are legal and
there is room (spec/12 R284). -/
def vectorIssueRule : Prop :=
  ∀ (n : CoreId) (s : State) (v : VArgs) (ws : List Word) (r : List Slot), s.coreReady n = true → (s.cores[n]).Fetches → (s.cores[n]).ve = true →
    (s.cores[n]).vec.valid = false → (s.cores[n]).vec.queue.length < 4 → (s.cores[n]).stack = ws.map .val ++ r → r.length + ws.length ≤ 256 →
    (∀ row ∈ vecMasks ++ vecInts ++ vecFloats ++ vecMems, ws.length = row.2.2 → row.2.1.legal v 0 (s.cores[n]).vec.vl.toNat (s.cores[n]).vec.grp = true →
      vecIssues s n (row.1 n v) row.2.1 v 0 ws r) ∧
    (∀ k : BitVec 5, ws.length = 1 → (VOp.mem .deal).legal v k.toNat (s.cores[n]).vec.vl.toNat (s.cores[n]).vec.grp = true →
      vecIssues s n (.vdeal n v k) (.mem .deal) v k.toNat ws r ∧ vecIssues s n (.vweave n v k) (.mem .weave) v k.toNat ws r)

/-- With VE clear, with type code 7, or with a destination that does not start a group, a vector instruction raises ILLEGAL (spec/12 R282,
R287). -/
def vectorIllegalRule : Prop :=
  ∀ (n : CoreId) (s : State) (v : VArgs), s.Settled n → (s.cores[n]).CanEnter 1 →
    ((s.cores[n]).ve = false → ∀ row ∈ vecMasks ++ vecInts ++ vecFloats ++ vecMems, raises s n (row.1 n v) 1 (s.cores[n]).eval) ∧
    (v.ty = 7 → ∀ row ∈ vecMasks ++ vecInts ++ vecFloats ++ vecMems, raises s n (row.1 n v) 1 (s.cores[n]).eval) ∧
    (v.vd.toNat % grpSize (s.cores[n]).vec.grp ≠ 0 → ∀ row ∈ vecInts ++ vecMems, raises s n (row.1 n v) 1 (s.cores[n]).eval)

/-- Vector instructions that are legal queue at the vector unit; with VE clear or illegal fields they raise ILLEGAL (spec/12 R282, R284,
R287). -/
def Obligations.VectorQueue : Prop := vectorIssueRule ∧ vectorIllegalRule

/-- VSETVL sets VL to the smaller of the operand and the capacity of the group for the type, and pushes it (spec/12 R284, R283). -/
def vsetvlRule : Prop :=
  ∀ (n : CoreId) (s : State) (v : VArgs) (w : Word) (r : List Slot), s.Settled n → (s.cores[n]).ve = true → r.length ≤ 255 →
    v.men = false → v.vs1 = 0 → v.vs2 = 0 → v.vd = 0 → v.ty ≠ 7 → (s.cores[n]).stack = .val w :: r →
    let bits := [8, 16, 32, 64, 32, 16, 32].getD v.ty.toNat 32
    let vl := min w.toNat (128 * grpSize (s.cores[n]).vec.grp / bits)
    exec (.vsetvl n v) s = s.retire n 2 (fun d => { d with stack := .val (BitVec.ofNat 32 vl) :: r, vec := { d.vec with vl := BitVec.ofNat 7 vl } })

/-- VMVXS, VMRD and VSYNC once the unit is empty (spec/12 R286, R287). -/
def vectorReadsRule : Prop :=
  ∀ (n : CoreId) (s : State) (v : VArgs) (w : Word) (r : List Slot), s.Settled n → (s.cores[n]).ve = true → r.length ≤ 254 → v.men = false → v.vs2 = 0 →
    let c := s.cores[n]
    exec (.vsync n) s = s.leaves n 2 c.stack ∧
    (v.vs1 = 0 → v.ty = 0 → (h : v.vd.toNat < 4) → c.stack = r →
      exec (.vmrd n v) s = s.leaves n 2 (.val (((c.vec.vm[v.vd.toNat]) >>> 32).setWidth 32) :: .val ((c.vec.vm[v.vd.toNat]).setWidth 32) :: r)) ∧
    (v.vd = 0 → v.vs1.toNat % grpSize c.vec.grp = 0 → v.vs1.toNat + grpSize c.vec.grp ≤ 32 →
      c.vec.vl.toNat ≤ 128 * grpSize c.vec.grp / laneW v.ty → c.stack = .val w :: r →
      (v.ty = 2 ∨ v.ty = 6 → w.toNat < 4 * grpSize c.vec.grp →
        exec (.vmvxs n v) s = s.leaves n 2 (.val (BitVec.ofNat 32 (c.vec.get v.vs1.toNat 32 w.toNat)) :: r)) ∧
      (v.ty = 0 → w.toNat < 16 * grpSize c.vec.grp →
        exec (.vmvxs n v) s = s.leaves n 2 (.val ((BitVec.ofNat 8 (c.vec.get v.vs1.toNat 8 w.toNat)).signExtend 32) :: r)) ∧
      (v.ty = 0 → 16 * grpSize c.vec.grp ≤ w.toNat → exec (.vmvxs n v) s = s.leaves n 2 (.val 0 :: r)))

/-- VSETVL, and the instructions that return a scalar once the unit is empty (spec/12 R283, R284, R286, R287). -/
def Obligations.VectorScalars : Prop := vsetvlRule ∧ vectorReadsRule

/-- VRESUME puts the fault record back in front of the queue, entry 0 from VSTART, and empties the record (spec/12 R298). -/
def vresumeRule : Prop :=
  ∀ (n : CoreId) (s : State) (x : VEntry) (q : List VEntry), s.coreReady n = true → (s.cores[n]).Fetches → (s.cores[n]).ve = true →
    let c := s.cores[n]
    (c.vec.valid = false → exec (.vresume n) s = s.leaves n 2 c.stack) ∧
    (c.vec.valid = true → c.vec.faulted = x :: q →
      exec (.vresume n) s = s.retire n 2 (fun d => { d with vec := { c.vec with
        valid := false, rpt := false, vstart := 0, faulted := [], queue := { x with start := c.vec.vstart.toNat } :: q ++ c.vec.queue
        kind := (c.vec.clearFault).kind, e := (c.vec.clearFault).e, vfpc := (c.vec.clearFault).vfpc, vfva := (c.vec.clearFault).vfva } }))

/-- VSAVE writes the registers of spec/12 Table 12.11 to its area and nothing outside it; VLOAD reads them back (R300), where no
interrupt breaks them off. -/
def vectorContextRule : Prop :=
  ∀ (n : CoreId) (s : State) (a : Word) (r : List Slot), s.Settled n → (s.cores[n]).sip = false → (s.cores[n]).ve = true → (s.cores[n]).stack = .val a :: r →
    r.length ≤ 255 → a.toNat % 4 = 0 → a.toNat + 656 ≤ 0x40000 →
    let c := s.cores[n]
    -- `image d v`: the area in the memory of `d` holds registers, masks and the first five CSRs of `v`
    let image := fun (d : Core) (v : VecUnit) =>
      (∀ (k : Fin 32) (j : Fin 4), d.wordAt (a.toNat + 16 * k.val + 4 * j.val) = ((v.v[k]) >>> (32 * j.val)).setWidth 32) ∧
      (∀ (k : Fin 4) (j : Fin 2), d.wordAt (a.toNat + 512 + 8 * k.val + 4 * j.val) = ((v.vm[k]) >>> (32 * j.val)).setWidth 32) ∧
      d.wordAt (a.toNat + 544) = v.grp.setWidth 32 ∧ d.wordAt (a.toNat + 548) = v.vl.setWidth 32 ∧ d.wordAt (a.toNat + 552) = v.vstart.setWidth 32 ∧
      d.wordAt (a.toNat + 556) = v.vctrl.setWidth 32 ∧ d.wordAt (a.toNat + 560) = v.vflags.setWidth 32
    (∃ t, exec (.vsave n none) s = .next t ∧ image (t.cores[n]) c.vec ∧ c.SameOutside (t.cores[n]) a.toNat 656 ∧
      t = s.setCore n { c.begun.past 2 with
        stack := r, cnt := 0, dst := a + 656, sram := (t.cores[n]).sram, sramUe := (t.cores[n]).sramUe }) ∧
    (∀ v : VecUnit, image c v → v.vl.toNat ≤ 64 → (∀ p, (s.coreEnv n).vctrl = some p → v.vctrl = fld p 0 3) → (c.wordAt (a.toNat + 564)).toNat % 2 ^ 17 = 0 →
      ∃ t, exec (.vload n none) s = .next t ∧ t = s.setCore n { c.begun.past 2 with stack := r, cnt := 0, src := a + 656, vec := (t.cores[n]).vec } ∧
        (t.cores[n]).vec.v = v.v ∧ (t.cores[n]).vec.vm = v.vm ∧ (t.cores[n]).vec.grp = v.grp ∧ (t.cores[n]).vec.vl = v.vl ∧
        (t.cores[n]).vec.vstart = v.vstart ∧ (t.cores[n]).vec.vctrl = v.vctrl ∧ (t.cores[n]).vec.vflags = v.vflags)

/-- VRESUME puts the fault record back, VSAVE and VLOAD move the vector context (spec/12 R298, R300). -/
def Obligations.VectorKeeping : Prop := vresumeRule ∧ vectorContextRule

/-- The unit executes the front of its queue (spec/12 R284): an integer operation writes element i of vd for every active i below VL and
keeps every other element and register; a compare writes its mask register, zero from VL on (R287). -/
def Obligations.VectorElements : Prop :=
  ∀ (n : CoreId) (s : State) (x : VEntry) (q : List VEntry), s.coreOn n = true → (s.cores[n]).haltReq = false → (s.cores[n]).late = none →
    (s.cores[n]).vec.valid = false → (s.cores[n]).vec.queue = x :: q →
    let c := s.cores[n]
    let g := grpSize x.grp
    let w := laneW x.args.ty
    let d := x.args.vd.toNat
    let active := fun i => i < x.vl.toNat ∧ (x.args.men = true → (c.vec.vm[0]).getLsbD i = true)
    let elems := fun (f : Nat → Nat) => ∃ t, exec (.vectorExecute n) s = .next t ∧
      t = s.setCore n { c with vec := { c.vec with queue := q, v := (t.cores[n]).vec.v } } ∧
      (∀ i < 128 * g / w, active i → (t.cores[n]).vec.get d w i = f i % 2 ^ w) ∧
      (∀ i < 128 * g / w, ¬ active i → (t.cores[n]).vec.get d w i = c.vec.get d w i) ∧
      ∀ r : Fin 32, ¬ (d ≤ r.val ∧ r.val < d + g) → (t.cores[n]).vec.v[r] = c.vec.v[r]
    let mask := fun (k : Fin 4) (f : Nat → Prop) => ∃ t, exec (.vectorExecute n) s = .next t ∧
      t = s.setCore n { c with vec := { c.vec with queue := q, vm := (t.cores[n]).vec.vm } } ∧
      (∀ i < 64, ((t.cores[n]).vec.vm[k]).getLsbD i = true ↔
        (i < x.vl.toNat ∧ (active i → f i) ∧ (¬ active i → (c.vec.vm[k]).getLsbD i = true))) ∧
      ∀ j : Fin 4, j ≠ k → (t.cores[n]).vec.vm[j] = c.vec.vm[j]
    (∀ p, x.op = some (.int p) → (VOp.int p).legal x.args x.k x.vl.toNat x.grp = true →
      elems (fun i => p.eval x.args.ty (c.vec.get x.args.vs1.toNat w i) (c.vec.get x.args.vs2.toNat w i))) ∧
    (∀ p, x.op = some (.intX p) → (VOp.intX p).legal x.args x.k x.vl.toNat x.grp = true →
      elems (fun i => p.eval x.args.ty (c.vec.get x.args.vs1.toNat w i) (scalarElem x.args.ty x.a))) ∧
    (x.op = some .mv → VOp.mv.legal x.args x.k x.vl.toNat x.grp = true →
      elems (fun i => if x.args.ty = 4 then ((BitVec.ofNat 18 (c.vec.get x.args.vs1.toNat w i)).signExtend 32).toNat else c.vec.get x.args.vs1.toNat w i)) ∧
    (∀ p, x.op = some (.cmp p) → (VOp.cmp p).legal x.args x.k x.vl.toNat x.grp = true → (h : d < 4) →
      mask ⟨d, h⟩ (fun i => p.eval x.args.ty (c.vec.get x.args.vs1.toNat w i) (c.vec.get x.args.vs2.toNat w i) = true))

/-- What the integer operations and compares compute on unsigned and signed elements of 8, 16, 32 and 64 bits (spec/12 R288). -/
def Obligations.VectorArithmetic : Prop :=
  ∀ (ty : BitVec 3) (x y : BitVec (laneW ty)), ty.toNat < 4 →
    let v := fun (o : VIntOp) => o.eval ty x.toNat y.toNat
    let w := laneW ty
    v .add = (x + y).toNat ∧ v .sub = (x - y).toNat ∧ v .mul = (x * y).toNat ∧ v .and = (x &&& y).toNat ∧ v .or = (x ||| y).toNat ∧
    v .xor = (x ^^^ y).toNat ∧ v .min = (if x.sle y then x else y).toNat ∧ v .max = (if x.sle y then y else x).toNat ∧
    v .minu = min x.toNat y.toNat ∧ v .maxu = max x.toNat y.toNat ∧ v .shl = (x <<< y.toNat).toNat ∧ v .shr = (x >>> y.toNat).toNat ∧
    v .sar = (x.sshiftRight y.toNat).toNat ∧ v .neg = (-x).toNat ∧ v .abs = (if x.msb then -x else x).toNat ∧
    v .adds = (BitVec.ofInt w (max (-2 ^ (w - 1)) (min (x.toInt + y.toInt) (2 ^ (w - 1) - 1)))).toNat ∧
    v .subs = (BitVec.ofInt w (max (-2 ^ (w - 1)) (min (x.toInt - y.toInt) (2 ^ (w - 1) - 1)))).toNat ∧
    VCmpOp.eq.eval ty x.toNat y.toNat = (x == y) ∧ VCmpOp.ne.eval ty x.toNat y.toNat = (x != y) ∧ VCmpOp.lt.eval ty x.toNat y.toNat = x.slt y ∧
    VCmpOp.ltu.eval ty x.toNat y.toNat = x.ult y ∧ VCmpOp.le.eval ty x.toNat y.toNat = x.sle y ∧ VCmpOp.leu.eval ty x.toNat y.toNat = x.ule y ∧
    VCmpOp.gt.eval ty x.toNat y.toNat = y.slt x ∧ VCmpOp.gtu.eval ty x.toNat y.toNat = y.ult x

/-- A memory element that is misaligned or outside local SRAM ends the execution: the fault record takes the entry and those behind it,
the elements before it stay done, and nothing of the faulting one is (spec/12 R294, R295, Table 12.6): here for a contiguous load. -/
def Obligations.VectorFault : Prop :=
  ∀ (n : CoreId) (s : State) (x : VEntry) (q : List VEntry), s.coreOn n = true → (s.cores[n]).haltReq = false → (s.cores[n]).late = none →
    (s.cores[n]).te = false → (s.cores[n]).stations = Vector.replicate 4 none → (s.cores[n]).vec.valid = false → (s.cores[n]).vec.queue = x :: q → x.op = some (.mem .ld) →
    x.args.men = false → x.start = 0 → 0 < x.vl.toNat →
    let c := s.cores[n]
    let b := laneW x.args.ty / 8
    let record := fun (kind : BitVec 4) => exec (.vectorExecute n) s = .next (s.setCore n { c with walkFault := none, vec := { c.vec with
      valid := true, rpt := false, kind := kind, e := 0, vfpc := x.pc, vfva := x.a, vstart := 0, faulted := (x :: q).take 5, queue := [] } })
    (x.a.toNat % b ≠ 0 → record 1) ∧ (x.a.toNat % b = 0 → 0x40000 ≤ x.a.toNat → record 2)

/-! ### The array and its sequencers (spec/02 to spec/06) -/

/-- A truth-table bit: index 4 A + 2 B + C (spec/02 R38). -/
def ttBit (tt : BitVec 8) (a b c : Bool) : Bool := tt.getLsbD (4 * a.toNat + 2 * b.toNat + c.toNat)

/-- One pour cycle of one PE on clean memory: F and C' from the truth tables of A, B and C as they were, X, Y, N and K as the microword
says, and one plane written where WCOND lets it (spec/02 R34 to R40). -/
def elementCycleRule : Prop :=
  ∀ (i : IslSt) (q : PourIn) (j : Nat), j < 256 → q.odd = false → q.planeIn = none → q.twx = false → i.delta = [] → i.inj = false →
    let w := q.w
    let v := i.pour q
    let sel := fun (s : BitVec 3) (pl : PeVec) => match s.toNat with
      | 0 => (i.raw q.pa).getLsbD j | 1 => i.x.getLsbD j | 2 => i.y.getLsbD j | 3 => i.n.getLsbD j | 4 => mwBit w | 5 => i.k.getLsbD j
      | 6 => pl.getLsbD j | _ => false
    let f := ttBit (mwTt w) (sel (mwAsel w) (i.raw q.pb)) (sel (mwBsel w) (i.raw q.pb)) (i.c.getLsbD j)
    let c' := if mwCwe w then ttBit (mwCt w) (sel (mwAsel w) (i.raw q.pb)) (sel (mwBsel w) (i.raw q.pb)) (i.c.getLsbD j) else i.c.getLsbD j
    let n' := if mwNews w = 0 then i.n.getLsbD j else q.news.getLsbD j
    let k' := match (mwKop w).toNat with | 0 => i.k.getLsbD j | 1 => f | 2 => i.k.getLsbD j && f | _ => true
    let item := match (mwWsrc w).toNat with | 0 => f | 1 => c' | 2 => n' | _ => k'
    let writes := match (mwWcond w).toNat with | 0 => false | 1 => i.k.getLsbD j | 2 => true | _ => !i.k.getLsbD j
    v.f.getLsbD j = f ∧ v.isl.c.getLsbD j = c' ∧ v.isl.n.getLsbD j = n' ∧ v.isl.k.getLsbD j = k' ∧ v.isl.t = i.t ∧
    v.isl.x.getLsbD j = (if mwXld w then f else i.x.getLsbD j) ∧ v.isl.y.getLsbD j = (if mwYld w then f else i.y.getLsbD j) ∧
    (v.isl.raw q.pw).getLsbD j = (if writes then item else (i.raw q.pw).getLsbD j) ∧ ∀ p, p ≠ q.pw → v.isl.raw p = i.raw p

/-- The vendor words of the trap preambles and restores stand clean in the mould of `a` (spec/04 R110, log 9). -/
def Sys2Proof.Machine.State.TrapWords (s : State) (a : Arch) : Prop := ∀ p < 64, SMap.get (0 : BitVec 9) (s.arch[a]).mould.delta p = 0

/-- `ms` is the stream of `a`, its sequencers run, its islands are ready and distinct and no reserve shadows one of them, no trap is due and
permitted, no STEP is under way and no Caenater routine runs by contract (spec/03 R82, spec/04 R105, R116; spec/02 R56; log 27). -/
def Sys2Proof.Machine.State.Steady (s : State) (a : Arch) (ms : List Arch) : Prop :=
  s.streamOf a = ms ∧ a ∈ ms ∧ s.alive ms = true ∧ s.streamReady ms = true ∧ s.faulted ms = false ∧ s.trapNow a = none ∧
  (s.arch[s.leadOf a]).seq.stepSlot = none ∧ s.routine (s.leadOf a) = none ∧
  (∀ m ∈ ms, (s.arch[m]).twin.found = [] ∧ s.shadowPair m = none) ∧
  (∀ m ∈ ms, ∀ m' ∈ ms, ∀ p q : Fin 32, s.islAt m p = s.islAt m' q → m = m' ∧ p = q)

/-- Every member of the stream fetches the word `w`, which is no fault, and no reduction result that it takes is still on its way (spec/03
R66, R82, R85, R91; spec/02 R52; spec/04 R116: the moulds of a stream are identical). -/
def Sys2Proof.Machine.State.Fetches (s : State) (a : Arch) (ms : List Arch) (w : Micro) : Prop :=
  ∀ m ∈ ms, ((s.arch[m]).mould.fetch (s.arch[m]).seq.pc).1 = some w ∧ s.wordFault m (s.leadOf a) w (s.arch[m]).seq.pc = none ∧
    (∀ k ∈ s.wants (s.leadOf a) w, (s.arch[m]).seq.ctx.red.pending k = false) ∧
    (mwLdl w = 3 → ∀ p : Fin 32, (s.isl[s.islAt m p]).waiting = [])

/-- The edge planes that `w` moves: a lattice move finds a credit for the plane it sends, or has sent it, and `edges` holds the plane that
the neighbour on the named side has sent with this cycle's number; any other word moves none (spec/02 R49, spec/08 R198). -/
def Sys2Proof.Machine.State.EdgesFor (s : State) (a : Arch) (w : Micro) (edges : Vector PeVec 4) : Prop :=
  let side := newsSide w
  let opp : Fin 4 := ix 4 ((side.val + 2) % 4)
  (s.edgeMove (s.leadOf a) w = false → edges = Vector.replicate 4 0) ∧
  (s.edgeMove (s.leadOf a) w = true →
    (∀ lane, s.neighbour opp = some lane → s.lattice.edgeSent = true ∨ 0 < (s.straits[linkNo lane]).credits) ∧
    (s.neighbour side = none → edges = Vector.replicate 4 0) ∧
    (∀ lane, s.neighbour side = some lane → s.latLink lane = true ∧
      ∃ v rest, (s.straits[linkNo lane]).edgeRx = (s.lattice.cycle, v) :: rest ∧ edges = (Vector.replicate 4 0).set side.val v))

/-- The microword leaves the routine: DISPATCH, or RET on the empty stack with its condition true (spec/03 R71). -/
def Sys2Proof.Machine.State.Leaves (s : State) (a : Arch) (w : Micro) : Prop :=
  mwNxt w = 6 ∨ (mwNxt w = 3 ∧ s.cond (s.leadOf a) (s.leadOf a) w (mwCond w).toNat = true ∧ (s.arch[s.leadOf a]).seq.ctx.stack = [])

/-- What `m`'s PE at position `p` is given by the microword `w`. -/
def Sys2Proof.Machine.State.pourInOf (s : State) (a m : Arch) (p : Fin 32) (w : Micro) (edges : Vector PeVec 4) : PourIn :=
  let lead := s.leadOf a
  let q := (s.arch[lead]).seq
  let ba := (s.arch[m]).seq.ctx.ba
  let force := q.part.twin && (s.arch[lead]).twin.force && q.ctx.cur.any PourRec.twin
  { w := w, odd := s.oddTwin m, pa := planeAddr (mwAadr w) (mwAmod w) ba, pb := planeAddr (mwBadr w) (mwBmod w) ba
    pw := planeAddr (mwWadr w) (mwWmod w) ba
    news := s.newsPlane m p w (s.oddTwin m) (s.latOn lead) (s.bandOf m).1 (s.bandOf m).2 edges
    planeIn := if mwLdl w = 1 then some ((s.isl[s.islAt m p]).ladle.bank ((s.isl[s.islAt m p]).ladle.cur))[ix 32 (s.isl[s.islAt m p]).ladle.rd.toNat] else none
    twx := mwTwx w || (force && decide (mwWcond w ≠ 0)) }

/-- From `s` to `t` every PE of the stream has made its cycle with the addresses of the start of the cycle (spec/03 R66; spec/02 R34). -/
def Sys2Proof.Machine.State.Poured (s : State) (a : Arch) (ms : List Arch) (w : Micro) (edges : Vector PeVec 4) (t : State) : Prop :=
  ∀ m ∈ ms, ∀ p : Fin 32,
    let i' := ((s.isl[s.islAt m p]).pour (s.pourInOf a m p w edges)).isl
    let j := t.isl[s.islAt m p]
    j.c = i'.c ∧ j.x = i'.x ∧ j.y = i'.y ∧ j.k = i'.k ∧ j.n = i'.n ∧ j.t = i'.t ∧ ∀ pl, j.raw pl = i'.raw pl ∧ j.rawDelta pl = i'.rawDelta pl

/-- The sequencer registers of the members follow the word: LCOP, BAOP and poparg, the mode shadow, taint, last address and NT; the global OR
and count become those of the PEs with K = 1, not yet usable, at archipelago scope and at that of the stream (spec/03 R66, R67, R74, R77 to
R80; spec/02 R50 to R52; in the odd twin as spec/06 Table 6.1 has it). -/
def Sys2Proof.Machine.State.Counted (s : State) (a : Arch) (ms : List Arch) (w : Micro) (edges : Vector PeVec 4) (t : State) : Prop :=
  let lead := s.leadOf a
  let q := (s.arch[lead]).seq
  let act := fun (m : Arch) (p : Fin 32) =>
    let i := s.isl[s.islAt m p]
    let f := (i.pour (s.pourInOf a m p w edges)).f
    if s.oddTwin m then ~~~i.k &&& ~~~f else i.k &&& f
  let orOf := fun (m : Arch) => (List.finRange 32).any (fun p => act m p != 0) != s.oddTwin m
  let cntOf := fun (m : Arch) => ((List.finRange 32).map (fun p => popcount (act m p))).sum
  ∀ m ∈ ms,
    let x := (s.arch[m]).seq
    let y := (t.arch[m]).seq
    let who := if q.part.twin then m else lead
    y.lastPc = x.pc ∧ y.lastNt = mwNt w ∧ y.tnt = (x.tnt || (sampled w).contains 14) ∧
    (mwSpc w ≠ 1 →
      (∀ k : Fin 4, y.ctx.lc[k] =
        if k.val = (mwLcsel w).toNat ∧ mwLcop w = 1 then mwLit w else if k.val = (mwLcsel w).toNat ∧ mwLcop w = 2 then x.ctx.lc[k] - 1 else x.ctx.lc[k]) ∧
      ∀ k : Fin 4, y.ctx.ba[k] = if k.val ≠ (mwBasel w).toNat ∨ mwBaop w = 0 then x.ctx.ba[k]
        else if mwBaop w = 1 then x.ctx.ba[k] + 1 else if mwBaop w = 2 then x.ctx.ba[k] - 1 else (mwLit w).setWidth 13) ∧
    (mwSpc w = 1 → ∀ r ∈ q.ctx.cur, (∀ k : Fin 4, y.ctx.ba[k] = r.arg k.val) ∧ y.ctx.lc[(2 : Fin 4)] = r.width.setWidth 16 ∧ y.ctx.lc[(3 : Fin 4)] = r.lit) ∧
    y.ctx.uf = x.ctx.ufShadow.getD x.ctx.uf ∧
    (mwSpc w ≠ 5 → y.ctx.ufShadow = none) ∧
    (mwSpc w = 5 → ∃ u, y.ctx.ufShadow = some u ∧ ∀ k < 4, u.getLsbD k =
      if (mwLit w).getLsbD (4 + k) then
        (if (mwLit w).getLsbD 8 then s.orUsed who lead false else if (mwLit w).getLsbD 9 then s.orUsed who lead true else (mwLit w).getLsbD k)
      else (x.ctx.ufShadow.getD x.ctx.uf).getLsbD k) ∧
    (mwGor w = true → y.ctx.red.orA = orOf m ∧ y.ctx.red.orD = (if q.part.twin then orOf m else ms.any orOf) ∧
      y.ctx.red.pendOrA = true ∧ y.ctx.red.pendOrD = true) ∧
    (mwGor w = false → y.ctx.red.orA = x.ctx.red.orA ∧ y.ctx.red.orD = x.ctx.red.orD) ∧
    (mwGcnt w = true → y.ctx.red.cntA = BitVec.ofNat 14 (cntOf m) ∧
      y.ctx.red.cntD = BitVec.ofNat 17 (if q.part.twin then cntOf m else (ms.map cntOf).sum) ∧ y.ctx.red.pendCntA = true ∧ y.ctx.red.pendCntD = true) ∧
    (mwGcnt w = false → y.ctx.red.cntA = x.ctx.red.cntA ∧ y.ctx.red.cntD = x.ctx.red.cntD)

/-- Control goes where NXT says: INC, BR, CALL, RET, MW2 and MW4 on the conditions, WAIT on or into its park (spec/03 R68, R70, R72,
R73, Table 3.4). -/
def Sys2Proof.Machine.State.Goes (s : State) (a : Arch) (ms : List Arch) (w : Micro) (t : State) : Prop :=
  let lead := s.leadOf a
  let twin := (s.arch[lead]).seq.part.twin
  let n := (mwNxt w).toNat
  let g := (mwMwsel w).toNat % 4
  let h := (mwMwsel w).toNat / 4 % 2
  ∀ m ∈ ms,
    let x := (s.arch[m]).seq
    let y := (t.arch[m]).seq
    let on := (if twin then x.pc else (s.arch[lead]).seq.pc) + 1
    let cnd := fun (k : Nat) => s.cond (if twin then m else lead) lead w k
    let runs := fun (pc : A13) (stack : List A13) => y.mode = .running ∧ y.pc = pc ∧ y.ctx.stack = stack ∧ y.ctx.cur = x.ctx.cur
    let multi := fun (k : Nat) (first : Nat) => y.mode = .running ∧ y.ctx.stack = x.ctx.stack ∧ y.ctx.cur = x.ctx.cur ∧
      ∀ j < 13, y.pc.getLsbD j = ((mwTgt w).getLsbD j || (decide (j < k) && cnd (first + j)))
    (n = 0 → runs on x.ctx.stack) ∧
    (n = 1 → runs (if cnd (mwCond w).toNat then mwTgt w else on) x.ctx.stack) ∧
    (n = 2 → cnd (mwCond w).toNat = true → runs (mwTgt w) (on :: x.ctx.stack)) ∧
    ((n = 2 ∨ n = 3) → cnd (mwCond w).toNat = false → runs on x.ctx.stack) ∧
    (∀ r rest, n = 3 → cnd (mwCond w).toNat = true → (s.arch[lead]).seq.ctx.stack ≠ [] → x.ctx.stack = r :: rest → runs r rest) ∧
    (n = 4 → multi 2 (4 * g + 2 * h)) ∧ (n = 5 → multi 4 (4 * g)) ∧
    (n = 7 → y.pc = on ∧ y.ctx.stack = x.ctx.stack ∧ y.mode = if t.waitTrue lead ms w then .running else .parkWait)

/-- A post completes the current record once, with the value its literal selects; the twins of a pair share it (spec/03 R76, spec/05 R133,
R134). -/
def Sys2Proof.Machine.State.Posts (s : State) (a : Arch) (ms : List Arch) (w : Micro) (t : State) : Prop :=
  let lead := s.leadOf a
  let c := (s.arch[lead]).seq.ctx
  (mwSpc w ≠ 2 ∨ c.cur = none ∨ c.posted = true → t.pour.compl = s.pour.compl) ∧
  (∀ r, mwSpc w = 2 → c.cur = some r → c.posted = false → c.failed = false → (∀ k, postWants r (mwLit w) = some k → s.valueDiffers lead ms k = false) →
    t.pour.compl = s.pour.compl ++ [{ core := r.core, tag := r.tag, word := complWord r 0 0 ((postWants r (mwLit w)).map (s.redValue lead lead)) }] ∧
    ∀ m ∈ ms, (t.arch[m]).seq.ctx.posted = true)

/-- The whole effect of microword `w` in the stream of `a`, where it does not leave its routine. The twins of a pair agree on the conditions
(spec/06 R153 compares them). -/
def Sys2Proof.Machine.State.Issued (s : State) (a : Arch) (ms : List Arch) (w : Micro) (edges : Vector PeVec 4) (t : State) : Prop :=
  s.Poured a ms w edges t ∧ s.Counted a ms w edges t ∧ s.Goes a ms w t ∧ s.Posts a ms w t

/-- A stream that is steady, with `w` fetched, its edge planes there and its conditions agreed on, and no host access that waits. -/
def Sys2Proof.Machine.State.Ready (s : State) (a : Arch) (ms : List Arch) (w : Micro) (edges : Vector PeVec 4) : Prop :=
  s.Steady a ms ∧ s.Fetches a ms w ∧ s.EdgesFor a w edges ∧
  (∀ m ∈ ms, ∀ k ∈ sampled w, s.cond m (s.leadOf a) w k = s.cond (s.leadOf a) (s.leadOf a) w k ∨ (s.arch[s.leadOf a]).seq.part.twin = false)

/-- MICROWORD_ISSUE in every grouping: a single archipelago, a partition of several, a twin pair, a lattice member. A word that does not leave
its routine has the whole effect of its fields; one that leaves it outside a trap completes the current record if it was not posted and goes
on with the next record at its entry, or parks; the one that leaves a trap routine restores the interrupted one (spec/03 R66 to R82; spec/02
R34 to R52; spec/04 R111, R116, Table 4.6). -/
def Obligations.MicrowordIssue : Prop :=
  ∀ (a : Arch) (s : State) (ms : List Arch) (w : Micro) (edges : Vector PeVec 4), s.Ready a ms w edges → s.holm.jobs = [] →
    let lead := s.leadOf a
    let q := (s.arch[lead]).seq
    q.mode = .running ∨ q.mode = .stalled → (mwSpc w = 3 → s.latOn lead = false) → (mwSpc w = 4 → ms.all s.frameBarrier = true) →
    (¬ s.Leaves a w → ∃ t, exec (.microwordIssue a) s = .next t ∧ s.Issued a ms w edges t) ∧
    (s.Leaves a w → q.inTrap = false → q.ctx.failed = false → mwSpc w ≠ 2 →
      let posted := fun (t : State) => t.pour.compl = s.pour.compl ++
        (match q.ctx.cur with
         | some r => if q.ctx.posted then [] else [{ core := r.core, tag := r.tag, word := complWord r 0 0 none }]
         | none => [])
      (q.queue = [] ∨ s.dispatchHeld lead ms = true →
        ∃ t, exec (.microwordIssue a) s = .next t ∧ s.Poured a ms w edges t ∧ s.Counted a ms w edges t ∧ posted t ∧
          ∀ m ∈ ms, (t.arch[m]).seq.mode = (if ms.any (fun b => (s.arch[b]).seq.haltReq) then .halted false else .dispatchWait) ∧
            (t.arch[m]).seq.ctx.cur = none ∧ (t.arch[m]).seq.ctx.stack = []) ∧
      (∀ r rest, q.queue = r :: rest → s.dispatchHeld lead ms = false → recordCheck r (s.arch[lead]).mould.entries (maskOf ms) q.part.twin = none →
        ∃ t, exec (.microwordIssue a) s = .next t ∧ s.Poured a ms w edges t ∧ s.Counted a ms w edges t ∧ posted t ∧ (t.arch[lead]).seq.queue = rest ∧
          ∀ m ∈ ms, (t.arch[m]).seq.mode = .running ∧ (t.arch[m]).seq.pc = r.entry ∧ (t.arch[m]).seq.ctx.cur = some r ∧
            (t.arch[m]).seq.ctx.posted = false ∧ (t.arch[m]).seq.ctx.stack = [])) ∧
    (s.Leaves a w → ∀ slot : Arch → TrapSlot, q.inTrap = true →
      (∀ m ∈ ms, s.TrapWords m ∧ (if q.slot1.isSome then (s.arch[m]).seq.slot1 else (s.arch[m]).seq.slot0) = some (slot m) ∧ (slot m).parityErr = 0) →
      ∃ t, exec (.microwordIssue a) s = .next t ∧ ∀ m ∈ ms, (t.arch[m]).seq.pc = (slot m).pc ∧ (t.arch[m]).seq.ctx = (slot m).ctx ∧
        (t.arch[m]).seq.mode = (if (slot m).waiting then .parkWait else .running) ∧
        (t.arch[m]).seq.slot1 = (if q.slot1.isSome then none else (s.arch[m]).seq.slot1) ∧
        (t.arch[m]).seq.slot0 = if q.slot1.isSome then (s.arch[m]).seq.slot0 else none)

/-- Archipelago `a` forms a stream of its own, powered, ready, outside twin pairs, the lattice and a tide step; no STEP is under way, no
Caenater routine runs by contract (log 27), and no host access waits. -/
def Sys2Proof.Machine.State.Alone (s : State) (a : Arch) : Prop :=
  s.streamOf a = [a] ∧ s.alive [a] = true ∧ s.streamReady [a] = true ∧ s.arch[a].seq.part.twin = false ∧
  s.arch[a].seq.part.lat = false ∧ s.arch[a].twin.pend = false ∧ s.arch[a].twin.found = [] ∧ s.arch[a].tide.phase = 0 ∧
  (∀ p q : Fin 32, s.islAt a p = s.islAt a q → p = q) ∧ s.regrouping a = false ∧
  s.arch[a].seq.stepSlot = none ∧ s.arch[a].seq.ctx.mop = none ∧ s.holm.jobs = []

/-- The word `w` stands clean at `pc` in the pattern-free part of the mould, and has none of the special effects of spec/03 Table 3.7. -/
def Sys2Proof.Machine.State.Plain (s : State) (a : Arch) (pc : A13) (w : Micro) : Prop :=
  SMap.get 0 (s.arch[a]).mould.word pc.toNat = w ∧ SMap.get 0 (s.arch[a]).mould.delta pc.toNat = 0 ∧ pc.toNat < 0x1800 ∧ mwReserved w = false ∧
  mwSpc w = 0 ∧ mwLdl w = 0 ∧ (mwEdge w).toNat < 3

/-- Faults and traps of a sequencer: a reserved or uncorrectable word stops it with its cause and place, the trap watchdog with cause 7,
and a halt request traps at a boundary (spec/03 R91, Table 3.11; spec/04 R108, R115). -/
def Obligations.SequencerStops : Prop :=
  ∀ (a : Arch) (s : State), s.Alone a →
    let q := s.arch[a].seq
    let stops := fun (i : Instr) (cause : Nat) => ∃ t, exec i s = .next t ∧ (t.arch[a]).seq.mode = .fault ∧
      (t.arch[a]).seq.seqFault = { valid := true, fpc := q.pc, cause := BitVec.ofNat 4 cause } ∧ (cause = 7 → (t.arch[a]).seq.tfSub = 2)
    (q.mode = .running → s.trapNow a = none → eccDecode 144 8 (SMap.get (0 : BitVec 9) (s.arch[a]).mould.delta q.pc.toNat).toNat = .bad →
      stops (.microwordIssue a) 3) ∧
    (q.mode = .running → s.trapNow a = none → SMap.get 0 (s.arch[a]).mould.delta q.pc.toNat = 0 →
      mwReserved (SMap.get 0 (s.arch[a]).mould.word q.pc.toNat) = true → stops (.microwordIssue a) 5) ∧
    (q.slot0.isSome = true → q.wdog ≠ 0 → q.mode = .running → stops (.trapWatchdogExpiry a) 7) ∧
    (s.TrapWords a → q.mode = .running → q.slot0 = none → q.slot1 = none → q.lastNt = false → q.ctx.ufShadow = none → q.haltReq = true →
      ∃ t, exec (.microTrap a) s = .next t ∧ (t.arch[a]).seq.mode = .halted true ∧
        (t.arch[a]).seq.slot0.map (fun x => (x.pc, x.cause, x.ctx)) = some (q.pc, .halt, q.ctx))

/-- What releases a parked or stalled stream, where no trap is due and permitted: a record that has come to the empty queue runs, or stops the
sequencer where its check fails; the true condition of a WAIT lets it go on behind it; the reached frame barrier and, on a lattice member, the
latbar number that every neighbour has reached let their microword issue with its whole effect; a reduction result becomes usable in the
context that waits for it and ends a stall (spec/03 R71, R72, R82; spec/04 R119, Table 4.2; spec/05 Table 5.3; spec/08 R212; spec/02 R52; how
latbar numbers count is the model's choice, log 15). -/
def Obligations.SequencerReleases : Prop :=
  (∀ (a : Arch) (s : State) (ms : List Arch) (r : PourRec) (rest : List PourRec), s.Steady a ms →
    let lead := s.leadOf a
    let q := (s.arch[lead]).seq
    q.mode = .dispatchWait → q.queue = r :: rest → s.dispatchHeld lead ms = false →
    (recordCheck r (s.arch[lead]).mould.entries (maskOf ms) q.part.twin = none →
      ∃ t, exec (.dispatchWaitEnd a) s = .next t ∧ ∀ m ∈ ms, (t.arch[m]).seq = { (s.arch[m]).seq with
        queue := if m = lead then rest else (s.arch[m]).seq.queue, mode := .running, pc := r.entry, held := false
        ctx := { (s.arch[m]).seq.ctx with cur := some r, posted := false, failed := false, mop := s.contractRun lead r } }) ∧
    (∀ sub, recordCheck r (s.arch[lead]).mould.entries (maskOf ms) q.part.twin = some sub →
      ∃ t, exec (.dispatchWaitEnd a) s = .next t ∧ (t.arch[lead]).seq.mode = .fault ∧ (t.arch[lead]).seq.queue = rest ∧
        (t.arch[lead]).seq.recFault = { valid := true, sub := BitVec.ofNat 4 sub, entry := r.entry } ∧
        (t.arch[lead]).seq.seqFault = { valid := true, fpc := r.entry, cause := 8 } ∧
        t.pour.compl = s.pour.compl ++ [{ core := r.core, tag := r.tag, word := complWord r 2 8 none }])) ∧
  (∀ (a : Arch) (s : State) (ms : List Arch) (w : Micro), s.streamOf a = ms → s.alive ms = true → s.trapNow a = none →
    let lead := s.leadOf a
    let q := (s.arch[lead]).seq
    q.mode = .parkWait → ((s.arch[lead]).mould.fetch (q.pc - 1)).1 = some w → s.waitTrue lead ms w = true →
    ∃ t, exec (.waitRelease a) s = .next t ∧ ∀ m ∈ ms, (t.arch[m]).seq = { (s.arch[m]).seq with mode := .running }) ∧
  (∀ (a : Arch) (s : State) (ms : List Arch) (w : Micro) (edges : Vector PeVec 4), s.Ready a ms w edges → ¬ s.Leaves a w →
    let lead := s.leadOf a
    let q := (s.arch[lead]).seq
    q.mode = .barrier →
    (mwSpc w = 4 → ms.all s.frameBarrier = true →
      ∃ t, exec (.framebarRelease a) s = .next t ∧ s.Issued a ms w edges t ∧ ∀ m ∈ ms, (t.arch[m]).ring.pos = 0) ∧
    (mwSpc w = 3 →
      (∀ side lane, s.neighbour side = some lane → s.latLink lane = true ∧
        ∃ n, (s.straits[linkNo lane]).barRx = some n ∧ (n - (q.latSeq + 1)).toNat < 0x8000) →
      ∃ t, exec (.latbarRelease a) s = .next t ∧ s.Issued a ms w edges t ∧ ∀ m ∈ ms, (t.arch[m]).seq.latSeq = (s.arch[m]).seq.latSeq + 1)) ∧
  (∀ (a : Arch) (s : State) (k : RedResult), (k = .orDev ∨ k = .cntDev → (s.arch[s.leadOf a]).seq.part.lat = true → s.lattice.kinds = []) →
    let usable := fun (c : SeqCtx) => ({ c with red := { c.red with
      pendOrA := c.red.pendOrA && decide (k ≠ .orArch), pendCntA := c.red.pendCntA && decide (k ≠ .cntArch)
      pendOrD := c.red.pendOrD && decide (k ≠ .orDev), pendCntD := c.red.pendCntD && decide (k ≠ .cntDev) } } : SeqCtx)
    let waits := fun (x : Option TrapSlot) => x.any (fun y => y.ctx.red.pending k)
    ∃ t, exec (.reductionResult a k) s = .next t ∧ ∀ m ∈ s.streamOf a,
      let x := (s.arch[m]).seq
      let y := (t.arch[m]).seq
      y.mode = (if x.mode = .stalled then .running else x.mode) ∧ y.pc = x.pc ∧
      (waits x.slot0 = true → y.slot0 = x.slot0.map (fun z => { z with ctx := usable z.ctx }) ∧ y.slot1 = x.slot1 ∧ y.ctx = x.ctx) ∧
      (waits x.slot0 = false → x.slot0.isSome = true → waits x.slot1 = true →
        y.slot1 = x.slot1.map (fun z => { z with ctx := usable z.ctx }) ∧ y.slot0 = x.slot0 ∧ y.ctx = x.ctx) ∧
      (waits x.slot0 = false → waits x.slot1 = false → y.ctx = usable x.ctx ∧ y.slot0 = x.slot0 ∧ y.slot1 = x.slot1))

/-- The mould scrubber, the rewriting of uncorrectable words and pattern replacement (spec/03 R86, R89). -/
def Obligations.MouldUpkeep : Prop :=
  ∀ (a : Arch) (s : State),
    let m := (s.arch[a]).mould
    (m.loaded = true → eccDecode 144 8 (SMap.get (0 : BitVec 9) m.delta m.scrubPos.toNat).toNat = .bad →
      ∃ t, exec (.mouldScrub a) s = .next t ∧ (t.arch[a]).mould = { m with
        scrubPos := m.scrubPos + 1, sue := true, ueValid := true, ueWord := if m.ueValid then m.ueWord else m.scrubPos
        rewrite := if m.rewrite.contains m.scrubPos then m.rewrite else m.rewrite ++ [m.scrubPos] }) ∧
    (m.rewrite ≠ [] → s.atDispatch a = true →
      ∃ t, exec (.mouldWordRewrite a) s = .next t ∧ (t.arch[a]).mould.rewrite = [] ∧
        ∀ p ∈ m.rewrite, SMap.get 0 (t.arch[a]).mould.word p.toNat = SMap.get 0 m.verified p.toNat ∧ SMap.get 0 (t.arch[a]).mould.delta p.toNat = 0) ∧
    (∀ r rest, m.repl = r :: rest → s.streamOf a = [] ∨ (a ∈ s.streamOf a ∧ s.atDispatch a = true) → r.first.toNat + r.words.length ≤ 8192 →
      ∃ t, exec (.patternReplacement a) s = .next t ∧ (t.arch[a]).mould.repl = rest ∧
        (∀ k (h : k < r.words.length), SMap.get 0 (t.arch[a]).mould.word (r.first.toNat + k) = r.words[k]) ∧
        ∀ x, ¬ (r.first.toNat ≤ x ∧ x < r.first.toNat + r.words.length) → SMap.get 0 (t.arch[a]).mould.word x = SMap.get 0 m.word x)

/-- A detected mismatch pends in both twins, counts, interrupts every core and makes the vital window leave; an island that becomes ready
holds zeros, logical zero where it carries a position of a twin pair (spec/06 Table 6.2, R148; spec/02 R56). -/
def Obligations.TwinAndIsland : Prop :=
  ∀ (s : State),
    (∀ (pair : Fin 4) (e o : Arch) (m : Mismatch) (rest : List Mismatch), e.val = 2 * pair.val → o.val = 2 * pair.val + 1 → (s.arch[e]).twin.found = m :: rest →
      (s.arch[e]).twin.pend = false →
      ∃ t, exec (.twinCompareMismatch pair) s = .next t ∧ (∀ n : CoreId, ((t.cores[n]).irq).getLsbD 1 = true) ∧
        (t.arch[e]).twin = { (s.arch[e]).twin with
          found := rest, cnt := satInc (s.arch[e]).twin.cnt, pend := true, pendCause := some m.cause, faulted := true
          fault := if (s.arch[e]).twin.faulted then (s.arch[e]).twin.fault else { valid := true, mis := m } } ∧
        (t.arch[o]).twin.pend = true ∧ t.vital.leaveDue = s.vital.leaveDue.or (some 1)) ∧
    (∀ (P : Isl) (a : Arch), P.val / 33 = a.val → s.pwr.on.getLsbD P.val = true → (s.isl[P]).ready = false →
      -- `z`: logical zero, which is 1 on the islands of an odd twin's pair
      let z : PeVec := if s.oddTwin a = true ∧ P ∈ s.islands a then BitVec.allOnes 256 else 0
      ∃ t, exec (.islandReady P) s = .next t ∧ (t.isl[P]).ready = true ∧ (∀ p, (t.isl[P]).raw p = z) ∧ (t.isl[P]).k = ~~~z ∧
        (t.isl[P]).c = z ∧ (t.isl[P]).x = z ∧ (t.isl[P]).y = z ∧ (t.isl[P]).n = z)

/-- Kind and data of the last record of the event journal. -/
def lastEvent (t : State) : Option (EventKind × List Byte) := t.events.getLast?.map (fun e => (e.kind, e.data))

/-- The last response handed to the network answers `acc` with `st` and `data`. -/
def answered (t : State) (acc : Acc) (st : Status) (data : List Byte) : Prop :=
  t.net.responses.getLast? = some { dst := acc.src, tag := acc.tag, status := st, data := data }

/-- The actions of SEQCTL, PQCTL, MCECNT and ICTRL (spec/03 R93, R100; spec/05 R145; spec/02 R63). -/
def Obligations.SequencerActions : Prop :=
  ∀ (a : Arch) (s : State) (acc : Acc), s.archGate acc a = none →
    let q := s.arch[a].seq
    (s.Alone a →
      (q.mode = .dispatchWait → q.haltReq = false →
        ∃ t, exec (.seqctlHalt acc a true) s = .next t ∧ (t.arch[a]).seq = { q with haltReq := true, mode := .halted false } ∧ answered t acc .ok []) ∧
      (q.mode = .halted false → q.haltReq = true →
        ∃ t, exec (.seqctlHalt acc a false) s = .next t ∧ (t.arch[a]).seq = { q with haltReq := false, mode := .dispatchWait } ∧ answered t acc .ok []) ∧
      (s.mode ≠ .service → ∃ t, exec (.seqctlStep acc a) s = .next t ∧ t.arch = s.arch ∧ answered t acc .denied []) ∧
      (∀ sl w, s.mode = .service → s.TrapWords a → q.mode = .halted true → q.slot0 = some sl → q.slot1 = none → sl.parityErr = 0 →
        sl.waiting = false → sl.ctx.mop = none → s.Plain a sl.pc w → mwNxt w = 0 →
        ∃ t, exec (.seqctlStep acc a) s = .next t ∧ (t.arch[a]).seq.mode = .halted true ∧
          (t.arch[a]).seq.slot0.map (fun x => x.pc) = some (sl.pc + 1) ∧ answered t acc .ok []) ∧
      (q.mode = .fault → q.queue = [] → q.haltReq = false →
        ∃ t, exec (.seqctlClrfault acc a) s = .next t ∧ (t.arch[a]).seq.mode = .dispatchWait ∧ (t.arch[a]).seq.seqFault.valid = false ∧
          (t.arch[a]).seq.recFault.valid = false ∧ (t.arch[a]).seq.ctx.cur = none ∧ answered t acc .ok [])) ∧
    (s.leadOf a = a → s.vitalPairHeld a = false → (∀ n : CoreId, s.pour.buf[n] = []) →
      ∃ t, exec (.pqctlFlush acc a) s = .next t ∧ (t.arch[a]).seq = { q with queue := [] } ∧ answered t acc .ok [] ∧
        t.pour.compl = s.pour.compl ++ q.queue.map (fun r => { core := r.core, tag := r.tag, word := complWord r 3 1 none })) ∧
    (∃ t, exec (.mcecntCeclr acc a) s = .next t ∧ (t.arch[a]).mould = { (s.arch[a]).mould with ceCnt := 0 } ∧ answered t acc .ok []) ∧
    (∀ (P : Isl) (plane : A13) (cl : BitVec 4) (dbl : Bool), P.val / 33 = a.val →
      (∃ t, exec (.ictrlCeclr acc P) s = .next t ∧ t.isl[P] = { s.isl[P] with cecnt := 0 } ∧ answered t acc .ok []) ∧
      (s.mode = .service → ∃ t, exec (.ictrlInj acc P plane cl dbl) s = .next t ∧
        t.isl[P] = { s.isl[P] with injPlane := plane, injCl := cl, injD := dbl, inj := true } ∧ answered t acc .ok []) ∧
      (s.mode ≠ .service → ∃ t, exec (.ictrlInj acc P plane cl dbl) s = .next t ∧ t.isl = s.isl ∧ answered t acc .denied []))

/-- Integer results of the array macro-ops, at every width n: wrap modulo 2^n, the clamps of ADDS18 and SUBS18, division by zero, signed division
with the remainder's sign and its one overflow, and shifts by n or more (spec/05 R142, Table 5.8). -/
def macroIntegersRule : Prop :=
  ∀ (s : State) (lead a : Arch) (r : PourRec) (pos : Nat × Nat),
    let n := r.width.toNat
    let x := s.peVal pos (r.arg 0) n
    let y := s.peVal pos (r.arg 1) n
    let v := fun (op : MacroOp) (j : Nat) => s.macroVal lead a op r pos j
    1 ≤ n →
    x < 2 ^ n ∧ y < 2 ^ n ∧
    v .add 0 = (x + y) % 2 ^ n ∧ v .sub 0 < 2 ^ n ∧ (v .sub 0 + y) % 2 ^ n = x ∧ v .neg 0 < 2 ^ n ∧ (v .neg 0 + x) % 2 ^ n = 0 ∧
    v .mul 0 = x * y % 2 ^ n ∧
    (n = 18 → sval 18 (v .adds 0) = max (-131072) (min (sval 18 x + sval 18 y) 131071) ∧
      sval 18 (v .subs 0) = max (-131072) (min (sval 18 x - sval 18 y) 131071)) ∧
    (y = 0 → ∀ sg, v (.div sg) 0 = 2 ^ n - 1 ∧ v (.div sg) 1 = x) ∧
    (y ≠ 0 → x = v (.div false) 0 * y + v (.div false) 1 ∧ v (.div false) 1 < y) ∧
    (x = 2 ^ (n - 1) → y = 2 ^ n - 1 → v (.div true) 0 = x ∧ v (.div true) 1 = 0) ∧
    (y ≠ 0 → ¬ (x = 2 ^ (n - 1) ∧ y = 2 ^ n - 1) →
      let q := sval n (v (.div true) 0)
      let m := sval n (v (.div true) 1)
      sval n x = q * sval n y + m ∧ m.natAbs < (sval n y).natAbs ∧ (0 ≤ sval n x → 0 ≤ m) ∧ (sval n x ≤ 0 → m ≤ 0)) ∧
    (n ≤ litShift r.lit.toNat → v .shl 0 = 0 ∧ v .shr 0 = 0 ∧ v .sar 0 = if sval n x < 0 then 2 ^ n - 1 else 0)

/-- One pour cycle of one PE, and the integer results of the array macro-ops at every width and at their edges (spec/02 R34 to R40, spec/05
R142). -/
def Obligations.ElementCycle : Prop := elementCycleRule ∧ macroIntegersRule

/-! ### Registers, networks and memories (spec/01, spec/13, spec/14) -/

/-- Register accesses by an initiator that reaches the blocks: NETERR is cleared by writing ones and read whole, a timeout may be set before
the configuration is committed and not after, STSLO and RTSLO latch their high words, BYTELO latches BYTEHI, and CLR clears an initiator's
statistics with its lagoon counters (spec/13 R312, R321, R322, R324; spec/08 R224). An initiator other than a core notes the latency of this
very access (log 53). The value of a timestamp is free (log 60). -/
def registerFieldsRule : Prop :=
  ∀ (s : State) (acc : Acc) (v : Word) (i : Fin 32), accReachesRegs acc = true →
    (∃ t, exec (.registerWrite acc 0x40500200 v) s = .next t ∧ t.net.neterr = s.net.neterr &&& ~~~v ∧ answered t acc .ok [] ∧ t.cores = s.cores) ∧
    (∃ t, exec (.registerWrite acc (BitVec.ofNat 40 (0x40500100 + 4 * i.val)) v) s = .next t ∧ answered t acc .ok [] ∧
      t.net.tout = if s.committed then s.net.tout else s.net.tout.set i.val (v.setWidth 20)) ∧
    (s.domainOpen 312 = true →
      ∃ (stamp : DWord) (t : State), exec (.timestampLowRead acc false) s = .next t ∧ answered t acc .ok (bytesLE 4 (stamp.toNat % 2 ^ 32)) ∧
        t.sprue.stsHi = BitVec.ofNat 32 (stamp.toNat / 2 ^ 32)) ∧
    (s.domainOpen 313 = true →
      ∃ (stamp : DWord) (t : State), exec (.timestampLowRead acc true) s = .next t ∧ answered t acc .ok (bytesLE 4 (stamp.toNat % 2 ^ 32)) ∧
        t.riser.rtsHi = BitVec.ofNat 32 (stamp.toNat / 2 ^ 32)) ∧
    (∃ t, exec (.soundStatClr acc i) s = .next t ∧ answered t acc .ok [] ∧
      let x := t.net.stat[i]
      x.reqCnt = 0 ∧ x.bytes = 0 ∧ x.lateCnt = 0 ∧ x.toCnt = 0 ∧ x.fdrop = 0 ∧ x.byteHi = (s.net.stat[i]).byteHi ∧
      (i ≠ acc.src ∨ acc.src.val < 4 → x.maxLat = 0 ∧ x.hist = Vector.replicate 16 0) ∧
      (∀ j : Fin 32, j ≠ i → j ≠ acc.src → t.net.stat[j] = s.net.stat[j]) ∧
      ∀ a : Arch, (t.net.lagoon[a]).lreq[i] = 0 ∧ (t.net.lagoon[a]).lbyte[i] = 0)

/-- Reading a register or a stream timestamp that depends on time taints the reading core, whatever the read is answered (spec/06 R160, spec/08
R203): NETERR of the sound network among them, which answers its present value. BYTELO returns the low word of the bytes counted, this read
among them, and latches the high word (spec/13 R322). -/
def taintSourcesRule : Prop :=
  ∀ (s : State) (acc : Acc) (n : CoreId) (i : Fin 32),
    (∀ addr b off, acc.src.val = n.val → areaOf addr = .regs → regAt addr = some (b, off) → taints b off = true →
      ∃ t st data, exec (.taintSourceRead acc addr) s = .next t ∧ answered t acc st data ∧ (t.cores[n]).tnt = true) ∧
    (∀ addr, acc.src.val = n.val → areaOf addr = .harbour → s.readsTstamp (.read 4) (addr.toNat - 0x20000000) = true →
      ∃ t st data, exec (.taintSourceRead acc addr) s = .next t ∧ answered t acc st data ∧ (t.cores[n]).tnt = true) ∧
    (accReachesRegs acc = true → ∃ t, exec (.taintSourceRead acc 0x40500200) s = .next t ∧ answered t acc .ok (bytesLE 4 s.net.neterr.toNat)) ∧
    (∀ req : Request, req.src.val = n.val → req.user = false → req.op = .read 4 → req.addr = 0x40500200 → s.heldBack req = false →
      ∃ t, exec (.registerBlockAccess req) s = .next t ∧ (t.cores[n]).tnt = true ∧ t.net.requests = s.net.requests.erase req ∧
        t.net.responses = s.net.responses ++ [{ dst := req.src, tag := req.tag, status := .ok, data := bytesLE 4 s.net.neterr.toNat }]) ∧
    (accReachesRegs acc = true →
      ∃ t, exec (.byteloRead acc i) s = .next t ∧ answered t acc .ok (bytesLE 4 ((s.net.stat[i]).bytes.toNat % 2 ^ 32)) ∧
      (t.net.stat[i]).byteHi = BitVec.ofNat 32 ((s.net.stat[i]).bytes.toNat / 2 ^ 32))

/-- Register accesses: NETERR and the timeouts as fields, the latched high words, the clear of an initiator's statistics, and the taint of
reads that depend on time (spec/13 R312, R321, R322, R324; spec/06 R160; spec/08 R203, R224). -/
def Obligations.Registers : Prop := registerFieldsRule ∧ taintSourcesRule

/-- A packet without the places of its flits, which move on by themselves (log 52). -/
def bare (p : Packet) : Packet := { p with legs := [] }

/-- Packets in the routers. A header that fails its check is dropped and counted; a good one that belongs to no packet known enters at the
interface (log 52). A packet at its source interface enters its router in its turn where the buffer has a credit, unless packets of the old
epoch to the same end are in flight. A packet in a router crosses the link of its next hop where the buffer beyond has a credit, it is the first of its queue and no
candidate for the link is as urgent, taking the virtual channel of the hop; without a credit, or behind a more urgent candidate, it stays.
A waiting header ages by one up to 15. A routing epoch begins at the barrier and the old tables go once it has drained (spec/13 R305, R307
to R309, R314, R316). -/
def Obligations.Routers : Prop :=
  ∀ (s : State) (r : RouterId) (h : BitVec 128) (payload : List Byte) (poisoned : Bool),
    (headerOk h = false → s.arrivalOf r h = .fresh → ∃ t, exec (.routerHeaderArrival r h payload poisoned) s = .next t ∧
      t.net.neterr = s.net.neterr ||| ((1 : Word) <<< (hSrc h).val) ∧ (t.net.stat[hSrc h]).fdrop = satAdd (s.net.stat[hSrc h]).fdrop 1 ∧
      t.net.packets.map bare = s.net.packets.map bare) ∧
    (headerOk h = true → (∀ p ∈ s.net.packets, p.hdr ≠ h) → s.credit (hVn h) { place := r, port := 0, vc := false, flits := 1 } = true →
      (s.hop r h).isSome → ∃ t, exec (.routerHeaderArrival r h payload poisoned) s = .next t ∧
        t = { s with net := { s.net with packets := t.net.packets, lost := t.net.lost, oldInFlight := t.net.oldInFlight } } ∧
        t.net.packets.map bare = (s.net.packets.map bare) ++
          [{ place := r, port := some 0, vc := false, hdr := h, payload := payload, poisoned := poisoned, msg := .other, legs := [] }]) ∧
    (∀ p ∈ s.net.packets, headerOk p.hdr = true → (∀ q ∈ s.net.packets, q.hdr = p.hdr → q = p) →
      (p.port = none →
        let free := s.credit (hVn p.hdr) { place := p.place, port := 0, vc := false, flits := 1 }
        (s.first p = false ∨ s.epochHeld p = true ∨ free = false → exec (.routerHeaderArrival p.place p.hdr payload poisoned) s = .next s) ∧
        (s.first p = true → s.epochHeld p = false → free = true → (s.hop p.place (s.gatewayHeader p.place p)).isSome →
          ∃ t, exec (.routerHeaderArrival p.place p.hdr payload poisoned) s = .next t ∧
            t.net.packets.map bare = (s.net.packets.erase p).map bare ++
              [bare { p with port := some 0, hdr := s.gatewayHeader p.place p, poisoned := p.poisoned || poisoned }])) ∧
      (∀ x, p.port ≠ none → s.hop p.place p.hdr = some x →
        (s.credit (hVn p.hdr) (p.legTo x) = false ∨ (∃ q ∈ s.net.packets, s.linkFor q = some x ∧ urgency p.hdr < urgency q.hdr) →
          exec (.routerHeaderArrival x.next p.hdr payload poisoned) s = .next s) ∧
        (s.credit (hVn p.hdr) (p.legTo x) = true → s.first p = true →
          (∀ q ∈ s.net.packets, q ≠ p → s.linkFor q = some x → urgency q.hdr < urgency p.hdr) → (s.hop x.next p.hdr).isSome →
          ∃ t, exec (.routerHeaderArrival x.next p.hdr payload poisoned) s = .next t ∧
            t.net.packets.map bare = (s.net.packets.erase p).map bare ++
              [bare { p with place := x.next, port := some x.port, vc := p.nextVc x, poisoned := p.poisoned || poisoned }]))) ∧
    (∀ p, s.net.packets = [p] → p.place = r → p.port ≠ none → hAge p.hdr < 15 →
      ∃ t q, exec (.packetAgeTick r 0) s = .next t ∧ t.net.packets = [q] ∧ hAge q.hdr = hAge p.hdr + 1 ∧ q.payload = p.payload ∧ hSrc q.hdr = hSrc p.hdr) ∧
    (s.net.epochLoaded = true → s.holm.txn.st ≠ .accepted → ∃ t, exec .routingEpochBarrier s = .next t ∧ t = { s with
      net := { s.net with epoch := s.net.epoch + 1, epochLoaded := false, drained := false, oldInFlight := s.net.packets.length }
      holm := { s.holm with keep := { s.holm.keep with journal := t.holm.keep.journal } } }) ∧
    (s.net.drained = false → s.net.oldInFlight = 0 → ∃ t, exec .epochDrainComplete s = .next t ∧ t.net.drained = true ∧
      ∀ k : Fin 2, t.net.table[k] = s.net.table[if s.net.epoch.getLsbD 0 then (1 : Fin 2) else 0])

/-- A request of a core that times out leaves its tag in quarantine and raises interrupt 17; the quarantine ends; a drained domain loses
power; a buffered record enters its stream's queue, which takes 16 (spec/13 R313, R317; spec/05 R130). -/
def Obligations.TimeoutsAndForwards : Prop :=
  ∀ (s : State) (n : CoreId) (tag : Fin 64) (src : Fin 32), src.val = n.val →
    (((s.cores[n]).tags[tag]).out = true → ((s.cores[n]).tags[tag]).quar = false → ((s.cores[n]).tags[tag]).kind ≠ .pour → s.holm.jobs = [] →
      ∃ t, exec (.requestTimeout src (BitVec.ofNat 8 tag.val)) s = .next t ∧ ((t.cores[n]).tags[tag]).quar = true ∧
        (t.cores[n]).irq.getLsbD 17 = true ∧ t.net.quarantine = s.net.quarantine ++ [(src, BitVec.ofNat 8 tag.val)]) ∧
    (∃ t, exec (.tagQuarantineExpiry src (BitVec.ofNat 8 tag.val)) s = .next t ∧ ((t.cores[n]).tags[tag]).quar = false ∧
      (src, BitVec.ofNat 8 tag.val) ∉ t.net.quarantine) ∧
    (∀ d, d < 316 → s.pwr.on.getLsbD d = true → s.pwr.fence.getLsbD d = true → s.domDrained d = true →
      ∃ t, exec (.domainPowerOff d) s = .next t ∧ t.pwr.on.getLsbD d = false) ∧
    (∀ r rest, s.pour.buf[n] = r :: rest → s.mode ≠ .ebb → s.pourRefusal r = none → ((s.arch[s.leadOf r.lead]).seq.queue).length < 16 →
      (s.arch[s.leadOf r.lead]).seq.preempts r = false →
      ∃ t, exec (.pourForward n) s = .next t ∧ (t.arch[s.leadOf r.lead]).seq.queue = (s.arch[s.leadOf r.lead]).seq.queue ++ [r] ∧ t.pour.buf[n] = rest)

/-- The node lets request `r` through, nothing holds it back, and its tag is not in quarantine, which would make its answer late (spec/13
R308, R313, spec/10 R239). -/
def Sys2Proof.Machine.State.lets (s : State) (r : Request) : Prop :=
  s.heldBack r = false ∧ nodeCheck r = none ∧ (4 ≤ r.src.val → (r.src, r.tag) ∉ s.net.quarantine)

/-- Request `r` runs as command `i`: it is answered with `st` and `data` and taken from those under way. -/
def Sys2Proof.Machine.State.serves (s : State) (i : Instr) (r : Request) (t : State) (st : Status) (data : List Byte) : Prop :=
  exec i s = .next t ∧ t.net.requests = s.net.requests.erase r ∧
  t.net.responses = s.net.responses ++ [{ dst := r.src, tag := r.tag, status := st, data := data }]

/-- Harbour at port A: a whole-word write stores its bytes and nothing else, a read of clean words returns them, an atomic returns the old
value and stores the new (spec/14 R327, R329, Table 14.1). -/
def harbourAccessesRule : Prop :=
  ∀ (s : State) (r : Request) (off : Nat), s.lets r → r.addr.toNat = 0x20000000 + off → off < 0x2000000 → s.domainOpen (288 + off / 0x200000) = true →
    s.sprue.cache = [] → s.vital.par.pairs = 0 →
    (∀ bs, r.op = .write bs → bs.length = 8 → off % 8 = 0 →
      ∃ t, s.serves (.harbourPortARequest r none) r t .ok [] ∧
        (∀ k (h : k < 8) (h' : k < bs.length), rdByte 0 t.harbour.mem (off + k) = bs[k]) ∧
        ∀ x, ¬ (off ≤ x ∧ x < off + 8) → rdByte 0 t.harbour.mem x = rdByte 0 s.harbour.mem x) ∧
    (∀ len, r.op = .read len → len ∈ [1, 2, 4, 8] → off % len = 0 → SMap.get 0 s.harbour.delta (off / 8) = 0 →
      ∃ t, s.serves (.harbourPortARequest r none) r t .ok ((List.range len).map (fun k => rdByte 0 s.harbour.mem (off + k))) ∧ t.harbour = s.harbour) ∧
    (∀ v, r.op = .atomic .add64 v → off % 8 = 0 → SMap.get 0 s.harbour.delta (off / 8) = 0 →
      let old := natLE ((List.range 8).map (fun k => rdByte 0 s.harbour.mem (off + k)))
      ∃ t, s.serves (.harbourAtomic r) r t .ok (bytesLE 8 old) ∧
        ∀ k < 8, rdByte 0 t.harbour.mem (off + k) = BitVec.ofNat 8 ((old + v.toNat) / 256 ^ k))

/-- The bank test and the clears of BCTL: the test moves to the next region, a failing row takes one of four spares, and with none left
NOSPARE is set and interrupt 18 raised at every core (spec/14 R331 to R333, Table 14.6). -/
def harbourBanksRule : Prop :=
  ∀ (s : State) (b : Fin 16) (acc : Acc) (row : Option Nat), accReachesRegs acc = true → s.domainOpen (288 + b.val) = true →
    let bank := s.harbour.banks[b]
    (s.harbour.testEn = true →
      ∃ t, exec (.harbourTestRegion b row) s = .next t ∧ (t.harbour.banks[b]).nextRegion = bank.nextRegion + 1 ∧
        (row ≠ none → bank.repaired.length < 4 → (t.harbour.banks[b]).repaired.length = bank.repaired.length + 1) ∧
        (row ≠ none → 4 ≤ bank.repaired.length → (t.harbour.banks[b]).nospare = true ∧ ∀ n : CoreId, (t.cores[n]).irq.getLsbD 18 = true)) ∧
    (∃ t, exec (.bctlColclr acc b) s = .next t ∧ t.harbour.banks[b] = { bank with col := 0 } ∧ answered t acc .ok []) ∧
    (∃ t, exec (.bctlCeclr acc b) s = .next t ∧ t.harbour.banks[b] = { bank with cecnt := 0 } ∧ answered t acc .ok [])

/-- Harbour data and banks: writes, reads and atomics at port A, the bank test and the clears of BCTL (spec/14 R327 to R333, Table 14.1). -/
def Obligations.Harbour : Prop := harbourAccessesRule ∧ harbourBanksRule

/-- The other windows: a core's SRAM through its window, the mailbox, the flags of its control words, and a view access that waits at its
island's ladle until it is served or timed out (spec/01 R23 to R27; spec/16 R378 to R382). -/
def Obligations.Windows : Prop :=
  ∀ (s : State) (r : Request) (n : CoreId) (acc : Acc), s.lets r → (acc.src.val = n.val ∧ acc.user = false ∨ acc.src = 4) →
    (∀ off bs, r.addr.toNat = 0x10000000 + 0x40000 * n.val + off → off < 0x40000 → s.domainOpen (304 + n.val) = true → r.op = .write bs → bs.length = 4 →
      off % 4 = 0 →
      ∃ t, s.serves (.sramAliasAccess r) r t .ok [] ∧ (∀ k (h : k < bs.length), rdByte 0 (t.cores[n]).sram (off + k) = bs[k]) ∧
        (s.cores[n]).SameOutside (t.cores[n]) off 4) ∧
    (∀ off, r.src = 4 → r.addr.toNat = 0x30000000 + 0x3000 * n.val + off → 4 ≤ off → off < 0x1000 → r.op = .read 4 → off % 4 = 0 →
      ∃ t, s.serves (.mailboxWindowAccess r) r t .ok ((List.range 4).map (fun k => rdByte 0 s.holm.mbox (0x3000 * n.val + off + k))) ∧ t.holm = s.holm) ∧
    (∃ t, exec (.rplctlValidClear acc n) s = .next t ∧ t.holm.rplValid = s.holm.rplValid.set n.val false ∧ answered t acc .ok []) ∧
    (∃ t, exec (.frmctlNewClear acc n) s = .next t ∧ t.holm.frmNew = s.holm.frmNew.set n.val false ∧ answered t acc .ok []) ∧
    ((areaOf r.addr = .plane ∨ areaOf r.addr = .word) → s.viewRefusal r.op r.addr = none →
      ∃ t, exec (.peViewRequest r) s = .next t ∧ t.net.requests = s.net.requests.erase r ∧ t.net.responses = s.net.responses ∧
        let P := s.islAt (viewTarget r.addr).1 (viewTarget r.addr).2
        (t.isl[P]).waiting = (s.isl[P]).waiting ++ [{ req := r, served := 0, got := 0, ue := false, mute := false }]) ∧
    (∀ (a : Arch) (v : ViewWait), (s.isl[s.islAt a 0]).waiting = [v] → isUnserved v.req.src v.req.tag v = true → (∃ k, v.req.op = .read k) →
      s.holm.jobs = [] → (4 ≤ v.req.src.val → (v.req.src, v.req.tag) ∉ s.net.quarantine) →
      ∃ t, exec (.gatewayViewTimeout a v.req.src v.req.tag) s = .next t ∧ (t.isl[s.islAt a 0]).waiting = [] ∧
        t.net.responses = s.net.responses ++ [{ dst := v.req.src, tag := v.req.tag, status := .timeout, data := [] }])

/-! ### DMA and shared translation (spec/14) -/

/-- All banks are open, every word is clean, neither a stream entry nor VITALBUF is guarded, and no packet or timeout of an access that
travels as no packet has been told of in advance (logs 47, 52). -/
def Sys2Proof.Machine.State.PlainHarbour (s : State) : Prop :=
  (∀ b : Fin 16, s.domainOpen (288 + b.val) = true) ∧ s.harbour.delta = [] ∧ s.sprue.cache = [] ∧ s.vital.par.pairs = 0 ∧
  ∀ i : Fin 32, s.net.lost[i] = 0 ∧ s.net.expired[i] = 0

/-- The little-endian number of the `n` bytes at offset `off` of harbour. -/
def Sys2Proof.Machine.State.hNum (s : State) (off n : Nat) : Nat := natLE ((List.range n).map (fun k => rdByte 0 s.harbour.mem (off + k)))

/-- DMA channels: the actions of DRHEAD and DCTL, a descriptor taken at DRTAIL, and the last beat of a FILL, which completes the descriptor
(spec/14 R338 to R343, Table 14.7). -/
def dmaChannelsRule : Prop :=
  ∀ (s : State) (c : Fin 16) (acc : Acc) (v : Word), accReachesRegs acc = true →
    let x := s.dma[c]
    (∃ t, exec (.drheadWrite acc c v) s = .next t ∧ t.dma[c] = { x with head := v.setWidth 12 } ∧ answered t acc .ok []) ∧
    (x.st = .off → ∃ t, exec (.dctlEn acc c true) s = .next t ∧ t.dma[c] = { x with en := true, st := .idle, tail := 0 } ∧ answered t acc .ok []) ∧
    (x.st = .idle → ∃ t, exec (.dctlEn acc c false) s = .next t ∧ t.dma[c] = { x with en := false, st := .off } ∧ answered t acc .ok []) ∧
    (x.st = .faulted → x.en = true →
      ∃ t, exec (.dctlSkip acc c) s = .next t ∧ answered t acc .ok [] ∧ (t.dma[c]).st = .idle ∧
        (t.dma[c]).tail.toNat = (x.tail.toNat + 1) % 2 ^ x.rsize.toNat % 4096 ∧ (t.dma[c]).desc = none ∧ (t.dma[c]).issued = 0) ∧
    (∀ (off : Nat) (d : Vector Word 8), s.PlainHarbour → x.descAddr = 0x20000000 + off → off + 32 ≤ 0x2000000 → dBad d = false →
      (∀ k : Fin 8, s.hNum (off + 4 * k.val) 4 = (d[k]).toNat) → (∃ tag : Byte, tag.toNat < 128 ∧ (dmaSrc c, tag) ∉ s.net.quarantine) →
      (x.en = true → x.st = .idle → x.tail ≠ x.head → s.mode ≠ .safeStop →
        ∃ t, exec (.dmaDescriptorStart c) s = .next t ∧ (t.dma[c]).st = .running ∧ (t.dma[c]).desc = some d ∧ (t.dma[c]).inflight.head? = some 0) ∧
      (x.en = true → x.st = .faulted → x.issued < dTotal d →
        ∃ t, exec (.dctlResume acc c) s = .next t ∧ (t.dma[c]).st = .running ∧ (t.dma[c]).desc = some d ∧
          (t.dma[c]).inflight.head? = some x.issued ∧ answered t acc .ok [])) ∧
    (∀ (off dst len : Nat) (d : Vector Word 8), s.PlainHarbour → x.descAddr = 0x20000000 + off → off + 32 ≤ 0x2000000 → dBad d = false → dOp d = 1 →
      dXd d = false → dRows d = 1 → dDst d = 0x20000000 + dst → dst % 8 = 0 → dLen d = len → len % 8 = 0 → dst % 64 + len ≤ 64 → dst + len ≤ 0x2000000 →
      (off + 32 ≤ dst ∨ dst + len ≤ off) →
      x.st = .running → x.desc = some d → x.inflight = [0] → x.issued = len → x.fail = none → x.old = none → x.put = 0 → x.en = true →
      ∃ t, exec (.dmaBeatResponse c) s = .next t ∧
        (∀ k < len, rdByte 0 t.harbour.mem (dst + k) = BitVec.ofNat 8 ((dSrc d).toNat / 256 ^ (k % 8))) ∧
        t.hNum (off + 28) 4 = 0x10000000 + len ∧ (t.dma[c]).st = .idle ∧ (t.dma[c]).doneIrq = (x.doneIrq || dIrq d) ∧
        (t.dma[c]).tail.toNat = (x.tail.toNat + 1) % 2 ^ x.rsize.toNat % 4096)

/-- XINV drops the entries of its context, all or those of its page, and keeps the others; a walk through tables in harbour that ends fills
one entry (spec/14 R336, R337). -/
def sharedTranslationRule : Prop :=
  ∀ (s : State) (acc : Acc) (v : Word), accReachesRegs acc = true →
    (∃ t, exec (.xinv acc v) s = .next t ∧ answered t acc .ok [] ∧
      ∀ j : Fin 64, t.xlat.tlb[j] = match s.xlat.tlb[j] with
        | some (k, e) => if k.val = v.toNat % 16 ∧ (v.getLsbD 8 = true ∨ e.maps (v &&& 0xFFFFF000) = true) then none else some (k, e)
        | none => none) ∧
    (∀ (q : XReq) (rest : List XReq) (o1 o2 : Nat), s.PlainHarbour → s.xlat.walks = q :: rest → q.l1 = none → o1 % 8 = 0 → o2 % 8 = 0 → o1 + 8 ≤ 0x2000000 → o2 + 8 ≤ 0x2000000 →
      let e1 : DWord := BitVec.ofNat 64 (s.hNum o1 8)
      let e2 : DWord := BitVec.ofNat 64 (s.hNum o2 8)
      (l1Addr (s.xlat.ctx[q.ctx]) q.va).toNat = 0x20000000 + o1 → (l2Addr e1 q.va).toNat = 0x20000000 + o2 → 5 ≤ q.src.val → q.src.val ≤ 22 →
      l1Bad e1 = false → l2Bad e2 = false →
      ∃ t, exec .xlatWalkComplete s = .next t ∧ t.xlat.walks = rest ∧
        t.xlat.tlb[s.xlat.tlbNext] = some (q.ctx, { vpn := q.va.extractLsb' 12 20, pte := e2 }) ∧ ∀ j : Fin 64, j ≠ s.xlat.tlbNext → t.xlat.tlb[j] = s.xlat.tlb[j])

/-- DMA channels, from a descriptor to its completion, and the shared translation: invalidation and a walk that ends (spec/14 R336 to R343). -/
def Obligations.DmaAndXlat : Prop := dmaChannelsRule ∧ sharedTranslationRule

/-! ### Lanes, streams, the riser and the strait (spec/08) -/

/-- Lanes and links: SYSREF establishes the LEMC of every enabled link, an aligned link locks its lanes, a multiblock advances the LEMC and
counts CRC errors, a lost lane is reported, Ethernet gains its link, and a recalibration ends (spec/08 R193, R195, R210, R213). -/
def Obligations.LanesAndLinks : Prop :=
  ∀ (s : State) (k : Fin 8) (l : Fin 16) (frames : List (List Word)),
    (∀ mis : Byte, ∃ t, exec (.sysrefEdge mis) s = .next t ∧ (∀ j : Fin 8, (s.rxLinks[j]).cfg0.getLsbD 27 = true → (t.rxLinks[j]).lemcOk = true ∧
        (mis.getLsbD j.val = true ∨ (s.rxLinks[j]).lemcOk = false → (t.rxLinks[j]).lemc = 0)) ∧
      ∀ j : Fin 4, (s.txLinks[j]).cfg0.getLsbD 27 = true → (t.txLinks[j]).lemcOk = true) ∧
    ((s.rxLinks[k]).cfg0.getLsbD 27 = true → (s.rxLinks[k]).lemcOk = true →
      ∃ t, exec (.linkAligned k) s = .next t ∧ ∀ j ∈ s.rxLanes k, (t.lanes[j]).lock = true ∧ (t.lanes[j]).aligned = true ∧ (t.lanes[j]).up = true) ∧
    ((s.rxLinks[k]).cfg0.getLsbD 27 = true → s.rxLanes k = [l] → (s.lanes[l]).aligned = true →
      ∃ t, exec (.jesdMultiblockRx k false frames) s = .next t ∧ (t.rxLinks[k]).lemc = (s.rxLinks[k]).lemc + 1 ∧
        t.lanes[l] = { s.lanes[l] with errCnt := satInc (s.lanes[l]).errCnt }) ∧
    ((s.lanes[l]).role ≠ 0 → (s.lanes[l]).role ≠ 5 →
      ∃ t, exec (.laneLinkLoss l) s = .next t ∧ t.lanes[l] = { s.lanes[l] with lock := false, aligned := false, up := false, errCnt := (t.lanes[l]).errCnt } ∧
        min 0xFFFF ((s.lanes[l]).errCnt.toNat + 1) ≤ (t.lanes[l]).errCnt.toNat ∧
        (∀ n : CoreId, (t.cores[n]).irq.getLsbD 17 = true) ∧ lastEvent t = some (.laneReport, [BitVec.ofNat 8 l.val])) ∧
    ((s.lanes[l]).role = 4 →
      (∃ t, exec (.ethernetLinkUp l) s = .next t ∧ t.lanes[l] = { s.lanes[l] with lock := true, up := true }) ∧
      ((s.lanes[l]).up = true → ∀ f out,
        (∃ t, exec (.ethFrameRx l f false) s = .next t ∧ t.lanes[l] = { s.lanes[l] with ethDrop := (s.lanes[l]).ethDrop + 1 } ∧ t.ethTx = s.ethTx) ∧
        (f.length ≤ 1522 → ethAnswer (s.holm.netObj[l]) f = .send out →
          ∃ t, exec (.ethFrameRx l f true) s = .next t ∧ t = { s with ethTx := s.ethTx ++ [(l, out)] }))) ∧
    ((s.lanes[l]).recal = true → ∀ ok, ∃ t, exec (.laneRecalibrationDone l ok) s = .next t ∧ t.lanes[l] = { s.lanes[l] with recal := false } ∧
      lastEvent t = some (.recal, [BitVec.ofNat 8 l.val, if ok then 1 else 0]))

/-- A word on a channel of the stream port enters the buffer of the entry that receives it, at its place of the frame; a trigger marks every
channel; a buffered word moves into its ladle bank when that is free; SCTL resumes a paused entry and drops a disabled copy (spec/08 R204 to
R216, spec/15 R356, R357). -/
def streamDataRule : Prop :=
  ∀ (s : State) (ch : Fin 128) (v : Word) (e : Stream) (acc : Acc), s.sprue.cache = [e] →
    (s.portOpen = true → s.domainOpen 312 = true → e.enabled = true → e.src = 1 → e.srcsel = ch.val → e.inFrame = true → e.seq = s.shore.portSeq[ch] → s.shore.marks[ch] = 0 →
      e.deint = 0 → e.decim = 0 → e.fmt = 3 → e.skipWords = 0 → e.dropping = false → e.item = 0 → e.got[0] < e.total → e.got[0] + 1 < e.frameWords →
      4 * e.waiting.length + 4 ≤ 65536 →
      ∃ t, exec (.streamPortBeat ch { w0 := some v, w1 := none }) s = .next t ∧ t.shore.portSeq[ch] = s.shore.portSeq[ch] + 1 ∧ t.sprue.cache = [{ e with
        seq := e.seq + 1, got := e.got.set 0 (e.got[0] + 1), put := e.put.set 0 (e.got[0] + 1)
        waiting := e.waiting ++ [{ field := 0, idx := e.got[0], fill := e.fillBase + e.got[0] / e.dstN, frame := e.frames, word := v &&& 0xFF }] }]) ∧
    (∀ k : Fin 8, k.val < 7 → s.portOpen = true → ∃ t, exec (.triggerRise k) s = .next t ∧ ∀ c : Fin 128, (t.shore.marks[c]).getLsbD k.val = true) ∧
    (∀ (w : SWord) (a : Arch) (p : Fin 32) (i : Nat), e.dsth = false → e.status ≠ 4 → e.waiting = [w] →
      peSplit (e.dstpe + w.field.val * e.fstride + w.idx % e.dstN) = (a, p, i) → i < 256 →
      s.bankFree e w.fill (e.dstpe + w.field.val * e.fstride + w.idx % e.dstN) = true → (s.arch[a]).seq.part.twin = false → (s.arch[a]).tide.phase = 0 → s.fillOpen a p = true →
      s.domainOpen 312 = true → s.net.lost[(21 : Fin 32)] = 0 →
      ∃ t, exec (.ladleFill e.id) s = .next t ∧ t.sprue.cache = [{ e with waiting := [] }] ∧
        (∀ r : Fin 32, (((t.isl[s.islAt a p]).ladle.bank (e.bankOfFill w.fill))[r]).getLsbD i = w.word.getLsbD r.val) ∧
        ((t.isl[s.islAt a p]).ladle.written (e.bankOfFill w.fill)).getLsbD i = true) ∧
    (accReachesRegs acc = true → s.domainOpen 312 = true →
      (e.status = 4 → e.dropping = false → ∃ t, exec (.sctlResume acc (e.id.setWidth 16)) s = .next t ∧ t.sprue.cache = [{ e with status := e.last, dropped := false }] ∧ answered t acc .ok []) ∧
      (e.enabled = false → ∃ t, exec (.sctlInval acc (e.id.setWidth 16)) s = .next t ∧ t.sprue.cache = [] ∧ answered t acc .ok []))

/-- A completed word group leaves as a result datagram, counted in its context, and frees its bank; a filled replay half starts playing
(spec/08 R219, R220, R222, R223). -/
def riserDataRule : Prop :=
  ∀ (s : State) (a : Arch) (d : Drain) (l : Fin 16) (link : Fin 4),
    ((s.arch[a]).ring.bank = false → (s.arch[a]).ring.drain0 = some d → ({ s.riser.ctx[d.ctx] with rc0 := d.rc0 } : RCtx).dest = 2 → (s.riser.ctx[d.ctx]).markAfter = 0 → s.ethLane = some l →
      s.domainOpen 313 = true → s.pwr.fence.getLsbD (264 + a.val) = false → s.net.lost[ix 32 (24 + a.val)] = 0 →
      ∃ t out, exec (.riserOutbankDrain a) s = .next t ∧ t.ethTx = s.ethTx ++ [(l, out)] ∧ (t.arch[a]).ring = { (s.arch[a]).ring with drain0 := none } ∧
        (t.riser.ctx[d.ctx]).groups = (s.riser.ctx[d.ctx]).groups + 1) ∧
    ((s.riser.replay[link]).filled = true → (s.txLinks[link]).lemcOk = true → s.mode.sendsJesd = true →
      ∃ t, exec (.replayHalfSwitch link) s = .next t ∧ (t.riser.replay[link]).filled = false ∧
        (t.riser.replay[link]).playing = some (match (s.riser.replay[link]).playing with | some b => !b | none => false))

/-- Streams in and results out: words into the frame and the ladle banks, framebars and controls; word groups out, contexts and replay
(spec/08 R204 to R223). -/
def Obligations.StreamsAndRiser : Prop := streamDataRule ∧ riserDataRule

/-- Strait messages whose CRC is right and that come in order reach their user and are acknowledged; one with a bad CRC is discarded and asks
for a replay; the second heartbeat brings the link up, and the first one of a link that is down sets the number the others follow (log 63);
a link that goes down is reported. Planes, latbar numbers and lattice results are taken on a link that serves the lattice (spec/08 R196 to
R201, spec/04 R119, spec/06 R168). -/
def Obligations.StraitMessages : Prop :=
  ∀ (s : State) (lane : Bool) (h : StraitHdr), s.straitOn lane = true →
    let x := s.straits[linkNo lane]
    (h.seq = x.recvSeq + 1 →
      (msgGood h .ack = true → ∃ t, exec (.ack lane h) s = .next t ∧ t = s.modStrait lane (fun y => { y with
        recvSeq := h.seq, nakTx := false, credits := min 64 (x.credits + h.credits.toNat), nakRx := if h.nak then some h.ack else x.nakRx })) ∧
      (∀ n, msgGood h (.bar n) = true → s.latLink lane = true →
        ∃ t, exec (.bar lane h n) s = .next t ∧ (t.straits[linkNo lane]).barRx = some n ∧ (t.straits[linkNo lane]).recvSeq = h.seq) ∧
      (∀ cycle (side : Fin 4) plane, msgGood h (.edge cycle side plane) = true → s.neighbour side = some lane → s.latLink lane = true → x.edgeRx.length < 64 →
        ∃ t, exec (.edge lane h cycle side plane) s = .next t ∧ (t.straits[linkNo lane]).edgeRx = x.edgeRx ++ [(cycle, plane)]) ∧
      (∀ f assay, msgGood h (.assay f assay) = true → s.partnerLane lane = true → x.up = true →
        ∃ t, exec (.assay lane h f assay) s = .next t ∧ t.vital.partnerRx = s.vital.partnerRx ++ [{ lane := lane, f := f, assay := assay }]) ∧
      (∀ b, msgGood h (.hb b) = true → x.hbValid = 1 →
        ∃ t, exec (.hb lane h b) s = .next t ∧ (t.straits[linkNo lane]).up = true ∧ (t.straits[linkNo lane]).hb = some b ∧
        (s.vital.hbWait = true → s.partnerLane lane = true → b.running = true → t.vital.nextF = b.f + 1 ∧ t.vital.hbWait = false)) ∧
      (∀ orv cnt (m : Fin 4), msgGood h (.red orv cnt m 0) = true → s.latLink lane = true → s.latLanes.contains lane = true →
        s.latLanes.contains (!lane) = false → s.lattice.redTaken[m] < x.redSeen[m] + 1 → s.lattice.kinds = [] →
        ∃ t, exec (.red lane h orv cnt m 0) s = .next t ∧ t.lattice.redRx[m] = s.lattice.redRx[m] ++ [(orv, cnt)])) ∧
    (∀ b, msgGood h (.hb b) = true → x.up = false → x.hbValid = 0 →
      ∃ t, exec (.hb lane h b) s = .next t ∧ (t.straits[linkNo lane]).recvSeq = h.seq ∧ (t.straits[linkNo lane]).hbValid = 1 ∧ (t.straits[linkNo lane]).up = false) ∧
    (msgGood h .ack = false → x.nakTx = false →
      ∃ t, exec (.ack lane h) s = .next t ∧ (t.straits[linkNo lane]).nakTx = true ∧ (t.straits[linkNo lane]).recvSeq = x.recvSeq ∧
        (t.straits[linkNo lane]).outbox.getLast?.map (fun m => (m.nak, m.ack)) = some (true, x.recvSeq) ∧
        (t.lanes[linkLane lane]).errCnt = satInc (s.lanes[linkLane lane]).errCnt) ∧
    (∀ a, x.nakRx = some a → ∃ t, exec (.straitReplay lane) s = .next t ∧ (t.straits[linkNo lane]).nakRx = none ∧
      (t.straits[linkNo lane]).outbox = x.outbox ++ x.replay.filter (fun m => decide (0 < (m.seq - a).toNat ∧ (m.seq - a).toNat < 0x8000))) ∧
    (∀ us, s.mode.beats = true → ∃ t, exec (.hbSend us) s = .next t ∧
      ∃ m, (t.straits[linkNo lane]).outbox = x.outbox ++ [m] ∧ m.body = .hb (s.ownHb us)) ∧
    (x.up = true → ∃ t, exec (.straitLinkDown lane) s = .next t ∧ (t.straits[linkNo lane]).up = false ∧ (t.straits[linkNo lane]).cut = true ∧ (t.lanes[linkLane lane]).up = false ∧
      (∀ n : CoreId, (t.cores[n]).irq.getLsbD 17 = true)) ∧
    (s.vital.hbWait = true → ∃ t, exec .guardEntryHbTimeout s = .next t ∧ t.vital.hbWait = false ∧ t.vital.nextF = 0)

/-! ### The vital frame, the window and the DYN outputs (spec/06, spec/07, spec/16) -/

/-- At a boundary a clean frame opens the window, any other leaves it pending with its cause; the first boundary judges nothing; the next
frame starts with FRAME_START in VCORE's slot; the Holm moves the window out of OPEN for a recorded cause (spec/06 R164, R166, R169,
R170). -/
def Obligations.FramesAndWindow : Prop :=
  ∀ (s : State) (n : CoreId), s.vital.par.vcore.toNat = n.val → s.mode = .guard → s.vital.par.pairs ≠ 0 →
    (s.vital.hbWait = false → s.pwr.target = none → s.vital.leaveDue = none → s.holm.txn.st ≠ .accepted →
      let begins := fun (t : State) => exec .frameBoundary s = .next t ∧ t.vital.f = s.vital.nextF ∧ t.vital.nextF = s.vital.nextF + 1 ∧
        t.vital.running = true ∧ t.vital.claimed = false ∧ t.vital.doneOk = false ∧ t.vital.assay = none ∧ t.holm.frmNew[n] = true ∧
        t.holm.fseq[n] = s.holm.fseq[n] + 1
      (s.vital.running = true → s.vital.fault = none → s.vital.awaitResume = false → ∃ t, begins t ∧ t.vital.win = .opened) ∧
      (∀ c, s.vital.running = true → s.vital.fault = some c → ∃ t, begins t ∧ t.vital.win = .pending ∧ t.vital.lcause = c ∧
        (s.vital.win = .opened → ∀ m : CoreId, (t.cores[m]).irq.getLsbD 0 = true)) ∧
      (s.vital.running = false → ∃ t, begins t ∧ t.vital.win = .pending)) ∧
    (∀ c, s.vital.leaveDue = some c → s.vital.win = .opened →
      ∃ t, exec (.windowLeaveOpen c) s = .next t ∧ t.vital.win = .pending ∧ t.vital.lcause = c ∧ t.vital.leaveDue = none ∧
        ∀ m : CoreId, (t.cores[m]).irq.getLsbD 0 = true)

/-- The Holm has answered core `n`: GO is clear and VALID set. -/
def replied (t : State) (n : CoreId) : Prop := t.holm.go[n] = false ∧ t.holm.rplValid[n] = true

/-- The cores' requests through the mailbox: a claim takes the frame and clears TNT, a FRAME_DONE in time with the right answer and no taint
is accepted and makes the assay of the two copies, a wrong answer spoils the frame with cause 4, one for a frame accepted before changes
nothing, an event is recorded, a SAFE STOP is entered
(spec/06 R160, R166, R167; spec/16 R380 to R382). -/
def Obligations.MailboxRequests : Prop :=
  ∀ (s : State) (n : CoreId) (seq : Word) (f : BitVec 64) (ans : Word) (us : Nat), s.holm.go[n] = true →
    let v := s.vital
    let carries := fun (type len : Nat) (payload : List Byte) => s.mboxMsg n = { type := type, len := len, seq := seq, clean := true, payload := payload }
    (v.par.vcore.toNat = n.val → v.running = true → v.claimed = false → f = v.f → carries 2 8 (bytesLE 8 f.toNat) →
      ∃ t, exec (.frameClaim n seq f) s = .next t ∧ t.vital.claimed = true ∧ (t.cores[n]).tnt = false ∧ replied t n) ∧
    (v.par.vcore.toNat = n.val → v.running = true → v.claimed = true → f ∉ v.accepted → f = v.f → v.par.vwmin.toNat ≤ us → us ≤ v.par.vwmax.toNat →
      carries 3 12 (bytesLE 8 f.toNat ++ bytesLE 4 ans.toNat) →
      (ans = (v.challenge * v.par.vwkey).rotateLeft (v.f.toNat % 32) → (s.cores[n]).tnt = false → (∀ a ∈ s.pairArchs, (s.arch[a]).seq.tnt = false) →
        (∃ t, exec (.frameDone n seq f ans us) s = .next t ∧ t.vital.doneOk = true ∧ replied t n) ∧
        (v.par.vlen = 8 → v.vrLost = false → s.domainOpen 303 = true → s.harbour.delta = [] →
          (∀ i < 8, rdByte 0 s.harbour.mem (0x1FFE000 + i) ^^^ rdByte 0 s.harbour.mem (0x1FFF000 + i) = 0xFF) →
          ∃ t, exec (.frameDone n seq f ans us) s = .next t ∧ t.vital.assay =
            some (sha3 (bytesLE 8 f.toNat ++ bytesLE 8 v.fepoch.toNat ++ (List.range 8).map (fun i => rdByte 0 s.harbour.mem (0x1FFE000 + i)))))) ∧
      (ans ≠ (v.challenge * v.par.vwkey).rotateLeft (v.f.toNat % 32) → v.frameCause = none →
        ∃ t, exec (.frameDone n seq f ans us) s = .next t ∧ t.vital.doneOk = v.doneOk ∧ t.vital.frameCause = some 4 ∧ replied t n)) ∧
    (v.par.vcore.toNat = n.val → f ∈ v.accepted → carries 3 12 (bytesLE 8 f.toNat ++ bytesLE 4 ans.toNat) →
      ∃ t, exec (.frameDone n seq f ans us) s = .next t ∧ t.vital = (s.timeIs us).vital ∧ replied t n) ∧
    (∀ (code : BitVec 16) (data : List Byte), data.length ≤ 24 → carries 4 (data.length + 2) (bytesLE 2 code.toNat ++ data) →
      ∃ t, exec (.eventPost n seq code data) s = .next t ∧ lastEvent t = some (.posted code, data) ∧ replied t n) ∧
    (∀ reason : BitVec 16, carries 5 2 (bytesLE 2 reason.toNat) → s.mayStop = true →
      ∃ t, exec (.safeStopReq n seq reason) s = .next t ∧ t.mode = .safeStop ∧ replied t n)

/-- DYN outputs run back to back while the window is OPEN, high for the half period that the key of the frame names and low for the other
half, and are low otherwise; no period begins within another; a monitor takes its first edge, a static input counts a mismatch, and so does
an edge too late after the expected window left OPEN (spec/07 R173 to R179; which of the two periods counts then is the model's choice, log
65). -/
def Obligations.DynOutputs : Prop :=
  ∀ (s : State) (i : Fin 8) (us : Nat),
    let d := s.dyn
    (s.vital.win = .opened → s.mode = .guard → d.en.getLsbD i.val = true → d.ends i us = true → d.periodAt[i].isSome = true ∨ us ≤ 2 →
      ∃ t, exec (.dynPeriod i us) s = .next t ∧ t.dyn.pin[i] = .high ∧ t.dyn.drv.getLsbD i.val = true ∧ t.dyn.periodAt[i] = some (us : Int) ∧
        t.dyn.periodHalf[i] = BitVec.ofNat 16 (d.half (keyBit d.keyAssay i (halfSlot us (s.vital.par.frameMs.toNat * 1000)))) ∧
        ∀ at' : Int, ((us : Int) ≤ at' → at' < us + (t.dyn.periodHalf[i]).toNat → t.dyn.level i at' = .high) ∧
          ((us : Int) + (t.dyn.periodHalf[i]).toNat ≤ at' → t.dyn.level i at' = .low)) ∧
    (d.ends i us = false ∨ (s.vital.win = .opened ∧ s.mode = .guard ∧ d.en.getLsbD i.val = true ∧ d.periodAt[i] = none ∧ 2 < us) →
      exec (.dynPeriod i us) s = .next (s.timeIs us)) ∧
    (s.vital.win ≠ .opened → d.pin[i] ≠ .hiZ → d.ends i us = true →
      ∃ t, exec (.dynPeriod i us) s = .next t ∧ t.dyn.pin[i] = .low ∧ t.dyn.drv.getLsbD i.val = false ∧ ∀ j : Fin 8, j ≠ i → t.dyn.pin[j] = d.pin[j]) ∧
    (d.msrc.toNat / 4 ^ i.val % 4 ≠ 0 → s.expectOpen i = true →
      ((d.mon[i]).lastEdge = none → ∃ t, exec (.dynmonEdge i us) s = .next t ∧ (t.dyn.mon[i]).lastEdge = some (us : Int) ∧ t.dyn.misCnt = d.misCnt) ∧
      (d.monreact.getLsbD i.val = false →
        ∃ t, exec (.dynmonStaticTimeout i) s = .next t ∧ t.dyn.misCnt = satInc d.misCnt ∧ t.dyn.misFrame.getLsbD i.val = true)) ∧
    (d.msrc.toNat / 4 ^ i.val % 4 ≠ 0 → s.expectOpen i = false → d.monreact.getLsbD i.val = false →
      ∃ t, exec (.dynmonEdge i us) s = .next t ∧ t.dyn.misCnt = if (s.timeIs us).edgeLate i us then satInc d.misCnt else d.misCnt)

/-! ### Modes, supply, the ebb and the tide (spec/18, spec/19, spec/20) -/

/-- A mode transition completes where its regrouping is allowed and every domain it switches off is fenced and drained, and waits where a
sequencer or a core is not ready; alarms and the wake edge wake a dormant device, and a wake ends in SENTINEL (spec/18 R416, R422, R424,
Table 18.5; spec/13 R317). -/
def modeTransitionsRule : Prop :=
  ∀ (s : State) (m : Mode),
    (s.pwr.target = some m → s.mode ≠ .dormant → (s.mode = .safeStop → ∀ d < 264, s.pwr.on.getLsbD d = false) → s.mayRegroup m = true →
      s.coresQuiet m = true → (∀ d ∈ s.leaving m, s.pwr.fence.getLsbD d = true ∧ s.domDrained d = true) →
      ∃ t, exec .modeTransitionComplete s = .next t ∧ t.mode = m ∧ t.pwr.target = none ∧ (m ≠ .guard → t.vital.win = .closed)) ∧
    (s.pwr.target = some m → s.mayRegroup m = false ∨ s.coresQuiet m = false → exec .modeTransitionComplete s = .next s) ∧
    (s.mode = .dormant →
      (s.pwr.alarm ≠ 0 → ∃ t, exec .skerryAlarm s = .next t ∧ t.pwr.target = some .sentinel ∧ t.pwr.alarm = 0) ∧
      ((s.shore.latches[0]).toNat % 8 = 1 → ∃ t, exec .sh000WakeEdge s = .next t ∧ t.pwr.target = some .sentinel) ∧
      (s.pwr.target = some .sentinel → ∃ t, exec .wakeComplete s = .next t ∧ t.mode = .sentinel ∧ lastEvent t = some (.wake, [])))

/-- Supply, temperature and pins: HOLD crossings and their timeout in GUARD, thermal steps and the stop at 128 °C, AVS in steps of 5 mV, the
crystal, the pin instructions of JTAG (spec/18 R419, R420, R430; spec/20 R450, R464). HOLDV at a crossing is a free value of its
range (log 18). -/
def supplyAndThermalRule : Prop :=
  ∀ (s : State) (ok : Bool) (tj : BitVec 16) (target : Nat) (ir : JtagPin), s.mode ≠ .off →
    (∃ t, exec (.holdokChange ok) s = .next t ∧ t.pwr.holdOk = ok ∧ t.mode = s.mode ∧ (ok = true → 180 ≤ t.pwr.holdV.toNat ∧ t.pwr.holdV.toNat ≤ 200) ∧ (ok = false → t.pwr.holdV.toNat < 180)) ∧
    (s.mode = .guard → s.pwr.holdOk = false → s.mayStop = true → ∃ t, exec .holdokTimeout s = .next t ∧ t.mode = .safeStop) ∧
    (∃ t, exec .crystalStart s = .next t ∧ t.pwr.crystal = true) ∧
    (s.holmRuns = true →
      (tj.toInt < 2048 → ∃ t, exec (.thermalSample tj) s = .next t ∧ t.pwr.tj = tj ∧ t.mode = s.mode ∧ (1680 < tj.toInt → t.pwr.step = true) ∧
        (tj.toInt < 1600 → t.pwr.step = false) ∧ (1600 ≤ tj.toInt → tj.toInt ≤ 1680 → t.pwr.step = s.pwr.step)) ∧
      (2048 ≤ tj.toInt → s.mayStop = true → ∃ t, exec (.thermalSample tj) s = .next t ∧ t.mode = .safeStop) ∧
      (720 ≤ target → target ≤ 780 → target % 5 = 0 → target = s.pwr.avs + 5 ∨ target + 5 = s.pwr.avs → ∃ t, exec (.avsStep target) s = .next t ∧
        ((t.pwr.avs = target ∧ t.events = s.events) ∨
          (t.pwr = s.pwr ∧ lastEvent t = some (.avsLost, bytesLE 2 target))))) ∧
    (s.vital.win = .closed → s.mode ≠ .guard →
      ∃ t, exec (.jtagPinControl ir) s = .next t ∧ t.holm.jtag = some ir ∧ t.mode = s.mode ∧
        ∀ i : Fin 8, t.dyn.pin[i] = if ir = .highz then .hiZ else .low) ∧
    (s.mode = .guard → s.mayStop = true → ∃ t, exec (.jtagPinControl ir) s = .next t ∧ t.holm.jtag = some ir ∧ t.mode = .safeStop)

/-- The ebb: the window closes, DYN is low and sessions end; the snapshot step turns an APPLYING journal entry to UNDO; then the Holm idles
until the supply returns or HOLD collapses; RESET_N resets (spec/18 R427 to R429, Table 18.7; spec/07 R173; spec/16 Table 16.13). -/
def ebbRule : Prop :=
  ∀ (s : State),
    (s.mode ≠ .off → s.mode ≠ .ebb → s.shore.nvBusy = false →
      ∃ t, exec .ebb s = .next t ∧ t.mode = .ebb ∧ t.vital.win = .closed ∧ t.holm.sessions = [] ∧ (∀ i : Fin 8, t.dyn.pin[i] = .low) ∧ t.pwr.ebbStep = 2 ∧
        t.pwr.on.getLsbD 314 = true ∧ t.pwr.on.getLsbD 315 = true ∧ ∀ k < 314, t.pwr.on.getLsbD k = false) ∧
    (s.mode = .ebb →
      (s.pwr.ebbStep = 2 → ∃ t, exec .snapshotSealed s = .next t ∧ t.pwr.ebbStep = 4 ∧ lastEvent t = some (.ebb, []) ∧
        ∀ j, s.holm.keep.journal = some j → t.holm.keep.journal = some (if j.st = .applying then Journal.sealed { j with st := .undo } else j)) ∧
      (s.pwr.ebbStep = 4 → ∃ t, exec .ebbComplete s = .next t ∧ t.pwr.ebbStep = 5) ∧
      (s.pwr.ebbStep = 5 → ∃ t, exec .ebbRecovery s = .next t ∧ t.mode = .boot ∧ t.pwr.rstCause = 2 ∧ t.events = s.events ∧ t.holm.keep.snapA = s.holm.keep.snapA ∧
        t.holm.keep.snapB = s.holm.keep.snapB ∧ t.holm.keep.journal = s.holm.keep.journal ∧ (s.holm.sessions = [] → t.holm.keep = s.holm.keep)) ∧
      (∃ t, exec .holdCollapse s = .next t ∧ t.mode = .off ∧ t.pwr.on = 0 ∧ ∀ i : Fin 8, t.dyn.pin[i] = .hiZ) ∧
      (∃ t, exec .vddioSysCollapse s = .next t ∧ ∀ i : Fin 8, t.dyn.pin[i] = .hiZ)) ∧
    (s.mode ≠ .off → ∃ t, exec .resetNLow s = .next t ∧ t.mode = .boot ∧ t.pwr.rstCause = 1 ∧ t.holm.keep.persist = s.holm.keep.persist ∧ t.holm.keep.journal = s.holm.keep.journal ∧ t.holm.sessions = [] ∧
      t.holm.fuses = s.holm.fuses)

/-- Supply, temperature and the ebb (spec/18 R419, R420, R427 to R430; spec/20 R450). HOLDV at a crossing is a free value of its range (log
18). -/
def Obligations.SupplyAndEbb : Prop := supplyAndThermalRule ∧ ebbRule

/-- A boot whose ROM check fails stays in BOOT with RSTCAUSE 4, a scrapped device stays there, and a blank device whose control plane is
accepted boots into PROVISION (spec/16 R377, R387, Table 16.13; the reading
of the failed ROM check is DEDUCED, log 20). -/
def bootRule : Prop :=
  ∀ (s : State) (b : BootInput), s.mode = .boot → s.holm.started = false →
    (b.romOk = false → ∃ t, exec (.bootSequence b) s = .next t ∧ t.mode = .boot ∧ t.pwr.rstCause = 4 ∧ t.holm.started = true ∧ t.holm.bootCount = s.holm.bootCount + 1) ∧
    (b.romOk = true → s.holm.lcState = 4 → s.holm.keep.pendingLc = false → ∃ t, exec (.bootSequence b) s = .next t ∧ t.mode = .boot ∧ t.pwr.on = s.pwr.on ∧ t.holm.started = true) ∧
    (∀ i : Image, b.romOk = true → b.flashOk = true → s.holm.lcState = 0 → s.holm.keep.pendingLc = false →
      (∃ off len, s.holm.flash = [{ active := true, alternate := false, offset := off, length := len, image := i }]) → i.typ = 1 → i.target = 0 →
      i.body = .uzoug → imageFormat i = true → imageSigned i s.holm.vendorKey = true → imageDigest i = true → i.ctrIdx = 0 →
      (s.holm.counters[0]).toNat ≤ i.ctrVal.toNat →
      ∃ t, exec (.bootSequence b) s = .next t ∧ t.mode = .provision ∧ t.holm.bootCount = s.holm.bootCount + 1 ∧ t.holm.bootstat.getLsbD 31 = true)

/-- Mode transitions and waking, and the ends of a boot (spec/18 R422, R424; spec/16 R377, R387; the reading of the failed ROM check is
DEDUCED, log 20). -/
def Obligations.ModesAndBoot : Prop := modeTransitionsRule ∧ bootRule

/-- The phases of a tide step: the reserve is powered, the copy ends, the swap moves the position to the reserve, and a passed test makes the
old island the reserve (spec/19 R437 to R440, Table 19.1; spec/01 R16). -/
def tideStepsRule : Prop :=
  ∀ (s : State) (a : Arch) (p : Fin 32),
    let x := s.arch[a]
    (s.tideRuns a = true → x.tide.susp = false → x.tide.phase = 0 →
      ∃ t, exec (.tideStepStart a) s = .next t ∧ (t.arch[a]).tide.phase = 1 ∧ t.pwr.on.getLsbD (islOf a x.rslot.toNat).val = true) ∧
    (x.tide.phase = 2 → ∃ t, exec (.tideShadowComplete a) s = .next t ∧ (t.arch[a]).tide.phase = 3) ∧
    (x.tide.phase = 3 → s.streamOf a = [a] → x.seq.swapHere = true → x.islmap[p] = x.tide.tslot → (∀ q : Fin 32, q ≠ p → x.islmap[q] ≠ x.tide.tslot) →
      x.tide.mapOutNow = false → s.trapNow a = none → islOf a x.rslot.toNat ≠ s.islAt a p →
      ∃ t, exec (.tideSwap a) s = .next t ∧ (t.arch[a]).islmap = x.islmap.set p.val x.rslot ∧ (t.arch[a]).gen = x.gen + 1 ∧ (t.arch[a]).tide.phase = 4 ∧
        (t.isl[islOf a x.rslot.toNat]).k = (s.isl[s.islAt a p]).k ∧ (t.isl[islOf a x.rslot.toNat]).role = 0 ∧ (t.isl[s.islAt a p]).role = 3) ∧
    (x.tide.phase = 4 → x.tide.badCopy = false → s.domDrained (islOf a x.tide.tslot.toNat).val = true →
      ∃ t, exec (.tideTestComplete a true) s = .next t ∧ (t.arch[a]).tide.phase = 0 ∧ (t.arch[a]).rslot = x.tide.tslot ∧
        t.pwr.on.getLsbD (islOf a x.tide.tslot.toNat).val = false)

/-- Self-tests of the cores and the checks of the Holm: the next core in turn is tested and resumes, a failed ROM check stops the device, the
scrubber moves on over a clean word, an offline test ends (spec/16 R377; spec/19 R444; spec/17 R414). -/
def selfTestsRule : Prop :=
  ∀ (s : State) (n : CoreId) (pass : Bool),
    (s.holmRuns = true → s.coreTesting = false → s.holm.selfNext.val = n.val → s.testBarred n = false →
      ∃ t, exec .coreSelftestTimer s = .next t ∧ (t.cores[n]).selftest = true ∧ t.holm.selfNext = s.holm.selfNext + 1) ∧
    ((s.cores[n]).selftest = true → (s.cores[n]).quiet = true → ∃ t, exec (.coreSelftestDone n pass) s = .next t ∧
      t.cores[n] = { s.cores[n] with selftest := false, stest := if pass then 2 else 3 } ∧
      lastEvent t = some (.selfTest, [BitVec.ofNat 8 n.val, if pass then 1 else 0])) ∧
    (s.holmRuns = true → s.mayStop = true → ∃ t, exec (.holmRomCheck false) s = .next t ∧ t.mode = .safeStop) ∧
    (s.holmRuns = true → SMap.get 0 s.holm.sramDelta s.holm.scrubPos = 0 →
      ∃ t, exec .holmSramScrub s = .next t ∧ t = { s with holm := { s.holm with scrubPos := (s.holm.scrubPos + 1) % 131072 } }) ∧
    (s.holm.offline = true → ∃ t, exec (.offlineTestDone pass) s = .next t ∧ t.holm.offline = false ∧
      lastEvent t = some (.offlineTest, [if pass then 1 else 0]))

/-- Tide steps through their phases, and the self-tests and scrubbers (spec/19 R437 to R444, Table 19.1; spec/16 R377). -/
def Obligations.TideAndTests : Prop := tideStepsRule ∧ selfTestsRule

/-! ### The shore fabric (spec/15) -/

/-- Loading, release, scrubbing, cells, serial engines, of which the Holm drains the service UART's (log 99), the acceptance filters of CAN FD,
the control port and capture
(spec/15 R350, R354 to R372, spec/17 R394). -/
def shoreFabricRule : Prop :=
  ∀ (s : State) (acc : Acc) (e : Fin 8) (w : Word) (i : Fin 224) (ticks : Nat), accReachesRegs acc = true →
    let h := s.shore
    let g := h.engine[e]
    (∀ l img b, h.load = some l → s.slotImage l.slot = some img → imageBits img = some b → l.step = 6 → bitsCrcOk b = true →
      ∃ t, exec (.fabricLoadStepDone true) s = .next t ∧ t.shore.load = some { l with step := 7 }) ∧
    (∀ l img b, h.load = some l → s.slotImage l.slot = some img → imageBits img = some b → l.step = 6 → bitsCrcOk b = false →
      ∃ t, exec (.fabricLoadStepDone true) s = .next t ∧ t.shore.lerr = 6 ∧ t.shore.st = 2 ∧ t.shore.load = none ∧ t.shore.irq.getLsbD 1 = true) ∧
    (h.release = true → h.loaded = true → h.st = 2 → ∃ t, exec .fabricRelease s = .next t ∧ t.shore.gsr = false ∧ t.shore.st = 3 ∧
      t.shore.pins = .presets ∧ t.shore.pinsNext = if s.mode.pinsFunction then some .function else none) ∧
    (h.loaded = true → h.st = 3 → h.scrubPos < 719 → SMap.get 0 h.fdelta h.scrubPos = 0 →
      (h.bits.all (fun b => netMuxOk b.net) = true →
        ∃ t, exec (.fabricScrub true false) s = .next t ∧ t = { s with shore := { h with scrubPos := h.scrubPos + 1 } }) ∧
      (∀ ok, ok = false ∨ h.bits.any (fun b => !netMuxOk b.net) = true → h.autoReload = false → ∃ t, exec (.fabricScrub ok false) s = .next t ∧ t.shore.gsr = true ∧ (∀ b, h.bits = some b → t.shore.mcells = b.init) ∧ t.shore.st = 4 ∧ t.shore.pins = .presets ∧
        t.shore.irq.getLsbD 3 = true)) ∧
    (∀ b, h.bits = some b →
      ((cellOf b i.val).period = true → ∃ t, exec (.periodCountEdge i.val ticks) s = .next t ∧ t.shore.strobe.getLsbD i.val = true ∧
        t.shore.cells[i] = if ticks ≤ 0xFFFFFF then BitVec.ofNat 25 ticks else 0x1FFFFFF) ∧
      ((cellOf b i.val).sigma = true → ∃ t, exec (.sigmaDeltaWord i.val w) s = .next t ∧ t.shore.sdWord[i] = w)) ∧
    (s.holmListens e = true → ∃ t, exec (.serialEngineRx e (some w)) s = .next t ∧ t.holm = s.holm.uartByte (w.setWidth 8) ∧
      t.shore.irq.getLsbD (8 + e.val) = true ∧ (t.shore.engine[e]).rx = g.rx) ∧
    (s.holmListens e = false → g.mode ≠ 0 →
      (g.mode ≠ 6 → g.rx.length < 64 →
        ∃ t, exec (.serialEngineRx e (some w)) s = .next t ∧ (t.shore.engine[e]).rx = g.rx ++ [w] ∧ t.shore.irq.getLsbD (8 + e.val) = true) ∧
      (∀ g', g.mode = 6 → g.canTake (s.canFilters e) w = (true, g') → g.rx.length < 64 →
        ∃ t, exec (.serialEngineRx e (some w)) s = .next t ∧ t.shore.engine[e] = { g' with rx := g.rx ++ [w] }) ∧
      (∀ g', g.mode = 6 → g.canTake (s.canFilters e) w = (false, g') →
        ∃ t, exec (.serialEngineRx e (some w)) s = .next t ∧ t.shore.engine[e] = g' ∧ t.shore.irq = h.irq)) ∧
    (g.tx.length < 64 → (e = s.uartEngine → acc.src = 4) → ∃ t, exec (.sedataWrite acc e w) s = .next t ∧ (t.shore.engine[e]).tx = g.tx ++ [w] ∧ answered t acc .ok []) ∧
    (∀ rest, g.rx = w :: rest → (e = s.uartEngine → acc.src = 4) → ∃ t, exec (.sedataRead acc e) s = .next t ∧ (t.shore.engine[e]).rx = rest ∧ answered t acc .ok (bytesLE 4 w.toNat)) ∧
    (∀ (req : Request) (k : Nat), req.src = 23 → h.st = 3 → s.net.quarantine.contains (23, req.tag) = false →
      (∀ r ∈ s.net.requests, r.src = 23 → r.tag ≠ req.tag) → req.op = .read k → k ∈ [1, 2, 4, 8] → (s.net.requests.filter (fun r => decide (r.src = 23))).length < 4 →
      ∃ t, exec (.controlPortAccess req) s = .next t ∧ t.net.requests = s.net.requests ++ [req] ∧
        (nodeCheck req = none → ∃ p, t.net.packets = s.net.packets ++ [p] ∧ p.msg = .req req ∧ p.hdr = reqHeader s.parity req)) ∧
    (∀ snap : List Byte, snap.length = 800 → h.capArmed.isSome = true →
      ∃ t, exec (.captureTrigger snap) s = .next t ∧ t.shore.capture = some (bytesLE 128 h.mcells.toNat ++ (List.finRange 224).flatMap h.cellShadow) ∧ t.shore.mcells = h.mcells ∧ t.shore.capArmed = none ∧ t.shore.irq.getLsbD 4 = true)

/-- Flash commands of the user area: a command starts when none is in progress; its completion reads, programs or erases
(spec/15 R360, R373). -/
def flashCommandsRule : Prop :=
  ∀ (s : State) (acc : Acc) (addr : BitVec 16), accReachesRegs acc = true →
    let h := s.shore
    let starts := fun (i : Instr) (cmd : BitVec 2) => ∃ t, exec i s = .next t ∧ answered t acc .ok [] ∧
      t.shore = { h with nvAddr := addr, nvBusy := true, nvCmd := cmd, nvOpAddr := addr &&& 0xFFFC, nvOpData := h.nvData }
    (h.nvBusy = false → starts (.nvctlRead acc addr) 1 ∧ starts (.nvctlProgram acc addr) 2 ∧ starts (.nvctlErase acc addr) 3) ∧
    (h.nvBusy = true →
      (h.nvCmd = 1 → ∃ t, exec (.nvCommandDone true) s = .next t ∧ t.shore.nvBusy = false ∧
        t.shore.nvData = BitVec.ofNat 32 (natLE ((List.range 4).map (fun k => rdByte 0xFF h.flash (h.nvOpAddr.toNat + k))))) ∧
      (h.nvCmd = 2 → ∃ t, exec (.nvCommandDone true) s = .next t ∧ t.shore.nvBusy = false ∧
        (∀ k < 4, rdByte 0xFF t.shore.flash (h.nvOpAddr.toNat + k) = BitVec.ofNat 8 (h.nvOpData.toNat / 256 ^ k)) ∧
        ∀ x, ¬ (h.nvOpAddr.toNat ≤ x ∧ x < h.nvOpAddr.toNat + 4) → rdByte 0xFF t.shore.flash x = rdByte 0xFF h.flash x) ∧
      (h.nvCmd = 3 → ∃ t, exec (.nvCommandDone true) s = .next t ∧ t.shore.nvBusy = false ∧
        ∀ x, rdByte 0xFF t.shore.flash x = if x / 4096 = h.nvOpAddr.toNat / 4096 then 0xFF else rdByte 0xFF h.flash x))

/-- The shore fabric: loading, release, scrubbing, cells, serial engines, capture and its flash (spec/15 R354 to R373). -/
def Obligations.Fabric : Prop := shoreFabricRule ∧ flashCommandsRule

/-! ### Vevis (spec/17) -/

/-- Packet `pk` of session `x` passes the checks of tag and order: it is answered here, its header and tag hold and `clear` is its payload
in clear, its counter and sequence number follow, and no request of the session is unanswered (spec/17 R393 to R398). -/
def Sys2Proof.Machine.State.listens (s : State) (pk : VPacket) (x : Session) (clear : List Byte) : Prop :=
  s.answers pk = true ∧ pkHdrOk pk = true ∧ opened pk x = some clear ∧ pk.sess ≠ 0 ∧ s.session? pk.sess = some x ∧ x.ctrIn.toNat < pk.ctr.toNat ∧
  pk.ctr.getLsbD 47 = false ∧ pk.seq = x.seq + 1 ∧ s.awaited pk.sess = false

/-- `pk` with the clear payload `clear` ends a message of opcode `op` whose payload is `data`: it is the one packet of it, or the last fragment
behind the partial message `part` (spec/17 R396). -/
def ends (part : Option (BitVec 16 × Word × List Byte × Nat)) (op : BitVec 16) (pk : VPacket) (clear data : List Byte) : Prop :=
  (pk.frag = 0 ∧ (pkLast pk = true ∨ pk.payload.length ≠ 1388) ∧ data = clear) ∨
  (pkLast pk = true ∧ ∃ got, part = some (op, pk.seq, got, pk.frag.toNat) ∧ pk.frag ≠ 0 ∧ data = got ++ clear ∧ data.length ≤ 65536)

/-- `pk` is a whole request of session `x` with payload `body`. -/
def Sys2Proof.Machine.State.hears (s : State) (pk : VPacket) (x : Session) (body : List Byte) : Prop :=
  s.listens pk x body ∧ pk.frag = 0 ∧ pkLast pk = true

/-- The state in which the command of an accepted request acts: the frame that carried it is gone, its session has taken the request's number,
tag and counter, and keeps no reply yet. -/
def Sys2Proof.Machine.State.heard (s : State) (pk : VPacket) : State :=
  (s.takeFrame pk).modSession pk.sess (fun y => { y with seq := pk.seq, lastTag := pk.tag, cached := none, ctrIn := pk.ctr, part := none })

/-- Where packet `pk` names opcode `op`, command `i` answers it with status code `st` and a payload that `P` says of with the state after. -/
def Sys2Proof.Machine.State.replies (s : State) (i : Instr) (pk : VPacket) (op : BitVec 16) (st : Nat) (P : State → List Byte → Prop) : Prop :=
  pk.op = op → ∃ t r, exec i s = .next t ∧ t.holm.replies = s.holm.replies ++ [r] ∧ r.peer = pk.peer ∧ r.sess = pk.sess ∧ r.seq = pk.seq ∧
    r.op = op ∧ r.status = BitVec.ofNat 16 st ∧ P t r.payload

/-- Only sessions, replies, the frames taken and the draw count differ. -/
def Sys2Proof.Machine.State.Quiet (s : State) (pk : VPacket) (t : State) : Prop :=
  t = { s with fresh := t.fresh, holm := { s.holm with sessions := t.holm.sessions, replies := t.holm.replies, frames := (s.takeFrame pk).holm.frames } }

/-- The Vevis commands with their opcodes and the modes they are served in (spec/17 Table 17.3). -/
def vevisRow (pk : VPacket) (c : Instr × BitVec 16 × (Mode → Bool)) : Prop :=
  let all : Mode → Bool := fun m => 4 ≤ m.code
  let work : Mode → Bool := fun m => 5 ≤ m.code && m.code ≤ 10
  let held : Mode → Bool := fun m => m == .service || m == .safeStop
  let cap : Mode → Bool := fun m => m == .sentinel || m == .survey || m == .split || m == .service || m == .safeStop
  let life : Mode → Bool := fun m => m == .provision || m == .service
  c ∈ [(.hello pk, 0x0001, all), (.sessionOpen pk, 0x0002, all), (.sessionClose pk, 0x0003, all), (.ping pk, 0x0004, all),
   (.getIdentity pk, 0x0101, all), (.attest pk, 0x0102, all), (.getMeasurements pk, 0x0103, all), (.lcGet pk, 0x0201, all),
   (.lcAdvance pk, 0x0202, life), (.programKeySlot pk, 0x0202, life), (.revokeKeySlot pk, 0x0202, life),
   (.imgStage pk, 0x0301, all), (.imgActivate pk, 0x0302, fun m => 4 ≤ m.code && m != .safeStop), (.imgList pk, 0x0303, all),
   (.txnBegin pk, 0x0401, work), (.txnWrite pk, 0x0402, work), (.txnCommit pk, 0x0403, work), (.txnAbort pk, 0x0404, work), (.txnStatus pk, 0x0405, all),
   (.modeGet pk, 0x0501, all), (.modeSet pk, 0x0502, all), (.vitalResume pk, 0x0503, fun m => m == .guard), (.safeStop pk, 0x0504, all),
   (.streamGet pk, 0x0601, all), (.streamEnable pk, 0x0602, work), (.streamDisable pk, 0x0603, fun m => work m || m == .safeStop),
   (.selftestCore pk, 0x0701, all), (.selftestHarbourTide pk, 0x0701, all), (.selftestLaneRecal pk, 0x0701, all), (.selftestOffline pk, 0x0701, all),
   (.tideStatus pk, 0x0702, all), (.tideSuspend pk, 0x0702, all), (.tideResume pk, 0x0702, all), (.tideStepNow pk, 0x0702, all),
   (.statsRead pk, 0x0703, all), (.capture pk, 0x0704, cap), (.captureRead pk, 0x0705, cap), (.eventRead pk, 0x0706, all),
   (.memRead pk, 0x0801, held), (.memWrite pk, 0x0802, fun m => m == .service), (.keepRead pk, 0x0803, held),
   (.partnerStatus pk, 0x0901, all), (.latticeStatus pk, 0x0902, all)]

/-- The checks every Vevis packet meets, in their order: a transport that is not served does nothing, a bad header is dropped and counted, an
unknown session, a tag that does not hold, which may go unanswered, a number out of sequence, a request repeated, before and after its reply, a
request while another is unanswered, a first fragment that is kept, an opcode no row has, a mode that does not serve the command; a refusal
changes no state but what is said of sessions and replies (spec/17 R393 to R398, R404, Table 17.3, Table 17.4; the silence before the reply is
DEDUCED, log 82). -/
def Obligations.VevisChecks : Prop :=
  ∀ (s : State) (pk : VPacket) (c : Instr × BitVec 16 × (Mode → Bool)), vevisRow pk c →
    (s.answers pk = false → exec c.1 s = .next s) ∧
    (s.answers pk = true → pkHdrOk pk = false →
      ∃ t, exec c.1 s = .next t ∧ t = { s with holm := { s.holm with dropped := s.holm.dropped + 1, frames := (s.takeFrame pk).holm.frames } }) ∧
    (s.answers pk = true → pkHdrOk pk = true → pk.sess ≠ 0 →
      (s.session? pk.sess = none → s.replies c.1 pk pk.op 0x0103 (fun t p => p = [] ∧ s.Quiet pk t)) ∧
      (∀ x, s.session? pk.sess = some x → opened pk x = none → ∃ t, exec c.1 s = .next t ∧ s.Quiet pk t ∧
        (t.holm.replies = s.holm.replies ∨ ∃ r, t.holm.replies = s.holm.replies ++ [r] ∧ r.status = 0x0101 ∧ r.payload = [])) ∧
      (∀ x clear, s.session? pk.sess = some x → opened pk x = some clear →
        (pk.seq ≠ x.seq → pk.seq ≠ x.seq + 1 → s.replies c.1 pk pk.op 0x0102 (fun t p => p = [] ∧ s.Quiet pk t)) ∧
        (pk.seq = x.seq → pk.tag = x.lastTag →
          (s.awaited pk.sess = true → exec c.1 s = .next (s.takeFrame pk)) ∧
          (∀ st data, s.awaited pk.sess = false → x.cached = some (st, data) →
            s.replies c.1 pk pk.op st.toNat (fun t p => p = data ∧ s.Quiet pk t))) ∧
        (s.awaited pk.sess = true → pk.seq = x.seq + 1 → x.ctrIn.toNat < pk.ctr.toNat → pk.ctr.getLsbD 47 = false →
          s.replies c.1 pk pk.op 0x0302 (fun t p => p = [] ∧ s.Quiet pk t)) ∧
        (s.listens pk x clear → x.part = none → pk.frag = 0 → pkLast pk = false → pk.payload.length = 1388 → clear.length ≤ 65536 →
          exec c.1 s = .next ((s.takeFrame pk).modSession pk.sess (fun y => { y with part := some (pk.op, pk.seq, clear, 1) }))) ∧
        (s.hears pk x clear → pk.op ≠ c.2.1 → s.replies c.1 pk pk.op 0x0201 (fun t p => p = [] ∧ s.Quiet pk t)) ∧
        (s.hears pk x clear → x.roles = 0x3F → c.2.2 s.mode = false → (c.1 = .keepRead pk → keepDenied clear = false) →
          s.replies c.1 pk c.2.1 0x0301 (fun t p => p = [] ∧ s.Quiet pk t))))

/-- The commands that read: each answers with what spec/17 R403 and Table 17.3 name, and changes nothing (a free value where the spec gives
none: signatures, seconds, times). -/
def Obligations.VevisReads : Prop :=
  ∀ (s : State) (pk : VPacket) (x : Session) (body : List Byte), s.hears pk x body →
    let gives := fun (i : Instr) (op : BitVec 16) (p : List Byte) => s.replies i pk op 0 (fun t q => q = p ∧ s.Quiet pk t)
    let h := s.holm
    (body.length ≤ 64 → gives (.ping pk) 0x0004 body) ∧
    (body.length = 32 → s.replies (.attest pk) pk 0x0102 0 (fun t q => s.Quiet pk t ∧ ∃ sig, sig.length = 4627 ∧ q = s.report body ++ sig)) ∧
    (body = [] →
      gives (.getIdentity pk) 0x0101 (bytesLE 4 s.ident.toNat ++ bytesLE 2 Config.identityCert.length ++ Config.identityCert) ∧
      gives (.lcGet pk) 0x0201 (bytesLE 1 h.lcState ++ [h.slotRev ++ h.slotProg] ++ [0, 0] ++ bytesLE 4 h.bootCount.toNat) ∧
      (x.roles.getLsbD 0 = true →
        gives (.getMeasurements pk) 0x0103 (bytesLE 1 h.measured.length ++ [0, 0, 0] ++ h.measured.flatMap (fun i =>
          bytesLE 2 i.typ.toNat ++ [0, 0] ++ bytesLE 4 i.target.toNat ++ bytesLE 8 i.version.toNat ++ measureOf i)) ∧
        gives (.imgList pk) 0x0303 (bytesLE 1 h.flash.length ++ [0, 0, 0] ++ h.flash.flatMap DirEntry.bytes) ∧
        gives (.modeGet pk) 0x0501 (bytesLE 1 s.mode.code ++ bytesLE 1 s.winCode ++ [0, 0] ++ bytesLE 8 h.epoch.toNat) ∧
        s.replies (.txnStatus pk) pk 0x0405 0 (fun t q => s.Quiet pk t ∧ q.length = 24 ∧
          q.take 4 = bytesLE 1 h.txn.st.code ++ [0, 0, 0] ∧ (q.drop 8).take 4 = bytesLE 4 h.txn.staged ∧ q.drop 16 = bytesLE 8 h.epoch.toNat) ∧
        s.replies (.partnerStatus pk) pk 0x0901 0 (fun t q => s.Quiet pk t ∧ q.length = 20 ∧
          q.take 12 = bytesLE 4 s.vstat.toNat ++ bytesLE 4 s.dynstat.toNat ++ bytesLE 1 s.linkBits ++ [0, 0, 0]) ∧
        gives (.latticeStatus pk) 0x0902 (bytesLE 4 s.latpos.toNat ++ bytesLE 1 s.linkBits ++ [0] ++ bytesLE 2 s.latSeqNow.toNat))) ∧
    (x.roles.getLsbD 0 = true →
      (∀ i : Fin 32, body = [BitVec.ofNat 8 i.val, 0, 0, 0] → s.replies (.statsRead pk) pk 0x0703 0 (fun t q => q.length = 128 ∧
        natAt q 0 4 = ((s.net.stat[i]).reqCnt).toNat ∧ ∀ j < 32, natAt q (4 * j) 4 = ((statReg (t.net.stat[i]) (4 * j)).getD 0).toNat)) ∧
      (∀ first n, first < 2 ^ 32 → 0 < n → n ≤ 2048 → body = bytesLE 4 first ++ bytesLE 2 n ++ [0, 0] →
        s.replies (.eventRead pk) pk 0x0706 0 (fun t q => s.Quiet pk t ∧ q.length = 32 * min n (s.events.length - first) ∧
          ∀ j e, j < n → s.events[first + j]? = some e → natAt q (32 * j) 8 = (Config.eventTime e.no).toNat ∧ natAt q (32 * j + 8) 2 = e.kind.code.toNat ∧
            natAt q (32 * j + 10) 2 = (Config.eventSource e.no).toNat ∧
            (q.drop (32 * j + 12)).take 16 = (e.data ++ List.replicate 16 0).take 16)) ∧
      (∀ (id : BitVec 12) off, body = bytesLE 2 id.toNat ++ [0, 0] → s.PlainHarbour → s.entryOff id = some off →
        s.replies (.streamGet pk) pk 0x0601 0 (fun _ q => q = (List.range 64).map (fun k => rdByte 0 s.harbour.mem (off + k))))) ∧
    (x.roles.getLsbD 1 = true →
      (∀ a : Arch, s.present.contains a = true → body = [BitVec.ofNat 8 a.val, 0, 0, 0] →
        gives (.tideStatus pk) 0x0702 (bytesLE 4 (s.arch[a]).tide.tstat.toNat ++ bytesLE 4 (s.arch[a]).islres.toNat ++
          bytesLE 4 (s.arch[a]).tide.steps.toNat ++ bytesLE 4 (s.arch[a]).tide.cover.toNat)) ∧
      (∀ b : Fin 16, body = [1, BitVec.ofNat 8 b.val, 0, 0] → s.replies (.selftestHarbourTide pk) pk 0x0701 0 (fun t q => s.Quiet pk t ∧
        q.length = 8 ∧ q.take 4 = bytesLE 4 (s.harbour.banks[b]).bstat.toNat ∧
        ∀ a : Arch, a.val = b.val → q.drop 4 = bytesLE 4 (s.arch[a]).islres.toNat))) ∧
    (x.roles.getLsbD 3 = true →
      (∀ bs, s.mode.captureServed = true → body = [] → s.shore.capture = some bs → gives (.captureRead pk) 0x0705 bs) ∧
      (s.mode = .service ∨ s.mode = .safeStop →
        (∀ off, s.PlainHarbour → off % 8 = 0 → off + 8 ≤ 0x2000000 → body = bytesLE 8 (0x20000000 + off) ++ bytesLE 4 8 →
          s.replies (.memRead pk) pk 0x0801 0 (fun _ q => q = (List.range 8).map (fun k => rdByte 0 s.harbour.mem (off + k)))) ∧
        (∀ off n, 0 < n → n ≤ 65536 → off + n ≤ 0x80000 → body = bytesLE 4 off ++ bytesLE 4 n →
          (off < 0x65000 → 0x61000 < off + n → s.replies (.keepRead pk) pk 0x0803 0x0104 (fun t q => q = [] ∧ s.Quiet pk t)) ∧
          (0x65000 ≤ off ∨ off + n ≤ 0x61000 → s.replies (.keepRead pk) pk 0x0803 0 (fun t q => s.Quiet pk t ∧ q.length = n ∧
            (∀ i, i < n → off + i < 0x1000 → off + i < (h.keep.hdrBytes ++ h.keep.hdrSeal).length → q[i]? = (h.keep.hdrBytes ++ h.keep.hdrSeal)[off + i]?) ∧
            (∀ i j, i < n → 0x11000 ≤ off + i → off + i < 0x21000 → h.keep.journal = some j → off + i - 0x11000 < (j.bytes ++ j.stored).length →
              q[i]? = (j.bytes ++ j.stored)[off + i - 0x11000]?) ∧
            ∀ p i, h.keep.snapA = some p → i < n → 0x1000 ≤ off + i → off + i < 0x9000 → off + i - 0x1000 < (p.bytes ++ p.stored).length →
              q[i]? = (p.bytes ++ p.stored)[off + i - 0x1000]?)))))

/-- Opening and closing: HELLO holds a key pair, SESSION_OPEN opens a session of an ID not in use with the roles of its certificate and the
keys of the exchange, which are stored sealed under K_wrap (which secrets are stored is the model's choice, log 97), one whose signature fails
discards the pair, SESSION_CLOSE and 300 s without requests end the session; the other expiries (spec/17 R394, R400 to
R402, R407; spec/16 R376). -/
def Obligations.VevisSessions : Prop :=
  ∀ (s : State) (pk : VPacket) (x : Session) (clear data : List Byte),
    (s.answers pk = true → pkHdrOk pk = true → opened pk Session.zero = some clear → pk.sess = 0 →
      (ends s.holm.part0 0x0001 pk clear data → data.length = 32 → s.replies (.hello pk) pk 0x0001 0 (fun t q => t.holm.sessions = s.holm.sessions ∧
        ∃ nonce key d, nonce.length = 32 ∧ t.holm.hello = some { req := data, reply := q, key := key } ∧ q = nonce ++ (kemPair key).ek ++
          identitySign s.holm.puf [0x53, 0x56, 0x5A, 0x2D, 0x48, 0x4C, 0x4F] (sha3 (data ++ nonce ++ (kemPair key).ek)) d)) ∧
      (ends s.holm.part0 0x0002 pk clear data → data.length = 13530 → ∀ hl, s.holm.hello = some hl →
        let cert := (data.drop 1600).take 7303
        (hl.reply.take 32 = data.take 32 → hl.signed data = true → s.certOk cert = true → s.holm.sessions.length < 4 → pk.op = 0x0002 →
          ∃ t r y, exec (.sessionOpen pk) s = .next t ∧ t.holm.replies = s.holm.replies ++ [r] ∧ r.status = 0 ∧ r.sess ≠ 0 ∧ s.session? r.sess = none ∧
            r.payload = bytesLE 4 (natAt cert 4 4) ++ bytesLE 8 s.holm.epoch.toNat ∧ t.session? r.sess = some y ∧ y.roles = BitVec.ofNat 6 (natAt cert 4 4) ∧
            (y.mac, y.enc) = hl.keys data ∧ t.holm.hello = none ∧ ∃ iv, iv.length = 12 ∧
              t.holm.keep.wrapped.getLast? = some (r.sess, iv ++ gcmSeal (wrapKey s.holm.puf s.holm.lcCount) iv (y.mac ++ y.enc))) ∧
        (hl.signed data = false ∨ s.certOk cert = false → s.replies (.sessionOpen pk) pk 0x0002 0x0104 (fun t p => p = [] ∧ t.holm.hello = none)))) ∧
    (s.hears pk x clear → clear = [] →
      s.replies (.sessionClose pk) pk 0x0003 0 (fun t p => p = [] ∧ t.session? pk.sess = none ∧
        (s.holm.txn.owner = pk.sess → s.holm.txn.st = .opened → t.holm.txn.st = .none) ∧ ∀ id, id ≠ pk.sess → t.session? id = s.session? id)) ∧
    (∀ id, s.session? id = some x → ∃ t, exec (.sessionIdleExpiry id) s = .next t ∧ t.session? id = none ∧ ∀ j, j ≠ id → t.session? j = s.session? j) ∧
    exec .helloExpiry s = .next { s with holm := { s.holm with hello := none } } ∧
    (∃ t, exec .uartFrameTimeout s = .next t ∧ (t.shore.engine[s.uartEngine]).rx = [] ∧ t.holm = { s.holm with uart := none } ∧
      ∀ e : Fin 8, e ≠ s.uartEngine → t.shore.engine[e] = s.shore.engine[e]) ∧
    (s.holm.txn.st = .opened → exec .txnExpiry s =
      .next { s with holm := { s.holm with txn := { s.holm.txn with st := .none, writes := [], staged := 0 } } })

/-- Modes and streams: MODE_SET begins a transition that Table 18.4 allows, SAFE_STOP stops, VITAL_RESUME with the reported digest lets the
window open again, a stream entry is enabled and disabled (spec/17 R403, R412; spec/18 R422, R423; spec/06 R183; spec/08 R204). -/
def vevisModesRule : Prop :=
  ∀ (s : State) (pk : VPacket) (x : Session) (body : List Byte), s.hears pk x body →
    (∀ m : Mode, body = bytesLE 1 m.code ++ [0, 0, 0] → m ≠ .dormant → m ≠ .safeStop → m ≠ s.mode → s.mode.mayGo m = true →
      (s.heard pk).entryRefused m = false → x.roles.getLsbD 1 = true → (m = .guard → x.roles.getLsbD 2 = true) →
      (m = .service → x.roles.getLsbD 3 = true) → s.pwr.target = none → s.holm.txn.st ≠ .accepted →
      s.replies (.modeSet pk) pk 0x0502 0 (fun t p => p = [] ∧ t.pwr.target = some m ∧ t.mode = s.mode)) ∧
    (body.length = 2 → s.mayStop = true →
      s.replies (.safeStop pk) pk 0x0504 0 (fun t p => p = [] ∧ t.mode = .safeStop ∧ t.pwr.target = none ∧
        lastEvent t = some (.safeStop, body))) ∧
    (s.mode = .guard → x.roles.getLsbD 2 = true → body.length = 64 → body = s.vital.reportedDigest →
      s.replies (.vitalResume pk) pk 0x0503 0 (fun t p => p = [] ∧ t.vital = { s.vital with awaitResume := false })) ∧
    (∀ (id : BitVec 12) (e : Stream), x.roles.getLsbD 1 = true → body = bytesLE 2 id.toNat ++ [0, 0] → s.vital.par.pairs = 0 →
      s.holm.txn.st = .none → s.stream? id = some e → s.mode.txnServed = true →
      (e.enabled = false → (s.heard pk).entryOk (Stream.fresh id (vmod e.cfg 0 (fun w => w ||| 0x1000))) (s.sprue.cache.filter (fun e => e.enabled)) = true →
        s.replies (.streamEnable pk) pk 0x0602 0 (fun t p => p = [] ∧ (t.stream? id).map (fun e => e.enabled) = some true)) ∧
      (e.enabled = true →
        s.replies (.streamDisable pk) pk 0x0603 0 (fun t p => p = [] ∧ (t.stream? id).map (fun e => e.enabled) = some false)))

/-- Tests, the tide, capture and memory on the host's command (spec/17 R403, R414, Table 17.8; spec/19 R446; spec/15 R372). -/
def vevisServiceRule : Prop :=
  ∀ (s : State) (pk : VPacket) (x : Session) (body : List Byte), s.hears pk x body → x.roles.getLsbD 1 = true →
    (∀ n : CoreId, body = [0, BitVec.ofNat 8 n.val, 0, 0] → s.pwr.on.getLsbD (304 + n.val) = true → (s.mode = .guard → s.vital.par.vcore.toNat ≠ n.val) → s.coreTesting = false →
      s.replies (.selftestCore pk) pk 0x0701 1 (fun t p => p = [] ∧ t.cores = s.cores.set n.val { s.cores[n] with selftest := true })) ∧
    (∀ l : Fin 16, body = [2, BitVec.ofNat 8 l.val, 0, 0] → (fld (s.lanes[l]).lcfg 0 3 : BitVec 3) = 0 → (s.lanes[l]).recal = false →
      s.replies (.selftestLaneRecal pk) pk 0x0701 1 (fun t p => p = [] ∧ t.lanes = s.lanes.set l.val { s.lanes[l] with recal := true })) ∧
    (∀ a : Arch, s.present.contains a = true →
      (body = [BitVec.ofNat 8 a.val, 1, 0, 0] → s.replies (.tideSuspend pk) pk 0x0702 0 (fun t p => p = t.tideReply a ∧ (t.arch[a]).tide.susp = true)) ∧
      (body = [BitVec.ofNat 8 a.val, 2, 0, 0] → s.replies (.tideResume pk) pk 0x0702 0 (fun t p => p = t.tideReply a ∧
        (t.arch[a]).tide = { (s.arch[a]).tide with susp := false })) ∧
      (body = [BitVec.ofNat 8 a.val, 3, 0, 0] →
        ((s.arch[a]).tide.susp = true → s.replies (.tideStepNow pk) pk 0x0702 0x0302 (fun t p => p = [] ∧ s.Quiet pk t)) ∧
        ((s.arch[a]).tide.susp = false → (s.arch[a]).tide.phase = 0 → s.tideRuns a = true →
          s.replies (.tideStepNow pk) pk 0x0702 0 (fun t p => p = t.tideReply a ∧ (t.arch[a]).tide.phase = 1)))) ∧
    (x.roles.getLsbD 3 = true →
      (∀ n : BitVec 8, body = [3, n, 0, 0] → s.mode = .service → s.holm.offline = false →
        s.replies (.selftestOffline pk) pk 0x0701 1 (fun t p => p = [] ∧ t.holm.offline = true)) ∧
      (∀ (g : Fin 8) (e : Bool) n, 0 < n → n ≤ 2 ^ 24 → s.mode.captureServed = true → s.shore.capArmed = none →
        body = [BitVec.ofNat 8 g.val, BitVec.ofNat 8 e.toNat, 0, 0] ++ bytesLE 4 n →
        s.replies (.capture pk) pk 0x0704 0 (fun t p => p = [] ∧ t.shore.capture = none ∧
          t.shore.capArmed = some { gck := BitVec.ofNat 3 g.val, falling := e, count := some n, trg := 0 })) ∧
      (∀ off bs, bs.length = 8 → s.mode = .service → s.PlainHarbour → off % 8 = 0 → off + 8 ≤ 0x2000000 → body = bytesLE 8 (0x20000000 + off) ++ bs →
        s.replies (.memWrite pk) pk 0x0802 0 (fun t p => p = [] ∧ (∀ k (h : k < bs.length), rdByte 0 t.harbour.mem (off + k) = bs[k]) ∧
          ∀ y, ¬ (off ≤ y ∧ y < off + 8) → rdByte 0 t.harbour.mem y = rdByte 0 s.harbour.mem y)))

/-- Vevis control: mode and stream commands, tests, the tide, capture and memory on the host's command (spec/17 R403, R412, R414; spec/18
R422; spec/19 R446). -/
def Obligations.VevisControl : Prop := vevisModesRule ∧ vevisServiceRule

/-- The transaction: it is opened, takes writes, is aborted, is refused whole or accepted with the next epoch and its hash, waits where a bitstream slot is written, and its commit
point applies it (spec/17 R407 to R411). -/
def Obligations.VevisTransactions : Prop :=
  ∀ (s : State),
   let txn := s.holm.txn
   (txn.st = .accepted → txn.point = 0 → ∃ t, exec .commitPoint s = .next t ∧ t.holm.txn.st = .applied ∧ t.holm.epoch = s.holm.epoch + 1 ∧
      t.holm.epochHash = epochHashOf s.holm.epochHash (s.holm.epoch + 1) txn.writes ∧ t.committed = true) ∧
   ∀ (pk : VPacket) (x : Session) (clear data : List Byte), s.listens pk x clear → s.mode.txnServed = true → x.roles &&& 6 = 6 →
    let mine := (txn.st = .opened ∨ txn.st = .refused) ∧ txn.id = pk.txn ∧ txn.owner = pk.sess
    (data = [] →
      (ends x.part 0x0401 pk clear data → txn.st = .none ∨ txn.st = .applied → s.replies (.txnBegin pk) pk 0x0401 0 (fun t p => t.holm.txn.id ≠ 0 ∧ t.holm.txn.st = .opened ∧
        t.holm.txn.owner = pk.sess ∧ t.holm.txn.writes = [] ∧ p = bytesLE 4 t.holm.txn.id.toNat ++ bytesLE 8 s.holm.epoch.toNat)) ∧
      (ends x.part 0x0404 pk clear data → mine → s.replies (.txnAbort pk) pk 0x0404 0 (fun t p => p = [] ∧ t.holm.txn.st = .none ∧ t.holm.txn.writes = []))) ∧
    (∀ w : TxnWrite, w.off < 2 ^ 32 → w.data.length < 2 ^ 32 → mine → ends x.part 0x0402 pk clear data →
      data = bytesLE 2 w.idx.toNat ++ bytesLE 2 w.cls.toNat ++ bytesLE 4 w.off ++ bytesLE 4 w.data.length ++ w.data →
      (s.heard pk).writeBad w = false → txn.staged + TxnWrite.cost w ≤ 0x40000 →
      s.replies (.txnWrite pk) pk 0x0402 0 (fun t p => p = bytesLE 4 (txn.staged + TxnWrite.cost w) ∧
        t.holm.txn = { txn with st := .opened, writes := txn.writes ++ [w], staged := txn.staged + TxnWrite.cost w })) ∧
    (∀ target, mine → target < 2 ^ 64 → ends x.part 0x0403 pk clear data → data = bytesLE 8 target → (s.heard pk).targetBad target = false → s.holm.slotJob = none →
      (∀ st obj off, (s.heard pk).commitFault txn.writes = some (st, obj, off) →
        s.replies (.txnCommit pk) pk 0x0403 st.code (fun t p => p = bytesLE 4 obj ++ bytesLE 4 off ∧ t.holm.txn = { txn with st := .refused })) ∧
      ((s.heard pk).commitFault txn.writes = none → stages txn.writes 8 0 = false →
        s.replies (.txnCommit pk) pk 0x0403 1 (fun t p => t.holm.txn.st = .accepted ∧ t.holm.txn.target = BitVec.ofNat 64 target ∧ t.holm.txn.writes = txn.writes ∧
          t.holm.epoch = s.holm.epoch ∧ p = bytesLE 8 (s.holm.epoch + 1).toNat ++ epochHashOf s.holm.epochHash (s.holm.epoch + 1) txn.writes ++ [t.holm.txn.point])) ∧
      ((s.heard pk).commitFault txn.writes = none → stages txn.writes 8 0 = true → pk.op = 0x0403 →
        ∃ t j, exec (.txnCommit pk) s = .next t ∧ t.holm.replies = s.holm.replies ∧ t.holm.slotJob = some j ∧ j.sess = pk.sess ∧ j.seq = pk.seq ∧
          j.target = target ∧ j.txn = txn.id ∧ t.shore.slots[j.slot] = none ∧ t.holm.txn = txn ∧ t.holm.epoch = s.holm.epoch))

/-- Key slots, the life cycle and images: a slot is programmed with its key's hash, another revoked, an advance writes the pending
record that the steps on an empty queue complete; an image is staged in parts, accepted, and activated with its counter (spec/17 R405, R406, Table 17.5; spec/16 R385, R386,
R391). -/
def Obligations.VevisLife : Prop :=
  ∀ (s : State) (pk : VPacket) (x : Session) (clear d : List Byte), s.listens pk x clear →
    (let c := lcCmdOf d
     ends x.part 0x0202 pk clear d → x.roles.getLsbD 4 = true → d.length = 7287 → s.holm.lcBad c = false → s.holm.signerOk c = true →
      s.holm.lcSigned c d = true → s.holm.txn.st ≠ .accepted →
      (c.code = 2 → s.mode = .provision → s.replies (.programKeySlot pk) pk 0x0202 0 (fun t p => p = [] ∧
        t.holm.slotProg.getLsbD c.arg = true ∧ t.holm.keyHash = vset s.holm.keyHash (ix 4 c.arg) (sha3 c.key) ∧ t.holm.slotRev = s.holm.slotRev ∧
        t.holm.counters = s.holm.counters)) ∧
      (c.code = 3 → s.mode = .provision ∨ s.mode = .service → s.replies (.revokeKeySlot pk) pk 0x0202 0 (fun t p => p = [] ∧
        t.holm.slotRev = s.holm.slotRev ||| BitVec.ofNat 4 (2 ^ c.arg) ∧ t.holm.keyHash = s.holm.keyHash ∧ t.holm.slotProg = s.holm.slotProg)) ∧
      (c.code = 1 → s.mode = .provision ∨ s.mode = .service → s.replies (.lcAdvance pk) pk 0x0202 0 (fun t p => p = [] ∧ t.mode = s.mode ∧
        t.holm.lcStep = 3 ∧ t.holm.keep.pendingLc = true ∧ t.holm.keep.hdrLc = s.holm.lcCount ∧ t.holm.lcCount = s.holm.lcCount))) ∧
    (x.roles.getLsbD 5 = true →
      (∀ (typ : BitVec 16) (target : Word) (data : List Byte), ends x.part 0x0301 pk clear d → d = bytesLE 2 typ.toNat ++ bytesLE 2 1 ++ bytesLE 4 target.toNat ++ bytesLE 4 0 ++ data →
        s.replies (.imgStage pk) pk 0x0301 1 (fun t p => p = [] ∧ t.holm.stageOf typ target = some data ∧ t.holm.flash = s.holm.flash)) ∧
      (∀ (data : List Byte), let i := imageOf data (pk.body.getD .other)
        ends x.part 0x0301 pk clear d → d = bytesLE 2 i.typ.toNat ++ bytesLE 2 3 ++ bytesLE 4 i.target.toNat ++ bytesLE 4 0 ++ data →
        4888 ≤ data.length → (s.heard pk).imageFault i = none → s.holm.flash.length < 64 →
        s.replies (.imgStage pk) pk 0x0301 0 (fun t p => p = measureOf i ∧ t.holm.stageOf i.typ i.target = none ∧ ∃ off,
          t.holm.flash.getLast? = some { active := false, alternate := false, offset := off, length := BitVec.ofNat 32 data.length, image := i })) ∧
      (∀ (e : DirEntry), s.mode ≠ .safeStop → e.active = false → e.alternate = false → s.holm.flash = [e] →
        ends x.part 0x0302 pk clear d → d = bytesLE 2 e.image.typ.toNat ++ [0, 0] ++ bytesLE 4 e.image.target.toNat ++ measureOf e.image → s.holm.txn.st ≠ .accepted →
        (s.heard pk).imageFault e.image = none →
        s.replies (.imgActivate pk) pk 0x0302 0 (fun t p => p = [] ∧ t.holm.flash = [{ e with active := true }] ∧ t.holm.loaded = s.holm.loaded ++ [e.image] ∧
          ∀ k : Fin 64, k.val = e.image.ctrIdx.toNat → ((t.holm.counters[k])).toNat = if imageAdvances e.image then max ((s.holm.counters[k])).toNat e.image.ctrVal.toNat
            else ((s.holm.counters[k])).toNat)))

/-! ### Two rules whole -/

/-- KOP and WCOND of one pour cycle (spec/02 R39): what K becomes from F and the K of the start of the cycle, and where the memory write takes
place; elsewhere the addressed plane keeps its bit. The memory is clean and the island is no odd twin, whose duals spec/06 Table 6.1 gives. -/
def Obligations.KopAndWcond : Prop :=
  ∀ (i : IslSt) (q : PourIn) (j : Nat), j < 256 → q.odd = false → q.planeIn = none → i.delta = [] → i.inj = false →
    let f := (i.pour q).f.getLsbD j
    let t := (i.pour q).isl
    let k := i.k.getLsbD j
    let item := match (mwWsrc q.w).toNat with | 0 => f | 1 => t.c.getLsbD j | 2 => t.n.getLsbD j | _ => t.k.getLsbD j
    (mwKop q.w = 0 → t.k.getLsbD j = k) ∧ (mwKop q.w = 1 → t.k.getLsbD j = f) ∧ (mwKop q.w = 2 → t.k.getLsbD j = (k && f)) ∧
    (mwKop q.w = 3 → t.k.getLsbD j = true) ∧
    (mwWcond q.w = 0 → (t.raw q.pw).getLsbD j = (i.raw q.pw).getLsbD j) ∧
    (mwWcond q.w = 1 → (t.raw q.pw).getLsbD j = if k then item else (i.raw q.pw).getLsbD j) ∧
    (mwWcond q.w = 2 → (t.raw q.pw).getLsbD j = item) ∧
    (mwWcond q.w = 3 → (t.raw q.pw).getLsbD j = if k then (i.raw q.pw).getLsbD j else item)

/-- SYS.MODE (spec/18 R432): a core reads the mode code in bits 3 to 0 and in bit 8 whether a transition is in progress, the rest zero, and is
not tainted by it; a write changes nothing; after reset the register holds 0x3. -/
def Obligations.ModeRegister : Prop :=
  (∀ (s : State) (req : Request) (n : CoreId), req.src.val = n.val → req.user = false → req.op = .read 4 → req.addr = 0x40000008 →
    s.heldBack req = false → ∃ (t : State) (w : Word), exec (.registerBlockAccess req) s = .next t ∧ t.cores = s.cores ∧
      t.net.responses = s.net.responses ++ [{ dst := req.src, tag := req.tag, status := .ok, data := bytesLE 4 w.toNat }] ∧
      (fld w 0 4).toNat = s.mode.code ∧ fld w 4 4 = 0 ∧ (w.getLsbD 8 = true ↔ ∃ m, s.pwr.target = some m) ∧ fld w 9 23 = 0) ∧
  (∀ (s : State) (acc : Acc) (v : Word), ∃ t, exec (.registerWrite acc 0x40000008 v) s = .next t ∧ t.mode = s.mode ∧ t.pwr = s.pwr ∧ t.cores = s.cores) ∧
  State.reset.mode.code = 3 ∧ State.reset.pwr.target = none
end

