-- ==== Sys2Proof/Laws/CoreRun.lean ====
section
/-! SUPPORT. Laws/CoreRun.lean: one instruction of a settled core: it is fetched, its body runs, and the outcome is the body's. -/

namespace Sys2Proof.Machine

theorem Core.Fetches.fetch {c : Core} (h : c.Fetches) (n : CoreId) (k : Nat) (va : Word) (hv : va.toNat + 2 * k ≤ 0x40000) :
    c.fetch n k va = .ok c := by
  induction k generalizing va with
  | zero => rfl
  | succ k ih =>
    have h1 : c.parkedOverlap n (va.setWidth 40) 2 = false := by
      simp [Core.parkedOverlap, h.2.2.2.1]
    have h2 : inSram (va.setWidth 40) 2 = true := by
      simp only [inSram, BitVec.toNat_setWidth, decide_eq_true_eq]; omega
    unfold Core.fetch
    simp only [Core.translate, h.1, Bool.not_false, if_true, bind, Except.bind, h1, h2, Bool.not_true]
    refine ih (va + 2) ?_
    bv_omega

theorem Core.awake_settled {c : Core} (h : c.Settled) : ({ c with asleep := false } : Core).Settled := h

theorem Core.noShadow {c : Core} (h : c.shadow = none) : ({ c with shadow := none } : Core) = c := by
  cases c; simp_all

theorem Core.vecHold_settled {c : Core} (h : c.Settled) : c.vecHold = .ok c := by
  simp [Core.vecHold, Core.report, h.2.1, h.2.2]

theorem Core.begin_settled {c : Core} (h : c.Settled) (env : CEnv) {i : Insn} (hu : i.units ≤ 3) :
    Core.begin env i c = i.body env (if i.kind = .string ∨ i.kind = .vstring then c else c.setSip false) := by
  have hf : c.fetch env.n i.units c.pc = .ok c := h.1.fetch _ _ _ (by have := h.1.2.1; omega)
  unfold Core.begin
  by_cases hk : i.kind = .vector ∨ i.kind = .vstring
  · rw [if_pos hk]
    simp only [bind, Except.bind, hf, CM.out]
  · rw [if_neg hk]
    simp only [bind, Except.bind, hf, CM.out, Core.vecHold_settled h]

/-- Outside a STEP an instruction ends as it is. -/
theorem Core.stepEnd_plain {c : Core} (h : c.stepping = false) : c.stepEnd = c := by
  rw [Core.stepEnd, h, if_neg Bool.false_ne_true]

/-- How an outcome of a core that had no CSR write pending becomes the state's. -/
def State.ends (s : State) (pour : State → PourRec → State) (n : CoreId) (i : Insn) (orig : Core) : CRes → State
  | .done c target send recs =>
    if s.pwr.fence.getLsbD (304 + n.val) && !(send.isEmpty && recs.isEmpty) then s.setCore n (orig.unbegun c) else
    let c := { c with pc := target.getD (orig.pc + BitVec.ofNat 32 (2 * i.units)) }
    let c := if decide (i.kind = .vector) && c.vec.queue.any VEntry.isMem then { c with late := none } else c
    recs.foldl pour (send.foldl State.inject (s.setCore n c.stepEnd))
  | .wait c => s.setCore n (orig.unbegun c)
  | .broke c => s.setCore n { c with shadow := none }
  | .exc c cause eval bits =>
    let base := if i.keeps then { c with shadow := none, pc := orig.pc } else { orig.unbegun c with shadow := none }
    s.entry n (base.raise n cause eval bits)

theorem State.runInsnWith_settled {s : State} {n : CoreId} (h : s.Settled n) (pour : State → PourRec → State) {i : Insn} (hu : i.units ≤ 3) :
    s.runInsnWith pour n i = s.ends pour n i { s.cores[n] with asleep := false }
      (i.body (s.coreEnv n) (if i.kind = .string ∨ i.kind = .vstring then { s.cores[n] with asleep := false } else (s.cores[n]).begun)) := by
  obtain ⟨hr, hs⟩ := h
  have ha := Core.awake_settled hs
  unfold State.runInsnWith
  rw [if_neg (by simp [hr])]
  have e2 : ({ s.cores[n] with asleep := false } : Core).setSip false = (s.cores[n]).begun := rfl
  rw [← e2]
  generalize ({ s.cores[n] with asleep := false } : Core) = orig at ha ⊢
  have e : orig.shadow = none := ha.1.2.2.1
  have en : orig.entering = none := ha.1.2.2.2.2.2
  simp only [Core.noShadow e, Core.begin_settled ha _ hu]
  simp only [en, e, Core.applyShadow]
  cases i.body (s.coreEnv n) (if i.kind = .string ∨ i.kind = .vstring then orig else orig.setSip false) <;> rfl

/-- A scalar instruction that changes its core by `f` and goes on behind itself. -/
theorem State.runInsn_retire {n : CoreId} {s : State} (h : s.Settled n) {i : Insn} (hk : i.kind = .scalar) (hu : i.units ≤ 3) {f : Core → Core}
    (hb : i.body (s.coreEnv n) (s.cores[n]).begun = .ok (f (s.cores[n]).begun))
    (hf : ∀ (c : Core) p, f { c with pc := p } = { f c with pc := p }) (hs : ∀ c : Core, (f c).stepping = c.stepping) :
    Host.Outcome.next (s.runInsn n i) = s.retire n i.units f := by
  have e {p : Word} : ({ f (s.cores[n]).begun with pc := p } : Core).stepping = false := (hs _).trans h.2.1.2.2.2.2.1
  unfold State.runInsn
  rw [State.runInsnWith_settled h _ hu, hk]
  simp only [reduceCtorEq, or_self, if_false]
  rw [hb]
  simp only [CRes.ok, State.ends, hk, reduceCtorEq, decide_false, Bool.false_and, Bool.false_eq_true, if_false, List.isEmpty_nil, Bool.and_true,
    Bool.not_true, Bool.and_false,
    List.foldl_nil, Option.getD_none, Core.stepEnd_plain e]
  have r : f ((s.cores[n]).begun.past i.units) = _ := hf (s.cores[n]).begun _
  rw [State.retire, r]
  rfl

/-- A scalar instruction that leaves the stack `l`. -/
theorem State.runInsn_leaves {n : CoreId} {s : State} (h : s.Settled n) {i : Insn} (hk : i.kind = .scalar) (hu : i.units ≤ 3) {l : List Slot}
    (hb : i.body (s.coreEnv n) (s.cores[n]).begun = .ok { (s.cores[n]).begun with stack := l }) :
    Host.Outcome.next (s.runInsn n i) = s.leaves n i.units l :=
  State.runInsn_retire h hk hu (f := fun c => { c with stack := l }) hb (fun _ _ => rfl) (fun _ => rfl)

/-- Values among the top slots. -/
theorem Core.values_val (c : Core) (ws : List Word) : c.values (ws.map .val) = .ok ws := by
  induction ws with
  | nil => rfl
  | cons w ws ih => simp [Core.values, ih, bind, Except.bind]

theorem Core.releaseAll_val (c : Core) (ws : List Word) : c.releaseAll (ws.map .val) = c := by
  induction ws with
  | nil => rfl
  | cons w ws ih => simpa [Core.releaseAll, Core.slotTag] using ih

/-- Popping plain values. -/
theorem Core.pop_val {c : Core} {ws : List Word} {r : List Slot} {p : Nat} (hst : c.stack = ws.map .val ++ r) (hd : r.length + p ≤ 256) :
    c.pop ws.length p = .ok (ws, { c with stack := r }) := by
  have h1 : c.stack.take ws.length = ws.map .val := by simp [hst]
  have h2 : c.stack.drop ws.length = r := by
    rw [hst, List.drop_append]; simp
  have h3 : c.check ws.length p = .ok () := by
    unfold Core.check Core.depth
    rw [if_neg (by simp [hst]), if_neg (by simp [hst]; omega)]
  have h4 : ((ws.map Slot.val).any Slot.pending) = false := by simp [Slot.pending]
  simp [Core.pop, h3, h1, bind, Except.bind, h4, Core.values_val, Core.releaseAll_val, h2]

theorem Core.push_eq (c : Core) (ws : List Word) : c.push ws = { c with stack := ws.reverse.map .val ++ c.stack } := by
  have : ∀ (l : List Slot) (ws : List Word), ws.foldl (fun st w => Slot.val w :: st) l = ws.reverse.map .val ++ l := by
    intro l ws
    induction ws generalizing l with
    | nil => rfl
    | cons w ws ih => simp [ih]
  unfold Core.push
  rw [this]

/-- An arithmetic instruction on values. -/
theorem aluBody_val (env : CEnv) {c : Core} {op : AluOp} {ws : List Word} {r : List Slot} (hst : c.stack = ws.map .val ++ r)
    (hl : ws.length = op.arity) (hd : r.length + op.results ≤ 256) :
    aluBody op env c = .ok { c with stack := (op.run ws.reverse).reverse.map .val ++ r } := by
  have h1 : c.stack.take ws.length = ws.map .val := by simp [hst]
  have h3 : c.check ws.length op.results = .ok () := by
    unfold Core.check Core.depth
    rw [if_neg (by simp [hst]), if_neg (by simp [hst]; omega)]
  have h4 : ((ws.map Slot.val).reverse.any Slot.pending) = false := by simp [Slot.pending]
  simp only [aluBody, CM.out, ← hl, h3, h1, bind, Except.bind, h4, Core.pop_val hst hd, Core.push_eq, CRes.ok]
  rfl

/-- An arithmetic instruction of a settled core on values. -/
theorem State.runAlu {n : CoreId} {s : State} (h : s.Settled n) (op : AluOp) {ws : List Word} {r : List Slot} (hst : (s.cores[n]).stack = ws.map .val ++ r)
    (hl : ws.length = op.arity) (hd : r.length + op.results ≤ 256) :
    Host.Outcome.next (s.runInsn n (insnAlu op)) = s.leaves n 1 ((op.run ws.reverse).reverse.map .val ++ r) :=
  State.runInsn_leaves (i := insnAlu op) h rfl (by simp [insnAlu, insn1]) (aluBody_val (s.coreEnv n) (c := (s.cores[n]).begun) hst hl hd)
end Sys2Proof.Machine
end

