-- ==== Sys2Proof/Laws/Crypto.lean ====
section
/-! SUPPORT. Laws/Crypto.lean: lengths of digests, the round trip of byte strings and numbers, packets that carry the tag they must
carry, and the signature that verifies under the public key of zeros, which shows that signed commands can be met. -/

namespace Sys2Proof.Machine

/-! ### Byte strings and numbers -/

theorem bytesLE_succ (n v : Nat) : bytesLE (n + 1) v = BitVec.ofNat 8 v :: bytesLE n (v / 256) := by
  unfold bytesLE
  rw [List.range_succ_eq_map, List.map_cons, List.map_map]
  congr 1
  · simp
  · refine List.map_congr_left fun i _ => ?_
    simp only [Function.comp, Nat.pow_succ', Nat.div_div_eq_div_mul]

/-- The bytes of the number that a byte string spells are that string. -/
theorem bytesLE_natLE (l : List Byte) : bytesLE l.length (natLE l) = l := by
  induction l with
  | nil => rfl
  | cons b l ih =>
    have hb : b.toNat < 256 := b.isLt
    have h : (natLE (b :: l)) / 256 = natLE l := by simp only [natLE]; omega
    have h2 : BitVec.ofNat 8 (natLE (b :: l)) = b := by
      apply BitVec.eq_of_toNat_eq
      simp only [natLE, BitVec.toNat_ofNat]
      omega
    rw [List.length_cons, bytesLE_succ, h, h2, ih]

/-- A byte string spells a number below 256 to the power of its length. -/
theorem natLE_lt (l : List Byte) : natLE l < 256 ^ l.length := by
  induction l with
  | nil => exact Nat.one_pos
  | cons b l ih =>
    have hb : b.toNat < 256 := b.isLt
    simp only [natLE, List.length_cons, Nat.pow_succ']
    omega

/-! ### Lengths -/

/-- A digest no longer than the rate has the length asked for. -/
theorem sponge_length (r : Nat) (dom : Byte) (m : List Byte) (n : Nat) (h : n < r) : (sponge r dom m n).length = n := by
  unfold sponge
  rw [Nat.div_eq_of_lt h]
  simp only [kSqueeze, List.length_map, List.length_range]
  omega

theorem sha3_length (m : List Byte) : (sha3 m).length = 64 := sponge_length 72 _ _ 64 (by decide)
theorem shake256_length (m : List Byte) : (shake256 m 64).length = 64 := sponge_length 136 _ _ 64 (by decide)
theorem kmac256_length (key m cust : List Byte) : (kmac256 key m 32 cust).length = 32 := sponge_length 136 _ _ 32 (by decide)

/-! ### The right tag -/

/-- The packet with another tag. -/
def withTag (pk : VPacket) (t : BitVec 256) : VPacket := { pk with tag := t }

/-- The tag that session `x` must see on a packet, and the packet with it (spec/17 R397). -/
def tagFor (x : Session) (pk : VPacket) : BitVec 256 := BitVec.ofNat 256 (natLE (rightTag pk x))
def tagged (x : Session) (pk : VPacket) : VPacket := withTag pk (tagFor x pk)

/-- The tag a packet must carry, and its payload in clear, do not depend on the tag it carries. -/
theorem rightTag_withTag (x : Session) (pk : VPacket) (t : BitVec 256) : rightTag (withTag pk t) x = rightTag pk x := rfl
theorem clearPayload_withTag (x : Session) (pk : VPacket) (t : BitVec 256) : clearPayload (withTag pk t) x = clearPayload pk x := rfl
theorem withTag_tag (pk : VPacket) (t : BitVec 256) : (withTag pk t).tag = t := rfl

/-- Thirty-two bytes go through a tag field and back. -/
theorem tag_round (l : List Byte) (h : l.length = 32) : bytesLE 32 (BitVec.ofNat 256 (natLE l)).toNat = l := by
  have b : natLE l < 2 ^ 256 := by have b := natLE_lt l; rw [h] at b; exact b
  have e := bytesLE_natLE l
  rw [h] at e
  rw [BitVec.toNat_ofNat, Nat.mod_eq_of_lt b, e]

theorem rightTag_length (pk : VPacket) (x : Session) : (rightTag pk x).length = 32 := kmac256_length ..

/-- A packet with the right tag is opened. -/
theorem opened_tagged (x : Session) (pk : VPacket) : opened (tagged x pk) x = clearPayload pk x := by
  rw [tagged, opened, rightTag_withTag, clearPayload_withTag, withTag_tag, tagFor, tag_round _ (rightTag_length pk x), if_pos rfl]

/-- One in clear carries its payload. -/
theorem opened_plain (x : Session) (pk : VPacket) (h : pkEnc pk = false) : opened (tagged x pk) x = some pk.payload := by
  rw [opened_tagged, clearPayload, h]
  rfl

/-! ### A signature that verifies -/

/-- Every coefficient is 0. -/
def Blank (p : Poly) : Prop := ∀ x ∈ p, x = 0

theorem Blank.zip {f : Nat → Nat → Nat} (hf : f 0 0 = 0) {a b : Poly} (ha : Blank a) (hb : Blank b) : Blank (List.zipWith f a b) := by
  intro x hx
  rw [List.mem_iff_getElem] at hx
  obtain ⟨i, hi, rfl⟩ := hx
  rw [List.getElem_zipWith, ha _ (List.getElem_mem _), hb _ (List.getElem_mem _), hf]

theorem Blank.map {f : Nat → Nat} (hf : f 0 = 0) {a : Poly} (ha : Blank a) : Blank (a.map f) := by
  intro x hx
  obtain ⟨y, hy, rfl⟩ := List.mem_map.mp hx
  rw [ha y hy, hf]

theorem Blank.append {a b : Poly} (ha : Blank a) (hb : Blank b) : Blank (a ++ b) := by
  intro x hx
  exact (List.mem_append.mp hx).elim (ha x) (hb x)

theorem Blank.replicate (n : Nat) : Blank (List.replicate n 0) := fun _ h => List.eq_of_mem_replicate h

/-- A product with a blank polynomial on either side is blank. -/
theorem Blank.mul (q : Nat) {a b : Poly} (h : Blank a ∨ Blank b) : Blank (polyMul q a b) := by
  intro x hx
  rw [polyMul, List.mem_iff_getElem] at hx
  obtain ⟨i, hi, rfl⟩ := hx
  rw [List.getElem_zipWith]
  rcases h with h | h <;> rw [h _ (List.getElem_mem _)] <;> simp

theorem Blank.add {a b : Poly} (q : Nat) (ha : Blank a) (hb : Blank b) : Blank (polyAdd q a b) := ha.zip (Nat.zero_mod q) hb
theorem Blank.sub {a b : Poly} (q : Nat) (ha : Blank a) (hb : Blank b) : Blank (polySub q a b) := ha.zip (by simp) hb

theorem Blank.ntt (q u : Nat) (z : Nat → Nat) : ∀ (n k : Nat) (w : Poly), Blank w → Blank (nttGo q u z n k w) := by
  intro n
  induction n with
  | zero => exact fun _ _ h => h
  | succ n ih =>
    intro k w h
    have hl : Blank (w.take (u * 2 ^ n)) := fun x hx => h x (List.mem_of_mem_take hx)
    have hh : Blank ((w.drop (u * 2 ^ n)).map (fun x => x * z k % q)) :=
      Blank.map (by simp) (fun x hx => h x (List.mem_of_mem_drop hx))
    exact Blank.append (ih _ _ (hl.add q hh)) (ih _ _ (hl.sub q hh))

theorem Blank.intt (q u : Nat) (y : Nat → Nat) : ∀ (n k : Nat) (w : Poly), Blank w → Blank (inttGo q u y n k w) := by
  intro n
  induction n with
  | zero => exact fun _ _ h => h
  | succ n ih =>
    intro k w h
    have hl := ih (2 * k) (w.take (u * 2 ^ n)) (fun x hx => h x (List.mem_of_mem_take hx))
    have hh := ih (2 * k + 1) (w.drop (u * 2 ^ n)) (fun x hx => h x (List.mem_of_mem_drop hx))
    exact Blank.append (hl.add q hh) (Blank.map (by simp) (hl.sub q hh))

/-- A blank polynomial packs to zeros. -/
theorem Blank.pack (w : Nat) {p : Poly} (h : Blank p) : packBits w p = bytesLE (32 * w) 0 := by
  have e : p.foldr (fun c a => c + 2 ^ w * a) 0 = 0 := by
    induction p with
    | nil => rfl
    | cons c p ih => rw [List.foldr_cons, ih (fun x hx => h x (List.mem_cons_of_mem _ hx)), h c List.mem_cons_self]; rfl
  rw [packBits, e]

/-- The public key of zeros. -/
def blankKey : List Byte := List.replicate 2592 0
/-- The response of zeros, packed, and no hints. -/
def blankTail : List Byte := (List.replicate 7 (packBits 20 (List.replicate 256 524288))).flatten ++ List.replicate 83 0
/-- The encoding of eight blank high parts. -/
def blankHigh : List Byte := (List.replicate 8 (bytesLE 128 0)).flatten
/-- The signature of any message under the key of zeros. -/
def blankSig (ctx m : List Byte) : List Byte := shake256 (dsaMu blankKey ctx m ++ blankHigh) 64 ++ blankTail

theorem blankTail_length : blankTail.length = 4563 := by decide +kernel

theorem blankSig_length (ctx m : List Byte) : (blankSig ctx m).length = 4627 := by
  rw [blankSig, List.length_append, shake256_length, blankTail_length]

theorem blank_response : (parts 7 640 blankTail).map (fun b => (unpackBits 20 b).map (fun x => (524288 + dsaQ - x) % dsaQ)) =
    List.replicate 7 (List.replicate 256 0) := by decide +kernel

theorem blank_hints : hintUnpack (blankTail.drop 4480) = some (List.replicate 8 (List.replicate 256 false)) := by decide +kernel

theorem blank_t1 : (parts 8 320 (blankKey.drop 32)).map (fun b => (unpackBits 10 b).map (fun x => x * 8192)) =
    List.replicate 8 (List.replicate 256 0) := by decide +kernel

/-- The vector that a blank response answers to under the blank key is blank, whatever the challenge. -/
theorem blank_answer (c : List Byte) : ∀ p ∈ dsaAnswer blankKey c (List.replicate 7 (List.replicate 256 0)), Blank p := by
  intro p hp
  have hz : ∀ v ∈ (List.replicate 7 (List.replicate 256 0)).map dsaNtt, Blank v := by
    intro v hv
    obtain ⟨w, hw, rfl⟩ := List.mem_map.mp hv
    rw [List.eq_of_mem_replicate hw]
    exact Blank.ntt _ _ _ _ _ _ (Blank.replicate 256)
  have ha : ∀ v ∈ dsaApply (dsaMatrix (blankKey.take 32)) ((List.replicate 7 (List.replicate 256 0)).map dsaNtt), Blank v := by
    intro v hv
    obtain ⟨row, _, rfl⟩ := List.mem_map.mp hv
    have go : ∀ (l : List Poly) (acc : Poly), Blank acc → (∀ u ∈ l, Blank u) → Blank (l.foldl (polyAdd dsaQ) acc) := by
      intro l
      induction l with
      | nil => exact fun _ h _ => h
      | cons u l ih => exact fun acc h hu => ih _ (h.add dsaQ (hu u List.mem_cons_self)) (fun w hw => hu w (List.mem_cons_of_mem _ hw))
    refine go _ _ (Blank.replicate 256) (fun u hu => ?_)
    rw [List.mem_iff_getElem] at hu
    obtain ⟨i, hi, rfl⟩ := hu
    rw [List.getElem_zipWith]
    exact Blank.mul _ (.inr (hz _ (List.getElem_mem _)))
  have ht : ∀ v ∈ (parts 8 320 (blankKey.drop 32)).map (fun b => dsaNtt ((unpackBits 10 b).map (fun x => x * 8192))), Blank v := by
    intro v hv
    obtain ⟨b, hb, rfl⟩ := List.mem_map.mp hv
    have h : (unpackBits 10 b).map (fun x => x * 8192) ∈ List.replicate 8 (List.replicate 256 0) := by
      rw [← blank_t1]; exact List.mem_map_of_mem hb
    rw [List.eq_of_mem_replicate h]
    exact Blank.ntt _ _ _ _ _ _ (Blank.replicate 256)
  obtain ⟨w, hw, rfl⟩ := List.mem_map.mp hp
  refine Blank.map (by decide) (Blank.intt _ _ _ _ _ _ ?_)
  rw [List.mem_iff_getElem] at hw
  obtain ⟨i, hi, rfl⟩ := hw
  rw [List.getElem_zipWith]
  refine Blank.sub _ (ha _ (List.getElem_mem _)) ?_
  rw [List.getElem_map]
  refine Blank.mul _ (.inr (ht _ (List.getElem_mem _)))

/-- It has eight rows. -/
theorem blank_answer_length (c : List Byte) : (dsaAnswer blankKey c (List.replicate 7 (List.replicate 256 0))).length = 8 := by
  rw [dsaAnswer, List.length_map, List.length_zipWith, List.length_map, List.length_map, dsaApply, List.length_map, dsaMatrix,
    List.length_map, List.length_range, parts, List.length_map, List.length_range]
  rfl

/-- Blank rows encode to zeros. -/
theorem blank_w1 (l : List Poly) (h : ∀ p ∈ l, Blank p) : dsaW1 l = (List.replicate l.length (bytesLE 128 0)).flatten := by
  induction l with
  | nil => rfl
  | cons p l ih =>
    rw [List.length_cons, List.replicate_succ, List.flatten_cons, ← ih (fun v hv => h v (List.mem_cons_of_mem _ hv)), dsaW1, List.flatMap_cons,
      Blank.pack 4 (h p List.mem_cons_self)]
    rfl

/-- The signature of zeros verifies under the key of zeros. -/
theorem blank_verifies (ctx m : List Byte) : dsaVerify blankKey ctx m (blankSig ctx m) = true := by
  have hs := shake256_length (dsaMu blankKey ctx m ++ blankHigh)
  have h1 : (blankSig ctx m).take 64 = shake256 (dsaMu blankKey ctx m ++ blankHigh) 64 := by
    have e := List.take_left (l₁ := shake256 (dsaMu blankKey ctx m ++ blankHigh) 64) (l₂ := blankTail)
    rwa [hs] at e
  have h2 : (blankSig ctx m).drop 64 = blankTail := by
    have e := List.drop_left (l₁ := shake256 (dsaMu blankKey ctx m ++ blankHigh) 64) (l₂ := blankTail)
    rwa [hs] at e
  have h3 : (blankSig ctx m).drop 4544 = blankTail.drop 4480 := by
    rw [← h2, List.drop_drop]
  have hk : blankKey.length = 2592 := List.length_replicate
  have hn : dsaBelow (524288 - 120) (List.replicate 7 (List.replicate 256 0)) = true := by decide +kernel
  unfold dsaVerify
  rw [h1, h2, h3, blank_response, blank_hints, blankSig_length, hk]
  dsimp only
  rw [hn]
  generalize hc : shake256 (dsaMu blankKey ctx m ++ blankHigh) 64 = ct
  have hz : dsaW1 (List.zipWith (List.zipWith dsaUseHint) (List.replicate 8 (List.replicate 256 false))
      (dsaAnswer blankKey ct (List.replicate 7 (List.replicate 256 0)))) = blankHigh := by
    rw [blank_w1]
    · rw [List.length_zipWith, blank_answer_length, List.length_replicate]; rfl
    · intro p hp
      rw [List.mem_iff_getElem] at hp
      obtain ⟨i, hi, rfl⟩ := hp
      rw [List.getElem_zipWith]
      intro x hx
      rw [List.mem_iff_getElem] at hx
      obtain ⟨j, hj, rfl⟩ := hx
      rw [List.getElem_zipWith, blank_answer ct _ (List.getElem_mem _) _ (List.getElem_mem _)]
      simp only [List.getElem_replicate]
      rfl
  rw [hz, hc]
  simp only [decide_true, Bool.and_self]

end Sys2Proof.Machine
end

