-- ==== Sys2Proof/Laws/Images.lean ====
section
/-! SUPPORT. Laws/Images.lean: the image that an image's file is, is that image. -/

namespace Sys2Proof.Machine

theorem bytesLE_length (n v : Nat) : (bytesLE n v).length = n := by
  unfold bytesLE
  rw [List.length_map, List.length_range]

/-- The number that the bytes of a number spell. -/
theorem natLE_bytesLE (n : Nat) : ∀ v : Nat, natLE (bytesLE n v) = v % 256 ^ n := by
  induction n with
  | zero => intro v; rw [Nat.pow_zero, Nat.mod_one]; rfl
  | succ n ih =>
    intro v
    rw [bytesLE_succ, natLE, ih, Nat.pow_succ', Nat.mod_mul, BitVec.toNat_ofNat]

/-- A field that stands behind `a`. -/
theorem natAt_mid (a b : List Byte) (o n v : Nat) (h : a.length = o) : natAt (a ++ (bytesLE n v ++ b)) o n = v % 256 ^ n := by
  unfold natAt
  rw [← h, List.drop_left]
  have e := List.take_left (l₁ := bytesLE n v) (l₂ := b)
  rw [bytesLE_length] at e
  rw [e, natLE_bytesLE]

/-- A block that stands behind `a`. -/
theorem mid_block (a b c : List Byte) (o n : Nat) (ha : a.length = o) (hb : b.length = n) : ((a ++ (b ++ c)).drop o).take n = b := by
  rw [← ha, List.drop_left, ← hb, List.take_left]

/-- A number that fits comes back. -/
theorem ofNat_fits {w : Nat} (n : Nat) (x : BitVec w) (h : 256 ^ n = 2 ^ w) : BitVec.ofNat w (x.toNat % 256 ^ n) = x := by
  apply BitVec.eq_of_toNat_eq
  rw [BitVec.toNat_ofNat, h, Nat.mod_mod, Nat.mod_eq_of_lt x.isLt]

/-- A byte that stands behind `a`. -/
theorem natAt_byte (a b : List Byte) (x : Byte) (o : Nat) (h : a.length = o) : natAt (a ++ x :: b) o 1 = x.toNat := by
  unfold natAt
  rw [← h, List.drop_left]
  simp only [List.take_succ_cons, List.take_zero, natLE, Nat.mul_zero, Nat.add_zero]

/-- A file of the right shape is read back as the image it holds (spec/16 R383, Table 16.8). -/
theorem imageOf_imageFile (i : Image) (h1 : i.zero1.length = 30) (hd : i.bodyDigest.length = 64) (h2 : i.zero2.length = 128) (hs : i.sig.length = 4627)
    (ht : i.tail.length = 5) : imageOf (imageFile i) i.body = i := by
  have hm : (manifestOf i).length = 256 := by simp [manifestOf, bytesLE_length, h1, hd, h2]
  have hf : imageFile i = i.bytes ++ (manifestOf i ++ (i.sig ++ i.tail)) := by simp only [imageFile, List.append_assoc]
  have hn : (imageFile i).length - 4888 = i.bytes.length := by rw [hf]; simp [hm, hs, ht]
  have hm' : ((imageFile i).drop i.bytes.length).take 256 = manifestOf i := by rw [hf]; exact mid_block _ _ _ _ _ rfl hm
  have hb : (imageFile i).take i.bytes.length = i.bytes := by rw [hf, List.take_left]
  have hg : ((imageFile i).drop (i.bytes.length + 256)).take 4627 = i.sig := by
    have e : imageFile i = (i.bytes ++ manifestOf i) ++ (i.sig ++ i.tail) := by simp only [imageFile, List.append_assoc]
    rw [e]; exact mid_block _ _ _ _ _ (by rw [List.length_append, hm]) hs
  have hl : (imageFile i).drop (i.bytes.length + 4883) = i.tail := by
    have e : imageFile i = ((i.bytes ++ manifestOf i) ++ i.sig) ++ i.tail := rfl
    have k : i.bytes.length + 4883 = ((i.bytes ++ manifestOf i) ++ i.sig).length := by simp only [List.length_append, hm, hs]
    rw [e, k, List.drop_left]
  have f0 : natAt (manifestOf i) 0 4 = i.magic.toNat % 256 ^ 4 := by
    simp only [manifestOf, List.append_assoc]; exact natAt_mid [] _ 0 4 _ rfl
  have f4 : natAt (manifestOf i) 4 2 = i.format.toNat % 256 ^ 2 := by
    simp only [manifestOf, List.append_assoc]; exact natAt_mid (bytesLE 4 _) _ 4 2 _ (bytesLE_length ..)
  have go (a b : List Byte) (o n v : Nat) (h : a.length = o) (e : manifestOf i = (a ++ bytesLE n v) ++ b) : natAt (manifestOf i) o n = v % 256 ^ n := by
    rw [e, List.append_assoc]; exact natAt_mid a b o n v h
  have one (a b : List Byte) (x : Byte) (o : Nat) (h : a.length = o) (e : manifestOf i = a ++ x :: b) : natAt (manifestOf i) o 1 = x.toNat := by
    rw [e]; exact natAt_byte a b x o h
  let a6 := bytesLE 4 i.magic.toNat ++ bytesLE 2 i.format.toNat
  let a8 := a6 ++ bytesLE 2 i.typ.toNat
  let aC := a8 ++ bytesLE 4 i.target.toNat
  let a14 := aC ++ bytesLE 8 i.version.toNat
  let a18 := a14 ++ [i.ctrIdx, i.ctrVal, i.keySlot, i.flags]
  let a1C := a18 ++ bytesLE 4 i.bodyLen.toNat
  let a20 := a1C ++ bytesLE 4 i.entOff.toNat
  let a22 := a20 ++ bytesLE 2 i.entCnt.toNat
  have f6 : natAt (manifestOf i) 6 2 = i.typ.toNat % 256 ^ 2 := go a6 _ 6 2 _ (by simp [a6, bytesLE_length]) (by simp only [a6, manifestOf, List.append_assoc]; rfl)
  have f8 : natAt (manifestOf i) 8 4 = i.target.toNat % 256 ^ 4 := go a8 _ 8 4 _ (by simp [a8, a6, bytesLE_length]) (by simp only [a8, a6, manifestOf, List.append_assoc]; rfl)
  have fC : natAt (manifestOf i) 0x0C 8 = i.version.toNat % 256 ^ 8 :=
    go aC _ 12 8 _ (by simp [aC, a8, a6, bytesLE_length]) (by simp only [aC, a8, a6, manifestOf, List.append_assoc]; rfl)
  have l14 : a14.length = 20 := by simp [a14, aC, a8, a6, bytesLE_length]
  have f14 : natAt (manifestOf i) 0x14 1 = i.ctrIdx.toNat :=
    one a14 _ _ 20 l14 (by simp only [a14, aC, a8, a6, manifestOf, List.append_assoc, List.cons_append, List.nil_append]; rfl)
  have f15 : natAt (manifestOf i) 0x15 1 = i.ctrVal.toNat :=
    one (a14 ++ [i.ctrIdx]) _ _ 21 (by rw [List.length_append, l14]; rfl) (by simp only [a14, aC, a8, a6, manifestOf, List.append_assoc, List.cons_append, List.nil_append]; rfl)
  have f16 : natAt (manifestOf i) 0x16 1 = i.keySlot.toNat :=
    one (a14 ++ [i.ctrIdx, i.ctrVal]) _ _ 22 (by rw [List.length_append, l14]; rfl) (by simp only [a14, aC, a8, a6, manifestOf, List.append_assoc, List.cons_append, List.nil_append]; rfl)
  have f17 : natAt (manifestOf i) 0x17 1 = i.flags.toNat :=
    one (a14 ++ [i.ctrIdx, i.ctrVal, i.keySlot]) _ _ 23 (by rw [List.length_append, l14]; rfl) (by simp only [a14, aC, a8, a6, manifestOf, List.append_assoc, List.cons_append, List.nil_append]; rfl)
  have l18 : a18.length = 24 := by rw [List.length_append, l14]; rfl
  have f18 : natAt (manifestOf i) 0x18 4 = i.bodyLen.toNat % 256 ^ 4 := go a18 _ 24 4 _ l18 (by simp only [a18, a14, aC, a8, a6, manifestOf, List.append_assoc]; rfl)
  have l1C : a1C.length = 28 := by rw [List.length_append, l18, bytesLE_length]
  have f1C : natAt (manifestOf i) 0x1C 4 = i.entOff.toNat % 256 ^ 4 := go a1C _ 28 4 _ l1C (by simp only [a1C, a18, a14, aC, a8, a6, manifestOf, List.append_assoc]; rfl)
  have l20 : a20.length = 32 := by rw [List.length_append, l1C, bytesLE_length]
  have f20 : natAt (manifestOf i) 0x20 2 = i.entCnt.toNat % 256 ^ 2 := go a20 _ 32 2 _ l20 (by simp only [a20, a1C, a18, a14, aC, a8, a6, manifestOf, List.append_assoc]; rfl)
  have l22 : a22.length = 34 := by rw [List.length_append, l20, bytesLE_length]
  have e22 : manifestOf i = a22 ++ (i.zero1 ++ (i.bodyDigest ++ i.zero2)) := by simp only [a22, a20, a1C, a18, a14, aC, a8, a6, manifestOf, List.append_assoc]
  have z1 : ((manifestOf i).drop 0x22).take 30 = i.zero1 := by rw [e22]; exact mid_block _ _ _ _ _ l22 h1
  have e40 : manifestOf i = (a22 ++ i.zero1) ++ (i.bodyDigest ++ i.zero2) := by rw [e22]; exact (List.append_assoc ..).symm
  have l40 : (a22 ++ i.zero1).length = 64 := by rw [List.length_append, l22, h1]
  have z2 : ((manifestOf i).drop 0x40).take 64 = i.bodyDigest := by rw [e40]; exact mid_block _ _ _ _ _ l40 hd
  have z3 : (manifestOf i).drop 0x80 = i.zero2 := by
    have k : 0x80 = ((a22 ++ i.zero1) ++ i.bodyDigest).length := by rw [List.length_append, l40, hd]
    rw [e40, ← List.append_assoc, k, List.drop_left]
  unfold imageOf
  simp only [hn, hm', hb, hg, hl, f0, f4, f6, f8, fC, f14, f15, f16, f17, f18, f1C, f20, z1, z2, z3, BitVec.ofNat_toNat, BitVec.setWidth_eq,
    ofNat_fits (w := 32) 4 _ rfl, ofNat_fits (w := 16) 2 _ rfl, ofNat_fits (w := 64) 8 _ rfl]

end Sys2Proof.Machine
end

