-- ==== Sys2Proof/Laws/Kept.lean ====
section
/-! SUPPORT. Laws/Kept.lean: the fixed part of a state (queue, grade, fuses), and folds, branches and chains of steps that keep it. -/

namespace Sys2Proof.Machine

/-! ### The fixed part of a state -/

@[simp] theorem fixed_mk (a0 a1 a2 a3 a4 a5 a6 a7 a8 a9 a10 a11 a12 a13 a14 a15 a16 a17 a18 a19 a20 a21 a22 a23 a24 a25 a26 a27) :
    State.fixed ⟨a0, a1, a2, a3, a4, a5, a6, a7, a8, a9, a10, a11, a12, a13, a14, a15, a16, a17, a18, a19, a20, a21, a22, a23, a24, a25, a26, a27⟩ = ⟨a0, a2, a25.fuses⟩ := rfl

@[simp] theorem fuses_mk (h0 h1 h2 h3 a4 a5 a6 a7 a8 a9 a10 a11 a12 a13 a14 a15 a16 a17 a18 a19 a20 a21 a22 a23 a24 a25 a26 a27 a28 a29
    a30 a31 a32 a33 a34 a35 a36 a37 a38 a39 a40 a41 a42 a43 a44 a45 a46 a47 a48 a49 a50 a51 a52 a53 a54 a55) :
    Holm.fuses ⟨h0, h1, h2, h3, a4, a5, a6, a7, a8, a9, a10, a11, a12, a13, a14, a15, a16, a17, a18, a19, a20, a21, a22, a23, a24, a25,
      a26, a27, a28, a29, a30, a31, a32, a33, a34, a35, a36, a37, a38, a39, a40, a41, a42, a43, a44, a45, a46, a47, a48, a49, a50, a51,
      a52, a53, a54, a55⟩ = ⟨h0, h1, h2, h3⟩ := rfl

@[simp] theorem fixed_fold (s : State) : (⟨s.pending, s.gradeC, s.holm.fuses⟩ : Fixed) = s.fixed := rfl
@[simp] theorem fuses_fold (h : Holm) : (⟨h.lcCount, h.slotProg, h.slotRev, h.counters⟩ : Fuses) = h.fuses := rfl

@[simp] theorem fixed_ite (p : Prop) [Decidable p] (a b : State) : (if p then a else b).fixed = if p then a.fixed else b.fixed := apply_ite ..
@[simp] theorem fuses_ite (p : Prop) [Decidable p] (a b : Holm) : (if p then a else b).fuses = if p then a.fuses else b.fuses := apply_ite ..

/-- A fold of steps that keep the fixed part keeps it. -/
@[simp] theorem foldl_fixed {α : Type} (g : State → α → State) (l : List α) (s : State) (h : ∀ t x, (g t x).fixed = t.fixed) :
    (l.foldl g s).fixed = s.fixed := by
  induction l generalizing s with
  | nil => rfl
  | cons x l ih => rw [List.foldl_cons, ih, h]

/-- The same where the state is the first of a pair. -/
theorem foldl_fst_fixed {α β : Type} (g : State × β → α → State × β) (l : List α) (p : State × β)
    (h : ∀ q x, (g q x).1.fixed = q.1.fixed) : (l.foldl g p).1.fixed = p.1.fixed := by
  induction l generalizing p with
  | nil => rfl
  | cons x l ih => rw [List.foldl_cons, ih, h]

/-- No fuse of `f` is unburnt in `f`. -/
theorem Fuses.upTo_refl (f : Fuses) : f.upTo f := ⟨le_refl _, BitVec.and_self, BitVec.and_self, fun _ => le_refl _⟩

/-- Bits that stay in `b` and then in `c`. -/
theorem and_sub_trans {n : Nat} {a b c : BitVec n} (h : a &&& b = a) (k : b &&& c = b) : a &&& c = a := by
  rw [← h, BitVec.and_assoc, k]

/-- Fuses burnt twice over. -/
theorem Fuses.upTo_trans {f g h : Fuses} (a : f.upTo g) (b : g.upTo h) : f.upTo h := by
  obtain ⟨a1, a2, a3, a4⟩ := a
  obtain ⟨b1, b2, b3, b4⟩ := b
  refine ⟨le_trans a1 b1, and_sub_trans a2 b2, and_sub_trans a3 b3, fun k => le_trans (a4 k) (b4 k)⟩

/-- Nothing is lost where nothing changes. -/
theorem State.Kept.refl (s : State) : s.Kept s := ⟨rfl, rfl, Fuses.upTo_refl _⟩

/-- Two steps. -/
theorem State.Kept.trans {s t u : State} (a : s.Kept t) (b : t.Kept u) : s.Kept u :=
  ⟨b.1.trans a.1, b.2.1.trans a.2.1, Fuses.upTo_trans a.2.2 b.2.2⟩

/-- The fixed part kept: queue, grade and fuses. -/
theorem State.Kept.of_fixed {s t : State} (h : t.fixed = s.fixed) : s.Kept t := by
  simp only [State.fixed, Fixed.mk.injEq] at h
  exact ⟨h.1, h.2.1, h.2.2 ▸ Fuses.upTo_refl _⟩

end Sys2Proof.Machine
end

