-- ==== Sys2Proof/Laws/KeptCore.lean ====
section
/-! SUPPORT. Laws/KeptCore.lean: each operation and command of the cores, the sequencers and the moulds keeps the fixed part of the state. -/

namespace Sys2Proof.Machine

/-! ### Machine/Ops.lean -/

@[simp] theorem State.counts_fixed (s : State) (i : Fin 32) (n bytes : Nat) :
    (State.counts s i n bytes).fixed = s.fixed := by
  rfl

@[simp] theorem State.count_fixed (s : State) (i : Fin 32) (bytes : Nat) :
    (State.count s i bytes).fixed = s.fixed := by
  rfl

@[simp] theorem State.netErr_fixed (s : State) (i : Fin 32) :
    (State.netErr s i).fixed = s.fixed := by
  rfl

@[simp] theorem State.dropsPosted_fixed (s : State) (i : Fin 32) (n : Nat) :
    (State.dropsPosted s i n).fixed = s.fixed := by
  rfl

@[simp] theorem State.dropPosted_fixed (s : State) (i : Fin 32) :
    (State.dropPosted s i).fixed = s.fixed := by
  rfl

@[simp] theorem State.raiseAt_fixed (s : State) (n : CoreId) (i : Nat) :
    (State.raiseAt s n i).fixed = s.fixed := by
  rfl

@[simp] theorem State.irqTo_fixed (s : State) (n : CoreId) (i : Nat) :
    (State.irqTo s n i).fixed = s.fixed := by
  unfold State.irqTo
  simp

@[simp] theorem State.raiseAll_fixed (s : State) (i : Nat) :
    (State.raiseAll s i).fixed = s.fixed := by
  unfold State.raiseAll
  simp

@[simp] theorem State.event_fixed (s : State) (k : EventKind) (data : List Byte) :
    (State.event s k data).fixed = s.fixed := by
  unfold State.event
  rw [fixed_mk, fixed_fold]

@[simp] theorem State.notify_fixed (s : State) (x : Notice) :
    (State.notify s x).fixed = s.fixed := by
  unfold State.notify
  simp

@[simp] theorem State.modArch_fixed (s : State) (a : Arch) (f : ArchSt → ArchSt) :
    (State.modArch s a f).fixed = s.fixed := by
  rfl

@[simp] theorem State.modSeq_fixed (s : State) (a : Arch) (f : Seq → Seq) :
    (State.modSeq s a f).fixed = s.fixed := by
  rfl

@[simp] theorem State.modMould_fixed (s : State) (a : Arch) (f : Mould → Mould) :
    (State.modMould s a f).fixed = s.fixed := by
  rfl

@[simp] theorem State.modTwin_fixed (s : State) (a : Arch) (f : Twin → Twin) :
    (State.modTwin s a f).fixed = s.fixed := by
  rfl

@[simp] theorem State.modIsl_fixed (s : State) (P : Isl) (f : IslSt → IslSt) :
    (State.modIsl s P f).fixed = s.fixed := by
  rfl

@[simp] theorem State.eachArch_fixed (s : State) (as : List Arch) (f : State → Arch → State) (hf : ∀ (a0 : State) (a1 : Arch), (f a0 a1).fixed = a0.fixed) :
    (State.eachArch s as f).fixed = s.fixed := by
  unfold State.eachArch
  simp_all

@[simp] theorem State.modSeqs_fixed (s : State) (as : List Arch) (f : Seq → Seq) :
    (State.modSeqs s as f).fixed = s.fixed := by
  unfold State.modSeqs
  simp

/-! ### Machine/Packets.lean -/

@[simp] theorem State.recordLat_fixed (s : State) (i : Fin 32) (lat : BitVec 24) :
    (State.recordLat s i lat).fixed = s.fixed := by
  rfl

@[simp] theorem State.noteLat_fixed (s : State) (i : Fin 32) :
    (State.noteLat s i).fixed = s.fixed := by
  rfl

@[simp] theorem State.noteTimeout_fixed (s : State) (i : Fin 32) :
    (State.noteTimeout s i).fixed = s.fixed := by
  rfl

@[simp] theorem State.timeoutIrq_fixed (s : State) (src : Fin 32) :
    (State.timeoutIrq s src).fixed = s.fixed := by
  unfold State.timeoutIrq
  simp

@[simp] theorem State.countLate_fixed (s : State) (i : Fin 32) :
    (State.countLate s i).fixed = s.fixed := by
  rfl

@[simp] theorem State.useLost_fixed (s : State) (i : Fin 32) :
    (State.useLost s i).fixed = s.fixed := by
  rfl

@[simp] theorem State.useExpired_fixed (s : State) (i : Fin 32) :
    (State.useExpired s i).fixed = s.fixed := by
  rfl

@[simp] theorem State.sendPosted_fixed (s : State) (h : BitVec 128) :
    (State.sendPosted s h).2.fixed = s.fixed := by
  unfold State.sendPosted
  dsimp only
  (repeat' split) <;> simp_all

@[simp] theorem State.launch_fixed (s : State) (place : RouterId) (hdr : BitVec 128) (payload : List Byte) (msg : Msg) :
    (State.launch s place hdr payload msg).fixed = s.fixed := by
  rfl

@[simp] theorem State.inject_fixed (s : State) (r : Request) :
    (State.inject s r).fixed = s.fixed := by
  unfold State.inject
  simp

@[simp] theorem State.respond_fixed (s : State) (r : Response) :
    (State.respond s r).fixed = s.fixed := by
  rfl

@[simp] theorem State.respondLate_fixed (s : State) (r : Response) :
    (State.respondLate s r).fixed = s.fixed := by
  unfold State.respondLate
  simp

@[simp] theorem State.answerFrom_fixed (s : State) (src : End) (r : Request) (st : Status) (data : List Byte) :
    (State.answerFrom s src r st data).fixed = s.fixed := by
  unfold State.answerFrom
  simp

@[simp] theorem State.sendCompl_fixed (s : State) (lead : Arch) (port : Bool) (c : Completion) :
    (State.sendCompl s lead port c).fixed = s.fixed := by
  rfl

/-! ### Machine/Frames.lean -/

@[simp] theorem State.hPutBytes_fixed (s : State) (off : Nat) (bs : List Byte) :
    (State.hPutBytes s off bs).fixed = s.fixed := by
  rfl

@[simp] theorem State.tablePut_fixed (s : State) (off : Nat) (bs : List Byte) :
    (State.tablePut s off bs).fixed = s.fixed := by
  unfold State.tablePut
  simp

@[simp] theorem State.modStream_fixed (s : State) (id : BitVec 12) (f : Stream → Stream) :
    (State.modStream s id f).fixed = s.fixed := by
  rfl

@[simp] theorem State.writeBack_fixed (s : State) (id : BitVec 12) :
    (State.writeBack s id).fixed = s.fixed := by
  unfold State.writeBack
  (repeat' split) <;> simp_all

@[simp] theorem State.frameEnd_fixed (s : State) (id : BitVec 12) (cause : Option (BitVec 3)) :
    (State.frameEnd s id cause).fixed = s.fixed := by
  unfold State.frameEnd
  (repeat' split) <;> simp_all

@[simp] theorem State.overrunReport_fixed (s : State) (id : BitVec 12) :
    (State.overrunReport s id).fixed = s.fixed := by
  rfl

@[simp] theorem State.frameStart_fixed (s : State) (id : BitVec 12) :
    (State.frameStart s id).fixed = s.fixed := by
  unfold State.frameStart
  simp

@[simp] theorem State.marker_fixed (s : State) (id : BitVec 12) :
    (State.marker s id).fixed = s.fixed := by
  unfold State.marker
  simp

@[simp] theorem State.feed_fixed (s : State) (id : BitVec 12) (j : Fin 4) (raw : Word) :
    (State.feed s id j raw).fixed = s.fixed := by
  unfold State.feed
  (repeat' split) <;> simp_all

@[simp] theorem State.feedItem_fixed (s : State) (id : BitVec 12) (raw : Word) :
    (State.feedItem s id raw).fixed = s.fixed := by
  unfold State.feedItem
  (repeat' split) <;> simp_all

/-! ### Machine/Ladle.lean -/

@[simp] theorem State.modRing_fixed (s : State) (a : Arch) (f : RiserRing → RiserRing) :
    (State.modRing s a f).fixed = s.fixed := by
  rfl

@[simp] theorem State.groupLost_fixed (s : State) (c : Fin 16) :
    (State.groupLost s c).fixed = s.fixed := by
  rfl

@[simp] theorem State.planeOut_fixed (s : State) (a : Arch) (fs : List (Isl × PeVec)) :
    (State.planeOut s a fs).fixed = s.fixed := by
  unfold State.planeOut
  dsimp only
  (repeat' split) <;> simp_all

@[simp] theorem State.loopMark_fixed (s : State) (c : Fin 16) :
    (State.loopMark s c).fixed = s.fixed := by
  unfold State.loopMark
  simp

@[simp] theorem State.ringRestart_fixed (s : State) (a : Arch) (byFramebar : Bool) :
    (State.ringRestart s a byFramebar).fixed = s.fixed := by
  unfold State.ringRestart
  simp

@[simp] theorem State.mirror_fixed (s : State) (a : Arch) :
    (State.mirror s a).fixed = s.fixed := by
  unfold State.mirror
  (repeat' split) <;> simp_all

@[simp] theorem State.tellUe_fixed (s : State) (a : Arch) :
    (State.tellUe s a).fixed = s.fixed := by
  unfold State.tellUe
  simp

@[simp] theorem State.viewSlot1_fixed (s : State) (a : Arch) (P : Isl) :
    (State.viewSlot1 s a P).fixed = s.fixed := by
  unfold State.viewSlot1
  dsimp only
  (repeat' split) <;> simp_all

@[simp] theorem State.viewSlots1_fixed (s : State) (a : Arch) :
    (State.viewSlots1 s a).fixed = s.fixed := by
  unfold State.viewSlots1
  simp

/-! ### Machine/Net.lean -/

@[simp] theorem State.taken_fixed (s : State) (r : Request) :
    (State.taken s r).fixed = s.fixed := by
  rfl

@[simp] theorem State.reply_fixed (s : State) (r : Request) (st : Status) (data : List Byte) :
    (State.reply s r st data).fixed = s.fixed := by
  unfold State.reply
  simp

@[simp] theorem State.replyHere_fixed (s : State) (r : Request) (st : Status) :
    (State.replyHere s r st).fixed = s.fixed := by
  unfold State.replyHere
  simp

@[simp] theorem State.serve_fixed (s : State) (r : Request) (mine : Bool) (f : State → Status × List Byte × State) (hf : ∀ (a0 : State), (f a0).2.2.fixed = a0.fixed) :
    (State.serve s r mine f).fixed = s.fixed := by
  unfold State.serve
  dsimp only
  (repeat' split) <;> simp_all

/-! ### Machine/CoreRun.lean -/

@[simp] theorem State.setCore_fixed (s : State) (n : CoreId) (c : Core) :
    (State.setCore s n c).fixed = s.fixed := by
  rfl

@[simp] theorem State.entered_fixed (s : State) (n : CoreId) (c : Core) :
    (State.entered s n c).fixed = s.fixed := by
  unfold State.entered
  simp

@[simp] theorem State.entry_fixed (s : State) (n : CoreId) (r : Bool × Core) :
    (State.entry s n r).fixed = s.fixed := by
  unfold State.entry
  simp

@[simp] theorem State.runInsnWith_fixed (s : State) (pour : State → PourRec → State) (n : CoreId) (i : Insn) (hpour : ∀ (a0 : State) (a1 : PourRec), (pour a0 a1).fixed = a0.fixed) :
    (State.runInsnWith s pour n i).fixed = s.fixed := by
  unfold State.runInsnWith
  dsimp only
  (repeat' split) <;> simp_all

@[simp] theorem State.takeInterrupt_fixed (s : State) (n : CoreId) :
    (State.takeInterrupt s n).fixed = s.fixed := by
  unfold State.takeInterrupt
  dsimp only
  (repeat' split) <;> simp_all

/-! ### Machine/Caenater.lean -/

@[simp] theorem State.complete_fixed (s : State) (r : PourRec) (status detail : Nat) (val : Option Nat) :
    (State.complete s r status detail val).fixed = s.fixed := by
  rfl

/-! ### Machine/Sequencer.lean -/

@[simp] theorem State.twinFound_fixed (s : State) (ms : List Arch) (m : Mismatch) :
    (State.twinFound s ms m).fixed = s.fixed := by
  unfold State.twinFound
  simp

@[simp] theorem State.setFailed_fixed (s : State) (ms : List Arch) :
    (State.setFailed s ms).fixed = s.fixed := by
  unfold State.setFailed
  simp

@[simp] theorem State.setPosted_fixed (s : State) (ms : List Arch) :
    (State.setPosted s ms).fixed = s.fixed := by
  unfold State.setPosted
  simp

@[simp] theorem State.post_fixed (s : State) (lead : Arch) (ms : List Arch) (w : Option RedResult) :
    (State.post s lead ms w).fixed = s.fixed := by
  unfold State.post
  dsimp only
  (repeat' split) <;> simp_all

@[simp] theorem State.seqFault_fixed (s : State) (bad : List (Arch × Nat)) (lead : Arch) (ms : List Arch) (pc : Arch → A13) :
    (State.seqFault s bad lead ms pc).fixed = s.fixed := by
  unfold State.seqFault
  extract_lets q detail s1 s2 s3
  have h1 : s1.fixed = s.fixed := by simp only [s1]; (repeat' split) <;> simp
  have h3 : s3.fixed = s.fixed := by
    refine (foldl_fixed _ _ _ (fun t b => ?_)).trans ?_
    · dsimp only; split <;> simp
    · simp [s2, h1]
  split
  · exact h3
  · exact h3

@[simp] theorem State.trapFault_fixed (s : State) (lead : Arch) (ms : List Arch) (pc : A13) (sub : Nat) :
    (State.trapFault s lead ms pc sub).fixed = s.fixed := by
  unfold State.trapFault
  simp

@[simp] theorem State.startHead_fixed (s : State) (lead : Arch) (ms : List Arch) :
    (State.startHead s lead ms).fixed = s.fixed := by
  unfold State.startHead
  dsimp only
  (repeat' split) <;> simp_all

@[simp] theorem State.parkDispatch_fixed (s : State) (ms : List Arch) :
    (State.parkDispatch s ms).fixed = s.fixed := by
  unfold State.parkDispatch
  simp

@[simp] theorem State.takeNext_fixed (s : State) (lead : Arch) (ms : List Arch) :
    (State.takeNext s lead ms).fixed = s.fixed := by
  unfold State.takeNext
  simp

@[simp] theorem State.owe_fixed (s : State) (lead : Arch) :
    (State.owe s lead).fixed = s.fixed := by
  unfold State.owe
  dsimp only
  (repeat' split) <;> simp_all

@[simp] theorem State.settleOwed_fixed (s : State) (lead : Arch) (status detail : Nat) :
    (State.settleOwed s lead status detail).fixed = s.fixed := by
  unfold State.settleOwed
  simp

@[simp] theorem State.dispatchPlain_fixed (s : State) (lead : Arch) (ms : List Arch) :
    (State.dispatchPlain s lead ms).fixed = s.fixed := by
  unfold State.dispatchPlain
  simp

@[simp] theorem State.pourAll_fixed (s : State) (ms : List (Arch × Micro)) (edges : Vector PeVec 4) (lat : Bool) (forceTwx : Bool) :
    (State.pourAll s ms edges lat forceTwx).1.fixed = s.fixed := by
  unfold State.pourAll
  refine foldl_fst_fixed _ _ _ (fun q am => ?_)
  simp only [State.mirror_fixed, State.tellUe_fixed]
  refine foldl_fst_fixed _ _ _ (fun q am => ?_)
  dsimp only
  (repeat' split) <;> simp

@[simp] theorem State.sendLanes_fixed (s : State) (lanes : List Bool) (body : StraitBody) :
    (State.sendLanes s lanes body).fixed = s.fixed := by
  rfl

@[simp] theorem State.latCombine_fixed (s : State) :
    (State.latCombine s).fixed = s.fixed := by
  unfold State.latCombine
  (repeat' split) <;> simp_all

@[simp] theorem State.setReductions_fixed (s : State) (lead : Arch) (cs : List (Arch × Bool × Nat)) (gor gcnt : Bool) :
    (State.setReductions s lead cs gor gcnt).fixed = s.fixed := by
  unfold State.setReductions
  simp

@[simp] theorem State.edgeSend_fixed (s : State) (w : Micro) :
    (State.edgeSend s w).1.fixed = s.fixed := by
  unfold State.edgeSend
  dsimp only
  (repeat' split) <;> simp_all

theorem State.edgeTake_fixed (s : State) (w : Micro) :
    ∀ p, State.edgeTake s w = some p → p.1.fixed = s.fixed := by
  unfold State.edgeTake
  intro t ht
  dsimp only at ht
  (repeat' split at ht) <;> (try cases ht) <;> simp_all

@[simp] theorem State.endWord_fixed (s : State) (s0 : State) (a lead : Arch) (w : Micro) (pc : A13) (due : Bool) :
    (State.endWord s s0 a lead w pc due).fixed = s.fixed := by
  rfl

@[simp] theorem State.checkpoint_fixed (s : State) (lead : Arch) (ms : List Arch) (pc : A13) :
    (State.checkpoint s lead ms pc).fixed = s.fixed := by
  unfold State.checkpoint
  simp

/-! ### Machine/Macro.lean -/

@[simp] theorem State.macroReads_fixed (s : State) (ms : List Arch) (op : MacroOp) (r : PourRec) :
    (State.macroReads s ms op r).fixed = s.fixed := by
  unfold State.macroReads
  refine State.eachArch_fixed _ _ _ (fun t a => ?_)
  rw [State.tellUe_fixed]
  refine foldl_fixed _ _ _ (fun u P => foldl_fixed _ _ _ (fun v x => foldl_fixed _ _ _ (fun w k => ?_)))
  exact State.modIsl_fixed ..

@[simp] theorem State.macroWrite_fixed (s : State) (a : Arch) (p : Fin 32) (pl : A13) (all : Bool) (data : PeVec) :
    (State.macroWrite s a p pl all data).fixed = s.fixed := by
  unfold State.macroWrite
  dsimp only
  (repeat' split) <;> simp_all

@[simp] theorem State.macroStore_fixed (s s0 : State) (lead : Arch) (ms : List Arch) (op : MacroOp) (r : PourRec) (j : Nat) :
    (State.macroStore s s0 lead ms op r j).fixed = s.fixed := by
  unfold State.macroStore
  split
  · rfl
  · refine State.eachArch_fixed _ _ _ (fun t a => foldl_fixed _ _ _ (fun u p => foldl_fixed _ _ _ (fun v k => ?_)))
    exact State.macroWrite_fixed ..

@[simp] theorem State.macroRegs_fixed (s s0 : State) (ms : List Arch) (op : MacroOp) (r : PourRec) :
    (State.macroRegs s s0 ms op r).fixed = s.fixed := by
  unfold State.macroRegs
  simp

@[simp] theorem State.macroJunk_fixed (s : State) (ms : List Arch) (r : PourRec) :
    (State.macroJunk s ms r).fixed = s.fixed := by
  unfold State.macroJunk
  extract_lets b s1 w v s2
  have h1 : s1.fixed = s.fixed := by
    refine State.eachArch_fixed _ _ _ (fun t a => ?_)
    extract_lets u
    have h : u.fixed = t.fixed := foldl_fixed _ _ _ (fun u P => State.modIsl_fixed ..)
    split
    · exact (State.modIsl_fixed ..).trans h
    · exact h
  exact (State.modSeqs_fixed ..).trans h1

@[simp] theorem State.macroCompare_fixed (s : State) (ms : List Arch) (op : MacroOp) (r : PourRec) (pc : A13) :
    (State.macroCompare s ms op r pc).fixed = s.fixed := by
  unfold State.macroCompare
  dsimp only
  (repeat' split) <;> simp_all

@[simp] theorem State.macroReduce_fixed (s : State) (lead : Arch) (ms : List Arch) (gor gcnt : Bool) (f : Arch → Fin 32 → PeVec) :
    (State.macroReduce s lead ms gor gcnt f).fixed = s.fixed := by
  unfold State.macroReduce
  simp

@[simp] theorem State.narrow_fixed (s : State) (lead : Arch) (ms : List Arch) (device : Bool) (f : Arch → Fin 32 → PeVec) :
    (State.narrow s lead ms device f).fixed = s.fixed := by
  unfold State.narrow
  simp

@[simp] theorem State.nmovStep_fixed (s : State) (ms : List Arch) (r : PourRec) (d : Fin 4) (k : Nat) :
    (State.nmovStep s ms r d k).1.fixed = s.fixed := by
  unfold State.nmovStep
  extract_lets w pl s1 q
  have h1 : s1.fixed = s.fixed :=
    State.eachArch_fixed _ _ _ (fun t a => foldl_fixed _ _ _ (fun u p => State.modIsl_fixed ..))
  have hq : q.1.fixed = s.fixed := (State.edgeSend_fixed ..).trans h1
  split
  · exact hq
  · rename_i t edges he
    split at he
    · refine (State.eachArch_fixed _ _ _ (fun u a => foldl_fixed _ _ _ (fun v p => State.macroWrite_fixed ..))).trans ?_
      exact (State.edgeTake_fixed _ _ _ he).trans hq
    · cases he

@[simp] theorem State.macroStep_fixed (s : State) (lead : Arch) (ms : List Arch) (r : PourRec) (op : MacroOp) (k : Nat) :
    (State.macroStep s lead ms r op k).1.fixed = s.fixed := by
  unfold State.macroStep
  dsimp only
  (repeat' split) <;> simp_all

@[simp] theorem State.macroRunSteps_fixed (s : State) (lead : Arch) (ms : List Arch) (r : PourRec) (op : MacroOp) (n k : Nat) :
    (State.macroRunSteps s lead ms r op n k).1.fixed = s.fixed := by
  induction n generalizing s k with
  | zero => rfl
  | succ n ih =>
    have h := State.macroStep_fixed s lead ms r op k
    unfold State.macroRunSteps
    generalize s.macroStep lead ms r op k = q at h
    obtain ⟨t, b⟩ := q
    cases b
    · exact h
    · exact (ih t (k + 1)).trans h

@[simp] theorem State.macroEnd_fixed (s : State) (lead : Arch) (ms : List Arch) (r : PourRec) (op : MacroOp) :
    (State.macroEnd s lead ms r op).fixed = s.fixed := by
  unfold State.macroEnd
  (repeat' split) <;> simp_all

/-! ### Machine/Trap.lean -/

@[simp] theorem State.countFetch_fixed (s : State) (ms : List Arch) (pc : A13) :
    (State.countFetch s ms pc).fixed = s.fixed := by
  unfold State.countFetch
  simp

@[simp] theorem State.wordsCompared_fixed (s : State) (lead : Arch) (ms : List Arch) (ws : List (Option Micro)) (pc : A13) :
    (State.wordsCompared s lead ms ws pc).fixed = s.fixed := by
  unfold State.wordsCompared
  simp

@[simp] theorem State.fixedWord_fixed (s : State) (lead : Arch) (ms : List Arch) (k : Nat) (w : Option Micro) :
    (State.fixedWord s lead ms k w).fixed = s.fixed := by
  unfold State.fixedWord
  (repeat' split) <;> simp_all

@[simp] theorem State.runFixed_fixed (s : State) (lead : Arch) (ms : List Arch) (base : Nat) (ws : List Micro) (slots : Nat) :
    (State.runFixed s lead ms base ws slots).fixed = s.fixed := by
  unfold State.runFixed
  exact foldl_fixed _ _ _ (fun t wk => State.fixedWord_fixed ..)

@[simp] theorem State.saveTrap_fixed (s : State) (lead : Arch) (ms : List Arch) (slot1 : Bool) (c : TrapCause) (m : SeqMode) :
    (State.saveTrap s lead ms slot1 c m).fixed = s.fixed := by
  unfold State.saveTrap
  simp

@[simp] theorem State.restoreTrap_fixed (s : State) (lead : Arch) (ms : List Arch) :
    (State.restoreTrap s lead ms).fixed = s.fixed := by
  unfold State.restoreTrap
  dsimp only
  (repeat' split) <;> simp

@[simp] theorem State.dispatch_fixed (s : State) (lead : Arch) (ms : List Arch) :
    (State.dispatch s lead ms).fixed = s.fixed := by
  unfold State.dispatch
  simp

@[simp] theorem State.microTrap_fixed (s : State) (a : Arch) :
    (State.microTrap s a).fixed = s.fixed := by
  unfold State.microTrap
  dsimp only
  (repeat' split) <;> simp_all

@[simp] theorem State.issuePour_fixed (s0 : State) (lead : Arch) (ms : List Arch) (ws : List (Arch × Micro)) (edges : Vector PeVec 4) (w : Micro) (force : Bool) :
    (State.issuePour s0 lead ms ws edges w force).fixed = s0.fixed := by
  unfold State.issuePour
  extract_lets q s1 p s2
  have h1 : s1.fixed = s0.fixed := by simp only [s1]; split <;> simp
  have hp : p.1.fixed = s0.fixed := by simp only [p]; rw [State.pourAll_fixed, h1]
  have h2 : s2.fixed = s0.fixed := by simp only [s2]; split <;> simp [hp]
  repeat' split
  all_goals simp [h2]

@[simp] theorem State.twinCheck_fixed (s : State) (ms : List Arch) (twin cmp same : Bool) (pc : A13) :
    (State.twinCheck s ms twin cmp same pc).fixed = s.fixed := by
  unfold State.twinCheck
  split
  · extract_lets s1
    have h1 : s1.fixed = s.fixed := by simp only [s1]; (repeat' split) <;> simp
    split <;> simp [h1]
  · rfl

@[simp] theorem State.spcEnd_fixed (s : State) (lead : Arch) (ms : List Arch) (w : Micro) (ckpt : Bool) (pc : A13) :
    (State.spcEnd s lead ms w ckpt pc).fixed = s.fixed := by
  unfold State.spcEnd
  simp

@[simp] theorem State.leadOn_fixed (s : State) (lead : Arch) (ms : List Arch) (w : Micro) (nl : Next) (bottom : Bool) :
    (State.leadOn s lead ms w nl bottom).fixed = s.fixed := by
  unfold State.leadOn
  (repeat' split) <;> simp

@[simp] theorem State.stepped_fixed (s : State) (lead : Arch) (ms : List Arch) :
    (State.stepped s lead ms).fixed = s.fixed := by
  unfold State.stepped
  dsimp only
  (repeat' split) <;> simp

@[simp] theorem State.issued_fixed (s0 : State) (lead : Arch) (ms : List Arch) (ws : List (Arch × Micro)) (edges : Vector PeVec 4) :
    (State.issued s0 lead ms ws edges).fixed = s0.fixed := by
  unfold State.issued
  simp

@[simp] theorem State.macroPass_fixed (s : State) (lead : Arch) (ms : List Arch) (first : Bool) :
    (State.macroPass s lead ms first).fixed = s.fixed := by
  unfold State.macroPass
  simp

@[simp] theorem State.macroLast_fixed (s : State) (lead : Arch) (ms : List Arch) (r : PourRec) (op : MacroOp) (first : Bool) :
    (State.macroLast s lead ms r op first).fixed = s.fixed := by
  unfold State.macroLast
  simp

@[simp] theorem State.holdWord_fixed (s : State) (ms : List Arch) (m : SeqMode) :
    (State.holdWord s ms m).fixed = s.fixed := by
  unfold State.holdWord
  simp

@[simp] theorem State.fetched_fixed (s : State) (lead : Arch) (ms : List Arch) :
    (State.fetched s lead ms).fixed = s.fixed := by
  unfold State.fetched
  simp

@[simp] theorem State.macroCycle_fixed (s : State) (lead : Arch) (ms : List Arch) (r : PourRec) (op : MacroOp) (m : MacroRun) :
    (State.macroCycle s lead ms r op m).fixed = s.fixed := by
  unfold State.macroCycle
  extract_lets q n first bad waits s1 s2 p hold
  have h1 : s1.fixed = s.fixed := by simp only [s1]; split <;> simp
  have h2 : s2.fixed = s.fixed := by simp only [s2]; split <;> simp [h1]
  have hp : p.1.fixed = s.fixed := by simp only [p]; (repeat' split) <;> simp [h2]
  have hh : ∀ t k, (hold t k).fixed = t.fixed := fun t k => State.modSeqs_fixed ..
  split
  · simp [h1]
  · split
    · simp [h1]
    · split
      · simp [h1]
      · split
        · rw [hh, hp]
        · split
          · simp [hp]
          · have hr := State.macroRunSteps_fixed p.1 lead ms r op (op.steps n - m.stage) m.stage
            split <;> rename_i he <;> rw [he] at hr
            · rw [hh]; exact hr.trans hp
            · rw [State.macroLast_fixed]; exact hr.trans hp

@[simp] theorem State.issueNow_fixed (s : State) (lead : Arch) (ms : List Arch) (ws : List (Arch × Micro)) (w : Micro) :
    (State.issueNow s lead ms ws w).fixed = s.fixed := by
  unfold State.issueNow
  dsimp only
  have he := State.edgeSend_fixed s w
  split
  · split
    · simp [he]
    · rename_i t planes h
      have ht : t.fixed = (s.edgeSend w).1.fixed := by
        split at h
        · exact State.edgeTake_fixed _ _ _ h
        · cases h
      rw [State.issued_fixed, ht, he]
  · simp

@[simp] theorem State.slotCycle_fixed (s : State) (ms : List Arch) :
    (State.slotCycle s ms).fixed = s.fixed := by
  unfold State.slotCycle
  simp

@[simp] theorem State.issueWord_fixed (s : State) (lead : Arch) (ms : List Arch) (release : Bool) :
    (State.issueWord s lead ms release).fixed = s.fixed := by
  unfold State.issueWord
  dsimp only
  (repeat' split) <;> first | rfl | simp_all

@[simp] theorem State.holdEnds_fixed (s : State) (a : Arch) (f : State → State) (hf : ∀ a0 : State, (f a0).fixed = a0.fixed) :
    (State.holdEnds s a f).fixed = s.fixed := by
  unfold State.holdEnds
  split
  · simp
  · exact hf s

theorem execDispatchWaitEnd_fixed (a : Arch) (s : State) :
    ∃ r, execDispatchWaitEnd a s = .next r ∧ r.fixed = s.fixed := by
  unfold execDispatchWaitEnd
  dsimp only
  (repeat' split) <;> exact ⟨_, rfl, by simp_all⟩

theorem execWaitRelease_fixed (a : Arch) (s : State) :
    ∃ r, execWaitRelease a s = .next r ∧ r.fixed = s.fixed := by
  unfold execWaitRelease
  dsimp only
  (repeat' split) <;> exact ⟨_, rfl, by simp_all⟩

theorem execFramebarRelease_fixed (a : Arch) (s : State) :
    ∃ r, execFramebarRelease a s = .next r ∧ r.fixed = s.fixed := by
  unfold execFramebarRelease
  dsimp only
  (repeat' split) <;> exact ⟨_, rfl, by simp_all⟩

theorem execLatbarRelease_fixed (a : Arch) (s : State) :
    ∃ r, execLatbarRelease a s = .next r ∧ r.fixed = s.fixed := by
  unfold execLatbarRelease
  dsimp only
  (repeat' split) <;> exact ⟨_, rfl, by simp_all⟩

theorem execMicroTrap_fixed (a : Arch) (s : State) :
    ∃ r, execMicroTrap a s = .next r ∧ r.fixed = s.fixed := by
  refine ⟨_, rfl, ?_⟩
  simp

theorem execTrapWatchdogExpiry_fixed (a : Arch) (s : State) :
    ∃ r, execTrapWatchdogExpiry a s = .next r ∧ r.fixed = s.fixed := by
  unfold execTrapWatchdogExpiry
  dsimp only
  (repeat' split) <;> exact ⟨_, rfl, by simp_all⟩

theorem execReductionResult_fixed (a : Arch) (which : RedResult) (s : State) :
    ∃ r, execReductionResult a which s = .next r ∧ r.fixed = s.fixed := by
  unfold execReductionResult
  dsimp only
  (repeat' split) <;> exact ⟨_, rfl, by simp_all⟩

/-! ### Machine/Keep.lean -/

@[simp] theorem State.settleCommit_fixed (s : State) :
    (State.settleCommit s).fixed = s.fixed := by
  unfold State.settleCommit
  (repeat' split) <;> simp_all

@[simp] theorem State.modSession_fixed (s : State) (id : Word) (f : Session → Session) :
    (State.modSession s id f).fixed = s.fixed := by
  rfl

@[simp] theorem State.txnAbort_fixed (s : State) :
    (State.txnAbort s).fixed = s.fixed := by
  unfold State.txnAbort
  simp

@[simp] theorem State.dropSecret_fixed (s : State) (id : Word) :
    (State.dropSecret s id).fixed = s.fixed := by
  rfl

@[simp] theorem State.closeSession_fixed (s : State) (id : Word) :
    (State.closeSession s id).fixed = s.fixed := by
  unfold State.closeSession
  simp

@[simp] theorem State.closeAll_fixed (s : State) :
    (State.closeAll s).fixed = s.fixed := by
  unfold State.closeAll
  simp

/-! ### Machine/Mould.lean -/

theorem execMouldScrub_fixed (a : Arch) (s : State) :
    ∃ r, execMouldScrub a s = .next r ∧ r.fixed = s.fixed := by
  unfold execMouldScrub
  dsimp only
  (repeat' split) <;> exact ⟨_, rfl, by simp_all⟩

@[simp] theorem State.resumeDispatch_fixed (s : State) (a : Arch) :
    (State.resumeDispatch s a).fixed = s.fixed := by
  unfold State.resumeDispatch
  simp

theorem execMouldWordRewrite_fixed (a : Arch) (s : State) :
    ∃ r, execMouldWordRewrite a s = .next r ∧ r.fixed = s.fixed := by
  unfold execMouldWordRewrite
  dsimp only
  (repeat' split) <;> exact ⟨_, rfl, by simp_all⟩

theorem execPatternReplacement_fixed (a : Arch) (s : State) :
    ∃ r, execPatternReplacement a s = .next r ∧ r.fixed = s.fixed := by
  unfold execPatternReplacement
  dsimp only
  (repeat' split) <;> exact ⟨_, rfl, by simp_all⟩

/-! ### Machine/Pour.lean -/

@[simp] theorem State.pourArrive_fixed (s : State) (r : PourRec) :
    (State.pourArrive s r).fixed = s.fixed := by
  unfold State.pourArrive
  (repeat' split) <;> simp_all

theorem execPourForward_fixed (n : CoreId) (s : State) :
    ∃ r, execPourForward n s = .next r ∧ r.fixed = s.fixed := by
  unfold execPourForward
  dsimp only
  (repeat' split) <;> exact ⟨_, rfl, by simp_all⟩

/-! ### Machine/CoreRet.lean -/

@[simp] theorem State.runInsn_fixed (s : State) (n : CoreId) (i : Insn) :
    (State.runInsn s n i).fixed = s.fixed := by
  unfold State.runInsn
  simp

/-! ### Machine/CoreExec.lean -/

theorem execCustomerInstruction_fixed (n : CoreId) (slot : Fin 16) (imm : Byte) (s : State) :
    ∃ r, execCustomerInstruction n slot imm s = .next r ∧ r.fixed = s.fixed := by
  refine ⟨_, rfl, ?_⟩
  simp

theorem execIllegalInstruction_fixed (n : CoreId) (units : List (BitVec 16)) (s : State) :
    ∃ r, execIllegalInstruction n units s = .next r ∧ r.fixed = s.fixed := by
  unfold execIllegalInstruction
  (repeat' split) <;> exact ⟨_, rfl, by simp_all⟩

theorem execNop_fixed (n : CoreId) (s : State) :
    ∃ r, execNop n s = .next r ∧ r.fixed = s.fixed := by
  refine ⟨_, rfl, ?_⟩
  simp

theorem execDup_fixed (n : CoreId) (s : State) :
    ∃ r, execDup n s = .next r ∧ r.fixed = s.fixed := by
  refine ⟨_, rfl, ?_⟩
  simp

theorem execDrop_fixed (n : CoreId) (s : State) :
    ∃ r, execDrop n s = .next r ∧ r.fixed = s.fixed := by
  refine ⟨_, rfl, ?_⟩
  simp

theorem execSwap_fixed (n : CoreId) (s : State) :
    ∃ r, execSwap n s = .next r ∧ r.fixed = s.fixed := by
  refine ⟨_, rfl, ?_⟩
  simp

theorem execOver_fixed (n : CoreId) (s : State) :
    ∃ r, execOver n s = .next r ∧ r.fixed = s.fixed := by
  refine ⟨_, rfl, ?_⟩
  simp

theorem execRot_fixed (n : CoreId) (s : State) :
    ∃ r, execRot n s = .next r ∧ r.fixed = s.fixed := by
  refine ⟨_, rfl, ?_⟩
  simp

theorem execPick_fixed (n : CoreId) (k : Byte) (s : State) :
    ∃ r, execPick n k s = .next r ∧ r.fixed = s.fixed := by
  refine ⟨_, rfl, ?_⟩
  simp

theorem execPut_fixed (n : CoreId) (k : Byte) (s : State) :
    ∃ r, execPut n k s = .next r ∧ r.fixed = s.fixed := by
  refine ⟨_, rfl, ?_⟩
  simp

theorem execDepth_fixed (n : CoreId) (s : State) :
    ∃ r, execDepth n s = .next r ∧ r.fixed = s.fixed := by
  refine ⟨_, rfl, ?_⟩
  simp

theorem execSavestk_fixed (n : CoreId) (brk : Option Nat) (s : State) :
    ∃ r, execSavestk n brk s = .next r ∧ r.fixed = s.fixed := by
  refine ⟨_, rfl, ?_⟩
  simp

theorem execLoadstk_fixed (n : CoreId) (brk : Option Nat) (s : State) :
    ∃ r, execLoadstk n brk s = .next r ∧ r.fixed = s.fixed := by
  refine ⟨_, rfl, ?_⟩
  simp

theorem execLit8_fixed (n : CoreId) (imm : Byte) (s : State) :
    ∃ r, execLit8 n imm s = .next r ∧ r.fixed = s.fixed := by
  refine ⟨_, rfl, ?_⟩
  simp

theorem execLit16_fixed (n : CoreId) (imm : BitVec 16) (s : State) :
    ∃ r, execLit16 n imm s = .next r ∧ r.fixed = s.fixed := by
  refine ⟨_, rfl, ?_⟩
  simp

theorem execLit32_fixed (n : CoreId) (imm : Word) (s : State) :
    ∃ r, execLit32 n imm s = .next r ∧ r.fixed = s.fixed := by
  refine ⟨_, rfl, ?_⟩
  simp

theorem execLithi_fixed (n : CoreId) (imm : BitVec 16) (s : State) :
    ∃ r, execLithi n imm s = .next r ∧ r.fixed = s.fixed := by
  refine ⟨_, rfl, ?_⟩
  simp

theorem execAdd_fixed (n : CoreId) (s : State) :
    ∃ r, execAdd n s = .next r ∧ r.fixed = s.fixed := by
  refine ⟨_, rfl, ?_⟩
  simp

theorem execSub_fixed (n : CoreId) (s : State) :
    ∃ r, execSub n s = .next r ∧ r.fixed = s.fixed := by
  refine ⟨_, rfl, ?_⟩
  simp

theorem execAdc_fixed (n : CoreId) (s : State) :
    ∃ r, execAdc n s = .next r ∧ r.fixed = s.fixed := by
  refine ⟨_, rfl, ?_⟩
  simp

theorem execSbc_fixed (n : CoreId) (s : State) :
    ∃ r, execSbc n s = .next r ∧ r.fixed = s.fixed := by
  refine ⟨_, rfl, ?_⟩
  simp

theorem execMul_fixed (n : CoreId) (s : State) :
    ∃ r, execMul n s = .next r ∧ r.fixed = s.fixed := by
  refine ⟨_, rfl, ?_⟩
  simp

theorem execMulwu_fixed (n : CoreId) (s : State) :
    ∃ r, execMulwu n s = .next r ∧ r.fixed = s.fixed := by
  refine ⟨_, rfl, ?_⟩
  simp

theorem execMulws_fixed (n : CoreId) (s : State) :
    ∃ r, execMulws n s = .next r ∧ r.fixed = s.fixed := by
  refine ⟨_, rfl, ?_⟩
  simp

theorem execDivu_fixed (n : CoreId) (s : State) :
    ∃ r, execDivu n s = .next r ∧ r.fixed = s.fixed := by
  refine ⟨_, rfl, ?_⟩
  simp

theorem execDivs_fixed (n : CoreId) (s : State) :
    ∃ r, execDivs n s = .next r ∧ r.fixed = s.fixed := by
  refine ⟨_, rfl, ?_⟩
  simp

theorem execRemu_fixed (n : CoreId) (s : State) :
    ∃ r, execRemu n s = .next r ∧ r.fixed = s.fixed := by
  refine ⟨_, rfl, ?_⟩
  simp

theorem execRems_fixed (n : CoreId) (s : State) :
    ∃ r, execRems n s = .next r ∧ r.fixed = s.fixed := by
  refine ⟨_, rfl, ?_⟩
  simp

theorem execAnd_fixed (n : CoreId) (s : State) :
    ∃ r, execAnd n s = .next r ∧ r.fixed = s.fixed := by
  refine ⟨_, rfl, ?_⟩
  simp

theorem execOr_fixed (n : CoreId) (s : State) :
    ∃ r, execOr n s = .next r ∧ r.fixed = s.fixed := by
  refine ⟨_, rfl, ?_⟩
  simp

theorem execXor_fixed (n : CoreId) (s : State) :
    ∃ r, execXor n s = .next r ∧ r.fixed = s.fixed := by
  refine ⟨_, rfl, ?_⟩
  simp

theorem execNot_fixed (n : CoreId) (s : State) :
    ∃ r, execNot n s = .next r ∧ r.fixed = s.fixed := by
  refine ⟨_, rfl, ?_⟩
  simp

theorem execNeg_fixed (n : CoreId) (s : State) :
    ∃ r, execNeg n s = .next r ∧ r.fixed = s.fixed := by
  refine ⟨_, rfl, ?_⟩
  simp

theorem execShl_fixed (n : CoreId) (s : State) :
    ∃ r, execShl n s = .next r ∧ r.fixed = s.fixed := by
  refine ⟨_, rfl, ?_⟩
  simp

theorem execShr_fixed (n : CoreId) (s : State) :
    ∃ r, execShr n s = .next r ∧ r.fixed = s.fixed := by
  refine ⟨_, rfl, ?_⟩
  simp

theorem execSar_fixed (n : CoreId) (s : State) :
    ∃ r, execSar n s = .next r ∧ r.fixed = s.fixed := by
  refine ⟨_, rfl, ?_⟩
  simp

theorem execRol_fixed (n : CoreId) (s : State) :
    ∃ r, execRol n s = .next r ∧ r.fixed = s.fixed := by
  refine ⟨_, rfl, ?_⟩
  simp

theorem execClz_fixed (n : CoreId) (s : State) :
    ∃ r, execClz n s = .next r ∧ r.fixed = s.fixed := by
  refine ⟨_, rfl, ?_⟩
  simp

theorem execPopc_fixed (n : CoreId) (s : State) :
    ∃ r, execPopc n s = .next r ∧ r.fixed = s.fixed := by
  refine ⟨_, rfl, ?_⟩
  simp

theorem execBfx_fixed (n : CoreId) (s : State) :
    ∃ r, execBfx n s = .next r ∧ r.fixed = s.fixed := by
  refine ⟨_, rfl, ?_⟩
  simp

theorem execBfi_fixed (n : CoreId) (s : State) :
    ∃ r, execBfi n s = .next r ∧ r.fixed = s.fixed := by
  refine ⟨_, rfl, ?_⟩
  simp

theorem execBperm_fixed (n : CoreId) (s : State) :
    ∃ r, execBperm n s = .next r ∧ r.fixed = s.fixed := by
  refine ⟨_, rfl, ?_⟩
  simp

theorem execMin_fixed (n : CoreId) (s : State) :
    ∃ r, execMin n s = .next r ∧ r.fixed = s.fixed := by
  refine ⟨_, rfl, ?_⟩
  simp

theorem execMax_fixed (n : CoreId) (s : State) :
    ∃ r, execMax n s = .next r ∧ r.fixed = s.fixed := by
  refine ⟨_, rfl, ?_⟩
  simp

theorem execSext8_fixed (n : CoreId) (s : State) :
    ∃ r, execSext8 n s = .next r ∧ r.fixed = s.fixed := by
  refine ⟨_, rfl, ?_⟩
  simp

theorem execSext16_fixed (n : CoreId) (s : State) :
    ∃ r, execSext16 n s = .next r ∧ r.fixed = s.fixed := by
  refine ⟨_, rfl, ?_⟩
  simp

theorem execSext18_fixed (n : CoreId) (s : State) :
    ∃ r, execSext18 n s = .next r ∧ r.fixed = s.fixed := by
  refine ⟨_, rfl, ?_⟩
  simp

theorem execSat18_fixed (n : CoreId) (s : State) :
    ∃ r, execSat18 n s = .next r ∧ r.fixed = s.fixed := by
  refine ⟨_, rfl, ?_⟩
  simp

theorem execRdr_fixed (n : CoreId) (c : Byte) (s : State) :
    ∃ r, execRdr n c s = .next r ∧ r.fixed = s.fixed := by
  refine ⟨_, rfl, ?_⟩
  simp

theorem execWrr_fixed (n : CoreId) (c : Byte) (s : State) :
    ∃ r, execWrr n c s = .next r ∧ r.fixed = s.fixed := by
  refine ⟨_, rfl, ?_⟩
  simp

theorem execCsrr_fixed (n : CoreId) (c : Byte) (s : State) :
    ∃ r, execCsrr n c s = .next r ∧ r.fixed = s.fixed := by
  refine ⟨_, rfl, ?_⟩
  simp

theorem execCsrw_fixed (n : CoreId) (c : Byte) (s : State) :
    ∃ r, execCsrw n c s = .next r ∧ r.fixed = s.fixed := by
  refine ⟨_, rfl, ?_⟩
  simp

theorem execLdb_fixed (n : CoreId) (s : State) :
    ∃ r, execLdb n s = .next r ∧ r.fixed = s.fixed := by
  refine ⟨_, rfl, ?_⟩
  simp

theorem execLdbu_fixed (n : CoreId) (s : State) :
    ∃ r, execLdbu n s = .next r ∧ r.fixed = s.fixed := by
  refine ⟨_, rfl, ?_⟩
  simp

theorem execLdh_fixed (n : CoreId) (s : State) :
    ∃ r, execLdh n s = .next r ∧ r.fixed = s.fixed := by
  refine ⟨_, rfl, ?_⟩
  simp

theorem execLdhu_fixed (n : CoreId) (s : State) :
    ∃ r, execLdhu n s = .next r ∧ r.fixed = s.fixed := by
  refine ⟨_, rfl, ?_⟩
  simp

theorem execLdw_fixed (n : CoreId) (s : State) :
    ∃ r, execLdw n s = .next r ∧ r.fixed = s.fixed := by
  refine ⟨_, rfl, ?_⟩
  simp

theorem execStb_fixed (n : CoreId) (s : State) :
    ∃ r, execStb n s = .next r ∧ r.fixed = s.fixed := by
  refine ⟨_, rfl, ?_⟩
  simp

theorem execSth_fixed (n : CoreId) (s : State) :
    ∃ r, execSth n s = .next r ∧ r.fixed = s.fixed := by
  refine ⟨_, rfl, ?_⟩
  simp

theorem execStw_fixed (n : CoreId) (s : State) :
    ∃ r, execStw n s = .next r ∧ r.fixed = s.fixed := by
  refine ⟨_, rfl, ?_⟩
  simp

theorem execBeq_fixed (n : CoreId) (rel : BitVec 16) (s : State) :
    ∃ r, execBeq n rel s = .next r ∧ r.fixed = s.fixed := by
  refine ⟨_, rfl, ?_⟩
  simp

theorem execBne_fixed (n : CoreId) (rel : BitVec 16) (s : State) :
    ∃ r, execBne n rel s = .next r ∧ r.fixed = s.fixed := by
  refine ⟨_, rfl, ?_⟩
  simp

theorem execBlt_fixed (n : CoreId) (rel : BitVec 16) (s : State) :
    ∃ r, execBlt n rel s = .next r ∧ r.fixed = s.fixed := by
  refine ⟨_, rfl, ?_⟩
  simp

theorem execBge_fixed (n : CoreId) (rel : BitVec 16) (s : State) :
    ∃ r, execBge n rel s = .next r ∧ r.fixed = s.fixed := by
  refine ⟨_, rfl, ?_⟩
  simp

theorem execBltu_fixed (n : CoreId) (rel : BitVec 16) (s : State) :
    ∃ r, execBltu n rel s = .next r ∧ r.fixed = s.fixed := by
  refine ⟨_, rfl, ?_⟩
  simp

theorem execBgeu_fixed (n : CoreId) (rel : BitVec 16) (s : State) :
    ∃ r, execBgeu n rel s = .next r ∧ r.fixed = s.fixed := by
  refine ⟨_, rfl, ?_⟩
  simp

theorem execBeqz_fixed (n : CoreId) (rel : BitVec 16) (s : State) :
    ∃ r, execBeqz n rel s = .next r ∧ r.fixed = s.fixed := by
  refine ⟨_, rfl, ?_⟩
  simp

theorem execBnez_fixed (n : CoreId) (rel : BitVec 16) (s : State) :
    ∃ r, execBnez n rel s = .next r ∧ r.fixed = s.fixed := by
  refine ⟨_, rfl, ?_⟩
  simp

theorem execBra_fixed (n : CoreId) (rel : BitVec 16) (s : State) :
    ∃ r, execBra n rel s = .next r ∧ r.fixed = s.fixed := by
  refine ⟨_, rfl, ?_⟩
  simp

theorem execJmp_fixed (n : CoreId) (s : State) :
    ∃ r, execJmp n s = .next r ∧ r.fixed = s.fixed := by
  refine ⟨_, rfl, ?_⟩
  simp

theorem execCalll_fixed (n : CoreId) (rel : BitVec 16) (s : State) :
    ∃ r, execCalll n rel s = .next r ∧ r.fixed = s.fixed := by
  refine ⟨_, rfl, ?_⟩
  simp

theorem execCall_fixed (n : CoreId) (mask : Byte) (rel : BitVec 24) (s : State) :
    ∃ r, execCall n mask rel s = .next r ∧ r.fixed = s.fixed := by
  refine ⟨_, rfl, ?_⟩
  simp

theorem execCalli_fixed (n : CoreId) (s : State) :
    ∃ r, execCalli n s = .next r ∧ r.fixed = s.fixed := by
  refine ⟨_, rfl, ?_⟩
  simp

theorem execRetl_fixed (n : CoreId) (s : State) :
    ∃ r, execRetl n s = .next r ∧ r.fixed = s.fixed := by
  refine ⟨_, rfl, ?_⟩
  simp

theorem execRet_fixed (n : CoreId) (s : State) :
    ∃ r, execRet n s = .next r ∧ r.fixed = s.fixed := by
  refine ⟨_, rfl, ?_⟩
  simp

theorem execReti_fixed (n : CoreId) (s : State) :
    ∃ r, execReti n s = .next r ∧ r.fixed = s.fixed := by
  refine ⟨_, rfl, ?_⟩
  simp

theorem execTrap_fixed (n : CoreId) (imm : Byte) (s : State) :
    ∃ r, execTrap n imm s = .next r ∧ r.fixed = s.fixed := by
  refine ⟨_, rfl, ?_⟩
  simp

theorem execScpyb_fixed (n : CoreId) (pfx : RptPrefix) (brk : Option Nat) (s : State) :
    ∃ r, execScpyb n pfx brk s = .next r ∧ r.fixed = s.fixed := by
  refine ⟨_, rfl, ?_⟩
  simp

theorem execScpyw_fixed (n : CoreId) (pfx : RptPrefix) (brk : Option Nat) (s : State) :
    ∃ r, execScpyw n pfx brk s = .next r ∧ r.fixed = s.fixed := by
  refine ⟨_, rfl, ?_⟩
  simp

theorem execSfilb_fixed (n : CoreId) (pfx : RptPrefix) (brk : Option Nat) (s : State) :
    ∃ r, execSfilb n pfx brk s = .next r ∧ r.fixed = s.fixed := by
  refine ⟨_, rfl, ?_⟩
  simp

theorem execSfilw_fixed (n : CoreId) (pfx : RptPrefix) (brk : Option Nat) (s : State) :
    ∃ r, execSfilw n pfx brk s = .next r ∧ r.fixed = s.fixed := by
  refine ⟨_, rfl, ?_⟩
  simp

theorem execScmpb_fixed (n : CoreId) (pfx : RptPrefix) (brk : Option Nat) (s : State) :
    ∃ r, execScmpb n pfx brk s = .next r ∧ r.fixed = s.fixed := by
  refine ⟨_, rfl, ?_⟩
  simp

theorem execScmpw_fixed (n : CoreId) (pfx : RptPrefix) (brk : Option Nat) (s : State) :
    ∃ r, execScmpw n pfx brk s = .next r ∧ r.fixed = s.fixed := by
  refine ⟨_, rfl, ?_⟩
  simp

theorem execSfndb_fixed (n : CoreId) (pfx : RptPrefix) (brk : Option Nat) (s : State) :
    ∃ r, execSfndb n pfx brk s = .next r ∧ r.fixed = s.fixed := by
  refine ⟨_, rfl, ?_⟩
  simp

theorem execSfndw_fixed (n : CoreId) (pfx : RptPrefix) (brk : Option Nat) (s : State) :
    ∃ r, execSfndw n pfx brk s = .next r ∧ r.fixed = s.fixed := by
  refine ⟨_, rfl, ?_⟩
  simp

theorem execPour_fixed (n : CoreId) (s : State) :
    ∃ r, execPour n s = .next r ∧ r.fixed = s.fixed := by
  refine ⟨_, rfl, ?_⟩
  simp

theorem execTagwait_fixed (n : CoreId) (s : State) :
    ∃ r, execTagwait n s = .next r ∧ r.fixed = s.fixed := by
  refine ⟨_, rfl, ?_⟩
  simp

theorem execFence_fixed (n : CoreId) (s : State) :
    ∃ r, execFence n s = .next r ∧ r.fixed = s.fixed := by
  refine ⟨_, rfl, ?_⟩
  simp

theorem execFldb_fixed (n : CoreId) (s : State) :
    ∃ r, execFldb n s = .next r ∧ r.fixed = s.fixed := by
  refine ⟨_, rfl, ?_⟩
  simp

theorem execFldbu_fixed (n : CoreId) (s : State) :
    ∃ r, execFldbu n s = .next r ∧ r.fixed = s.fixed := by
  refine ⟨_, rfl, ?_⟩
  simp

theorem execFldh_fixed (n : CoreId) (s : State) :
    ∃ r, execFldh n s = .next r ∧ r.fixed = s.fixed := by
  refine ⟨_, rfl, ?_⟩
  simp

theorem execFldhu_fixed (n : CoreId) (s : State) :
    ∃ r, execFldhu n s = .next r ∧ r.fixed = s.fixed := by
  refine ⟨_, rfl, ?_⟩
  simp

theorem execFldw_fixed (n : CoreId) (s : State) :
    ∃ r, execFldw n s = .next r ∧ r.fixed = s.fixed := by
  refine ⟨_, rfl, ?_⟩
  simp

theorem execFstb_fixed (n : CoreId) (s : State) :
    ∃ r, execFstb n s = .next r ∧ r.fixed = s.fixed := by
  refine ⟨_, rfl, ?_⟩
  simp

theorem execFsth_fixed (n : CoreId) (s : State) :
    ∃ r, execFsth n s = .next r ∧ r.fixed = s.fixed := by
  refine ⟨_, rfl, ?_⟩
  simp

theorem execFstw_fixed (n : CoreId) (s : State) :
    ∃ r, execFstw n s = .next r ∧ r.fixed = s.fixed := by
  refine ⟨_, rfl, ?_⟩
  simp

theorem execFaadd32_fixed (n : CoreId) (s : State) :
    ∃ r, execFaadd32 n s = .next r ∧ r.fixed = s.fixed := by
  refine ⟨_, rfl, ?_⟩
  simp

theorem execFaadds18_fixed (n : CoreId) (s : State) :
    ∃ r, execFaadds18 n s = .next r ∧ r.fixed = s.fixed := by
  refine ⟨_, rfl, ?_⟩
  simp

theorem execFaswap32_fixed (n : CoreId) (s : State) :
    ∃ r, execFaswap32 n s = .next r ∧ r.fixed = s.fixed := by
  refine ⟨_, rfl, ?_⟩
  simp

theorem execTlbinv_fixed (n : CoreId) (s : State) :
    ∃ r, execTlbinv n s = .next r ∧ r.fixed = s.fixed := by
  refine ⟨_, rfl, ?_⟩
  simp

theorem execTlbinva_fixed (n : CoreId) (s : State) :
    ∃ r, execTlbinva n s = .next r ∧ r.fixed = s.fixed := by
  refine ⟨_, rfl, ?_⟩
  simp

theorem execWfi_fixed (n : CoreId) (s : State) :
    ∃ r, execWfi n s = .next r ∧ r.fixed = s.fixed := by
  refine ⟨_, rfl, ?_⟩
  simp

theorem execVsetvl_fixed (n : CoreId) (v : VArgs) (s : State) :
    ∃ r, execVsetvl n v s = .next r ∧ r.fixed = s.fixed := by
  refine ⟨_, rfl, ?_⟩
  simp

theorem execVsync_fixed (n : CoreId) (s : State) :
    ∃ r, execVsync n s = .next r ∧ r.fixed = s.fixed := by
  refine ⟨_, rfl, ?_⟩
  simp

theorem execVresume_fixed (n : CoreId) (s : State) :
    ∃ r, execVresume n s = .next r ∧ r.fixed = s.fixed := by
  refine ⟨_, rfl, ?_⟩
  simp

theorem execVsave_fixed (n : CoreId) (brk : Option Nat) (s : State) :
    ∃ r, execVsave n brk s = .next r ∧ r.fixed = s.fixed := by
  refine ⟨_, rfl, ?_⟩
  simp

theorem execVload_fixed (n : CoreId) (brk : Option Nat) (s : State) :
    ∃ r, execVload n brk s = .next r ∧ r.fixed = s.fixed := by
  refine ⟨_, rfl, ?_⟩
  simp

theorem execVmvxs_fixed (n : CoreId) (v : VArgs) (s : State) :
    ∃ r, execVmvxs n v s = .next r ∧ r.fixed = s.fixed := by
  refine ⟨_, rfl, ?_⟩
  simp

theorem execVmvsx_fixed (n : CoreId) (v : VArgs) (s : State) :
    ∃ r, execVmvsx n v s = .next r ∧ r.fixed = s.fixed := by
  refine ⟨_, rfl, ?_⟩
  simp

theorem execVmrd_fixed (n : CoreId) (v : VArgs) (s : State) :
    ∃ r, execVmrd n v s = .next r ∧ r.fixed = s.fixed := by
  refine ⟨_, rfl, ?_⟩
  simp

theorem execVmwr_fixed (n : CoreId) (v : VArgs) (s : State) :
    ∃ r, execVmwr n v s = .next r ∧ r.fixed = s.fixed := by
  refine ⟨_, rfl, ?_⟩
  simp

theorem execVmand_fixed (n : CoreId) (v : VArgs) (s : State) :
    ∃ r, execVmand n v s = .next r ∧ r.fixed = s.fixed := by
  refine ⟨_, rfl, ?_⟩
  simp

theorem execVmor_fixed (n : CoreId) (v : VArgs) (s : State) :
    ∃ r, execVmor n v s = .next r ∧ r.fixed = s.fixed := by
  refine ⟨_, rfl, ?_⟩
  simp

theorem execVmxor_fixed (n : CoreId) (v : VArgs) (s : State) :
    ∃ r, execVmxor n v s = .next r ∧ r.fixed = s.fixed := by
  refine ⟨_, rfl, ?_⟩
  simp

theorem execVmnot_fixed (n : CoreId) (v : VArgs) (s : State) :
    ∃ r, execVmnot n v s = .next r ∧ r.fixed = s.fixed := by
  refine ⟨_, rfl, ?_⟩
  simp

theorem execVmv_fixed (n : CoreId) (v : VArgs) (s : State) :
    ∃ r, execVmv n v s = .next r ∧ r.fixed = s.fixed := by
  refine ⟨_, rfl, ?_⟩
  simp

theorem execVadd_fixed (n : CoreId) (v : VArgs) (s : State) :
    ∃ r, execVadd n v s = .next r ∧ r.fixed = s.fixed := by
  refine ⟨_, rfl, ?_⟩
  simp

theorem execVsub_fixed (n : CoreId) (v : VArgs) (s : State) :
    ∃ r, execVsub n v s = .next r ∧ r.fixed = s.fixed := by
  refine ⟨_, rfl, ?_⟩
  simp

theorem execVadds_fixed (n : CoreId) (v : VArgs) (s : State) :
    ∃ r, execVadds n v s = .next r ∧ r.fixed = s.fixed := by
  refine ⟨_, rfl, ?_⟩
  simp

theorem execVsubs_fixed (n : CoreId) (v : VArgs) (s : State) :
    ∃ r, execVsubs n v s = .next r ∧ r.fixed = s.fixed := by
  refine ⟨_, rfl, ?_⟩
  simp

theorem execVmul_fixed (n : CoreId) (v : VArgs) (s : State) :
    ∃ r, execVmul n v s = .next r ∧ r.fixed = s.fixed := by
  refine ⟨_, rfl, ?_⟩
  simp

theorem execVmin_fixed (n : CoreId) (v : VArgs) (s : State) :
    ∃ r, execVmin n v s = .next r ∧ r.fixed = s.fixed := by
  refine ⟨_, rfl, ?_⟩
  simp

theorem execVmax_fixed (n : CoreId) (v : VArgs) (s : State) :
    ∃ r, execVmax n v s = .next r ∧ r.fixed = s.fixed := by
  refine ⟨_, rfl, ?_⟩
  simp

theorem execVminu_fixed (n : CoreId) (v : VArgs) (s : State) :
    ∃ r, execVminu n v s = .next r ∧ r.fixed = s.fixed := by
  refine ⟨_, rfl, ?_⟩
  simp

theorem execVmaxu_fixed (n : CoreId) (v : VArgs) (s : State) :
    ∃ r, execVmaxu n v s = .next r ∧ r.fixed = s.fixed := by
  refine ⟨_, rfl, ?_⟩
  simp

theorem execVand_fixed (n : CoreId) (v : VArgs) (s : State) :
    ∃ r, execVand n v s = .next r ∧ r.fixed = s.fixed := by
  refine ⟨_, rfl, ?_⟩
  simp

theorem execVor_fixed (n : CoreId) (v : VArgs) (s : State) :
    ∃ r, execVor n v s = .next r ∧ r.fixed = s.fixed := by
  refine ⟨_, rfl, ?_⟩
  simp

theorem execVxor_fixed (n : CoreId) (v : VArgs) (s : State) :
    ∃ r, execVxor n v s = .next r ∧ r.fixed = s.fixed := by
  refine ⟨_, rfl, ?_⟩
  simp

theorem execVshl_fixed (n : CoreId) (v : VArgs) (s : State) :
    ∃ r, execVshl n v s = .next r ∧ r.fixed = s.fixed := by
  refine ⟨_, rfl, ?_⟩
  simp

theorem execVshr_fixed (n : CoreId) (v : VArgs) (s : State) :
    ∃ r, execVshr n v s = .next r ∧ r.fixed = s.fixed := by
  refine ⟨_, rfl, ?_⟩
  simp

theorem execVsar_fixed (n : CoreId) (v : VArgs) (s : State) :
    ∃ r, execVsar n v s = .next r ∧ r.fixed = s.fixed := by
  refine ⟨_, rfl, ?_⟩
  simp

theorem execVneg_fixed (n : CoreId) (v : VArgs) (s : State) :
    ∃ r, execVneg n v s = .next r ∧ r.fixed = s.fixed := by
  refine ⟨_, rfl, ?_⟩
  simp

theorem execVabs_fixed (n : CoreId) (v : VArgs) (s : State) :
    ∃ r, execVabs n v s = .next r ∧ r.fixed = s.fixed := by
  refine ⟨_, rfl, ?_⟩
  simp

theorem execVaddX_fixed (n : CoreId) (v : VArgs) (s : State) :
    ∃ r, execVaddX n v s = .next r ∧ r.fixed = s.fixed := by
  refine ⟨_, rfl, ?_⟩
  simp

theorem execVsubX_fixed (n : CoreId) (v : VArgs) (s : State) :
    ∃ r, execVsubX n v s = .next r ∧ r.fixed = s.fixed := by
  refine ⟨_, rfl, ?_⟩
  simp

theorem execVaddsX_fixed (n : CoreId) (v : VArgs) (s : State) :
    ∃ r, execVaddsX n v s = .next r ∧ r.fixed = s.fixed := by
  refine ⟨_, rfl, ?_⟩
  simp

theorem execVsubsX_fixed (n : CoreId) (v : VArgs) (s : State) :
    ∃ r, execVsubsX n v s = .next r ∧ r.fixed = s.fixed := by
  refine ⟨_, rfl, ?_⟩
  simp

theorem execVmulX_fixed (n : CoreId) (v : VArgs) (s : State) :
    ∃ r, execVmulX n v s = .next r ∧ r.fixed = s.fixed := by
  refine ⟨_, rfl, ?_⟩
  simp

theorem execVminX_fixed (n : CoreId) (v : VArgs) (s : State) :
    ∃ r, execVminX n v s = .next r ∧ r.fixed = s.fixed := by
  refine ⟨_, rfl, ?_⟩
  simp

theorem execVmaxX_fixed (n : CoreId) (v : VArgs) (s : State) :
    ∃ r, execVmaxX n v s = .next r ∧ r.fixed = s.fixed := by
  refine ⟨_, rfl, ?_⟩
  simp

theorem execVminuX_fixed (n : CoreId) (v : VArgs) (s : State) :
    ∃ r, execVminuX n v s = .next r ∧ r.fixed = s.fixed := by
  refine ⟨_, rfl, ?_⟩
  simp

theorem execVmaxuX_fixed (n : CoreId) (v : VArgs) (s : State) :
    ∃ r, execVmaxuX n v s = .next r ∧ r.fixed = s.fixed := by
  refine ⟨_, rfl, ?_⟩
  simp

theorem execVandX_fixed (n : CoreId) (v : VArgs) (s : State) :
    ∃ r, execVandX n v s = .next r ∧ r.fixed = s.fixed := by
  refine ⟨_, rfl, ?_⟩
  simp

theorem execVorX_fixed (n : CoreId) (v : VArgs) (s : State) :
    ∃ r, execVorX n v s = .next r ∧ r.fixed = s.fixed := by
  refine ⟨_, rfl, ?_⟩
  simp

theorem execVxorX_fixed (n : CoreId) (v : VArgs) (s : State) :
    ∃ r, execVxorX n v s = .next r ∧ r.fixed = s.fixed := by
  refine ⟨_, rfl, ?_⟩
  simp

theorem execVshlX_fixed (n : CoreId) (v : VArgs) (s : State) :
    ∃ r, execVshlX n v s = .next r ∧ r.fixed = s.fixed := by
  refine ⟨_, rfl, ?_⟩
  simp

theorem execVshrX_fixed (n : CoreId) (v : VArgs) (s : State) :
    ∃ r, execVshrX n v s = .next r ∧ r.fixed = s.fixed := by
  refine ⟨_, rfl, ?_⟩
  simp

theorem execVsarX_fixed (n : CoreId) (v : VArgs) (s : State) :
    ∃ r, execVsarX n v s = .next r ∧ r.fixed = s.fixed := by
  refine ⟨_, rfl, ?_⟩
  simp

theorem execVcmpeq_fixed (n : CoreId) (v : VArgs) (s : State) :
    ∃ r, execVcmpeq n v s = .next r ∧ r.fixed = s.fixed := by
  refine ⟨_, rfl, ?_⟩
  simp

theorem execVcmpne_fixed (n : CoreId) (v : VArgs) (s : State) :
    ∃ r, execVcmpne n v s = .next r ∧ r.fixed = s.fixed := by
  refine ⟨_, rfl, ?_⟩
  simp

theorem execVcmplt_fixed (n : CoreId) (v : VArgs) (s : State) :
    ∃ r, execVcmplt n v s = .next r ∧ r.fixed = s.fixed := by
  refine ⟨_, rfl, ?_⟩
  simp

theorem execVcmpltu_fixed (n : CoreId) (v : VArgs) (s : State) :
    ∃ r, execVcmpltu n v s = .next r ∧ r.fixed = s.fixed := by
  refine ⟨_, rfl, ?_⟩
  simp

theorem execVcmple_fixed (n : CoreId) (v : VArgs) (s : State) :
    ∃ r, execVcmple n v s = .next r ∧ r.fixed = s.fixed := by
  refine ⟨_, rfl, ?_⟩
  simp

theorem execVcmpleu_fixed (n : CoreId) (v : VArgs) (s : State) :
    ∃ r, execVcmpleu n v s = .next r ∧ r.fixed = s.fixed := by
  refine ⟨_, rfl, ?_⟩
  simp

theorem execVcmpgt_fixed (n : CoreId) (v : VArgs) (s : State) :
    ∃ r, execVcmpgt n v s = .next r ∧ r.fixed = s.fixed := by
  refine ⟨_, rfl, ?_⟩
  simp

theorem execVcmpgtu_fixed (n : CoreId) (v : VArgs) (s : State) :
    ∃ r, execVcmpgtu n v s = .next r ∧ r.fixed = s.fixed := by
  refine ⟨_, rfl, ?_⟩
  simp

theorem execVfcmpeq_fixed (n : CoreId) (v : VArgs) (s : State) :
    ∃ r, execVfcmpeq n v s = .next r ∧ r.fixed = s.fixed := by
  refine ⟨_, rfl, ?_⟩
  simp

theorem execVfcmplt_fixed (n : CoreId) (v : VArgs) (s : State) :
    ∃ r, execVfcmplt n v s = .next r ∧ r.fixed = s.fixed := by
  refine ⟨_, rfl, ?_⟩
  simp

theorem execVfcmple_fixed (n : CoreId) (v : VArgs) (s : State) :
    ∃ r, execVfcmple n v s = .next r ∧ r.fixed = s.fixed := by
  refine ⟨_, rfl, ?_⟩
  simp

theorem execVfcmpun_fixed (n : CoreId) (v : VArgs) (s : State) :
    ∃ r, execVfcmpun n v s = .next r ∧ r.fixed = s.fixed := by
  refine ⟨_, rfl, ?_⟩
  simp

theorem execVwmul_fixed (n : CoreId) (v : VArgs) (s : State) :
    ∃ r, execVwmul n v s = .next r ∧ r.fixed = s.fixed := by
  refine ⟨_, rfl, ?_⟩
  simp

theorem execVdot4_fixed (n : CoreId) (v : VArgs) (s : State) :
    ∃ r, execVdot4 n v s = .next r ∧ r.fixed = s.fixed := by
  refine ⟨_, rfl, ?_⟩
  simp

theorem execVdot2_fixed (n : CoreId) (v : VArgs) (s : State) :
    ∃ r, execVdot2 n v s = .next r ∧ r.fixed = s.fixed := by
  refine ⟨_, rfl, ?_⟩
  simp

theorem execVdots18_fixed (n : CoreId) (v : VArgs) (s : State) :
    ∃ r, execVdots18 n v s = .next r ∧ r.fixed = s.fixed := by
  refine ⟨_, rfl, ?_⟩
  simp

theorem execVfadd_fixed (n : CoreId) (v : VArgs) (s : State) :
    ∃ r, execVfadd n v s = .next r ∧ r.fixed = s.fixed := by
  refine ⟨_, rfl, ?_⟩
  simp

theorem execVfsub_fixed (n : CoreId) (v : VArgs) (s : State) :
    ∃ r, execVfsub n v s = .next r ∧ r.fixed = s.fixed := by
  refine ⟨_, rfl, ?_⟩
  simp

theorem execVfmul_fixed (n : CoreId) (v : VArgs) (s : State) :
    ∃ r, execVfmul n v s = .next r ∧ r.fixed = s.fixed := by
  refine ⟨_, rfl, ?_⟩
  simp

theorem execVfma_fixed (n : CoreId) (v : VArgs) (s : State) :
    ∃ r, execVfma n v s = .next r ∧ r.fixed = s.fixed := by
  refine ⟨_, rfl, ?_⟩
  simp

theorem execVfdiv_fixed (n : CoreId) (v : VArgs) (s : State) :
    ∃ r, execVfdiv n v s = .next r ∧ r.fixed = s.fixed := by
  refine ⟨_, rfl, ?_⟩
  simp

theorem execVfsqrt_fixed (n : CoreId) (v : VArgs) (s : State) :
    ∃ r, execVfsqrt n v s = .next r ∧ r.fixed = s.fixed := by
  refine ⟨_, rfl, ?_⟩
  simp

theorem execVfmin_fixed (n : CoreId) (v : VArgs) (s : State) :
    ∃ r, execVfmin n v s = .next r ∧ r.fixed = s.fixed := by
  refine ⟨_, rfl, ?_⟩
  simp

theorem execVfmax_fixed (n : CoreId) (v : VArgs) (s : State) :
    ∃ r, execVfmax n v s = .next r ∧ r.fixed = s.fixed := by
  refine ⟨_, rfl, ?_⟩
  simp

theorem execVfneg_fixed (n : CoreId) (v : VArgs) (s : State) :
    ∃ r, execVfneg n v s = .next r ∧ r.fixed = s.fixed := by
  refine ⟨_, rfl, ?_⟩
  simp

theorem execVfabs_fixed (n : CoreId) (v : VArgs) (s : State) :
    ∃ r, execVfabs n v s = .next r ∧ r.fixed = s.fixed := by
  refine ⟨_, rfl, ?_⟩
  simp

theorem execVcvtF32S18_fixed (n : CoreId) (v : VArgs) (s : State) :
    ∃ r, execVcvtF32S18 n v s = .next r ∧ r.fixed = s.fixed := by
  refine ⟨_, rfl, ?_⟩
  simp

theorem execVcvtS18F32_fixed (n : CoreId) (v : VArgs) (s : State) :
    ∃ r, execVcvtS18F32 n v s = .next r ∧ r.fixed = s.fixed := by
  refine ⟨_, rfl, ?_⟩
  simp

theorem execVcvtF16F32_fixed (n : CoreId) (v : VArgs) (s : State) :
    ∃ r, execVcvtF16F32 n v s = .next r ∧ r.fixed = s.fixed := by
  refine ⟨_, rfl, ?_⟩
  simp

theorem execVcvtF32F16_fixed (n : CoreId) (v : VArgs) (s : State) :
    ∃ r, execVcvtF32F16 n v s = .next r ∧ r.fixed = s.fixed := by
  refine ⟨_, rfl, ?_⟩
  simp

theorem execVcvtF32I32_fixed (n : CoreId) (v : VArgs) (s : State) :
    ∃ r, execVcvtF32I32 n v s = .next r ∧ r.fixed = s.fixed := by
  refine ⟨_, rfl, ?_⟩
  simp

theorem execVcvtI32F32_fixed (n : CoreId) (v : VArgs) (s : State) :
    ∃ r, execVcvtI32F32 n v s = .next r ∧ r.fixed = s.fixed := by
  refine ⟨_, rfl, ?_⟩
  simp

theorem execVredsum_fixed (n : CoreId) (v : VArgs) (s : State) :
    ∃ r, execVredsum n v s = .next r ∧ r.fixed = s.fixed := by
  refine ⟨_, rfl, ?_⟩
  simp

theorem execVredmin_fixed (n : CoreId) (v : VArgs) (s : State) :
    ∃ r, execVredmin n v s = .next r ∧ r.fixed = s.fixed := by
  refine ⟨_, rfl, ?_⟩
  simp

theorem execVredmax_fixed (n : CoreId) (v : VArgs) (s : State) :
    ∃ r, execVredmax n v s = .next r ∧ r.fixed = s.fixed := by
  refine ⟨_, rfl, ?_⟩
  simp

theorem execVredminu_fixed (n : CoreId) (v : VArgs) (s : State) :
    ∃ r, execVredminu n v s = .next r ∧ r.fixed = s.fixed := by
  refine ⟨_, rfl, ?_⟩
  simp

theorem execVredmaxu_fixed (n : CoreId) (v : VArgs) (s : State) :
    ∃ r, execVredmaxu n v s = .next r ∧ r.fixed = s.fixed := by
  refine ⟨_, rfl, ?_⟩
  simp

theorem execVfredsum_fixed (n : CoreId) (v : VArgs) (s : State) :
    ∃ r, execVfredsum n v s = .next r ∧ r.fixed = s.fixed := by
  refine ⟨_, rfl, ?_⟩
  simp

theorem execVfredmin_fixed (n : CoreId) (v : VArgs) (s : State) :
    ∃ r, execVfredmin n v s = .next r ∧ r.fixed = s.fixed := by
  refine ⟨_, rfl, ?_⟩
  simp

theorem execVfredmax_fixed (n : CoreId) (v : VArgs) (s : State) :
    ∃ r, execVfredmax n v s = .next r ∧ r.fixed = s.fixed := by
  refine ⟨_, rfl, ?_⟩
  simp

theorem execVld_fixed (n : CoreId) (v : VArgs) (s : State) :
    ∃ r, execVld n v s = .next r ∧ r.fixed = s.fixed := by
  refine ⟨_, rfl, ?_⟩
  simp

theorem execVst_fixed (n : CoreId) (v : VArgs) (s : State) :
    ∃ r, execVst n v s = .next r ∧ r.fixed = s.fixed := by
  refine ⟨_, rfl, ?_⟩
  simp

theorem execVlds_fixed (n : CoreId) (v : VArgs) (s : State) :
    ∃ r, execVlds n v s = .next r ∧ r.fixed = s.fixed := by
  refine ⟨_, rfl, ?_⟩
  simp

theorem execVsts_fixed (n : CoreId) (v : VArgs) (s : State) :
    ∃ r, execVsts n v s = .next r ∧ r.fixed = s.fixed := by
  refine ⟨_, rfl, ?_⟩
  simp

theorem execVldx_fixed (n : CoreId) (v : VArgs) (s : State) :
    ∃ r, execVldx n v s = .next r ∧ r.fixed = s.fixed := by
  refine ⟨_, rfl, ?_⟩
  simp

theorem execVstx_fixed (n : CoreId) (v : VArgs) (s : State) :
    ∃ r, execVstx n v s = .next r ∧ r.fixed = s.fixed := by
  refine ⟨_, rfl, ?_⟩
  simp

theorem execVdeal_fixed (n : CoreId) (v : VArgs) (k : BitVec 5) (s : State) :
    ∃ r, execVdeal n v k s = .next r ∧ r.fixed = s.fixed := by
  refine ⟨_, rfl, ?_⟩
  simp

theorem execVweave_fixed (n : CoreId) (v : VArgs) (k : BitVec 5) (s : State) :
    ∃ r, execVweave n v k s = .next r ∧ r.fixed = s.fixed := by
  refine ⟨_, rfl, ?_⟩
  simp

/-! ### Machine/SeqRegs.lean -/

@[simp] theorem State.enters_fixed (s : State) (reach : Bool) (acc : Acc) (bytes : Nat) :
    (State.enters s reach acc bytes).fixed = s.fixed := by
  unfold State.enters
  simp

@[simp] theorem State.answer_fixed (s : State) (acc : Acc) (st : Status) (data : List Byte) :
    (State.answer s acc st data).fixed = s.fixed := by
  unfold State.answer
  simp

@[simp] theorem State.archAction_fixed (s : State) (acc : Acc) (a : Arch) (f : State → Status × State) (hf : ∀ (a0 : State), (f a0).2.fixed = a0.fixed) :
    (State.archAction s acc a f).fixed = s.fixed := by
  unfold State.archAction
  dsimp only
  (repeat' split) <;> simp_all

@[simp] theorem State.writeHalt_fixed (s : State) (a : Arch) (h : Bool) :
    (State.writeHalt s a h).2.fixed = s.fixed := by
  unfold State.writeHalt
  dsimp only
  (repeat' split) <;> simp_all

@[simp] theorem State.writeStep_fixed (s : State) (a : Arch) :
    (State.writeStep s a).2.fixed = s.fixed := by
  unfold State.writeStep
  dsimp only
  (repeat' split) <;> simp_all

@[simp] theorem State.dropSlots_fixed (s : State) (lead : Arch) (ms : List Arch) (status detail : Nat) :
    (State.dropSlots s lead ms status detail).fixed = s.fixed := by
  unfold State.dropSlots
  simp only [State.modSeqs_fixed]
  refine foldl_fixed _ _ _ (fun t sl => ?_)
  (repeat' split) <;> simp

@[simp] theorem State.clrFault_fixed (s : State) (a : Arch) :
    (State.clrFault s a).fixed = s.fixed := by
  unfold State.clrFault
  simp

@[simp] theorem State.flushQueue_fixed (s : State) (lead : Arch) (status detail : Nat) :
    (State.flushQueue s lead status detail).fixed = s.fixed := by
  unfold State.flushQueue
  simp

@[simp] theorem State.writeFlush_fixed (s : State) (a : Arch) :
    (State.writeFlush s a).2.fixed = s.fixed := by
  unfold State.writeFlush
  (repeat' split) <;> simp_all

theorem execSeqctlHalt_fixed (acc : Acc) (a : Arch) (halt : Bool) (s : State) :
    ∃ r, execSeqctlHalt acc a halt s = .next r ∧ r.fixed = s.fixed := by
  refine ⟨_, rfl, ?_⟩
  simp

theorem execSeqctlStep_fixed (acc : Acc) (a : Arch) (s : State) :
    ∃ r, execSeqctlStep acc a s = .next r ∧ r.fixed = s.fixed := by
  refine ⟨_, rfl, ?_⟩
  simp

theorem execSeqctlClrfault_fixed (acc : Acc) (a : Arch) (s : State) :
    ∃ r, execSeqctlClrfault acc a s = .next r ∧ r.fixed = s.fixed := by
  refine ⟨_, rfl, ?_⟩
  simp

theorem execPqctlFlush_fixed (acc : Acc) (a : Arch) (s : State) :
    ∃ r, execPqctlFlush acc a s = .next r ∧ r.fixed = s.fixed := by
  refine ⟨_, rfl, ?_⟩
  simp

theorem execMcecntCeclr_fixed (acc : Acc) (a : Arch) (s : State) :
    ∃ r, execMcecntCeclr acc a s = .next r ∧ r.fixed = s.fixed := by
  refine ⟨_, rfl, ?_⟩
  simp

@[simp] theorem State.writeInj_fixed (s : State) (P : Isl) (plane : A13) (cl : BitVec 4) (dbl : Bool) :
    (State.writeInj s P plane cl dbl).2.fixed = s.fixed := by
  unfold State.writeInj
  (repeat' split) <;> simp_all

theorem execIctrlInj_fixed (acc : Acc) (P : Isl) (plane : A13) (cl : BitVec 4) (dbl : Bool) (s : State) :
    ∃ r, execIctrlInj acc P plane cl dbl s = .next r ∧ r.fixed = s.fixed := by
  refine ⟨_, rfl, ?_⟩
  simp

theorem execIctrlCeclr_fixed (acc : Acc) (P : Isl) (s : State) :
    ∃ r, execIctrlCeclr acc P s = .next r ∧ r.fixed = s.fixed := by
  refine ⟨_, rfl, ?_⟩
  simp

theorem execIslandReady_fixed (P : Isl) (s : State) :
    ∃ r, execIslandReady P s = .next r ∧ r.fixed = s.fixed := by
  unfold execIslandReady
  dsimp only
  (repeat' split) <;> exact ⟨_, rfl, by simp_all⟩

theorem execTwinCompareMismatch_fixed (pair : Fin 4) (s : State) :
    ∃ r, execTwinCompareMismatch pair s = .next r ∧ r.fixed = s.fixed := by
  unfold execTwinCompareMismatch
  dsimp only
  (repeat' split) <;> exact ⟨_, rfl, by simp_all⟩

end Sys2Proof.Machine
end

