-- ==== Sys2Proof/Laws/KeptBlocks.lean ====
section
/-! SUPPORT. Laws/KeptBlocks.lean: each operation and command of memories, movers, networks and streams keeps the fixed part of the state. -/

namespace Sys2Proof.Machine

/-! ### Machine/Mailbox.lean -/

@[simp] theorem State.mboxReply_fixed (s : State) (n : CoreId) (m : MboxMsg) (st : VStatus) :
    (State.mboxReply s n m st).fixed = s.fixed := by
  rfl

@[simp] theorem State.mboxGo_fixed (s : State) (n : CoreId) :
    (State.mboxGo s n).fixed = s.fixed := by
  unfold State.mboxGo
  dsimp only
  (repeat' split) <;> simp_all

@[simp] theorem State.clearNew_fixed (s : State) (n : CoreId) :
    (State.clearNew s n).fixed = s.fixed := by
  rfl

@[simp] theorem State.clearValid_fixed (s : State) (n : CoreId) :
    (State.clearValid s n).fixed = s.fixed := by
  rfl

@[simp] theorem State.mboxAreaWrite_fixed (s : State) (hc : Bool) (n : CoreId) (area l : Nat) (bs : List Byte) :
    (State.mboxAreaWrite s hc n area l bs).2.fixed = s.fixed := by
  unfold State.mboxAreaWrite
  dsimp only
  (repeat' split) <;> simp_all

@[simp] theorem State.mboxWrite_fixed (s : State) (hc : Bool) (src : Fin 32) (o : Nat) (bs : List Byte) :
    (State.mboxWrite s hc src o bs).2.fixed = s.fixed := by
  unfold State.mboxWrite
  (repeat' split) <;> first | rfl | exact State.mboxAreaWrite_fixed ..

@[simp] theorem State.mboxAccess_fixed (s : State) (src : Fin 32) (op : ReqOp) (addr : PAddr) :
    (State.mboxAccess s src op addr).2.2.fixed = s.fixed := by
  unfold State.mboxAccess
  have hw := State.mboxWrite_fixed s
  generalize s.mboxWrite = q at hw ⊢
  extract_lets o len hc
  clear_value o len hc
  (repeat' split) <;> first | rfl | exact hw ..

theorem execMailboxWindowAccess_fixed (req : Request) (s : State) :
    ∃ r, execMailboxWindowAccess req s = .next r ∧ r.fixed = s.fixed := by
  refine ⟨_, rfl, ?_⟩
  simp

@[simp] theorem State.mboxAction_fixed (s : State) (acc : Acc) (n : CoreId) (f : State → State) (hf : ∀ (a0 : State), (f a0).fixed = a0.fixed) :
    (State.mboxAction s acc n f).fixed = s.fixed := by
  unfold State.mboxAction
  (repeat' split) <;> simp_all

theorem execRplctlValidClear_fixed (acc : Acc) (n : CoreId) (s : State) :
    ∃ r, execRplctlValidClear acc n s = .next r ∧ r.fixed = s.fixed := by
  refine ⟨_, rfl, ?_⟩
  simp

theorem execFrmctlNewClear_fixed (acc : Acc) (n : CoreId) (s : State) :
    ∃ r, execFrmctlNewClear acc n s = .next r ∧ r.fixed = s.fixed := by
  refine ⟨_, rfl, ?_⟩
  simp

/-! ### Machine/Harbour.lean -/

@[simp] theorem State.modBank_fixed (s : State) (b : Fin 16) (f : Bank → Bank) :
    (State.modBank s b f).fixed = s.fixed := by
  rfl

@[simp] theorem State.hUe_fixed (s : State) (w : Nat) :
    (State.hUe s w).fixed = s.fixed := by
  unfold State.hUe
  simp

@[simp] theorem State.hWord_fixed (s : State) (w : Nat) :
    (State.hWord s w).2.fixed = s.fixed := by
  unfold State.hWord
  (repeat' split) <;> simp_all

@[simp] theorem State.hWords_fixed (s : State) (w : Nat) (x0 : Nat) :
    (State.hWords s w x0).2.fixed = s.fixed := by
  induction x0 generalizing s w with
  | zero => rfl
  | succ k ih =>
    unfold State.hWords
    dsimp only
    rw [ih, State.hWord_fixed]

@[simp] theorem State.hPut_fixed (s : State) (w v : Nat) :
    (State.hPut s w v).fixed = s.fixed := by
  rfl

@[simp] theorem State.harbourAccess_fixed (s : State) (vriser : Bool) (op : ReqOp) (addr : PAddr) :
    (State.harbourAccess s vriser op addr).2.2.fixed = s.fixed := by
  unfold State.harbourAccess
  extract_lets off len
  clear_value len off
  have hr := State.hWords_fixed s
  have hw := State.hWord_fixed s (off / 8)
  split
  · rfl
  · split
    · split
      · rfl
      · rename_i w0 _ _ _ _
        have h1 := hr w0 ((off + len - 1) / 8 - w0 + 1)
        generalize s.hWords w0 ((off + len - 1) / 8 - w0 + 1) = q at h1 ⊢
        obtain ⟨_ | _, t⟩ := q <;> exact h1
    · split
      · rfl
      · split
        · rfl
        · split
          · exact State.hPutBytes_fixed ..
          · generalize s.hWord (off / 8) = q at hw
            obtain ⟨_ | _, t⟩ := q
            · exact hw
            · simpa using hw
    · split
      · rfl
      · split
        · rfl
        · generalize s.hWord (off / 8) = q at hw
          obtain ⟨_ | _, t⟩ := q
          · exact hw
          · simpa using hw

@[simp] theorem State.taintReader_fixed (s : State) (i : Fin 32) :
    (State.taintReader s i).fixed = s.fixed := by
  unfold State.taintReader
  simp

@[simp] theorem State.harbourServe_fixed (s : State) (r : Request) :
    (State.harbourServe s r).2.2.fixed = s.fixed := by
  unfold State.harbourServe
  simp

@[simp] theorem State.aliasAt_fixed (s : State) (op : ReqOp) (n : CoreId) (o : Nat) :
    (State.aliasAt s op n o).2.2.fixed = s.fixed := by
  unfold State.aliasAt
  (repeat' split) <;> simp_all

@[simp] theorem State.aliasAccess_fixed (s : State) (op : ReqOp) (addr : PAddr) :
    (State.aliasAccess s op addr).2.2.fixed = s.fixed := by
  unfold State.aliasAccess
  simp

theorem execHarbourAtomic_fixed (req : Request) (s : State) :
    ∃ r, execHarbourAtomic req s = .next r ∧ r.fixed = s.fixed := by
  unfold execHarbourAtomic
  (repeat' split) <;> exact ⟨_, rfl, by simp_all⟩

theorem execSramAliasAccess_fixed (req : Request) (s : State) :
    ∃ r, execSramAliasAccess req s = .next r ∧ r.fixed = s.fixed := by
  unfold execSramAliasAccess
  exact ⟨_, rfl, State.serve_fixed _ _ _ _ (fun t => State.aliasAccess_fixed ..)⟩

theorem execHarbourTestRegion_fixed (b : Fin 16) (badRow : Option Nat) (s : State) :
    ∃ r, execHarbourTestRegion b badRow s = .next r ∧ r.fixed = s.fixed := by
  unfold execHarbourTestRegion
  dsimp only
  (repeat' split) <;> refine ⟨_, rfl, ?_⟩ <;> grind [fixed_mk, fixed_fold, foldl_fixed, fuses_mk, fuses_fold, State.raiseAll_fixed, State.modBank_fixed, State.hWord_fixed, State.hPut_fixed]

@[simp] theorem State.bctl_fixed (s : State) (acc : Acc) (b : Fin 16) (f : Bank → Bank) :
    (State.bctl s acc b f).fixed = s.fixed := by
  unfold State.bctl
  dsimp only
  (repeat' split) <;> simp_all

theorem execBctlColclr_fixed (acc : Acc) (b : Fin 16) (s : State) :
    ∃ r, execBctlColclr acc b s = .next r ∧ r.fixed = s.fixed := by
  refine ⟨_, rfl, ?_⟩
  simp

theorem execBctlCeclr_fixed (acc : Acc) (b : Fin 16) (s : State) :
    ∃ r, execBctlCeclr acc b s = .next r ∧ r.fixed = s.fixed := by
  refine ⟨_, rfl, ?_⟩
  simp

/-! ### Machine/Views.lean -/

@[simp] theorem State.lagoonIn_fixed (s : State) (a : Arch) (i : Fin 32) (bytes : Nat) :
    (State.lagoonIn s a i bytes).fixed = s.fixed := by
  rfl

@[simp] theorem State.viewEnter_fixed (s : State) (r : Request) :
    (State.viewEnter s r).fixed = s.fixed := by
  rfl

theorem execPeViewRequest_fixed (req : Request) (s : State) :
    ∃ r, execPeViewRequest req s = .next r ∧ r.fixed = s.fixed := by
  unfold execPeViewRequest
  (repeat' split) <;> exact ⟨_, rfl, by simp_all⟩

@[simp] theorem State.lagoonTimeout_fixed (s : State) (a : Arch) (src : Fin 32) (tag : Byte) :
    (State.lagoonTimeout s a src tag).fixed = s.fixed := by
  unfold State.lagoonTimeout
  (repeat' split) <;> simp_all

@[simp] theorem State.gatewayTimeout_fixed (s : State) (a : Arch) (src : Fin 32) (tag : Byte) :
    (State.gatewayTimeout s a src tag).fixed = s.fixed := by
  unfold State.gatewayTimeout
  (repeat' split) <;> simp_all

@[simp] theorem State.memAccess_fixed (s : State) (r : Request) :
    (State.memAccess s r).2.2.fixed = s.fixed := by
  unfold State.memAccess
  (repeat' split) <;> simp_all

@[simp] theorem State.serveSlots_fixed (s : State) (a : Arch) (P : Isl) (k : Nat) :
    (State.serveSlots s a P k).fixed = s.fixed := by
  induction k generalizing s with
  | zero => rfl
  | succ k ih =>
    unfold State.serveSlots
    split
    · rfl
    · rw [ih, State.viewSlot1_fixed]

@[simp] theorem State.takeView_fixed (s : State) (q : Request) :
    (State.takeView s q).2.fixed = s.fixed := by
  unfold State.takeView
  (repeat' split) <;> simp_all

@[simp] theorem State.viewAccess_fixed (s : State) (r : Request) :
    (State.viewAccess s r).2.fixed = s.fixed := by
  unfold State.viewAccess
  dsimp only
  (repeat' split) <;> simp_all

@[simp] theorem State.accessTimeout_fixed (s : State) (r : Request) :
    (State.accessTimeout s r).2.fixed = s.fixed := by
  unfold State.accessTimeout
  simp

@[simp] theorem State.accessExpired_fixed (s : State) (r : Request) :
    (State.accessExpired s r).2.fixed = s.fixed := by
  unfold State.accessExpired
  simp

@[simp] theorem State.access_fixed (s : State) (r : Request) :
    (State.access s r).2.fixed = s.fixed := by
  unfold State.access
  dsimp only
  (repeat' split) <;> simp

/-! ### Machine/CoreEvents.lean -/

theorem execInterruptEntry_fixed (n : CoreId) (s : State) :
    ∃ r, execInterruptEntry n s = .next r ∧ r.fixed = s.fixed := by
  refine ⟨_, rfl, ?_⟩
  simp

theorem execCoreTimerExpiry_fixed (n : CoreId) (s : State) :
    ∃ r, execCoreTimerExpiry n s = .next r ∧ r.fixed = s.fixed := by
  unfold execCoreTimerExpiry
  (repeat' split) <;> exact ⟨_, rfl, by simp_all⟩

@[simp] theorem State.stepCore_fixed (s : State) (n : CoreId) (f : Core → Core) :
    (State.stepCore s n f).fixed = s.fixed := by
  rfl

theorem execStationExecute_fixed (n : CoreId) (st : Fin 4) (s : State) :
    ∃ r, execStationExecute n st s = .next r ∧ r.fixed = s.fixed := by
  unfold execStationExecute
  (repeat' split) <;> exact ⟨_, rfl, by simp_all⟩

theorem execVectorExecute_fixed (n : CoreId) (s : State) :
    ∃ r, execVectorExecute n s = .next r ∧ r.fixed = s.fixed := by
  unfold execVectorExecute
  (repeat' split) <;> exact ⟨_, rfl, by simp_all⟩

@[simp] theorem State.endQuarantine_fixed (s : State) (src : Fin 32) (tag : Byte) :
    (State.endQuarantine s src tag).fixed = s.fixed := by
  unfold State.endQuarantine
  simp

@[simp] theorem State.lateResponse_fixed (s : State) (src : Fin 32) (tag : Byte) :
    (State.lateResponse s src tag).fixed = s.fixed := by
  unfold State.lateResponse
  simp

theorem execFarResponse_fixed (n : CoreId) (tag : BitVec 6) (s : State) :
    ∃ r, execFarResponse n tag s = .next r ∧ r.fixed = s.fixed := by
  unfold execFarResponse
  dsimp only
  (repeat' split) <;> exact ⟨_, rfl, by simp_all⟩

@[simp] theorem State.walkRead_fixed (s : State) (n : CoreId) (addr : PAddr) :
    (State.walkRead s n addr).2.fixed = s.fixed := by
  unfold State.walkRead
  (repeat' split) <;> simp_all

@[simp] theorem State.coreWalk_fixed (s : State) (n : CoreId) :
    (State.coreWalk s n).fixed = s.fixed := by
  unfold State.coreWalk
  grind [fixed_mk, fixed_fold, foldl_fixed, fuses_mk, fuses_fold, State.setCore_fixed, State.walkRead_fixed]

theorem execTableWalkComplete_fixed (n : CoreId) (s : State) :
    ∃ r, execTableWalkComplete n s = .next r ∧ r.fixed = s.fixed := by
  refine ⟨_, rfl, ?_⟩
  simp

@[simp] theorem State.stepRun_fixed (s : State) (n : CoreId) (x0 : Nat) :
    (State.stepRun s n x0).fixed = s.fixed := by
  induction x0 generalizing s with
  | zero => rfl
  | succ k ih =>
    unfold State.stepRun
    dsimp only
    split
    · rw [ih]; simp
    · simp

@[simp] theorem State.coreAction_fixed (s : State) (acc : Acc) (n : CoreId) (f : State → Status × State) (hf : ∀ (a0 : State), (f a0).2.fixed = a0.fixed) :
    (State.coreAction s acc n f).fixed = s.fixed := by
  unfold State.coreAction
  dsimp only
  (repeat' split) <;> simp_all

@[simp] theorem State.writeRst_fixed (s : State) (acc : Acc) (n : CoreId) :
    (State.writeRst s acc n).2.fixed = s.fixed := by
  unfold State.writeRst
  (repeat' split) <;> simp_all

@[simp] theorem State.writeCoreHalt_fixed (s : State) (acc : Acc) (n : CoreId) (h : Bool) :
    (State.writeCoreHalt s acc n h).2.fixed = s.fixed := by
  unfold State.writeCoreHalt
  (repeat' split) <;> simp_all

@[simp] theorem State.writeCoreStep_fixed (s : State) (n : CoreId) :
    (State.writeCoreStep s n).2.fixed = s.fixed := by
  unfold State.writeCoreStep
  (repeat' split) <;> simp_all

theorem execCctlRst_fixed (acc : Acc) (n : CoreId) (s : State) :
    ∃ r, execCctlRst acc n s = .next r ∧ r.fixed = s.fixed := by
  refine ⟨_, rfl, ?_⟩
  simp

theorem execCctlStep_fixed (acc : Acc) (n : CoreId) (s : State) :
    ∃ r, execCctlStep acc n s = .next r ∧ r.fixed = s.fixed := by
  refine ⟨_, rfl, ?_⟩
  simp

theorem execCctlHalt_fixed (acc : Acc) (n : CoreId) (halt : Bool) (s : State) :
    ∃ r, execCctlHalt acc n halt s = .next r ∧ r.fixed = s.fixed := by
  refine ⟨_, rfl, ?_⟩
  simp

theorem execCdbellRing_fixed (acc : Acc) (n : CoreId) (s : State) :
    ∃ r, execCdbellRing acc n s = .next r ∧ r.fixed = s.fixed := by
  refine ⟨_, rfl, ?_⟩
  simp

/-! ### Machine/Xlat.lean -/

@[simp] theorem State.xlatFault_fixed (s : State) (src : Fin 32) (k : Fin 16) (va : Word) (kind : Nat) :
    (State.xlatFault s src k va kind).fixed = s.fixed := by
  unfold State.xlatFault
  simp

@[simp] theorem State.xlateWalk_fixed (s : State) (src : Fin 32) (k : Fin 16) (va : Word) (write : Bool) :
    (State.xlateWalk s src k va write).2.fixed = s.fixed := by
  unfold State.xlateWalk
  (repeat' split) <;> simp_all

@[simp] theorem State.xlate_fixed (s : State) (src : Fin 32) (k : Fin 16) (va : Word) (write : Bool) :
    (State.xlate s src k va write).2.fixed = s.fixed := by
  unfold State.xlate
  (repeat' split) <;> simp_all

@[simp] theorem State.xlatRead_fixed (s : State) (src : Fin 32) (addr : PAddr) :
    (State.xlatRead s src addr).2.fixed = s.fixed := by
  unfold State.xlatRead
  split
  · rfl
  · exact State.access_fixed ..

theorem execXlatWalkComplete_fixed (s : State) :
    ∃ r, execXlatWalkComplete s = .next r ∧ r.fixed = s.fixed := by
  unfold execXlatWalkComplete
  dsimp only
  (repeat' split) <;> refine ⟨_, rfl, ?_⟩ <;> grind [fixed_mk, fixed_fold, foldl_fixed, fuses_mk, fuses_fold, State.xlatRead_fixed]

@[simp] theorem State.plainAction_fixed (s : State) (acc : Acc) (f : State → Status × State) (hf : ∀ (a0 : State), (f a0).2.fixed = a0.fixed) :
    (State.plainAction s acc f).fixed = s.fixed := by
  unfold State.plainAction
  dsimp only
  (repeat' split) <;> simp_all

theorem execXinv_fixed (acc : Acc) (v : Word) (s : State) :
    ∃ r, execXinv acc v s = .next r ∧ r.fixed = s.fixed := by
  refine ⟨_, rfl, ?_⟩
  exact State.plainAction_fixed _ _ _ (fun _ => rfl)

/-! ### Machine/Dma.lean -/

@[simp] theorem State.dmaRead_fixed (s : State) (c : Fin 16) (k a n : Nat) (got : List Byte) :
    (State.dmaRead s c k a n got).2.2.fixed = s.fixed := by
  induction k generalizing s a n got with
  | zero => rfl
  | succ k ih =>
    unfold State.dmaRead
    split
    · rfl
    · extract_lets l
      have hr := State.access_fixed s { src := dmaSrc c, tag := 0, user := false, op := .read l, addr := BitVec.ofNat 40 a }
      generalize State.access s _ = q at hr ⊢
      split
      · exact (ih ..).trans hr
      · exact hr
      · exact hr

@[simp] theorem State.dmaWrite_fixed (s : State) (c : Fin 16) (k a : Nat) (bs : List Byte) :
    (State.dmaWrite s c k a bs).2.2.fixed = s.fixed := by
  induction k generalizing s a bs with
  | zero => rfl
  | succ k ih =>
    unfold State.dmaWrite
    split
    · rfl
    · extract_lets l
      have hr := State.access_fixed s { src := dmaSrc c, tag := 0, user := false, op := .write (bs.take l), addr := BitVec.ofNat 40 a }
      generalize State.access s _ = q at hr ⊢
      split
      · exact (ih ..).trans hr
      · exact hr
      · exact hr

@[simp] theorem State.modDma_fixed (s : State) (c : Fin 16) (f : DmaChan → DmaChan) :
    (State.modDma s c f).fixed = s.fixed := by
  rfl

@[simp] theorem State.dmaAddr_fixed (s : State) (c : Fin 16) (virt : Bool) (k : Fin 16) (a : Nat) (write : Bool) :
    (State.dmaAddr s c virt k a write).2.fixed = s.fixed := by
  unfold State.dmaAddr
  (repeat' split) <;> simp_all

@[simp] theorem State.dmaDst_fixed (s : State) (c : Fin 16) (d : Desc) (o : Nat) : (State.dmaDst s c d o).2.fixed = s.fixed := by
  have h : (if dAtomic d then s.dmaAddr c (dXd d) (dCtx d) (dDstAt d o) false else (.ok 0, s)).2.fixed = s.fixed := by
    split <;> simp
  unfold State.dmaDst
  generalize (if dAtomic d then s.dmaAddr c (dXd d) (dCtx d) (dDstAt d o) false else (.ok 0, s)) = q at h ⊢
  obtain ⟨old, t⟩ := q
  cases old
  case ok => exact (State.dmaAddr_fixed ..).trans h
  all_goals exact h

@[simp] theorem State.dmaAtomic_fixed (s : State) (c : Fin 16) (d : Desc) (da : PAddr) : (State.dmaAtomic s c d da).2.fixed = s.fixed := by
  unfold State.dmaAtomic
  extract_lets op
  have h := State.access_fixed s { src := dmaSrc c, tag := 0, user := false, op := .atomic op (dSrc d), addr := da }
  split <;> rename_i he <;> rw [he] at h
  · exact (State.modDma_fixed ..).trans h
  · exact h
  · exact h

@[simp] theorem State.dmaMove_fixed (s : State) (c : Fin 16) (d : Desc) (o : Nat) (sa da : PAddr) :
    (State.dmaMove s c d o sa da).2.fixed = s.fixed := by
  unfold State.dmaMove
  extract_lets n g w
  have h : (if dCopy d then s.dmaRead c 64 (sa.toNat + g.length) (n - g.length) g else (.done, dFill d o n, s)).2.2.fixed = s.fixed := by
    split <;> simp
  generalize (if dCopy d then s.dmaRead c 64 (sa.toNat + g.length) (n - g.length) g else (.done, dFill d o n, s)) = q at h ⊢
  obtain ⟨e, bs, t⟩ := q
  cases e
  · refine Eq.trans ?_ h
    dsimp only
    split <;> simp
  · exact h
  · exact (State.modDma_fixed ..).trans h

@[simp] theorem State.dmaBeat_fixed (s : State) (c : Fin 16) (d : Desc) (o : Nat) :
    (State.dmaBeat s c d o).2.fixed = s.fixed := by
  have h : (if dCopy d then s.dmaAddr c (dXs d) (dCtx d) (dSrcAt d o) false else (.ok 0, s)).2.fixed = s.fixed := by
    split <;> simp
  unfold State.dmaBeat
  generalize (if dCopy d then s.dmaAddr c (dXs d) (dCtx d) (dSrcAt d o) false else (.ok 0, s)) = q at h ⊢
  obtain ⟨src, t⟩ := q
  refine Eq.trans ?_ h
  cases src <;> try rfl
  have h2 := State.dmaDst_fixed t c d o
  dsimp only
  generalize t.dmaDst c d o = r at h2 ⊢
  obtain ⟨dst, u⟩ := r
  refine Eq.trans ?_ h2
  cases dst <;> try rfl
  dsimp only
  split <;> simp

@[simp] theorem State.dmaIssue_fixed (s : State) (c : Fin 16) (d : Desc) :
    (State.dmaIssue s c d).fixed = s.fixed := by
  rfl

@[simp] theorem State.dmaBack_fixed (s : State) (c : Fin 16) (o : Nat) (bs : List Byte) :
    (State.dmaBack s c o bs).2.fixed = s.fixed := by
  unfold State.dmaBack
  have h := State.dmaWrite_fixed s c 64 ((s.dma[c]).descAddr + o) bs
  split <;> rename_i he <;> rw [he] at h <;> exact h

@[simp] theorem State.dmaStatus_fixed (s : State) (c : Fin 16) (status detail off : Nat) :
    (State.dmaStatus s c status detail off).2.fixed = s.fixed :=
  State.dmaBack_fixed ..

@[simp] theorem State.dmaFault_fixed (s : State) (c : Fin 16) (detail off : Nat) :
    (State.dmaFault s c detail off).fixed = s.fixed := by
  simp [State.dmaFault]

@[simp] theorem State.dmaComplete_fixed (s : State) (c : Fin 16) (d : Desc) :
    (State.dmaComplete s c d).fixed = s.fixed := by
  unfold State.dmaComplete
  split
  rename_i e t hq
  have h : t.fixed = s.fixed := by
    split at hq
    · have hb := State.dmaBack_fixed s c 8 (bytesLE 8 (BitVec.toNat (by assumption)))
      simp_all
    · cases hq; rfl
  clear hq
  split
  · simp [h]
  · have hs := State.dmaStatus_fixed t c 1 0 (dTotal d)
    split <;> rename_i he <;> rw [he] at hs <;> simp_all

@[simp] theorem State.dmaSettle_fixed (s : State) (c : Fin 16) (d : Desc) :
    (State.dmaSettle s c d).fixed = s.fixed := by
  unfold State.dmaSettle
  extract_lets x
  split
  · split <;> simp
  · split
    · simp
    · split
      · have hs := State.dmaStatus_fixed s c 3 0 x.issued
        split <;> rename_i he <;> rw [he] at hs <;> simp_all
      · split <;> simp

@[simp] theorem State.dmaEnded_fixed (s : State) (c : Fin 16) (d : Desc) (o : Nat) (e : BeatEnd) :
    (State.dmaEnded s c d o e).fixed = s.fixed := by
  unfold State.dmaEnded
  (repeat' split) <;> simp_all

theorem execDmaBeatResponse_fixed (c : Fin 16) (s : State) :
    ∃ r, execDmaBeatResponse c s = .next r ∧ r.fixed = s.fixed := by
  unfold execDmaBeatResponse
  dsimp only
  (repeat' split) <;> exact ⟨_, rfl, by simp_all⟩

@[simp] theorem State.dmaFetch_fixed (s : State) (c : Fin 16) (off : Nat) :
    (State.dmaFetch s c off).fixed = s.fixed := by
  unfold State.dmaFetch
  dsimp only
  (repeat' split) <;> simp_all

theorem execDmaDescriptorStart_fixed (c : Fin 16) (s : State) :
    ∃ r, execDmaDescriptorStart c s = .next r ∧ r.fixed = s.fixed := by
  unfold execDmaDescriptorStart
  dsimp only
  (repeat' split) <;> exact ⟨_, rfl, by simp_all⟩

@[simp] theorem State.dmaEn_fixed (s : State) (c : Fin 16) (en : Bool) :
    (State.dmaEn s c en).fixed = s.fixed := by
  unfold State.dmaEn
  extract_lets x
  generalize x.st = st
  generalize x.desc = d
  cases en <;> cases st <;> cases d <;> simp

@[simp] theorem State.dmaResume_fixed (s : State) (c : Fin 16) :
    (State.dmaResume s c).fixed = s.fixed := by
  unfold State.dmaResume
  simp

@[simp] theorem State.dmaSkip_fixed (s : State) (c : Fin 16) :
    (State.dmaSkip s c).fixed = s.fixed := by
  unfold State.dmaSkip
  simp

theorem execDrheadWrite_fixed (acc : Acc) (c : Fin 16) (v : Word) (s : State) :
    ∃ r, execDrheadWrite acc c v s = .next r ∧ r.fixed = s.fixed := by
  refine ⟨_, rfl, ?_⟩
  simp

theorem execDctlEn_fixed (acc : Acc) (c : Fin 16) (en : Bool) (s : State) :
    ∃ r, execDctlEn acc c en s = .next r ∧ r.fixed = s.fixed := by
  refine ⟨_, rfl, ?_⟩
  simp

theorem execDctlResume_fixed (acc : Acc) (c : Fin 16) (s : State) :
    ∃ r, execDctlResume acc c s = .next r ∧ r.fixed = s.fixed := by
  refine ⟨_, rfl, ?_⟩
  simp

theorem execDctlSkip_fixed (acc : Acc) (c : Fin 16) (s : State) :
    ∃ r, execDctlSkip acc c s = .next r ∧ r.fixed = s.fixed := by
  refine ⟨_, rfl, ?_⟩
  simp

@[simp] theorem State.dmaStopAll_fixed (s : State) :
    (State.dmaStopAll s).fixed = s.fixed := by
  unfold State.dmaStopAll
  simp

@[simp] theorem State.restoreWords_fixed (s old : State) (ws : List Nat) :
    (State.restoreWords s old ws).fixed = s.fixed := by
  unfold State.restoreWords
  grind [fixed_mk, fixed_fold, foldl_fixed, fuses_mk, fuses_fold]

@[simp] theorem State.portA_fixed (s : State) (r : Request) :
    (State.portA s r).fixed = s.fixed := by
  unfold State.portA
  simp

theorem execHarbourPortARequest_fixed (req : Request) (portB : Option (Fin 16)) (s : State) :
    ∃ r, execHarbourPortARequest req portB s = .next r ∧ r.fixed = s.fixed := by
  unfold execHarbourPortARequest
  dsimp only
  (repeat' split) <;> exact ⟨_, rfl, by simp_all⟩

@[simp] theorem State.quarantined_fixed (s : State) (src : Fin 32) (tag : Byte) :
    (State.quarantined s src tag).fixed = s.fixed := by
  rfl

@[simp] theorem State.dropViews_fixed (s : State) (src : Fin 32) :
    (State.dropViews s src).fixed = s.fixed := by
  rfl

@[simp] theorem State.requestTimeout_fixed (s : State) (src : Fin 32) (tag : Byte) :
    (State.requestTimeout s src tag).fixed = s.fixed := by
  unfold State.requestTimeout
  dsimp only
  (repeat' split) <;> simp_all

theorem execTagQuarantineExpiry_fixed (src : Fin 32) (tag : Byte) (s : State) :
    ∃ r, execTagQuarantineExpiry src tag s = .next r ∧ r.fixed = s.fixed := by
  unfold execTagQuarantineExpiry
  (repeat' split) <;> exact ⟨_, rfl, by simp_all⟩

/-! ### Machine/Network.lean -/

@[simp] theorem State.flow_fixed (s : State) :
    (State.flow s).fixed = s.fixed := by
  rfl

@[simp] theorem State.leftNet_fixed (s : State) (h : BitVec 128) :
    (State.leftNet s h).fixed = s.fixed := by
  unfold State.leftNet
  simp

@[simp] theorem State.lose_fixed (s : State) (m : Msg) :
    (State.lose s m).fixed = s.fixed := by
  unfold State.lose
  (repeat' split) <;> simp_all

@[simp] theorem State.loseNext_fixed (s : State) (i : Fin 32) :
    (State.loseNext s i).fixed = s.fixed := by
  rfl

@[simp] theorem State.arrivePoisoned_fixed (s : State) (m : Msg) :
    (State.arrivePoisoned s m).fixed = s.fixed := by
  unfold State.arrivePoisoned
  (repeat' split) <;> simp_all

@[simp] theorem State.eject_fixed (s : State) (p : Packet) :
    (State.eject s p).fixed = s.fixed := by
  unfold State.eject
  (repeat' split) <;> simp_all

@[simp] theorem State.hold_fixed (s : State) (p : Packet) :
    (State.hold s p).fixed = s.fixed := by
  rfl

@[simp] theorem State.enterLagoon_fixed (s : State) (a : Arch) (p : Packet) :
    (State.enterLagoon s a p).fixed = s.fixed := by
  unfold State.enterLagoon
  (repeat' split) <;> simp_all

@[simp] theorem State.atEnd_fixed (s : State) (at' : RouterId) (p : Packet) :
    (State.atEnd s at' p).fixed = s.fixed := by
  unfold State.atEnd
  (repeat' split) <;> simp_all

@[simp] theorem State.arrive_fixed (s : State) (at' : RouterId) (p : Packet) :
    (State.arrive s at' p).fixed = s.fixed := by
  unfold State.arrive
  dsimp only
  (repeat' split) <;> simp_all

theorem execRouterHeaderArrival_fixed (at' : RouterId) (hdr : BitVec 128) (payload : List Byte) (poisoned : Bool) (s : State) :
    ∃ r, execRouterHeaderArrival at' hdr payload poisoned s = .next r ∧ r.fixed = s.fixed := by
  unfold execRouterHeaderArrival
  dsimp only
  (repeat' split) <;> exact ⟨_, rfl, by simp_all⟩

theorem execPacketAgeTick_fixed (at' : RouterId) (slot : Nat) (s : State) :
    ∃ r, execPacketAgeTick at' slot s = .next r ∧ r.fixed = s.fixed := by
  unfold execPacketAgeTick
  (repeat' split) <;> exact ⟨_, rfl, by simp_all⟩

theorem execRoutingEpochBarrier_fixed (s : State) :
    ∃ r, execRoutingEpochBarrier s = .next r ∧ r.fixed = s.fixed := by
  unfold execRoutingEpochBarrier
  (repeat' split) <;> exact ⟨_, rfl, by simp_all⟩

theorem execEpochDrainComplete_fixed (s : State) :
    ∃ r, execEpochDrainComplete s = .next r ∧ r.fixed = s.fixed := by
  unfold execEpochDrainComplete
  (repeat' split) <;> exact ⟨_, rfl, by simp_all⟩

/-! ### Machine/Ingest.lean -/

@[simp] theorem State.modLane_fixed (s : State) (l : Fin 16) (f : Lane → Lane) :
    (State.modLane s l f).fixed = s.fixed := by
  rfl

@[simp] theorem State.laneReport_fixed (s : State) (l : Fin 16) :
    (State.laneReport s l).fixed = s.fixed := by
  unfold State.laneReport
  simp

@[simp] theorem State.voidLink_fixed (s : State) (k : Fin 8) :
    (State.voidLink s k).fixed = s.fixed := by
  unfold State.voidLink
  simp

@[simp] theorem State.sysrefLink_fixed (s : State) (mis : Byte) (k : Fin 8) :
    (State.sysrefLink s mis k).fixed = s.fixed := by
  unfold State.sysrefLink
  simp

theorem execSysrefEdge_fixed (misaligned : Byte) (s : State) :
    ∃ r, execSysrefEdge misaligned s = .next r ∧ r.fixed = s.fixed := by
  refine ⟨_, rfl, ?_⟩
  simp

theorem execLinkAligned_fixed (link : Fin 8) (s : State) :
    ∃ r, execLinkAligned link s = .next r ∧ r.fixed = s.fixed := by
  unfold execLinkAligned
  dsimp only
  (repeat' split) <;> exact ⟨_, rfl, by simp_all⟩

@[simp] theorem State.feedFrame_fixed (s : State) (id : BitVec 12) (x : JLink) (ok : Bool) (f : List Word) :
    (State.feedFrame s id x ok f).fixed = s.fixed := by
  unfold State.feedFrame
  (repeat' split) <;> simp_all

@[simp] theorem State.feedLink_fixed (s : State) (k : Fin 8) (ok : Bool) (frames : List (List Word)) (id : BitVec 12) :
    (State.feedLink s k ok frames id).fixed = s.fixed := by
  unfold State.feedLink
  (repeat' split) <;> simp_all

theorem execJesdMultiblockRx_fixed (link : Fin 8) (crcOk : Bool) (frames : List (List Word)) (s : State) :
    ∃ r, execJesdMultiblockRx link crcOk frames s = .next r ∧ r.fixed = s.fixed := by
  unfold execJesdMultiblockRx
  dsimp only
  (repeat' split) <;> exact ⟨_, rfl, by simp_all⟩

@[simp] theorem State.feedBeat_fixed (s : State) (n : BitVec 16) (marks : Byte) (words : List Word) (id : BitVec 12) :
    (State.feedBeat s n marks words id).fixed = s.fixed := by
  unfold State.feedBeat
  (repeat' split) <;> simp_all

theorem execStreamPortBeat_fixed (ch : Fin 128) (beat : Beat) (s : State) :
    ∃ r, execStreamPortBeat ch beat s = .next r ∧ r.fixed = s.fixed := by
  unfold execStreamPortBeat
  split
  · exact ⟨_, rfl, rfl⟩
  · dsimp only
    split
    · exact ⟨_, rfl, (foldl_fixed _ _ _ (fun t x => State.feedBeat_fixed ..)).trans rfl⟩
    · exact ⟨_, rfl, rfl⟩

@[simp] theorem State.triggerRise_fixed (s : State) (k : Fin 8) :
    (State.triggerRise s k).fixed = s.fixed := by
  rfl

theorem execTriggerRise_fixed (k : Fin 8) (s : State) :
    ∃ r, execTriggerRise k s = .next r ∧ r.fixed = s.fixed := by
  unfold execTriggerRise
  (repeat' split) <;> exact ⟨_, rfl, by simp_all⟩

@[simp] theorem State.putLadle_fixed (s : State) (x : Nat) (b : Bool) (k : Nat) (v : Word) :
    (State.putLadle s x b k v).fixed = s.fixed := by
  unfold State.putLadle
  simp

@[simp] theorem State.fillLadles_fixed (s : State) (id : BitVec 12) (y0 : Nat) :
    (State.fillLadles s id y0).fixed = s.fixed := by
  induction y0 generalizing s with
  | zero => rfl
  | succ k ih =>
    unfold State.fillLadles
    split
    · split
      · rfl
      · extract_lets x
        split
        · dsimp only
          rw [ih, State.modStream_fixed]
          (repeat' split) <;> simp
        · rfl
    · rfl

@[simp] theorem State.fillHarbour_fixed (s : State) (id : BitVec 12) (y0 : Nat) :
    (State.fillHarbour s id y0).fixed = s.fixed := by
  induction y0 generalizing s with
  | zero => rfl
  | succ k ih =>
    unfold State.fillHarbour
    split
    · rename_i e _
      split
      · rfl
      · rename_i w rest _
        extract_lets f va
        have hx := State.xlate_fixed s 21 (ix 16 e.xctx) va true
        generalize s.xlate 21 (ix 16 e.xctx) va true = q at hx ⊢
        clear_value va
        split
        · exact hx
        · simpa using hx
        · rename_i pa t
          dsimp only
          generalize hq : (t.modStream id _).sendPosted _ = q
          have h1 : q.2.fixed = s.fixed := by
            rw [← hq]; simpa using hx
          clear hq
          generalize q.2 = t2 at h1 ⊢
          split
          · rw [ih]; exact h1
          · split
            · have hh := State.harbourAccess_fixed t2 false (.write (bytesLE 4 w.word.toNat)) pa
              generalize t2.harbourAccess false (.write (bytesLE 4 w.word.toNat)) pa = z at hh ⊢
              split
              · rw [ih]; simpa using hh.trans h1
              · rw [ih]; simpa using hh.trans h1
            · rw [ih]; simpa using h1
    · rfl

theorem execLadleFill_fixed (entry : BitVec 12) (s : State) :
    ∃ r, execLadleFill entry s = .next r ∧ r.fixed = s.fixed := by
  unfold execLadleFill
  (repeat' split) <;> exact ⟨_, rfl, by simp_all⟩

@[simp] theorem State.entryCfg_fixed (s : State) (id : BitVec 12) :
    (State.entryCfg s id).2.fixed = s.fixed := by
  unfold State.entryCfg
  split
  · rfl
  · rfl
  · rename_i off _ _
    have hh := State.access_fixed s { src := 21, tag := 0, user := false, op := .read 64, addr := BitVec.ofNat 40 (0x20000000 + off) }
    split <;> rename_i he <;> rw [he] at hh <;> exact hh

@[simp] theorem State.putEntryWord0_fixed (s : State) (id : BitVec 12) (w : Word) :
    (State.putEntryWord0 s id w).fixed = s.fixed := by
  unfold State.putEntryWord0
  (repeat' split) <;> simp_all

@[simp] theorem State.enableStream_fixed (s : State) (id : BitVec 12) (cfg : Vector Word 10) :
    (State.enableStream s id cfg).fixed = s.fixed := by
  unfold State.enableStream
  simp

@[simp] theorem State.disableStream_fixed (s : State) (id : BitVec 12) :
    (State.disableStream s id).fixed = s.fixed := by
  unfold State.disableStream
  (repeat' split) <;> simp_all

@[simp] theorem State.disableAllStreams_fixed (s : State) :
    (State.disableAllStreams s).fixed = s.fixed := by
  unfold State.disableAllStreams
  simp

@[simp] theorem State.domAction_fixed (s : State) (acc : Acc) (d : Nat) (f : State → Status × State) (hf : ∀ (a0 : State), (f a0).2.fixed = a0.fixed) :
    (State.domAction s acc d f).fixed = s.fixed := by
  unfold State.domAction
  dsimp only
  (repeat' split) <;> simp_all

@[simp] theorem State.resumeStream_fixed (s : State) (id : BitVec 12) :
    (State.resumeStream s id).fixed = s.fixed := by
  unfold State.resumeStream
  (repeat' split) <;> simp_all

@[simp] theorem State.invalStream_fixed (s : State) (id : BitVec 12) :
    (State.invalStream s id).fixed = s.fixed := by
  rfl

theorem execSctlResume_fixed (acc : Acc) (id : BitVec 16) (s : State) :
    ∃ r, execSctlResume acc id s = .next r ∧ r.fixed = s.fixed := by
  refine ⟨_, rfl, ?_⟩
  simp

theorem execSctlInval_fixed (acc : Acc) (id : BitVec 16) (s : State) :
    ∃ r, execSctlInval acc id s = .next r ∧ r.fixed = s.fixed := by
  refine ⟨_, rfl, ?_⟩
  simp

/-! ### Machine/Strait.lean -/

@[simp] theorem State.modStrait_fixed (s : State) (lane : Bool) (f : Strait → Strait) :
    (State.modStrait s lane f).fixed = s.fixed := by
  rfl

@[simp] theorem State.deliver_fixed (s : State) (lane : Bool) (h : StraitHdr) (body : StraitBody) (f : State → State)
    (hf : ∀ (a0 : State), (f a0).fixed = a0.fixed) :
    (State.deliver s lane h body f).fixed = s.fixed := by
  unfold State.deliver
  dsimp only
  (repeat' split) <;> simp_all

theorem execEdge_fixed (lane : Bool) (h : StraitHdr) (cycle : Word) (side : Fin 4) (plane : PeVec) (s : State) :
    ∃ r, execEdge lane h cycle side plane s = .next r ∧ r.fixed = s.fixed := by
  refine ⟨_, rfl, ?_⟩
  simp

@[simp] theorem State.redIn_fixed (s : State) (lane : Bool) (orv : Bool) (cnt : BitVec 19) (m : Fin 4) (hops : Byte) :
    (State.redIn s lane orv cnt m hops).fixed = s.fixed := by
  unfold State.redIn
  simp

theorem execRed_fixed (lane : Bool) (h : StraitHdr) (orv : Bool) (cnt : BitVec 19) (member : Fin 4) (hops : Byte) (s : State) :
    ∃ r, execRed lane h orv cnt member hops s = .next r ∧ r.fixed = s.fixed := by
  refine ⟨_, rfl, ?_⟩
  simp

theorem execAssay_fixed (lane : Bool) (h : StraitHdr) (f : BitVec 64) (assay : List Byte) (s : State) :
    ∃ r, execAssay lane h f assay s = .next r ∧ r.fixed = s.fixed := by
  refine ⟨_, rfl, ?_⟩
  simp

@[simp] theorem State.slewTo_fixed (s : State) (us : Word) :
    (State.slewTo s us).fixed = s.fixed := by
  rfl

@[simp] theorem State.heartbeat_fixed (s : State) (lane : Bool) (b : HbBody) :
    (State.heartbeat s lane b).fixed = s.fixed := by
  unfold State.heartbeat
  simp

theorem execHb_fixed (lane : Bool) (h : StraitHdr) (b : HbBody) (s : State) :
    ∃ r, execHb lane h b s = .next r ∧ r.fixed = s.fixed := by
  refine ⟨_, rfl, ?_⟩
  simp

theorem execBar_fixed (lane : Bool) (h : StraitHdr) (seq : BitVec 16) (s : State) :
    ∃ r, execBar lane h seq s = .next r ∧ r.fixed = s.fixed := by
  refine ⟨_, rfl, ?_⟩
  simp

theorem execAck_fixed (lane : Bool) (h : StraitHdr) (s : State) :
    ∃ r, execAck lane h s = .next r ∧ r.fixed = s.fixed := by
  refine ⟨_, rfl, ?_⟩
  simp

theorem execStraitReplay_fixed (lane : Bool) (s : State) :
    ∃ r, execStraitReplay lane s = .next r ∧ r.fixed = s.fixed := by
  refine ⟨_, rfl, ?_⟩
  simp

theorem execHbSend_fixed (usToBoundary : Nat) (s : State) :
    ∃ r, execHbSend usToBoundary s = .next r ∧ r.fixed = s.fixed := by
  unfold execHbSend
  (repeat' split) <;> exact ⟨_, rfl, by simp_all⟩

@[simp] theorem State.straitDown_fixed (s : State) (lane : Bool) :
    (State.straitDown s lane).fixed = s.fixed := by
  unfold State.straitDown
  simp

@[simp] theorem State.laneStop_fixed (s : State) (l : Fin 16) :
    (State.laneStop s l).fixed = s.fixed := by
  unfold State.laneStop
  simp

theorem execStraitLinkDown_fixed (lane : Bool) (s : State) :
    ∃ r, execStraitLinkDown lane s = .next r ∧ r.fixed = s.fixed := by
  refine ⟨_, rfl, ?_⟩
  simp

@[simp] theorem State.lockErrors_fixed (s : State) (l : Fin 16) :
    (State.lockErrors s l).fixed = s.fixed := by
  rfl

theorem execLaneLinkLoss_fixed (l : Fin 16) (s : State) :
    ∃ r, execLaneLinkLoss l s = .next r ∧ r.fixed = s.fixed := by
  unfold execLaneLinkLoss
  dsimp only
  (repeat' split) <;> exact ⟨_, rfl, by simp_all⟩

theorem execGuardEntryHbTimeout_fixed (s : State) :
    ∃ r, execGuardEntryHbTimeout s = .next r ∧ r.fixed = s.fixed := by
  unfold execGuardEntryHbTimeout
  (repeat' split) <;> exact ⟨_, rfl, by simp_all⟩

/-! ### Machine/Riser.lean -/

@[simp] theorem State.groupPages_fixed (s : State) (x : RCtx) (va : Nat) (x0 : Nat) :
    (State.groupPages s x va x0).2.fixed = s.fixed := by
  induction x0 with
  | zero => rfl
  | succ k ih =>
    unfold State.groupPages
    generalize s.groupPages x va k = z at ih ⊢
    split
    · rename_i t
      extract_lets a
      have hx := State.xlate_fixed t 22 (ix 16 x.xctx) (BitVec.ofNat 32 a) true
      generalize t.xlate 22 (ix 16 x.xctx) (BitVec.ofNat 32 a) true = q at hx ⊢
      split
      · split <;> exact hx.trans ih
      · exact ih
    · exact ih

@[simp] theorem State.groupStore_fixed (s : State) (c : Fin 16) (x : RCtx) (va : Nat) (y0 : List Word) :
    (State.groupStore s c x va y0).2.fixed = s.fixed := by
  induction y0 generalizing s va with
  | nil => rfl
  | cons w ws ih =>
    unfold State.groupStore
    have hx := State.xlate_fixed s 22 (ix 16 x.xctx) (BitVec.ofNat 32 va) true
    generalize s.xlate 22 (ix 16 x.xctx) (BitVec.ofNat 32 va) true = q at hx ⊢
    split
    · rename_i pa t
      dsimp only
      generalize hq : t.sendPosted _ = q
      have h2 : q.2.fixed = s.fixed := by
        rw [← hq]; simpa using hx
      clear hq
      generalize q.2 = t2 at h2 ⊢
      split
      · rw [ih]; exact h2
      · have hh := State.harbourAccess_fixed t2 (t2.vital.par.vriser.contains c) (.write (bytesLE 4 w.toNat)) pa
        generalize t2.harbourAccess (t2.vital.par.vriser.contains c) (.write (bytesLE 4 w.toNat)) pa = z at hh ⊢
        split
        · rw [ih]; simpa using hh.trans h2
        · simpa using hh.trans h2
    · exact hx
    · exact hx

@[simp] theorem State.groupTx_fixed (s : State) (c : Fin 16) (x : RCtx) (g : Nat) (ws : List Word) :
    (State.groupTx s c x g ws).fixed = s.fixed := by
  rfl

@[simp] theorem State.groupEth_fixed (s : State) (c : Fin 16) (x : RCtx) (g : Nat) (ws : List Word) :
    (State.groupEth s c x g ws).fixed = s.fixed := by
  unfold State.groupEth
  (repeat' split) <;> simp_all

@[simp] theorem State.posts_fixed (s : State) (h : BitVec 128) (y0 : List Word) :
    (State.posts s h y0).1.fixed = s.fixed := by
  induction y0 generalizing s with
  | nil => rfl
  | cons w ws ih =>
    unfold State.posts
    dsimp only
    rw [ih, State.sendPosted_fixed]

@[simp] theorem State.groupLoop_fixed (s : State) (c : Fin 16) (ws : List Word) :
    (State.groupLoop s c ws).fixed = s.fixed := by
  unfold State.groupLoop
  simp

@[simp] theorem State.groupOut_fixed (s : State) (a : Arch) (bank : Bool) (d : Drain) :
    (State.groupOut s a bank d).2.fixed = s.fixed := by
  unfold State.groupOut
  extract_lets c g y x ws va
  split
  · simp
  · split
    · have hp := State.groupPages_fixed s x va x.peN
      split
      · rename_i t he
        rw [he] at hp
        simpa using hp
      · exact hp
    · simp
    · simp
    · simp

@[simp] theorem State.afterDrain_fixed (s : State) (c : Fin 16) :
    (State.afterDrain s c).fixed = s.fixed := by
  unfold State.afterDrain
  simp

theorem execRiserOutbankDrain_fixed (a : Arch) (s : State) :
    ∃ r, execRiserOutbankDrain a s = .next r ∧ r.fixed = s.fixed := by
  unfold execRiserOutbankDrain
  dsimp only
  (repeat' split) <;> refine ⟨_, rfl, ?_⟩ <;> grind [fixed_mk, fixed_fold, foldl_fixed, fuses_mk, fuses_fold, State.modRing_fixed, State.counts_fixed, State.dropsPosted_fixed, State.afterDrain_fixed, State.groupOut_fixed, State.groupLost_fixed]

theorem execReplayHalfSwitch_fixed (link : Fin 4) (s : State) :
    ∃ r, execReplayHalfSwitch link s = .next r ∧ r.fixed = s.fixed := by
  unfold execReplayHalfSwitch
  dsimp only
  (repeat' split) <;> exact ⟨_, rfl, by simp_all⟩

theorem execEthFrameRx_fixed (l : Fin 16) (frame : List Byte) (fcsOk : Bool) (s : State) :
    ∃ r, execEthFrameRx l frame fcsOk s = .next r ∧ r.fixed = s.fixed := by
  unfold execEthFrameRx
  dsimp only
  (repeat' split) <;> exact ⟨_, rfl, by simp_all⟩

theorem execEthernetLinkUp_fixed (l : Fin 16) (s : State) :
    ∃ r, execEthernetLinkUp l s = .next r ∧ r.fixed = s.fixed := by
  unfold execEthernetLinkUp
  (repeat' split) <;> exact ⟨_, rfl, by simp_all⟩

end Sys2Proof.Machine
end

