-- ==== Sys2Proof/Laws/KeptHolm.lean ====
section
/-! SUPPORT. Laws/KeptHolm.lean: each operation and command of power, registers, transactions, the vital window and boot keeps the fixed part of the state. -/

namespace Sys2Proof.Machine

/-! ### Machine/Power.lean -/

@[simp] theorem State.clocks_fixed (s : State) :
    (State.clocks s).fixed = s.fixed := by
  rfl

@[simp] theorem State.offIsland_fixed (s : State) (P : Isl) :
    (State.offIsland s P).fixed = s.fixed := by
  rfl

@[simp] theorem State.loseArch_fixed (s : State) (a : Arch) :
    (State.loseArch s a).fixed = s.fixed := by
  unfold State.loseArch
  simp

@[simp] theorem State.offArch_fixed (s : State) (a : Arch) :
    (State.offArch s a).fixed = s.fixed := by
  unfold State.offArch
  simp

@[simp] theorem State.offBank_fixed (s : State) (b : Nat) :
    (State.offBank s b).fixed = s.fixed := by
  rfl

@[simp] theorem State.powerOff_fixed (s : State) (d : Nat) :
    (State.powerOff s d).fixed = s.fixed := by
  unfold State.powerOff
  simp

@[simp] theorem State.switchOff_fixed (s : State) (d : Nat) :
    (State.switchOff s d).fixed = s.fixed := by
  unfold State.switchOff
  simp

@[simp] theorem State.tideAbandon_fixed (s : State) (a : Arch) :
    (State.tideAbandon s a).fixed = s.fixed := by
  unfold State.tideAbandon
  simp

@[simp] theorem State.tideLose_fixed (s : State) (a : Arch) :
    (State.tideLose s a).fixed = s.fixed := by
  unfold State.tideLose
  simp

@[simp] theorem State.fenceDom_fixed (s : State) (d : Nat) :
    (State.fenceDom s d).fixed = s.fixed := by
  unfold State.fenceDom
  simp

theorem execDomainPowerOff_fixed (d : Nat) (s : State) :
    ∃ r, execDomainPowerOff d s = .next r ∧ r.fixed = s.fixed := by
  unfold execDomainPowerOff
  (repeat' split) <;> exact ⟨_, rfl, by simp_all⟩

@[simp] theorem State.leaveNow_fixed (s : State) (cause : BitVec 4) :
    (State.leaveNow s cause).fixed = s.fixed := by
  unfold State.leaveNow
  simp

theorem execWindowLeaveOpen_fixed (cause : BitVec 4) (s : State) :
    ∃ r, execWindowLeaveOpen cause s = .next r ∧ r.fixed = s.fixed := by
  unfold execWindowLeaveOpen
  (repeat' split) <;> exact ⟨_, rfl, by simp_all⟩

@[simp] theorem State.leaveFor_fixed (s : State) (cause : BitVec 4) :
    (State.leaveFor s cause).fixed = s.fixed := by
  unfold State.leaveFor
  simp

@[simp] theorem State.portBreak_fixed (s : State) :
    (State.portBreak s).fixed = s.fixed := by
  rfl

@[simp] theorem State.pinsLeave_fixed (s : State) :
    (State.pinsLeave s).fixed = s.fixed := by
  unfold State.pinsLeave
  simp

@[simp] theorem State.pinsFor_fixed (s : State) (m : Mode) :
    (State.pinsFor s m).fixed = s.fixed := by
  unfold State.pinsFor
  simp

@[simp] theorem State.dynLow_fixed (s : State) :
    (State.dynLow s).fixed = s.fixed := by
  rfl

@[simp] theorem State.jesdStop_fixed (s : State) :
    (State.jesdStop s).fixed = s.fixed := by
  rfl

@[simp] theorem State.regroupArch_fixed (s : State) (m : Mode) (a : Arch) :
    (State.regroupArch s m a).fixed = s.fixed := by
  rfl

@[simp] theorem State.formPair_fixed (s : State) (a : Arch) :
    (State.formPair s a).fixed = s.fixed := by
  unfold State.formPair
  simp

@[simp] theorem State.regroup_fixed (s : State) (m : Mode) :
    (State.regroup s m).fixed = s.fixed := by
  unfold State.regroup
  simp

@[simp] theorem State.dropRetained_fixed (s : State) (stay : BitVec 316) :
    (State.dropRetained s stay).fixed = s.fixed := by
  unfold State.dropRetained
  simp

@[simp] theorem State.powerFor_fixed (s : State) (m : Mode) :
    (State.powerFor s m).fixed = s.fixed := by
  unfold State.powerFor
  simp

@[simp] theorem State.enterGuard_fixed (s : State) :
    (State.enterGuard s).fixed = s.fixed := by
  rfl

@[simp] theorem State.enterMode_fixed (s : State) (m : Mode) :
    (State.enterMode s m).fixed = s.fixed := by
  unfold State.enterMode
  (repeat' split) <;> simp_all

@[simp] theorem State.stopFrames_fixed (s : State) (cause : BitVec 4) :
    (State.stopFrames s cause).fixed = s.fixed := by
  unfold State.stopFrames
  simp

@[simp] theorem State.leaveSafeStop_fixed (s : State) :
    (State.leaveSafeStop s).fixed = s.fixed := by
  unfold State.leaveSafeStop
  simp

@[simp] theorem State.startTransition_fixed (s : State) (m : Mode) (alarm : Word) :
    (State.startTransition s m alarm).fixed = s.fixed := by
  unfold State.startTransition
  simp

@[simp] theorem State.dormantLoss_fixed (s : State) :
    (State.dormantLoss s).fixed = s.fixed := by
  unfold State.dormantLoss
  simp

theorem execModeTransitionComplete_fixed (s : State) :
    ∃ r, execModeTransitionComplete s = .next r ∧ r.fixed = s.fixed := by
  unfold execModeTransitionComplete
  dsimp only
  (repeat' split) <;> exact ⟨_, rfl, by simp_all⟩

@[simp] theorem State.abandonCurrent_fixed (s : State) (lead : Arch) :
    (State.abandonCurrent s lead).fixed = s.fixed := by
  unfold State.abandonCurrent
  extract_lets q ctxs s1 done
  rw [State.modSeqs_fixed]
  refine foldl_fixed _ _ _ (fun t c => ?_)
  (repeat' split) <;> simp

@[simp] theorem State.stopAgain_fixed (s : State) (data : List Byte) :
    (State.stopAgain s data).fixed = s.fixed := by
  unfold State.stopAgain
  simp

@[simp] theorem State.safeStop_fixed (s : State) (data : List Byte) :
    (State.safeStop s data).fixed = s.fixed := by
  unfold State.safeStop
  simp

/-! ### Machine/Shore.lean -/

@[simp] theorem State.modShore_fixed (s : State) (f : Shore → Shore) :
    (State.modShore s f).fixed = s.fixed := by
  rfl

@[simp] theorem State.shirq_fixed (s : State) (i : Nat) :
    (State.shirq s i).fixed = s.fixed := by
  rfl

@[simp] theorem State.loadStart_fixed (s : State) (slot retry : Bool) :
    (State.loadStart s slot retry).fixed = s.fixed := by
  unfold State.loadStart
  simp

@[simp] theorem State.bootRefuse_fixed (s : State) (bit reason : Nat) :
    (State.bootRefuse s bit reason).fixed = s.fixed := by
  rfl

@[simp] theorem State.loadRefuse_fixed (s : State) (l : ShoreLoad) (code : Nat) :
    (State.loadRefuse s l code).fixed = s.fixed := by
  unfold State.loadRefuse
  simp

@[simp] theorem State.loadStep_fixed (s : State) (l : ShoreLoad) (b : Bitstream) :
    (State.loadStep s l b).fixed = s.fixed := by
  unfold State.loadStep
  (repeat' split) <;> simp_all

@[simp] theorem State.loadDone_fixed (s : State) (ok : Bool) :
    (State.loadDone s ok).fixed = s.fixed := by
  unfold State.loadDone
  dsimp only
  (repeat' split) <;> simp_all

theorem execFabricLoadStepDone_fixed (ok : Bool) (s : State) :
    ∃ r, execFabricLoadStepDone ok s = .next r ∧ r.fixed = s.fixed := by
  refine ⟨_, rfl, ?_⟩
  simp

theorem execFabricRelease_fixed (s : State) :
    ∃ r, execFabricRelease s = .next r ∧ r.fixed = s.fixed := by
  unfold execFabricRelease
  (repeat' split) <;> exact ⟨_, rfl, by simp_all⟩

@[simp] theorem State.fabricSafe_fixed (s : State) (recent : Bool) :
    (State.fabricSafe s recent).fixed = s.fixed := by
  unfold State.fabricSafe
  simp

@[simp] theorem State.scrubBad_fixed (s : State) (recent : Bool) :
    (State.scrubBad s recent).fixed = s.fixed := by
  unfold State.scrubBad
  simp

theorem execFabricScrub_fixed (crcOk recent : Bool) (s : State) :
    ∃ r, execFabricScrub crcOk recent s = .next r ∧ r.fixed = s.fixed := by
  unfold execFabricScrub
  dsimp only
  (repeat' split) <;> exact ⟨_, rfl, by simp_all⟩

theorem execPeriodCountEdge_fixed (cell ticks : Nat) (s : State) :
    ∃ r, execPeriodCountEdge cell ticks s = .next r ∧ r.fixed = s.fixed := by
  unfold execPeriodCountEdge
  (repeat' split) <;> exact ⟨_, rfl, by simp_all⟩

theorem execSigmaDeltaWord_fixed (cell : Nat) (w : Word) (s : State) :
    ∃ r, execSigmaDeltaWord cell w s = .next r ∧ r.fixed = s.fixed := by
  unfold execSigmaDeltaWord
  (repeat' split) <;> exact ⟨_, rfl, by simp_all⟩

@[simp] theorem Holm.uartByte_fuses (h : Holm) (b : Byte) : (h.uartByte b).fuses = h.fuses := by
  unfold Holm.uartByte
  dsimp only
  (repeat' split) <;> rfl

theorem execSerialEngineRx_fixed (e : Fin 8) (data : Option Word) (s : State) :
    ∃ r, execSerialEngineRx e data s = .next r ∧ r.fixed = s.fixed := by
  unfold execSerialEngineRx
  dsimp only
  have hu : ∀ b, ({ s with holm := s.holm.uartByte b } : State).fixed = s.fixed := fun b => by
    simp only [State.fixed, Holm.uartByte_fuses]
  (repeat' split) <;> exact ⟨_, rfl, by simp [hu]⟩

@[simp] theorem State.enginePush_fixed (s : State) (e : Fin 8) (v : Word) :
    (State.enginePush s e v).fixed = s.fixed := by
  unfold State.enginePush
  simp

@[simp] theorem State.enginePop_fixed (s : State) (e : Fin 8) :
    (State.enginePop s e).2.fixed = s.fixed := by
  unfold State.enginePop
  dsimp only
  (repeat' split) <;> simp_all

theorem execSedataWrite_fixed (acc : Acc) (e : Fin 8) (v : Word) (s : State) :
    ∃ r, execSedataWrite acc e v s = .next r ∧ r.fixed = s.fixed := by
  unfold execSedataWrite
  dsimp only
  (repeat' split) <;> exact ⟨_, rfl, by simp_all⟩

theorem execSedataRead_fixed (acc : Acc) (e : Fin 8) (s : State) :
    ∃ r, execSedataRead acc e s = .next r ∧ r.fixed = s.fixed := by
  unfold execSedataRead
  dsimp only
  (repeat' split) <;> exact ⟨_, rfl, by simp_all⟩

theorem execControlPortAccess_fixed (req : Request) (s : State) :
    ∃ r, execControlPortAccess req s = .next r ∧ r.fixed = s.fixed := by
  unfold execControlPortAccess
  dsimp only
  (repeat' split) <;> exact ⟨_, rfl, by simp_all⟩

theorem execCaptureTrigger_fixed (snap : List Byte) (s : State) :
    ∃ r, execCaptureTrigger snap s = .next r ∧ r.fixed = s.fixed := by
  unfold execCaptureTrigger
  (repeat' split) <;> exact ⟨_, rfl, by simp_all⟩

@[simp] theorem State.fabricTick_fixed (s : State) :
    (State.fabricTick s).fixed = s.fixed := by
  unfold State.fabricTick
  (repeat' split) <;> simp_all

@[simp] theorem State.nvStart_fixed (s : State) (cmd : BitVec 2) (addr : BitVec 16) :
    (State.nvStart s cmd addr).fixed = s.fixed := by
  unfold State.nvStart
  simp

@[simp] theorem State.nvAction_fixed (s : State) (acc : Acc) (cmd : BitVec 2) (addr : BitVec 16) :
    (State.nvAction s acc cmd addr).fixed = s.fixed := by
  unfold State.nvAction
  simp

theorem execNvctlRead_fixed (acc : Acc) (addr : BitVec 16) (s : State) :
    ∃ r, execNvctlRead acc addr s = .next r ∧ r.fixed = s.fixed := by
  refine ⟨_, rfl, ?_⟩
  simp

theorem execNvctlProgram_fixed (acc : Acc) (addr : BitVec 16) (s : State) :
    ∃ r, execNvctlProgram acc addr s = .next r ∧ r.fixed = s.fixed := by
  refine ⟨_, rfl, ?_⟩
  simp

theorem execNvctlErase_fixed (acc : Acc) (addr : BitVec 16) (s : State) :
    ∃ r, execNvctlErase acc addr s = .next r ∧ r.fixed = s.fixed := by
  refine ⟨_, rfl, ?_⟩
  simp

@[simp] theorem State.nvSpoil_fixed (s : State) :
    (State.nvSpoil s).fixed = s.fixed := by
  unfold State.nvSpoil
  simp

theorem execNvCommandDone_fixed (ok : Bool) (s : State) :
    ∃ r, execNvCommandDone ok s = .next r ∧ r.fixed = s.fixed := by
  unfold execNvCommandDone
  (repeat' split) <;> exact ⟨_, rfl, by simp_all⟩

/-! ### Machine/RegRead.lean -/

@[simp] theorem State.stampLow_fixed (s : State) (riser : Bool) :
    (State.stampLow s riser).2.fixed = s.fixed := by
  unfold State.stampLow
  simp

@[simp] theorem State.byteLow_fixed (s : State) (i : Fin 32) :
    (State.byteLow s i).2.fixed = s.fixed := by
  rfl

@[simp] theorem State.regReadAt_fixed (s : State) (b : Block) (off : Nat) :
    (State.regReadAt s b off).2.fixed = s.fixed := by
  unfold State.regReadAt
  dsimp only
  (repeat' split) <;> simp_all

@[simp] theorem State.regRead_fixed (s : State) (acc : Acc) (addr : PAddr) :
    (State.regRead s acc addr).2.2.fixed = s.fixed := by
  unfold State.regRead
  generalize regAt addr = r
  extract_lets s1
  have h1 : s1.fixed = s.fixed := by simp only [s1]; (repeat' split) <;> first | rfl | simp
  clear_value s1
  generalize s1.regGate acc addr = g
  split
  · exact h1
  · exact h1
  · rename_i b off
    split
    · exact h1
    · have hr := State.regReadAt_fixed s1 b off
      generalize s1.regReadAt b off = z at hr ⊢
      split <;> exact hr.trans h1

@[simp] theorem State.readAnswer_fixed (s : State) (acc : Acc) (addr : PAddr) :
    (State.readAnswer s acc addr).fixed = s.fixed := by
  unfold State.readAnswer
  have h := State.regRead_fixed s acc addr
  generalize s.regRead acc addr = z at h ⊢
  obtain ⟨st, w, t⟩ := z
  simp

theorem execTaintSourceRead_fixed (acc : Acc) (addr : PAddr) (s : State) :
    ∃ r, execTaintSourceRead acc addr s = .next r ∧ r.fixed = s.fixed := by
  unfold execTaintSourceRead
  split
  · split
    · exact ⟨_, rfl, State.readAnswer_fixed ..⟩
    · exact ⟨_, rfl, rfl⟩
  · split
    · extract_lets r
      split
      · exact ⟨_, rfl, by simp⟩
      · have h := State.harbourServe_fixed s r
        generalize s.harbourServe r = z at h ⊢
        exact ⟨_, rfl, by simp⟩
    · exact ⟨_, rfl, rfl⟩
  · exact ⟨_, rfl, rfl⟩

theorem execTimestampLowRead_fixed (acc : Acc) (riser : Bool) (s : State) :
    ∃ r, execTimestampLowRead acc riser s = .next r ∧ r.fixed = s.fixed := by
  refine ⟨_, rfl, ?_⟩
  simp

theorem execByteloRead_fixed (acc : Acc) (i : Fin 32) (s : State) :
    ∃ r, execByteloRead acc i s = .next r ∧ r.fixed = s.fixed := by
  refine ⟨_, rfl, ?_⟩
  simp

/-! ### Machine/RegWrite.lean -/

@[simp] theorem State.setLcfg_fixed (s : State) (l : Fin 16) (v : Word) :
    (State.setLcfg s l v).fixed = s.fixed := by
  unfold State.setLcfg
  simp

@[simp] theorem State.setRxCfg_fixed (s : State) (k : Fin 8) (second : Bool) (v : Word) :
    (State.setRxCfg s k second v).fixed = s.fixed := by
  unfold State.setRxCfg
  simp

@[simp] theorem State.setTxCfg_fixed (s : State) (k : Fin 4) (second : Bool) (v : Word) :
    (State.setTxCfg s k second v).fixed = s.fixed := by
  unfold State.setTxCfg
  simp

@[simp] theorem State.setRctx_fixed (s : State) (c : Fin 16) (k : Nat) (v : Word) :
    (State.setRctx s c k v).fixed = s.fixed := by
  unfold State.setRctx
  simp

theorem State.rwcArch_fixed (s : State) (a : Arch) (off : Nat) (v : Word) :
    ∀ t, State.rwcArch s a off v = some t → t.fixed = s.fixed := by
  unfold State.rwcArch
  intro t ht
  (repeat' split at ht) <;> (try cases ht) <;> simp_all

theorem State.rwcSet_fixed (s : State) (b : Block) (off : Nat) (v : Word) :
    ∀ t, State.rwcSet s b off v = some t → t.fixed = s.fixed := by
  intro t h
  unfold State.rwcSet at h
  cases b with
  | arch a => exact State.rwcArch_fixed _ _ _ _ _ h
  | _ =>
    dsimp only at h
    (repeat' split at h)
    all_goals first | (cases h; done) | (obtain rfl := Option.some.inj h; first | rfl | simp)

@[simp] theorem State.writeSeqctl_fixed (s : State) (a : Arch) (v : Word) :
    (State.writeSeqctl s a v).2.fixed = s.fixed := by
  unfold State.writeSeqctl
  (repeat' split) <;> simp_all

@[simp] theorem State.writeIctrl_fixed (s : State) (P : Isl) (v : Word) :
    (State.writeIctrl s P v).2.fixed = s.fixed := by
  unfold State.writeIctrl
  (repeat' split) <;> simp_all

@[simp] theorem State.writeCctl_fixed (s : State) (acc : Acc) (n : CoreId) (v : Word) :
    (State.writeCctl s acc n v).2.fixed = s.fixed := by
  unfold State.writeCctl
  dsimp only
  (repeat' split) <;> simp_all

@[simp] theorem State.writeDctl_fixed (s : State) (c : Fin 16) (v : Word) :
    (State.writeDctl s c v).fixed = s.fixed := by
  unfold State.writeDctl
  simp

@[simp] theorem State.writeSctl_fixed (s : State) (v : Word) :
    (State.writeSctl s v).fixed = s.fixed := by
  unfold State.writeSctl
  simp

@[simp] theorem State.clearStat_fixed (s : State) (i : Fin 32) :
    (State.clearStat s i).fixed = s.fixed := by
  rfl

@[simp] theorem State.writeNvctl_fixed (s : State) (v : Word) :
    (State.writeNvctl s v).fixed = s.fixed := by
  unfold State.writeNvctl
  simp

@[simp] theorem State.writeSestat_fixed (s : State) (e : Fin 8) (v : Word) :
    (State.writeSestat s e v).fixed = s.fixed := by
  rfl

@[simp] theorem State.writeArch_fixed (s : State) (a : Arch) (off : Nat) (v : Word) :
    (State.writeArch s a off v).2.fixed = s.fixed := by
  unfold State.writeArch
  (repeat' split) <;> simp_all

@[simp] theorem State.writeShore_fixed (s : State) (off : Nat) (v : Word) :
    (State.writeShore s off v).fixed = s.fixed := by
  unfold State.writeShore
  (repeat' split) <;> simp_all

@[simp] theorem State.writeHarbour_fixed (s : State) (off : Nat) (v : Word) :
    (State.writeHarbour s off v).fixed = s.fixed := by
  unfold State.writeHarbour
  (repeat' split) <;> simp_all

@[simp] theorem State.writeDma_fixed (s : State) (off : Nat) (v : Word) :
    (State.writeDma s off v).fixed = s.fixed := by
  unfold State.writeDma
  dsimp only
  (repeat' split) <;> simp_all

@[simp] theorem State.writeFields_fixed (s : State) (acc : Acc) (b : Block) (off : Nat) (v : Word) :
    (State.writeFields s acc b off v).2.fixed = s.fixed := by
  unfold State.writeFields
  cases b with
  | _ =>
    dsimp only
    (repeat' split)
    all_goals first | rfl | simp

@[simp] theorem State.regWrite_fixed (s : State) (acc : Acc) (addr : PAddr) (v : Word) :
    (State.regWrite s acc addr v).2.fixed = s.fixed := by
  unfold State.regWrite
  generalize s.regGate acc addr = g
  generalize regAt addr = r
  split
  · rfl
  · rfl
  · split
    · rfl
    · split
      · rfl
      · extract_lets t
        rw [State.writeFields_fixed]
        simp only [t]
        split
        · rfl
        · rename_i b off _ _ _
          have h := State.rwcSet_fixed s b off v
          generalize s.rwcSet b off v = o at h ⊢
          obtain _ | u := o
          · rfl
          · exact h u rfl

theorem execRegisterWrite_fixed (acc : Acc) (addr : PAddr) (value : Word) (s : State) :
    ∃ r, execRegisterWrite acc addr value s = .next r ∧ r.fixed = s.fixed := by
  unfold execRegisterWrite
  dsimp only
  exact ⟨_, rfl, by simp_all⟩

theorem execSoundStatClr_fixed (acc : Acc) (i : Fin 32) (s : State) :
    ∃ r, execSoundStatClr acc i s = .next r ∧ r.fixed = s.fixed := by
  refine ⟨_, rfl, ?_⟩
  simp

@[simp] theorem State.regServe_fixed (s : State) (r : Request) :
    (State.regServe s r).2.2.fixed = s.fixed := by
  unfold State.regServe
  extract_lets acc
  split
  · have h := State.regRead_fixed s acc r.addr
    generalize s.regRead acc r.addr = z at h ⊢
    obtain ⟨st, w, t⟩ := z
    exact h
  · rename_i bs _
    split
    · have h := State.regWrite_fixed s acc r.addr (BitVec.ofNat 32 (natLE bs))
      generalize s.regWrite acc r.addr (BitVec.ofNat 32 (natLE bs)) = z at h ⊢
      exact h
    · rfl
  · rfl

@[simp] theorem State.regTaint_fixed (s : State) (r : Request) :
    (State.regTaint s r).fixed = s.fixed := by
  unfold State.regTaint
  (repeat' split) <;> simp_all

theorem execRegisterBlockAccess_fixed (req : Request) (s : State) :
    ∃ r, execRegisterBlockAccess req s = .next r ∧ r.fixed = s.fixed := by
  unfold execRegisterBlockAccess
  (repeat' split) <;> exact ⟨_, rfl, by simp_all⟩

/-! ### Machine/TxnCheck.lean -/

@[simp] theorem State.setRegs_fixed (s : State) (ws : List TxnWrite) :
    (State.setRegs s ws).fixed = s.fixed := by
  unfold State.setRegs
  refine foldl_fixed _ _ _ (fun t w => ?_)
  split
  · rename_i b o v _
    have h := State.rwcSet_fixed t b o v
    generalize t.rwcSet b o v = o at h ⊢
    obtain _ | u := o
    · rfl
    · exact h u rfl
  · rfl

@[simp] theorem State.candidate_fixed (s : State) (ws : List TxnWrite) :
    (State.candidate s ws).fixed = s.fixed := by
  unfold State.candidate
  simp

/-! ### Machine/Twin.lean -/

@[simp] theorem State.twinRetry_fixed (s : State) (lead : Arch) (ms : List Arch) (ck : Checkpoint) :
    (State.twinRetry s lead ms ck).fixed = s.fixed := by
  unfold State.twinRetry
  simp

@[simp] theorem State.twinJunk_fixed (s : State) (ms : List Arch) :
    (State.twinJunk s ms).fixed = s.fixed := by
  unfold State.twinJunk
  refine foldl_fixed _ _ _ (fun t x => ?_)
  dsimp only
  (repeat' split) <;> simp_all

@[simp] theorem State.twinReact_fixed (s : State) (lead : Arch) (ms : List Arch) :
    (State.twinReact s lead ms).fixed = s.fixed := by
  unfold State.twinReact
  dsimp only
  (repeat' split) <;> simp_all

@[simp] theorem State.pourCycle_fixed (s : State) (a : Arch) :
    (State.pourCycle s a).fixed = s.fixed := by
  unfold State.pourCycle
  dsimp only
  (repeat' split) <;> simp_all

/-! ### Machine/Tide.lean -/

@[simp] theorem State.modTide_fixed (s : State) (a : Arch) (f : TideSt → TideSt) :
    (State.modTide s a f).fixed = s.fixed := by
  rfl

@[simp] theorem State.tideStart_fixed (s : State) (a : Arch) :
    (State.tideStart s a).fixed = s.fixed := by
  unfold State.tideStart
  simp

theorem execTideStepStart_fixed (a : Arch) (s : State) :
    ∃ r, execTideStepStart a s = .next r ∧ r.fixed = s.fixed := by
  refine ⟨_, rfl, ?_⟩
  simp

theorem execTideShadowComplete_fixed (a : Arch) (s : State) :
    ∃ r, execTideShadowComplete a s = .next r ∧ r.fixed = s.fixed := by
  unfold execTideShadowComplete
  dsimp only
  (repeat' split) <;> exact ⟨_, rfl, by simp_all⟩

@[simp] theorem State.mapOut_fixed (s : State) (a : Arch) (slot : BitVec 6) (last : BitVec 4) :
    (State.mapOut s a slot last).fixed = s.fixed := by
  unfold State.mapOut
  simp

@[simp] theorem State.tideSwap_fixed (s : State) (a : Arch) :
    (State.tideSwap s a).fixed = s.fixed := by
  unfold State.tideSwap
  (repeat' split) <;> simp_all

theorem execTideSwap_fixed (a : Arch) (s : State) :
    ∃ r, execTideSwap a s = .next r ∧ r.fixed = s.fixed := by
  unfold execTideSwap
  dsimp only
  (repeat' split) <;> exact ⟨_, rfl, by simp_all⟩

theorem execTideTestComplete_fixed (a : Arch) (pass : Bool) (s : State) :
    ∃ r, execTideTestComplete a pass s = .next r ∧ r.fixed = s.fixed := by
  unfold execTideTestComplete
  dsimp only
  (repeat' split) <;> exact ⟨_, rfl, by simp_all⟩

@[simp] theorem State.tideSuspend_fixed (s : State) (a : Arch) :
    (State.tideSuspend s a).fixed = s.fixed := by
  unfold State.tideSuspend
  simp

@[simp] theorem State.tideResume_fixed (s : State) (a : Arch) :
    (State.tideResume s a).fixed = s.fixed := by
  rfl

/-! ### Machine/Txn.lean -/

@[simp] theorem State.applyEntry_fixed (s : State) (i : Nat) (bs : List Byte) :
    (State.applyEntry s i bs).fixed = s.fixed := by
  unfold State.applyEntry
  dsimp only
  (repeat' split) <;> simp_all

@[simp] theorem State.applyRoutes_fixed (s : State) (ws : List TxnWrite) :
    (State.applyRoutes s ws).fixed = s.fixed := by
  unfold State.applyRoutes
  simp

@[simp] theorem State.applyPattern_fixed (s : State) (a : Arch) (bs : List Byte) :
    (State.applyPattern s a bs).fixed = s.fixed := by
  unfold State.applyPattern
  dsimp only
  (repeat' split) <;> simp_all

@[simp] theorem State.applySlot_fixed (s : State) (bs : List Byte) :
    (State.applySlot s bs).fixed = s.fixed := by
  unfold State.applySlot
  simp

@[simp] theorem State.applyFailslot_fixed (s : State) (a : Arch) (bs : List Byte) :
    (State.applyFailslot s a bs).fixed = s.fixed := by
  unfold State.applyFailslot
  simp

@[simp] theorem State.applyPolicy_fixed (s : State) (bs : List Byte) :
    (State.applyPolicy s bs).fixed = s.fixed := by
  unfold State.applyPolicy
  simp

@[simp] theorem State.applyObjects_fixed (z : State) (ws : List TxnWrite) :
    (State.applyObjects z ws).fixed = z.fixed := by
  unfold State.applyObjects
  simp

@[simp] theorem State.journal_fixed (s : State) (st : JState) (epoch : BitVec 64) (new old : Persist) :
    (State.journal s st epoch new old).fixed = s.fixed := by
  rfl

@[simp] theorem State.applyCommit_fixed (s : State) :
    (State.applyCommit s).fixed = s.fixed := by
  unfold State.applyCommit
  simp

@[simp] theorem State.commitAtBoundary_fixed (s : State) (f : BitVec 64) :
    (State.commitAtBoundary s f).fixed = s.fixed := by
  unfold State.commitAtBoundary
  simp

theorem execCommitPoint_fixed (s : State) :
    ∃ r, execCommitPoint s = .next r ∧ r.fixed = s.fixed := by
  unfold execCommitPoint
  dsimp only
  (repeat' split) <;> exact ⟨_, rfl, by simp_all⟩

theorem execTxnExpiry_fixed (s : State) :
    ∃ r, execTxnExpiry s = .next r ∧ r.fixed = s.fixed := by
  unfold execTxnExpiry
  exact ⟨_, rfl, by simp_all⟩

/-! ### Machine/Vital.lean -/

@[simp] theorem State.modVital_fixed (s : State) (f : Vital → Vital) :
    (State.modVital s f).fixed = s.fixed := by
  rfl

@[simp] theorem State.judge_fixed (s : State) (frame : Nat) :
    (State.judge s frame).fixed = s.fixed := by
  unfold State.judge
  simp

@[simp] theorem State.firstWindow_fixed (s : State) :
    (State.firstWindow s).fixed = s.fixed := by
  rfl

@[simp] theorem State.postStart_fixed (s : State) :
    (State.postStart s).fixed = s.fixed := by
  unfold State.postStart
  simp

@[simp] theorem State.dynBoundary_fixed (s : State) (frame : Nat) (key : List Byte) (before : Fin 8 → Bool) :
    (State.dynBoundary s frame key before).fixed = s.fixed := by
  rfl

@[simp] theorem State.startFrame_fixed (s : State) (f : BitVec 64) :
    (State.startFrame s f).fixed = s.fixed := by
  unfold State.startFrame
  simp

theorem execFrameBoundary_fixed (s : State) :
    ∃ r, execFrameBoundary s = .next r ∧ r.fixed = s.fixed := by
  unfold execFrameBoundary
  (repeat' split) <;> exact ⟨_, rfl, by simp_all⟩

@[simp] theorem State.mboxTake_fixed (s : State) (n : CoreId) (type : Nat) (seq : Word) (payload : List Byte) (act : State → VStatus × State) (hact : ∀ (a0 : State), (act a0).2.fixed = a0.fixed) :
    (State.mboxTake s n type seq payload act).fixed = s.fixed := by
  unfold State.mboxTake
  dsimp only
  (repeat' split) <;> simp_all

@[simp] theorem State.claim_fixed (s : State) (n : CoreId) (f : BitVec 64) :
    (State.claim s n f).2.fixed = s.fixed := by
  unfold State.claim
  dsimp only
  (repeat' split) <;> simp_all

theorem execFrameClaim_fixed (n : CoreId) (seq : Word) (f : BitVec 64) (s : State) :
    ∃ r, execFrameClaim n seq f s = .next r ∧ r.fixed = s.fixed := by
  refine ⟨_, rfl, ?_⟩
  simp

@[simp] theorem State.readCopies_fixed (s : State) (k : Nat) :
    (State.readCopies s k).2.fixed = s.fixed := by
  unfold State.readCopies
  dsimp only
  (repeat' split) <;> simp_all

@[simp] theorem State.makeAssay_fixed (s : State) :
    (State.makeAssay s).fixed = s.fixed := by
  unfold State.makeAssay
  grind [fixed_mk, fixed_fold, foldl_fixed, fuses_mk, fuses_fold, State.sendLanes_fixed, State.modVital_fixed, State.readCopies_fixed]

@[simp] theorem State.done_fixed (s : State) (n : CoreId) (f : BitVec 64) (ans : Word) (us : Nat) :
    (State.done s n f ans us).2.fixed = s.fixed := by
  unfold State.done
  (repeat' split) <;> simp_all

@[simp] theorem State.timeIs_fixed (s : State) (t : Nat) :
    (State.timeIs s t).fixed = s.fixed := by
  rfl

theorem execFrameDone_fixed (n : CoreId) (seq : Word) (f : BitVec 64) (ans : Word) (us : Nat) (s : State) :
    ∃ r, execFrameDone n seq f ans us s = .next r ∧ r.fixed = s.fixed := by
  refine ⟨_, rfl, ?_⟩
  simp

theorem execEventPost_fixed (n : CoreId) (seq : Word) (code : BitVec 16) (data : List Byte) (s : State) :
    ∃ r, execEventPost n seq code data s = .next r ∧ r.fixed = s.fixed := by
  refine ⟨_, rfl, ?_⟩
  simp

theorem execSafeStopReq_fixed (n : CoreId) (seq : Word) (reason : BitVec 16) (s : State) :
    ∃ r, execSafeStopReq n seq reason s = .next r ∧ r.fixed = s.fixed := by
  refine ⟨_, rfl, ?_⟩
  refine State.mboxTake_fixed _ _ _ _ _ _ (fun t => ?_)
  split
  · exact State.safeStop_fixed ..
  · rfl

theorem execDynPeriod_fixed (i : Fin 8) (t : Nat) (s : State) :
    ∃ r, execDynPeriod i t s = .next r ∧ r.fixed = s.fixed := by
  unfold execDynPeriod
  dsimp only
  (repeat' split) <;> exact ⟨_, rfl, by simp_all⟩

@[simp] theorem State.monMismatch_fixed (s : State) (i : Fin 8) :
    (State.monMismatch s i).fixed = s.fixed := by
  unfold State.monMismatch
  simp

theorem execDynmonEdge_fixed (i : Fin 8) (t : Nat) (s : State) :
    ∃ r, execDynmonEdge i t s = .next r ∧ r.fixed = s.fixed := by
  unfold execDynmonEdge
  dsimp only
  (repeat' split) <;> exact ⟨_, rfl, by simp_all⟩

theorem execDynmonStaticTimeout_fixed (i : Fin 8) (s : State) :
    ∃ r, execDynmonStaticTimeout i s = .next r ∧ r.fixed = s.fixed := by
  unfold execDynmonStaticTimeout
  (repeat' split) <;> exact ⟨_, rfl, by simp_all⟩

/-! ### Machine/Boot.lean -/

@[simp] theorem State.resetDevice_fixed (s : State) (cause : BitVec 4) :
    (State.resetDevice s cause).fixed = s.fixed := by
  unfold State.resetDevice
  simp

theorem execResetNLow_fixed (s : State) :
    ∃ r, execResetNLow s = .next r ∧ r.fixed = s.fixed := by
  unfold execResetNLow
  (repeat' split) <;> exact ⟨_, rfl, by simp_all⟩

@[simp] theorem State.lcBegin_fixed (s : State) :
    (State.lcBegin s).fixed = s.fixed := by
  rfl

@[simp] theorem State.lcWipe_fixed (s : State) :
    (State.lcWipe s).fixed = s.fixed := by
  rfl

/-- A burnt count is never lower (R391). -/
theorem State.lcBurn_kept (s : State) : s.Kept s.lcBurn := by
  refine ⟨rfl, rfl, ?_, BitVec.and_self, BitVec.and_self, fun k => le_refl _⟩
  show s.holm.lcCount.toNat ≤ (if s.holm.lcCount ≤ s.holm.keep.hdrLc + 1 then s.holm.keep.hdrLc + 1 else s.holm.lcCount).toNat
  split
  · assumption
  · exact le_refl _

@[simp] theorem State.lcClear_fixed (s : State) :
    (State.lcClear s).fixed = s.fixed := by
  rfl

/-- A step of a life-cycle transition keeps the queue and lowers no fuse. -/
theorem State.lcNext_kept (s : State) : s.Kept s.lcNext := by
  unfold State.lcNext
  extract_lets f
  have hf : ∀ t k, (f t k).fixed = t.fixed := fun _ _ => rfl
  clear_value f
  split
  · exact .of_fixed ((hf ..).trans (State.lcWipe_fixed s))
  · exact (State.lcBurn_kept s).trans (.of_fixed (hf ..))
  · exact .of_fixed ((hf ..).trans (State.lcClear_fixed s))
  · exact .of_fixed (State.resetDevice_fixed s 3)
  · exact .refl s

/-- A boot that repeats a pending transition lowers no fuse. -/
theorem State.lcFinish_kept (s : State) : s.Kept s.lcFinish :=
  ((State.Kept.of_fixed (State.lcWipe_fixed s)).trans (State.lcBurn_kept s.lcWipe)).trans
    (.of_fixed ((State.resetDevice_fixed s.lcWipe.lcBurn.lcClear 3).trans (State.lcClear_fixed s.lcWipe.lcBurn)))

@[simp] theorem State.bootRefuseImage_fixed (s : State) (bit : Nat) (f : ImgFault) :
    (State.bootRefuseImage s bit f).fixed = s.fixed := by
  rfl

@[simp] theorem State.noteLoaded_fixed (s : State) (i : Image) :
    (State.noteLoaded s i).fixed = s.fixed := by
  rfl

@[simp] theorem State.noteReason_fixed (s : State) (why : Nat) :
    (State.noteReason s why).fixed = s.fixed := by
  rfl

@[simp] theorem State.bootUzoug_fixed (s : State) : (State.bootUzoug s).2.fixed = s.fixed := by
  unfold State.bootUzoug
  split
  · rfl
  · simp
  · dsimp only
    split
    · exact State.noteReason_fixed s (s.uzougWhy s.holm.flash)
    · simp

@[simp] theorem State.bootConfig_fixed (s : State) (i : Image) :
    (State.bootConfig s i).fixed = s.fixed := by
  unfold State.bootConfig
  (repeat' split) <;> simp_all

@[simp] theorem State.installMould_fixed (s : State) (a : Arch) (vendor : Bool) (ws : List (A13 × Micro)) (es : List A13) :
    (State.installMould s a vendor ws es).fixed = s.fixed := by
  rfl

@[simp] theorem State.bootMould_fixed (s : State) (i : Image) (a : Arch) :
    (State.bootMould s i a).fixed = s.fixed := by
  unfold State.bootMould
  (repeat' split) <;> simp_all

@[simp] theorem State.bootMoulds_fixed (s : State) (i : Image) :
    (State.bootMoulds s i).fixed = s.fixed := by
  unfold State.bootMoulds
  simp

@[simp] theorem State.bootCore_fixed (s : State) (i : Image) :
    (State.bootCore s i).fixed = s.fixed := by
  unfold State.bootCore
  grind [fixed_mk, fixed_fold, foldl_fixed, fuses_mk, fuses_fold, State.bootRefuseImage_fixed, State.noteLoaded_fixed]

@[simp] theorem State.runLoad_fixed (inp : BootInput) (n : Nat) (s : State) : (State.runLoad inp n s).fixed = s.fixed := by
  induction n generalizing s with
  | zero => rfl
  | succ k ih =>
    unfold State.runLoad
    split
    · rfl
    · rw [ih]; simp

@[simp] theorem State.bootMap_fixed (s : State) (a : Arch) :
    (State.bootMap s a).fixed = s.fixed := by
  unfold State.bootMap
  simp

@[simp] theorem State.bootKeep_fixed (s : State) :
    (State.bootKeep s).fixed = s.fixed := by
  unfold State.bootKeep
  dsimp only
  (repeat' split) <;> simp_all

@[simp] theorem State.bootEnd_fixed (s : State) :
    (State.bootEnd s).fixed = s.fixed := by
  unfold State.bootEnd
  dsimp only
  (repeat' split) <;> simp_all

@[simp] theorem State.bootImages_fixed (s : State) (inp : BootInput) :
    (State.bootImages s inp).fixed = s.fixed := by
  unfold State.bootImages
  dsimp only
  (repeat' split) <;> simp_all

theorem State.boot_kept (s : State) (inp : BootInput) : s.Kept (s.boot inp) := by
  unfold State.boot
  dsimp only
  split
  · exact .of_fixed rfl
  · split
    · exact (State.Kept.of_fixed rfl).trans (State.lcFinish_kept _)
    · split
      · exact .of_fixed rfl
      · generalize h4' : State.powerFor _ .boot = s4
        have h4 : s4.fixed = s.fixed := by rw [← h4', State.powerFor_fixed]; rfl
        clear h4'
        have hb := State.bootUzoug_fixed s4
        split
        · rename_i t h
          refine .of_fixed ?_
          split at h
          · rw [h] at hb
            exact hb.trans h4
          · injection h with _ h
            subst h
            simp [h4]
        · rename_i i alt t h
          refine .of_fixed ?_
          have ht : t.fixed = s.fixed := by
            split at h
            · rw [h] at hb; exact hb.trans h4
            · injection h with h; cases h
          rw [State.bootImages_fixed]
          split <;> simp [ht]

theorem execBootSequence_kept (inp : BootInput) (s : State) : ∃ r, execBootSequence inp s = .next r ∧ s.Kept r := by
  unfold execBootSequence
  split
  · exact ⟨_, rfl, State.Kept.trans (.of_fixed (State.resetDevice_fixed s 0)) (State.boot_kept _ _)⟩
  · split
    · exact ⟨_, rfl, State.boot_kept _ _⟩
    · exact ⟨_, rfl, .refl _⟩

/-! ### Machine/Ebb.lean -/

@[simp] theorem State.isolate_fixed (s : State) :
    (State.isolate s).fixed = s.fixed := by
  rfl

@[simp] theorem State.ebbStart_fixed (s : State) :
    (State.ebbStart s).fixed = s.fixed := by
  unfold State.ebbStart
  simp

theorem execEbb_fixed (s : State) :
    ∃ r, execEbb s = .next r ∧ r.fixed = s.fixed := by
  unfold execEbb
  (repeat' split) <;> exact ⟨_, rfl, by simp_all⟩

@[simp] theorem State.ebbSeal_fixed (s : State) :
    (State.ebbSeal s).fixed = s.fixed := by
  unfold State.ebbSeal
  (repeat' split) <;> simp_all

theorem execSnapshotSealed_fixed (s : State) :
    ∃ r, execSnapshotSealed s = .next r ∧ r.fixed = s.fixed := by
  unfold execSnapshotSealed
  (repeat' split) <;> exact ⟨_, rfl, by simp_all⟩

theorem execEbbComplete_fixed (s : State) :
    ∃ r, execEbbComplete s = .next r ∧ r.fixed = s.fixed := by
  unfold execEbbComplete
  dsimp only
  (repeat' split) <;> exact ⟨_, rfl, by simp_all⟩

theorem execEbbRecovery_fixed (s : State) :
    ∃ r, execEbbRecovery s = .next r ∧ r.fixed = s.fixed := by
  unfold execEbbRecovery
  (repeat' split) <;> exact ⟨_, rfl, by simp_all⟩

theorem execHoldCollapse_fixed (s : State) :
    ∃ r, execHoldCollapse s = .next r ∧ r.fixed = s.fixed := by
  unfold execHoldCollapse
  (repeat' split) <;> exact ⟨_, rfl, by simp_all⟩

theorem execVddioSysCollapse_fixed (s : State) :
    ∃ r, execVddioSysCollapse s = .next r ∧ r.fixed = s.fixed := by
  unfold execVddioSysCollapse
  (repeat' split) <;> exact ⟨_, rfl, by simp_all⟩

theorem execHoldokChange_fixed (ok : Bool) (s : State) :
    ∃ r, execHoldokChange ok s = .next r ∧ r.fixed = s.fixed := by
  unfold execHoldokChange
  (repeat' split) <;> exact ⟨_, rfl, by simp_all⟩

theorem execHoldokTimeout_fixed (s : State) :
    ∃ r, execHoldokTimeout s = .next r ∧ r.fixed = s.fixed := by
  unfold execHoldokTimeout
  (repeat' split) <;> exact ⟨_, rfl, by simp_all⟩

theorem execThermalSample_fixed (tj : BitVec 16) (s : State) :
    ∃ r, execThermalSample tj s = .next r ∧ r.fixed = s.fixed := by
  unfold execThermalSample
  dsimp only
  (repeat' split) <;> exact ⟨_, rfl, by simp_all⟩

@[simp] theorem State.avsTo_fixed (s : State) (target : Nat) (ack : Bool) :
    (s.avsTo target ack).fixed = s.fixed := by
  unfold State.avsTo
  cases ack <;> simp

theorem execAvsStep_fixed (target : Nat) (s : State) :
    ∃ r, execAvsStep target s = .next r ∧ r.fixed = s.fixed := by
  unfold execAvsStep
  split <;> exact ⟨_, rfl, by simp⟩

theorem execCrystalStart_fixed (s : State) :
    ∃ r, execCrystalStart s = .next r ∧ r.fixed = s.fixed := by
  unfold execCrystalStart
  (repeat' split) <;> exact ⟨_, rfl, by simp_all⟩

@[simp] theorem State.wakeStart_fixed (s : State) :
    (State.wakeStart s).fixed = s.fixed := by
  unfold State.wakeStart
  simp

theorem execSkerryAlarm_fixed (s : State) :
    ∃ r, execSkerryAlarm s = .next r ∧ r.fixed = s.fixed := by
  unfold execSkerryAlarm
  (repeat' split) <;> exact ⟨_, rfl, by simp_all⟩

theorem execSh000WakeEdge_fixed (s : State) :
    ∃ r, execSh000WakeEdge s = .next r ∧ r.fixed = s.fixed := by
  unfold execSh000WakeEdge
  (repeat' split) <;> exact ⟨_, rfl, by simp_all⟩

@[simp] theorem State.rewriteEntries_fixed (s : State) :
    (State.rewriteEntries s).fixed = s.fixed := by
  unfold State.rewriteEntries
  refine foldl_fixed _ _ _ (fun t x => ?_)
  (repeat' split) <;> simp_all

@[simp] theorem State.reenableEntries_fixed (s : State) :
    (State.reenableEntries s).fixed = s.fixed := by
  unfold State.reenableEntries
  simp

theorem execWakeComplete_fixed (s : State) :
    ∃ r, execWakeComplete s = .next r ∧ r.fixed = s.fixed := by
  unfold execWakeComplete
  (repeat' split) <;> exact ⟨_, rfl, by simp_all⟩

@[simp] theorem State.testCore_fixed (s : State) (n : CoreId) :
    (State.testCore s n).fixed = s.fixed := by
  rfl

theorem execCoreSelftestTimer_fixed (s : State) :
    ∃ r, execCoreSelftestTimer s = .next r ∧ r.fixed = s.fixed := by
  unfold execCoreSelftestTimer
  dsimp only
  (repeat' split) <;> exact ⟨_, rfl, by simp_all⟩

theorem execCoreSelftestDone_fixed (n : CoreId) (pass : Bool) (s : State) :
    ∃ r, execCoreSelftestDone n pass s = .next r ∧ r.fixed = s.fixed := by
  unfold execCoreSelftestDone
  (repeat' split) <;> exact ⟨_, rfl, by simp_all⟩

theorem execHolmRomCheck_fixed (ok : Bool) (s : State) :
    ∃ r, execHolmRomCheck ok s = .next r ∧ r.fixed = s.fixed := by
  unfold execHolmRomCheck
  (repeat' split) <;> exact ⟨_, rfl, by simp_all⟩

theorem execHolmSramScrub_fixed (s : State) :
    ∃ r, execHolmSramScrub s = .next r ∧ r.fixed = s.fixed := by
  unfold execHolmSramScrub
  dsimp only
  (repeat' split) <;> exact ⟨_, rfl, by simp_all⟩

theorem execLaneRecalibrationDone_fixed (l : Fin 16) (ok : Bool) (s : State) :
    ∃ r, execLaneRecalibrationDone l ok s = .next r ∧ r.fixed = s.fixed := by
  unfold execLaneRecalibrationDone
  (repeat' split) <;> exact ⟨_, rfl, by simp_all⟩

theorem execOfflineTestDone_fixed (ok : Bool) (s : State) :
    ∃ r, execOfflineTestDone ok s = .next r ∧ r.fixed = s.fixed := by
  unfold execOfflineTestDone
  (repeat' split) <;> exact ⟨_, rfl, by simp_all⟩

theorem execJtagPinControl_fixed (ir : JtagPin) (s : State) :
    ∃ r, execJtagPinControl ir s = .next r ∧ r.fixed = s.fixed := by
  unfold execJtagPinControl
  dsimp only
  (repeat' split) <;> exact ⟨_, rfl, by simp_all⟩

end Sys2Proof.Machine
end

