-- ==== Sys2Proof/Laws/KeptVevis.lean ====
section
/-! SUPPORT. Laws/KeptVevis.lean: each operation and command of the Vevis commands keeps the fixed part of the state. -/

namespace Sys2Proof.Machine

/-! ### Machine/Vevis.lean -/

@[simp] theorem State.takeFrame_fixed (s : State) (pk : VPacket) :
    (State.takeFrame s pk).fixed = s.fixed := by
  unfold State.takeFrame
  simp

@[simp] theorem State.freeBytes_fixed (s : State) (n : Nat) :
    (State.freeBytes s n).2.fixed = s.fixed := by
  rfl

@[simp] theorem State.wrapSecret_fixed (s : State) (id : Word) (m : List Byte) :
    (State.wrapSecret s id m).fixed = s.fixed := by
  rfl

@[simp] theorem State.sendUnder_fixed (s : State) (key : List Byte) (peer : Peer) (sess seq : Word) (op : BitVec 16) (st : VStatus) (data : List Byte) :
    (State.sendUnder s key peer sess seq op st data).fixed = s.fixed := by
  rfl

@[simp] theorem State.send_fixed (s : State) (peer : Peer) (sess seq : Word) (op : BitVec 16) (st : VStatus) (data : List Byte) :
    (State.send s peer sess seq op st data).fixed = s.fixed := by
  rfl

@[simp] theorem State.no_fixed (s : State) (st : VStatus) :
    (State.no s st).next.fixed = s.fixed := by
  rfl

@[simp] theorem State.ok_fixed (s : State) (data : List Byte) :
    (State.ok s data).next.fixed = s.fixed := by
  rfl

@[simp] theorem State.acc_fixed (s : State) (data : List Byte) :
    (State.acc s data).next.fixed = s.fixed := by
  rfl

@[simp] theorem State.setPart_fixed (s : State) (id : Word) (p : Option (BitVec 16 × Word × List Byte × Nat)) :
    (State.setPart s id p).fixed = s.fixed := by
  unfold State.setPart
  simp

@[simp] theorem State.finish_fixed (s : State) (peer : Peer) (sess as : Word) (seq : Word) (code : BitVec 16) (st : VStatus) (data : List Byte) :
    (State.finish s peer sess as seq code st data).fixed = s.fixed := by
  rfl

/-- A command whose run and whose sequel keep the fixed part keeps it as a whole. -/
theorem State.perform_fixed (o : Opcode) (hr : ∀ s p x d, (o.run s p x d).next.fixed = s.fixed) (ha : ∀ t i d, (o.after t i d).fixed = t.fixed)
    (s : State) (pk : VPacket) (x : Session) (data : List Byte) : (State.perform s o pk x data).fixed = s.fixed := by
  unfold State.perform
  extract_lets a t
  have h : a.next.fixed = s.fixed := by simp only [a]; (repeat' split) <;> simp [hr]
  have ht : t.fixed = s.fixed := by simp [t, h]
  split
  · exact h
  · split <;> simp [ha, ht]

/-- What a packet does beside the command keeps the fixed part; the command itself stands behind `hp`. -/
theorem State.takePacket_kept (o : Opcode) (hp : ∀ s p x d, State.Kept s (s.perform o p x d)) (s : State) (pk : VPacket) (x : Session)
    (clear : List Byte) : s.Kept (State.takePacket s o pk x clear) := by
  unfold State.takePacket
  extract_lets refuse stale f t
  split
  · refine .of_fixed ?_
    simp only [refuse]
    split <;> simp
  · split
    · exact .of_fixed (by simp [refuse])
    · split
      · exact .of_fixed (by simp [refuse])
      · exact .of_fixed (by simp)
      · refine State.Kept.trans (.of_fixed ?_) (hp ..)
        simp only [t]
        (repeat' split) <;> rfl

theorem State.takePacket_fixed (o : Opcode) (hp : ∀ s p x d, (State.perform s o p x d).fixed = s.fixed) (s : State) (pk : VPacket) (x : Session)
    (clear : List Byte) : (State.takePacket s o pk x clear).fixed = s.fixed := by
  unfold State.takePacket
  extract_lets refuse stale f t
  split
  · simp only [refuse]
    split <;> simp
  · split
    · simp [refuse]
    · split
      · simp [refuse]
      · simp
      · rw [hp]
        simp only [t]
        (repeat' split) <;> rfl

/-- A packet never unburns a fuse if the command does not. -/
theorem State.vevis_kept (o : Opcode) (hp : ∀ s p x d, State.Kept s (s.perform o p x d)) (s : State) (pk : VPacket) :
    s.Kept (State.vevis s o pk) := by
  unfold State.vevis
  split
  · exact .refl _
  · have h1 : (s.takeFrame pk).fixed = s.fixed := State.takeFrame_fixed ..
    generalize s.takeFrame pk = s1 at h1 ⊢
    dsimp only
    split
    · exact .of_fixed (h1)
    · split
      · exact .of_fixed (by simp [h1])
      · split
        · exact .of_fixed (by split <;> simp [h1])
        · split
          · exact .of_fixed (h1)
          · split
            · exact .of_fixed (by simp [h1])
            · exact (State.Kept.of_fixed h1).trans (State.takePacket_kept o hp ..)

/-- A packet with an opcode that keeps the fixed part. -/
theorem State.vevis_fixed (o : Opcode) (hr : ∀ s p x d, (o.run s p x d).next.fixed = s.fixed) (ha : ∀ t i d, (o.after t i d).fixed = t.fixed)
    (s : State) (pk : VPacket) : (State.vevis s o pk).fixed = s.fixed := by
  unfold State.vevis
  split
  · rfl
  · have h1 : (s.takeFrame pk).fixed = s.fixed := State.takeFrame_fixed ..
    generalize s.takeFrame pk = s1 at h1 ⊢
    dsimp only
    split
    · exact (h1)
    · split
      · exact (by simp [h1])
      · split
        · exact (by split <;> simp [h1])
        · split
          · exact (h1)
          · split
            · exact (by simp [h1])
            · exact (State.takePacket_fixed o (State.perform_fixed o hr ha) ..).trans h1

theorem execUartFrameTimeout_fixed (s : State) :
    ∃ r, execUartFrameTimeout s = .next r ∧ r.fixed = s.fixed := by
  refine ⟨_, rfl, ?_⟩
  simp

theorem execHelloExpiry_fixed (s : State) :
    ∃ r, execHelloExpiry s = .next r ∧ r.fixed = s.fixed := by
  refine ⟨_, rfl, ?_⟩
  simp

theorem execSessionIdleExpiry_fixed (id : Word) (s : State) :
    ∃ r, execSessionIdleExpiry id s = .next r ∧ r.fixed = s.fixed := by
  unfold execSessionIdleExpiry
  (repeat' split) <;> exact ⟨_, rfl, by simp_all⟩

@[simp] theorem runHello_fixed (s : State) (u0 : VPacket) (u1 : Session) (data : List Byte) :
    (runHello s u0 u1 data).next.fixed = s.fixed := by
  unfold runHello
  dsimp only
  (repeat' split) <;> simp_all

theorem execHello_fixed (pk : VPacket) (s : State) :
    ∃ r, execHello pk s = .next r ∧ r.fixed = s.fixed := by
  unfold execHello
  refine ⟨_, rfl, State.vevis_fixed _ (fun s p x d => ?_) (fun t i d => ?_) ..⟩ <;> simp [opHello, stay]

@[simp] theorem runSessionOpen_fixed (s : State) (pk : VPacket) (u0 : Session) (data : List Byte) :
    (runSessionOpen s pk u0 data).next.fixed = s.fixed := by
  unfold runSessionOpen
  dsimp only
  (repeat' split) <;> simp_all

theorem execSessionOpen_fixed (pk : VPacket) (s : State) :
    ∃ r, execSessionOpen pk s = .next r ∧ r.fixed = s.fixed := by
  unfold execSessionOpen
  refine ⟨_, rfl, State.vevis_fixed _ (fun s p x d => ?_) (fun t i d => ?_) ..⟩ <;> simp [opSessionOpen, stay]

@[simp] theorem runEmpty_fixed (f : State → Session → Ans) (s : State) (u0 : VPacket) (x : Session) (data : List Byte) (hf : ∀ (a0 : State) (a1 : Session), (f a0 a1).next.fixed = a0.fixed) :
    (runEmpty f s u0 x data).next.fixed = s.fixed := by
  unfold runEmpty
  (repeat' split) <;> simp_all

theorem execSessionClose_fixed (pk : VPacket) (s : State) :
    ∃ r, execSessionClose pk s = .next r ∧ r.fixed = s.fixed := by
  unfold execSessionClose
  refine ⟨_, rfl, State.vevis_fixed _ (fun s p x d => ?_) (fun t i d => ?_) ..⟩ <;> simp [opSessionClose]

@[simp] theorem runPing_fixed (s : State) (u0 : VPacket) (u1 : Session) (data : List Byte) :
    (runPing s u0 u1 data).next.fixed = s.fixed := by
  unfold runPing
  (repeat' split) <;> simp_all

theorem execPing_fixed (pk : VPacket) (s : State) :
    ∃ r, execPing pk s = .next r ∧ r.fixed = s.fixed := by
  unfold execPing
  refine ⟨_, rfl, State.vevis_fixed _ (fun s p x d => ?_) (fun t i d => ?_) ..⟩ <;> simp [opPing, stay]

theorem execGetIdentity_fixed (pk : VPacket) (s : State) :
    ∃ r, execGetIdentity pk s = .next r ∧ r.fixed = s.fixed := by
  unfold execGetIdentity
  refine ⟨_, rfl, State.vevis_fixed _ (fun s p x d => ?_) (fun t i d => ?_) ..⟩ <;> simp [opGetIdentity, stay]

@[simp] theorem runAttest_fixed (s : State) (u0 : VPacket) (u1 : Session) (data : List Byte) :
    (runAttest s u0 u1 data).next.fixed = s.fixed := by
  unfold runAttest
  dsimp only
  (repeat' split) <;> simp_all

theorem execAttest_fixed (pk : VPacket) (s : State) :
    ∃ r, execAttest pk s = .next r ∧ r.fixed = s.fixed := by
  unfold execAttest
  refine ⟨_, rfl, State.vevis_fixed _ (fun s p x d => ?_) (fun t i d => ?_) ..⟩ <;> simp [opAttest, stay]

theorem execGetMeasurements_fixed (pk : VPacket) (s : State) :
    ∃ r, execGetMeasurements pk s = .next r ∧ r.fixed = s.fixed := by
  unfold execGetMeasurements
  refine ⟨_, rfl, State.vevis_fixed _ (fun s p x d => ?_) (fun t i d => ?_) ..⟩ <;> simp [opGetMeasurements, stay]

theorem execLcGet_fixed (pk : VPacket) (s : State) :
    ∃ r, execLcGet pk s = .next r ∧ r.fixed = s.fixed := by
  unfold execLcGet
  refine ⟨_, rfl, State.vevis_fixed _ (fun s p x d => ?_) (fun t i d => ?_) ..⟩ <;> simp [opLcGet, stay]

/-! ### Machine/TxnCmds.lean -/

@[simp] theorem txnBegin_fixed (s : State) (x : Session) :
    (txnBegin s x).next.fixed = s.fixed := by
  unfold txnBegin
  (repeat' split) <;> simp_all

theorem execTxnBegin_fixed (pk : VPacket) (s : State) :
    ∃ r, execTxnBegin pk s = .next r ∧ r.fixed = s.fixed := by
  unfold execTxnBegin
  refine ⟨_, rfl, State.vevis_fixed _ (fun s p x d => ?_) (fun t i d => ?_) ..⟩ <;> simp [opTxnBegin, stay]

@[simp] theorem runTxnWrite_fixed (s : State) (pk : VPacket) (x : Session) (data : List Byte) :
    (runTxnWrite s pk x data).next.fixed = s.fixed := by
  unfold runTxnWrite
  dsimp only
  (repeat' split) <;> simp_all

theorem execTxnWrite_fixed (pk : VPacket) (s : State) :
    ∃ r, execTxnWrite pk s = .next r ∧ r.fixed = s.fixed := by
  unfold execTxnWrite
  refine ⟨_, rfl, State.vevis_fixed _ (fun s p x d => ?_) (fun t i d => ?_) ..⟩ <;> simp [opTxnWrite, stay]

@[simp] theorem State.acceptCommit_fixed (s : State) (target : Nat) :
    (State.acceptCommit s target).next.fixed = s.fixed := by
  unfold State.acceptCommit
  simp

@[simp] theorem State.writeSlot_fixed (s : State) (pk : VPacket) (target : Nat) :
    (State.writeSlot s pk target).next.fixed = s.fixed := by
  rfl

@[simp] theorem State.slotDone_fixed (s : State) (j : SlotJob) :
    (State.slotDone s j).fixed = s.fixed := by
  unfold State.slotDone
  dsimp only
  split
  · rfl
  · rw [State.finish_fixed]
    split <;> simp

@[simp] theorem runTxnCommit_fixed (s : State) (pk : VPacket) (x : Session) (data : List Byte) :
    (runTxnCommit s pk x data).next.fixed = s.fixed := by
  unfold runTxnCommit
  dsimp only
  (repeat' split) <;> simp_all

theorem execTxnCommit_fixed (pk : VPacket) (s : State) :
    ∃ r, execTxnCommit pk s = .next r ∧ r.fixed = s.fixed := by
  unfold execTxnCommit
  refine ⟨_, rfl, State.vevis_fixed _ (fun s p x d => ?_) (fun t i d => ?_) ..⟩ <;> simp [opTxnCommit, stay]

@[simp] theorem runTxnAbort_fixed (s : State) (pk : VPacket) (x : Session) (data : List Byte) :
    (runTxnAbort s pk x data).next.fixed = s.fixed := by
  unfold runTxnAbort
  (repeat' split) <;> simp_all

theorem execTxnAbort_fixed (pk : VPacket) (s : State) :
    ∃ r, execTxnAbort pk s = .next r ∧ r.fixed = s.fixed := by
  unfold execTxnAbort
  refine ⟨_, rfl, State.vevis_fixed _ (fun s p x d => ?_) (fun t i d => ?_) ..⟩ <;> simp [opTxnAbort, stay]

@[simp] theorem txnStatus_fixed (s : State) (u0 : Session) :
    (txnStatus s u0).next.fixed = s.fixed := by
  unfold txnStatus
  dsimp only
  (repeat' split) <;> simp_all

theorem execTxnStatus_fixed (pk : VPacket) (s : State) :
    ∃ r, execTxnStatus pk s = .next r ∧ r.fixed = s.fixed := by
  unfold execTxnStatus
  refine ⟨_, rfl, State.vevis_fixed _ (fun s p x d => ?_) (fun t i d => ?_) ..⟩ <;> simp [opTxnStatus, stay]

/-! ### Machine/Commands.lean -/

theorem execModeGet_fixed (pk : VPacket) (s : State) :
    ∃ r, execModeGet pk s = .next r ∧ r.fixed = s.fixed := by
  unfold execModeGet
  refine ⟨_, rfl, State.vevis_fixed _ (fun s p x d => ?_) (fun t i d => ?_) ..⟩ <;> simp [opModeGet, stay]

@[simp] theorem runModeSet_fixed (s : State) (u0 : VPacket) (u1 : Session) (data : List Byte) :
    (runModeSet s u0 u1 data).next.fixed = s.fixed := by
  unfold runModeSet
  dsimp only
  (repeat' split) <;> simp_all

theorem execModeSet_fixed (pk : VPacket) (s : State) :
    ∃ r, execModeSet pk s = .next r ∧ r.fixed = s.fixed := by
  unfold execModeSet
  refine ⟨_, rfl, State.vevis_fixed _ (fun s p x d => ?_) (fun t i d => ?_) ..⟩ <;> simp [opModeSet, stay]

@[simp] theorem runVitalResume_fixed (s : State) (u0 : VPacket) (u1 : Session) (data : List Byte) :
    (runVitalResume s u0 u1 data).next.fixed = s.fixed := by
  unfold runVitalResume
  (repeat' split) <;> simp_all

theorem execVitalResume_fixed (pk : VPacket) (s : State) :
    ∃ r, execVitalResume pk s = .next r ∧ r.fixed = s.fixed := by
  unfold execVitalResume
  refine ⟨_, rfl, State.vevis_fixed _ (fun s p x d => ?_) (fun t i d => ?_) ..⟩ <;> simp [opVitalResume, stay]

@[simp] theorem runSafeStop_fixed (s : State) (u0 : VPacket) (u1 : Session) (data : List Byte) :
    (runSafeStop s u0 u1 data).next.fixed = s.fixed := by
  unfold runSafeStop
  (repeat' split) <;> simp_all

theorem execSafeStop_fixed (pk : VPacket) (s : State) :
    ∃ r, execSafeStop pk s = .next r ∧ r.fixed = s.fixed := by
  unfold execSafeStop
  refine ⟨_, rfl, State.vevis_fixed _ (fun s p x d => ?_) (fun t i d => ?_) ..⟩ <;> simp [opSafeStop, stay]

@[simp] theorem State.failed_fixed (s : State) (data : List Byte) :
    (State.failed s data).next.fixed = s.fixed := by
  unfold State.failed
  simp

@[simp] theorem runStreamGet_fixed (s : State) (u0 : VPacket) (u1 : Session) (data : List Byte) :
    (runStreamGet s u0 u1 data).next.fixed = s.fixed := by
  unfold runStreamGet
  split
  · rename_i id _
    split
    · simp
    · rename_i off _
      have hh := State.access_fixed s { src := 4, tag := 0, user := false, op := .read 64, addr := BitVec.ofNat 40 (0x20000000 + off) }
      split <;> rename_i he <;> rw [he] at hh <;> simpa using hh
  · simp

theorem execStreamGet_fixed (pk : VPacket) (s : State) :
    ∃ r, execStreamGet pk s = .next r ∧ r.fixed = s.fixed := by
  unfold execStreamGet
  refine ⟨_, rfl, State.vevis_fixed _ (fun s p x d => ?_) (fun t i d => ?_) ..⟩ <;> simp [opStreamGet, stay]

@[simp] theorem State.keepEn_fixed (s : State) (id : BitVec 12) (en : Bool) :
    (State.keepEn s id en).fixed = s.fixed := by
  unfold State.keepEn
  simp

@[simp] theorem runStream_fixed (bad : State → BitVec 12 → Bool) (act : State → BitVec 12 → Ans) (s : State) (u0 : VPacket) (u1 : Session)
    (data : List Byte) (hact : ∀ (a0 : State) (a1 : BitVec 12), (act a0 a1).next.fixed = a0.fixed) :
    (runStream bad act s u0 u1 data).next.fixed = s.fixed := by
  unfold runStream
  dsimp only
  (repeat' split) <;> simp [hact]

@[simp] theorem State.enableCmd_fixed (s : State) (id : BitVec 12) :
    (State.enableCmd s id).next.fixed = s.fixed := by
  unfold State.enableCmd
  grind [fixed_mk, fixed_fold, foldl_fixed, fuses_mk, fuses_fold, State.entryCfg_fixed, State.enableStream_fixed, State.no_fixed, State.ok_fixed, State.failed_fixed, State.keepEn_fixed]

theorem execStreamEnable_fixed (pk : VPacket) (s : State) :
    ∃ r, execStreamEnable pk s = .next r ∧ r.fixed = s.fixed := by
  unfold execStreamEnable
  refine ⟨_, rfl, State.vevis_fixed _ (fun s p x d => ?_) (fun t i d => ?_) ..⟩ <;> simp [opStreamEnable, stay]

theorem execStreamDisable_fixed (pk : VPacket) (s : State) :
    ∃ r, execStreamDisable pk s = .next r ∧ r.fixed = s.fixed := by
  unfold execStreamDisable
  refine ⟨_, rfl, State.vevis_fixed _ (fun s p x d => ?_) (fun t i d => ?_) ..⟩ <;> simp [opStreamDisable, stay]

@[simp] theorem partnerStatus_fixed (s : State) (u0 : Session) :
    (partnerStatus s u0).next.fixed = s.fixed := by
  unfold partnerStatus
  dsimp only
  (repeat' split) <;> simp_all

theorem execPartnerStatus_fixed (pk : VPacket) (s : State) :
    ∃ r, execPartnerStatus pk s = .next r ∧ r.fixed = s.fixed := by
  unfold execPartnerStatus
  refine ⟨_, rfl, State.vevis_fixed _ (fun s p x d => ?_) (fun t i d => ?_) ..⟩ <;> simp [opPartnerStatus, stay]

theorem execLatticeStatus_fixed (pk : VPacket) (s : State) :
    ∃ r, execLatticeStatus pk s = .next r ∧ r.fixed = s.fixed := by
  unfold execLatticeStatus
  refine ⟨_, rfl, State.vevis_fixed _ (fun s p x d => ?_) (fun t i d => ?_) ..⟩ <;> simp [opLatticeStatus, stay]

/-! ### Machine/Life.lean -/

theorem State.lcApply_kept (s : State) (c : LcCmd) : s.Kept (s.lcApply c) := by
  have h : s.Kept s.txnAbort := .of_fixed (State.txnAbort_fixed s)
  unfold State.lcApply
  refine State.Kept.trans h ?_
  generalize s.txnAbort = t
  have ho (a b : BitVec 4) : a &&& (a ||| b) = a := by ext; simp; grind
  dsimp only
  split
  · split
    · exact ⟨rfl, rfl, le_refl _, ho _ _, BitVec.and_self, fun _ => le_refl _⟩
    · exact .refl _
  · exact ⟨rfl, rfl, le_refl _, ho _ _, BitVec.and_self, fun _ => le_refl _⟩
  · exact ⟨rfl, rfl, le_refl _, BitVec.and_self, ho _ _, fun _ => le_refl _⟩

theorem State.lcApply_lcCount (s : State) (c : LcCmd) : (s.lcApply c).holm.lcCount = s.holm.lcCount := by
  have h : s.txnAbort.holm.lcCount = s.holm.lcCount := congrArg (fun x => x.fuses.lcCount) (State.txnAbort_fixed s)
  unfold State.lcApply
  dsimp only
  (repeat' split) <;> exact h

theorem runLc_kept (s : State) (pk : VPacket) (x : Session) (data : List Byte) : s.Kept (runLc s pk x data).next := by
  unfold runLc
  extract_lets c
  (repeat' split) <;> first | exact .refl _ | exact State.lcApply_kept ..

/-- An advance that answers OK starts below the last life-cycle state. -/
theorem runLc_advance (s : State) (pk : VPacket) (x : Session) (data : List Byte) (h1 : natAt data 0 1 = 1)
    (hok : (runLc s pk x data).st = .ok) : (runLc s pk x data).next.holm.lcCount = s.holm.lcCount ∧ s.holm.lcState < 4 := by
  unfold runLc at hok ⊢
  extract_lets c at hok ⊢
  have hc : c.code = 1 := h1
  split at hok
  · simp [State.no] at hok
  · split at hok
    · simp [State.no] at hok
    · split at hok
      · simp [State.no] at hok
      · rename_i g1 g2 g3
        rw [if_neg g1, if_neg g2, if_neg g3]
        split at hok
        · simp [State.no] at hok
        · split at hok
          · simp [State.no] at hok
          · rename_i g4 g5
            rw [if_neg g4, if_neg g5]
            refine ⟨State.lcApply_lcCount .., ?_⟩
            simp [Holm.lcBad, hc] at g3
            omega

theorem opLcAdvance_kept (s : State) (pk : VPacket) (x : Session) (data : List Byte) : s.Kept (s.perform opLcAdvance pk x data) := by
  unfold State.perform
  extract_lets a t
  have h : s.Kept a.next := by
    simp only [a]
    (repeat' split) <;> first | exact .refl _ | exact runLc_kept s pk x data
  have ht : s.Kept t := h.trans (.of_fixed (by simp [t]))
  split
  · exact h
  split
  · simp only [opLcAdvance, afterLc]
    split
    · exact ht.trans (.of_fixed (State.lcBegin_fixed t))
    · exact ht
  · exact ht

theorem execLcAdvance_kept (pk : VPacket) (s : State) : ∃ r, execLcAdvance pk s = .next r ∧ s.Kept r :=
  ⟨_, rfl, State.vevis_kept _ opLcAdvance_kept ..⟩

theorem execProgramKeySlot_kept (pk : VPacket) (s : State) : ∃ r, execProgramKeySlot pk s = .next r ∧ s.Kept r :=
  ⟨_, rfl, State.vevis_kept _ opLcAdvance_kept ..⟩

theorem execRevokeKeySlot_kept (pk : VPacket) (s : State) : ∃ r, execRevokeKeySlot pk s = .next r ∧ s.Kept r :=
  ⟨_, rfl, State.vevis_kept _ opLcAdvance_kept ..⟩

/-- Two answers whose states have one fixed part. -/
theorem Ans.ite_fixed {p : Prop} [Decidable p] {a b : Ans} {x : Fixed} (ha : a.next.fixed = x) (hb : b.next.fixed = x) :
    (if p then a else b).next.fixed = x := by split <;> assumption

@[simp] theorem runImgStage_fixed (s : State) (pk : VPacket) (u0 : Session) (data : List Byte) :
    (runImgStage s pk u0 data).next.fixed = s.fixed := by
  unfold runImgStage
  refine Ans.ite_fixed rfl (Ans.ite_fixed rfl (Ans.ite_fixed rfl (Ans.ite_fixed rfl (Ans.ite_fixed rfl (Ans.ite_fixed rfl ?_)))))
  split <;> rfl

theorem execImgStage_fixed (pk : VPacket) (s : State) :
    ∃ r, execImgStage pk s = .next r ∧ r.fixed = s.fixed := by
  unfold execImgStage
  refine ⟨_, rfl, State.vevis_fixed _ (fun s p x d => ?_) (fun t i d => ?_) ..⟩ <;> simp [opImgStage, stay]

theorem State.activate_kept (s : State) (i : Image) : s.Kept (s.activate i) := by
  refine ⟨rfl, rfl, le_refl _, BitVec.and_self, BitVec.and_self, fun k => ?_⟩
  simp only [State.activate, Holm.fuses]
  split
  · rename_i h
    simp only [vset, Fin.getElem_fin, Vector.getElem_set]
    split
    · rename_i h2
      have h1 := h.2
      simp only [Fin.getElem_fin, h2] at h1
      omega
    · exact le_refl _
  · exact le_refl _

theorem runImgActivate_kept (s : State) (pk : VPacket) (x : Session) (data : List Byte) : s.Kept (runImgActivate s pk x data).next := by
  unfold runImgActivate
  extract_lets typ target
  (repeat' split) <;> first | exact .refl _ | exact State.activate_kept ..

theorem opImgActivate_kept (s : State) (pk : VPacket) (x : Session) (data : List Byte) : s.Kept (s.perform opImgActivate pk x data) := by
  unfold State.perform
  extract_lets a t
  have h : s.Kept a.next := by
    simp only [a]
    (repeat' split) <;> first | exact .refl _ | exact runImgActivate_kept s pk x data
  have ht : s.Kept t := h.trans (.of_fixed (by simp [t]))
  split
  · exact h
  · split <;> exact ht

theorem execImgActivate_kept (pk : VPacket) (s : State) : ∃ r, execImgActivate pk s = .next r ∧ s.Kept r :=
  ⟨_, rfl, State.vevis_kept _ opImgActivate_kept ..⟩

theorem execImgList_fixed (pk : VPacket) (s : State) :
    ∃ r, execImgList pk s = .next r ∧ r.fixed = s.fixed := by
  unfold execImgList
  refine ⟨_, rfl, State.vevis_fixed _ (fun s p x d => ?_) (fun t i d => ?_) ..⟩ <;> simp [opImgList, stay]

/-! ### Machine/Service.lean -/

@[simp] theorem State.testReport_fixed (s : State) (k : Nat) :
    (State.testReport s k).next.fixed = s.fixed := by
  unfold State.testReport
  dsimp only
  (repeat' split) <;> simp_all

@[simp] theorem State.recalCmd_fixed (s : State) (l : Fin 16) :
    (State.recalCmd s l).next.fixed = s.fixed := by
  unfold State.recalCmd
  dsimp only
  (repeat' split) <;> simp_all

@[simp] theorem runSelftest_fixed (s : State) (u0 : VPacket) (u1 : Session) (data : List Byte) :
    (runSelftest s u0 u1 data).next.fixed = s.fixed := by
  unfold runSelftest
  dsimp only
  (repeat' split) <;> simp_all

theorem execSelftestCore_fixed (pk : VPacket) (s : State) :
    ∃ r, execSelftestCore pk s = .next r ∧ r.fixed = s.fixed := by
  unfold execSelftestCore
  refine ⟨_, rfl, State.vevis_fixed _ (fun s p x d => ?_) (fun t i d => ?_) ..⟩ <;> simp [opSelftest, stay]

theorem execSelftestHarbourTide_fixed (pk : VPacket) (s : State) :
    ∃ r, execSelftestHarbourTide pk s = .next r ∧ r.fixed = s.fixed := by
  unfold execSelftestHarbourTide
  refine ⟨_, rfl, State.vevis_fixed _ (fun s p x d => ?_) (fun t i d => ?_) ..⟩ <;> simp [opSelftest, stay]

theorem execSelftestLaneRecal_fixed (pk : VPacket) (s : State) :
    ∃ r, execSelftestLaneRecal pk s = .next r ∧ r.fixed = s.fixed := by
  unfold execSelftestLaneRecal
  refine ⟨_, rfl, State.vevis_fixed _ (fun s p x d => ?_) (fun t i d => ?_) ..⟩ <;> simp [opSelftest, stay]

theorem execSelftestOffline_fixed (pk : VPacket) (s : State) :
    ∃ r, execSelftestOffline pk s = .next r ∧ r.fixed = s.fixed := by
  unfold execSelftestOffline
  refine ⟨_, rfl, State.vevis_fixed _ (fun s p x d => ?_) (fun t i d => ?_) ..⟩ <;> simp [opSelftest, stay]

@[simp] theorem runTideCtl_fixed (s : State) (u0 : VPacket) (u1 : Session) (data : List Byte) :
    (runTideCtl s u0 u1 data).next.fixed = s.fixed := by
  unfold runTideCtl
  dsimp only
  (repeat' split) <;> simp_all

theorem execTideStatus_fixed (pk : VPacket) (s : State) :
    ∃ r, execTideStatus pk s = .next r ∧ r.fixed = s.fixed := by
  unfold execTideStatus
  refine ⟨_, rfl, State.vevis_fixed _ (fun s p x d => ?_) (fun t i d => ?_) ..⟩ <;> simp [opTideCtl, stay]

theorem execTideSuspend_fixed (pk : VPacket) (s : State) :
    ∃ r, execTideSuspend pk s = .next r ∧ r.fixed = s.fixed := by
  unfold execTideSuspend
  refine ⟨_, rfl, State.vevis_fixed _ (fun s p x d => ?_) (fun t i d => ?_) ..⟩ <;> simp [opTideCtl, stay]

theorem execTideResume_fixed (pk : VPacket) (s : State) :
    ∃ r, execTideResume pk s = .next r ∧ r.fixed = s.fixed := by
  unfold execTideResume
  refine ⟨_, rfl, State.vevis_fixed _ (fun s p x d => ?_) (fun t i d => ?_) ..⟩ <;> simp [opTideCtl, stay]

theorem execTideStepNow_fixed (pk : VPacket) (s : State) :
    ∃ r, execTideStepNow pk s = .next r ∧ r.fixed = s.fixed := by
  unfold execTideStepNow
  refine ⟨_, rfl, State.vevis_fixed _ (fun s p x d => ?_) (fun t i d => ?_) ..⟩ <;> simp [opTideCtl, stay]

@[simp] theorem runStatsRead_fixed (s : State) (u0 : VPacket) (u1 : Session) (data : List Byte) :
    (runStatsRead s u0 u1 data).next.fixed = s.fixed := by
  unfold runStatsRead
  dsimp only
  (repeat' split) <;> simp_all

theorem execStatsRead_fixed (pk : VPacket) (s : State) :
    ∃ r, execStatsRead pk s = .next r ∧ r.fixed = s.fixed := by
  unfold execStatsRead
  refine ⟨_, rfl, State.vevis_fixed _ (fun s p x d => ?_) (fun t i d => ?_) ..⟩ <;> simp [opStatsRead, stay]

@[simp] theorem runCapture_fixed (s : State) (u0 : VPacket) (u1 : Session) (data : List Byte) :
    (runCapture s u0 u1 data).next.fixed = s.fixed := by
  unfold runCapture
  dsimp only
  (repeat' split) <;> simp_all

theorem execCapture_fixed (pk : VPacket) (s : State) :
    ∃ r, execCapture pk s = .next r ∧ r.fixed = s.fixed := by
  unfold execCapture
  refine ⟨_, rfl, State.vevis_fixed _ (fun s p x d => ?_) (fun t i d => ?_) ..⟩ <;> simp [opCapture, stay]

theorem execCaptureRead_fixed (pk : VPacket) (s : State) :
    ∃ r, execCaptureRead pk s = .next r ∧ r.fixed = s.fixed := by
  unfold execCaptureRead
  refine ⟨_, rfl, State.vevis_fixed _ (fun s p x d => ?_) (fun t i d => rfl) ..⟩
  simp only [opCaptureRead]
  refine runEmpty_fixed _ _ _ _ _ (fun s x => ?_)
  split <;> simp

@[simp] theorem runEventRead_fixed (s : State) (u0 : VPacket) (u1 : Session) (data : List Byte) :
    (runEventRead s u0 u1 data).next.fixed = s.fixed := by
  unfold runEventRead
  dsimp only
  (repeat' split) <;> simp_all

theorem execEventRead_fixed (pk : VPacket) (s : State) :
    ∃ r, execEventRead pk s = .next r ∧ r.fixed = s.fixed := by
  unfold execEventRead
  refine ⟨_, rfl, State.vevis_fixed _ (fun s p x d => ?_) (fun t i d => ?_) ..⟩ <;> simp [opEventRead, stay]

@[simp] theorem State.holmAccess_fixed (s : State) (op : ReqOp) (addr : Nat) :
    (State.holmAccess s op addr).2.fixed = s.fixed := by
  unfold State.holmAccess
  dsimp only
  split <;> simp

@[simp] theorem State.memGo_fixed (s : State) (k : Nat) (j : MemJob) : (State.memGo s k j).2.2.fixed = s.fixed := by
  induction k generalizing s j with
  | zero => rfl
  | succ k ih =>
    unfold State.memGo
    split
    · rfl
    · extract_lets n
      have h := State.holmAccess_fixed s (if j.read then .read n else .write (j.bytes.take n)) j.addr
      generalize s.holmAccess (if j.read then .read n else .write (j.bytes.take n)) j.addr = q at h ⊢
      split
      · exact h
      · exact (ih ..).trans h
      · exact h

@[simp] theorem State.memStart_fixed (s : State) (j : MemJob) : (State.memStart s j).next.fixed = s.fixed := by
  unfold State.memStart
  have h := State.memGo_fixed s j.left j
  split <;> rename_i he <;> rw [he] at h
  · exact h
  · exact h

@[simp] theorem State.memResume_fixed (s : State) (j : MemJob) :
    (State.memResume s j).fixed = s.fixed := by
  unfold State.memResume
  have h := State.memGo_fixed s j.left j
  split <;> rename_i he <;> rw [he] at h
  · exact (State.finish_fixed ..).trans h
  · exact h

@[simp] theorem State.memResumeAll_fixed (s : State) : (State.memResumeAll s).fixed = s.fixed := by
  unfold State.memResumeAll
  exact foldl_fixed _ _ _ (fun t j => State.memResume_fixed ..)

@[simp] theorem runMemRead_fixed (s : State) (u0 : VPacket) (u1 : Session) (data : List Byte) :
    (runMemRead s u0 u1 data).next.fixed = s.fixed := by
  unfold runMemRead
  dsimp only
  (repeat' split) <;> simp_all

theorem execMemRead_fixed (pk : VPacket) (s : State) :
    ∃ r, execMemRead pk s = .next r ∧ r.fixed = s.fixed := by
  unfold execMemRead
  refine ⟨_, rfl, State.vevis_fixed _ (fun s p x d => ?_) (fun t i d => ?_) ..⟩ <;> simp [opMemRead, stay]

@[simp] theorem runMemWrite_fixed (s : State) (u0 : VPacket) (u1 : Session) (data : List Byte) :
    (runMemWrite s u0 u1 data).next.fixed = s.fixed := by
  unfold runMemWrite
  dsimp only
  (repeat' split) <;> simp_all

theorem execMemWrite_fixed (pk : VPacket) (s : State) :
    ∃ r, execMemWrite pk s = .next r ∧ r.fixed = s.fixed := by
  unfold execMemWrite
  refine ⟨_, rfl, State.vevis_fixed _ (fun s p x d => ?_) (fun t i d => ?_) ..⟩ <;> simp [opMemWrite, stay]

@[simp] theorem runKeepRead_fixed (s : State) (u0 : VPacket) (u1 : Session) (data : List Byte) :
    (runKeepRead s u0 u1 data).next.fixed = s.fixed := by
  unfold runKeepRead
  dsimp only
  (repeat' split) <;> simp_all

theorem execKeepRead_fixed (pk : VPacket) (s : State) :
    ∃ r, execKeepRead pk s = .next r ∧ r.fixed = s.fixed := by
  unfold execKeepRead
  refine ⟨_, rfl, State.vevis_fixed _ (fun s p x d => ?_) (fun t i d => ?_) ..⟩ <;> simp [opKeepRead, stay]

/-- What goes on by itself keeps the queue and lowers no fuse. -/
theorem State.idle_kept (s : State) : s.Kept s.idle := by
  unfold State.idle
  split
  · exact State.lcNext_kept s
  · split
    · exact .of_fixed (State.slotDone_fixed ..)
    · exact .of_fixed (State.fabricTick_fixed s)

/-! ### Machine/Waits.lean -/

theorem execMicrowordIssue_fixed (a : Arch) (s : State) :
    ∃ r, execMicrowordIssue a s = .next r ∧ r.fixed = s.fixed := by
  refine ⟨_, rfl, ?_⟩
  simp

theorem execGatewayViewTimeout_fixed (a : Arch) (src : Fin 32) (tag : Byte) (s : State) :
    ∃ r, execGatewayViewTimeout a src tag s = .next r ∧ r.fixed = s.fixed := by
  unfold execGatewayViewTimeout
  exact ⟨_, rfl, by simp_all⟩

theorem execRequestTimeout_fixed (src : Fin 32) (tag : Byte) (s : State) :
    ∃ r, execRequestTimeout src tag s = .next r ∧ r.fixed = s.fixed := by
  refine ⟨_, rfl, ?_⟩
  simp

end Sys2Proof.Machine
end

