-- ==== Sys2Proof/Laws/Memory.lean ====
section
/-! SUPPORT. Laws/Memory.lean: a read after a write, the canonical form every memory operation keeps, and the memories at reset. -/

namespace Sys2Proof.Machine

variable {α : Type} [DecidableEq α]

/-! ### Reading after writing -/

/-- A read of the entry stored gives what was stored. -/
@[simp] theorem SMap.get_set_same (d : α) (m : SMap α) (k : Nat) (v : α) : SMap.get d (SMap.set d m k v) k = v := by
  induction m with
  | nil => by_cases h : v = d <;> simp [SMap.set, SMap.get, h]
  | cons e m ih =>
    obtain ⟨j, w⟩ := e
    simp only [SMap.set]
    by_cases hv : v = d
    · by_cases hk : k = j
      · simpa [hv, hk] using ih
      · simpa [hv, hk, SMap.get, Ne.symm hk] using ih
    · by_cases hlt : k < j
      · simp [hv, hlt, SMap.get]
      · by_cases hk : k = j
        · simp [hv, hk, SMap.get]
        · simpa [hv, hlt, hk, SMap.get, Ne.symm hk] using ih

/-- A store leaves every other entry alone. -/
theorem SMap.get_set_ne (d : α) (m : SMap α) (k j : Nat) (v : α) (h : j ≠ k) : SMap.get d (SMap.set d m k v) j = SMap.get d m j := by
  induction m with
  | nil => by_cases hv : v = d <;> simp [SMap.set, SMap.get, hv, Ne.symm h]
  | cons e m ih =>
    obtain ⟨i, w⟩ := e
    by_cases hv : v = d
    · subst hv
      by_cases hk : k = i
      · subst hk; simp [SMap.set, SMap.get, Ne.symm h, ih]
      · simp [SMap.set, hk, SMap.get, ih]
    · rcases lt_trichotomy k i with hlt | rfl | hgt
      · simp [SMap.set, hv, hlt, SMap.get, Ne.symm h]
      · simp [SMap.set, hv, SMap.get, Ne.symm h]
      · simp [SMap.set, hv, hgt.ne', Nat.not_lt.mpr hgt.le, SMap.get, ih]

/-- One rule for both. -/
theorem SMap.get_set (d : α) (m : SMap α) (k j : Nat) (v : α) : SMap.get d (SMap.set d m k v) j = if j = k then v else SMap.get d m j := by
  by_cases h : j = k
  · rw [h, SMap.get_set_same, if_pos rfl]
  · rw [SMap.get_set_ne _ _ _ _ _ h, if_neg h]

/-- Outside the bytes stored memory reads as before. -/
theorem rdByte_wrBytes_outside (d : Byte) (m : List Host.Cell) (a x : Nat) (bs : List Byte) (h : ¬ (a ≤ x ∧ x < a + bs.length)) :
    rdByte d (wrBytes d m a bs) x = rdByte d m x := by
  induction bs generalizing m a with
  | nil => rfl
  | cons b bs ih =>
    simp only [List.length_cons] at h
    rw [wrBytes, ih _ _ (by omega)]
    exact SMap.get_set_ne _ _ _ _ _ (by omega)

/-- Inside them it reads what was stored. -/
theorem rdByte_wrBytes_inside (d : Byte) (m : List Host.Cell) (a i : Nat) (bs : List Byte) (h : i < bs.length) :
    rdByte d (wrBytes d m a bs) (a + i) = bs[i] := by
  induction bs generalizing m a i with
  | nil => simp at h
  | cons b bs ih =>
    cases i with
    | zero =>
      rw [wrBytes, rdByte_wrBytes_outside _ _ _ _ _ (by omega)]
      exact SMap.get_set_same ..
    | succ i =>
      have e : a + (i + 1) = (a + 1) + i := by omega
      rw [wrBytes, e, ih _ _ _ (by simpa using h)]
      rfl

/-! ### The canonical form -/

theorem SMap.wfFrom_mono (d : α) {lo lo' : Nat} (m : SMap α) (h : lo' ≤ lo) (w : SMap.wfFrom d lo m = true) : SMap.wfFrom d lo' m = true := by
  cases m with
  | nil => rfl
  | cons e m => simp only [SMap.wfFrom, Bool.and_eq_true, decide_eq_true_eq] at w ⊢; exact ⟨⟨by omega, w.1.2⟩, w.2⟩

/-- A removal below every listed index removes nothing. -/
theorem SMap.set_default_below (d : α) (m : SMap α) (k lo : Nat) (h : k < lo) (w : SMap.wfFrom d lo m = true) : SMap.set d m k d = m := by
  induction m generalizing lo with
  | nil => simp [SMap.set]
  | cons e m ih =>
    simp only [SMap.wfFrom, Bool.and_eq_true, decide_eq_true_eq] at w
    have hk : k ≠ e.1 := by omega
    simp [SMap.set, hk, ih (e.1 + 1) (by omega) w.2]

theorem SMap.wfFrom_set (d : α) (m : SMap α) (k lo : Nat) (v : α) (hk : lo ≤ k) (w : SMap.wfFrom d lo m = true) :
    SMap.wfFrom d lo (SMap.set d m k v) = true := by
  induction m generalizing lo with
  | nil => by_cases hv : v = d <;> simp [SMap.set, SMap.wfFrom, hv, hk]
  | cons e m ih =>
    obtain ⟨j, x⟩ := e
    simp only [SMap.wfFrom, Bool.and_eq_true, decide_eq_true_eq] at w
    obtain ⟨⟨hj, hx⟩, wm⟩ := w
    rcases lt_trichotomy k j with hlt | rfl | hgt
    · by_cases hv : v = d
      · simp [SMap.set, hv, hlt.ne, SMap.wfFrom, hj, hx, SMap.set_default_below d m k (j + 1) (by omega) wm, wm]
      · simp [SMap.set, hv, hlt, SMap.wfFrom, hk, hx, wm]
    · by_cases hv : v = d
      · subst hv
        simp [SMap.set, SMap.set_default_below v m k (k + 1) (by omega) wm, SMap.wfFrom_mono v m (by omega : lo ≤ k + 1) wm]
      · simp [SMap.set, hv, SMap.wfFrom, hj, wm]
    · have r := ih (j + 1) (by omega) wm
      by_cases hv : v = d
      · subst hv
        simp [SMap.set, hgt.ne', SMap.wfFrom, hj, hx, r]
      · simp [SMap.set, hv, hgt.ne', Nat.not_lt.mpr hgt.le, SMap.wfFrom, hj, hx, r]

/-- A store keeps the canonical form. -/
theorem SMap.wf_set (d : α) (m : SMap α) (k : Nat) (v : α) (w : SMap.wf d m = true) : SMap.wf d (SMap.set d m k v) = true :=
  SMap.wfFrom_set d m k 0 v (Nat.zero_le k) w

/-- Storing bytes keeps it. -/
theorem Memory.wf_wrBytes (d : Byte) (m : List Host.Cell) (a : Nat) (bs : List Byte) (w : Memory.wf d m = true) :
    Memory.wf d (wrBytes d m a bs) = true := by
  induction bs generalizing m a with
  | nil => exact w
  | cons b bs ih => exact ih _ _ (SMap.wf_set d m a b w)

/-- Dropping entries keeps it (a wiped bank, an erased sector). -/
theorem SMap.wfFrom_filter (d : α) (m : SMap α) (f : Nat × α → Bool) (lo : Nat) (w : SMap.wfFrom d lo m = true) :
    SMap.wfFrom d lo (m.filter f) = true := by
  induction m generalizing lo with
  | nil => rfl
  | cons e m ih =>
    simp only [SMap.wfFrom, Bool.and_eq_true, decide_eq_true_eq] at w
    have r := ih (e.1 + 1) w.2
    cases h : f e
    · simpa [h] using SMap.wfFrom_mono d _ (by omega) r
    · simp [h, SMap.wfFrom, w.1.1, w.1.2, r]

/-- A canonical listing of anything. -/
theorem SMap.wf_norm (d : α) (m : SMap α) : SMap.wf d (SMap.norm d m) = true := by
  have go : ∀ (l : List (Nat × α)) (t : SMap α), SMap.wf d t = true → SMap.wf d (l.foldl (fun t e => SMap.set d t e.1 e.2) t) = true := by
    intro l
    induction l with
    | nil => exact fun t h => h
    | cons e l ih => exact fun t h => ih _ (SMap.wf_set d t e.1 e.2 h)
  exact go m [] rfl

/-- At reset every memory is in canonical form. -/
theorem reset_memWf : State.reset.memWf = true := by decide +kernel

end Sys2Proof.Machine
end

