-- ==== Sys2Proof/Laws/Packets.lean ====
section
/-! SUPPORT. Laws/Packets.lean: the source and length fields of a header, and what a posted packet changes. -/

namespace Sys2Proof.Machine

/-- A field below bit 120 does not depend on HCHK. -/
theorem fld_sealHeader (h : BitVec 128) (lo w : Nat) (hw : lo + w ≤ 120) : (fld (sealHeader h) lo w : BitVec w) = fld h lo w := by
  apply BitVec.eq_of_getLsbD_eq
  intro i hi
  have a : lo + i < 120 := by omega
  simp only [fld, sealHeader, setFld, BitVec.getLsbD_extractLsb', BitVec.getLsbD_or, BitVec.getLsbD_and, BitVec.getLsbD_not,
    BitVec.getLsbD_shiftLeft, a, decide_true, Bool.not_true, Bool.and_false, Bool.false_and, Bool.not_false, Bool.and_true, Bool.or_false]
  have b : lo + i < 128 := by omega
  simp [b]

/-- A field of a number below 2^128. -/
theorem toNat_fld_ofNat (n lo w : Nat) (h : lo + w ≤ 128) : (fld (BitVec.ofNat 128 n) lo w : BitVec w).toNat = n / 2 ^ lo % 2 ^ w := by
  simp only [fld, BitVec.extractLsb'_toNat, BitVec.toNat_ofNat, Nat.shiftRight_eq_div_pow]
  have e : (2 : Nat) ^ 128 = 2 ^ lo * 2 ^ (128 - lo) := by rw [← Nat.pow_add]; congr 1; omega
  rw [e, Nat.mod_mul_right_div_self, Nat.mod_mod_of_dvd _ (Nat.pow_dvd_pow 2 (by omega))]

/-- SRC of a header, where its fields fit. -/
theorem hSrc_mkHeader (ty status : Nat) (epoch : Bool) (dst src : End) (id : Fin 32) (tag : Byte) (len op : Nat) (addr : PAddr)
    (h1 : ty < 16) (h2 : status < 16) (h3 : dst.pos < 64) (h4 : src.pos < 64) :
    hSrc (mkHeader ty status epoch dst src id tag len op addr) = id := by
  have hv : (vnOf ty).getD 0 < 4 := by unfold vnOf; (repeat' split) <;> decide
  have hd := dst.node.isLt
  have hs := src.node.isLt
  have hi := id.isLt
  have ht : tag.toNat < 256 := tag.isLt
  unfold hSrc mkHeader
  rw [fld_sealHeader _ _ _ (by decide), toNat_fld_ofNat _ _ _ (by decide)]
  generalize (vnOf ty).getD 0 = v at hv ⊢
  generalize he : (if epoch then 2 ^ 14 else 0) = e
  have hb : e ≤ 2 ^ 14 := by rw [← he]; split <;> decide
  have h : (v + ty * 2 ^ 2 + status * 2 ^ 6 + e + dst.node.val * 2 ^ 16 + dst.pos * 2 ^ 20 + src.node.val * 2 ^ 26 + src.pos * 2 ^ 30 + id.val * 2 ^ 36
    + tag.toNat * 2 ^ 41 + len * 2 ^ 49 + op * 2 ^ 58 + addr.toNat * 2 ^ 64) / 2 ^ 36 % 2 ^ 5 = id.val := by omega
  rw [h, ix, dif_pos hi]

/-- LEN of a header, where its fields fit. -/
theorem hLen_mkHeader (ty status : Nat) (epoch : Bool) (dst src : End) (id : Fin 32) (tag : Byte) (len op : Nat) (addr : PAddr)
    (h1 : ty < 16) (h2 : status < 16) (h3 : dst.pos < 64) (h4 : src.pos < 64) (h5 : len < 512) :
    hLen (mkHeader ty status epoch dst src id tag len op addr) = len := by
  have hv : (vnOf ty).getD 0 < 4 := by unfold vnOf; (repeat' split) <;> decide
  have hd := dst.node.isLt
  have hs := src.node.isLt
  have hi := id.isLt
  have ht : tag.toNat < 256 := tag.isLt
  unfold hLen mkHeader
  rw [fld_sealHeader _ _ _ (by decide), toNat_fld_ofNat _ _ _ (by decide)]
  generalize (vnOf ty).getD 0 = v at hv ⊢
  generalize he : (if epoch then 2 ^ 14 else 0) = e
  have hb : e ≤ 2 ^ 14 := by rw [← he]; split <;> decide
  omega

/-- SRC of a sequencer's message to the Holm. -/
theorem hSrc_vitalHeader (epoch : Bool) (a : Arch) (len : Nat) : hSrc (vitalHeader epoch a len) = ix 32 (24 + a.val) :=
  hSrc_mkHeader 9 0 epoch (soundEnd 9) { node := gatewayNode a, pos := 33 } _ 0 len 0 0 (by decide) (by decide) (by decide)
    (show 33 < 64 by decide)

/-- A posted packet that no router has discarded comes, and only its source's counters change. -/
theorem State.sendPosted_comes (s : State) (h : BitVec 128) (i : Fin 32) (hi : hSrc h = i) (hl : (s.count i (hLen h)).net.lost[i] = 0) :
    s.sendPosted h = (true, s.count i (hLen h)) := by
  simp only [State.sendPosted, hi, hl, if_true]

end Sys2Proof.Machine
end

