-- ==== Sys2Proof/Laws/State.lean ====
section
/-! SUPPORT. Laws/State.lean: one lemma per field for each named update of the state, and reading a vector after a change. -/

set_option Elab.async false

namespace Sys2Proof.Machine

variable (s : State)

/-! ### modArch -/

@[simp] theorem State.modArch_pending (a : Arch) (f : ArchSt → ArchSt) : (s.modArch a f).pending = s.pending := rfl
@[simp] theorem State.modArch_fresh (a : Arch) (f : ArchSt → ArchSt) : (s.modArch a f).fresh = s.fresh := rfl
@[simp] theorem State.modArch_gradeC (a : Arch) (f : ArchSt → ArchSt) : (s.modArch a f).gradeC = s.gradeC := rfl
@[simp] theorem State.modArch_committed (a : Arch) (f : ArchSt → ArchSt) : (s.modArch a f).committed = s.committed := rfl
@[simp] theorem State.modArch_latpos (a : Arch) (f : ArchSt → ArchSt) : (s.modArch a f).latpos = s.latpos := rfl
@[simp] theorem State.modArch_mode (a : Arch) (f : ArchSt → ArchSt) : (s.modArch a f).mode = s.mode := rfl
@[simp] theorem State.modArch_arch (a : Arch) (f : ArchSt → ArchSt) : (s.modArch a f).arch = vmod s.arch a f := rfl
@[simp] theorem State.modArch_isl (a : Arch) (f : ArchSt → ArchSt) : (s.modArch a f).isl = s.isl := rfl
@[simp] theorem State.modArch_vital (a : Arch) (f : ArchSt → ArchSt) : (s.modArch a f).vital = s.vital := rfl
@[simp] theorem State.modArch_dyn (a : Arch) (f : ArchSt → ArchSt) : (s.modArch a f).dyn = s.dyn := rfl
@[simp] theorem State.modArch_pour (a : Arch) (f : ArchSt → ArchSt) : (s.modArch a f).pour = s.pour := rfl
@[simp] theorem State.modArch_net (a : Arch) (f : ArchSt → ArchSt) : (s.modArch a f).net = s.net := rfl
@[simp] theorem State.modArch_pwr (a : Arch) (f : ArchSt → ArchSt) : (s.modArch a f).pwr = s.pwr := rfl
@[simp] theorem State.modArch_cores (a : Arch) (f : ArchSt → ArchSt) : (s.modArch a f).cores = s.cores := rfl
@[simp] theorem State.modArch_lanes (a : Arch) (f : ArchSt → ArchSt) : (s.modArch a f).lanes = s.lanes := rfl
@[simp] theorem State.modArch_rxLinks (a : Arch) (f : ArchSt → ArchSt) : (s.modArch a f).rxLinks = s.rxLinks := rfl
@[simp] theorem State.modArch_txLinks (a : Arch) (f : ArchSt → ArchSt) : (s.modArch a f).txLinks = s.txLinks := rfl
@[simp] theorem State.modArch_straits (a : Arch) (f : ArchSt → ArchSt) : (s.modArch a f).straits = s.straits := rfl
@[simp] theorem State.modArch_lattice (a : Arch) (f : ArchSt → ArchSt) : (s.modArch a f).lattice = s.lattice := rfl
@[simp] theorem State.modArch_sprue (a : Arch) (f : ArchSt → ArchSt) : (s.modArch a f).sprue = s.sprue := rfl
@[simp] theorem State.modArch_riser (a : Arch) (f : ArchSt → ArchSt) : (s.modArch a f).riser = s.riser := rfl
@[simp] theorem State.modArch_harbour (a : Arch) (f : ArchSt → ArchSt) : (s.modArch a f).harbour = s.harbour := rfl
@[simp] theorem State.modArch_dma (a : Arch) (f : ArchSt → ArchSt) : (s.modArch a f).dma = s.dma := rfl
@[simp] theorem State.modArch_xlat (a : Arch) (f : ArchSt → ArchSt) : (s.modArch a f).xlat = s.xlat := rfl
@[simp] theorem State.modArch_shore (a : Arch) (f : ArchSt → ArchSt) : (s.modArch a f).shore = s.shore := rfl
@[simp] theorem State.modArch_holm (a : Arch) (f : ArchSt → ArchSt) : (s.modArch a f).holm = s.holm := rfl
@[simp] theorem State.modArch_ethTx (a : Arch) (f : ArchSt → ArchSt) : (s.modArch a f).ethTx = s.ethTx := rfl
@[simp] theorem State.modArch_events (a : Arch) (f : ArchSt → ArchSt) : (s.modArch a f).events = s.events := rfl

/-! ### modSeq -/

@[simp] theorem State.modSeq_pending (a : Arch) (f : Seq → Seq) : (s.modSeq a f).pending = s.pending := rfl
@[simp] theorem State.modSeq_fresh (a : Arch) (f : Seq → Seq) : (s.modSeq a f).fresh = s.fresh := rfl
@[simp] theorem State.modSeq_gradeC (a : Arch) (f : Seq → Seq) : (s.modSeq a f).gradeC = s.gradeC := rfl
@[simp] theorem State.modSeq_committed (a : Arch) (f : Seq → Seq) : (s.modSeq a f).committed = s.committed := rfl
@[simp] theorem State.modSeq_latpos (a : Arch) (f : Seq → Seq) : (s.modSeq a f).latpos = s.latpos := rfl
@[simp] theorem State.modSeq_mode (a : Arch) (f : Seq → Seq) : (s.modSeq a f).mode = s.mode := rfl
@[simp] theorem State.modSeq_isl (a : Arch) (f : Seq → Seq) : (s.modSeq a f).isl = s.isl := rfl
@[simp] theorem State.modSeq_vital (a : Arch) (f : Seq → Seq) : (s.modSeq a f).vital = s.vital := rfl
@[simp] theorem State.modSeq_dyn (a : Arch) (f : Seq → Seq) : (s.modSeq a f).dyn = s.dyn := rfl
@[simp] theorem State.modSeq_pour (a : Arch) (f : Seq → Seq) : (s.modSeq a f).pour = s.pour := rfl
@[simp] theorem State.modSeq_net (a : Arch) (f : Seq → Seq) : (s.modSeq a f).net = s.net := rfl
@[simp] theorem State.modSeq_pwr (a : Arch) (f : Seq → Seq) : (s.modSeq a f).pwr = s.pwr := rfl
@[simp] theorem State.modSeq_cores (a : Arch) (f : Seq → Seq) : (s.modSeq a f).cores = s.cores := rfl
@[simp] theorem State.modSeq_lanes (a : Arch) (f : Seq → Seq) : (s.modSeq a f).lanes = s.lanes := rfl
@[simp] theorem State.modSeq_rxLinks (a : Arch) (f : Seq → Seq) : (s.modSeq a f).rxLinks = s.rxLinks := rfl
@[simp] theorem State.modSeq_txLinks (a : Arch) (f : Seq → Seq) : (s.modSeq a f).txLinks = s.txLinks := rfl
@[simp] theorem State.modSeq_straits (a : Arch) (f : Seq → Seq) : (s.modSeq a f).straits = s.straits := rfl
@[simp] theorem State.modSeq_lattice (a : Arch) (f : Seq → Seq) : (s.modSeq a f).lattice = s.lattice := rfl
@[simp] theorem State.modSeq_sprue (a : Arch) (f : Seq → Seq) : (s.modSeq a f).sprue = s.sprue := rfl
@[simp] theorem State.modSeq_riser (a : Arch) (f : Seq → Seq) : (s.modSeq a f).riser = s.riser := rfl
@[simp] theorem State.modSeq_harbour (a : Arch) (f : Seq → Seq) : (s.modSeq a f).harbour = s.harbour := rfl
@[simp] theorem State.modSeq_dma (a : Arch) (f : Seq → Seq) : (s.modSeq a f).dma = s.dma := rfl
@[simp] theorem State.modSeq_xlat (a : Arch) (f : Seq → Seq) : (s.modSeq a f).xlat = s.xlat := rfl
@[simp] theorem State.modSeq_shore (a : Arch) (f : Seq → Seq) : (s.modSeq a f).shore = s.shore := rfl
@[simp] theorem State.modSeq_holm (a : Arch) (f : Seq → Seq) : (s.modSeq a f).holm = s.holm := rfl
@[simp] theorem State.modSeq_ethTx (a : Arch) (f : Seq → Seq) : (s.modSeq a f).ethTx = s.ethTx := rfl
@[simp] theorem State.modSeq_events (a : Arch) (f : Seq → Seq) : (s.modSeq a f).events = s.events := rfl

/-! ### modMould -/

@[simp] theorem State.modMould_pending (a : Arch) (f : Mould → Mould) : (s.modMould a f).pending = s.pending := rfl
@[simp] theorem State.modMould_fresh (a : Arch) (f : Mould → Mould) : (s.modMould a f).fresh = s.fresh := rfl
@[simp] theorem State.modMould_gradeC (a : Arch) (f : Mould → Mould) : (s.modMould a f).gradeC = s.gradeC := rfl
@[simp] theorem State.modMould_committed (a : Arch) (f : Mould → Mould) : (s.modMould a f).committed = s.committed := rfl
@[simp] theorem State.modMould_latpos (a : Arch) (f : Mould → Mould) : (s.modMould a f).latpos = s.latpos := rfl
@[simp] theorem State.modMould_mode (a : Arch) (f : Mould → Mould) : (s.modMould a f).mode = s.mode := rfl
@[simp] theorem State.modMould_isl (a : Arch) (f : Mould → Mould) : (s.modMould a f).isl = s.isl := rfl
@[simp] theorem State.modMould_vital (a : Arch) (f : Mould → Mould) : (s.modMould a f).vital = s.vital := rfl
@[simp] theorem State.modMould_dyn (a : Arch) (f : Mould → Mould) : (s.modMould a f).dyn = s.dyn := rfl
@[simp] theorem State.modMould_pour (a : Arch) (f : Mould → Mould) : (s.modMould a f).pour = s.pour := rfl
@[simp] theorem State.modMould_net (a : Arch) (f : Mould → Mould) : (s.modMould a f).net = s.net := rfl
@[simp] theorem State.modMould_pwr (a : Arch) (f : Mould → Mould) : (s.modMould a f).pwr = s.pwr := rfl
@[simp] theorem State.modMould_cores (a : Arch) (f : Mould → Mould) : (s.modMould a f).cores = s.cores := rfl
@[simp] theorem State.modMould_lanes (a : Arch) (f : Mould → Mould) : (s.modMould a f).lanes = s.lanes := rfl
@[simp] theorem State.modMould_rxLinks (a : Arch) (f : Mould → Mould) : (s.modMould a f).rxLinks = s.rxLinks := rfl
@[simp] theorem State.modMould_txLinks (a : Arch) (f : Mould → Mould) : (s.modMould a f).txLinks = s.txLinks := rfl
@[simp] theorem State.modMould_straits (a : Arch) (f : Mould → Mould) : (s.modMould a f).straits = s.straits := rfl
@[simp] theorem State.modMould_lattice (a : Arch) (f : Mould → Mould) : (s.modMould a f).lattice = s.lattice := rfl
@[simp] theorem State.modMould_sprue (a : Arch) (f : Mould → Mould) : (s.modMould a f).sprue = s.sprue := rfl
@[simp] theorem State.modMould_riser (a : Arch) (f : Mould → Mould) : (s.modMould a f).riser = s.riser := rfl
@[simp] theorem State.modMould_harbour (a : Arch) (f : Mould → Mould) : (s.modMould a f).harbour = s.harbour := rfl
@[simp] theorem State.modMould_dma (a : Arch) (f : Mould → Mould) : (s.modMould a f).dma = s.dma := rfl
@[simp] theorem State.modMould_xlat (a : Arch) (f : Mould → Mould) : (s.modMould a f).xlat = s.xlat := rfl
@[simp] theorem State.modMould_shore (a : Arch) (f : Mould → Mould) : (s.modMould a f).shore = s.shore := rfl
@[simp] theorem State.modMould_holm (a : Arch) (f : Mould → Mould) : (s.modMould a f).holm = s.holm := rfl
@[simp] theorem State.modMould_ethTx (a : Arch) (f : Mould → Mould) : (s.modMould a f).ethTx = s.ethTx := rfl
@[simp] theorem State.modMould_events (a : Arch) (f : Mould → Mould) : (s.modMould a f).events = s.events := rfl

/-! ### modTwin -/

@[simp] theorem State.modTwin_pending (a : Arch) (f : Twin → Twin) : (s.modTwin a f).pending = s.pending := rfl
@[simp] theorem State.modTwin_fresh (a : Arch) (f : Twin → Twin) : (s.modTwin a f).fresh = s.fresh := rfl
@[simp] theorem State.modTwin_gradeC (a : Arch) (f : Twin → Twin) : (s.modTwin a f).gradeC = s.gradeC := rfl
@[simp] theorem State.modTwin_committed (a : Arch) (f : Twin → Twin) : (s.modTwin a f).committed = s.committed := rfl
@[simp] theorem State.modTwin_latpos (a : Arch) (f : Twin → Twin) : (s.modTwin a f).latpos = s.latpos := rfl
@[simp] theorem State.modTwin_mode (a : Arch) (f : Twin → Twin) : (s.modTwin a f).mode = s.mode := rfl
@[simp] theorem State.modTwin_isl (a : Arch) (f : Twin → Twin) : (s.modTwin a f).isl = s.isl := rfl
@[simp] theorem State.modTwin_vital (a : Arch) (f : Twin → Twin) : (s.modTwin a f).vital = s.vital := rfl
@[simp] theorem State.modTwin_dyn (a : Arch) (f : Twin → Twin) : (s.modTwin a f).dyn = s.dyn := rfl
@[simp] theorem State.modTwin_pour (a : Arch) (f : Twin → Twin) : (s.modTwin a f).pour = s.pour := rfl
@[simp] theorem State.modTwin_net (a : Arch) (f : Twin → Twin) : (s.modTwin a f).net = s.net := rfl
@[simp] theorem State.modTwin_pwr (a : Arch) (f : Twin → Twin) : (s.modTwin a f).pwr = s.pwr := rfl
@[simp] theorem State.modTwin_cores (a : Arch) (f : Twin → Twin) : (s.modTwin a f).cores = s.cores := rfl
@[simp] theorem State.modTwin_lanes (a : Arch) (f : Twin → Twin) : (s.modTwin a f).lanes = s.lanes := rfl
@[simp] theorem State.modTwin_rxLinks (a : Arch) (f : Twin → Twin) : (s.modTwin a f).rxLinks = s.rxLinks := rfl
@[simp] theorem State.modTwin_txLinks (a : Arch) (f : Twin → Twin) : (s.modTwin a f).txLinks = s.txLinks := rfl
@[simp] theorem State.modTwin_straits (a : Arch) (f : Twin → Twin) : (s.modTwin a f).straits = s.straits := rfl
@[simp] theorem State.modTwin_lattice (a : Arch) (f : Twin → Twin) : (s.modTwin a f).lattice = s.lattice := rfl
@[simp] theorem State.modTwin_sprue (a : Arch) (f : Twin → Twin) : (s.modTwin a f).sprue = s.sprue := rfl
@[simp] theorem State.modTwin_riser (a : Arch) (f : Twin → Twin) : (s.modTwin a f).riser = s.riser := rfl
@[simp] theorem State.modTwin_harbour (a : Arch) (f : Twin → Twin) : (s.modTwin a f).harbour = s.harbour := rfl
@[simp] theorem State.modTwin_dma (a : Arch) (f : Twin → Twin) : (s.modTwin a f).dma = s.dma := rfl
@[simp] theorem State.modTwin_xlat (a : Arch) (f : Twin → Twin) : (s.modTwin a f).xlat = s.xlat := rfl
@[simp] theorem State.modTwin_shore (a : Arch) (f : Twin → Twin) : (s.modTwin a f).shore = s.shore := rfl
@[simp] theorem State.modTwin_holm (a : Arch) (f : Twin → Twin) : (s.modTwin a f).holm = s.holm := rfl
@[simp] theorem State.modTwin_ethTx (a : Arch) (f : Twin → Twin) : (s.modTwin a f).ethTx = s.ethTx := rfl
@[simp] theorem State.modTwin_events (a : Arch) (f : Twin → Twin) : (s.modTwin a f).events = s.events := rfl

/-! ### notify -/

@[simp] theorem State.notify_pending (x : Notice) : (s.notify x).pending = s.pending := by unfold State.notify; split <;> rfl
@[simp] theorem State.notify_fresh (x : Notice) : (s.notify x).fresh = s.fresh := by unfold State.notify; split <;> rfl
@[simp] theorem State.notify_gradeC (x : Notice) : (s.notify x).gradeC = s.gradeC := by unfold State.notify; split <;> rfl
@[simp] theorem State.notify_committed (x : Notice) : (s.notify x).committed = s.committed := by unfold State.notify; split <;> rfl
@[simp] theorem State.notify_latpos (x : Notice) : (s.notify x).latpos = s.latpos := by unfold State.notify; split <;> rfl
@[simp] theorem State.notify_mode (x : Notice) : (s.notify x).mode = s.mode := by unfold State.notify; split <;> rfl
@[simp] theorem State.notify_arch (x : Notice) : (s.notify x).arch = s.arch := by unfold State.notify; split <;> rfl
@[simp] theorem State.notify_isl (x : Notice) : (s.notify x).isl = s.isl := by unfold State.notify; split <;> rfl
@[simp] theorem State.notify_vital (x : Notice) : (s.notify x).vital = s.vital := by unfold State.notify; split <;> rfl
@[simp] theorem State.notify_dyn (x : Notice) : (s.notify x).dyn = s.dyn := by unfold State.notify; split <;> rfl
@[simp] theorem State.notify_pour (x : Notice) : (s.notify x).pour = s.pour := by unfold State.notify; split <;> rfl
@[simp] theorem State.notify_net (x : Notice) : (s.notify x).net = s.net := by unfold State.notify; split <;> rfl
@[simp] theorem State.notify_pwr (x : Notice) : (s.notify x).pwr = s.pwr := by unfold State.notify; split <;> rfl
@[simp] theorem State.notify_cores (x : Notice) : (s.notify x).cores = s.cores := by unfold State.notify; split <;> rfl
@[simp] theorem State.notify_lanes (x : Notice) : (s.notify x).lanes = s.lanes := by unfold State.notify; split <;> rfl
@[simp] theorem State.notify_rxLinks (x : Notice) : (s.notify x).rxLinks = s.rxLinks := by unfold State.notify; split <;> rfl
@[simp] theorem State.notify_txLinks (x : Notice) : (s.notify x).txLinks = s.txLinks := by unfold State.notify; split <;> rfl
@[simp] theorem State.notify_straits (x : Notice) : (s.notify x).straits = s.straits := by unfold State.notify; split <;> rfl
@[simp] theorem State.notify_lattice (x : Notice) : (s.notify x).lattice = s.lattice := by unfold State.notify; split <;> rfl
@[simp] theorem State.notify_sprue (x : Notice) : (s.notify x).sprue = s.sprue := by unfold State.notify; split <;> rfl
@[simp] theorem State.notify_riser (x : Notice) : (s.notify x).riser = s.riser := by unfold State.notify; split <;> rfl
@[simp] theorem State.notify_harbour (x : Notice) : (s.notify x).harbour = s.harbour := by unfold State.notify; split <;> rfl
@[simp] theorem State.notify_dma (x : Notice) : (s.notify x).dma = s.dma := by unfold State.notify; split <;> rfl
@[simp] theorem State.notify_xlat (x : Notice) : (s.notify x).xlat = s.xlat := by unfold State.notify; split <;> rfl
@[simp] theorem State.notify_shore (x : Notice) : (s.notify x).shore = s.shore := by unfold State.notify; split <;> rfl
@[simp] theorem State.notify_ethTx (x : Notice) : (s.notify x).ethTx = s.ethTx := by unfold State.notify; split <;> rfl
@[simp] theorem State.notify_events (x : Notice) : (s.notify x).events = s.events := by unfold State.notify; split <;> rfl

/-! ### modIsl -/

@[simp] theorem State.modIsl_pending (P : Isl) (f : IslSt → IslSt) : (s.modIsl P f).pending = s.pending := rfl
@[simp] theorem State.modIsl_fresh (P : Isl) (f : IslSt → IslSt) : (s.modIsl P f).fresh = s.fresh := rfl
@[simp] theorem State.modIsl_gradeC (P : Isl) (f : IslSt → IslSt) : (s.modIsl P f).gradeC = s.gradeC := rfl
@[simp] theorem State.modIsl_committed (P : Isl) (f : IslSt → IslSt) : (s.modIsl P f).committed = s.committed := rfl
@[simp] theorem State.modIsl_latpos (P : Isl) (f : IslSt → IslSt) : (s.modIsl P f).latpos = s.latpos := rfl
@[simp] theorem State.modIsl_mode (P : Isl) (f : IslSt → IslSt) : (s.modIsl P f).mode = s.mode := rfl
@[simp] theorem State.modIsl_arch (P : Isl) (f : IslSt → IslSt) : (s.modIsl P f).arch = s.arch := rfl
@[simp] theorem State.modIsl_isl (P : Isl) (f : IslSt → IslSt) : (s.modIsl P f).isl = vmod s.isl P f := rfl
@[simp] theorem State.modIsl_vital (P : Isl) (f : IslSt → IslSt) : (s.modIsl P f).vital = s.vital := rfl
@[simp] theorem State.modIsl_dyn (P : Isl) (f : IslSt → IslSt) : (s.modIsl P f).dyn = s.dyn := rfl
@[simp] theorem State.modIsl_pour (P : Isl) (f : IslSt → IslSt) : (s.modIsl P f).pour = s.pour := rfl
@[simp] theorem State.modIsl_net (P : Isl) (f : IslSt → IslSt) : (s.modIsl P f).net = s.net := rfl
@[simp] theorem State.modIsl_pwr (P : Isl) (f : IslSt → IslSt) : (s.modIsl P f).pwr = s.pwr := rfl
@[simp] theorem State.modIsl_cores (P : Isl) (f : IslSt → IslSt) : (s.modIsl P f).cores = s.cores := rfl
@[simp] theorem State.modIsl_lanes (P : Isl) (f : IslSt → IslSt) : (s.modIsl P f).lanes = s.lanes := rfl
@[simp] theorem State.modIsl_rxLinks (P : Isl) (f : IslSt → IslSt) : (s.modIsl P f).rxLinks = s.rxLinks := rfl
@[simp] theorem State.modIsl_txLinks (P : Isl) (f : IslSt → IslSt) : (s.modIsl P f).txLinks = s.txLinks := rfl
@[simp] theorem State.modIsl_straits (P : Isl) (f : IslSt → IslSt) : (s.modIsl P f).straits = s.straits := rfl
@[simp] theorem State.modIsl_lattice (P : Isl) (f : IslSt → IslSt) : (s.modIsl P f).lattice = s.lattice := rfl
@[simp] theorem State.modIsl_sprue (P : Isl) (f : IslSt → IslSt) : (s.modIsl P f).sprue = s.sprue := rfl
@[simp] theorem State.modIsl_riser (P : Isl) (f : IslSt → IslSt) : (s.modIsl P f).riser = s.riser := rfl
@[simp] theorem State.modIsl_harbour (P : Isl) (f : IslSt → IslSt) : (s.modIsl P f).harbour = s.harbour := rfl
@[simp] theorem State.modIsl_dma (P : Isl) (f : IslSt → IslSt) : (s.modIsl P f).dma = s.dma := rfl
@[simp] theorem State.modIsl_xlat (P : Isl) (f : IslSt → IslSt) : (s.modIsl P f).xlat = s.xlat := rfl
@[simp] theorem State.modIsl_shore (P : Isl) (f : IslSt → IslSt) : (s.modIsl P f).shore = s.shore := rfl
@[simp] theorem State.modIsl_holm (P : Isl) (f : IslSt → IslSt) : (s.modIsl P f).holm = s.holm := rfl
@[simp] theorem State.modIsl_ethTx (P : Isl) (f : IslSt → IslSt) : (s.modIsl P f).ethTx = s.ethTx := rfl
@[simp] theorem State.modIsl_events (P : Isl) (f : IslSt → IslSt) : (s.modIsl P f).events = s.events := rfl

/-! ### setCore -/

@[simp] theorem State.setCore_pending (n : CoreId) (c : Core) : (s.setCore n c).pending = s.pending := rfl
@[simp] theorem State.setCore_fresh (n : CoreId) (c : Core) : (s.setCore n c).fresh = s.fresh := rfl
@[simp] theorem State.setCore_gradeC (n : CoreId) (c : Core) : (s.setCore n c).gradeC = s.gradeC := rfl
@[simp] theorem State.setCore_committed (n : CoreId) (c : Core) : (s.setCore n c).committed = s.committed := rfl
@[simp] theorem State.setCore_latpos (n : CoreId) (c : Core) : (s.setCore n c).latpos = s.latpos := rfl
@[simp] theorem State.setCore_mode (n : CoreId) (c : Core) : (s.setCore n c).mode = s.mode := rfl
@[simp] theorem State.setCore_arch (n : CoreId) (c : Core) : (s.setCore n c).arch = s.arch := rfl
@[simp] theorem State.setCore_isl (n : CoreId) (c : Core) : (s.setCore n c).isl = s.isl := rfl
@[simp] theorem State.setCore_vital (n : CoreId) (c : Core) : (s.setCore n c).vital = s.vital := rfl
@[simp] theorem State.setCore_dyn (n : CoreId) (c : Core) : (s.setCore n c).dyn = s.dyn := rfl
@[simp] theorem State.setCore_pour (n : CoreId) (c : Core) : (s.setCore n c).pour = s.pour := rfl
@[simp] theorem State.setCore_net (n : CoreId) (c : Core) : (s.setCore n c).net = s.net := rfl
@[simp] theorem State.setCore_pwr (n : CoreId) (c : Core) : (s.setCore n c).pwr = s.pwr := rfl
@[simp] theorem State.setCore_cores (n : CoreId) (c : Core) : (s.setCore n c).cores = vset s.cores n c := rfl
@[simp] theorem State.setCore_lanes (n : CoreId) (c : Core) : (s.setCore n c).lanes = s.lanes := rfl
@[simp] theorem State.setCore_rxLinks (n : CoreId) (c : Core) : (s.setCore n c).rxLinks = s.rxLinks := rfl
@[simp] theorem State.setCore_txLinks (n : CoreId) (c : Core) : (s.setCore n c).txLinks = s.txLinks := rfl
@[simp] theorem State.setCore_straits (n : CoreId) (c : Core) : (s.setCore n c).straits = s.straits := rfl
@[simp] theorem State.setCore_lattice (n : CoreId) (c : Core) : (s.setCore n c).lattice = s.lattice := rfl
@[simp] theorem State.setCore_sprue (n : CoreId) (c : Core) : (s.setCore n c).sprue = s.sprue := rfl
@[simp] theorem State.setCore_riser (n : CoreId) (c : Core) : (s.setCore n c).riser = s.riser := rfl
@[simp] theorem State.setCore_harbour (n : CoreId) (c : Core) : (s.setCore n c).harbour = s.harbour := rfl
@[simp] theorem State.setCore_dma (n : CoreId) (c : Core) : (s.setCore n c).dma = s.dma := rfl
@[simp] theorem State.setCore_xlat (n : CoreId) (c : Core) : (s.setCore n c).xlat = s.xlat := rfl
@[simp] theorem State.setCore_shore (n : CoreId) (c : Core) : (s.setCore n c).shore = s.shore := rfl
@[simp] theorem State.setCore_holm (n : CoreId) (c : Core) : (s.setCore n c).holm = s.holm := rfl
@[simp] theorem State.setCore_ethTx (n : CoreId) (c : Core) : (s.setCore n c).ethTx = s.ethTx := rfl
@[simp] theorem State.setCore_events (n : CoreId) (c : Core) : (s.setCore n c).events = s.events := rfl

/-! ### raiseAt -/

@[simp] theorem State.raiseAt_pending (n : CoreId) (i : Nat) : (s.raiseAt n i).pending = s.pending := rfl
@[simp] theorem State.raiseAt_fresh (n : CoreId) (i : Nat) : (s.raiseAt n i).fresh = s.fresh := rfl
@[simp] theorem State.raiseAt_gradeC (n : CoreId) (i : Nat) : (s.raiseAt n i).gradeC = s.gradeC := rfl
@[simp] theorem State.raiseAt_committed (n : CoreId) (i : Nat) : (s.raiseAt n i).committed = s.committed := rfl
@[simp] theorem State.raiseAt_latpos (n : CoreId) (i : Nat) : (s.raiseAt n i).latpos = s.latpos := rfl
@[simp] theorem State.raiseAt_mode (n : CoreId) (i : Nat) : (s.raiseAt n i).mode = s.mode := rfl
@[simp] theorem State.raiseAt_arch (n : CoreId) (i : Nat) : (s.raiseAt n i).arch = s.arch := rfl
@[simp] theorem State.raiseAt_isl (n : CoreId) (i : Nat) : (s.raiseAt n i).isl = s.isl := rfl
@[simp] theorem State.raiseAt_vital (n : CoreId) (i : Nat) : (s.raiseAt n i).vital = s.vital := rfl
@[simp] theorem State.raiseAt_dyn (n : CoreId) (i : Nat) : (s.raiseAt n i).dyn = s.dyn := rfl
@[simp] theorem State.raiseAt_pour (n : CoreId) (i : Nat) : (s.raiseAt n i).pour = s.pour := rfl
@[simp] theorem State.raiseAt_net (n : CoreId) (i : Nat) : (s.raiseAt n i).net = s.net := rfl
@[simp] theorem State.raiseAt_pwr (n : CoreId) (i : Nat) : (s.raiseAt n i).pwr = s.pwr := rfl
@[simp] theorem State.raiseAt_lanes (n : CoreId) (i : Nat) : (s.raiseAt n i).lanes = s.lanes := rfl
@[simp] theorem State.raiseAt_rxLinks (n : CoreId) (i : Nat) : (s.raiseAt n i).rxLinks = s.rxLinks := rfl
@[simp] theorem State.raiseAt_txLinks (n : CoreId) (i : Nat) : (s.raiseAt n i).txLinks = s.txLinks := rfl
@[simp] theorem State.raiseAt_straits (n : CoreId) (i : Nat) : (s.raiseAt n i).straits = s.straits := rfl
@[simp] theorem State.raiseAt_lattice (n : CoreId) (i : Nat) : (s.raiseAt n i).lattice = s.lattice := rfl
@[simp] theorem State.raiseAt_sprue (n : CoreId) (i : Nat) : (s.raiseAt n i).sprue = s.sprue := rfl
@[simp] theorem State.raiseAt_riser (n : CoreId) (i : Nat) : (s.raiseAt n i).riser = s.riser := rfl
@[simp] theorem State.raiseAt_harbour (n : CoreId) (i : Nat) : (s.raiseAt n i).harbour = s.harbour := rfl
@[simp] theorem State.raiseAt_dma (n : CoreId) (i : Nat) : (s.raiseAt n i).dma = s.dma := rfl
@[simp] theorem State.raiseAt_xlat (n : CoreId) (i : Nat) : (s.raiseAt n i).xlat = s.xlat := rfl
@[simp] theorem State.raiseAt_shore (n : CoreId) (i : Nat) : (s.raiseAt n i).shore = s.shore := rfl
@[simp] theorem State.raiseAt_holm (n : CoreId) (i : Nat) : (s.raiseAt n i).holm = s.holm := rfl
@[simp] theorem State.raiseAt_ethTx (n : CoreId) (i : Nat) : (s.raiseAt n i).ethTx = s.ethTx := rfl
@[simp] theorem State.raiseAt_events (n : CoreId) (i : Nat) : (s.raiseAt n i).events = s.events := rfl

/-! ### irqTo and raiseAll -/

/-- A fold of steps that keep a part of the state keeps it. -/
theorem foldl_keep {α β : Type} (f : State → β) (g : State → α → State) (h : ∀ t x, f (g t x) = f t) (l : List α) :
    f (l.foldl g s) = f s := by
  induction l generalizing s with
  | nil => rfl
  | cons x l ih => rw [List.foldl_cons, ih, h]

/-- An IRQ packet is counted, then latched by its core or dropped: nothing but the cores and the sound-network counters changes. -/
theorem State.irqTo_frame (n : CoreId) (i : Nat) : ∃ c k, s.irqTo n i = { s with cores := c, net := k } := by
  unfold State.irqTo
  dsimp only
  split <;> exact ⟨_, _, rfl⟩

@[simp] theorem State.irqTo_pending (n : CoreId) (i : Nat) : (s.irqTo n i).pending = s.pending := by obtain ⟨_, _, h⟩ := State.irqTo_frame s n i; rw [h]
@[simp] theorem State.irqTo_fresh (n : CoreId) (i : Nat) : (s.irqTo n i).fresh = s.fresh := by obtain ⟨_, _, h⟩ := State.irqTo_frame s n i; rw [h]
@[simp] theorem State.irqTo_gradeC (n : CoreId) (i : Nat) : (s.irqTo n i).gradeC = s.gradeC := by obtain ⟨_, _, h⟩ := State.irqTo_frame s n i; rw [h]
@[simp] theorem State.irqTo_committed (n : CoreId) (i : Nat) : (s.irqTo n i).committed = s.committed := by obtain ⟨_, _, h⟩ := State.irqTo_frame s n i; rw [h]
@[simp] theorem State.irqTo_latpos (n : CoreId) (i : Nat) : (s.irqTo n i).latpos = s.latpos := by obtain ⟨_, _, h⟩ := State.irqTo_frame s n i; rw [h]
@[simp] theorem State.irqTo_mode (n : CoreId) (i : Nat) : (s.irqTo n i).mode = s.mode := by obtain ⟨_, _, h⟩ := State.irqTo_frame s n i; rw [h]
@[simp] theorem State.irqTo_arch (n : CoreId) (i : Nat) : (s.irqTo n i).arch = s.arch := by obtain ⟨_, _, h⟩ := State.irqTo_frame s n i; rw [h]
@[simp] theorem State.irqTo_isl (n : CoreId) (i : Nat) : (s.irqTo n i).isl = s.isl := by obtain ⟨_, _, h⟩ := State.irqTo_frame s n i; rw [h]
@[simp] theorem State.irqTo_vital (n : CoreId) (i : Nat) : (s.irqTo n i).vital = s.vital := by obtain ⟨_, _, h⟩ := State.irqTo_frame s n i; rw [h]
@[simp] theorem State.irqTo_dyn (n : CoreId) (i : Nat) : (s.irqTo n i).dyn = s.dyn := by obtain ⟨_, _, h⟩ := State.irqTo_frame s n i; rw [h]
@[simp] theorem State.irqTo_pour (n : CoreId) (i : Nat) : (s.irqTo n i).pour = s.pour := by obtain ⟨_, _, h⟩ := State.irqTo_frame s n i; rw [h]
@[simp] theorem State.irqTo_pwr (n : CoreId) (i : Nat) : (s.irqTo n i).pwr = s.pwr := by obtain ⟨_, _, h⟩ := State.irqTo_frame s n i; rw [h]
@[simp] theorem State.irqTo_lanes (n : CoreId) (i : Nat) : (s.irqTo n i).lanes = s.lanes := by obtain ⟨_, _, h⟩ := State.irqTo_frame s n i; rw [h]
@[simp] theorem State.irqTo_rxLinks (n : CoreId) (i : Nat) : (s.irqTo n i).rxLinks = s.rxLinks := by obtain ⟨_, _, h⟩ := State.irqTo_frame s n i; rw [h]
@[simp] theorem State.irqTo_txLinks (n : CoreId) (i : Nat) : (s.irqTo n i).txLinks = s.txLinks := by obtain ⟨_, _, h⟩ := State.irqTo_frame s n i; rw [h]
@[simp] theorem State.irqTo_straits (n : CoreId) (i : Nat) : (s.irqTo n i).straits = s.straits := by obtain ⟨_, _, h⟩ := State.irqTo_frame s n i; rw [h]
@[simp] theorem State.irqTo_lattice (n : CoreId) (i : Nat) : (s.irqTo n i).lattice = s.lattice := by obtain ⟨_, _, h⟩ := State.irqTo_frame s n i; rw [h]
@[simp] theorem State.irqTo_sprue (n : CoreId) (i : Nat) : (s.irqTo n i).sprue = s.sprue := by obtain ⟨_, _, h⟩ := State.irqTo_frame s n i; rw [h]
@[simp] theorem State.irqTo_riser (n : CoreId) (i : Nat) : (s.irqTo n i).riser = s.riser := by obtain ⟨_, _, h⟩ := State.irqTo_frame s n i; rw [h]
@[simp] theorem State.irqTo_harbour (n : CoreId) (i : Nat) : (s.irqTo n i).harbour = s.harbour := by obtain ⟨_, _, h⟩ := State.irqTo_frame s n i; rw [h]
@[simp] theorem State.irqTo_dma (n : CoreId) (i : Nat) : (s.irqTo n i).dma = s.dma := by obtain ⟨_, _, h⟩ := State.irqTo_frame s n i; rw [h]
@[simp] theorem State.irqTo_xlat (n : CoreId) (i : Nat) : (s.irqTo n i).xlat = s.xlat := by obtain ⟨_, _, h⟩ := State.irqTo_frame s n i; rw [h]
@[simp] theorem State.irqTo_shore (n : CoreId) (i : Nat) : (s.irqTo n i).shore = s.shore := by obtain ⟨_, _, h⟩ := State.irqTo_frame s n i; rw [h]
@[simp] theorem State.irqTo_holm (n : CoreId) (i : Nat) : (s.irqTo n i).holm = s.holm := by obtain ⟨_, _, h⟩ := State.irqTo_frame s n i; rw [h]
@[simp] theorem State.irqTo_ethTx (n : CoreId) (i : Nat) : (s.irqTo n i).ethTx = s.ethTx := by obtain ⟨_, _, h⟩ := State.irqTo_frame s n i; rw [h]
@[simp] theorem State.irqTo_events (n : CoreId) (i : Nat) : (s.irqTo n i).events = s.events := by obtain ⟨_, _, h⟩ := State.irqTo_frame s n i; rw [h]

@[simp] theorem State.raiseAll_pending (i : Nat) : (s.raiseAll i).pending = s.pending := foldl_keep s State.pending _ (fun t n => State.irqTo_pending t n i) _
@[simp] theorem State.raiseAll_fresh (i : Nat) : (s.raiseAll i).fresh = s.fresh := foldl_keep s State.fresh _ (fun t n => State.irqTo_fresh t n i) _
@[simp] theorem State.raiseAll_gradeC (i : Nat) : (s.raiseAll i).gradeC = s.gradeC := foldl_keep s State.gradeC _ (fun t n => State.irqTo_gradeC t n i) _
@[simp] theorem State.raiseAll_committed (i : Nat) : (s.raiseAll i).committed = s.committed := foldl_keep s State.committed _ (fun t n => State.irqTo_committed t n i) _
@[simp] theorem State.raiseAll_latpos (i : Nat) : (s.raiseAll i).latpos = s.latpos := foldl_keep s State.latpos _ (fun t n => State.irqTo_latpos t n i) _
@[simp] theorem State.raiseAll_mode (i : Nat) : (s.raiseAll i).mode = s.mode := foldl_keep s State.mode _ (fun t n => State.irqTo_mode t n i) _
@[simp] theorem State.raiseAll_arch (i : Nat) : (s.raiseAll i).arch = s.arch := foldl_keep s State.arch _ (fun t n => State.irqTo_arch t n i) _
@[simp] theorem State.raiseAll_isl (i : Nat) : (s.raiseAll i).isl = s.isl := foldl_keep s State.isl _ (fun t n => State.irqTo_isl t n i) _
@[simp] theorem State.raiseAll_vital (i : Nat) : (s.raiseAll i).vital = s.vital := foldl_keep s State.vital _ (fun t n => State.irqTo_vital t n i) _
@[simp] theorem State.raiseAll_dyn (i : Nat) : (s.raiseAll i).dyn = s.dyn := foldl_keep s State.dyn _ (fun t n => State.irqTo_dyn t n i) _
@[simp] theorem State.raiseAll_pour (i : Nat) : (s.raiseAll i).pour = s.pour := foldl_keep s State.pour _ (fun t n => State.irqTo_pour t n i) _
@[simp] theorem State.raiseAll_pwr (i : Nat) : (s.raiseAll i).pwr = s.pwr := foldl_keep s State.pwr _ (fun t n => State.irqTo_pwr t n i) _
@[simp] theorem State.raiseAll_lanes (i : Nat) : (s.raiseAll i).lanes = s.lanes := foldl_keep s State.lanes _ (fun t n => State.irqTo_lanes t n i) _
@[simp] theorem State.raiseAll_rxLinks (i : Nat) : (s.raiseAll i).rxLinks = s.rxLinks := foldl_keep s State.rxLinks _ (fun t n => State.irqTo_rxLinks t n i) _
@[simp] theorem State.raiseAll_txLinks (i : Nat) : (s.raiseAll i).txLinks = s.txLinks := foldl_keep s State.txLinks _ (fun t n => State.irqTo_txLinks t n i) _
@[simp] theorem State.raiseAll_straits (i : Nat) : (s.raiseAll i).straits = s.straits := foldl_keep s State.straits _ (fun t n => State.irqTo_straits t n i) _
@[simp] theorem State.raiseAll_lattice (i : Nat) : (s.raiseAll i).lattice = s.lattice := foldl_keep s State.lattice _ (fun t n => State.irqTo_lattice t n i) _
@[simp] theorem State.raiseAll_sprue (i : Nat) : (s.raiseAll i).sprue = s.sprue := foldl_keep s State.sprue _ (fun t n => State.irqTo_sprue t n i) _
@[simp] theorem State.raiseAll_riser (i : Nat) : (s.raiseAll i).riser = s.riser := foldl_keep s State.riser _ (fun t n => State.irqTo_riser t n i) _
@[simp] theorem State.raiseAll_harbour (i : Nat) : (s.raiseAll i).harbour = s.harbour := foldl_keep s State.harbour _ (fun t n => State.irqTo_harbour t n i) _
@[simp] theorem State.raiseAll_dma (i : Nat) : (s.raiseAll i).dma = s.dma := foldl_keep s State.dma _ (fun t n => State.irqTo_dma t n i) _
@[simp] theorem State.raiseAll_xlat (i : Nat) : (s.raiseAll i).xlat = s.xlat := foldl_keep s State.xlat _ (fun t n => State.irqTo_xlat t n i) _
@[simp] theorem State.raiseAll_shore (i : Nat) : (s.raiseAll i).shore = s.shore := foldl_keep s State.shore _ (fun t n => State.irqTo_shore t n i) _
@[simp] theorem State.raiseAll_holm (i : Nat) : (s.raiseAll i).holm = s.holm := foldl_keep s State.holm _ (fun t n => State.irqTo_holm t n i) _
@[simp] theorem State.raiseAll_ethTx (i : Nat) : (s.raiseAll i).ethTx = s.ethTx := foldl_keep s State.ethTx _ (fun t n => State.irqTo_ethTx t n i) _
@[simp] theorem State.raiseAll_events (i : Nat) : (s.raiseAll i).events = s.events := foldl_keep s State.events _ (fun t n => State.irqTo_events t n i) _

/-! ### event -/

@[simp] theorem State.event_pending (k : EventKind) (d : List Byte) : (s.event k d).pending = s.pending := rfl
@[simp] theorem State.event_fresh (k : EventKind) (d : List Byte) : (s.event k d).fresh = s.fresh := rfl
@[simp] theorem State.event_gradeC (k : EventKind) (d : List Byte) : (s.event k d).gradeC = s.gradeC := rfl
@[simp] theorem State.event_committed (k : EventKind) (d : List Byte) : (s.event k d).committed = s.committed := rfl
@[simp] theorem State.event_latpos (k : EventKind) (d : List Byte) : (s.event k d).latpos = s.latpos := rfl
@[simp] theorem State.event_mode (k : EventKind) (d : List Byte) : (s.event k d).mode = s.mode := rfl
@[simp] theorem State.event_arch (k : EventKind) (d : List Byte) : (s.event k d).arch = s.arch := rfl
@[simp] theorem State.event_isl (k : EventKind) (d : List Byte) : (s.event k d).isl = s.isl := rfl
@[simp] theorem State.event_vital (k : EventKind) (d : List Byte) : (s.event k d).vital = s.vital := rfl
@[simp] theorem State.event_dyn (k : EventKind) (d : List Byte) : (s.event k d).dyn = s.dyn := rfl
@[simp] theorem State.event_pour (k : EventKind) (d : List Byte) : (s.event k d).pour = s.pour := rfl
@[simp] theorem State.event_net (k : EventKind) (d : List Byte) : (s.event k d).net = s.net := rfl
@[simp] theorem State.event_pwr (k : EventKind) (d : List Byte) : (s.event k d).pwr = s.pwr := rfl
@[simp] theorem State.event_cores (k : EventKind) (d : List Byte) : (s.event k d).cores = s.cores := rfl
@[simp] theorem State.event_lanes (k : EventKind) (d : List Byte) : (s.event k d).lanes = s.lanes := rfl
@[simp] theorem State.event_rxLinks (k : EventKind) (d : List Byte) : (s.event k d).rxLinks = s.rxLinks := rfl
@[simp] theorem State.event_txLinks (k : EventKind) (d : List Byte) : (s.event k d).txLinks = s.txLinks := rfl
@[simp] theorem State.event_straits (k : EventKind) (d : List Byte) : (s.event k d).straits = s.straits := rfl
@[simp] theorem State.event_lattice (k : EventKind) (d : List Byte) : (s.event k d).lattice = s.lattice := rfl
@[simp] theorem State.event_sprue (k : EventKind) (d : List Byte) : (s.event k d).sprue = s.sprue := rfl
@[simp] theorem State.event_riser (k : EventKind) (d : List Byte) : (s.event k d).riser = s.riser := rfl
@[simp] theorem State.event_harbour (k : EventKind) (d : List Byte) : (s.event k d).harbour = s.harbour := rfl
@[simp] theorem State.event_dma (k : EventKind) (d : List Byte) : (s.event k d).dma = s.dma := rfl
@[simp] theorem State.event_xlat (k : EventKind) (d : List Byte) : (s.event k d).xlat = s.xlat := rfl
@[simp] theorem State.event_shore (k : EventKind) (d : List Byte) : (s.event k d).shore = s.shore := rfl
@[simp] theorem State.event_holm (k : EventKind) (d : List Byte) : (s.event k d).holm = s.holm := rfl
@[simp] theorem State.event_ethTx (k : EventKind) (d : List Byte) : (s.event k d).ethTx = s.ethTx := rfl

/-! ### respond -/

@[simp] theorem State.respond_pending (r : Response) : (s.respond r).pending = s.pending := rfl
@[simp] theorem State.respond_fresh (r : Response) : (s.respond r).fresh = s.fresh := rfl
@[simp] theorem State.respond_gradeC (r : Response) : (s.respond r).gradeC = s.gradeC := rfl
@[simp] theorem State.respond_committed (r : Response) : (s.respond r).committed = s.committed := rfl
@[simp] theorem State.respond_latpos (r : Response) : (s.respond r).latpos = s.latpos := rfl
@[simp] theorem State.respond_mode (r : Response) : (s.respond r).mode = s.mode := rfl
@[simp] theorem State.respond_arch (r : Response) : (s.respond r).arch = s.arch := rfl
@[simp] theorem State.respond_isl (r : Response) : (s.respond r).isl = s.isl := rfl
@[simp] theorem State.respond_vital (r : Response) : (s.respond r).vital = s.vital := rfl
@[simp] theorem State.respond_dyn (r : Response) : (s.respond r).dyn = s.dyn := rfl
@[simp] theorem State.respond_pour (r : Response) : (s.respond r).pour = s.pour := rfl
@[simp] theorem State.respond_net (r : Response) : (s.respond r).net = { s.net with responses := s.net.responses ++ [r] } := rfl
@[simp] theorem State.respond_pwr (r : Response) : (s.respond r).pwr = s.pwr := rfl
@[simp] theorem State.respond_cores (r : Response) : (s.respond r).cores = s.cores := rfl
@[simp] theorem State.respond_lanes (r : Response) : (s.respond r).lanes = s.lanes := rfl
@[simp] theorem State.respond_rxLinks (r : Response) : (s.respond r).rxLinks = s.rxLinks := rfl
@[simp] theorem State.respond_txLinks (r : Response) : (s.respond r).txLinks = s.txLinks := rfl
@[simp] theorem State.respond_straits (r : Response) : (s.respond r).straits = s.straits := rfl
@[simp] theorem State.respond_lattice (r : Response) : (s.respond r).lattice = s.lattice := rfl
@[simp] theorem State.respond_sprue (r : Response) : (s.respond r).sprue = s.sprue := rfl
@[simp] theorem State.respond_riser (r : Response) : (s.respond r).riser = s.riser := rfl
@[simp] theorem State.respond_harbour (r : Response) : (s.respond r).harbour = s.harbour := rfl
@[simp] theorem State.respond_dma (r : Response) : (s.respond r).dma = s.dma := rfl
@[simp] theorem State.respond_xlat (r : Response) : (s.respond r).xlat = s.xlat := rfl
@[simp] theorem State.respond_shore (r : Response) : (s.respond r).shore = s.shore := rfl
@[simp] theorem State.respond_holm (r : Response) : (s.respond r).holm = s.holm := rfl
@[simp] theorem State.respond_ethTx (r : Response) : (s.respond r).ethTx = s.ethTx := rfl
@[simp] theorem State.respond_events (r : Response) : (s.respond r).events = s.events := rfl

/-! ### modDma -/

@[simp] theorem State.modDma_pending (c : Fin 16) (f : DmaChan → DmaChan) : (s.modDma c f).pending = s.pending := rfl
@[simp] theorem State.modDma_fresh (c : Fin 16) (f : DmaChan → DmaChan) : (s.modDma c f).fresh = s.fresh := rfl
@[simp] theorem State.modDma_gradeC (c : Fin 16) (f : DmaChan → DmaChan) : (s.modDma c f).gradeC = s.gradeC := rfl
@[simp] theorem State.modDma_committed (c : Fin 16) (f : DmaChan → DmaChan) : (s.modDma c f).committed = s.committed := rfl
@[simp] theorem State.modDma_latpos (c : Fin 16) (f : DmaChan → DmaChan) : (s.modDma c f).latpos = s.latpos := rfl
@[simp] theorem State.modDma_mode (c : Fin 16) (f : DmaChan → DmaChan) : (s.modDma c f).mode = s.mode := rfl
@[simp] theorem State.modDma_arch (c : Fin 16) (f : DmaChan → DmaChan) : (s.modDma c f).arch = s.arch := rfl
@[simp] theorem State.modDma_isl (c : Fin 16) (f : DmaChan → DmaChan) : (s.modDma c f).isl = s.isl := rfl
@[simp] theorem State.modDma_vital (c : Fin 16) (f : DmaChan → DmaChan) : (s.modDma c f).vital = s.vital := rfl
@[simp] theorem State.modDma_dyn (c : Fin 16) (f : DmaChan → DmaChan) : (s.modDma c f).dyn = s.dyn := rfl
@[simp] theorem State.modDma_pour (c : Fin 16) (f : DmaChan → DmaChan) : (s.modDma c f).pour = s.pour := rfl
@[simp] theorem State.modDma_net (c : Fin 16) (f : DmaChan → DmaChan) : (s.modDma c f).net = s.net := rfl
@[simp] theorem State.modDma_pwr (c : Fin 16) (f : DmaChan → DmaChan) : (s.modDma c f).pwr = s.pwr := rfl
@[simp] theorem State.modDma_cores (c : Fin 16) (f : DmaChan → DmaChan) : (s.modDma c f).cores = s.cores := rfl
@[simp] theorem State.modDma_lanes (c : Fin 16) (f : DmaChan → DmaChan) : (s.modDma c f).lanes = s.lanes := rfl
@[simp] theorem State.modDma_rxLinks (c : Fin 16) (f : DmaChan → DmaChan) : (s.modDma c f).rxLinks = s.rxLinks := rfl
@[simp] theorem State.modDma_txLinks (c : Fin 16) (f : DmaChan → DmaChan) : (s.modDma c f).txLinks = s.txLinks := rfl
@[simp] theorem State.modDma_straits (c : Fin 16) (f : DmaChan → DmaChan) : (s.modDma c f).straits = s.straits := rfl
@[simp] theorem State.modDma_lattice (c : Fin 16) (f : DmaChan → DmaChan) : (s.modDma c f).lattice = s.lattice := rfl
@[simp] theorem State.modDma_sprue (c : Fin 16) (f : DmaChan → DmaChan) : (s.modDma c f).sprue = s.sprue := rfl
@[simp] theorem State.modDma_riser (c : Fin 16) (f : DmaChan → DmaChan) : (s.modDma c f).riser = s.riser := rfl
@[simp] theorem State.modDma_harbour (c : Fin 16) (f : DmaChan → DmaChan) : (s.modDma c f).harbour = s.harbour := rfl
@[simp] theorem State.modDma_dma (c : Fin 16) (f : DmaChan → DmaChan) : (s.modDma c f).dma = vmod s.dma c f := rfl
@[simp] theorem State.modDma_xlat (c : Fin 16) (f : DmaChan → DmaChan) : (s.modDma c f).xlat = s.xlat := rfl
@[simp] theorem State.modDma_shore (c : Fin 16) (f : DmaChan → DmaChan) : (s.modDma c f).shore = s.shore := rfl
@[simp] theorem State.modDma_holm (c : Fin 16) (f : DmaChan → DmaChan) : (s.modDma c f).holm = s.holm := rfl
@[simp] theorem State.modDma_ethTx (c : Fin 16) (f : DmaChan → DmaChan) : (s.modDma c f).ethTx = s.ethTx := rfl
@[simp] theorem State.modDma_events (c : Fin 16) (f : DmaChan → DmaChan) : (s.modDma c f).events = s.events := rfl

/-! ### modBank -/

@[simp] theorem State.modBank_pending (b : Fin 16) (f : Bank → Bank) : (s.modBank b f).pending = s.pending := rfl
@[simp] theorem State.modBank_fresh (b : Fin 16) (f : Bank → Bank) : (s.modBank b f).fresh = s.fresh := rfl
@[simp] theorem State.modBank_gradeC (b : Fin 16) (f : Bank → Bank) : (s.modBank b f).gradeC = s.gradeC := rfl
@[simp] theorem State.modBank_committed (b : Fin 16) (f : Bank → Bank) : (s.modBank b f).committed = s.committed := rfl
@[simp] theorem State.modBank_latpos (b : Fin 16) (f : Bank → Bank) : (s.modBank b f).latpos = s.latpos := rfl
@[simp] theorem State.modBank_mode (b : Fin 16) (f : Bank → Bank) : (s.modBank b f).mode = s.mode := rfl
@[simp] theorem State.modBank_arch (b : Fin 16) (f : Bank → Bank) : (s.modBank b f).arch = s.arch := rfl
@[simp] theorem State.modBank_isl (b : Fin 16) (f : Bank → Bank) : (s.modBank b f).isl = s.isl := rfl
@[simp] theorem State.modBank_vital (b : Fin 16) (f : Bank → Bank) : (s.modBank b f).vital = s.vital := rfl
@[simp] theorem State.modBank_dyn (b : Fin 16) (f : Bank → Bank) : (s.modBank b f).dyn = s.dyn := rfl
@[simp] theorem State.modBank_pour (b : Fin 16) (f : Bank → Bank) : (s.modBank b f).pour = s.pour := rfl
@[simp] theorem State.modBank_net (b : Fin 16) (f : Bank → Bank) : (s.modBank b f).net = s.net := rfl
@[simp] theorem State.modBank_pwr (b : Fin 16) (f : Bank → Bank) : (s.modBank b f).pwr = s.pwr := rfl
@[simp] theorem State.modBank_cores (b : Fin 16) (f : Bank → Bank) : (s.modBank b f).cores = s.cores := rfl
@[simp] theorem State.modBank_lanes (b : Fin 16) (f : Bank → Bank) : (s.modBank b f).lanes = s.lanes := rfl
@[simp] theorem State.modBank_rxLinks (b : Fin 16) (f : Bank → Bank) : (s.modBank b f).rxLinks = s.rxLinks := rfl
@[simp] theorem State.modBank_txLinks (b : Fin 16) (f : Bank → Bank) : (s.modBank b f).txLinks = s.txLinks := rfl
@[simp] theorem State.modBank_straits (b : Fin 16) (f : Bank → Bank) : (s.modBank b f).straits = s.straits := rfl
@[simp] theorem State.modBank_lattice (b : Fin 16) (f : Bank → Bank) : (s.modBank b f).lattice = s.lattice := rfl
@[simp] theorem State.modBank_sprue (b : Fin 16) (f : Bank → Bank) : (s.modBank b f).sprue = s.sprue := rfl
@[simp] theorem State.modBank_riser (b : Fin 16) (f : Bank → Bank) : (s.modBank b f).riser = s.riser := rfl
@[simp] theorem State.modBank_harbour (b : Fin 16) (f : Bank → Bank) : (s.modBank b f).harbour = { s.harbour with banks := vmod s.harbour.banks b f } := rfl
@[simp] theorem State.modBank_dma (b : Fin 16) (f : Bank → Bank) : (s.modBank b f).dma = s.dma := rfl
@[simp] theorem State.modBank_xlat (b : Fin 16) (f : Bank → Bank) : (s.modBank b f).xlat = s.xlat := rfl
@[simp] theorem State.modBank_shore (b : Fin 16) (f : Bank → Bank) : (s.modBank b f).shore = s.shore := rfl
@[simp] theorem State.modBank_holm (b : Fin 16) (f : Bank → Bank) : (s.modBank b f).holm = s.holm := rfl
@[simp] theorem State.modBank_ethTx (b : Fin 16) (f : Bank → Bank) : (s.modBank b f).ethTx = s.ethTx := rfl
@[simp] theorem State.modBank_events (b : Fin 16) (f : Bank → Bank) : (s.modBank b f).events = s.events := rfl

/-! ### modLane -/

@[simp] theorem State.modLane_pending (l : Fin 16) (f : Lane → Lane) : (s.modLane l f).pending = s.pending := rfl
@[simp] theorem State.modLane_fresh (l : Fin 16) (f : Lane → Lane) : (s.modLane l f).fresh = s.fresh := rfl
@[simp] theorem State.modLane_gradeC (l : Fin 16) (f : Lane → Lane) : (s.modLane l f).gradeC = s.gradeC := rfl
@[simp] theorem State.modLane_committed (l : Fin 16) (f : Lane → Lane) : (s.modLane l f).committed = s.committed := rfl
@[simp] theorem State.modLane_latpos (l : Fin 16) (f : Lane → Lane) : (s.modLane l f).latpos = s.latpos := rfl
@[simp] theorem State.modLane_mode (l : Fin 16) (f : Lane → Lane) : (s.modLane l f).mode = s.mode := rfl
@[simp] theorem State.modLane_arch (l : Fin 16) (f : Lane → Lane) : (s.modLane l f).arch = s.arch := rfl
@[simp] theorem State.modLane_isl (l : Fin 16) (f : Lane → Lane) : (s.modLane l f).isl = s.isl := rfl
@[simp] theorem State.modLane_vital (l : Fin 16) (f : Lane → Lane) : (s.modLane l f).vital = s.vital := rfl
@[simp] theorem State.modLane_dyn (l : Fin 16) (f : Lane → Lane) : (s.modLane l f).dyn = s.dyn := rfl
@[simp] theorem State.modLane_pour (l : Fin 16) (f : Lane → Lane) : (s.modLane l f).pour = s.pour := rfl
@[simp] theorem State.modLane_net (l : Fin 16) (f : Lane → Lane) : (s.modLane l f).net = s.net := rfl
@[simp] theorem State.modLane_pwr (l : Fin 16) (f : Lane → Lane) : (s.modLane l f).pwr = s.pwr := rfl
@[simp] theorem State.modLane_cores (l : Fin 16) (f : Lane → Lane) : (s.modLane l f).cores = s.cores := rfl
@[simp] theorem State.modLane_lanes (l : Fin 16) (f : Lane → Lane) : (s.modLane l f).lanes = vmod s.lanes l f := rfl
@[simp] theorem State.modLane_rxLinks (l : Fin 16) (f : Lane → Lane) : (s.modLane l f).rxLinks = s.rxLinks := rfl
@[simp] theorem State.modLane_txLinks (l : Fin 16) (f : Lane → Lane) : (s.modLane l f).txLinks = s.txLinks := rfl
@[simp] theorem State.modLane_straits (l : Fin 16) (f : Lane → Lane) : (s.modLane l f).straits = s.straits := rfl
@[simp] theorem State.modLane_lattice (l : Fin 16) (f : Lane → Lane) : (s.modLane l f).lattice = s.lattice := rfl
@[simp] theorem State.modLane_sprue (l : Fin 16) (f : Lane → Lane) : (s.modLane l f).sprue = s.sprue := rfl
@[simp] theorem State.modLane_riser (l : Fin 16) (f : Lane → Lane) : (s.modLane l f).riser = s.riser := rfl
@[simp] theorem State.modLane_harbour (l : Fin 16) (f : Lane → Lane) : (s.modLane l f).harbour = s.harbour := rfl
@[simp] theorem State.modLane_dma (l : Fin 16) (f : Lane → Lane) : (s.modLane l f).dma = s.dma := rfl
@[simp] theorem State.modLane_xlat (l : Fin 16) (f : Lane → Lane) : (s.modLane l f).xlat = s.xlat := rfl
@[simp] theorem State.modLane_shore (l : Fin 16) (f : Lane → Lane) : (s.modLane l f).shore = s.shore := rfl
@[simp] theorem State.modLane_holm (l : Fin 16) (f : Lane → Lane) : (s.modLane l f).holm = s.holm := rfl
@[simp] theorem State.modLane_ethTx (l : Fin 16) (f : Lane → Lane) : (s.modLane l f).ethTx = s.ethTx := rfl
@[simp] theorem State.modLane_events (l : Fin 16) (f : Lane → Lane) : (s.modLane l f).events = s.events := rfl

/-! ### modStream -/

@[simp] theorem State.modStream_pending (id : BitVec 12) (f : Stream → Stream) : (s.modStream id f).pending = s.pending := rfl
@[simp] theorem State.modStream_fresh (id : BitVec 12) (f : Stream → Stream) : (s.modStream id f).fresh = s.fresh := rfl
@[simp] theorem State.modStream_gradeC (id : BitVec 12) (f : Stream → Stream) : (s.modStream id f).gradeC = s.gradeC := rfl
@[simp] theorem State.modStream_committed (id : BitVec 12) (f : Stream → Stream) : (s.modStream id f).committed = s.committed := rfl
@[simp] theorem State.modStream_latpos (id : BitVec 12) (f : Stream → Stream) : (s.modStream id f).latpos = s.latpos := rfl
@[simp] theorem State.modStream_mode (id : BitVec 12) (f : Stream → Stream) : (s.modStream id f).mode = s.mode := rfl
@[simp] theorem State.modStream_arch (id : BitVec 12) (f : Stream → Stream) : (s.modStream id f).arch = s.arch := rfl
@[simp] theorem State.modStream_isl (id : BitVec 12) (f : Stream → Stream) : (s.modStream id f).isl = s.isl := rfl
@[simp] theorem State.modStream_vital (id : BitVec 12) (f : Stream → Stream) : (s.modStream id f).vital = s.vital := rfl
@[simp] theorem State.modStream_dyn (id : BitVec 12) (f : Stream → Stream) : (s.modStream id f).dyn = s.dyn := rfl
@[simp] theorem State.modStream_pour (id : BitVec 12) (f : Stream → Stream) : (s.modStream id f).pour = s.pour := rfl
@[simp] theorem State.modStream_net (id : BitVec 12) (f : Stream → Stream) : (s.modStream id f).net = s.net := rfl
@[simp] theorem State.modStream_pwr (id : BitVec 12) (f : Stream → Stream) : (s.modStream id f).pwr = s.pwr := rfl
@[simp] theorem State.modStream_cores (id : BitVec 12) (f : Stream → Stream) : (s.modStream id f).cores = s.cores := rfl
@[simp] theorem State.modStream_lanes (id : BitVec 12) (f : Stream → Stream) : (s.modStream id f).lanes = s.lanes := rfl
@[simp] theorem State.modStream_rxLinks (id : BitVec 12) (f : Stream → Stream) : (s.modStream id f).rxLinks = s.rxLinks := rfl
@[simp] theorem State.modStream_txLinks (id : BitVec 12) (f : Stream → Stream) : (s.modStream id f).txLinks = s.txLinks := rfl
@[simp] theorem State.modStream_straits (id : BitVec 12) (f : Stream → Stream) : (s.modStream id f).straits = s.straits := rfl
@[simp] theorem State.modStream_lattice (id : BitVec 12) (f : Stream → Stream) : (s.modStream id f).lattice = s.lattice := rfl
@[simp] theorem State.modStream_riser (id : BitVec 12) (f : Stream → Stream) : (s.modStream id f).riser = s.riser := rfl
@[simp] theorem State.modStream_harbour (id : BitVec 12) (f : Stream → Stream) : (s.modStream id f).harbour = s.harbour := rfl
@[simp] theorem State.modStream_dma (id : BitVec 12) (f : Stream → Stream) : (s.modStream id f).dma = s.dma := rfl
@[simp] theorem State.modStream_xlat (id : BitVec 12) (f : Stream → Stream) : (s.modStream id f).xlat = s.xlat := rfl
@[simp] theorem State.modStream_shore (id : BitVec 12) (f : Stream → Stream) : (s.modStream id f).shore = s.shore := rfl
@[simp] theorem State.modStream_holm (id : BitVec 12) (f : Stream → Stream) : (s.modStream id f).holm = s.holm := rfl
@[simp] theorem State.modStream_ethTx (id : BitVec 12) (f : Stream → Stream) : (s.modStream id f).ethTx = s.ethTx := rfl
@[simp] theorem State.modStream_events (id : BitVec 12) (f : Stream → Stream) : (s.modStream id f).events = s.events := rfl

/-! ### modShore -/

@[simp] theorem State.modShore_pending (f : Shore → Shore) : (s.modShore f).pending = s.pending := rfl
@[simp] theorem State.modShore_fresh (f : Shore → Shore) : (s.modShore f).fresh = s.fresh := rfl
@[simp] theorem State.modShore_gradeC (f : Shore → Shore) : (s.modShore f).gradeC = s.gradeC := rfl
@[simp] theorem State.modShore_committed (f : Shore → Shore) : (s.modShore f).committed = s.committed := rfl
@[simp] theorem State.modShore_latpos (f : Shore → Shore) : (s.modShore f).latpos = s.latpos := rfl
@[simp] theorem State.modShore_mode (f : Shore → Shore) : (s.modShore f).mode = s.mode := rfl
@[simp] theorem State.modShore_arch (f : Shore → Shore) : (s.modShore f).arch = s.arch := rfl
@[simp] theorem State.modShore_isl (f : Shore → Shore) : (s.modShore f).isl = s.isl := rfl
@[simp] theorem State.modShore_vital (f : Shore → Shore) : (s.modShore f).vital = s.vital := rfl
@[simp] theorem State.modShore_dyn (f : Shore → Shore) : (s.modShore f).dyn = s.dyn := rfl
@[simp] theorem State.modShore_pour (f : Shore → Shore) : (s.modShore f).pour = s.pour := rfl
@[simp] theorem State.modShore_net (f : Shore → Shore) : (s.modShore f).net = s.net := rfl
@[simp] theorem State.modShore_pwr (f : Shore → Shore) : (s.modShore f).pwr = s.pwr := rfl
@[simp] theorem State.modShore_cores (f : Shore → Shore) : (s.modShore f).cores = s.cores := rfl
@[simp] theorem State.modShore_lanes (f : Shore → Shore) : (s.modShore f).lanes = s.lanes := rfl
@[simp] theorem State.modShore_rxLinks (f : Shore → Shore) : (s.modShore f).rxLinks = s.rxLinks := rfl
@[simp] theorem State.modShore_txLinks (f : Shore → Shore) : (s.modShore f).txLinks = s.txLinks := rfl
@[simp] theorem State.modShore_straits (f : Shore → Shore) : (s.modShore f).straits = s.straits := rfl
@[simp] theorem State.modShore_lattice (f : Shore → Shore) : (s.modShore f).lattice = s.lattice := rfl
@[simp] theorem State.modShore_sprue (f : Shore → Shore) : (s.modShore f).sprue = s.sprue := rfl
@[simp] theorem State.modShore_riser (f : Shore → Shore) : (s.modShore f).riser = s.riser := rfl
@[simp] theorem State.modShore_harbour (f : Shore → Shore) : (s.modShore f).harbour = s.harbour := rfl
@[simp] theorem State.modShore_dma (f : Shore → Shore) : (s.modShore f).dma = s.dma := rfl
@[simp] theorem State.modShore_xlat (f : Shore → Shore) : (s.modShore f).xlat = s.xlat := rfl
@[simp] theorem State.modShore_shore (f : Shore → Shore) : (s.modShore f).shore = f s.shore := rfl
@[simp] theorem State.modShore_holm (f : Shore → Shore) : (s.modShore f).holm = s.holm := rfl
@[simp] theorem State.modShore_ethTx (f : Shore → Shore) : (s.modShore f).ethTx = s.ethTx := rfl
@[simp] theorem State.modShore_events (f : Shore → Shore) : (s.modShore f).events = s.events := rfl

/-! ### modStrait -/

@[simp] theorem State.modStrait_pending (l : Bool) (f : Strait → Strait) : (s.modStrait l f).pending = s.pending := rfl
@[simp] theorem State.modStrait_fresh (l : Bool) (f : Strait → Strait) : (s.modStrait l f).fresh = s.fresh := rfl
@[simp] theorem State.modStrait_gradeC (l : Bool) (f : Strait → Strait) : (s.modStrait l f).gradeC = s.gradeC := rfl
@[simp] theorem State.modStrait_committed (l : Bool) (f : Strait → Strait) : (s.modStrait l f).committed = s.committed := rfl
@[simp] theorem State.modStrait_latpos (l : Bool) (f : Strait → Strait) : (s.modStrait l f).latpos = s.latpos := rfl
@[simp] theorem State.modStrait_mode (l : Bool) (f : Strait → Strait) : (s.modStrait l f).mode = s.mode := rfl
@[simp] theorem State.modStrait_arch (l : Bool) (f : Strait → Strait) : (s.modStrait l f).arch = s.arch := rfl
@[simp] theorem State.modStrait_isl (l : Bool) (f : Strait → Strait) : (s.modStrait l f).isl = s.isl := rfl
@[simp] theorem State.modStrait_vital (l : Bool) (f : Strait → Strait) : (s.modStrait l f).vital = s.vital := rfl
@[simp] theorem State.modStrait_dyn (l : Bool) (f : Strait → Strait) : (s.modStrait l f).dyn = s.dyn := rfl
@[simp] theorem State.modStrait_pour (l : Bool) (f : Strait → Strait) : (s.modStrait l f).pour = s.pour := rfl
@[simp] theorem State.modStrait_net (l : Bool) (f : Strait → Strait) : (s.modStrait l f).net = s.net := rfl
@[simp] theorem State.modStrait_pwr (l : Bool) (f : Strait → Strait) : (s.modStrait l f).pwr = s.pwr := rfl
@[simp] theorem State.modStrait_cores (l : Bool) (f : Strait → Strait) : (s.modStrait l f).cores = s.cores := rfl
@[simp] theorem State.modStrait_lanes (l : Bool) (f : Strait → Strait) : (s.modStrait l f).lanes = s.lanes := rfl
@[simp] theorem State.modStrait_rxLinks (l : Bool) (f : Strait → Strait) : (s.modStrait l f).rxLinks = s.rxLinks := rfl
@[simp] theorem State.modStrait_txLinks (l : Bool) (f : Strait → Strait) : (s.modStrait l f).txLinks = s.txLinks := rfl
@[simp] theorem State.modStrait_lattice (l : Bool) (f : Strait → Strait) : (s.modStrait l f).lattice = s.lattice := rfl
@[simp] theorem State.modStrait_sprue (l : Bool) (f : Strait → Strait) : (s.modStrait l f).sprue = s.sprue := rfl
@[simp] theorem State.modStrait_riser (l : Bool) (f : Strait → Strait) : (s.modStrait l f).riser = s.riser := rfl
@[simp] theorem State.modStrait_harbour (l : Bool) (f : Strait → Strait) : (s.modStrait l f).harbour = s.harbour := rfl
@[simp] theorem State.modStrait_dma (l : Bool) (f : Strait → Strait) : (s.modStrait l f).dma = s.dma := rfl
@[simp] theorem State.modStrait_xlat (l : Bool) (f : Strait → Strait) : (s.modStrait l f).xlat = s.xlat := rfl
@[simp] theorem State.modStrait_shore (l : Bool) (f : Strait → Strait) : (s.modStrait l f).shore = s.shore := rfl
@[simp] theorem State.modStrait_holm (l : Bool) (f : Strait → Strait) : (s.modStrait l f).holm = s.holm := rfl
@[simp] theorem State.modStrait_ethTx (l : Bool) (f : Strait → Strait) : (s.modStrait l f).ethTx = s.ethTx := rfl
@[simp] theorem State.modStrait_events (l : Bool) (f : Strait → Strait) : (s.modStrait l f).events = s.events := rfl

/-! ### modSession -/

@[simp] theorem State.modSession_pending (id : Word) (f : Session → Session) : (s.modSession id f).pending = s.pending := rfl
@[simp] theorem State.modSession_fresh (id : Word) (f : Session → Session) : (s.modSession id f).fresh = s.fresh := rfl
@[simp] theorem State.modSession_gradeC (id : Word) (f : Session → Session) : (s.modSession id f).gradeC = s.gradeC := rfl
@[simp] theorem State.modSession_committed (id : Word) (f : Session → Session) : (s.modSession id f).committed = s.committed := rfl
@[simp] theorem State.modSession_latpos (id : Word) (f : Session → Session) : (s.modSession id f).latpos = s.latpos := rfl
@[simp] theorem State.modSession_mode (id : Word) (f : Session → Session) : (s.modSession id f).mode = s.mode := rfl
@[simp] theorem State.modSession_arch (id : Word) (f : Session → Session) : (s.modSession id f).arch = s.arch := rfl
@[simp] theorem State.modSession_isl (id : Word) (f : Session → Session) : (s.modSession id f).isl = s.isl := rfl
@[simp] theorem State.modSession_vital (id : Word) (f : Session → Session) : (s.modSession id f).vital = s.vital := rfl
@[simp] theorem State.modSession_dyn (id : Word) (f : Session → Session) : (s.modSession id f).dyn = s.dyn := rfl
@[simp] theorem State.modSession_pour (id : Word) (f : Session → Session) : (s.modSession id f).pour = s.pour := rfl
@[simp] theorem State.modSession_net (id : Word) (f : Session → Session) : (s.modSession id f).net = s.net := rfl
@[simp] theorem State.modSession_pwr (id : Word) (f : Session → Session) : (s.modSession id f).pwr = s.pwr := rfl
@[simp] theorem State.modSession_cores (id : Word) (f : Session → Session) : (s.modSession id f).cores = s.cores := rfl
@[simp] theorem State.modSession_lanes (id : Word) (f : Session → Session) : (s.modSession id f).lanes = s.lanes := rfl
@[simp] theorem State.modSession_rxLinks (id : Word) (f : Session → Session) : (s.modSession id f).rxLinks = s.rxLinks := rfl
@[simp] theorem State.modSession_txLinks (id : Word) (f : Session → Session) : (s.modSession id f).txLinks = s.txLinks := rfl
@[simp] theorem State.modSession_straits (id : Word) (f : Session → Session) : (s.modSession id f).straits = s.straits := rfl
@[simp] theorem State.modSession_lattice (id : Word) (f : Session → Session) : (s.modSession id f).lattice = s.lattice := rfl
@[simp] theorem State.modSession_sprue (id : Word) (f : Session → Session) : (s.modSession id f).sprue = s.sprue := rfl
@[simp] theorem State.modSession_riser (id : Word) (f : Session → Session) : (s.modSession id f).riser = s.riser := rfl
@[simp] theorem State.modSession_harbour (id : Word) (f : Session → Session) : (s.modSession id f).harbour = s.harbour := rfl
@[simp] theorem State.modSession_dma (id : Word) (f : Session → Session) : (s.modSession id f).dma = s.dma := rfl
@[simp] theorem State.modSession_xlat (id : Word) (f : Session → Session) : (s.modSession id f).xlat = s.xlat := rfl
@[simp] theorem State.modSession_shore (id : Word) (f : Session → Session) : (s.modSession id f).shore = s.shore := rfl
@[simp] theorem State.modSession_ethTx (id : Word) (f : Session → Session) : (s.modSession id f).ethTx = s.ethTx := rfl
@[simp] theorem State.modSession_events (id : Word) (f : Session → Session) : (s.modSession id f).events = s.events := rfl

/-! ### Vectors -/

@[simp] theorem vset_at {α : Type} {n : Nat} (v : Vector α n) (i : Fin n) (x : α) : (vset v i x)[i] = x := by simp [vset]
theorem vset_else {α : Type} {n : Nat} (v : Vector α n) (i j : Fin n) (x : α) (h : j ≠ i) : (vset v i x)[j] = v[j] := by
  have : i.val ≠ j.val := fun e => h (Fin.ext e.symm)
  simp [vset, this]
@[simp] theorem vmod_at {α : Type} {n : Nat} (v : Vector α n) (i : Fin n) (f : α → α) : (vmod v i f)[i] = f v[i] := vset_at ..
theorem vmod_else {α : Type} {n : Nat} (v : Vector α n) (i j : Fin n) (f : α → α) (h : j ≠ i) : (vmod v i f)[j] = v[j] := vset_else _ _ _ _ h

end Sys2Proof.Machine
end

