-- ==== Sys2Proof/Laws/Vevis.lean ====
section
/-! SUPPORT. Laws/Vevis.lean: a packet that is served, whose header and tag hold and that is no repeat is taken as it stands. -/

namespace Sys2Proof.Machine

/-- What becomes of a packet of an open session that passes the checks of transport, header and tag and repeats nothing. -/
theorem State.vevis_takes (s : State) (o : Opcode) (pk : VPacket) (x : Session) (clear : List Byte) (ha : s.answers pk = true) (hh : pkHdrOk pk = true)
    (h0 : pk.sess ≠ 0) (hs : s.session? pk.sess = some x) (ho : opened pk x = some clear) (hq : pk.seq ≠ x.seq) :
    s.vevis o pk = (s.takeFrame pk).takePacket o pk x clear := by
  have hs' : (s.takeFrame pk).session? pk.sess = some x := by
    rw [← hs]; unfold State.takeFrame; split <;> rfl
  unfold State.vevis
  simp only [ha, hh, Bool.not_true, Bool.false_eq_true, if_false, hs']
  rw [if_neg h0]
  simp only [ho, hq, false_and, and_false, if_false]

/-- Session 0: a packet its opcode may carry there. -/
theorem State.vevis_zero (s : State) (o : Opcode) (pk : VPacket) (clear : List Byte) (ha : s.answers pk = true) (hh : pkHdrOk pk = true)
    (h0 : pk.sess = 0) (hz : zeroAllowed (s.takeFrame pk) pk.lane pk.op = true) (ho : opened pk Session.zero = some clear) :
    s.vevis o pk = (s.takeFrame pk).takePacket o pk Session.zero clear := by
  unfold State.vevis
  simp only [ha, hh, Bool.not_true, Bool.false_eq_true, if_false]
  rw [if_pos h0, if_pos hz]
  simp only [ho, h0, ne_eq, not_true_eq_false, false_and, if_false]

end Sys2Proof.Machine
end

