-- ==== Sys2Proof/WellFormed.lean ====
section
/-! DEFINITION. WellFormed.lean: commands whose operands name things that exist and carry what the spec lets arrive. The
meanings are total: an ill-formed command is not refused by the machine, it is one that the spec never sends. -/

namespace Sys2Proof

/-- A request asks for at least one byte. -/
def ReqOp.wf : ReqOp → Bool
  | .read n => decide (0 < n)
  | .write bs => decide (0 < bs.length)
  | .atomic _ _ => true

/-- The opcodes of spec/17 Table 17.3. -/
def opcodes : List Nat :=
  [0x0001, 0x0002, 0x0003, 0x0004, 0x0101, 0x0102, 0x0103, 0x0201, 0x0202, 0x0301, 0x0302, 0x0303, 0x0401, 0x0402, 0x0403, 0x0404, 0x0405,
   0x0501, 0x0502, 0x0503, 0x0504] ++
  [0x0601, 0x0602, 0x0603, 0x0701, 0x0702, 0x0703, 0x0704, 0x0705, 0x0706, 0x0801, 0x0802, 0x0803, 0x0901, 0x0902]

/-- A Vevis packet of the row with opcode `code`: at most 1,388 bytes (spec/17 Table 17.1), a 16-byte address of its sender, and an
opcode field that names this row or none of Table 17.3. -/
def VPacket.wf (p : VPacket) (code : Nat) : Bool :=
  decide (p.payload.length ≤ 1388) && decide (p.peer.addr.length = 16) && (decide (p.op.toNat = code) || !opcodes.contains p.op.toNat)

/-- A request is well formed when its operation is. -/
def Request.wf (r : Request) : Bool := r.op.wf

/-- A strait message's assay is 64 bytes (spec/08 Table 8.7). -/
def assayLenOk (bs : List Byte) : Bool := decide (bs.length = 64)

/-- Operands within their ranges: the 316 power domains (spec/18 Table 18.1), the 224 shore cells (spec/15), at least one valid word of a
stream-port beat (spec/15 R356), at most 24 event bytes (spec/16 Table 16.6), the 800-byte snapshot (spec/15 R372), AVS targets
(spec/20 R450), at least one unit of an instruction, the 64 bytes of an assay, a boundary at most one frame of 50 ms away (the FRAME of spec/06). -/
def Instr.wf : Instr → Bool
  | .domainPowerOff d => decide (d < 316)
  | .periodCountEdge cell _ => decide (cell < 224)
  | .sigmaDeltaWord cell _ => decide (cell < 224)
  | .streamPortBeat _ beat => beat.w0.isSome || beat.w1.isSome
  | .eventPost _ _ _ data => decide (data.length ≤ 24)
  | .captureTrigger snap => decide (snap.length = 800)
  | .avsStep target => decide (720 ≤ target) && decide (target ≤ 780)
  | .illegalInstruction _ units => decide (0 < units.length)
  | .assay _ _ _ bs => assayLenOk bs
  | .hbSend us => decide (us ≤ 50000)
  | .peViewRequest r | .registerBlockAccess r | .sramAliasAccess r | .mailboxWindowAccess r => r.wf
  | .harbourPortARequest r _ | .controlPortAccess r => r.wf
  | .harbourAtomic r => (match r.op with | .atomic _ _ => true | _ => false)
  | .hello p => p.wf 0x0001
  | .sessionOpen p => p.wf 0x0002
  | .sessionClose p => p.wf 0x0003
  | .ping p => p.wf 0x0004
  | .getIdentity p => p.wf 0x0101
  | .attest p => p.wf 0x0102
  | .getMeasurements p => p.wf 0x0103
  | .lcGet p => p.wf 0x0201
  | .imgStage p => p.wf 0x0301
  | .imgActivate p => p.wf 0x0302
  | .imgList p => p.wf 0x0303
  | .txnBegin p => p.wf 0x0401
  | .txnWrite p => p.wf 0x0402
  | .txnCommit p => p.wf 0x0403
  | .txnAbort p => p.wf 0x0404
  | .txnStatus p => p.wf 0x0405
  | .modeGet p => p.wf 0x0501
  | .modeSet p => p.wf 0x0502
  | .vitalResume p => p.wf 0x0503
  | .safeStop p => p.wf 0x0504
  | .streamGet p => p.wf 0x0601
  | .streamEnable p => p.wf 0x0602
  | .streamDisable p => p.wf 0x0603
  | .statsRead p => p.wf 0x0703
  | .capture p => p.wf 0x0704
  | .captureRead p => p.wf 0x0705
  | .eventRead p => p.wf 0x0706
  | .memRead p => p.wf 0x0801
  | .memWrite p => p.wf 0x0802
  | .keepRead p => p.wf 0x0803
  | .partnerStatus p => p.wf 0x0901
  | .latticeStatus p => p.wf 0x0902
  | .lcAdvance p | .programKeySlot p | .revokeKeySlot p => p.wf 0x0202
  | .selftestCore p | .selftestHarbourTide p | .selftestLaneRecal p | .selftestOffline p => p.wf 0x0701
  | .tideStatus p | .tideSuspend p | .tideResume p | .tideStepNow p => p.wf 0x0702
  | _ => true

end Sys2Proof
end

