-- ==== Sys2Proof/Tests/Slice0.lean ====
section
/-! SUPPORT. Tests/Slice0.lean: ill-formed terms that WellFormed refuses, witnesses of what the statements assume, each with what one
step does there, and words of the encodings. Expected values are worked out by hand from the tables and rules named. -/

set_option Elab.async false

namespace Sys2Proof.Tests

open Sys2Proof Sys2Proof.Machine

/-- What command `i` makes of `s` satisfies `P`. -/
def after (i : Instr) (s : State) (P : State → Bool) : Bool := match exec i s with | .next t => P t | _ => false

/-- The reset state in mode `m`, every domain powered, its boot begun, SECURED, no pair in use, `f` applied. -/
def at' (m : Mode) (f : State → State) : State :=
  let s := State.reset
  f { s with mode := m, pwr := { s.pwr with on := BitVec.allOnes 316, fence := 0 }, holm := { s.holm with started := true, lcCount := 2 }, vital := { s.vital with par := { s.vital.par with pairs := 0 } } }

/-- Core 0 released in mode SURVEY, `f` applied to it. -/
def core0 (f : Core → Core) : State :=
  at' .survey (fun s => { s with cores := s.cores.set 0 (f { s.cores[0] with halted := false, haltReq := false }) })

/-- Core 0 with operand stack `l`. -/
def stack0 (l : List Slot) : State := core0 (fun c => { c with stack := l, sp := 0x1000, vbase := 0x2000, pc := 0x100 })

/-! ### Ill-formed terms, one for each check of WellFormed -/

/-- A request of CC0 at address 0. -/
def reqOf (op : ReqOp) : Request := { src := 0, tag := 0, user := false, op := op, addr := 0 }
/-- A Vevis packet one byte too long. -/
def longPk : VPacket :=
  { peer := { lane := none, addr := List.replicate 16 0, port := 0 }, dstPort := 48182, magic := 0x5653, version := 1, flags := 4, op := 4, status := 0, sess := 7, seq := 4
    len := 1389, txn := 5, frag := 0, ctr := 9, payload := List.replicate 1389 0, tag := 1, body := none }

theorem test_wf_ranges : (Instr.domainPowerOff 316).wf = false ∧ (Instr.periodCountEdge 224 0).wf = false ∧ (Instr.sigmaDeltaWord 224 0).wf = false ∧
    (Instr.avsStep 719).wf = false ∧ (Instr.avsStep 781).wf = false ∧ (Instr.hbSend 50001).wf = false := by decide +kernel

theorem test_wf_lengths : (Instr.streamPortBeat 0 { w0 := none, w1 := none }).wf = false ∧
    (Instr.eventPost 0 0 0 (List.replicate 25 0)).wf = false ∧ (Instr.captureTrigger (List.replicate 799 0)).wf = false ∧
    (Instr.illegalInstruction 0 []).wf = false ∧ assayLenOk (List.replicate 63 0) = false := by decide +kernel

theorem test_wf_requests : (Instr.peViewRequest (reqOf (.read 0))).wf = false ∧ (Instr.registerBlockAccess (reqOf (.write []))).wf = false ∧
    (Instr.sramAliasAccess (reqOf (.read 0))).wf = false ∧ (Instr.mailboxWindowAccess (reqOf (.write []))).wf = false ∧
    (Instr.harbourPortARequest (reqOf (.read 0)) none).wf = false ∧ (Instr.controlPortAccess (reqOf (.write []))).wf = false ∧
    (Instr.harbourAtomic (reqOf (.read 8))).wf = false := by decide +kernel

theorem test_wf_packet : (Instr.ping longPk).wf = false ∧ (Instr.imgStage longPk).wf = false ∧ (Instr.latticeStatus longPk).wf = false ∧
    (Instr.ping { longPk with payload := [], op := 1 }).wf = false ∧
    (Instr.ping { longPk with payload := [], peer := { lane := none, addr := [], port := 0 } }).wf = false := by decide +kernel

theorem test_wf_plain : (Instr.domainPowerOff 315).wf = true ∧ (Instr.ping { longPk with payload := [] }).wf = true ∧ (Instr.hbSend 50000).wf = true := by
  decide +kernel

/-! ### Queue and fuses -/

theorem wit_step_front : after (.nop 0) (stack0 []) (fun t => match step { stack0 [] with pending := [.nop 0, .dup 0] } with | .next u => (u.cores[0]).pc == (t.cores[0]).pc && u.pending.length == 1 | _ => false) = true := by
  decide +kernel

theorem wit_step_idle : State.reset.pending = [] := rfl

/-- A life-cycle transition out of PROVISIONED at step `k`, nothing waiting. -/
def lcAt (k : Nat) : State := let h := State.reset.holm
  { State.reset with holm := { h with lcStep := k, lcCount := 1, slotProg := 2, bootCount := 5, keep := { h.keep with hdrLc := 1, transition := true } } }

theorem wit_lc_steps : (lcAt 3).pending = [] ∧
    (match step (lcAt 3) with | .next t => t.holm.lcStep == 4 && t.harbour.mem == [] | _ => false) = true ∧
    (match step (lcAt 4) with | .next t => t.holm.lcStep == 5 && t.holm.lcCount == 2 && t.holm.bootCount == 0 | _ => false) = true ∧
    (match step (lcAt 5) with | .next t => t.holm.lcStep == 6 && !t.holm.keep.transition | _ => false) = true ∧
    (match step (lcAt 6) with | .next t => t.mode == .boot && t.pwr.rstCause == 3 && t.holm.lcStep == 0 | _ => false) = true := by decide +kernel

theorem wit_fuses : Fuses.upTo { lcCount := 1, slotProg := 1, slotRev := 0, counters := Vector.replicate 64 0 }
      { lcCount := 2, slotProg := 3, slotRev := 1, counters := Vector.replicate 64 5 } ∧
    after .helloExpiry State.reset (fun t => t.holm.hello == none) = true := by
  refine ⟨⟨by decide, by decide, by decide, fun k => ?_⟩, by decide +kernel⟩
  simp

theorem wit_fuses_here : (∀ p, Instr.dup 0 ≠ .lcAdvance p ∧ Instr.dup 0 ≠ .programKeySlot p ∧ Instr.dup 0 ≠ .revokeKeySlot p ∧ Instr.dup 0 ≠ .imgActivate p) ∧
    (∀ b, Instr.dup 0 ≠ .bootSequence b) ∧ after (.dup 0) (stack0 [.val 1]) (fun _ => true) = true := by
  refine ⟨fun p => ⟨nofun, nofun, nofun, nofun⟩, fun b => nofun, ?_⟩; decide +kernel

/-! ### Control cores. `stack0 l` is settled for every stack `l`: it meets what the core statements assume. -/

theorem settled_parts : (stack0 []).coreReady 0 = true ∧ ((stack0 []).cores[0]).te = false ∧ ((stack0 []).cores[0]).pc.toNat + 6 ≤ 0x40000 ∧
    ((stack0 []).cores[0]).shadow = none ∧ ((stack0 []).cores[0]).stations = Vector.replicate 4 none ∧ ((stack0 []).cores[0]).vec.queue = [] ∧
    ((stack0 []).cores[0]).vec.valid = false ∧ ((stack0 []).cores[0]).lk.getLsbD 0 = false ∧
    ((stack0 []).cores[0]).stepping = false ∧ ((stack0 []).cores[0]).entering = none := by decide +kernel

theorem wit_settled (l : List Slot) : (stack0 l).Settled 0 ∧ ((stack0 l).cores[0]).stack = l ∧ ((stack0 l).cores[0]).lk.getLsbD 0 = false := by
  obtain ⟨a, b, c, d, e, f, g, h, i, j⟩ := settled_parts
  exact ⟨⟨a, ⟨b, c, d, e, i, j⟩, f, g⟩, rfl, h⟩

theorem wit_enter : (∀ v ≤ 63, ((stack0 []).cores[0]).CanEnter v) ∧ ∀ l, ((stack0 l).cores[0]).sp = ((stack0 []).cores[0]).sp ∧
    ((stack0 l).cores[0]).vbase = ((stack0 []).cores[0]).vbase := by
  refine ⟨?_, fun l => ⟨rfl, rfl⟩⟩
  unfold Core.CanEnter; decide +kernel

theorem wit_priv : ((stack0 []).cores[0]).priv = true ∧ ((stack0 []).cores[0]).sip = false ∧ ((stack0 []).cores[0]).pc.getLsbD 0 = false ∧
    ((core0 (fun c => { c with cst := 0 })).cores[0]).priv = false := by decide +kernel

theorem test_add_wraps : after (.add 0) (stack0 [.val 1, .val 0xFFFFFFFF]) (fun t => (t.cores[0]).stack == [.val 0] && (t.cores[0]).pc == 0x102) = true := by
  decide +kernel
theorem test_divs_edge : after (.divs 0) (stack0 [.val 0xFFFFFFFF, .val 0x80000000]) (fun t => (t.cores[0]).stack == [.val 0x80000000]) = true := by decide +kernel
theorem test_shl_32 : after (.shl 0) (stack0 [.val 32, .val 1]) (fun t => (t.cores[0]).stack == [.val 0]) = true := by decide +kernel
theorem test_dup_255 : after (.dup 0) (stack0 (List.replicate 255 (.val 3))) (fun t => (t.cores[0]).stack.length == 256) = true := by decide +kernel
theorem test_pick_edge : after (.pick 0 253) (stack0 (List.replicate 253 (.val 0) ++ [.val 9])) (fun t => (t.cores[0]).stack.head? == some (.val 9)) = true := by
  decide +kernel
theorem test_bfx_edge : after (.bfx 0) (stack0 [.val 0x41F, .val 0x80000000]) (fun t => (t.cores[0]).stack == [.val 0xFFFFFFFF]) = true := by decide +kernel

theorem wit_drop_pending : let s := core0 (fun c => { c with stack := [.pend 5], tags := vmod c.tags (5 : Fin 64) (fun g => { g with alloc := true }) })
    after (.drop 0) s (fun t => (t.cores[0]).stack == [] && !((t.cores[0]).tags[5]).alloc) = true := by decide +kernel

theorem wit_reach : reachable 0x3FFFC 4 ∧ reachable 0x3FFFE 2 ∧ reachable 0x3FFFF 1 := by unfold reachable; decide +kernel

theorem test_stw_top : after (.stw 0) (stack0 [.val 0x3FFFC, .val 0x11223344]) (fun t => (t.cores[0]).wordAt 0x3FFFC == 0x11223344 && (t.cores[0]).stack == []) = true := by
  decide +kernel
theorem test_ldw_align : after (.ldw 0) (stack0 [.val 2, .val 0]) (fun t => (t.cores[0]).ecause == 5 && (t.cores[0]).eval == 2) = true := by decide +kernel
theorem test_ldb_range : after (.ldb 0) (stack0 [.val 0x40000]) (fun t => (t.cores[0]).ecause == 0xD && (t.cores[0]).eval == 0x40000) = true := by decide +kernel
theorem test_beq_back : after (.beq 0 0xFFFF) (stack0 [.val 7, .val 7]) (fun t => (t.cores[0]).pc == 0xFE) = true := by decide +kernel
theorem test_calll : after (.calll 0 4) (stack0 []) (fun t => (t.cores[0]).pc == 0x108 && (t.cores[0]).lk == 0x104) = true := by decide +kernel

theorem test_call : after (.call 0 0x81 2) (core0 (fun c => { c with sp := 0x1000, pc := 0x100, lk := 0x40, f := (c.f.set 0 5).set 7 9 }))
    (fun t => (t.cores[0]).sp == 0xFF0 && (t.cores[0]).wordAt 0xFF0 == 0x40 && (t.cores[0]).wordAt 0xFF4 == 0x81 && (t.cores[0]).wordAt 0xFF8 == 5 &&
      (t.cores[0]).wordAt 0xFFC == 9 && (t.cores[0]).lk == 0x106 && (t.cores[0]).pc == 0x104) = true := by decide +kernel

/-- Core 0 with a frame of mask 0x01, or a stacked context of depth 1, at SP. -/
def framed : State :=
  core0 (fun c => { c with sp := 0x1000, pc := 0x100, lk := 0x80, stack := [.val 1], sram := wrBytes 0 c.sram 0x1000 (bytesLE 4 0x44 ++ bytesLE 4 1 ++ bytesLE 4 1 ++
    bytesLE 4 0x21 ++ bytesLE 4 0x60 ++ bytesLE 4 0x200) })

theorem wit_ret : (framed.cores[0]).lk.getLsbD 0 = false ∧ (framed.cores[0]).wordAt 0x1004 = 1 ∧
    after (.ret 0) framed (fun t => (t.cores[0]).pc == 0x80 && (t.cores[0]).lk == 0x44 && (t.cores[0]).sp == 0x100C && (t.cores[0]).f[0] == 1) = true := by decide +kernel

theorem wit_reti : (framed.cores[0]).priv = true ∧ (framed.cores[0]).wordAt 0x1008 = BitVec.ofNat 32 (framed.cores[0]).depth ∧
    ((framed.cores[0]).wordAt 0x1014).getLsbD 0 = false ∧
    after (.reti 0) framed (fun t => (t.cores[0]).pc == 0x200 && (t.cores[0]).lk == 0x60 && (t.cores[0]).sp == 0x1018 && (t.cores[0]).cst == 0x21 &&
      (t.cores[0]).f[0] == 1 && (t.cores[0]).f[1] == 0x44) = true := by decide +kernel

theorem test_trap : after (.trap 0 7) (stack0 []) (fun t => (t.cores[0]).ecause == 0xB && (t.cores[0]).eval == 7 && (t.cores[0]).sp == 0xFE8 &&
    (t.cores[0]).wordAt 0xFFC == 0x100) = true := by decide +kernel
theorem wit_illegal : decodeUnits 0 0x0B00 0 0 = none ∧ after (.illegalInstruction 0 [0x0B00, 0, 0]) (stack0 []) (fun t => (t.cores[0]).ecause == 1) = true := by
  decide +kernel
theorem test_stack_edges : after (.drop 0) (stack0 []) (fun t => (t.cores[0]).ecause == 4) = true ∧
    after (.dup 0) (stack0 (List.replicate 256 (.val 0))) (fun t => (t.cores[0]).ecause == 3) = true := by decide +kernel
theorem test_csrw_priv : csrListed 2 = true ∧ after (.csrw 0 2) (core0 (fun c => { c with cst := 0, sp := 0x1000, stack := [.val 0] })) (fun t => (t.cores[0]).ecause == 2) = true := by
  decide +kernel
theorem test_csr_moves : after (.csrw 0 0x0A) (stack0 [.val 0xFFFFFFFF]) (fun t => (t.cores[0]).ien == 0xFFFFDFFF) = true ∧
    after (.csrr 0 0x0F) (stack0 []) (fun t => (t.cores[0]).stack == [.val 0]) = true ∧
    after (.wrr 0 12) (stack0 [.val 0x1002]) (fun t => (t.cores[0]).ecause == 5 && (t.cores[0]).eval == 0x1002) = true := by decide +kernel
theorem wit_shadow : let s := core0 (fun c => { c with shadow := some (1, 0xFF) })
    after (.nop 0) s (fun t => (t.cores[0]).ccfg == 7 && (t.cores[0]).shadow == none) = true := by decide +kernel

/-- Core 0 with string registers at the top of local SRAM. -/
def strings (cnt : Word) (l : List Slot) : State := core0 (fun c => { c with src := 0x3FFFC, dst := 0x20, cnt := cnt, stack := l, pc := 0x100, sram := wrBytes 0 c.sram 0x3FFFC [1, 2, 3, 4] })

theorem test_scpyw : after (.scpyw 0 .none none) (strings 9 []) (fun t => (t.cores[0]).wordAt 0x20 == 0x04030201 && (t.cores[0]).cnt == 9 && (t.cores[0]).src == 0x40000) = true := by
  decide +kernel
theorem test_rpt_empty : after (.scmpb 0 .always none) (strings 0 []) (fun t => (t.cores[0]).stack == [.val 0] && (t.cores[0]).pc == 0x104) = true := by decide +kernel
theorem test_rpt_sfilb : after (.sfilb 0 .always none) (strings 3 [.val 0xAB]) (fun t => (t.cores[0]).wordAt 0x20 == 0x00ABABAB && (t.cores[0]).cnt == 0 && (t.cores[0]).dst == 0x23) = true := by
  decide +kernel
theorem test_savestk : after (.savestk 0 none) (stack0 [.val 0x40, .val 2, .val 1]) (fun t => (t.cores[0]).wordAt 0x40 == 2 && (t.cores[0]).wordAt 0x44 == 1 &&
    (t.cores[0]).wordAt 0x48 == 2 && (t.cores[0]).stack == []) = true := by decide +kernel
theorem test_loadstk : let s := core0 (fun c => { c with stack := [.val 0x40, .val 7], sram := wrBytes 0 c.sram 0x40 (bytesLE 4 2 ++ bytesLE 4 1 ++ bytesLE 4 2) })
    (s.cores[0]).wordAt 0x40 = 2 ∧ after (.loadstk 0 none) s (fun t => (t.cores[0]).stack == [.val 2, .val 1, .val 7] && (t.cores[0]).src == 0x4C) = true := by decide +kernel

theorem wit_parks : after (.add 0) (stack0 [.pend 3, .val 4]) (fun t => (t.cores[0]).stack == [.stn 0 false] &&
    (t.cores[0]).stations[0] == some { op := .alu .add, args := [.val 4, .pend 3] }) = true := by decide +kernel
theorem wit_station : let s := core0 (fun c => { c with stack := [.stn 2 false], stations := c.stations.set 2 (some { op := .alu .add, args := [.val 4, .val 5] }) })
    s.coreOn 0 = true ∧ after (.stationExecute 0 2) s (fun t => (t.cores[0]).stack == [.val 9] && (t.cores[0]).stations[2] == none) = true := by decide +kernel

theorem wit_far : let s := stack0 [.val 0x40000]
    ((s.cores[0]).tags[0]).alloc = false ∧ ((s.cores[0]).tags[0]).out = false ∧ ((s.cores[0]).tags[0]).quar = false ∧
    after (.fldw 0) s (fun t => (t.cores[0]).stack == [.pend 0] && t.net.requests == [{ src := 0, tag := 0, user := false, op := .read 4, addr := 0x40000 }]) = true := by
  decide +kernel
theorem wit_far_store : after (.fsth 0) (stack0 [.val 0x20000000, .val 0x1234]) (fun t => (t.cores[0]).stack == [] &&
    t.net.requests == [{ src := 0, tag := 0, user := false, op := .write [0x34, 0x12], addr := 0x20000000 }]) = true := by decide +kernel
theorem test_far_faults : after (.fldw 0) (stack0 [.val 0x3FFFC]) (fun t => (t.cores[0]).ecause == 0xD) = true ∧
    after (.fldw 0) (core0 (fun c => { c with cst := 0, ccfg := 0, sp := 0x1000, stack := [.val 0x20000000] })) (fun t => (t.cores[0]).ecause == 2) = true := by
  decide +kernel
theorem wit_response : let s := core0 (fun c => { c with stack := [.pend 5], tags := vmod c.tags (5 : Fin 64) (fun g => { g with alloc := true, out := true, kind := .sb }) })
    let s' := { s with net := { s.net with responses := [{ dst := 0, tag := 5, status := .ok, data := [0x80] }] } }
    after (.farResponse 0 5) s' (fun t => (t.cores[0]).stack == [.fill 5 0xFFFFFF80] && !((t.cores[0]).tags[5]).out && t.net.responses == []) = true := by decide +kernel
/-- Core 0 with tag 5 as `f` makes it, the response `r` or the completion `x` under way to it. -/
def answering (f : TagSt → TagSt) (r : Option Response) (x : List Completion) : State :=
  let s := core0 (fun c => { c with stack := [.pend 5], tags := vmod c.tags (5 : Fin 64) f })
  { s with net := { s.net with responses := r.toList }, pour := { s.pour with compl := x } }
/-- A response to tag 5 of core 0 with status `st`. -/
def rsp5 (st : Status) : Response := { dst := 0, tag := 5, status := st, data := [0x80] }
/-- A far load and a far store that wait under it. -/
def loadTag (g : TagSt) : TagSt := { g with alloc := true, out := true, kind := .sb, addr := 0x77 }
def storeTag (g : TagSt) : TagSt := { g with alloc := true, out := true, store := true, order := 3, addr := 0x77 }

theorem wit_responses : let ok := answering loadTag (some (rsp5 .ok)) []
    taken ok 0 5 = some (rsp5 .ok) ∧ ((ok.cores[0]).tags[5]).quar = false ∧ ((ok.cores[0]).tags[5]).store = false ∧
    after (.farResponse 0 5) (answering loadTag (some (rsp5 .timeout)) [])
      (fun t => (t.cores[0]).stack == [.poison 5 true .timeout 0x77] && (t.cores[0]).tnt) = true ∧
    after (.farResponse 0 5) (answering storeTag (some (rsp5 .ok)) []) (fun t => !((t.cores[0]).tags[5]).out && (t.cores[0]).failed == []) = true ∧
    after (.farResponse 0 5) (answering storeTag (some (rsp5 .decerr)) []) (fun t =>
      (t.cores[0]).failed == [{ order := 3, far := true, tag := 5, status := .decerr, addr := 0x77 }]) = true ∧
    after (.farResponse 0 5) (answering (fun g => { loadTag g with quar := true }) (some (rsp5 .ok)) [])
      (fun t => !((t.cores[0]).tags[5]).quar && (t.cores[0]).stack == [.pend 5] && (t.net.stat[0]).lateCnt == 1) = true ∧
    taken (answering loadTag none [{ core := 0, tag := 5, word := 0x200080 }]) 0 5 = none ∧
    completed (answering loadTag none [{ core := 0, tag := 5, word := 0x200080 }]) 0 5 = some { core := 0, tag := 5, word := 0x200080 } ∧
    after (.farResponse 0 5) (answering loadTag none [{ core := 0, tag := 5, word := 0x200080 }])
      (fun t => (t.cores[0]).stack == [.fill 5 0xFFFFFF80] && (t.cores[0]).irq == 0x20 && t.pour.compl == []) = true := by decide +kernel
theorem wit_tagwait : let s := core0 (fun c => { c with stack := [.fill 5 8], tags := vmod c.tags (5 : Fin 64) (fun g => { g with alloc := true }) })
    after (.tagwait 0) s (fun t => (t.cores[0]).stack == [.val 8] && !((t.cores[0]).tags[5]).alloc) = true := by decide +kernel
theorem wit_fence : after (.fence 0) (core0 (fun c => { c with tags := vmod c.tags (5 : Fin 64) (fun g => { g with alloc := true, store := true }) }))
    (fun t => !((t.cores[0]).tags[5]).alloc && (t.cores[0]).pc == 2) = true := by decide +kernel

theorem wit_system : after (.tlbinv 0) (stack0 []) (fun t => (t.cores[0]).pc == 0x102 && (t.cores[0]).tlb[0] == none) = true ∧
    after (.wfi 0) (stack0 []) (fun t => (t.cores[0]).asleep) = true ∧
    after (.tlbinva 0) (core0 (fun c => { c with stack := [.val 0x5123], tlb := (c.tlb.set 0 (some { vpn := 5, pte := 1 })).set 1 (some { vpn := 6, pte := 1 }) }))
      (fun t => (t.cores[0]).tlb[0] == none && (t.cores[0]).tlb[1] == some { vpn := 6, pte := 1 }) = true := by decide +kernel

/-- Core 0 with customer slot 1 enabled: one input, one output, body NOT at unit 0. -/
def customer (on : Bool) : State :=
  core0 (fun c => { c with
    stack := [.val 5], sp := 0x1000, ccfg := if on then 1 else 0, sloten := 2, slots := c.slots.set 1 0x81800800
    ustore := SMap.set 0 c.ustore 0 ((0xD000 : BitVec 96) <<< 16 ||| 0x2E00) })

theorem wit_customer : let c := (customer true).cores[0]
    c.ccfg.getLsbD 0 = true ∧ c.slots[1].getLsbD 31 = true ∧ c.sloten.getLsbD 1 = true ∧ c.slots[1].getLsbD 29 = false ∧ c.slots[1].getLsbD 30 = false ∧
    (fld c.slots[1] 11 4 : BitVec 4).toNat = 1 ∧
    (match Core.runBody ((customer true).coreEnv 0) (fld c.slots[1] 15 8 : Byte).toNat 64 0 c.begun with | .ok d => d.stack == [.val 0xFFFFFFFA] | _ => false) = true ∧
    after (.customerInstruction 0 1 0) (customer true) (fun t => (t.cores[0]).stack == [.val 0xFFFFFFFA] && (t.cores[0]).pc == 2) = true ∧
    after (.customerInstruction 0 1 0) (customer false) (fun t => (t.cores[0]).ecause == 1) = true ∧
    after (.customerInstruction 0 1 7) (customer true) (fun t => (t.cores[0]).ecause == 1) = true := by decide +kernel

theorem wit_interrupt : let s := core0 (fun c => { c with cst := 3, ien := 0x80000000, irq := 0x80000000, sp := 0x1000, pc := 0x100, asleep := true })
    (s.cores[0]).ie = true ∧ (s.cores[0]).late = none ∧ (s.enabledIrq 0).getLsbD 31 = true ∧ (∀ j < 31, (s.enabledIrq 0).getLsbD j = false) ∧ (s.cores[0]).CanEnter 63 ∧
    after (.interruptEntry 0) s (fun t => (t.cores[0]).irq == 0 && !(t.cores[0]).asleep && (t.cores[0]).wordAt 0xFFC == 0x100 && (t.cores[0]).wordAt 0xFF4 == 3 &&
      (t.cores[0]).cst == 1) = true := by
  unfold Core.CanEnter; decide +kernel

theorem wit_timer : let s := core0 (fun c => { c with tmr := 9 })
    s.coreOn 0 = true ∧ after (.coreTimerExpiry 0) s (fun t => (t.cores[0]).irq == 0x80000000) = true ∧
    s.coreGate { src := 4, tag := 0, user := false } 0 = none ∧
    after (.cdbellRing { src := 4, tag := 0, user := false } 0) s (fun t => (t.cores[0]).irq == 0x40000000) = true := by decide +kernel

/-- Core 0 walking for `va` with tables at 0x2000 and 0x4000, `e2` the level-2 entry of page 3. -/
def walking (e1 e2 : Nat) (ue : List Nat) : State :=
  core0 (fun c => { c with walk := some 0x3000, ptbr := 0x20, sramUe := ue, sram := wrBytes 0 (wrBytes 0 c.sram 0x2000 (bytesLE 8 e1)) 0x4018 (bytesLE 8 e2) })

theorem wit_walk : inSram (l1Addr 0x20 0x3000) 8 = true ∧ l1Bad 0x4001 = false ∧ inSram (l2Addr 0x4001 0x3000) 8 = true ∧ l2Bad 0x2000000F = false ∧
    after (.tableWalkComplete 0) (walking 0x4001 0x2000000F []) (fun t => (t.cores[0]).walk == none && (t.cores[0]).tlb[0] == some { vpn := 3, pte := 0x2000000F }) = true ∧
    after (.tableWalkComplete 0) (walking 0x4000 0 []) (fun t => (t.cores[0]).walkFault == some (0x3000, 0)) = true ∧
    after (.tableWalkComplete 0) (walking 0x4001 0x2000004F []) (fun t => (t.cores[0]).walkFault == some (0x3000, 0)) = true ∧
    (((walking 0 0 [0x800]).cores[0]).walkL1 = none ∧ ((walking 0 0 [0x800]).cores[0]).ueAt 0x2000 8 = true ∧
      after (.tableWalkComplete 0) (walking 0x4001 0x2000000F [0x801]) (fun t => (t.cores[0]).walkFault == some (0x3000, 0x200)) = true ∧
      after (.tableWalkComplete 0) (walking 0x4001 0x2000000F [0x1006]) (fun t => (t.cores[0]).walkFault == some (0x3000, 0x200)) = true) ∧
    after (.tableWalkComplete 0) (let s := walking 0 0x2000000F []; s.setCore 0 { s.cores[0] with walkL1 := some 0x4001 })
      (fun t => (t.cores[0]).walk == none && (t.cores[0]).walkL1 == none && (t.cores[0]).tlb[0] == some { vpn := 3, pte := 0x2000000F }) = true := by decide +kernel

/-- The Holm's access. -/
def hc : Acc := { src := 4, tag := 0, user := false }

theorem wit_cctl : let s := core0 (fun c => { c with sram := [(0x50, 1)], sp := 8 })
    after (.cctlRst hc 0) s (fun t => (t.cores[0]).halted && (t.cores[0]).haltReq && (t.cores[0]).sram == [] && (t.cores[0]).sp == 0x40000 && (t.cores[0]).cst == 1) = true ∧
    after (.cctlHalt hc 0 true) s (fun t => (t.cores[0]).halted) = true ∧ after (.cctlHalt hc 1 false) s (fun t => !(t.cores[1]).halted) = true ∧
    after (.cctlHalt { hc with src := 1 } 0 true) s (fun t => !(t.cores[0]).haltReq) = true ∧ after (.cctlStep hc 1) s (fun t => (t.cores[1]).pc == 0) = true := by
  decide +kernel
theorem wit_cctl_step : let s := at' .service id
    (s.cores[0]).halted = true ∧ (s.cores[0]).walk = none ∧ rdByte 0 (s.cores[0]).sram 0 = 0 ∧ rdByte 0 (s.cores[0]).sram 1 = 0 ∧ (s.setCore 0 { s.cores[0] with haltReq := false, halted := false }).coreReady 0 = true ∧
    after (.cctlStep hc 0) s (fun t => (t.cores[0]).pc == 2 && (t.cores[0]).halted) = true := by decide +kernel

/-! ### The vector unit -/

/-- Core 0 with VE, stack `l` and vector unit `f`. -/
def vec0 (l : List Slot) (f : VecUnit → VecUnit) : State :=
  core0 (fun c => { c with cst := 0x9, stack := l, sp := 0x1000, vec := f c.vec })
def va (ty : BitVec 3) (vd vs1 vs2 : BitVec 5) : VArgs := { ty := ty, men := false, vs2 := vs2, vs1 := vs1, vd := vd }

theorem wit_vec : (vec0 [] id).coreReady 0 = true ∧ ((vec0 [] id).cores[0]).ve = true ∧ (VOp.int .add).legal (va 2 1 2 3) 0 4 0 = true ∧
    (VOp.mem .ld).legal (va 0 31 0 0) 0 16 0 = true ∧ (VOp.mem .deal).legal (va 0 1 0 0) 2 4 0 = true := by decide +kernel
theorem wit_vadd : after (.vadd 0 (va 2 1 2 3)) (vec0 [] (fun v => { v with vl := 4 })) (fun t => (t.cores[0]).pc == 4 && (t.cores[0]).vec.queue.length == 1) = true ∧
    after (.vld 0 (va 0 31 0 0)) (vec0 [.val 0x40] (fun v => { v with vl := 16 })) (fun t => (t.cores[0]).stack == [] && (t.cores[0]).vec.queue.map (fun e => e.a) == [0x40]) = true ∧
    after (.vadd 0 (va 7 1 2 3)) (vec0 [] id) (fun t => (t.cores[0]).ecause == 1) = true ∧
    after (.vadd 0 (va 2 1 2 3)) (core0 (fun c => { c with cst := 1, sp := 0x1000 })) (fun t => (t.cores[0]).ecause == 1) = true ∧
    after (.vadd 0 (va 2 1 2 4)) (vec0 [] (fun v => { v with grp := 1 })) (fun t => (t.cores[0]).ecause == 1) = true ∧
    after (.vdeal 0 (va 0 1 0 0) 2) (vec0 [.val 0x40] (fun v => { v with vl := 4 })) (fun t => (t.cores[0]).vec.queue.map (fun e => e.k) == [2]) = true := by decide +kernel
theorem wit_vsetvl : after (.vsetvl 0 (va 0 0 0 0)) (vec0 [.val 100] (fun v => { v with grp := 2 })) (fun t => (t.cores[0]).stack == [.val 64] && (t.cores[0]).vec.vl == 64) = true ∧
    after (.vsetvl 0 (va 6 0 0 0)) (vec0 [.val 3] id) (fun t => (t.cores[0]).stack == [.val 3]) = true := by decide +kernel
theorem wit_vreads : after (.vmrd 0 (va 0 3 0 0)) (vec0 [] (fun v => { v with vm := v.vm.set 3 0x100000002 })) (fun t => (t.cores[0]).stack == [.val 1, .val 2]) = true ∧
    after (.vmvxs 0 (va 0 0 4 0)) (vec0 [.val 15] (fun v => { v with v := v.v.set 4 ((0x80 : BitVec 128) <<< 120) })) (fun t => (t.cores[0]).stack == [.val 0xFFFFFF80]) = true ∧
    after (.vmvxs 0 (va 0 0 4 0)) (vec0 [.val 16] id) (fun t => (t.cores[0]).stack == [.val 0]) = true ∧
    after (.vsync 0) (vec0 [] id) (fun t => (t.cores[0]).pc == 4) = true := by decide +kernel

/-- A queued entry. -/
def entry (op : VOp) (v : VArgs) (a : Word) (vl : BitVec 7) : VEntry :=
  { pc := 0x40, op := some op, args := v, k := 0, a := a, b := 0, nsc := 1, vl := vl, grp := 0, rm := 0, ftz := false, start := 0 }

theorem wit_vresume : after (.vresume 0) (vec0 [] (fun v => { v with valid := true, vstart := 2, faulted := [entry (.mem .ld) (va 0 1 0 0) 8 4] }))
    (fun t => !(t.cores[0]).vec.valid && (t.cores[0]).vec.queue.map (fun e => e.start) == [2] && (t.cores[0]).vec.faulted == []) = true := by decide +kernel
theorem wit_vsave : after (.vsave 0 none) (vec0 [.val 0x800] (fun v => { v with v := v.v.set 31 7, vl := 64 }))
    (fun t => (t.cores[0]).wordAt 0x9F0 == 7 && (t.cores[0]).wordAt 0xA24 == 64 && (t.cores[0]).stack == [] && (t.cores[0]).dst == 0xA90) = true := by decide +kernel
theorem wit_vload : after (.vload 0 none) (core0 (fun c => { c with cst := 9, stack := [.val 0x800], sram := wrBytes 0 (wrBytes 0 c.sram 0x9F0 [7]) 0xA24 [64] }))
    (fun t => (t.cores[0]).vec.v[31] == 7 && (t.cores[0]).vec.vl == 64 && (t.cores[0]).vec.v[0] == 0 && (t.cores[0]).src == 0xA90) = true := by decide +kernel

/-- Core 0 with `x` in front of its vector queue and two registers set. -/
def vecRun (x : VEntry) : State := vec0 [] (fun v => { v with queue := [x], v := ((v.v.set 2 0x000000010000000200000003FFFFFFFF).set 3 1).set 1 9 })

theorem wit_late : ((vecRun (entry .mv (va 2 1 2 0) 0 1)).cores[0]).late = none ∧ ((vecRun (entry .mv (va 2 1 2 0) 0 1)).cores[0]).haltReq = false ∧
    ((vecRun (entry .mv (va 2 1 2 0) 0 1)).cores[0]).te = false ∧
    after (.vectorExecute 0) (vecRun (entry .mv (va 4 1 2 0) 0 2)) (fun t => (t.cores[0]).vec.v[1] == 0x00000003FFFFFFFF) = true ∧
    after (.vadd 0 (va 2 1 2 3)) (vec0 [] (fun v => { v with vl := 5 })) (fun t => (t.cores[0]).ecause == 1) = true := by decide +kernel
theorem wit_velems : (VOp.int .add).legal (va 2 1 2 3) 0 3 0 = true ∧
    after (.vectorExecute 0) (vecRun (entry (.int .add) (va 2 1 2 3) 0 3)) (fun t => (t.cores[0]).vec.v[1] == 0x000000020000000300000000) = true ∧
    after (.vectorExecute 0) (vecRun (entry (.intX .add) (va 2 1 2 0) 5 2)) (fun t => (t.cores[0]).vec.v[1] == 0x0000000800000004) = true ∧
    after (.vectorExecute 0) (vecRun (entry .mv (va 2 1 2 0) 0 1)) (fun t => (t.cores[0]).vec.v[1] == 0xFFFFFFFF) = true ∧
    (VOp.cmp .lt).legal (va 2 3 2 3) 0 4 0 = true ∧
    after (.vectorExecute 0) (vecRun (entry (.cmp .lt) (va 2 3 2 3) 0 4)) (fun t => (t.cores[0]).vec.vm[3] == 1) = true := by decide +kernel
theorem wit_vfault : after (.vectorExecute 0) (vecRun (entry (.mem .ld) (va 2 1 0 0) 2 3)) (fun t => (t.cores[0]).vec.valid && (t.cores[0]).vec.kind == 1 && (t.cores[0]).vec.vfva == 2) = true ∧
    after (.vectorExecute 0) (vecRun (entry (.mem .ld) (va 2 1 0 0) 0x40000 3)) (fun t => (t.cores[0]).vec.kind == 2 && (t.cores[0]).vec.vfpc == 0x40) = true := by decide +kernel

/-! ### The array -/

/-- Archipelago 0 a stream of its own, every island ready, `f` applied to its sequencer and `g` to its mould. -/
def arr (f : Seq → Seq) (g : Mould → Mould) : State :=
  at' .survey (fun s => { s with
    isl := s.isl.map (fun i => { i with ready := true })
    arch := s.arch.set 0 { s.arch[0] with
      seq := f { s.arch[0].seq with part := { s.arch[0].seq.part with inStream := true }, mode := .running, pc := 0x40 }
      mould := g { s.arch[0].mould with loaded := true } } })

/-- A mould with `w` at 0x40. -/
def word40 (w : Micro) (m : Mould) : Mould := { m with word := SMap.set 0 m.word 0x40 w }

/-- F = 1 everywhere into plane 3, LC1 loaded with 5, global OR; `nxt` in the control fields. -/
def mwTest (nxt : Nat) : Micro := BitVec.ofNat 144 (0xFF + 3 * 2 ^ 55 + 2 * 2 ^ 73 + 2 ^ 84 + 2 ^ 96 + 2 ^ 98 + 5 * 2 ^ 120 + nxt * 2 ^ 104 + 0x123 * 2 ^ 107)

theorem wit_alone : let s := arr id (word40 (mwTest 0))
    s.streamOf 0 = [0] ∧ s.domainOpen 264 = true ∧ s.mode ≠ .safeStop ∧ s.streamReady [0] = true ∧ s.arch[0].seq.part.twin = false ∧ s.arch[0].seq.part.lat = false ∧ s.arch[0].twin.pend = false ∧
    s.arch[0].twin.found = [] ∧ s.arch[0].tide.phase = 0 ∧ (∀ p q : Fin 32, s.islAt 0 p = s.islAt 0 q → p = q) ∧ s.regrouping 0 = false ∧ s.arch[0].seq.stepSlot = none ∧ s.arch[0].seq.ctx.mop = none ∧ s.holm.jobs = [] ∧ s.arch[0].mould.delta = [] ∧
    mwReserved (mwTest 0) = false ∧ mwReserved (mwTest 1) = false ∧ mwReserved (mwTest 2) = false ∧ mwReserved (mwTest 3) = false ∧ mwCond (mwTest 1) = 0 := by
  decide +kernel

theorem wit_issue : after (.microwordIssue 0) (arr id (word40 (mwTest 0))) (fun t => (t.arch[0]).seq.pc == 0x41 && (t.arch[0]).seq.lastPc == 0x40 &&
      (t.arch[0]).seq.ctx.lc[1] == 5 && (t.arch[0]).seq.ctx.red.orA && (t.isl[31]).raw 3 == BitVec.allOnes 256 && (t.isl[31]).raw 2 == 0 &&
      (t.isl[33]).raw 3 == 0) = true := by decide +kernel
theorem wit_issue_next : after (.microwordIssue 0) (arr id (word40 (mwTest 1))) (fun t => (t.arch[0]).seq.pc == 0x123) = true ∧
    after (.microwordIssue 0) (arr id (word40 (mwTest 2))) (fun t => (t.arch[0]).seq.pc == 0x123 && (t.arch[0]).seq.ctx.stack == [0x41]) = true ∧
    after (.microwordIssue 0) (arr (fun q => { q with ctx := { q.ctx with stack := [0x99, 0x77] } }) (word40 (mwTest 3)))
      (fun t => (t.arch[0]).seq.pc == 0x99 && (t.arch[0]).seq.ctx.stack == [0x77]) = true ∧
    after (.microwordIssue 0) (arr id (word40 (mwTest 1 + (1 : Micro) <<< 100))) (fun t => (t.arch[0]).seq.pc == 0x41) = true := by decide +kernel

theorem wit_element : let i : IslSt := { (State.reset.isl[0]) with c := 1, k := BitVec.allOnes 256 }
    let w : Micro := BitVec.ofNat 144 (0xFF + 0x0F * 2 ^ 8 + 2 ^ 16 + 2 ^ 73)
    let v := i.pour { w := w, odd := false, pa := 0, pb := 0, pw := 5, news := 0, planeIn := none, twx := false }
    v.f = BitVec.allOnes 256 ∧ v.isl.c = BitVec.allOnes 256 ∧ v.isl.raw 5 = BitVec.allOnes 256 ∧ i.delta = [] ∧ i.inj = false := by decide +kernel

theorem wit_stops : after (.microwordIssue 0) (arr id (fun m => { m with delta := [(0x40, 3)] })) (fun t => (t.arch[0]).seq.mode == .fault && (t.arch[0]).seq.seqFault.cause == 3) = true ∧
    mwReserved ((1 : Micro) <<< 143 ||| (1 : Micro) <<< 142) = true ∧
    after (.microwordIssue 0) (arr id (word40 ((1 : Micro) <<< 143 ||| (1 : Micro) <<< 142))) (fun t => (t.arch[0]).seq.seqFault == { valid := true, fpc := 0x40, cause := 5 }) = true ∧
    after (.trapWatchdogExpiry 0) (arr (fun q => { q with wdog := 1, slot0 := some { pc := 0, waiting := false, ctx := SeqCtx.start, tnt := false, cause := .halt, parityErr := 0 } }) id)
      (fun t => (t.arch[0]).seq.seqFault.cause == 7 && (t.arch[0]).seq.tfSub == 2) = true ∧
    (arr (fun q => { q with haltReq := true }) id).arch[0].seq.lastNt = false ∧
    after (.microTrap 0) (arr (fun q => { q with haltReq := true }) id)
      (fun t => (t.arch[0]).seq.mode == .halted true && (t.arch[0]).seq.slot0.map (fun x => (x.pc, x.cause)) == some (0x40, .halt)) = true := by decide +kernel

/-- A record for archipelago 0 at entry 0x1900. -/
def record : PourRec := { bits := 0x1900 + (1 <<< 16) + (1 <<< 100), core := 2, tag := 7 }

theorem wit_release : recordCheck record [0x1900] (maskOf [0]) false = none ∧
    after (.dispatchWaitEnd 0) (arr (fun q => { q with mode := .dispatchWait, queue := [record] }) (fun m => { m with entries := [0x1900] }))
      (fun t => (t.arch[0]).seq.pc == 0x1900 && (t.arch[0]).seq.mode == .running && (t.arch[0]).seq.queue == [] && (t.arch[0]).seq.ctx.cur == some record) = true ∧
    after (.waitRelease 0) (arr (fun q => { q with mode := .parkWait, pc := 0x41 }) (word40 ((6 : Micro) <<< 104 ||| (14 : Micro) <<< 100)))
      (fun t => (t.arch[0]).seq.mode == .running && (t.arch[0]).seq.pc == 0x41) = true ∧
    after (.framebarRelease 0) (arr (fun q => { q with mode := .barrier }) (word40 ((4 : Micro) <<< 140)))
      (fun t => (t.arch[0]).seq.pc == 0x41 && (t.arch[0]).seq.mode == .running) = true ∧
    after (.latbarRelease 0) (arr (fun q => { q with mode := .barrier }) (word40 ((3 : Micro) <<< 140)))
      (fun t => (t.arch[0]).seq.pc == 0x41 && (t.arch[0]).seq.latSeq == 1) = true ∧
    after (.reductionResult 0 .cntDev) (arr (fun q => { q with mode := .stalled, ctx := { q.ctx with red := { q.ctx.red with pendCntD := true } } }) id)
      (fun t => (t.arch[0]).seq.mode == .running && !(t.arch[0]).seq.ctx.red.pendCntD) = true ∧
    after (.reductionResult 0 .orArch) (arr (fun q => { q with mode := .stalled, ctx := { q.ctx with red := { q.ctx.red with pendOrA := true } } }) id)
      (fun t => (t.arch[0]).seq.mode == .running && !(t.arch[0]).seq.ctx.red.pendOrA) = true := by decide +kernel

theorem wit_mould : after (.mouldScrub 0) (arr id (fun m => { m with delta := [(0, 3)] })) (fun t => (t.arch[0]).mould.sue && (t.arch[0]).mould.rewrite == [0] &&
      (t.arch[0]).mould.scrubPos == 1) = true ∧
    after (.mouldWordRewrite 0) (arr (fun q => { q with mode := .dispatchWait }) (fun m => { m with rewrite := [4], delta := [(4, 3)], verified := [(4, 9)] }))
      (fun t => SMap.get (0 : Micro) (t.arch[0]).mould.word 4 == 9 && (t.arch[0]).mould.delta == [] && (t.arch[0]).mould.rewrite == []) = true ∧
    after (.patternReplacement 1) (at' .survey (fun s => { s with arch := s.arch.set 1 { s.arch[1] with
        mould := { s.arch[1].mould with repl := [{ first := 8191, words := [5], entries := [] }] } } }))
      (fun t => SMap.get (0 : Micro) (t.arch[1]).mould.word 8191 == 5 && (t.arch[1]).mould.repl == []) = true := by decide +kernel

/-- GUARD with a mismatch of pair 3 found. -/
def found3 : State := at' .guard (fun s => { s with arch := s.arch.set 6 { s.arch[6] with twin := { s.arch[6].twin with found := [{ cause := .data, row := 1, col := 2, pc := 3 }] } } })

theorem wit_twinfault : after (.twinCompareMismatch 3) found3 (fun t => (t.arch[6]).twin.pend && (t.arch[7]).twin.pend && (t.arch[6]).twin.cnt == 1 &&
      (t.arch[6]).twin.fault == { valid := true, mis := { cause := .data, row := 1, col := 2, pc := 3 } } && (t.cores[3]).irq.getLsbD 1 && t.vital.leaveDue == some 1) = true := by
  simp only [after, exec, execTwinCompareMismatch, State.sendPosted, hSrc_vitalHeader]
  decide +kernel

theorem wit_twin :
    (let s := at' .guard (fun s => { s with arch := vmod s.arch (1 : Fin 8) (fun x => { x with seq := { x.seq with part := { x.seq.part with twin := true } } }) })
     s.oddTwin 1 = true ∧ (s.islands 1).contains 34 = true ∧
     after (.islandReady 34) s (fun t => (t.isl[34]).raw 8191 == BitVec.allOnes 256 && (t.isl[34]).k == 0 && (t.isl[34]).c == BitVec.allOnes 256) = true) ∧
    after (.islandReady 263) (at' .survey id) (fun t => (t.isl[263]).ready && (t.isl[263]).k == BitVec.allOnes 256) = true := by decide +kernel

/-- The record of an 8-bit operation on planes 0 to 7 and 8 to 15, LIT 8; PE 0 holds 0x80 and 0xFF there. -/
def rec8 : PourRec := { bits := 8 * 2 ^ 45 + 8 * 2 ^ 84 + 8 * 2 ^ 100, core := 0, tag := 0 }
def pes8 : State := let s := at' .survey id
  { s with isl := s.isl.map (fun i => { i with mem := (List.range 9).foldl (fun m k => SMap.set 0 m (7 + k) 1) [] }) }

theorem wit_integers : let v (op : MacroOp) (j : Nat) := pes8.macroVal 0 0 op rec8 (0, 0) j
    rec8.width = 8 ∧ pes8.peVal (0, 0) (rec8.arg 0) 8 = 0x80 ∧ pes8.peVal (0, 0) (rec8.arg 1) 8 = 0xFF ∧
    v .add 0 = 0x7F ∧ v .sub 0 = 0x81 ∧ v .neg 0 = 0x80 ∧ v .mul 0 = 0x80 ∧ v (.div true) 0 = 0x80 ∧ v (.div true) 1 = 0 ∧
    v (.div false) 0 = 0 ∧ v (.div false) 1 = 0x80 ∧ litShift rec8.lit.toNat = 8 ∧ v .shl 0 = 0 ∧ v .shr 0 = 0 ∧ v .sar 0 = 0xFF ∧
    State.macroVal (at' .survey id) 0 0 (.div true) rec8 (0, 0) 0 = 0xFF := by decide +kernel

/-- The last response is to `acc` with status `st`. -/
def told (t : State) (st : Status) : Bool := (t.net.responses.getLast?).map (fun r => r.status) == some st

theorem wit_seqctl : (arr id id).archGate hc 0 = none ∧ (arr id id).leadOf 0 = 0 ∧ (arr id id).vitalPairHeld 0 = false ∧
    after (.seqctlHalt hc 0 true) (arr (fun q => { q with mode := .dispatchWait }) id) (fun t => (t.arch[0]).seq.mode == .halted false && told t .ok) = true ∧
    after (.seqctlHalt hc 0 false) (arr (fun q => { q with mode := .halted false, haltReq := true }) id) (fun t => (t.arch[0]).seq.mode == .dispatchWait) = true ∧
    after (.seqctlStep hc 0) (arr id id) (fun t => told t .denied) = true ∧
    after (.seqctlStep hc 0) { arr (fun q => { q with mode := .halted true, haltReq := true, slot0 := some { pc := 0x40, waiting := false, ctx := SeqCtx.start, tnt := false, cause := .halt, parityErr := 0 } })
        (word40 (mwTest 0)) with mode := .service }
      (fun t => (t.arch[0]).seq.mode == .halted true && (t.arch[0]).seq.slot0.map (fun x => x.pc) == some 0x41 && told t .ok) = true ∧
    mwNxt (mwTest 0) = 0 ∧ mwSpc (mwTest 0) = 0 ∧ mwLdl (mwTest 0) = 0 ∧ (mwEdge (mwTest 0)).toNat < 3 ∧
    after (.seqctlClrfault hc 0) (arr (fun q => { q with mode := .fault, seqFault := { valid := true, fpc := 1, cause := 3 } }) id)
      (fun t => (t.arch[0]).seq.mode == .dispatchWait && !(t.arch[0]).seq.seqFault.valid && told t .ok) = true ∧
    after (.pqctlFlush hc 0) (arr (fun q => { q with queue := [record] }) id) (fun t => (t.arch[0]).seq.queue == [] && t.pour.compl.map (fun c => c.tag) == [7] && told t .ok) = true ∧
    after (.mcecntCeclr hc 0) (arr id (fun m => { m with ceCnt := 9 })) (fun t => (t.arch[0]).mould.ceCnt == 0 && told t .ok) = true ∧
    after (.ictrlCeclr hc 32) (arr id id) (fun t => (t.isl[32]).cecnt == 0 && told t .ok) = true ∧
    after (.ictrlInj hc 32 5 1 true) (arr id id) (fun t => told t .denied && !(t.isl[32]).inj) = true ∧
    after (.ictrlInj hc 32 5 1 true) { arr id id with mode := .service } (fun t => told t .ok && (t.isl[32]).inj && (t.isl[32]).injPlane == 5 && (t.isl[32]).injD) = true := by
  decide +kernel

/-! ### Registers, networks, memories -/

theorem wit_regs : after (.registerWrite hc 0x40500200 0xF) (at' .survey (fun s => { s with net := { s.net with neterr := 0xFF } })) (fun t => t.net.neterr == 0xF0 && told t .ok) = true ∧
    after (.registerWrite hc 0x4050017C 0xFFFFFFFF) (at' .survey id) (fun t => t.net.tout[31] == 0xFFFFF && told t .ok) = true ∧
    after (.taintSourceRead { hc with src := 3 } 0x40500200) (at' .survey id) (fun t => (t.cores[3]).tnt && told t .ok) = true ∧
    (let r : Request := { src := 1, tag := 2, user := false, op := .read 4, addr := 0x40500200 }
     after (.registerBlockAccess r) (at' .survey (fun s => { s with net := { s.net with requests := [r] } })) (fun t => (t.cores[1]).tnt && told t .ok && t.net.requests == [])) = true ∧
    after (.timestampLowRead hc false) (at' .survey id) (fun t => told t .ok) = true ∧
    after (.byteloRead hc 31) (at' .survey (fun s => { s with net := { s.net with stat := vmod s.net.stat (31 : Fin 32) (fun x => { x with bytes := 0x700000005 }) } }))
      (fun t => (t.net.stat[31]).byteHi == 7 && t.net.responses.map (fun r => r.data) == [[5, 0, 0, 0]]) = true ∧
    after (.soundStatClr hc 31) (at' .survey (fun s => { s with net := { s.net with stat := vmod s.net.stat (31 : Fin 32) (fun x => { x with reqCnt := 7 }) } }))
      (fun t => (t.net.stat[31]).reqCnt == 0 && told t .ok) = true := by decide +kernel

theorem wit_taints : accReachesRegs hc = true ∧ (at' .survey id).domainOpen 312 = true ∧ (at' .survey id).domainOpen 313 = true ∧
    areaOf 0x40500200 = .regs ∧ (regAt 0x40500200).isSome ∧ (regAt 0x40500200).all (fun (b, o) => taints b o) = true ∧
    (let s := at' .survey (fun s => { s with sprue := { s.sprue with streamBase := 0x800 } })
     s.readsTstamp (.read 4) 0x38 = true ∧ after (.taintSourceRead { hc with src := 2 } 0x20000038) s (fun t => (t.cores[2]).tnt) = true) ∧
    after (.registerWrite hc 0x4050017C 5) (at' .survey (fun s => { s with committed := true })) (fun t => t.net.tout[31] == (at' .survey id).net.tout[31] && told t .ok) = true := by
  decide +kernel

/-- A request packet of initiator 6 for node 0, with its check. -/
def hdr0 : BitVec 128 := let h : BitVec 128 := (6 : BitVec 128) <<< 36; setFld h 120 8 (hchk h)

theorem wit_packets : headerOk hdr0 = true ∧ headerOk (hdr0 ^^^ 1) = false ∧ hAge hdr0 < 15 ∧
    after (.routerHeaderArrival (.sound 5) (hdr0 ^^^ ((1 : BitVec 128) <<< 127)) [] false) (at' .survey id) (fun t => t.net.neterr == 0x40 && (t.net.stat[6]).fdrop == 1) = true ∧
    ((at' .survey id).routeNext (.sound 5) hdr0).isSome = true ∧
    after (.routerHeaderArrival (.sound 5) hdr0 [1] false) (at' .survey id) (fun t => t.net.packets.map (fun p => p.payload) == [[1]]) = true ∧
    after (.packetAgeTick (.sound 5) 0) (at' .survey (fun s => { s with net := { s.net with packets := [{ place := .sound 5, port := some 0, vc := false, hdr := hdr0, payload := [1], poisoned := false, msg := .other, legs := [] }] } }))
      (fun t => t.net.packets.map (fun p => (hAge p.hdr, p.payload)) == [(1, [1])]) = true ∧
    after .routingEpochBarrier (at' .survey (fun s => { s with net := { s.net with epochLoaded := true } })) (fun t => t.net.epoch == 1 && !t.net.drained) = true ∧
    after .epochDrainComplete (at' .survey (fun s => { s with net := { s.net with drained := false, oldInFlight := 0 } })) (fun t => t.net.drained) = true := by decide +kernel

/-- SURVEY with those packets. -/
def packets (ps : List Packet) : State := at' .survey (fun s => { s with net := { s.net with packets := ps } })
/-- A packet with header `h` at node `n`. -/
def pkt (n : Fin 16) (port : Option (Fin 5)) (h : BitVec 128) : Packet :=
  { place := .sound n, port := port, vc := false, hdr := h, payload := [1], poisoned := false, msg := .other
    legs := match port with | some q => [{ place := .sound n, port := q, vc := false, flits := 1 }] | none => [] }
/-- The same header three ages older. -/
def hdr3 : BitVec 128 := sealHeader (setFld hdr0 10 4 3)
/-- Where the packets are. -/
def places (t : State) : List (RouterId × Option (Fin 5) × Bool) := t.net.packets.map (fun p => (p.place, p.port, p.poisoned))

theorem wit_links : let p := pkt 5 (some 0) hdr0
    let x : Hop := { next := .sound 4, port := 2, wraps := false }
    (packets []).arrivalOf (.sound 5) (hdr0 ^^^ ((1 : BitVec 128) <<< 127)) = .fresh ∧ (packets [p]).hop (.sound 5) hdr0 = some x ∧ ((packets [p]).hop (.sound 4) hdr0).isSome ∧
    (packets [p]).credit (hVn p.hdr) (p.legTo x) = true ∧ (packets [p]).first p = true ∧ (packets [pkt 5 none hdr0]).epochHeld (pkt 5 none hdr0) = false ∧
    after (.routerHeaderArrival (.sound 5) hdr0 [1] false) (packets [pkt 5 none hdr0]) (fun t => places t == [(.sound 5, some 0, false)]) = true ∧
    after (.routerHeaderArrival (.sound 4) hdr0 [1] true) (packets [p]) (fun t => places t == [(.sound 4, some 2, true)]) = true ∧
    (packets (p :: List.replicate 4 (pkt 4 (some 2) hdr3))).credit (hVn p.hdr) (p.legTo x) = false ∧
    after (.routerHeaderArrival (.sound 4) hdr0 [1] false) (packets (p :: List.replicate 4 (pkt 4 (some 2) hdr3))) (fun t => (places t).head? == some (.sound 5, some 0, false)) = true ∧
    (packets [p, pkt 5 (some 1) hdr3]).linkFor (pkt 5 (some 1) hdr3) = some x ∧ urgency hdr0 < urgency hdr3 ∧
    after (.routerHeaderArrival (.sound 4) hdr0 [1] false) (packets [p, pkt 5 (some 1) hdr3]) (fun t => (places t).head? == some (.sound 5, some 0, false)) = true ∧
    after (.routerHeaderArrival (.sound 4) hdr3 [1] false) (packets [p, pkt 5 (some 1) hdr3]) (fun t => (places t).getLast? == some (.sound 4, some 2, false)) = true ∧
    (packets [pkt 5 none hdr0, pkt 9 (some 1) (sealHeader (setFld hdr0 14 1 1))]).epochHeld (pkt 5 none hdr0) = true := by decide +kernel

theorem wit_timeouts : after (.requestTimeout 0 5) (core0 (fun c => { c with tags := vmod c.tags (5 : Fin 64) (fun g => { g with alloc := true, out := true, kind := .word }) }))
      (fun t => ((t.cores[0]).tags[5]).quar && (t.cores[0]).irq.getLsbD 17 && t.net.quarantine == [(0, 5)]) = true ∧
    after (.tagQuarantineExpiry 0 5) (core0 (fun c => { c with tags := vmod c.tags (5 : Fin 64) (fun g => { g with quar := true }) })) (fun t => !((t.cores[0]).tags[5]).quar) = true ∧
    (at' .survey (fun s => { s with pwr := { s.pwr with fence := domBit 315 } })).domDrained 315 = true ∧
    after (.domainPowerOff 40) (at' .survey (fun s => { s with pwr := { s.pwr with fence := domBit 40 } })) (fun t => !t.pwr.on.getLsbD 40) = true ∧
    (arr id id).pourRefusal record = none ∧
    after (.pourForward 2) { arr id id with pour := { State.reset.pour with buf := State.reset.pour.buf.set 2 [record] } }
      (fun t => (t.arch[0]).seq.queue == [record] && t.pour.buf[2] == []) = true := by decide +kernel

/-- A request of core 1. -/
def rq (op : ReqOp) (addr : PAddr) : Request := { src := 1, tag := 2, user := false, op := op, addr := addr }
/-- A state in which it is under way, harbour holding `m`. -/
def under (r : Request) (m : SMap Byte) : State := at' .survey (fun s => { s with net := { s.net with requests := [r] }, harbour := { s.harbour with mem := m } })
/-- It was answered OK with `data`. -/
def gotOk (t : State) (data : List Byte) : Bool := t.net.requests == [] && t.net.responses == [{ dst := 1, tag := 2, status := .ok, data := data }]

theorem wit_harbour : let w := rq (.write [1, 2, 3, 4, 5, 6, 7, 8]) 0x21FFFFF8
    (under w []).heldBack w = false ∧ nodeCheck w = none ∧ (under w []).net.quarantine = [] ∧ (under w []).vital.par.pairs = 0 ∧ (under w []).holm.jobs = [] ∧ (under w []).mode ≠ .ebb ∧
    after (.harbourPortARequest w none) (under w [(5, 9)]) (fun t => gotOk t [] && rdByte 0 t.harbour.mem 0x1FFFFFF == 8 && rdByte 0 t.harbour.mem 5 == 9) = true ∧
    after (.harbourPortARequest (rq (.read 2) 0x20000004) none) (under (rq (.read 2) 0x20000004) [(5, 9)]) (fun t => gotOk t [0, 9]) = true ∧
    after (.harbourAtomic (rq (.atomic .add64 0xFFFFFFFFFFFFFFFF) 0x20000000)) (under (rq (.atomic .add64 0xFFFFFFFFFFFFFFFF) 0x20000000) [(1, 1)])
      (fun t => gotOk t [0, 1, 0, 0, 0, 0, 0, 0] && rdByte 0 t.harbour.mem 0 == 0xFF && rdByte 0 t.harbour.mem 1 == 0) = true := by decide +kernel

theorem wit_banks : let s (k : Nat) := at' .survey (fun s => { s with harbour := { s.harbour with testEn := true, banks := vmod s.harbour.banks (15 : Fin 16) (fun b => { b with repaired := List.range k, col := 3, cecnt := 4 }) } })
    after (.harbourTestRegion 15 (some 9)) (s 3) (fun t => (t.harbour.banks[15]).repaired.length == 4 && (t.harbour.banks[15]).nextRegion == 1) = true ∧
    after (.harbourTestRegion 15 (some 9)) (s 4) (fun t => (t.harbour.banks[15]).nospare && (t.cores[3]).irq.getLsbD 18) = true ∧
    after (.bctlColclr hc 15) (s 0) (fun t => (t.harbour.banks[15]).col == 0 && told t .ok) = true ∧
    after (.bctlCeclr hc 15) (s 0) (fun t => (t.harbour.banks[15]).cecnt == 0 && told t .ok) = true := by decide +kernel

theorem wit_windows : let w := rq (.write [1, 2, 3, 4]) 0x100FFFFC
    let m : Request := { src := 4, tag := 2, user := false, op := .read 4, addr := 0x30009FFC }
    let v := rq (.read 4) 0xC0000000
    after (.sramAliasAccess w) (under w []) (fun t => gotOk t [] && rdByte 0 (t.cores[3]).sram 0x3FFFF == 4) = true ∧
    after (.mailboxWindowAccess m) (at' .survey (fun s => { s with net := { s.net with requests := [m] }, holm := { s.holm with mbox := [(0x9FFC, 5)] } }))
      (fun t => t.net.responses.map (fun r => r.data) == [[5, 0, 0, 0]]) = true ∧
    after (.rplctlValidClear hc 3) (at' .survey (fun s => { s with holm := { s.holm with rplValid := Vector.replicate 4 true } })) (fun t => !t.holm.rplValid[3] && t.holm.rplValid[2]) = true ∧
    after (.frmctlNewClear hc 3) (at' .survey (fun s => { s with holm := { s.holm with frmNew := Vector.replicate 4 true } })) (fun t => !t.holm.frmNew[3] && t.holm.frmNew[2]) = true ∧
    (areaOf v.addr = .plane ∨ areaOf v.addr = .word) ∧ (arr id id).viewRefusal v.op v.addr = none ∧
    after (.peViewRequest v) { arr id id with net := { State.reset.net with requests := [v] } } (fun t => t.net.requests == [] && ((t.isl[0]).waiting.map (fun x => x.req)) == [v]) = true ∧
    after (.gatewayViewTimeout 0 1 2) { arr id id with isl := (arr id id).isl.set 0 { ((arr id id).isl[0]) with waiting := [{ req := v, served := 0, got := 0, ue := false, mute := false }] } }
      (fun t => (t.isl[0]).waiting == [] && told t .timeout) = true := by decide +kernel

/-! ### DMA and XLAT -/

/-- Channel 15 enabled with ring base 0x20000000, `f` applied, harbour holding `m`. -/
def dma15 (f : DmaChan → DmaChan) (m : SMap Byte) : State := at' .survey (fun s => { s with
  dma := s.dma.set 15 (f { s.dma[15] with en := true, rsize := 4, base := 0x200000, st := .idle, head := 3, tail := 0 }), harbour := { s.harbour with mem := m } })
/-- A FILL of 8 bytes of 0xAB at harbour offset 0x100. -/
def fill8 : Vector Word 8 := #v[1, 8, 0xABABABAB, 0xABABABAB, 0x20000100, 0, 0, 0]
/-- It stands at the ring base. -/
def fillMem : SMap Byte := wrBytes 0 [] 0 (fill8.toList.flatMap (fun w => bytesLE 4 w.toNat))

theorem wit_dma : (dma15 id fillMem).domainOpen 303 = true ∧ ((dma15 id fillMem).dma[15]).put = 0 ∧ (dma15 id fillMem).net.quarantine = [] ∧ (dma15 id fillMem).mode ≠ .safeStop ∧ ((dma15 id fillMem).dma[15]).descAddr = 0x20000000 ∧ dBad fill8 = false ∧ dOp fill8 = 1 ∧ dLen fill8 = 8 ∧ dRows fill8 = 1 ∧
    dDst fill8 = 0x20000100 ∧ (∀ k : Fin 8, natLE ((List.range 4).map (fun i => rdByte 0 fillMem (4 * k.val + i))) = (fill8[k]).toNat) ∧
    after (.drheadWrite hc 15 0xFFFFF) (dma15 id []) (fun t => (t.dma[15]).head == 0xFFF && told t .ok) = true ∧
    after (.dctlEn hc 15 true) (at' .survey id) (fun t => (t.dma[15]).en && (t.dma[15]).st == .idle && told t .ok) = true ∧
    after (.dctlEn hc 15 false) (dma15 id []) (fun t => !(t.dma[15]).en && (t.dma[15]).st == .off && told t .ok) = true ∧
    after (.dctlSkip hc 15) (dma15 (fun x => { x with st := .faulted, tail := 15 }) []) (fun t => (t.dma[15]).st == .idle && (t.dma[15]).tail == 0 && told t .ok) = true ∧
    after (.dmaDescriptorStart 15) (dma15 id fillMem) (fun t => (t.dma[15]).st == .running && (t.dma[15]).desc == some fill8 && (t.dma[15]).inflight.head? == some 0) = true ∧
    after (.dctlResume hc 15) (dma15 (fun x => { x with st := .faulted, issued := 0 }) fillMem) (fun t => (t.dma[15]).st == .running && (t.dma[15]).inflight.head? == some 0 && told t .ok) = true ∧
    after (.dmaBeatResponse 15) (dma15 (fun x => { x with st := .running, desc := some fill8, issued := 8, inflight := [0] }) fillMem)
      (fun t => (t.dma[15]).st == .idle && (t.dma[15]).tail == 1 && rdByte 0 t.harbour.mem 0x107 == 0xAB && rdByte 0 t.harbour.mem 0x108 == 0 && natLE (rdBytes 0 t.harbour.mem 28 4) == 0x10000008) = true := by
  decide +kernel

theorem wit_xlat : after (.xinv hc 0x5003) (at' .survey (fun s => { s with xlat := { s.xlat with tlb := (s.xlat.tlb.set 0 (some (3, { vpn := 5, pte := 1 }))).set 1 (some (2, { vpn := 5, pte := 1 })) } }))
      (fun t => t.xlat.tlb[0] == none && t.xlat.tlb[1] == some (2, { vpn := 5, pte := 1 }) && told t .ok) = true ∧
    l1Bad 0x20004001 = false ∧ l2Bad 0x2000000F = false ∧ (l1Addr 0x200000 0x3000).toNat = 0x20000000 ∧ (l2Addr 0x20004001 0x3000).toNat = 0x20004018 ∧
    after .xlatWalkComplete (at' .survey (fun s => { s with
        xlat := { s.xlat with ctx := s.xlat.ctx.set 3 0x200000, walks := [{ src := 20, ctx := 3, va := 0x3000, write := false, l1 := none }] }
        harbour := { s.harbour with mem := wrBytes 0 (wrBytes 0 [] 0 (bytesLE 8 0x20004001)) 0x4018 (bytesLE 8 0x2000000F) } }))
      (fun t => t.xlat.walks.length == 0 && t.xlat.tlb[0] == some (3, { vpn := 3, pte := 0x2000000F })) = true := by decide +kernel

/-! ### Lanes, streams, the riser and the strait -/

/-- SURVEY with lane `l` in role `r`, `f` applied to the lane. -/
def lane (l : Fin 16) (r : Word) (f : Lane → Lane) : State := at' .survey (fun s => { s with lanes := vmod s.lanes l (fun x => f { x with lcfg := r }) })

theorem wit_lanes : ((lane 15 4 id).lanes[15]).role = 4 ∧
    after (.sysrefEdge 0) (at' .survey (fun s => { s with rxLinks := vmod s.rxLinks (7 : Fin 8) (fun k => { k with cfg0 := 0x8000000 }) })) (fun t => (t.rxLinks[7]).lemcOk) = true ∧
    after (.sysrefEdge 0x80) (at' .survey (fun s => { s with rxLinks := vmod s.rxLinks (7 : Fin 8) (fun k => { k with cfg0 := 0x8000000, lemcOk := true, lemc := 9 }) })) (fun t => (t.rxLinks[7]).lemc == 0) = true ∧
    after (.laneLinkLoss 15) (lane 15 1 (fun x => { x with up := true, lock := true })) (fun t => !(t.lanes[15]).up && (t.cores[3]).irq.getLsbD 17 &&
      t.events.map (fun e => e.data) == [[15]]) = true ∧
    after (.ethernetLinkUp 15) (lane 15 4 id) (fun t => (t.lanes[15]).up && (t.lanes[15]).lock) = true ∧
    after (.ethFrameRx 15 [] false) (lane 15 4 (fun x => { x with up := true })) (fun t => (t.lanes[15]).ethDrop == 1 && t.ethTx == []) = true ∧
    after (.laneRecalibrationDone 15 true) (lane 15 0 (fun x => { x with recal := true })) (fun t => !(t.lanes[15]).recal && t.events.map (fun e => e.data) == [[15, 1]]) = true := by
  decide +kernel

/-- Receive link 7 over lane 3, its LEMC established. -/
def link7 (f : Lane → Lane) : State := { lane 3 0x1C1 f with rxLinks := vmod State.reset.rxLinks (7 : Fin 8) (fun k => { k with cfg0 := 0x8000000, lemcOk := true }) }

theorem wit_link : (link7 id).rxLanes 7 = [3] ∧
    after (.linkAligned 7) (link7 id) (fun t => (t.lanes[3]).lock && (t.lanes[3]).aligned && (t.lanes[3]).up) = true ∧
    after (.jesdMultiblockRx 7 false []) (link7 (fun x => { x with aligned := true })) (fun t => (t.rxLinks[7]).lemc == 1 && (t.lanes[3]).errCnt == 1) = true := by decide +kernel

/-- An enabled entry of channel 127: 16-bit words, one field of 2 PEs at PE 0xFF00, 4 fills, 8 words. -/
def chan (f : Stream → Stream) : Stream :=
  f { Stream.fresh 0 #v[0x07FD1000, 0x10000, 0x0001FF00, 0, 4, 8, 0, 0, 0, 0] with enabled := true, inFrame := true }
/-- A bitstream that passes every check. -/
def bits : Bitstream :=
  { raw := [], presets := Vector.replicate 224 0, engines := Vector.replicate 8 .off, cells := [], frames := [], levels := 0, portEn := true, relcnt := 0, relpol := false
    fck := Vector.replicate 4 0, osc := Vector.replicate 4 0, init := 0
    net := { wires := [], inputs := [], terms := [], mcells := [], outs := [], lines := [], gck := Vector.replicate 7 (.osc 0) }, crc := 0, formatOk := true }
/-- It is the one cached entry. -/
def port (f : Stream → Stream) : State := { arr id id with
  sprue := { State.reset.sprue with cache := [chan f] }, shore := { State.reset.shore with gsr := false, bits := some bits } }

/-- The entry with one word waiting. -/
def waits : State := port (fun e => { e with waiting := [{ field := 0, idx := 3, fill := 1, frame := 0, word := 0xAB }] })

theorem wit_stream : (port id).portOpen = true ∧ (port id).domainOpen 312 = true ∧ (port id).net.lost[21] = 0 ∧ (chan id).src = 1 ∧ (chan id).srcsel = 127 ∧ (chan id).deint = 0 ∧ (chan id).decim = 0 ∧ (chan id).fmt = 3 ∧ (chan id).total = 8 ∧
    (chan id).frameWords = 8 ∧ (chan id).skipWords = 0 ∧ (chan id).dsth = false ∧
    after (.streamPortBeat 127 { w0 := some 0x1AB, w1 := none }) (port (fun e => { e with got := e.got.set 0 3 })) (fun t => t.shore.portSeq[127] == 1 &&
      t.sprue.cache.map (fun e => (e.seq, e.got[0], e.waiting)) == [(1, 4, [{ field := 0, idx := 3, fill := 1, frame := 0, word := 0xAB }])]) = true ∧
    after (.triggerRise 6) (port id) (fun t => t.shore.marks[127] == 0x40) = true ∧
    peSplit 0xFF01 = (7, 16, 241) ∧
    waits.fillOpen 7 16 = true ∧ (waits.arch[7]).tide.phase = 0 ∧ (chan id).dropping = false ∧ (chan id).item = 0 ∧
    waits.bankFree (chan id) 1 0xFF01 = true ∧
    after (.ladleFill 0) waits (fun t => t.sprue.cache.map (fun e => e.waiting) == [[]]) = true ∧
    after (.ladleFill 0) waits (fun t => ((t.isl[t.islAt 7 16]).ladle.bank1[0]).getLsbD 241) = true ∧
    after (.ladleFill 0) waits (fun t => (t.isl[t.islAt 7 16]).ladle.written1.getLsbD 241) = true ∧
    after (.sctlResume hc 0) (port (fun e => { e with status := 4, last := 2 })) (fun t => t.sprue.cache.map (fun e => e.status) == [2] && told t .ok) = true ∧
    after (.sctlInval hc 0) (port (fun e => { e with enabled := false })) (fun t => t.sprue.cache == [] && told t .ok) = true := by decide +kernel

theorem wit_riser : let s := { lane 15 4 id with
      arch := vmod State.reset.arch (7 : Fin 8) (fun x => { x with ring := { x.ring with bank := false, drain0 := some { ctx := 15, group := 9, rc0 := 0x100000, rc1 := 0, rc2 := 0 } } })
      riser := { State.reset.riser with ctx := vmod State.reset.riser.ctx (15 : Fin 16) (fun x => { x with rc0 := x.rc0 ||| 0x40 }) } }
    s.ethLane = some 15 ∧ s.domainOpen 313 = true ∧ s.pwr.fence.getLsbD 271 = false ∧ s.net.lost[31] = 0 ∧ (s.riser.ctx[15]).markAfter = 0 ∧ ({ s.riser.ctx[15] with rc0 := 0x100000 } : RCtx).dest = 2 ∧
    after (.riserOutbankDrain 7) s (fun t => t.ethTx.length == 1 && (t.arch[7]).ring.drain0 == none && (t.riser.ctx[15]).groups == 1) = true := by decide +kernel
theorem wit_replay : (at' .survey id).mode.sendsJesd = true ∧
    after (.replayHalfSwitch 3) (at' .survey (fun s => { s with
        txLinks := vmod s.txLinks (3 : Fin 4) (fun k => { k with lemcOk := true })
        riser := { s.riser with replay := vmod s.riser.replay (3 : Fin 4) (fun r => { r with filled := true }) } }))
      (fun t => (t.riser.replay[3]).playing == some false && !(t.riser.replay[3]).filled) = true := by decide +kernel

/-- Lane 15 a strait, its link `f`. -/
def strait (f : Strait → Strait) : State := { lane 15 5 id with straits := vmod State.reset.straits (1 : Fin 2) f, latpos := 0x15 }
/-- The header of message 1 with data `b`. -/
def msg1 (b : StraitBody) : StraitHdr := let h : StraitHdr := { seq := 1, ack := 0, credits := 1, nak := false, crc := 0 }; { h with crc := msgCrc h b }
theorem test_crc32c : crc32c [0x31, 0x32, 0x33, 0x34, 0x35, 0x36, 0x37, 0x38, 0x39] = 0xE3069283 := by decide +kernel
/-- A heartbeat of frame 9. -/
def beat : HbBody := { f := 9, us := 3, mode := 8, win := 0, degr := false, running := true, latbar := 0, election := 0 }

theorem wit_strait : (strait id).straitOn true = true ∧ (strait id).latLanes.contains true = true ∧
    after (.ack true (msg1 .ack)) (strait id) (fun t => (t.straits[1]).recvSeq == 1) = true ∧
    after (.bar true (msg1 (.bar 5)) 5) (strait (fun x => { x with up := true })) (fun t => (t.straits[1]).barRx == some 5) = true ∧
    (strait (fun x => { x with up := true })).latLink true = true ∧ (strait id).latLanes.contains false = false ∧ (strait id).lattice.kinds = [] ∧
    (strait id).neighbour 0 = some true ∧
    after (.edge true (msg1 (.edge 3 0 7)) 3 0 7) (strait (fun x => { x with up := true })) (fun t => (t.straits[1]).edgeRx == [(3, 7)]) = true ∧
    after (.red true (msg1 (.red true 5 0 0)) true 5 0 0) (strait (fun x => { x with up := true })) (fun t => t.lattice.redRx[0] == [(true, 5)]) = true ∧
    after (.hb true (msg1 (.hb beat)) beat) (strait (fun x => { x with recvSeq := 9 })) (fun t => (t.straits[1]).recvSeq == 1 && (t.straits[1]).hbValid == 1 && !(t.straits[1]).up) = true ∧
    ((List.finRange 4).any (fun d => (strait id).neighbour d == some true)) = true ∧
    after (.assay true (msg1 (.assay 7 [1])) 7 [1]) { strait (fun x => { x with up := true }) with vital := { State.reset.vital with par := { State.reset.vital.par with partner := 2 } } }
      (fun t => t.vital.partnerRx.map (fun a => a.f) == [7]) = true ∧
    after (.ack true (msg1 (.bar 5))) (strait id) (fun t => (t.straits[1]).nakTx && (t.straits[1]).recvSeq == 0 && (t.lanes[15]).errCnt == 1 &&
      (t.straits[1]).outbox.map (fun m => (m.nak, m.ack)) == [(true, 0)]) = true ∧
    after (.straitReplay true) (strait (fun x => { x with nakRx := some 0, replay := [{ seq := 1, ack := 0, nak := false, credits := 0, body := .bar 2 }] }))
      (fun t => (t.straits[1]).outbox.map (fun m => m.seq) == [1] && (t.straits[1]).nakRx == none) = true ∧
    after (.hbSend 5) (strait id) (fun t => (t.straits[1]).outbox.length == 1) = true ∧
    after (.straitLinkDown true) (strait (fun x => { x with up := true })) (fun t => !(t.straits[1]).up && (t.straits[1]).cut && (t.cores[0]).irq.getLsbD 17) = true ∧
    after .guardEntryHbTimeout { strait id with vital := { State.reset.vital with hbWait := true, nextF := 7 } } (fun t => !t.vital.hbWait && t.vital.nextF == 0) = true := by decide +kernel
theorem wit_hb : after (.hb true (msg1 (.hb beat)) beat) { strait (fun x => { x with hbValid := 1 }) with
      vital := { State.reset.vital with hbWait := true, par := { State.reset.vital.par with partner := 2 } } }
    (fun t => (t.straits[1]).up && t.vital.nextF == 10 && !t.vital.hbWait) = true := by decide +kernel

/-! ### The vital frame -/

/-- GUARD with pair 0 in use, VCORE core 3, `f` applied to the vital state. -/
def guard (f : Vital → Vital) : State := at' .guard (fun s => { s with
  vital := f { s.vital with par := { s.vital.par with pairs := 1, vcore := 3, vlen := 8, frameMs := 10, partner := 0 }, running := true, f := 4, nextF := 5, awaitResume := false } })

theorem wit_frame : (guard (fun v => { v with doneOk := true, assay := some [] })).vital.fault = none ∧ (guard id).holm.txn.st ≠ .accepted ∧
    let begun (t : State) : Bool := t.vital.f == 5 && t.vital.nextF == 6 && t.vital.running && !t.vital.claimed && t.holm.frmNew[3] && t.holm.fseq[3] == 1
    after .frameBoundary (guard (fun v => { v with doneOk := true, assay := some [] })) (fun t => begun t && t.vital.win == .opened) = true ∧
    after .frameBoundary (guard (fun v => { v with frameCause := some 4, win := .opened })) (fun t => begun t && t.vital.win == .pending && t.vital.lcause == 4 && (t.cores[0]).irq.getLsbD 0) = true ∧
    after .frameBoundary (guard (fun v => { v with running := false })) (fun t => begun t && t.vital.win == .pending) = true ∧
    after (.windowLeaveOpen 6) (guard (fun v => { v with win := .opened, leaveDue := some 6 })) (fun t => t.vital.win == .pending && t.vital.lcause == 6 && (t.cores[3]).irq.getLsbD 0) = true := by
  decide +kernel

/-- GUARD with a message of core 3 in its mailbox and GO set. -/
def mail (f : Vital → Vital) (type len : Nat) (payload : List Byte) : State := let s := guard f
  { s with holm := { s.holm with go := Vector.replicate 4 true, mbox := wrBytes 0 [] 0x9010 (bytesLE 2 type ++ bytesLE 2 len ++ bytesLE 4 1 ++ [0, 0, 0, 0, 0, 0, 0, 0] ++ payload) } }

theorem wit_mail : (mail id 2 8 (bytesLE 8 4)).mboxMsg 3 = { type := 2, len := 8, seq := 1, clean := true, payload := bytesLE 8 4 } ∧
    after (.frameClaim 3 1 4) (mail id 2 8 (bytesLE 8 4)) (fun t => t.vital.claimed && !t.holm.go[3] && t.holm.rplValid[3] && !(t.cores[3]).tnt) = true ∧
    after (.frameDone 3 1 4 0 1000) (mail (fun v => { v with claimed := true, challenge := 9, par := { v.par with vwkey := 0, vwmin := 1000 } }) 3 12 (bytesLE 8 4 ++ bytesLE 4 0))
      (fun t => t.vital.doneOk && t.holm.rplValid[3]) = true ∧
    after (.frameDone 3 1 4 1 8000) (mail (fun v => { v with claimed := true }) 3 12 (bytesLE 8 4 ++ bytesLE 4 1)) (fun t => !t.vital.doneOk && t.vital.frameCause == some 4) = true ∧
    4 ∉ (mail id 3 12 (bytesLE 8 4 ++ bytesLE 4 0)).vital.accepted ∧
    after (.frameDone 3 1 4 0 1000) (mail (fun v => { v with claimed := true, challenge := 9, par := { v.par with vwkey := 0, vwmin := 1000 } }) 3 12 (bytesLE 8 4 ++ bytesLE 4 0) |> fun s =>
        { s with harbour := { s.harbour with mem := wrBytes 0 [] 0x1FFF000 (List.replicate 8 0xFF) } }) (fun t => t.vital.assay.isSome) = true ∧
    after (.frameDone 3 1 3 0 1000) (mail (fun v => { v with claimed := true, accepted := [3] }) 3 12 (bytesLE 8 3 ++ bytesLE 4 0)) (fun t => t.vital.frameCause == none && t.holm.rplValid[3]) = true ∧
    after (.eventPost 3 1 7 [1, 2]) (mail id 4 4 [7, 0, 1, 2]) (fun t => t.events.map (fun e => (e.kind, e.data)) == [(.posted 7, [1, 2])] && t.holm.rplValid[3]) = true ∧
    (mail id 5 2 [9, 0]).mayStop = true ∧ after (.safeStopReq 3 1 9) (mail id 5 2 [9, 0]) (fun t => t.mode == .safeStop && t.holm.rplValid[3]) = true := by decide +kernel

theorem wit_dyn_late :
    let s (left : Option Int) : State := let g := guard (fun v => { v with win := .pending, leftAt := left })
      { g with dyn := { g.dyn with en := 0xFF, msrc := 0x5555, f0 := 1000, f1 := 1000 } }
    (s none).expectOpen 7 = false ∧ (s (some 0)).edgeLate 7 1100 = false ∧ (s (some 0)).edgeLate 7 1101 = true ∧
    after (.dynmonEdge 7 1101) (s (some 0)) (fun t => t.dyn.misCnt == 1) = true ∧ after (.dynmonEdge 7 1100) (s (some 0)) (fun t => t.dyn.misCnt == 0) = true ∧
    (let d := { guard (fun v => { v with win := .opened }) with dyn := { State.reset.dyn with en := 0xFF, f0 := 1000, f1 := 1000, periodAt := Vector.replicate 8 (some 0), periodHalf := Vector.replicate 8 50 } }
     d.dyn.ends 7 99 = false ∧ d.dyn.ends 7 100 = true ∧ after (.dynPeriod 7 99) d (fun t => t.dyn.periodAt[7] == some 0) = true ∧
     after (.dynPeriod 7 100) d (fun t => t.dyn.periodAt[7] == some 100 && t.dyn.level 7 100 == .high) = true) := by decide +kernel
theorem wit_dyn : (let open' (f : Dyn → Dyn) : State := { guard (fun v => { v with win := .opened }) with dyn := f { State.reset.dyn with en := 0xFF } }
      after (.dynPeriod 7 2) (open' id) (fun t => t.dyn.pin[7] == .high && t.dyn.drv.getLsbD 7) = true ∧
      after (.dynPeriod 7 3) (open' id) (fun t => t.dyn.pin[7] == (open' id).dyn.pin[7] && t.dyn.periodAt[7] == none && t.vital.now == 3) = true ∧
      after (.dynPeriod 7 100) (open' (fun d => { d with periodAt := Vector.replicate 8 (some 0), periodHalf := Vector.replicate 8 50 })) (fun t => t.dyn.periodAt[7] == some 100) = true) ∧
    after (.dynPeriod 7 100) { guard id with dyn := { State.reset.dyn with pin := Vector.replicate 8 .high, drv := 0xFF } } (fun t => t.dyn.pin[7] == .low && t.dyn.pin[6] == .high && t.dyn.drv == 0x7F) = true ∧
    (let s := { guard (fun v => { v with win := .opened }) with dyn := { State.reset.dyn with en := 0xFF, msrc := 0x5555 } }
     s.expectOpen 7 = true ∧ after (.dynmonEdge 7 50) s (fun t => (t.dyn.mon[7]).lastEdge == some 50 && t.dyn.misCnt == 0) = true ∧
     after (.dynmonStaticTimeout 7) s (fun t => t.dyn.misCnt == 1 && t.dyn.misFrame == 0x80) = true) := by decide +kernel

/-! ### Modes, supply, the ebb, boot, the tide -/

theorem wit_modes : (let s := at' .configure (fun s => { s with pwr := { s.pwr with target := some .survey, fence := BitVec.allOnes 316 } })
      s.mayRegroup .survey = true ∧ s.coresQuiet .survey = true ∧ (s.leaving .survey).all (fun d => s.pwr.fence.getLsbD d && s.domDrained d) = true ∧
      after .modeTransitionComplete s (fun t => t.mode == .survey && t.pwr.target == none && t.vital.win == .closed) = true) ∧
    (let s := at' .survey (fun s => { s with pwr := { s.pwr with target := some .configure, fence := BitVec.allOnes 316 }, cores := s.cores.map (fun c => { c with halted := true, haltReq := true }) })
     s.mayRegroup .configure = true ∧ s.coresQuiet .configure = true ∧ (s.leaving .configure).length ≠ 0 ∧
      (s.leaving .configure).all (fun d => s.pwr.fence.getLsbD d && s.domDrained d) = true ∧ after .modeTransitionComplete s (fun t => t.mode == .configure) = true) ∧
    (let s := at' .survey (fun s => { s with pwr := { s.pwr with target := some .sentinel }, cores := s.cores.map (fun c => { c with halted := false, tags := c.tags.map (fun g => { g with out := true }) }) })
     s.coresQuiet .sentinel = false ∧ after .modeTransitionComplete s (fun t => t.mode == .survey && t.pwr.target == some .sentinel) = true) ∧
    after .skerryAlarm (at' .dormant (fun s => { s with pwr := { s.pwr with alarm := 5 } })) (fun t => t.pwr.target == some .sentinel && t.pwr.alarm == 0) = true ∧
    after .sh000WakeEdge (at' .dormant (fun s => { s with shore := { s.shore with latches := s.shore.latches.set 0 1 } })) (fun t => t.pwr.target == some .sentinel) = true ∧
    after .wakeComplete (at' .dormant (fun s => { s with pwr := { s.pwr with target := some .sentinel } })) (fun t => t.mode == .sentinel) = true := by decide +kernel

theorem wit_supply : after (.holdokChange false) (at' .survey id) (fun t => !t.pwr.holdOk && t.mode == .survey) = true ∧
    (at' .guard id).mayStop = true ∧
    after .holdokTimeout (at' .guard (fun s => { s with pwr := { s.pwr with holdOk := false } })) (fun t => t.mode == .safeStop) = true ∧
    after .crystalStart (at' .survey id) (fun t => t.pwr.crystal) = true ∧ (at' .survey id).holmRuns = true ∧
    after (.thermalSample 2047) (at' .survey id) (fun t => t.pwr.step && t.pwr.tj == 2047 && t.mode == .survey) = true ∧
    after (.thermalSample 1680) (at' .survey id) (fun t => !t.pwr.step) = true ∧
    after (.thermalSample 2048) (at' .survey id) (fun t => t.mode == .safeStop) = true ∧
    after (.jtagPinControl .clamp) (at' .guard id) (fun t => t.mode == .safeStop && t.holm.jtag == some .clamp) = true ∧
    after (.jtagPinControl .highz) (at' .survey id) (fun t => t.dyn.pin[7] == .hiZ && t.holm.jtag == some .highz) = true := by decide +kernel

/-- A device in SURVEY with VDD_CORE at 750 mV. -/
def at750 : State := at' .survey (fun s => { s with pwr := { s.pwr with avs := 750 } })

theorem avs_sent (target : Nat) (s : State)
    (h : s.holmRuns ∧ 720 ≤ target ∧ target ≤ 780 ∧ target % 5 = 0 ∧ (target = s.pwr.avs + 5 ∨ target + 5 = s.pwr.avs)) :
    exec (.avsStep target) s = .next (({ s with fresh := s.fresh + 1 } : State).avsTo target (Config.freeBit s.fresh)) := by
  show execAvsStep target s = _
  unfold execAvsStep
  rw [if_pos h]

theorem wit_avs :
    exec (.avsStep 755) at750 = .next (({ at750 with fresh := at750.fresh + 1 } : State).avsTo 755 (Config.freeBit at750.fresh)) ∧
    exec (.avsStep 745) at750 = .next (({ at750 with fresh := at750.fresh + 1 } : State).avsTo 745 (Config.freeBit at750.fresh)) :=
  ⟨avs_sent 755 at750 (by decide +kernel), avs_sent 745 at750 (by decide +kernel)⟩

theorem test_avs_ack : (at750.avsTo 755 true).pwr.avs = 755 ∧ (at750.avsTo 755 false).pwr.avs = 750 ∧
    (at750.avsTo 755 false).events.length = 1 := by decide +kernel

/-- EBB at step `k`. -/
def ebbing (k : Nat) : State := at' .ebb (fun s => { s with pwr := { s.pwr with ebbStep := k } })

theorem wit_ebb : after .ebb (at' .survey (fun s => { s with holm := { s.holm with sessions := [Session.zero] } })) (fun t => t.mode == .ebb && t.pwr.ebbStep == 2 && t.holm.sessions == [] &&
      t.pwr.on.getLsbD 315 && !t.pwr.on.getLsbD 313) = true ∧
    after .snapshotSealed (ebbing 2) (fun t => t.pwr.ebbStep == 4) = true ∧ after .ebbComplete (ebbing 4) (fun t => t.pwr.ebbStep == 5) = true ∧
    after .ebbRecovery (ebbing 5) (fun t => t.mode == .boot && t.pwr.rstCause == 2) = true ∧
    after .holdCollapse (ebbing 5) (fun t => t.mode == .off && t.pwr.on == 0 && t.dyn.pin[0] == .hiZ) = true ∧
    after .vddioSysCollapse (ebbing 5) (fun t => t.dyn.pin[7] == .hiZ) = true ∧
    after .resetNLow (at' .survey id) (fun t => t.mode == .boot && t.pwr.rstCause == 1) = true := by decide +kernel

/-- A control plane without its signature. -/
def uzoug0 : Image :=
  { magic := 0x53564D46, format := 1, typ := 1, target := 0, version := 1, ctrIdx := 0, ctrVal := 0, keySlot := 0, flags := 0, bodyLen := 0, entOff := 0, entCnt := 0
    zero1 := [], bodyDigest := sha3 [], zero2 := [], sig := [], tail := [], bytes := [], body := .uzoug }
/-- An image with the signature that verifies under the key of zeros. -/
def signed (i : Image) : Image := { i with sig := blankSig [0x53, 0x56, 0x5A, 0x2D, 0x49, 0x4D, 0x47] (manifestOf i) }
/-- What a boot meets where all is well but the ROM check, as given. -/
def inp (rom : Bool) : BootInput := { romOk := rom, straps := 0, levels := 0, pllOk := true, flashOk := true }
/-- A device out of reset in life-cycle state count `lc` with that control plane in flash, the key of zeros its vendor's. -/
def fresh' (lc : Byte) : State := at' .boot (fun s => { s with holm := { s.holm with
  lcCount := lc, started := false, ohmeskKey := blankKey, ohmeskHash := sha3 blankKey, flash := [{ active := true, alternate := false, offset := 0x20000, length := 4888, image := signed uzoug0 }] } })

theorem lem_signed (i : Image) : imageSigned (signed i) blankKey = true := blank_verifies _ _

theorem wit_boot : after (.bootSequence (inp false)) (fresh' 0) (fun t => t.mode == .boot && t.pwr.rstCause == 4 && t.holm.bootCount == 1) = true ∧
    (fresh' 4).holm.lcState = 4 ∧ (fresh' 4).holm.keep.pendingLc = false ∧ (fresh' 0).holm.lcState = 0 ∧ (fresh' 0).holm.keep.pendingLc = false := by decide +kernel
theorem wit_boot_blank : (fresh' 0).holm.flash = [{ active := true, alternate := false, offset := 0x20000, length := 4888, image := signed uzoug0 }] ∧
    imageFormat (signed uzoug0) = true ∧ imageSigned (signed uzoug0) (fresh' 0).holm.vendorKey = true ∧ imageDigest (signed uzoug0) = true ∧
    (signed uzoug0).typ = 1 ∧ (signed uzoug0).body = .uzoug ∧ (fresh' 0).holm.counters[0] = 0 := by
  refine ⟨by simp only [fresh', at'], by decide +kernel, ?_, ?_, rfl, rfl, by decide +kernel⟩
  · have h : (fresh' 0).holm.vendorKey = blankKey := by simp only [Holm.vendorKey, fresh', at', if_true]
    rw [h]; exact lem_signed _
  · simp only [imageDigest, signed, uzoug0, decide_true, Bool.and_true]; rfl

/-- Archipelago 7 in phase `k` of a tide step on position 31, its reserve slot 32. -/
def tide (k : Nat) (f : ArchSt → ArchSt) : State := at' .survey (fun s => { s with
  holm := { s.holm with tcfg := 0xFF0000 }
  arch := vmod s.arch (7 : Fin 8) (fun x => f { x with
    seq := { x.seq with part := { x.seq.part with inStream := true }, mode := .dispatchWait, queue := [record] }
    tide := { x.tide with phase := BitVec.ofNat 3 k, tslot := 31, susp := false } }) })

theorem wit_tide : (tide 0 id).tideRuns 7 = true ∧
    after (.tideStepStart 7) (tide 0 id) (fun t => (t.arch[7]).tide.phase == 1) = true ∧
    after (.tideShadowComplete 7) (tide 2 id) (fun t => (t.arch[7]).tide.phase == 3) = true ∧
    ((tide 3 id).arch[7]).islmap[31] = 31 ∧ (∀ q : Fin 32, q ≠ 31 → ((tide 3 id).arch[7]).islmap[q] ≠ 31) ∧ ((tide 3 id).arch[7]).seq.swapHere = true ∧ (tide 3 id).trapNow 7 = none ∧ (tide 3 id).streamOf 7 = [7] ∧
    after (.tideSwap 7) (tide 3 id) (fun t => (t.arch[7]).islmap[31] == 32 && (t.arch[7]).tide.phase == 4 && (t.isl[263]).role == 0 && (t.isl[262]).role == 3) = true ∧
    after (.tideTestComplete 7 true) (tide 4 id) (fun t => (t.arch[7]).tide.phase == 0 && (t.arch[7]).rslot == 31 && !t.pwr.on.getLsbD 262) = true := by decide +kernel

theorem wit_selftests : (at' .survey id).coreTesting = false ∧
    after .coreSelftestTimer (at' .survey (fun s => { s with holm := { s.holm with selfNext := 3 } })) (fun t => (t.cores[3]).selftest && t.holm.selfNext == 0) = true ∧
    after (.coreSelftestDone 0 false) (core0 (fun c => { c with selftest := true })) (fun t => (t.cores[0]).stest == 3 && !(t.cores[0]).selftest) = true ∧
    after (.holmRomCheck false) (at' .survey id) (fun t => t.mode == .safeStop) = true ∧
    after .holmSramScrub (at' .survey (fun s => { s with holm := { s.holm with scrubPos := 131071 } })) (fun t => t.holm.scrubPos == 0) = true ∧
    after (.offlineTestDone true) (at' .service (fun s => { s with holm := { s.holm with offline := true } })) (fun t => !t.holm.offline && t.events.map (fun e => e.data) == [[1]]) = true := by
  decide +kernel

/-! ### The shore fabric -/

/-- SURVEY with the fabric as `f` makes it. -/
def shore (f : Shore → Shore) : State := at' .survey (fun s => { s with shore := f s.shore })
/-- An image of bitstream `b`. -/
def bitImage (b : Bitstream) : Image := { uzoug0 with typ := 5, body := .bitstream b }
/-- The bitstream with CRC field `c`, and with the right one. -/
def withCrc (b : Bitstream) (c : Word) : Bitstream := { b with crc := c }
def closed (b : Bitstream) : Bitstream := withCrc b (crc32c (bitsBody b))
/-- A load at step `k` of that image in slot A. -/
def loading (k : Nat) (b : Bitstream) : State := shore (fun h => { h with slots := h.slots.set 0 (some (bitImage b)), load := some { slot := false, step := k, retry := false } })

theorem lem_body (b : Bitstream) (c : Word) : bitsBody (withCrc b c) = bitsBody b := rfl
theorem lem_closed (b : Bitstream) : bitsCrcOk (closed b) = true := by rw [closed, bitsCrcOk, lem_body]; exact decide_eq_true rfl
theorem lem_open (b : Bitstream) : bitsCrcOk (withCrc b (crc32c (bitsBody b) + 1)) = false := by
  rw [bitsCrcOk, lem_body]
  refine decide_eq_false fun h => ?_
  have e : crc32c (bitsBody b) + 1 = crc32c (bitsBody b) := h
  bv_omega
theorem wit_load (b : Bitstream) : (loading 6 b).slotImage false = some (bitImage b) ∧ imageBits (bitImage b) = some b ∧
    (loading 6 b).shore.load = some { slot := false, step := 6, retry := false } := ⟨rfl, rfl, rfl⟩
theorem test_load4 : after (.fabricLoadStepDone true) (loading 4 { bits with engines := Vector.replicate 8 (.can 0 0 []) }) (fun t => t.shore.load.map (fun l => l.step) == some 5 && t.shore.bits.isNone && t.shore.pins == .presets &&
      (t.shore.engine[7]).mode == 6) = true ∧
    after (.fabricLoadStepDone true) (loading 5 bits) (fun t => t.shore.lerr == 7 && t.shore.st == 2 && !t.shore.pll) = true := by decide +kernel

/-- A fabric with one toggling macrocell on OSC0 and a registered segment that carries it. -/
def toggles : Netlist :=
  { wires := [(16, { sel := [.mcell 0], reg := some 0 })], inputs := [], terms := [(0, [(0, true)])], outs := [], lines := [], gck := Vector.replicate 7 (.osc 0)
    mcells := [(0, { terms := [0], direct := 0, pol := false, bypass := false, toggle := true, clk := 0, falling := false, ce := none, set := none, rst := none })] }
/-- It is loaded, under GSR or not. -/
def ticking (gsr : Bool) : Shore := { State.reset.shore with loaded := true, gsr := gsr, bits := some { bits with net := toggles, init := 6 }, mcells := 2 }

theorem wit_logic : let a := (ticking false).edge { bits with net := toggles } 0 4 false
    let b := a.edge { bits with net := toggles } 0 4 false
    a.mcells = 3 ∧ a.segs = [] ∧ b.mcells = 2 ∧ b.segs = [(16, true)] ∧
    ((ticking false).edge { bits with net := toggles } 0 4 true).mcells = 2 ∧ netResourceOk toggles = true ∧ netMuxOk toggles = true := by decide +kernel
theorem test_gsr (d src : Nat) (falling : Bool) : ((ticking true).edge { bits with net := toggles, init := 6 } d src falling).mcells = 6 := rfl

/-- Cell 223 counts periods, 222 captures; engine 7 is a CAN FD with one filter for standard identifier 5. -/
def cellBits : Bitstream := { bits with
  cells := [(222, { cellIdle with sigma := true }), (223, { cellIdle with period := true })]
  engines := bits.engines.set 7 (.can 0 0 [{ id := 5 * 2 ^ 18, mask := 0x1FFC0000, ide := false }]) }
theorem wit_can : let s := shore (fun h => { h with bits := some cellBits, engine := vmod h.engine (7 : Fin 8) (fun g => { g with mode := 6 }) })
    ((s.shore.engine[7]).canTake (s.canFilters 7) 0x140000).1 = true ∧ ((s.shore.engine[7]).canTake (s.canFilters 7) 0x180000).1 = false ∧
    after (.serialEngineRx 7 (some 0x140000)) s (fun t => (t.shore.engine[7]).rx == [0x140000] && (t.shore.engine[7]).canAt == 1) = true ∧
    after (.serialEngineRx 7 (some 0x180000)) s (fun t => (t.shore.engine[7]).rx == [] && (t.shore.engine[7]).canAt == 1) = true := by decide +kernel

theorem wit_fabric : after .fabricRelease (shore (fun h => { h with release := true, loaded := true, st := 2, gsr := true })) (fun t => !t.shore.gsr && t.shore.st == 3 && t.shore.pins == .presets && t.shore.pinsNext == some .function) = true ∧
    after (.fabricScrub true false) (shore (fun h => { h with loaded := true, st := 3, scrubPos := 718 })) (fun t => t.shore.scrubPos == 719) = true ∧
    bits.net.wires.all (fun w => decide (w.2.sel.length ≤ 1)) = true ∧
    after (.fabricScrub false false) (shore (fun h => { h with loaded := true, st := 3, bits := some { bits with init := 7 } })) (fun t => t.shore.gsr && t.shore.mcells == 7 && t.shore.st == 4 && t.shore.irq.getLsbD 3) = true ∧
    after (.periodCountEdge 223 0x1000000) (shore (fun h => { h with bits := some cellBits })) (fun t => t.shore.cells[223] == 0x1FFFFFF && t.shore.strobe.getLsbD 223) = true ∧
    after (.sigmaDeltaWord 222 9) (shore (fun h => { h with bits := some cellBits })) (fun t => t.shore.sdWord[222] == 9) = true ∧
    after (.serialEngineRx 7 (some 9)) (shore (fun h => { h with engine := vmod h.engine (7 : Fin 8) (fun g => { g with mode := 1, rx := List.replicate 63 0 }) }))
      (fun t => (t.shore.engine[7]).rx.length == 64 && t.shore.irq.getLsbD 15) = true ∧
    after (.sedataWrite hc 7 9) (shore (fun h => { h with engine := vmod h.engine (7 : Fin 8) (fun g => { g with tx := List.replicate 63 0 }) })) (fun t => (t.shore.engine[7]).tx.length == 64 && told t .ok) = true ∧
    after (.sedataRead hc 7) (shore (fun h => { h with engine := vmod h.engine (7 : Fin 8) (fun g => { g with rx := [8, 9] }) })) (fun t => (t.shore.engine[7]).rx == [9] && told t .ok) = true ∧
    after (.controlPortAccess { src := 23, tag := 0, user := false, op := .read 8, addr := 0x20000000 }) (shore (fun h => { h with st := 3 }))
      (fun t => t.net.requests.map (fun r => r.src) == [23] && t.net.packets.map (fun p => (hSrc p.hdr, hAddr p.hdr)) == [(23, 0x20000000)]) = true ∧
    (shore id).holmListens 7 = false ∧
    (let s := shore (fun h => { h with engine := vmod h.engine (0 : Fin 8) (fun g => { g with mode := 1 }) })
     s.holmListens 0 = true ∧ after (.serialEngineRx 0 (some 0x7E)) s (fun t => t.holm.uart == some ([], false) && t.shore.irq.getLsbD 8 && (t.shore.engine[0]).rx == []) = true) ∧
    after (.captureTrigger (List.replicate 800 1)) (shore (fun h => { h with capArmed := some { gck := 0, falling := false, count := none, trg := 0 } })) (fun t => t.shore.capArmed == none && t.shore.irq.getLsbD 4 && t.shore.capture.map List.length == some 800) = true := by
  decide +kernel
theorem wit_flash : after (.nvctlErase hc 0xF003) (shore id) (fun t => t.shore.nvBusy && t.shore.nvCmd == 3 && t.shore.nvOpAddr == 0xF000 && told t .ok) = true ∧
    after (.nvCommandDone true) (shore (fun h => { h with nvBusy := true, nvCmd := 1, nvOpAddr := 0xFFFC, flash := [(0xFFFF, 1)] })) (fun t => !t.shore.nvBusy && t.shore.nvData == 0x01FFFFFF) = true ∧
    after (.nvCommandDone true) (shore (fun h => { h with nvBusy := true, nvCmd := 2, nvOpAddr := 4, nvOpData := 0x04030201 })) (fun t => t.shore.flash == [(4, 1), (5, 2), (6, 3), (7, 4)]) = true ∧
    after (.nvCommandDone true) (shore (fun h => { h with nvBusy := true, nvCmd := 3, nvOpAddr := 0x1000, flash := [(0xFFF, 1), (0x1FFF, 2), (0x2000, 3)] })) (fun t => t.shore.flash == [(0xFFF, 1), (0x2000, 3)]) = true := by
  decide +kernel

/-! ### Vevis -/

/-- A request of session 7 on lane 0, sequence number 4, without its tag. -/
def pk (op : BitVec 16) (payload : List Byte) : VPacket :=
  { peer := { lane := some 0, addr := List.replicate 16 9, port := 77 }, dstPort := 48182, magic := 0x5653, version := 1, flags := 4, op := op, status := 0, sess := 7
    seq := 4, len := BitVec.ofNat 32 payload.length, txn := 5, frag := 0, ctr := 9, payload := payload, tag := 0, body := none }
/-- The session with roles `r`. -/
def sess (r : BitVec 6) : Session := { id := 7, roles := r, seq := 3, lastTag := 2, cached := some (0, [8]), ctrIn := 8, ctrOut := 0, part := none, mac := [], enc := [] }
/-- Mode `m` with lane 0 serving Vevis, that session open, the fabric loaded, `f` applied. -/
def vev (m : Mode) (f : State → State) : State := at' m (fun s => f { s with
  shore := { s.shore with st := 3 }, lanes := vmod s.lanes (0 : Fin 16) (fun l => { l with lcfg := 4 })
  holm := { s.holm with sessions := [sess 0x3F], netObj := s.holm.netObj.set 0 (List.replicate 8 0 ++ [1, 0, 0x36, 0xBC, 1] ++ List.replicate 243 0) } })

/-- Packet `p` of session `x`, in clear, with the tag it must carry, passes the checks before its command, whose state satisfies `P`. -/
def heardBy (s : State) (o : Opcode) (x : Session) (p : VPacket) (P : State → Bool) : Bool :=
  let q := tagged x p
  s.answers q && pkHdrOk q && decide (q.sess ≠ 0) && decide (s.session? q.sess = some x) && decide (q.seq ≠ x.seq) && !pkEnc p &&
  P ((s.takeFrame q).takePacket o q x p.payload)

theorem lem_heard {i : VPacket → Instr} {s : State} {o : Opcode} {x : Session} {p : VPacket} {P : State → Bool}
    (hi : exec (i (tagged x p)) s = .next (s.vevis o (tagged x p))) (h : heardBy s o x p P = true) : after (i (tagged x p)) s P = true := by
  simp only [heardBy, Bool.and_eq_true, decide_eq_true_eq, Bool.not_eq_true'] at h
  obtain ⟨⟨⟨⟨⟨⟨ha, hh⟩, h0⟩, hs⟩, hq⟩, he⟩, hP⟩ := h
  rw [after, hi, State.vevis_takes s o (tagged x p) x p.payload ha hh h0 hs (opened_plain x p he) hq]
  exact hP

/-- The checks of tag and order hold. -/
def orderly (s : State) (x : Session) (p q : VPacket) : Bool :=
  s.answers q && pkHdrOk q && decide (q.sess ≠ 0) && decide (s.session? q.sess = some x) && decide (x.ctrIn.toNat < q.ctr.toNat) &&
  !q.ctr.getLsbD 47 && decide (q.seq = x.seq + 1) && !s.awaited q.sess && !pkEnc p

theorem lem_listens {s : State} {x : Session} {p : VPacket} (h : orderly s x p (tagged x p) = true) : s.listens (tagged x p) x p.payload := by
  simp only [orderly, Bool.and_eq_true, decide_eq_true_eq, Bool.not_eq_true'] at h
  obtain ⟨⟨⟨⟨⟨⟨⟨⟨a, b⟩, c⟩, d⟩, e⟩, f⟩, g⟩, k⟩, he⟩ := h
  exact ⟨a, b, opened_plain x p he, c, d, e, f, g, k⟩

/-- A whole request of session `x` reaches its command. -/
theorem lem_hears {s : State} {x : Session} {p : VPacket} (h : orderly s x p (tagged x p) = true)
    (w : (tagged x p).frag = 0 ∧ pkLast (tagged x p) = true) : s.hears (tagged x p) x p.payload := ⟨lem_listens h, w⟩

/-- The last reply has status `st` and payload `data`. -/
def said (t : State) (st : BitVec 16) (data : List Byte) : Bool := t.holm.replies.map (fun r => (r.sess, r.seq, r.status, r.payload)) == [(7, 4, st, data)]
/-- The last reply has status `st`. -/
def code (t : State) (st : BitVec 16) : Bool := t.holm.replies.map (fun r => r.status) == [st]

theorem wit_hears : (vev .survey id).hears (tagged (sess 0x3F) (pk 4 [1, 2])) (sess 0x3F) [1, 2] :=
  lem_hears (by decide +kernel) (by decide +kernel)

/-- The request of opcode `op` with payload `d` of a session with every role. -/
def req (op : BitVec 16) (d : List Byte) : VPacket := tagged (sess 0x3F) (pk op d)

theorem wit_checks : (vev .survey id).answers { pk 4 [] with dstPort := 48183 } = false ∧ pkHdrOk { pk 4 [] with flags := 8 } = false ∧
    (vev .survey id).answers { pk 4 [] with flags := 8 } = true ∧ (vev .survey id).session? 6 = none ∧
    after (.ping { pk 4 [] with dstPort := 48183 }) (vev .survey id) (fun t => t.holm.replies == [] && t.holm.dropped == 0) = true ∧
    after (.ping { pk 4 [] with flags := 8 }) (vev .survey id) (fun t => t.holm.replies == [] && t.holm.dropped == 1) = true ∧
    after (.ping { pk 4 [] with sess := 6 }) (vev .survey id) (fun t => code t 0x0103) = true := by decide +kernel

/-- An encrypted packet too short for its tag is not opened, though its MAC holds. -/
theorem wit_bad_tag : opened (tagged (sess 0x3F) { pk 4 [] with flags := 6 }) (sess 0x3F) = none := by
  rw [opened_tagged]
  decide +kernel

theorem wit_stale : opened (tagged (sess 0x3F) { pk 0x0502 [] with seq := 5 }) (sess 0x3F) = some [] ∧
    after (.modeSet (tagged (sess 0x3F) { pk 0x0502 [] with seq := 5 })) (vev .survey id) (fun t => code t 0x0102) = true ∧
    after (.modeSet (tagged (sess 0x3F) { pk 0x0502 [] with ctr := 8 })) (vev .survey id) (fun t => code t 0x0102) = true :=
  ⟨opened_plain _ _ (by decide +kernel), lem_heard rfl (by decide +kernel), lem_heard rfl (by decide +kernel)⟩

/-- The session after that request. -/
def after4 : Session := { sess 0x3F with seq := 4, lastTag := tagFor (sess 0x3F) (pk 4 [1]) }

/-- The request comes again: the session knows its tag, and its reply is kept. -/
theorem wit_repeat : (vev .survey (fun s => { s with holm := { s.holm with sessions := [after4] } })).session? 7 = some after4 ∧ (req 4 [1]).seq = after4.seq ∧ (req 4 [1]).tag = after4.lastTag ∧
    opened (req 4 [1]) after4 = some [1] ∧ after4.cached = some (0, [8]) ∧ (vev .survey id).awaited 7 = false := by
  refine ⟨?_, rfl, rfl, ?_, rfl, by decide +kernel⟩
  · simp only [vev, at', State.session?, List.find?_cons, after4, sess, decide_true]
  · exact opened_plain after4 (pk 4 [1]) (by decide +kernel)

/-- A session with a MEM_READ that waits. -/
def busy : State := vev .service (fun s => { s with holm := { s.holm with jobs := [{ peer := (pk 0 []).peer, sess := 7, seq := 3, op := 0x0801, read := true, addr := 0, left := 8, bytes := [] }] } })

theorem wit_refusals : busy.awaited 7 = true ∧
    after (.ping (req 4 [])) busy (fun t => said t 0x0302 []) = true ∧ after (.ping (req 0x0AAA [])) (vev .survey id) (fun t => said t 0x0201 []) = true ∧
    after (.memRead (req 0x0801 [])) (vev .survey id) (fun t => said t 0x0301 []) = true ∧
    after (.memRead (tagged (sess 1) (pk 0x0801 []))) (vev .service (fun s => { s with holm := { s.holm with sessions := [sess 1] } })) (fun t => said t 0x0104 []) = true :=
  ⟨by decide +kernel, lem_heard rfl (by decide +kernel), lem_heard rfl (by decide +kernel), lem_heard rfl (by decide +kernel), lem_heard rfl (by decide +kernel)⟩

theorem wit_part : let q := tagged (sess 0x3F) { pk 4 (List.replicate 1388 1) with flags := 0 }
    (vev .survey id).listens q (sess 0x3F) (List.replicate 1388 1) ∧
    after (.ping q) (vev .survey id) (fun t => t.holm.replies == [] && t.holm.sessions.map (fun x => x.part) == [some (4, 4, List.replicate 1388 1, 1)]) = true ∧
    ends (some (4, 4, [1, 2], 1)) 4 { pk 4 [3] with frag := 1 } [3] [1, 2, 3] := by
  refine ⟨lem_listens (by decide +kernel), lem_heard rfl (by decide +kernel), ?_⟩
  exact .inr ⟨by decide +kernel, [1, 2], rfl, by decide, rfl, by decide⟩

theorem wit_ends (op : BitVec 16) (d : List Byte) (part : Option (BitVec 16 × Word × List Byte × Nat)) : ends part op (req op d) d d :=
  .inl ⟨rfl, .inl (by decide : (4 : Byte).getLsbD 2 = true), rfl⟩

theorem wit_reads1 : after (.ping (req 4 [1, 2])) (vev .survey id) (fun t => said t 0 [1, 2] && t.holm.sessions.map (fun y => (y.seq, y.ctrIn)) == [(4, 9)]) = true ∧
    after (.lcGet (req 0x0201 [])) (vev .survey id) (fun t => said t 0 [2, 0, 0, 0, 0, 0, 0, 0]) = true ∧
    after (.modeGet (req 0x0501 [])) (vev .survey id) (fun t => said t 0 [7, 0, 0, 0, 0, 0, 0, 0, 0, 0, 0, 0]) = true ∧
    after (.txnStatus (req 0x0405 [])) (vev .survey id) (fun t => code t 0) = true ∧ after (.latticeStatus (req 0x0902 [])) (vev .survey id) (fun t => code t 0) = true ∧
    after (.statsRead (req 0x0703 [31, 0, 0, 0])) (vev .survey id) (fun t => t.holm.replies.map (fun r => r.payload.length) == [128]) = true :=
  ⟨lem_heard rfl (by decide +kernel), lem_heard rfl (by decide +kernel), lem_heard rfl (by decide +kernel), lem_heard rfl (by decide +kernel),
   lem_heard rfl (by decide +kernel), lem_heard rfl (by decide +kernel)⟩

theorem wit_reads2 : after (.streamGet (req 0x0601 [0, 0, 0, 0])) (vev .survey (fun s => { s with harbour := { s.harbour with mem := [(s.entryOff 0).getD 0 |> fun o => (o, 9)] } }))
      (fun t => t.holm.replies.map (fun r => (r.payload.length, r.payload.head?)) == [(64, some 9)]) = true ∧
    after (.tideStatus (req 0x0702 [7, 0, 0, 0])) (vev .survey id) (fun t => t.holm.replies.map (fun r => r.payload.length) == [16]) = true ∧
    after (.selftestHarbourTide (req 0x0701 [1, 7, 0, 0])) (vev .survey id) (fun t => t.holm.replies.map (fun r => r.payload.length) == [8]) = true ∧
    after (.captureRead (req 0x0705 [])) (vev .survey (fun s => { s with shore := { s.shore with capture := some [5] } })) (fun t => said t 0 [5]) = true ∧
    after (.memRead (req 0x0801 (bytesLE 8 0x21FFFFF8 ++ bytesLE 4 8))) (vev .service (fun s => { s with harbour := { s.harbour with mem := [(0x1FFFFFF, 3)] } }))
      (fun t => said t 0 [0, 0, 0, 0, 0, 0, 0, 3]) = true ∧
    after (.keepRead (req 0x0803 (bytesLE 4 0x61000 ++ bytesLE 4 1))) (vev .service id) (fun t => said t 0x0104 []) = true ∧
    after (.keepRead (req 0x0803 (bytesLE 4 0x60FFF ++ bytesLE 4 1))) (vev .service id) (fun t => code t 0) = true :=
  ⟨lem_heard rfl (by decide +kernel), lem_heard rfl (by decide +kernel), lem_heard rfl (by decide +kernel), lem_heard rfl (by decide +kernel),
   lem_heard rfl (by decide +kernel), lem_heard rfl (by decide +kernel), lem_heard rfl (by decide +kernel)⟩

theorem wit_plain : (vev .service id).PlainHarbour := by unfold State.PlainHarbour; decide +kernel

/-- Session 0: a packet in clear. -/
theorem lem_zero {i : VPacket → Instr} {s : State} {o : Opcode} {p : VPacket} {P : State → Bool}
    (hi : exec (i (tagged Session.zero p)) s = .next (s.vevis o (tagged Session.zero p)))
    (h : (let q := tagged Session.zero p
      s.answers q && pkHdrOk q && decide (q.sess = 0) && zeroAllowed (s.takeFrame q) q.lane q.op && !pkEnc p && P ((s.takeFrame q).takePacket o q Session.zero p.payload)) = true) :
    after (i (tagged Session.zero p)) s P = true := by
  simp only [Bool.and_eq_true, decide_eq_true_eq, Bool.not_eq_true'] at h
  obtain ⟨⟨⟨⟨⟨ha, hh⟩, h0⟩, hz⟩, he⟩, hP⟩ := h
  rw [after, hi, State.vevis_zero s o (tagged Session.zero p) p.payload ha hh h0 hz (opened_plain Session.zero p he)]
  exact hP

/-- A HELLO of session 0. -/
def helloPk : VPacket := { pk 0x0001 (List.replicate 32 1) with sess := 0 }

theorem wit_sessions : opened (tagged Session.zero helloPk) Session.zero = some (List.replicate 32 1) ∧
    after (.hello (tagged Session.zero helloPk)) (vev .survey id) (fun t => code t 0 && t.holm.hello.isSome) = true ∧
    after (.sessionClose (req 0x0003 [])) (vev .survey id) (fun t => said t 0 [] && t.holm.sessions == []) = true ∧
    (vev .survey id).session? 7 = some (sess 0x3F) ∧
    (let s := vev .survey (fun s => { s with holm := { s.holm with uart := some ([1], true) }, shore := { s.shore with engine := s.shore.engine.map (fun g => { g with rx := [5] }) } })
     after .uartFrameTimeout s (fun t => t.holm.uart == none && (t.shore.engine[0]).rx == [] && (t.shore.engine[1]).rx == [5]) = true) ∧
    after .txnExpiry (vev .survey (fun s => { s with holm := { s.holm with txn := { s.holm.txn with st := .opened } } })) (fun t => t.holm.txn.st == .none) = true :=
  ⟨opened_plain _ _ (by decide +kernel), lem_zero rfl (by decide +kernel), lem_heard rfl (by decide +kernel), by decide +kernel, by decide +kernel, by decide +kernel⟩

theorem wit_modecmds : (vev .survey id).mayStop = true ∧
    after (.safeStop (req 0x0504 [1, 2])) (vev .survey id) (fun t => said t 0 [] && t.mode == .safeStop && t.events.map (fun e => e.data) == [[1, 2]]) = true ∧
    after (.vitalResume (req 0x0503 (List.replicate 64 0))) (vev .guard (fun s => { s with vital := { s.vital with awaitResume := true } })) (fun t => said t 0 [] && !t.vital.awaitResume) = true :=
  ⟨by decide +kernel, lem_heard rfl (by decide +kernel), lem_heard rfl (by decide +kernel)⟩
theorem wit_modeset : let s := vev .survey id
    s.mode.mayGo .configure = true ∧ (s.heard (req 0x0502 [5, 0, 0, 0])).entryRefused .configure = false ∧ s.pwr.target = none ∧ s.holm.txn.st = .none ∧
    bytesLE 1 Mode.configure.code ++ [0, 0, 0] = [5, 0, 0, 0] := by decide +kernel
theorem wit_streamcmds : let s (f : Stream → Stream) := vev .survey (fun t => { t with sprue := { t.sprue with cache := [chan f] } })
    after (.streamDisable (req 0x0603 [0, 0, 0, 0])) (s id) (fun t => said t 0 [] && t.sprue.cache.map (fun e => e.enabled) == [false]) = true ∧
    (let u : State := { s (fun e => { e with enabled := false }) with arch := (tide 0 id).arch }
     (u.heard (req 0x0602 [0, 0, 0, 0])).entryOk (Stream.fresh 0 (vmod (chan id).cfg 0 (fun w => w ||| 0x1000))) [] = true ∧ u.vital.par.pairs = 0 ∧
      after (.streamEnable (req 0x0602 [0, 0, 0, 0])) u (fun t => said t 0 [] && t.sprue.cache.map (fun e => e.enabled) == [true]) = true) :=
  ⟨lem_heard rfl (by decide +kernel), by decide +kernel, by decide +kernel, lem_heard rfl (by decide +kernel)⟩

theorem wit_service : after (.selftestCore (req 0x0701 [0, 3, 0, 0])) (vev .survey id) (fun t => said t 1 [] && (t.cores[3]).selftest) = true ∧
    after (.selftestLaneRecal (req 0x0701 [2, 15, 0, 0])) (vev .survey id) (fun t => said t 1 [] && (t.lanes[15]).recal) = true ∧
    after (.selftestOffline (req 0x0701 [3, 255, 0, 0])) (vev .service id) (fun t => said t 1 [] && t.holm.offline) = true ∧
    after (.tideSuspend (req 0x0702 [7, 1, 0, 0])) (vev .survey id) (fun t => code t 0 && (t.arch[7]).tide.susp) = true ∧
    after (.tideResume (req 0x0702 [7, 2, 0, 0])) (vev .survey id) (fun t => code t 0 && !(t.arch[7]).tide.susp) = true ∧
    after (.tideStepNow (req 0x0702 [7, 3, 0, 0])) { vev .survey id with arch := (tide 0 id).arch, holm := { (vev .survey id).holm with tcfg := 0xFF0000 } }
      (fun t => code t 0 && (t.arch[7]).tide.phase == 1) = true ∧
    after (.capture (req 0x0704 ([7, 1, 0, 0] ++ bytesLE 4 16777216))) (vev .survey id) (fun t => said t 0 [] &&
      t.shore.capArmed == some { gck := 7, falling := true, count := some 16777216, trg := 0 }) = true ∧
    after (.memWrite (req 0x0802 (bytesLE 8 0x21FFFFF8 ++ [1, 2, 3, 4, 5, 6, 7, 8]))) (vev .service id) (fun t => said t 0 [] && rdByte 0 t.harbour.mem 0x1FFFFFF == 8) = true :=
  ⟨lem_heard rfl (by decide +kernel), lem_heard rfl (by decide +kernel), lem_heard rfl (by decide +kernel), lem_heard rfl (by decide +kernel),
   lem_heard rfl (by decide +kernel), lem_heard rfl (by decide +kernel), lem_heard rfl (by decide +kernel), lem_heard rfl (by decide +kernel)⟩

/-- SURVEY with the transaction of session 7 open. -/
def txn (f : Txn → Txn) : State := vev .survey (fun s => { s with holm := { s.holm with txn := f { s.holm.txn with st := .opened, id := 5, owner := 7 } } })

theorem wit_txn : (txn id).mode.txnServed = true ∧
    after (.txnBegin (req 0x0401 [])) (vev .survey id) (fun t => code t 0 && t.holm.txn.st == .opened && t.holm.txn.owner == 7) = true ∧
    after (.txnWrite (req 0x0402 ([0, 0, 3, 0] ++ bytesLE 4 8 ++ bytesLE 4 4 ++ [1, 0, 0, 0]))) (txn id) (fun t => code t 0 && t.holm.txn.writes.length == 1) = true ∧
    after (.txnAbort (req 0x0404 [])) (txn id) (fun t => said t 0 [] && t.holm.txn.st == .none) = true :=
  ⟨by decide +kernel, lem_heard rfl (by decide +kernel), lem_heard rfl (by decide +kernel), lem_heard rfl (by decide +kernel)⟩
theorem wit_commit : let s := (txn id).heard (req 0x0403 (bytesLE 8 0))
    s.targetBad 0 = false ∧ s.commitFault [] = none ∧ s.holm.slotJob = none ∧ stages [] 8 0 = false ∧ s.writeBad { cls := 3, idx := 0, off := 8, data := [1, 0, 0, 0] } = false ∧
    (s.commitFault [{ cls := 3, idx := 0, off := 8, data := [9, 0, 0, 0] }]).isSome = true := by decide +kernel
theorem test_commit : after (.txnCommit (req 0x0403 (bytesLE 8 0))) (txn id) (fun t => code t 1 && t.holm.txn.st == .accepted) = true :=
  lem_heard rfl (by decide +kernel)

/-! ### Signed images, certificates and commands -/

/-- The state passes every check of an image that `signed` has signed for slot 1. -/
def fitsBut (s : State) (i : Image) : Bool :=
  imageFormat i && decide (s.holm.lcState ≠ 4) && decide (i.typ ≠ 7) && decide (i.typ ≠ 1) && !s.holm.slotRev.getLsbD i.keySlot.toNat &&
  s.holm.slotProg.getLsbD i.keySlot.toNat && decide (i.bodyLen.toNat = i.bytes.length) && !s.holm.rolledBack i && s.targetFits i && s.loaderOk i

theorem lem_accepted (s : State) (j : Image) (hs : imageSigned j blankKey = true) (hk : s.holm.keys[ix 4 j.keySlot.toNat] = blankKey) (hd : j.bodyDigest = sha3 j.bytes)
    (h : fitsBut s j = true) : s.imageFault j = none := by
  simp only [fitsBut, Bool.and_eq_true, decide_eq_true_eq, Bool.not_eq_true', ne_eq] at h
  obtain ⟨⟨⟨⟨⟨⟨⟨⟨⟨a, b⟩, c⟩, d⟩, e⟩, f⟩, g⟩, r⟩, t⟩, l⟩ := h
  have k : s.keyFault j = none := by
    simp only [State.keyFault, b, c, d, e, f, hk, hs, if_false, false_and, Bool.not_true, Bool.or_false, Bool.false_eq_true]
  simp only [State.imageFault, a, k, imageDigest, g, hd, r, t, l, d, decide_true, decide_false, Bool.and_self, Bool.not_true, Bool.false_eq_true, if_false,
    Bool.false_and, Bool.or_false]

/-- PROVISION with slot 1 owned, its key the key of zeros. -/
def owned (f : State → State) : State := vev .provision (fun s => f { s with holm := { s.holm with slotProg := 2, keys := s.holm.keys.set 1 blankKey } })
/-- A configuration image with a counter that advances, signed for slot 1. -/
def config0 : Image :=
  { uzoug0 with typ := 6, keySlot := 1, flags := 1, ctrIdx := 63, ctrVal := 128, zero1 := List.replicate 30 0, zero2 := List.replicate 128 0, tail := List.replicate 5 0
                body := .config [] 5 0 (Vector.replicate 8 0) }

theorem wit_stage_part : after (.imgStage (req 0x0301 (bytesLE 2 7 ++ bytesLE 2 1 ++ bytesLE 4 0 ++ bytesLE 4 0 ++ [9]))) (owned id) (fun t => said t 1 [] && t.holm.stageOf 7 0 == some [9]) = true :=
  lem_heard rfl (by decide +kernel)

/-- The last fragment of a message whose fragments before it carry everything. -/
def lastPk (op : BitVec 16) (b : Option ImageBody) : VPacket := { pk op [] with frag := 11, body := b }

theorem wit_fragments (op : BitVec 16) (b : Option ImageBody) (d : List Byte) (h : d.length ≤ 65536) : ends (some (op, 4, d, 11)) op (lastPk op b) [] d :=
  .inr ⟨(by decide : (4 : Byte).getLsbD 2 = true), d, rfl, (by decide : (11 : BitVec 16) ≠ 0), (List.append_nil d).symm, h⟩

theorem wit_stage : imageOf (imageFile (signed config0)) config0.body = signed config0 ∧ 4888 ≤ (imageFile (signed config0)).length ∧
    ((owned id).heard (lastPk 0x0301 (some config0.body))).imageFault (signed config0) = none ∧ (owned id).holm.flash.length < 64 := by
  refine ⟨imageOf_imageFile (signed config0) rfl (sha3_length _) rfl (blankSig_length _ _) rfl, ?_, lem_accepted _ _ (lem_signed _) (by decide +kernel) rfl (by decide +kernel), by decide +kernel⟩
  have hs : (signed config0).sig.length = 4627 := blankSig_length _ _
  have hm : (manifestOf (signed config0)).length = 256 := by
    have hd : (signed config0).bodyDigest.length = 64 := sha3_length _
    have h1 : (signed config0).zero1.length = 30 := rfl
    have h2 : (signed config0).zero2.length = 128 := rfl
    simp only [manifestOf, List.length_append, bytesLE_length, hd, h1, h2, List.length_cons, List.length_nil]
  have ht : (signed config0).tail.length = 5 := rfl
  simp only [imageFile, List.length_append, hs, hm, ht]
  omega

theorem wit_activate : let e : DirEntry := { active := false, alternate := false, offset := 0, length := 4888, image := signed config0 }
    let s := owned (fun s => { s with holm := { s.holm with flash := [e] } })
    s.holm.flash = [e] ∧ (s.heard (req 0x0302 [])).imageFault e.image = none :=
  ⟨by simp only [owned, vev, at'], lem_accepted _ _ (lem_signed _) (by decide +kernel) rfl (by decide +kernel)⟩

theorem test_rbadv : imageAdvances (signed config0) = true ∧ ((owned id).activate (signed config0)).holm.counters[63] = 128 := by decide +kernel

/-- A field within the first of two byte strings. -/
theorem lem_left (a b : List Byte) (o n : Nat) (h : o + n ≤ a.length) : natAt (a ++ b) o n = natAt a o n := by
  unfold natAt
  rw [List.drop_append_of_le_length (by omega), List.take_append_of_le_length (by rw [List.length_drop]; omega)]

/-- An operator certificate of owner slot 1 with every role, for any device, its key the key of zeros, up to its signature. -/
def certFields : List Byte := [0x50, 0x4F, 1, 1] ++ bytesLE 4 0x3F ++ List.replicate 76 0
def certHead : List Byte := certFields ++ blankKey
def cert : List Byte := certHead ++ blankSig [0x53, 0x56, 0x5A, 0x2D, 0x4F, 0x50, 0x52] certHead
/-- The message that opens a session up to its signature: nonce echo and ciphertext of ones, that certificate; and the message. -/
def openHead : List Byte := List.replicate 1600 1 ++ cert
def heldHello : Hello := { req := [], reply := List.replicate 32 1, key := [] }
def openMsg : List Byte := openHead ++ blankSig [0x53, 0x56, 0x5A, 0x2D, 0x4F, 0x50, 0x4E] (sha3 (heldHello.req ++ heldHello.reply ++ openHead))

theorem lem_cert_head : certHead.length = 2676 := by decide +kernel
theorem lem_cert : cert.length = 7303 := by rw [cert, List.length_append, lem_cert_head, blankSig_length]
theorem lem_open_head : openHead.length = 8903 := by rw [openHead, List.length_append, List.length_replicate, lem_cert]
theorem lem_open_length : openMsg.length = 13530 := by rw [openMsg, List.length_append, lem_open_head, blankSig_length]

theorem wit_cert : (owned id).certOk cert = true := by
  have g (o n : Nat) (h : o + n ≤ 2676) : natAt cert o n = natAt certHead o n := lem_left _ _ _ _ (by rw [lem_cert_head]; exact h)
  have hi : (cert.drop 0x14).take 64 = (certHead.drop 0x14).take 64 := by
    rw [cert, List.drop_append_of_le_length (by rw [lem_cert_head]; decide), List.take_append_of_le_length (by rw [List.length_drop, lem_cert_head]; decide)]
  have ht : cert.take 0xA74 = certHead := by have e := List.take_left (l₁ := certHead) (l₂ := blankSig [0x53, 0x56, 0x5A, 0x2D, 0x4F, 0x50, 0x52] certHead); rwa [lem_cert_head] at e
  have hd : cert.drop 0xA74 = blankSig [0x53, 0x56, 0x5A, 0x2D, 0x4F, 0x50, 0x52] certHead := by
    have e := List.drop_left (l₁ := certHead) (l₂ := blankSig [0x53, 0x56, 0x5A, 0x2D, 0x4F, 0x50, 0x52] certHead); rwa [lem_cert_head] at e
  have hs : (owned id).holm.ownerSigned 1 [0x53, 0x56, 0x5A, 0x2D, 0x4F, 0x50, 0x52] certHead (blankSig [0x53, 0x56, 0x5A, 0x2D, 0x4F, 0x50, 0x52] certHead) = true := by
    have hk : (owned id).holm.keys[ix 4 1] = blankKey := by decide +kernel
    have hl : (owned id).holm.keyLive (BitVec.ofNat 2 1) = true := by decide +kernel
    rw [Holm.ownerSigned, hk, hl, blank_verifies]; rfl
  have h3 : natAt cert 3 1 = 1 := by rw [g 3 1 (by decide)]; decide +kernel
  have hz : (certHead.drop 0x14).take 64 = List.replicate 64 0 := by decide +kernel
  have v : natAt cert 0 2 = 0x4F50 ∧ natAt cert 2 1 = 1 ∧ natAt cert 4 4 = 0x3F ∧ natAt cert 8 1 = 0 ∧ natAt cert 9 1 = 0 ∧ natAt cert 10 2 = 0 := by
    rw [g 0 2 (by decide), g 2 1 (by decide), g 4 4 (by decide), g 8 1 (by decide), g 9 1 (by decide), g 10 2 (by decide)]; decide +kernel
  obtain ⟨v0, v2, v4, v8, v9, v10⟩ := v
  have hk : (owned id).holm.keyLive (BitVec.ofNat 2 1) = true := by decide +kernel
  have hc : (owned id).holm.counters[ix 64 0] = 0 := by decide +kernel
  simp only [State.certOk, hi, ht, hd, h3, hs, v0, v2, v4, v8, v9, v10, hz, hk, hc, decide_true, Bool.true_or, Bool.and_true, Bool.true_and]
  rfl

theorem wit_open : (openMsg.drop 1600).take 7303 = cert ∧ heldHello.reply.take 32 = openMsg.take 32 ∧ heldHello.signed openMsg = true := by
  have h1 : openMsg = List.replicate 1600 1 ++ (cert ++ blankSig [0x53, 0x56, 0x5A, 0x2D, 0x4F, 0x50, 0x4E] (sha3 (heldHello.req ++ heldHello.reply ++ openHead))) := by
    rw [openMsg, openHead, List.append_assoc]
  refine ⟨?_, ?_, ?_⟩
  · rw [h1]; exact mid_block _ _ _ _ _ List.length_replicate lem_cert
  · rw [h1, List.take_append_of_le_length (by rw [List.length_replicate]; decide)]; decide +kernel
  · have ht : openMsg.take 8903 = openHead := by rw [openMsg]; have e := List.take_left (l₁ := openHead) (l₂ := blankSig [0x53, 0x56, 0x5A, 0x2D, 0x4F, 0x50, 0x4E] (sha3 (heldHello.req ++ heldHello.reply ++ openHead))); rwa [lem_open_head] at e
    have hd : openMsg.drop 8903 = blankSig [0x53, 0x56, 0x5A, 0x2D, 0x4F, 0x50, 0x4E] (sha3 (heldHello.req ++ heldHello.reply ++ openHead)) := by
      rw [openMsg]; have e := List.drop_left (l₁ := openHead) (l₂ := blankSig [0x53, 0x56, 0x5A, 0x2D, 0x4F, 0x50, 0x4E] (sha3 (heldHello.req ++ heldHello.reply ++ openHead))); rwa [lem_open_head] at e
    have hk : (openMsg.drop (1600 + 0x54)).take 2592 = blankKey := by
      have e : openMsg = (List.replicate 1600 1 ++ certFields) ++ (blankKey ++
          (blankSig [0x53, 0x56, 0x5A, 0x2D, 0x4F, 0x50, 0x52] certHead ++ blankSig [0x53, 0x56, 0x5A, 0x2D, 0x4F, 0x50, 0x4E] (sha3 (heldHello.req ++ heldHello.reply ++ openHead)))) := by
        have c : cert = certFields ++ (blankKey ++ blankSig [0x53, 0x56, 0x5A, 0x2D, 0x4F, 0x50, 0x52] certHead) := List.append_assoc ..
        rw [h1, c]
        simp only [List.append_assoc]
      rw [e]; exact mid_block _ _ _ _ _ (by decide +kernel) List.length_replicate
    rw [Hello.signed, Hello.transcript, ht, hd, hk, blank_verifies]

/-- A life-cycle command of owner slot 1 up to its signature: code, argument, the device, a key of zeros; and the command. -/
def orderHead (dev : List Byte) (c a : Byte) : List Byte := [c, a, 2, 1] ++ (dev ++ List.replicate 2592 0)
def lcOrder (dev : List Byte) (c a : Byte) : List Byte := orderHead dev c a ++ blankSig [0x53, 0x56, 0x5A, 0x2D, 0x4C, 0x43] (orderHead dev c a)

theorem lem_order (dev : List Byte) (c a : Byte) (hd : dev.length = 64) : lcCmdOf (lcOrder dev c a) =
    { code := c.toNat, arg := a.toNat, count := 2, signer := 1, device := dev, key := List.replicate 2592 0 } := by
  have e : List.drop 64 (dev ++ (List.replicate 2592 0 ++ blankSig [0x53, 0x56, 0x5A, 0x2D, 0x4C, 0x43] (orderHead dev c a))) =
      List.replicate 2592 0 ++ blankSig [0x53, 0x56, 0x5A, 0x2D, 0x4C, 0x43] (orderHead dev c a) := by rw [← hd, List.drop_left]
  have t : List.take 2592 (List.replicate 2592 0 ++ blankSig [0x53, 0x56, 0x5A, 0x2D, 0x4C, 0x43] (orderHead dev c a)) = List.replicate 2592 0 := by
    have e := List.take_left (l₁ := List.replicate 2592 (0 : Byte)) (l₂ := blankSig [0x53, 0x56, 0x5A, 0x2D, 0x4C, 0x43] (orderHead dev c a)); rwa [List.length_replicate] at e
  have t2 : List.take 64 (dev ++ (List.replicate 2592 0 ++ blankSig [0x53, 0x56, 0x5A, 0x2D, 0x4C, 0x43] (orderHead dev c a))) = dev := by rw [← hd, List.take_left]
  have w : lcOrder dev c a = c :: a :: 2 :: 1 :: (dev ++ (List.replicate 2592 0 ++ blankSig [0x53, 0x56, 0x5A, 0x2D, 0x4C, 0x43] (orderHead dev c a))) := by
    simp only [lcOrder, orderHead, List.append_assoc, List.cons_append, List.nil_append]
  rw [w]
  simp only [lcCmdOf, natAt, List.drop_zero, List.drop_succ_cons, List.take_succ_cons, List.take_zero, natLE, e, t, t2, Nat.mul_zero, Nat.add_zero]
  rfl

theorem lem_zeros : (List.replicate 2592 (0 : Byte)).any (fun b => decide (b ≠ 0)) = false := by decide +kernel

/-- The three commands pass their checks in a SECURED device with slots 1 and 2 programmed, slot 1 with the key of zeros. -/
theorem wit_life (h : Holm) (hc : h.lcCount = 2) (hp : h.slotProg = 6) (hr : h.slotRev = 0) (hk : h.keys[(1 : Fin 4)] = blankKey) :
    (∀ x ∈ [((2 : Byte), (3 : Byte)), (3, 2), (1, 3)], h.lcBad (lcCmdOf (lcOrder h.deviceId x.1 x.2)) = false ∧ h.signerOk (lcCmdOf (lcOrder h.deviceId x.1 x.2)) = true ∧
      h.lcSigned (lcCmdOf (lcOrder h.deviceId x.1 x.2)) (lcOrder h.deviceId x.1 x.2) = true ∧ (lcOrder h.deviceId x.1 x.2).length = 7287) := by
  have hd : h.deviceId.length = 64 := sha3_length _
  have l : h.lcState = 2 := by unfold Holm.lcState; rw [hc]; rfl
  have k (j : BitVec 2) : h.keyLive j = (6 : BitVec 4).getLsbD j.toNat := by unfold Holm.keyLive; rw [hp, hr]; simp
  have d : decide (h.deviceId ≠ h.deviceId) = false := by simp
  have q (c a : Byte) : (orderHead h.deviceId c a).length = 2660 := by simp only [orderHead, List.length_append, hd, List.length_replicate]; rfl
  have s (c a : Byte) : h.lcSigned (lcCmdOf (lcOrder h.deviceId c a)) (lcOrder h.deviceId c a) = true := by
    have ht : (lcOrder h.deviceId c a).take 0xA64 = orderHead h.deviceId c a := by
      have e := List.take_left (l₁ := orderHead h.deviceId c a) (l₂ := blankSig [0x53, 0x56, 0x5A, 0x2D, 0x4C, 0x43] (orderHead h.deviceId c a)); rwa [q c a] at e
    have hd' : (lcOrder h.deviceId c a).drop 0xA64 = blankSig [0x53, 0x56, 0x5A, 0x2D, 0x4C, 0x43] (orderHead h.deviceId c a) := by
      have e := List.drop_left (l₁ := orderHead h.deviceId c a) (l₂ := blankSig [0x53, 0x56, 0x5A, 0x2D, 0x4C, 0x43] (orderHead h.deviceId c a)); rwa [q c a] at e
    have hk' : h.keys[ix 4 1] = blankKey := hk
    rw [Holm.lcSigned, ht, hd', lem_order _ _ _ hd]
    simp only [Holm.ownerSigned, hk', k, blank_verifies]
    rw [if_neg (by decide), if_neg (by decide)]
    rfl
  have n (c a : Byte) : (lcOrder h.deviceId c a).length = 7287 := by rw [lcOrder, List.length_append, q, blankSig_length]
  intro x hx
  refine ⟨?_, ?_, s _ _, n _ _⟩
  · fin_cases hx <;> simp only [lem_order _ _ _ hd, Holm.lcBad, LcCmd.carriesKey, l, k, hc, hp, lem_zeros, d] <;> decide
  · fin_cases hx <;> simp only [lem_order _ _ _ hd, Holm.signerOk, l, k] <;> decide

/-- A bitstream that every loader accepts: the service UART on cells 0 and 1. -/
def slotBits : Bitstream := { bits with
  raw := [0x48, 0x53, 1] ++ List.replicate 61 0 ++ [6, 0, 6, 2] ++ List.replicate 956 0, presets := ((Vector.replicate 224 0).set 0 6).set 1 0x206 }
def slotImg : Image :=
  signed { uzoug0 with typ := 5, keySlot := 1, zero1 := List.replicate 30 0, zero2 := List.replicate 128 0, tail := List.replicate 5 0, body := .bitstream slotBits }
/-- SURVEY with that image in flash, its key the key of zeros, the transaction of session 7 staging its slot. -/
def slotWrite : TxnWrite := { cls := 8, idx := 0, off := 0, data := measureOf slotImg ++ [0, 0, 0, 0] }
def staging : State := vev .survey (fun s => { s with holm := { s.holm with
  slotProg := 2, keys := s.holm.keys.set 1 blankKey, flash := [{ active := true, alternate := false, offset := 0, length := 0, image := slotImg }]
  txn := { s.holm.txn with st := .opened, id := 5, owner := 7, writes := [slotWrite] } } })

/-- The state in which its TXN_COMMIT acts. -/
def slotting : State := staging.heard (req 0x0403 (bytesLE 8 0))

theorem lem_slot_image : slotting.imageFault slotImg = none := lem_accepted _ _ (lem_signed _) (by decide +kernel) rfl (by decide +kernel)

theorem lem_staged (s : State) (w : TxnWrite) (h : objWrites [w] 8 0 = [w]) (hb : s.objBytes 8 0 = List.replicate 68 0) (ho : w.off = 0) (hl : w.data.length = 68) :
    s.objStaged [w] 8 0 = w.data := by
  simp [State.objStaged, h, hb, overlay, ho, hl]

theorem lem_slot_object : slotting.objStaged [slotWrite] 8 0 = measureOf slotImg ++ [0, 0, 0, 0] :=
  lem_staged slotting slotWrite (List.filter_eq_self.mpr (by intro a h; rw [List.mem_singleton.mp h]; rfl)) (by decide +kernel) rfl
    (by rw [slotWrite, List.length_append, measureOf, sha3_length]; rfl)

/-- What four zero bytes behind 64 bytes read as. -/
theorem lem_behind (l : List Byte) (hl : l.length = 64) : natAt (l ++ [0, 0, 0, 0]) 64 1 = 0 ∧ natAt (l ++ [0, 0, 0, 0]) 65 1 = 0 ∧
    zeroAt (l ++ [0, 0, 0, 0]) 66 2 = true ∧ (l ++ [0, 0, 0, 0]).take 64 = l := by
  refine ⟨?_, ?_, ?_, by rw [← hl, List.take_left]⟩
  · unfold natAt; rw [List.drop_append, List.drop_eq_nil_of_le (by omega), hl]; rfl
  · unfold natAt; rw [List.drop_append, List.drop_eq_nil_of_le (by omega), hl]; rfl
  · unfold zeroAt; rw [List.drop_append, List.drop_eq_nil_of_le (by omega), hl]; rfl

theorem lem_found (h : Holm) (e : DirEntry) (k : Nat) (hf : h.flash = [e]) (ht : e.image.typ.toNat = k) : h.imageBy (measureOf e.image) k = some e.image := by
  simp [Holm.imageBy, hf, ht]

theorem lem_slot_found : slotting.holm.imageBy (measureOf slotImg) 5 = some slotImg :=
  lem_found slotting.holm { active := true, alternate := false, offset := 0, length := 0, image := slotImg } 5 rfl rfl

theorem wit_slot : slotting.commitFault [slotWrite] = none ∧ stages [slotWrite] 8 0 = true ∧ staging.holm.txn.writes = [slotWrite] ∧ staging.holm.slotJob = none := by
  refine ⟨?_, by decide +kernel, rfl, by decide +kernel⟩
  have hf : slotting.slotFault (measureOf slotImg ++ [0, 0, 0, 0]) = none := by
    obtain ⟨n0, n1, hz, ht⟩ := lem_behind (measureOf slotImg) (sha3_length _)
    have hb : slotting.shore.bits.isSome = false := by decide +kernel
    have hv : (imageBits slotImg).any (fun b => decide (b.levels ≠ slotting.shore.levels)) = false := by decide +kernel
    have hg : slotImg.target.toNat = 0 := rfl
    have hf := lem_slot_found
    have ha := lem_slot_image
    generalize slotting = s at *
    generalize slotImg = i at *
    unfold State.slotFault
    rw [n0, n1, hz, ht, hb, hf]
    simpa [ha, hg] using hv
  have s1 : ∀ k ∈ [1, 2, 10], stages [slotWrite] k 0 = false := by decide +kernel
  have s2 : ∀ k ∈ [3, 6, 7, 9], stagedIdx [slotWrite] k = [] := by decide +kernel
  have s5 : (objWrites [slotWrite] 5 0).isEmpty = true := by decide +kernel
  have f1 : slotting.frameFault (slotting.candidate [slotWrite]) [slotWrite] = none := by decide +kernel
  have f2 : slotting.streamFault (slotting.candidate [slotWrite]) [slotWrite] = none := by decide +kernel
  have f3 : slotting.regFault (slotting.candidate [slotWrite]) [slotWrite] = none := by decide +kernel
  have s8 : stages [slotWrite] 8 0 = true := by decide +kernel
  simp only [State.commitFault, s1 1 (by decide), s1 2 (by decide), s1 10 (by decide), s2 3 (by decide), s2 6 (by decide), s2 7 (by decide), s2 9 (by decide), s5, s8, f1, f2, f3,
    lem_slot_object, hf, List.findSome?_nil, Bool.false_eq_true, if_false, if_true, Bool.not_true, Bool.or_false, Bool.false_and, false_and, Option.map_none, Option.none_or]

/-! ### Two rules whole -/

theorem wit_mode : let r : Request := { src := 2, tag := 1, user := false, op := .read 4, addr := 0x40000008 }
    let s := at' .survey (fun s => { s with pwr := { s.pwr with target := some .configure } })
    s.heldBack r = false ∧ after (.registerBlockAccess r) s (fun t => t.net.responses.map (fun x => (x.tag, x.status, x.data)) == [(1, .ok, [7, 1, 0, 0])]) = true ∧
    after (.registerWrite { src := 2, tag := 1, user := false } 0x40000008 0xFFFFFFFF) s (fun t => t.mode == .survey && t.pwr.target == some .configure) = true := by
  decide +kernel


end Sys2Proof.Tests
end

section
/-! PROOF. What a target's answer changes, and what the sound network's service of a request comes to (spec/13 R312 to R314, spec/10 R239,
log 45): rules that every window of the address map uses. -/

namespace Sys2Proof.Machine

@[simp] theorem ix_val {n : Nat} [NeZero n] (i : Fin n) : ix n i.val = i := by simp [ix]

/-- An answer changes the sound network and the draws of free values, nothing else. -/
theorem State.reply_frame (s : State) (r : Request) (st : Status) (d : List Byte) : ∃ k f, s.reply r st d = { s with net := k, fresh := f } := by
  unfold State.reply State.answerFrom State.respondLate
  dsimp only
  split_ifs <;> exact ⟨_, _, rfl⟩

@[simp] theorem State.reply_cores (s : State) (r : Request) (st : Status) (d : List Byte) : (s.reply r st d).cores = s.cores := by
  obtain ⟨_, _, h⟩ := s.reply_frame r st d; rw [h]
@[simp] theorem State.reply_isl (s : State) (r : Request) (st : Status) (d : List Byte) : (s.reply r st d).isl = s.isl := by
  obtain ⟨_, _, h⟩ := s.reply_frame r st d; rw [h]
@[simp] theorem State.reply_holm (s : State) (r : Request) (st : Status) (d : List Byte) : (s.reply r st d).holm = s.holm := by
  obtain ⟨_, _, h⟩ := s.reply_frame r st d; rw [h]

/-- It takes no request from those under way. -/
@[simp] theorem State.reply_requests (s : State) (r : Request) (st : Status) (d : List Byte) : (s.reply r st d).net.requests = s.net.requests := by
  unfold State.reply State.answerFrom State.respondLate
  dsimp only
  split_ifs <;> rfl

/-- A response whose tag is not in quarantine is handed over. -/
theorem State.respondLate_responses (s : State) {q : Response} (hq : 4 ≤ q.dst.val → (q.dst, q.tag) ∉ s.net.quarantine) :
    (s.respondLate q).net.responses = s.net.responses ++ [q] := by
  have hl : ¬ (decide (4 ≤ q.dst.val) && s.net.quarantine.contains (q.dst, q.tag)) = true := by simpa using hq
  rw [State.respondLate, if_neg hl]
  split_ifs <;> rfl

/-- An answer whose tag is not in quarantine joins the responses. -/
theorem State.reply_responses (s : State) {r : Request} (hq : 4 ≤ r.src.val → (r.src, r.tag) ∉ s.net.quarantine) (st : Status) (d : List Byte) :
    (s.reply r st d).net.responses = s.net.responses ++ [{ dst := r.src, tag := r.tag, status := st, data := d }] := by
  have h := s.respondLate_responses (q := { dst := r.src, tag := r.tag, status := st, data := d }) hq
  unfold State.reply State.answerFrom
  dsimp only
  split <;> exact h

/-- A request that nothing holds back and its own node lets through is answered with what its target makes of it. -/
theorem State.serve_lets {s : State} {r : Request} (h : s.lets r) (f : State → Status × List Byte × State) :
    s.serve r true f = (f (s.taken r)).2.2.reply r (f (s.taken r)).1 (f (s.taken r)).2.1 := by
  obtain ⟨hb, hn, -⟩ := h
  simp [State.serve, hb, hn]

/-- So a command that serves `r` by `f` runs it, where `f` leaves the network alone. -/
theorem State.lets.serves {s : State} {r : Request} (h : s.lets r) {i : Instr} {f : State → Status × List Byte × State} {st : Status} {d : List Byte}
    {t : State} (hi : exec i s = .next (s.serve r true f)) (hf : f (s.taken r) = (st, d, t)) (ht : t.net = (s.taken r).net) :
    s.serves i r (t.reply r st d) st d := by
  have hq : 4 ≤ r.src.val → (r.src, r.tag) ∉ t.net.quarantine := by rw [ht]; exact h.2.2
  refine ⟨?_, ?_, ?_⟩
  · rw [hi, State.serve_lets h, hf]
  · rw [State.reply_requests, ht]; rfl
  · rw [State.reply_responses t hq, ht]; rfl

end Sys2Proof.Machine
end

section
/-! PROOF. The other windows of the address map (spec/01 R23 to R27; spec/16 R378 to R382). -/

namespace Sys2Proof.Machine

/-! ### A core's SRAM through its window (R23) -/

/-- Core `n`'s window. -/
theorem areaOf_sramWin {addr : PAddr} {n : CoreId} {off : Nat} (ha : addr.toNat = 0x10000000 + 0x40000 * n.val + off) (ho : off < 0x40000) :
    areaOf addr = .sramWin n := by
  have hn := n.isLt
  have hd : offsetFrom 0x10000000 addr.toNat / 0x40000 = n.val := by unfold offsetFrom; omega
  unfold areaOf
  dsimp only
  rw [if_neg (by omega), if_pos (by omega), hd, ix_val]

/-- An access to the window is one to the SRAM of its core. -/
theorem State.aliasAccess_sramWin (s : State) (op : ReqOp) {addr : PAddr} {n : CoreId} {off : Nat}
    (ha : addr.toNat = 0x10000000 + 0x40000 * n.val + off) (ho : off < 0x40000) : s.aliasAccess op addr = s.aliasAt op n off := by
  have hd : offsetFrom 0x10000000 addr.toNat / 0x40000 = n.val := by unfold offsetFrom; omega
  have hm : offsetFrom 0x10000000 addr.toNat % 0x40000 = off := by unfold offsetFrom; omega
  rw [State.aliasAccess, hd, hm, ix_val]

/-- A write of an accepted shape to the SRAM of an open core stores its bytes. -/
theorem State.aliasAt_write {s : State} {n : CoreId} {off : Nat} {bs : List Byte} (ho : s.domainOpen (304 + n.val) = true)
    (hs : aliasShape off bs.length = true) :
    ∃ u, s.aliasAt (.write bs) n off =
      (.ok, [], { s with cores := vmod s.cores n (fun c => { c with sram := wrBytes 0 c.sram off bs, sramUe := u }) }) := by
  have hs' : aliasShape off (reqLen (.write bs)) = true := hs
  unfold State.aliasAt
  rw [ho, hs']
  exact ⟨_, rfl⟩

/-- A word written through the window of core `n` is stored, and nothing else in its SRAM changes. -/
theorem sramAliasAccess_writes_word {s : State} {r : Request} {n : CoreId} {off : Nat} {bs : List Byte} (h : s.lets r)
    (ha : r.addr.toNat = 0x10000000 + 0x40000 * n.val + off) (ho : off < 0x40000) (hd : s.domainOpen (304 + n.val) = true)
    (hop : r.op = .write bs) (hl : bs.length = 4) (hal : off % 4 = 0) :
    ∃ t, s.serves (.sramAliasAccess r) r t .ok [] ∧ (∀ k (h : k < bs.length), rdByte 0 (t.cores[n]).sram (off + k) = bs[k]) ∧
      (s.cores[n]).SameOutside (t.cores[n]) off 4 := by
  have hs : aliasShape off bs.length = true := by simp [aliasShape, hl, hal]
  obtain ⟨u, hu⟩ := State.aliasAt_write (s := s.taken r) (n := n) hd hs
  have hi : exec (.sramAliasAccess r) s = .next (s.serve r true (fun t => t.aliasAccess r.op r.addr)) := by
    show execSramAliasAccess r s = _
    rw [execSramAliasAccess, areaOf_sramWin ha ho]
  have hf := (State.aliasAccess_sramWin (s.taken r) (.write bs) ha ho).trans hu
  rw [← hop] at hf
  refine ⟨_, h.serves hi hf rfl, ?_, ?_⟩
  · intro k hk
    rw [State.reply_cores, vmod_at]
    exact rdByte_wrBytes_inside 0 _ off k bs hk
  · intro x hx
    rw [State.reply_cores, vmod_at]
    exact rdByte_wrBytes_outside 0 _ off x bs (by rwa [hl])

/-! ### The mailbox window (R378 to R382) -/

theorem areaOf_mailbox {addr : PAddr} (h1 : 0x30000000 ≤ addr.toNat) (h2 : addr.toNat < 0x30010000) : areaOf addr = .mailbox := by
  unfold areaOf
  dsimp only
  rw [if_neg (by omega), if_neg (by omega), if_neg (by omega), if_pos ⟨h1, h2⟩]

/-- Behind its control word every area of the window is the mailbox RAM. -/
theorem State.mboxByte_ram (s : State) {o : Nat} (h1 : o < 0xC000) (h2 : 4 ≤ o % 0x1000) : s.mboxByte o = rdByte 0 s.holm.mbox o := by
  unfold State.mboxByte
  rw [if_pos h1]
  exact if_neg (by omega)

/-- HC reads every aligned word of the areas. -/
theorem State.mboxAccess_read_hc (s : State) {addr : PAddr} {o : Nat} (ha : addr.toNat = 0x30000000 + o) (ho : o < 0xC000) (hal : o % 4 = 0) :
    s.mboxAccess 4 (.read 4) addr = (.ok, (List.range 4).map (fun k => s.mboxByte (o + k)), s) := by
  have e : offsetFrom 0x30000000 addr.toNat = o := by unfold offsetFrom; omega
  have hd : ¬ 0xD000 ≤ o := by omega
  unfold State.mboxAccess
  simp [e, reqLen, hal, hd]

/-- What HC reads behind the control word of an area of core `n` is the RAM, and the Holm stays as it is. -/
theorem mailboxWindowAccess_reads_ram {s : State} {r : Request} {n : CoreId} {off : Nat} (h : s.lets r) (hsrc : r.src = 4)
    (ha : r.addr.toNat = 0x30000000 + 0x3000 * n.val + off) (h4 : 4 ≤ off) (ho : off < 0x1000) (hop : r.op = .read 4) (hal : off % 4 = 0) :
    ∃ t, s.serves (.mailboxWindowAccess r) r t .ok ((List.range 4).map (fun k => rdByte 0 s.holm.mbox (0x3000 * n.val + off + k))) ∧ t.holm = s.holm := by
  have hn := n.isLt
  have hi : exec (.mailboxWindowAccess r) s = .next (s.serve r true (fun t => t.mboxAccess r.src r.op r.addr)) := by
    show execMailboxWindowAccess r s = _
    rw [execMailboxWindowAccess, areaOf_mailbox (by omega) (by omega), decide_eq_true rfl]
  have hb : ∀ k ∈ List.range 4, (s.taken r).mboxByte (0x3000 * n.val + off + k) = rdByte 0 s.holm.mbox (0x3000 * n.val + off + k) := by
    intro k hk
    have := List.mem_range.mp hk
    exact State.mboxByte_ram _ (by omega) (by omega)
  have hf : (s.taken r).mboxAccess r.src r.op r.addr =
      (.ok, (List.range 4).map (fun k => rdByte 0 s.holm.mbox (0x3000 * n.val + off + k)), s.taken r) := by
    rw [hsrc, hop, State.mboxAccess_read_hc (o := 0x3000 * n.val + off) _ (by omega) (by omega) (by omega), List.map_congr_left hb]
  exact ⟨_, h.serves hi hf rfl, by rw [State.reply_holm]; rfl⟩

/-- An answer to a command's own access changes the sound network and the draws of free values. -/
theorem State.answer_frame (s : State) (acc : Acc) (st : Status) (d : List Byte) : ∃ k f, s.answer acc st d = { s with net := k, fresh := f } := by
  unfold State.answer
  dsimp only
  split_ifs <;> exact ⟨_, _, rfl⟩

@[simp] theorem State.answer_holm (s : State) (acc : Acc) (st : Status) (d : List Byte) : (s.answer acc st d).holm = s.holm := by
  obtain ⟨_, _, h⟩ := s.answer_frame acc st d; rw [h]

/-- It is the last of the responses. -/
theorem State.answered_answer (s : State) (acc : Acc) (st : Status) (d : List Byte) : answered (s.answer acc st d) acc st d := by
  simp [answered, State.answer]

/-- Entering the network leaves the Holm. -/
@[simp] theorem State.enters_holm (s : State) (reach : Bool) (acc : Acc) (k : Nat) : (s.enters reach acc k).holm = s.holm := by
  unfold State.enters; split <;> rfl

/-- The control words of core `n` obey the core itself in supervisor privilege, and HC. -/
theorem State.mboxAction_served (s : State) {acc : Acc} {n : CoreId} (h : acc.src.val = n.val ∧ acc.user = false ∨ acc.src = 4) (f : State → State) :
    s.mboxAction acc n f = (f (s.enters true acc 4)).answer acc .ok [] := by
  have hc : ((decide (acc.src.val = n.val) && !acc.user) || decide (acc.src.val = 4)) = true := by
    rcases h with ⟨h1, h2⟩ | h
    · simp [h1, h2]
    · simp [h]
  rw [State.mboxAction, if_pos hc]

/-- RPLCTL.VALID written 1 clears the flag of its core. -/
theorem rplctlValidClear_clears (s : State) {acc : Acc} {n : CoreId} (h : acc.src.val = n.val ∧ acc.user = false ∨ acc.src = 4) :
    ∃ t, exec (.rplctlValidClear acc n) s = .next t ∧ t.holm.rplValid = s.holm.rplValid.set n.val false ∧ answered t acc .ok [] := by
  refine ⟨((s.enters true acc 4).clearValid n).answer acc .ok [], ?_, ?_, State.answered_answer ..⟩
  · exact congrArg Host.Outcome.next (s.mboxAction_served h _)
  · rw [State.answer_holm, State.clearValid, State.enters_holm]; rfl

/-- FRMCTL.NEW written 1 clears the flag of its core. -/
theorem frmctlNewClear_clears (s : State) {acc : Acc} {n : CoreId} (h : acc.src.val = n.val ∧ acc.user = false ∨ acc.src = 4) :
    ∃ t, exec (.frmctlNewClear acc n) s = .next t ∧ t.holm.frmNew = s.holm.frmNew.set n.val false ∧ answered t acc .ok [] := by
  refine ⟨((s.enters true acc 4).clearNew n).answer acc .ok [], ?_, ?_, State.answered_answer ..⟩
  · exact congrArg Host.Outcome.next (s.mboxAction_served h _)
  · rw [State.answer_holm, State.clearNew, State.enters_holm]; rfl

/-! ### Views of PE memory (R24 to R27) -/

/-- An open domain has power. -/
theorem State.on_of_domainOpen {s : State} {d : Nat} (h : s.domainOpen d = true) : s.pwr.on.getLsbD d = true := by
  simp only [State.domainOpen, Bool.and_eq_true] at h
  exact h.1.1

/-- Nothing refuses an access where the place it goes to is shut. -/
theorem State.not_shut_of_viewRefusalIf {s : State} {shut : Bool} {op : ReqOp} {addr : PAddr} (h : s.viewRefusalIf shut op addr = none) : shut = false := by
  cases shut with
  | false => rfl
  | true =>
    simp only [State.viewRefusalIf, if_true] at h
    split at h <;> nomatch h

/-- What the gateway lets in is not refused at its island. -/
theorem State.islandRefusal_of_viewRefusal {s : State} {op : ReqOp} {addr : PAddr} (h : s.viewRefusal op addr = none) : s.islandRefusal op addr = none := by
  simp only [State.viewRefusal] at h
  have hs := State.not_shut_of_viewRefusalIf h
  simp only [Bool.or_eq_false_iff, Bool.not_eq_false'] at hs
  obtain ⟨⟨hg, hp⟩, hr⟩ := hs
  have hi : (!s.pwr.on.getLsbD (264 + (viewTarget addr).1.val) || !s.pwr.on.getLsbD (s.islAt (viewTarget addr).1 (viewTarget addr).2).val ||
      !(s.isl[s.islAt (viewTarget addr).1 (viewTarget addr).2]).ready) = false := by
    rw [State.on_of_domainOpen hg, State.on_of_domainOpen hp, hr]; rfl
  have hv : s.viewRefusalIf false op addr = none := by
    rwa [hg, hp, hr] at h
  unfold State.islandRefusal
  dsimp only
  rw [hi, hv]

/-- A view access that its gateway does not refuse waits at the ladle of its island, unanswered. -/
theorem peViewRequest_waits {s : State} {r : Request} (h : s.lets r) (ha : areaOf r.addr = .plane ∨ areaOf r.addr = .word)
    (hr : s.viewRefusal r.op r.addr = none) :
    ∃ t, exec (.peViewRequest r) s = .next t ∧ t.net.requests = s.net.requests.erase r ∧ t.net.responses = s.net.responses ∧
      let P := s.islAt (viewTarget r.addr).1 (viewTarget r.addr).2
      (t.isl[P]).waiting = (s.isl[P]).waiting ++ [{ req := r, served := 0, got := 0, ue := false, mute := false }] := by
  obtain ⟨hb, hn, -⟩ := h
  have hv : inView r.addr = true := by rcases ha with ha | ha <;> simp [inView, ha]
  have he : exec (.peViewRequest r) s = .next ((s.taken r).viewEnter r) := by
    show execPeViewRequest r s = _
    simp [execPeViewRequest, hb, hn, hv, State.islandRefusal_of_viewRefusal hr]
  refine ⟨_, he, rfl, rfl, ?_⟩
  exact congrArg IslSt.waiting (vmod_at s.isl (s.islAt (viewTarget r.addr).1 (viewTarget r.addr).2) _)

/-- Position 0 of `a` is the first island in which a timeout looks. -/
theorem State.islands_head (s : State) (a : Arch) : ∃ l, s.islands a = s.islAt a 0 :: l := ⟨_, rfl⟩

/-- A timeout withdraws a read that waits alone at position 0 of `a`, and answers it TIMEOUT. -/
theorem State.gatewayTimeout_read {s : State} {a : Arch} {v : ViewWait} {k : Nat} (hw : (s.isl[s.islAt a 0]).waiting = [v])
    (hu : isUnserved v.req.src v.req.tag v = true) (hop : v.req.op = .read k) :
    s.gatewayTimeout a v.req.src v.req.tag = (s.modIsl (s.islAt a 0) (fun i => { i with waiting := i.waiting.erase v })).reply v.req .timeout [] := by
  obtain ⟨l, hl⟩ := s.islands_head a
  have hf : (s.islands a).find? (fun P => (s.isl[P]).waiting.any (isUnserved v.req.src v.req.tag)) = some (s.islAt a 0) := by
    rw [hl]; exact List.find?_cons_of_pos (by rw [hw, List.any_cons, hu, Bool.true_or])
  have hx : (s.isl[s.islAt a 0]).waiting.find? (isUnserved v.req.src v.req.tag) = some v := by
    rw [hw]; exact List.find?_cons_of_pos hu
  have hr : reqWrites v.req.op = false := by rw [hop]; rfl
  unfold State.gatewayTimeout
  simp only [hf, hx, hr, Bool.false_and, Bool.false_eq_true, if_false]
  rfl

/-- Where the Holm keeps no MEM_READ or MEM_WRITE, nothing goes on. -/
theorem State.memResumeAll_idle {s : State} (h : s.holm.jobs = []) : s.memResumeAll = { s with holm := { s.holm with jobs := [] } } := by
  rw [State.memResumeAll, h]; rfl

/-- The read that times out leaves its ladle, and TIMEOUT joins the responses. -/
theorem gatewayViewTimeout_answers {s : State} {a : Arch} {v : ViewWait} (hw : (s.isl[s.islAt a 0]).waiting = [v])
    (hu : isUnserved v.req.src v.req.tag v = true) (hop : ∃ k, v.req.op = .read k) (hj : s.holm.jobs = [])
    (hq : 4 ≤ v.req.src.val → (v.req.src, v.req.tag) ∉ s.net.quarantine) :
    ∃ t, exec (.gatewayViewTimeout a v.req.src v.req.tag) s = .next t ∧ (t.isl[s.islAt a 0]).waiting = [] ∧
      t.net.responses = s.net.responses ++ [{ dst := v.req.src, tag := v.req.tag, status := .timeout, data := [] }] := by
  obtain ⟨k, hop⟩ := hop
  have hidle := State.memResumeAll_idle (s := s.gatewayTimeout a v.req.src v.req.tag) (by rw [State.gatewayTimeout_read hw hu hop]; simpa using hj)
  refine ⟨_, congrArg Host.Outcome.next hidle, ?_, ?_⟩
  · show ((s.gatewayTimeout a v.req.src v.req.tag).isl[s.islAt a 0]).waiting = []
    rw [State.gatewayTimeout_read hw hu hop, State.reply_isl, State.modIsl_isl, vmod_at]
    show (s.isl[s.islAt a 0]).waiting.erase v = []
    rw [hw, List.erase_cons_head]
  · show (s.gatewayTimeout a v.req.src v.req.tag).net.responses = _
    rw [State.gatewayTimeout_read hw hu hop]
    exact State.reply_responses (s.modIsl (s.islAt a 0) _) hq .timeout []

/-- Settles O41, window by window. -/
theorem windows : Obligations.Windows := by
  intro s r n acc h hacc
  refine ⟨?_, ?_, rplctlValidClear_clears s hacc, frmctlNewClear_clears s hacc, ?_, ?_⟩
  · intro off bs ha ho hd hop hl hal
    exact sramAliasAccess_writes_word h ha ho hd hop hl hal
  · intro off hsrc ha h4 ho hop hal
    exact mailboxWindowAccess_reads_ram h hsrc ha h4 ho hop hal
  · exact peViewRequest_waits h
  · intro a v
    exact gatewayViewTimeout_answers

end Sys2Proof.Machine
end

section
/-! PROOF. What a fence, a switched-off domain, an event and a safe stop come to (spec/13 R317, spec/16 R389, spec/18 R416, R423). -/

namespace Sys2Proof.Machine

/-! ### Domains -/

theorem getLsbD_domBit {d k : Nat} (hk : k < 316) : (domBit d).getLsbD k = decide (k = d) := by
  rw [domBit, BitVec.natCast_eq_ofNat, BitVec.getLsbD_ofNat, Nat.one_shiftLeft, Nat.testBit_two_pow, decide_eq_true hk, Bool.true_and]
  exact decide_eq_decide.mpr eq_comm

/-- A domain's fence waits for the network, walks, cores, the map of positions and the ladles alone. -/
theorem State.domDrained_congr {s t : State} (hn : t.net = s.net) (hx : t.xlat = s.xlat) (hc : t.cores = s.cores) (ha : t.arch = s.arch)
    (hw : ∀ Q : Isl, (t.isl[Q]).waiting = (s.isl[Q]).waiting) (d : Nat) : t.domDrained d = s.domDrained d := by
  have hi : t.islAt = s.islAt := by funext a p; rw [State.islAt, State.islAt, ha]
  have hd : t.addrDom = s.addrDom := by funext addr; rw [State.addrDom, State.addrDom, hi]
  have hh : t.holdsCredit d = s.holdsCredit d := by funext p; rw [State.holdsCredit, State.holdsCredit, hd]
  simp only [State.domDrained, hn, hx, hc, hw, hh]

/-- An island of a drained domain is switched off at once: its contents are lost and its domain has no power. -/
theorem State.switchOff_island {s : State} {P : Isl} (h : s.domDrained P.val = true) :
    s.switchOff P.val = State.offIsland { s with pwr := { s.pwr with
      fence := s.pwr.fence ||| domBit P.val, on := s.pwr.on &&& ~~~(domBit P.val), retained := s.pwr.retained &&& ~~~(domBit P.val) } } P := by
  have hd : State.domDrained { s with pwr := { s.pwr with fence := s.pwr.fence ||| domBit P.val } } P.val = true := by
    rw [← h]; exact State.domDrained_congr rfl rfl rfl rfl (fun _ => rfl) _
  rw [State.switchOff]
  dsimp only
  rw [if_pos hd, State.powerOff]
  dsimp only
  rw [if_pos P.isLt, ix_val]

/-! ### Events and SAFE STOP -/

/-- The record of an event is the last of the journal. -/
theorem lastEvent_event (s : State) (k : EventKind) (d : List Byte) : lastEvent (s.event k d) = some (k, d) := by
  have hl : offsetFrom 8191 s.events.length ≤ s.events.length := Nat.sub_le ..
  rw [lastEvent, State.event]
  dsimp only
  rw [List.drop_append_of_le_length hl, List.getLast?_concat]
  rfl

/-- Where SAFE STOP may be entered, it is. -/
theorem State.safeStop_mode {s : State} (h : s.mayStop = true) (d : List Byte) : (s.safeStop d).mode = .safeStop := by
  unfold State.safeStop
  rw [h]
  rfl

end Sys2Proof.Machine
end

section
/-! PROOF. The phases of a tide step (spec/19 R437 to R440, Table 19.1; spec/01 R16). -/

namespace Sys2Proof.Machine

/-- The reserve of `a` is powered and the step wakes it. -/
theorem tideStepStart_powers {s : State} {a : Arch} (hr : s.tideRuns a = true) (hs : (s.arch[a]).tide.susp = false) (h0 : (s.arch[a]).tide.phase = 0) :
    ∃ t, exec (.tideStepStart a) s = .next t ∧ (t.arch[a]).tide.phase = 1 ∧ t.pwr.on.getLsbD (islOf a (s.arch[a]).rslot.toNat).val = true := by
  have hc : ¬ (!s.tideRuns a || (s.arch[a]).tide.susp || decide ((s.arch[a]).tide.phase ≠ 0)) = true := by rw [hr, hs, h0]; decide
  have hk : (islOf a (s.arch[a]).rslot.toNat).val < 316 := lt_trans (Fin.isLt _) (by decide)
  refine ⟨s.tideStart a, rfl, ?_, ?_⟩ <;> rw [State.tideStart, if_neg hc]
  · exact congrArg (fun x : ArchSt => x.tide.phase) (vmod_at ..)
  · show (s.pwr.on ||| domBit _).getLsbD _ = true
    rw [BitVec.getLsbD_or, getLsbD_domBit hk, decide_eq_true rfl, Bool.or_true]

/-- A ladle that is mirrored changes no archipelago. -/
@[simp] theorem State.mirror_arch (s : State) (a : Arch) : (s.mirror a).arch = s.arch := by
  unfold State.mirror; split <;> rfl

/-- The copy has ended. -/
theorem tideShadowComplete_phase {s : State} {a : Arch} (h2 : (s.arch[a]).tide.phase = 2) :
    ∃ t, exec (.tideShadowComplete a) s = .next t ∧ (t.arch[a]).tide.phase = 3 := by
  have he : exec (.tideShadowComplete a) s = execTideShadowComplete a s := rfl
  rw [he, execTideShadowComplete]
  dsimp only
  rw [if_pos h2]
  refine ⟨_, rfl, ?_⟩
  rw [State.mirror_arch, State.modTide, State.modArch_arch, vmod_at]

/-- While the reserve shadows the island at position `p`, the pair is the two. -/
theorem State.shadowPair_of_target {s : State} {a : Arch} {p : Fin 32} (h3 : (s.arch[a]).tide.phase = 3) (hp : (s.arch[a]).islmap[p] = (s.arch[a]).tide.tslot)
    (hu : ∀ q : Fin 32, q ≠ p → (s.arch[a]).islmap[q] ≠ (s.arch[a]).tide.tslot) :
    s.shadowPair a = some (islOf a (s.arch[a]).rslot.toNat, p) := by
  have hf : (List.finRange 32).find? (fun q => decide ((s.arch[a]).islmap[q] = (s.arch[a]).tide.tslot)) = some p := by
    cases h : (List.finRange 32).find? (fun q => decide ((s.arch[a]).islmap[q] = (s.arch[a]).tide.tslot)) with
    | none => exact absurd hp (by simpa using List.find?_eq_none.mp h p (List.mem_finRange p))
    | some q =>
      have hq : (s.arch[a]).islmap[q] = (s.arch[a]).tide.tslot := by simpa only [decide_eq_true_eq] using List.find?_some h
      by_cases e : q = p
      · rw [e]
      · exact absurd hq (hu q e)
  unfold State.shadowPair
  dsimp only
  rw [if_pos (Or.inr h3), hf]
  rfl

/-- The swap: the reserve carries the position with the registers of the island it shadowed, which goes into test. -/
theorem State.tideSwap_maps {s : State} {a : Arch} {p : Fin 32} (hsp : s.shadowPair a = some (islOf a (s.arch[a]).rslot.toNat, p))
    (hm : (s.arch[a]).tide.mapOutNow = false) (hne : islOf a (s.arch[a]).rslot.toNat ≠ s.islAt a p) :
    ((s.tideSwap a).arch[a]).islmap = (s.arch[a]).islmap.set p.val (s.arch[a]).rslot ∧ ((s.tideSwap a).arch[a]).gen = (s.arch[a]).gen + 1 ∧
      ((s.tideSwap a).arch[a]).tide.phase = 4 ∧ ((s.tideSwap a).isl[islOf a (s.arch[a]).rslot.toNat]).k = (s.isl[s.islAt a p]).k ∧
      ((s.tideSwap a).isl[islOf a (s.arch[a]).rslot.toNat]).role = 0 ∧ ((s.tideSwap a).isl[s.islAt a p]).role = 3 := by
  have hc {b : Bool} : ¬ ((s.arch[a]).tide.mapOutNow && b) = true := by rw [hm]; exact Bool.false_ne_true
  unfold State.tideSwap
  rw [hsp]
  dsimp only
  rw [if_neg hc]
  simp only [State.modArch_arch, State.modArch_isl, State.modIsl_arch, State.modIsl_isl, vmod_at, vmod_else _ _ _ _ hne, and_self, and_true]
  rfl

/-- TIDE_SWAP where the archipelago is a stream of its own and its boundary permits it. -/
theorem tideSwap_here {s : State} {a : Arch} (h3 : (s.arch[a]).tide.phase = 3) (hs : s.streamOf a = [a]) (hb : (s.arch[a]).seq.swapHere = true)
    (ht : s.trapNow a = none) : exec (.tideSwap a) s = .next (s.tideSwap a) := by
  have hall : [a].all (fun b => (s.arch[b]).seq.swapHere) = true := by rw [List.all_cons, hb]; rfl
  show execTideSwap a s = _
  rw [execTideSwap, hs]
  exact if_pos ⟨h3, hall, ht⟩

/-- An injection moves no view access from its ladle. -/
@[simp] theorem IslSt.inject_waiting (i : IslSt) (q : A13) (cls : List Nat) (d : BitVec 96) : (i.inject q cls d).2.waiting = i.waiting := by
  unfold IslSt.inject; split <;> rfl

/-- A test that passes on a good copy makes the old island the reserve, without power. -/
theorem tideTestComplete_passes {s : State} {a : Arch} (h4 : (s.arch[a]).tide.phase = 4) (hb : (s.arch[a]).tide.badCopy = false)
    (hd : s.domDrained (islOf a (s.arch[a]).tide.tslot.toNat).val = true) :
    ∃ t, exec (.tideTestComplete a true) s = .next t ∧ (t.arch[a]).tide.phase = 0 ∧ (t.arch[a]).rslot = (s.arch[a]).tide.tslot ∧
      t.pwr.on.getLsbD (islOf a (s.arch[a]).tide.tslot.toNat).val = false := by
  have he : exec (.tideTestComplete a true) s = execTideTestComplete a true s := rfl
  rw [he, execTideTestComplete]
  dsimp only
  rw [if_neg (not_not.mpr h4), hb, Bool.not_false, Bool.and_true, if_pos rfl]
  generalize islOf a (s.arch[a]).tide.tslot.toNat = P at hd ⊢
  have hd' : (s.modIsl P (fun i => (i.inject i.injPlane (List.range 16) 0).2)).domDrained P.val = true := by
    refine (State.domDrained_congr (s := s) (t := s.modIsl P _) rfl rfl rfl rfl (fun Q => ?_) _).trans hd
    by_cases e : Q = P
    · rw [e, State.modIsl_isl, vmod_at, IslSt.inject_waiting]
    · rw [State.modIsl_isl, vmod_else _ _ _ _ e]
  rw [State.switchOff_island hd']
  refine ⟨_, rfl, ?_, ?_, ?_⟩
  · exact congrArg (fun x : ArchSt => x.tide.phase) (vmod_at ..)
  · exact congrArg ArchSt.rslot (vmod_at ..)
  · show (s.pwr.on &&& ~~~domBit P.val).getLsbD P.val = false
    have hk : P.val < 316 := lt_trans P.isLt (by decide)
    rw [BitVec.getLsbD_and, BitVec.getLsbD_not, getLsbD_domBit hk, decide_eq_true rfl, Bool.not_true, Bool.and_false, Bool.and_false]

/-- The phases of a tide step, in their order. -/
theorem tideStepsRule_holds : tideStepsRule := by
  intro s a p
  refine ⟨tideStepStart_powers, tideShadowComplete_phase, ?_, tideTestComplete_passes⟩
  intro h3 hs hb hp hu hm ht hne
  exact ⟨_, tideSwap_here h3 hs hb ht, State.tideSwap_maps (State.shadowPair_of_target h3 hp hu) hm hne⟩

end Sys2Proof.Machine
end

section
/-! PROOF. Self-tests of the cores and the checks of the Holm (spec/16 R377; spec/17 R414; spec/19 R444). -/

namespace Sys2Proof.Machine

/-- The core whose turn it is goes into test. -/
theorem coreSelftestTimer_tests {s : State} {n : CoreId} (hr : s.holmRuns = true) (ht : s.coreTesting = false) (hn : s.holm.selfNext.val = n.val)
    (hb : s.testBarred n = false) :
    ∃ t, exec .coreSelftestTimer s = .next t ∧ (t.cores[n]).selftest = true ∧ t.holm.selfNext = s.holm.selfNext + 1 := by
  have hc : ¬ (!s.holmRuns || s.coreTesting) = true := by simp [hr, ht]
  obtain rfl : s.holm.selfNext = n := Fin.ext hn
  have hi : (ix 4 ((s.holm.selfNext.val + 0) % 4) : CoreId) = s.holm.selfNext := by simp [ix, Nat.mod_eq_of_lt]
  have hf : ((List.range 4).map (fun k => (ix 4 ((s.holm.selfNext.val + k) % 4) : CoreId))).find? (fun n => !s.testBarred n) = some s.holm.selfNext := by
    rw [List.range_succ_eq_map, List.map_cons, hi]
    exact List.find?_cons_of_pos (by rw [hb]; rfl)
  have he : exec .coreSelftestTimer s = execCoreSelftestTimer s := rfl
  rw [he, execCoreSelftestTimer, if_neg hc]
  dsimp only
  rw [hf]
  exact ⟨_, rfl, congrArg Core.selftest (vmod_at ..), rfl⟩

/-- Its test ends once it is quiet: the result is recorded, and its state is kept. -/
theorem coreSelftestDone_resumes {s : State} {n : CoreId} (pass : Bool) (ht : (s.cores[n]).selftest = true) (hq : (s.cores[n]).quiet = true) :
    ∃ t, exec (.coreSelftestDone n pass) s = .next t ∧ t.cores[n] = { s.cores[n] with selftest := false, stest := if pass then 2 else 3 } ∧
      lastEvent t = some (.selfTest, [BitVec.ofNat 8 n.val, if pass then 1 else 0]) := by
  have he : exec (.coreSelftestDone n pass) s = execCoreSelftestDone n pass s := rfl
  rw [he, execCoreSelftestDone, if_pos ⟨ht, hq⟩]
  exact ⟨_, rfl, by rw [State.event_cores, vmod_at], lastEvent_event ..⟩

/-- A failed check of the ROM stops the device. -/
theorem holmRomCheck_stops {s : State} (hr : s.holmRuns = true) (hm : s.mayStop = true) :
    ∃ t, exec (.holmRomCheck false) s = .next t ∧ t.mode = .safeStop := by
  have hm' : (s.event .romCheck []).mayStop = true := by rwa [State.mayStop, State.event_mode, State.event_holm]
  refine ⟨(s.event .romCheck []).safeStop [0], ?_, State.safeStop_mode hm' _⟩
  show execHolmRomCheck false s = _
  rw [execHolmRomCheck, hr]
  rfl

/-- Over a word whose check field agrees the scrubber moves on. -/
theorem holmSramScrub_clean {s : State} (hr : s.holmRuns = true) (hz : SMap.get 0 s.holm.sramDelta s.holm.scrubPos = 0) :
    exec .holmSramScrub s = .next { s with holm := { s.holm with scrubPos := (s.holm.scrubPos + 1) % 131072 } } := by
  show execHolmSramScrub s = _
  rw [execHolmSramScrub, hr]
  dsimp only
  rw [hz]
  rfl

/-- An offline test ends with its result. -/
theorem offlineTestDone_ends {s : State} (pass : Bool) (h : s.holm.offline = true) :
    ∃ t, exec (.offlineTestDone pass) s = .next t ∧ t.holm.offline = false ∧ lastEvent t = some (.offlineTest, [if pass then 1 else 0]) := by
  have he : exec (.offlineTestDone pass) s = execOfflineTestDone pass s := rfl
  rw [he, execOfflineTestDone, if_pos h]
  exact ⟨_, rfl, rfl, lastEvent_event ..⟩

/-- The self-tests and the checks. -/
theorem selfTestsRule_holds : selfTestsRule := by
  intro s n pass
  refine ⟨coreSelftestTimer_tests, coreSelftestDone_resumes pass, holmRomCheck_stops, ?_, offlineTestDone_ends pass⟩
  intro hr hz
  exact ⟨_, holmSramScrub_clean hr hz, rfl⟩

/-- Settles O51, from the phases of a tide step and the self-tests. -/
theorem tideAndTests : Obligations.TideAndTests := ⟨tideStepsRule_holds, selfTestsRule_holds⟩

end Sys2Proof.Machine
end

section
/-! PROOF. One pour cycle of one PE on clean memory (spec/02 R34 to R42). -/
namespace Sys2Proof.Machine

/-! ### Planes bit by bit -/

@[simp] theorem getLsbD_bmask {w j : Nat} (hj : j < w) (b : Bool) : (bmask w b).getLsbD j = b := by
  cases b <;> simp [bmask, hj]

/-- A union of planes, in one PE. -/
theorem getLsbD_foldl_or (l : List Nat) (p : Nat → Bool) (m : Nat → PeVec) (acc : PeVec) (j : Nat) :
    (l.foldl (fun acc i => if p i then acc ||| m i else acc) acc).getLsbD j = (acc.getLsbD j || l.any (fun i => p i && (m i).getLsbD j)) := by
  induction l generalizing acc with
  | nil => simp
  | cons i l ih => cases hp : p i <;> simp [ih, hp, Bool.or_assoc]

/-- A truth table over planes is the truth table in every PE. -/
theorem getLsbD_ttVec (tt : BitVec 8) (a b c : PeVec) {j : Nat} (hj : j < 256) :
    (ttVec tt a b c).getLsbD j = ttBit tt (a.getLsbD j) (b.getLsbD j) (c.getLsbD j) := by
  have hr : List.range 8 = [0, 1, 2, 3, 4, 5, 6, 7] := rfl
  rw [ttVec, getLsbD_foldl_or, hr, ttBit]
  cases ha : a.getLsbD j <;> cases hb : b.getLsbD j <;> cases hc : c.getLsbD j <;>
    simp [-BitVec.getLsbD_eq_getElem, hj, ha, hb, hc, Nat.testBit]

/-- What a selected operand is in one PE (spec/03 Table 3.2 ASEL). -/
theorem getLsbD_operandVec (w : Micro) (sel : BitVec 3) (pa pb : PeVec) (i : IslSt) {j : Nat} (hj : j < 256) :
    (operandVec false w sel pa pb i).getLsbD j = match sel.toNat with
      | 0 => pa.getLsbD j | 1 => i.x.getLsbD j | 2 => i.y.getLsbD j | 3 => i.n.getLsbD j | 4 => mwBit w | 5 => i.k.getLsbD j
      | 6 => pb.getLsbD j | _ => false := by
  have h : sel = 0 ∨ sel = 1 ∨ sel = 2 ∨ sel = 3 ∨ sel = 4 ∨ sel = 5 ∨ sel = 6 ∨ sel = 7 := by
    revert sel; decide
  rcases h with rfl | rfl | rfl | rfl | rfl | rfl | rfl | rfl <;> simp [-BitVec.getLsbD_eq_getElem, operandVec, hj]

/-- K after KOP in one PE. -/
theorem getLsbD_kopVec (kop : BitVec 2) (k f : PeVec) {j : Nat} (hj : j < 256) :
    (kopVec false kop k f).getLsbD j = match kop.toNat with
      | 0 => k.getLsbD j | 1 => f.getLsbD j | 2 => k.getLsbD j && f.getLsbD j | _ => true := by
  have h : kop = 0 ∨ kop = 1 ∨ kop = 2 ∨ kop = 3 := by revert kop; decide
  rcases h with rfl | rfl | rfl | rfl <;> simp [-BitVec.getLsbD_eq_getElem, kopVec, hj]

/-- Where the memory write takes place, in one PE. -/
theorem getLsbD_wcondMask (wc : BitVec 2) (k : PeVec) {j : Nat} (hj : j < 256) :
    (wcondMask false wc k).getLsbD j = match wc.toNat with | 0 => false | 1 => k.getLsbD j | 2 => true | _ => !k.getLsbD j := by
  have h : wc = 0 ∨ wc = 1 ∨ wc = 2 ∨ wc = 3 := by revert wc; decide
  rcases h with rfl | rfl | rfl | rfl <;> simp [-BitVec.getLsbD_eq_getElem, -BitVec.reduceAllOnes, wcondMask, hj]

/-! ### Reads and writes of planes -/

@[simp] theorem satAdd_zero {w : Nat} (v : BitVec w) : satAdd v 0 = v := by simp [satAdd, v.isLt]

/-- A plane whose check bits agree reads as it stands. -/
@[simp] theorem decodePlane_zero (v : PeVec) : decodePlane v 0 = { v := v, fixes := 0, bad := [] } := rfl

/-- Nothing found, nothing noted. -/
@[simp] theorem IslSt.note_clean (i : IslSt) (p : A13) (v : PeVec) : i.note p { v := v, fixes := 0, bad := [] } = i := by
  simp [IslSt.note]

/-- What a read finds changes no plane. -/
@[simp] theorem IslSt.note_raw (i : IslSt) (p : A13) (r : PlaneRead) : (i.note p r).raw = i.raw := by
  unfold IslSt.note; dsimp only; split
  · rfl
  · split <;> rfl

@[simp] theorem IslSt.note_rawDelta (i : IslSt) (p : A13) (r : PlaneRead) : (i.note p r).rawDelta = i.rawDelta := by
  unfold IslSt.note; dsimp only; split
  · rfl
  · split <;> rfl

@[simp] theorem IslSt.store_raw (i : IslSt) (p : A13) (v : PeVec) (d : BitVec 96) (q : A13) :
    (i.store p v d).raw q = if q = p then v else i.raw q := by
  show SMap.get 0 (SMap.set 0 i.mem p.toNat (v ^^^ i.rest p)) q.toNat ^^^ i.rest q = _
  rw [SMap.get_set]
  by_cases h : q = p
  · rw [if_pos (congrArg _ h), if_pos h, h, BitVec.xor_assoc, BitVec.xor_self, BitVec.xor_zero]
  · rw [if_neg (fun e => h (BitVec.toNat_inj.mp e)), if_neg h]; rfl

/-- Without an armed injection a write stores the check bits computed. -/
theorem IslSt.inject_unarmed {i : IslSt} (h : i.inj = false) (p : A13) (cls : List Nat) (d : BitVec 96) : i.inject p cls d = (d, i) := by
  simp [IslSt.inject, h]

theorem IslSt.rawDelta_clean {i : IslSt} (h : i.delta = []) (p : A13) : i.rawDelta p = 0 := by rw [IslSt.rawDelta, h]; rfl

theorem IslSt.readPlane_clean {i : IslSt} (h : i.delta = []) (p : A13) : i.readPlane p = ({ v := i.raw p, fixes := 0, bad := [] }, i) := by
  simp only [IslSt.readPlane, IslSt.rawDelta_clean h, decodePlane_zero, IslSt.note_clean]

/-- The write port on clean memory: the addressed plane takes `data` where WCOND lets it, every other plane stays. -/
theorem IslSt.portWrite_raw {i : IslSt} (hd : i.delta = []) (hi : i.inj = false) (odd : Bool) (pw p : A13) (wc : BitVec 2) (data k : PeVec) :
    (i.portWrite pw wc data (wcondMask odd wc k)).raw p =
      if p = pw then (data &&& wcondMask odd wc k) ||| (i.raw pw &&& ~~~(wcondMask odd wc k)) else i.raw p := by
  unfold IslSt.portWrite
  split
  · next h =>
    have hm : wcondMask odd wc k = 0#256 := by rw [h]; rfl
    have hr : (data &&& 0#256) ||| (i.raw pw &&& ~~~0#256) = i.raw pw := by
      rw [BitVec.and_zero, BitVec.zero_or, BitVec.not_zero, BitVec.and_allOnes]
    rw [hm, hr]
    split
    · next e => rw [e]
    · rfl
  · split
    · next h =>
      have hm : wcondMask odd wc k = BitVec.allOnes 256 := by rw [h]; rfl
      rw [hm, BitVec.not_allOnes, BitVec.and_allOnes, BitVec.and_zero, BitVec.or_zero]
      simp only [IslSt.writeWhole, IslSt.inject_unarmed hi, IslSt.store_raw]
    · have hl : (List.range 16).length = 16 := rfl
      simp only [IslSt.writePartial, IslSt.rawDelta_clean hd, hl, if_true, decodePlane_zero, IslSt.note_clean, IslSt.inject_unarmed hi, IslSt.store_raw]

/-! ### The cycle -/

/-- A port that no operand selects need not be read. -/
theorem operandVec_ports (odd : Bool) (w : Micro) (sel : BitVec 3) (pa pb : PeVec) (i : IslSt) {A B : Prop} [Decidable A] [Decidable B]
    (ha : sel = 0 → A) (hb : sel = 6 → B) :
    operandVec odd w sel (if A then pa else 0) (if B then pb else 0) i = operandVec odd w sel pa pb i := by
  by_cases h0 : sel = 0
  · simp only [operandVec, h0, if_true, if_pos (ha h0)]
  · by_cases h6 : sel = 6
    · simp only [operandVec, h6, if_pos (hb h6)]; rfl
    · simp only [operandVec, h0, h6, if_false]

/-- The operand that `sel` selects. -/
def IslSt.operandOf (i : IslSt) (q : PourIn) (sel : BitVec 3) : PeVec :=
  operandVec q.odd q.w sel (decodePlane (i.raw q.pa) (i.rawDelta q.pa)).v (decodePlane (i.raw q.pb) (i.rawDelta q.pb)).v i

/-- The result of truth table `tt`, its dual in the odd twin. -/
def IslSt.tableOf (i : IslSt) (q : PourIn) (tt : BitVec 8) : PeVec :=
  ttVec (if q.odd then dualTt tt else tt) (i.operandOf q (mwAsel q.w)) (i.operandOf q (mwBsel q.w)) i.c

/-- F, and the registers C, N and K after the cycle. -/
def IslSt.fOf (i : IslSt) (q : PourIn) : PeVec := i.tableOf q (mwTt q.w)
def IslSt.cOf (i : IslSt) (q : PourIn) : PeVec := if mwCwe q.w then i.tableOf q (mwCt q.w) else i.c
def IslSt.nOf (i : IslSt) (q : PourIn) : PeVec := if mwNews q.w = 0 then i.n else q.news
def IslSt.kOf (i : IslSt) (q : PourIn) : PeVec := kopVec q.odd (mwKop q.w) i.k (i.fOf q)

/-- The item the write port stores. -/
def IslSt.itemOf (i : IslSt) (q : PourIn) : PeVec :=
  match q.planeIn with
  | some v => v
  | none => if mwWsrc q.w = 0 then i.fOf q else if mwWsrc q.w = 1 then i.cOf q else if mwWsrc q.w = 2 then i.nOf q else i.kOf q

/-- The island behind its write port. -/
def IslSt.written (i : IslSt) (q : PourIn) : IslSt :=
  (i.portReads q).portWrite q.pw (mwWcond q.w) (i.itemOf q) (wcondMask q.odd (mwWcond q.w) i.k)

/-- T: what the capture reads at the addressed plane. -/
def IslSt.tOf (i : IslSt) (q : PourIn) : PeVec :=
  if q.twx then (decodePlane ((i.written q).raw q.pw) ((i.written q).rawDelta q.pw)).v else i.t

/-- The island behind the capture, which counts what it finds where nothing is written. -/
def IslSt.captured (i : IslSt) (q : PourIn) : IslSt :=
  if q.twx = true ∧ mwWcond q.w = 0 then ((i.written q).readPlane q.pw).2 else i.written q

/-- A choice of pairs is a pair of choices. -/
theorem ite_mk {α β : Type} (A : Prop) [Decidable A] (a c : α) (b d : β) :
    (if A then (a, b) else (c, d)) = (if A then a else c, if A then b else d) := by split <;> rfl

/-- A pour cycle in its parts (spec/02 R34 to R37). -/
theorem IslSt.pour_eq (i : IslSt) (q : PourIn) :
    i.pour q = { f := i.fOf q, data := i.itemOf q, mask := wcondMask q.odd (mwWcond q.w) i.k
                 isl := { i.captured q with
                   c := i.cOf q, n := i.nOf q, k := i.kOf q, x := if mwXld q.w then i.fOf q else i.x
                   y := if mwYld q.w then i.fOf q else i.y, t := i.tOf q } } := by
  have hf : ∀ tt, ttVec (if q.odd then dualTt tt else tt) (operandVec q.odd q.w (mwAsel q.w)
      (if mwAsel q.w = 0 ∨ mwBsel q.w = 0 then (decodePlane (i.raw q.pa) (i.rawDelta q.pa)).v else 0)
      (if mwAsel q.w = 6 ∨ mwBsel q.w = 6 then (decodePlane (i.raw q.pb) (i.rawDelta q.pb)).v else 0) i)
      (operandVec q.odd q.w (mwBsel q.w)
      (if mwAsel q.w = 0 ∨ mwBsel q.w = 0 then (decodePlane (i.raw q.pa) (i.rawDelta q.pa)).v else 0)
      (if mwAsel q.w = 6 ∨ mwBsel q.w = 6 then (decodePlane (i.raw q.pb) (i.rawDelta q.pb)).v else 0) i) i.c = i.tableOf q tt := by
    intro tt
    rw [operandVec_ports _ _ _ _ _ _ Or.inl Or.inl, operandVec_ports _ _ _ _ _ _ Or.inr Or.inr]
    rfl
  unfold IslSt.pour IslSt.captured IslSt.tOf IslSt.written IslSt.portReads
  simp only [IslSt.readPlane, ite_mk, apply_ite PlaneRead.v, apply_ite IslSt.raw, apply_ite IslSt.rawDelta, IslSt.note_raw, IslSt.note_rawDelta,
    ite_self, hf]
  by_cases ht : q.twx = true
  · by_cases hw : mwWcond q.w = 0
    · simp only [ht, hw, if_true, and_self]
      rfl
    · simp only [ht, hw, if_true, if_false, and_false]
      rfl
  · simp only [ht]
    rfl

@[simp] theorem IslSt.pour_f (i : IslSt) (q : PourIn) : (i.pour q).f = i.fOf q := by rw [IslSt.pour_eq]
@[simp] theorem IslSt.pour_c (i : IslSt) (q : PourIn) : (i.pour q).isl.c = i.cOf q := by rw [IslSt.pour_eq]
@[simp] theorem IslSt.pour_n (i : IslSt) (q : PourIn) : (i.pour q).isl.n = i.nOf q := by rw [IslSt.pour_eq]
@[simp] theorem IslSt.pour_k (i : IslSt) (q : PourIn) : (i.pour q).isl.k = i.kOf q := by rw [IslSt.pour_eq]
@[simp] theorem IslSt.pour_x (i : IslSt) (q : PourIn) : (i.pour q).isl.x = if mwXld q.w then i.fOf q else i.x := by rw [IslSt.pour_eq]
@[simp] theorem IslSt.pour_y (i : IslSt) (q : PourIn) : (i.pour q).isl.y = if mwYld q.w then i.fOf q else i.y := by rw [IslSt.pour_eq]
@[simp] theorem IslSt.pour_t (i : IslSt) (q : PourIn) : (i.pour q).isl.t = i.tOf q := by rw [IslSt.pour_eq]

/-- The planes after the cycle are those behind the write port. -/
@[simp] theorem IslSt.pour_raw (i : IslSt) (q : PourIn) : (i.pour q).isl.raw = (i.written q).raw := by
  have h : (i.captured q).raw = (i.written q).raw := by
    unfold IslSt.captured
    split
    · exact IslSt.note_raw ..
    · rfl
  rw [IslSt.pour_eq]
  exact h

/-! ### One PE on clean memory -/

section
variable {i : IslSt} {q : PourIn}

theorem IslSt.getLsbD_operandOf (hd : i.delta = []) (ho : q.odd = false) (sel : BitVec 3) {j : Nat} (hj : j < 256) :
    (i.operandOf q sel).getLsbD j = match sel.toNat with
      | 0 => (i.raw q.pa).getLsbD j | 1 => i.x.getLsbD j | 2 => i.y.getLsbD j | 3 => i.n.getLsbD j | 4 => mwBit q.w | 5 => i.k.getLsbD j
      | 6 => (i.raw q.pb).getLsbD j | _ => false := by
  rw [IslSt.operandOf, ho, IslSt.rawDelta_clean hd, IslSt.rawDelta_clean hd, getLsbD_operandVec _ _ _ _ _ hj] <;> rfl

theorem IslSt.getLsbD_tableOf (ho : q.odd = false) (tt : BitVec 8) {j : Nat} (hj : j < 256) :
    (i.tableOf q tt).getLsbD j = ttBit tt ((i.operandOf q (mwAsel q.w)).getLsbD j) ((i.operandOf q (mwBsel q.w)).getLsbD j) (i.c.getLsbD j) := by
  rw [IslSt.tableOf, ho, getLsbD_ttVec _ _ _ _ hj]
  rfl

/-- Nothing that clean memory delivers is counted. -/
theorem IslSt.portReads_clean (hd : i.delta = []) (q : PourIn) : i.portReads q = i := by
  simp only [IslSt.portReads, IslSt.readPlane_clean hd, ite_self]

/-- The addressed plane takes the item where WCOND lets it, every other plane stays. -/
theorem IslSt.written_raw (hd : i.delta = []) (hi : i.inj = false) (q : PourIn) (p : A13) :
    (i.written q).raw p = if p = q.pw then (i.itemOf q &&& wcondMask q.odd (mwWcond q.w) i.k) |||
      (i.raw q.pw &&& ~~~(wcondMask q.odd (mwWcond q.w) i.k)) else i.raw p := by
  rw [IslSt.written, IslSt.portReads_clean hd, IslSt.portWrite_raw hd hi]

end

/-- The bit that the write port stores, by WSRC. -/
theorem getLsbD_item (src : BitVec 2) (f c n k : PeVec) (j : Nat) :
    (if src = 0 then f else if src = 1 then c else if src = 2 then n else k).getLsbD j = match src.toNat with
      | 0 => f.getLsbD j | 1 => c.getLsbD j | 2 => n.getLsbD j | _ => k.getLsbD j := by
  have h : src = 0 ∨ src = 1 ∨ src = 2 ∨ src = 3 := by revert src; decide
  rcases h with rfl | rfl | rfl | rfl <;> rfl

/-- A masked merge in one PE. -/
theorem getLsbD_merge (d m o : PeVec) {j : Nat} (hj : j < 256) :
    ((d &&& m) ||| (o &&& ~~~m)).getLsbD j = if m.getLsbD j then d.getLsbD j else o.getLsbD j := by
  rw [BitVec.getLsbD_or, BitVec.getLsbD_and, BitVec.getLsbD_and, BitVec.getLsbD_not, decide_eq_true hj]
  cases m.getLsbD j <;> simp

/-- The item in one PE, without a plane-in. -/
theorem IslSt.getLsbD_itemOf {q : PourIn} (hp : q.planeIn = none) (i : IslSt) (j : Nat) :
    (i.itemOf q).getLsbD j = match (mwWsrc q.w).toNat with
      | 0 => (i.fOf q).getLsbD j | 1 => (i.cOf q).getLsbD j | 2 => (i.nOf q).getLsbD j | _ => (i.kOf q).getLsbD j := by
  rw [IslSt.itemOf, hp]
  exact getLsbD_item ..

/-- The addressed plane in one PE. -/
theorem IslSt.getLsbD_pour_raw {i : IslSt} {q : PourIn} (hd : i.delta = []) (hi : i.inj = false) (ho : q.odd = false) {j : Nat} (hj : j < 256) :
    ((i.pour q).isl.raw q.pw).getLsbD j =
      if (match (mwWcond q.w).toNat with | 0 => false | 1 => i.k.getLsbD j | 2 => true | _ => !i.k.getLsbD j) then (i.itemOf q).getLsbD j
      else (i.raw q.pw).getLsbD j := by
  rw [IslSt.pour_raw, IslSt.written_raw hd hi, if_pos rfl, getLsbD_merge _ _ _ hj, ho, getLsbD_wcondMask _ _ hj] <;> rfl

/-- One PE of a pour cycle on clean memory (spec/02 R34 to R40). -/
theorem elementCycleRule_holds : elementCycleRule := by
  intro i q j hj ho hp ht hd hi w v sel f c' n' k' item writes
  have hA : (i.operandOf q (mwAsel w)).getLsbD j = sel (mwAsel w) (i.raw q.pb) := IslSt.getLsbD_operandOf hd ho _ hj
  have hB : (i.operandOf q (mwBsel w)).getLsbD j = sel (mwBsel w) (i.raw q.pb) := IslSt.getLsbD_operandOf hd ho _ hj
  have hF : (i.fOf q).getLsbD j = f := by rw [IslSt.fOf, IslSt.getLsbD_tableOf ho _ hj, hA, hB]
  have hC : (i.cOf q).getLsbD j = c' := by
    rw [IslSt.cOf, apply_ite (fun v : PeVec => v.getLsbD j), IslSt.getLsbD_tableOf ho _ hj, hA, hB]
  have hN : (i.nOf q).getLsbD j = n' := apply_ite (fun v : PeVec => v.getLsbD j) ..
  have hK : (i.kOf q).getLsbD j = k' := by
    rw [IslSt.kOf, ho, getLsbD_kopVec _ _ _ hj, hF] <;> rfl
  have hT : i.tOf q = i.t := by rw [IslSt.tOf, ht]; rfl
  refine ⟨?_, ?_, ?_, ?_, ?_, ?_, ?_, ?_, fun p hpw => ?_⟩
  · rw [IslSt.pour_f, hF]
  · rw [IslSt.pour_c, hC]
  · rw [IslSt.pour_n, hN]
  · rw [IslSt.pour_k, hK]
  · rw [IslSt.pour_t, hT]
  · rw [IslSt.pour_x, apply_ite (fun v : PeVec => v.getLsbD j), hF]
  · rw [IslSt.pour_y, apply_ite (fun v : PeVec => v.getLsbD j), hF]
  · rw [IslSt.getLsbD_pour_raw hd hi ho hj, IslSt.getLsbD_itemOf hp, hF, hC, hN, hK] <;> rfl
  · rw [IslSt.pour_raw, IslSt.written_raw hd hi, if_neg hpw]

/-- Settles O59, from what a pour cycle leaves of K and of the addressed plane in one PE. -/
theorem kopAndWcond : Obligations.KopAndWcond := by
  intro i q j hj ho hp hd hi f t k item
  have hK : t.k.getLsbD j = match (mwKop q.w).toNat with | 0 => k | 1 => f | 2 => k && f | _ => true := by
    rw [IslSt.pour_k, IslSt.kOf, ho, getLsbD_kopVec _ _ _ hj, ← IslSt.pour_f] <;> rfl
  have hI : (i.itemOf q).getLsbD j = item := by
    rw [IslSt.getLsbD_itemOf hp, ← IslSt.pour_f, ← IslSt.pour_c, ← IslSt.pour_n, ← IslSt.pour_k] <;> rfl
  have hR : (t.raw q.pw).getLsbD j =
      if (match (mwWcond q.w).toNat with | 0 => false | 1 => k | 2 => true | _ => !k) then item else (i.raw q.pw).getLsbD j := by
    rw [IslSt.getLsbD_pour_raw hd hi ho hj, hI] <;> rfl
  refine ⟨fun h => ?_, fun h => ?_, fun h => ?_, fun h => ?_, fun h => ?_, fun h => ?_, fun h => ?_, fun h => ?_⟩
  · rw [hK, h]; rfl
  · rw [hK, h]; rfl
  · rw [hK, h]; rfl
  · rw [hK, h]; rfl
  · rw [hR, h]; rfl
  · rw [hR, h]; rfl
  · rw [hR, h]; rfl
  · rw [hR, h]
    show (if (!k) = true then item else _) = if k = true then _ else item
    cases k <;> rfl

end Sys2Proof.Machine
end

section
/-! PROOF. The integer results of the array operations (spec/05 R142, Table 5.8). -/
namespace Sys2Proof.Machine

/-! ### Numbers of n bits -/

theorem wrapTo_lt (n : Nat) (x : Int) : wrapTo n x < 2 ^ n := by
  have hp : (0 : Int) < ((2 ^ n : Nat) : Int) := by exact_mod_cast Nat.two_pow_pos n
  have h0 := Int.emod_nonneg x hp.ne'
  have h1 := Int.emod_lt_of_pos x hp
  unfold wrapTo
  omega

theorem wrapTo_cast (n : Nat) (x : Int) : ((wrapTo n x : Nat) : Int) = x % ((2 ^ n : Nat) : Int) :=
  Int.toNat_of_nonneg (Int.emod_nonneg x (by exact_mod_cast (Nat.two_pow_pos n).ne'))

/-- Wrapping before an addition that wraps changes nothing. -/
theorem wrapTo_add_mod (n : Nat) (x : Int) (k : Nat) : (wrapTo n x + k) % 2 ^ n = wrapTo n (x + k) := by
  apply Int.ofNat.inj
  show (((wrapTo n x + k) % 2 ^ n : Nat) : Int) = (wrapTo n (x + k) : Nat)
  rw [Int.natCast_mod, Int.natCast_add, wrapTo_cast, wrapTo_cast, Int.emod_add_emod]

theorem wrapTo_of_lt {n k : Nat} (h : k < 2 ^ n) : wrapTo n k = k := by
  rw [wrapTo, ← Int.natCast_mod, Int.toNat_natCast, Nat.mod_eq_of_lt h]

theorem two_pow_half {n : Nat} (hn : 1 ≤ n) : 2 ^ n = 2 * 2 ^ (n - 1) := by
  obtain ⟨m, rfl⟩ := Nat.exists_eq_add_of_le' hn
  rw [Nat.add_sub_cancel, pow_succ, Nat.mul_comm]

/-- The range of an n-bit two's complement number. -/
theorem sval_bounds {n v : Nat} (hn : 1 ≤ n) (hv : v < 2 ^ n) :
    -((2 ^ (n - 1) : Nat) : Int) ≤ sval n v ∧ sval n v < ((2 ^ (n - 1) : Nat) : Int) := by
  have h := two_pow_half hn
  unfold sval
  split <;> omega

/-- A number in that range comes back from n bits. -/
theorem sval_wrapTo {n : Nat} {x : Int} (hn : 1 ≤ n) (hl : -((2 ^ (n - 1) : Nat) : Int) ≤ x) (hu : x < ((2 ^ (n - 1) : Nat) : Int)) :
    sval n (wrapTo n x) = x := by
  have h := two_pow_half hn
  have hc := wrapTo_cast n x
  by_cases hx : 0 ≤ x
  · rw [Int.emod_eq_of_lt hx (by omega)] at hc
    unfold sval
    split <;> omega
  · have he : x % ((2 ^ n : Nat) : Int) = x + ((2 ^ n : Nat) : Int) := by
      rw [← Int.add_emod_right, Int.emod_eq_of_lt (by omega) (by omega)]
    rw [he] at hc
    unfold sval
    split <;> omega

/-- A number of n bits is its two's complement value, wrapped. -/
theorem wrapTo_sval {n v : Nat} (hv : v < 2 ^ n) : wrapTo n (sval n v) = v := by
  unfold wrapTo sval
  split
  · rw [Int.emod_eq_of_lt (by omega) (by omega)]; omega
  · rw [Int.sub_emod_right, Int.emod_eq_of_lt (by omega) (by omega)]; omega

theorem sval_eq_zero {n v : Nat} (hv : v < 2 ^ n) : sval n v = 0 ↔ v = 0 := by
  unfold sval
  split <;> omega

/-! ### Results at the edges -/

theorem sval_clampTo_18 (x : Int) : sval 18 (clampTo 18 x) = max (-131072) (min x 131071) := by
  unfold clampTo
  rw [sval_wrapTo (by decide) (by omega) (by omega)]
  norm_num

/-- The truncated quotient of two n-bit numbers fits n bits but for the one overflow. -/
theorem tdiv_fits {H X Y : Int} (hl : -H ≤ X) (hu : X < H) (h0 : Y ≠ 0) (ho : ¬ (X = -H ∧ Y = -1)) :
    -H ≤ X.tdiv Y ∧ X.tdiv Y < H := by
  have ha : (X.tdiv Y).natAbs = X.natAbs / Y.natAbs := Int.natAbs_tdiv X Y
  rcases (by omega : Y = 1 ∨ Y = -1 ∨ 2 ≤ Y.natAbs) with rfl | rfl | h2
  · rw [Int.tdiv_one]; exact ⟨hl, hu⟩
  · rw [Int.tdiv_neg, Int.tdiv_one]; omega
  · have hb : X.natAbs / Y.natAbs ≤ X.natAbs / 2 := Nat.div_le_div_left h2 (by decide)
    omega

/-- A truncated remainder has the sign of the dividend. -/
theorem tmod_nonpos {X : Int} (Y : Int) (h : X ≤ 0) : X.tmod Y ≤ 0 := by
  have := Int.tmod_nonneg Y (a := -X) (by omega)
  rw [Int.neg_tmod] at this
  omega

/-- Signed division by other than zero, without the one overflow: truncated toward zero, the remainder with the dividend's sign. -/
theorem arrDivS_spec {n x y : Nat} (hn : 1 ≤ n) (hx : x < 2 ^ n) (hy : y < 2 ^ n) (h0 : y ≠ 0) (ho : ¬ (x = 2 ^ (n - 1) ∧ y = 2 ^ n - 1)) :
    let q := sval n (arrDivS n x y).1
    let m := sval n (arrDivS n x y).2
    sval n x = q * sval n y + m ∧ m.natAbs < (sval n y).natAbs ∧ (0 ≤ sval n x → 0 ≤ m) ∧ (sval n x ≤ 0 → m ≤ 0) := by
  have hX := sval_bounds hn hx
  have hY := sval_bounds hn hy
  have hY0 : sval n y ≠ 0 := fun h => h0 ((sval_eq_zero hy).mp h)
  have hov : ¬ (sval n x = -((2 ^ (n - 1) : Nat) : Int) ∧ sval n y = -1) := by
    have h := two_pow_half hn
    rintro ⟨h1, h2⟩
    refine ho ⟨?_, ?_⟩
    · unfold sval at h1; split at h1 <;> omega
    · unfold sval at h2; split at h2 <;> omega
  have hm : ((sval n x).tmod (sval n y)).natAbs < (sval n y).natAbs := by
    rw [Int.natAbs_tmod]; exact Nat.mod_lt _ (Int.natAbs_pos.mpr hY0)
  have hq := tdiv_fits hX.1 hX.2 hY0 hov
  have e1 : sval n (arrDivS n x y).1 = (sval n x).tdiv (sval n y) := by
    rw [arrDivS, if_neg h0]; exact sval_wrapTo hn hq.1 hq.2
  have e2 : sval n (arrDivS n x y).2 = (sval n x).tmod (sval n y) := by
    rw [arrDivS, if_neg h0]; exact sval_wrapTo hn (by omega) (by omega)
  intro q m
  rw [show q = _ from e1, show m = _ from e2]
  exact ⟨by rw [Int.mul_comm]; exact (Int.mul_tdiv_add_tmod _ _).symm, hm, Int.tmod_nonneg _, tmod_nonpos _⟩

/-- The one overflow: -2^(n-1) by -1 wraps to itself, remainder 0. -/
theorem arrDivS_overflow {n : Nat} (hn : 1 ≤ n) : arrDivS n (2 ^ (n - 1)) (2 ^ n - 1) = (2 ^ (n - 1), 0) := by
  have h := two_pow_half hn
  have hp := Nat.two_pow_pos (n - 1)
  have hx : sval n (2 ^ (n - 1)) = -((2 ^ (n - 1) : Nat) : Int) := by unfold sval; split <;> omega
  have hy : sval n (2 ^ n - 1) = -1 := by unfold sval; split <;> omega
  have hw : wrapTo n ((2 ^ (n - 1) : Nat) : Int) = 2 ^ (n - 1) := wrapTo_of_lt (by omega)
  rw [arrDivS, if_neg (by omega), hx, hy, Int.tdiv_neg, Int.tdiv_one, Int.neg_neg, hw, Int.tmod_neg, Int.tmod_one]
  simp [wrapTo]

/-- A right shift by n or more leaves the sign. -/
theorem arrSar_far {n k x : Nat} (hn : 1 ≤ n) (hk : n ≤ k) (hx : x < 2 ^ n) : arrSar n k x = if sval n x < 0 then 2 ^ n - 1 else 0 := by
  have hb := sval_bounds hn hx
  have h := two_pow_half hn
  rw [arrSar, Nat.min_eq_right hk]
  split
  · next hs =>
    have hd : sval n x / ((2 ^ n : Nat) : Int) = -1 := by
      rw [Int.ediv_eq_iff_of_pos (by omega)]; omega
    have hc := wrapTo_cast n (-1)
    rw [hd]
    rw [← Int.add_emod_right, Int.emod_eq_of_lt (by omega) (by omega)] at hc
    omega
  · next hs =>
    rw [Int.ediv_eq_zero_of_lt (by omega) (by omega)]
    simp [wrapTo]

/-! ### What a PE holds -/

/-- A sum of distinct powers stays below the next. -/
theorem foldl_pow_lt (f : Nat → Bool) (n : Nat) : (List.range n).foldl (fun acc k => if f k then acc + 2 ^ k else acc) 0 < 2 ^ n := by
  induction n with
  | zero => simp
  | succ n ih =>
    rw [List.range_succ, List.foldl_append, List.foldl_cons, List.foldl_nil, pow_succ]
    split <;> omega

theorem State.peVal_lt (s : State) (pos : Nat × Nat) (pl : A13) (n : Nat) : s.peVal pos pl n < 2 ^ n := foldl_pow_lt _ n

/-- The integer results at every width and at their edges. -/
theorem macroIntegersRule_holds : macroIntegersRule := by
  intro s lead a r pos n x y v hn
  have hx : x < 2 ^ n := s.peVal_lt pos (r.arg 0) n
  have hy : y < 2 ^ n := s.peVal_lt pos (r.arg 1) n
  refine ⟨hx, hy, rfl, wrapTo_lt _ _, ?_, wrapTo_lt _ _, ?_, rfl, fun h18 => ⟨?_, ?_⟩, fun h0 sg => ?_, fun h0 => ?_, fun ex ey => ?_,
    fun h0 ho => ?_, fun hk => ⟨if_pos hk, if_pos hk, arrSar_far hn hk hx⟩⟩
  · exact (wrapTo_add_mod n _ y).trans (by rw [Int.sub_add_cancel, wrapTo_of_lt hx])
  · exact (wrapTo_add_mod n _ x).trans (by rw [Int.add_left_neg]; exact wrapTo_of_lt (k := 0) (by omega))
  · exact sval_clampTo_18 _
  · exact sval_clampTo_18 _
  · cases sg <;> exact ⟨congrArg Prod.fst (if_pos h0), congrArg Prod.snd (if_pos h0)⟩
  · have e : arrDivU n x y = (x / y, x % y) := if_neg h0
    show x = (arrDivU n x y).1 * y + (arrDivU n x y).2 ∧ (arrDivU n x y).2 < y
    rw [e]
    exact ⟨(Nat.div_add_mod' x y).symm, Nat.mod_lt _ (Nat.pos_of_ne_zero h0)⟩
  · have e : arrDivS n x y = (x, 0) := by rw [ex, ey]; exact arrDivS_overflow hn
    exact ⟨congrArg Prod.fst e, congrArg Prod.snd e⟩
  · exact arrDivS_spec hn hx hy h0 ho

/-- Settles O36, from one PE of a pour cycle and the integer results. -/
theorem elementCycle : Obligations.ElementCycle := ⟨elementCycleRule_holds, macroIntegersRule_holds⟩

end Sys2Proof.Machine
end

section
/-! PROOF. An interrupt for every core misses a core whose domain is closed (spec/13 R314, R317; spec/06 Table 6.2). -/
namespace Sys2Proof.Machine

/-- An IRQ packet opens and closes no domain. -/
@[simp] theorem State.irqTo_domainOpen (s : State) (n : CoreId) (i d : Nat) : (s.irqTo n i).domainOpen d = s.domainOpen d := by
  unfold State.irqTo; dsimp only; split <;> rfl

theorem State.domainOpen_fenced {s : State} {d : Nat} (h : s.pwr.fence.getLsbD d = true) : s.domainOpen d = false := by
  rw [State.domainOpen, h, Bool.not_true, Bool.and_false, Bool.false_and]

/-- The fence of a closed core drops every IRQ packet. -/
theorem State.irqTo_closed {s : State} {k : CoreId} (h : s.domainOpen (304 + k.val) = false) (n : CoreId) (i : Nat) :
    (s.irqTo n i).cores[k] = s.cores[k] := by
  unfold State.irqTo
  dsimp only
  split
  · next ho =>
    have hne : k ≠ n := by
      rintro rfl
      exact absurd (ho.symm.trans h) (by decide)
    exact vmod_else _ _ _ _ hne
  · rfl

/-- An interrupt raised at every core leaves a closed core as it is. -/
theorem State.raiseAll_closed {s : State} {k : CoreId} (h : s.domainOpen (304 + k.val) = false) (i : Nat) :
    (s.raiseAll i).cores[k] = s.cores[k] := by
  have go : ∀ (l : List CoreId) (t : State), t.domainOpen (304 + k.val) = false → (l.foldl (fun t n => t.irqTo n i) t).cores[k] = t.cores[k] := by
    intro l
    induction l with
    | nil => exact fun _ _ => rfl
    | cons n l ih =>
      intro t ht
      rw [List.foldl_cons, ih _ (by rw [State.irqTo_domainOpen, ht]), State.irqTo_closed ht]
  exact go _ s h

/-- A posted packet changes no core and no domain. -/
@[simp] theorem State.sendPosted_cores (s : State) (h : BitVec 128) : (s.sendPosted h).2.cores = s.cores := by
  unfold State.sendPosted; dsimp only; split <;> rfl
@[simp] theorem State.sendPosted_domainOpen (s : State) (h : BitVec 128) (d : Nat) : (s.sendPosted h).2.domainOpen d = s.domainOpen d := by
  unfold State.sendPosted; dsimp only; split <;> rfl

/-- A detected mismatch does not reach a core whose domain is closed. -/
theorem twinCompareMismatch_closed {s t : State} {k : CoreId} {pair : Fin 4} (h : s.domainOpen (304 + k.val) = false)
    (ht : exec (.twinCompareMismatch pair) s = .next t) : t.cores[k] = s.cores[k] := by
  have he : exec (.twinCompareMismatch pair) s = execTwinCompareMismatch pair s := rfl
  rw [he, execTwinCompareMismatch] at ht
  split at ht
  · cases ht; rfl
  · extract_lets joined first t1 t2 v2 t3 at ht
    have hc : t3.cores = s.cores := State.sendPosted_cores t1 _
    split at ht
    · rw [← Host.Outcome.next.inj ht, hc]
    · rw [← Host.Outcome.next.inj ht]
      have hd : t3.domainOpen (304 + k.val) = false := (State.sendPosted_domainOpen t1 _ _).trans h
      show ((t3.raiseAll 1).notify _).cores[k] = _
      rw [State.notify_cores, State.raiseAll_closed hd, hc]

/-- The device after reset with core 1 fenced, a mismatch of pair 0 found. -/
def fencedCore1 : State :=
  { State.reset with
    pwr := { State.reset.pwr with fence := domBit 305 }
    arch := vmod State.reset.arch 0 (fun x => { x with twin := { x.twin with found := [{ cause := .data, row := 0, col := 0, pc := 0 }] } }) }

/-- Refutes O34: the IRQ packet to a core whose domain is fenced is dropped there, so a detected mismatch does not interrupt every core. -/
theorem not_twinAndIsland : ¬ Obligations.TwinAndIsland := by
  intro h
  obtain ⟨t, ht, hirq, -⟩ := (h fencedCore1).1 0 0 1 { cause := .data, row := 0, col := 0, pc := 0 } [] rfl rfl rfl rfl
  have hc : fencedCore1.domainOpen (304 + (1 : CoreId).val) = false := State.domainOpen_fenced (getLsbD_domBit (by decide))
  have hk := hirq 1
  rw [twinCompareMismatch_closed hc ht] at hk
  exact absurd hk (by decide)

end Sys2Proof.Machine
end

section
/-! PROOF. Changes of several archipelagos, and streams (spec/04 R116). -/
namespace Sys2Proof.Machine

/-! ### Changes of the elements that a list of keys names -/

theorem vmod_apply {α : Type} {n : Nat} (v : Vector α n) (i j : Fin n) (f : α → α) : (vmod v i f)[j] = if j = i then f v[j] else v[j] := by
  by_cases h : j = i
  · subst h; rw [if_pos rfl, vmod_at]
  · rw [if_neg h, vmod_else _ _ _ _ h]

section
variable {α β : Type} {n : Nat} (key : β → Fin n) (f : β → α → α)

/-- The change of each listed element by its own entry. -/
def vmods (l : List β) (v : Vector α n) : Vector α n := l.foldl (fun v x => vmod v (key x) (f x)) v

theorem vmods_else {l : List β} {j : Fin n} (h : ∀ x ∈ l, key x ≠ j) (v : Vector α n) : (vmods key f l v)[j] = v[j] := by
  induction l generalizing v with
  | nil => rfl
  | cons x l ih =>
    show (vmods key f l (vmod v (key x) (f x)))[j] = v[j]
    rw [ih (fun y hy => h y (List.mem_cons_of_mem _ hy)), vmod_else _ _ _ _ (h x List.mem_cons_self).symm]

theorem vmods_at {l : List β} (hn : (l.map key).Nodup) {x : β} (hx : x ∈ l) (v : Vector α n) : (vmods key f l v)[key x] = f x v[key x] := by
  induction l generalizing v with
  | nil => exact absurd hx List.not_mem_nil
  | cons y l ih =>
    rw [List.map_cons, List.nodup_cons] at hn
    show (vmods key f l (vmod v (key y) (f y)))[key x] = f x v[key x]
    rcases List.mem_cons.mp hx with rfl | hx
    · have h : ∀ z ∈ l, key z ≠ key x := fun z hz e => hn.1 (e ▸ List.mem_map_of_mem hz)
      rw [vmods_else key f h, vmod_at]
    · have h : key x ≠ key y := fun e => hn.1 (e ▸ List.mem_map_of_mem hx)
      rw [ih hn.2 hx, vmod_else _ _ _ _ h]

/-- What no entry changes stays in every element. -/
theorem vmods_keep {γ : Type} {g : α → γ} (h : ∀ x a, g (f x a) = g a) (l : List β) (v : Vector α n) (j : Fin n) :
    g (vmods key f l v)[j] = g v[j] := by
  induction l generalizing v with
  | nil => rfl
  | cons x l ih =>
    show g (vmods key f l (vmod v (key x) (f x)))[j] = g v[j]
    rw [ih, vmod_apply]
    split
    · exact h x _
    · rfl

end

/-- A fold of changes of archipelagos changes nothing else. -/
theorem foldl_modArch {β : Type} (key : β → Arch) (f : β → ArchSt → ArchSt) (l : List β) (s : State) :
    l.foldl (fun t x => t.modArch (key x) (f x)) s = { s with arch := vmods key f l s.arch } := by
  induction l generalizing s with
  | nil => rfl
  | cons x l ih => rw [List.foldl_cons, ih]; rfl

/-! ### The sequencers of a stream -/

section
variable {β : Type} (key : β → Arch) (f : β → Seq → Seq)

/-- A fold of changes of sequencers. -/
theorem foldl_modSeq (l : List β) (s : State) :
    l.foldl (fun t x => t.modSeq (key x) (f x)) s = { s with arch := vmods key (fun x y => { y with seq := f x y.seq }) l s.arch } :=
  foldl_modArch key (fun x y => { y with seq := f x y.seq }) l s

theorem foldl_modSeq_seq {l : List β} (hn : (l.map key).Nodup) {x : β} (hx : x ∈ l) (s : State) :
    ((l.foldl (fun t x => t.modSeq (key x) (f x)) s).arch[key x]).seq = f x (s.arch[key x]).seq := by
  rw [foldl_modSeq]
  exact congrArg ArchSt.seq (vmods_at key _ hn hx s.arch)

theorem foldl_modSeq_keep {γ : Type} {g : ArchSt → γ} (h : ∀ y q, g { y with seq := q } = g y) (l : List β) (s : State) (b : Arch) :
    g ((l.foldl (fun t x => t.modSeq (key x) (f x)) s).arch[b]) = g s.arch[b] := by
  rw [foldl_modSeq]
  exact vmods_keep key _ (fun x a => h a (f x a.seq)) l s.arch b

end

theorem State.modSeq_seq (s : State) (a b : Arch) (f : Seq → Seq) :
    ((s.modSeq a f).arch[b]).seq = if b = a then f (s.arch[b]).seq else (s.arch[b]).seq := by
  show ((vmod s.arch a _)[b]).seq = _
  rw [vmod_apply]
  split <;> rfl

theorem State.modSeq_keep (s : State) (a b : Arch) (f : Seq → Seq) {γ : Type} {g : ArchSt → γ} (h : ∀ y q, g { y with seq := q } = g y) :
    g ((s.modSeq a f).arch[b]) = g s.arch[b] := by
  show g ((vmod s.arch a _)[b]) = _
  rw [vmod_apply]
  split
  · exact h _ _
  · rfl

theorem State.modSeqs_eq (s : State) (ms : List Arch) (f : Seq → Seq) :
    s.modSeqs ms f = { s with arch := vmods id (fun _ y => { y with seq := f y.seq }) ms s.arch } := foldl_modSeq id (fun _ => f) ms s

theorem State.modSeqs_seq (s : State) {ms : List Arch} (hn : ms.Nodup) {m : Arch} (hm : m ∈ ms) (f : Seq → Seq) :
    ((s.modSeqs ms f).arch[m]).seq = f (s.arch[m]).seq :=
  foldl_modSeq_seq id (fun _ => f) (by rwa [List.map_id]) hm s

theorem State.modSeqs_keep (s : State) (ms : List Arch) (f : Seq → Seq) {γ : Type} {g : ArchSt → γ} (h : ∀ y q, g { y with seq := q } = g y)
    (b : Arch) : g ((s.modSeqs ms f).arch[b]) = g s.arch[b] := foldl_modSeq_keep id (fun _ => f) h ms s b

/-- What every change of a sequencer keeps is kept in all. -/
theorem State.modSeqs_seq_keep (s : State) (ms : List Arch) (f : Seq → Seq) {γ : Type} {g : Seq → γ} (h : ∀ q, g (f q) = g q) (b : Arch) :
    g ((s.modSeqs ms f).arch[b]).seq = g (s.arch[b]).seq := by
  rw [State.modSeqs_eq]
  exact vmods_keep id (fun _ y => { y with seq := f y.seq }) (g := fun y : ArchSt => g y.seq) (fun _ a => h a.seq) ms s.arch b

@[simp] theorem State.modSeqs_isl (s : State) (ms : List Arch) (f : Seq → Seq) : (s.modSeqs ms f).isl = s.isl := by rw [State.modSeqs_eq]
@[simp] theorem State.modSeqs_pour (s : State) (ms : List Arch) (f : Seq → Seq) : (s.modSeqs ms f).pour = s.pour := by rw [State.modSeqs_eq]
@[simp] theorem State.modSeqs_sprue (s : State) (ms : List Arch) (f : Seq → Seq) : (s.modSeqs ms f).sprue = s.sprue := by rw [State.modSeqs_eq]

/-! ### Streams -/

theorem State.streamOf_nodup (s : State) (a : Arch) : (s.streamOf a).Nodup := by
  unfold State.streamOf State.present
  dsimp only
  split
  · exact ((List.nodup_finRange 8).filter _).filter _
  · exact List.nodup_nil

/-- The lead of a stream is its head. -/
theorem State.streamOf_eq_lead {s : State} {a : Arch} (h : a ∈ s.streamOf a) : ∃ l, s.streamOf a = s.leadOf a :: l := by
  unfold State.leadOf
  cases hs : s.streamOf a with
  | nil => rw [hs] at h; exact absurd h List.not_mem_nil
  | cons b l => exact ⟨l, rfl⟩

end Sys2Proof.Machine
end

section
/-! PROOF. The releases of a parked or stalled stream that issue no microword (spec/03 R71, R72; spec/04 Table 4.2; spec/05 Table 5.3). -/
namespace Sys2Proof.Machine

/-! ### A reduction result becomes usable -/

/-- The context in which result `k` has become usable. -/
def SeqCtx.usable (k : RedResult) (c : SeqCtx) : SeqCtx :=
  { c with red := { c.red with
      pendOrA := c.red.pendOrA && decide (k ≠ .orArch), pendCntA := c.red.pendCntA && decide (k ≠ .cntArch)
      pendOrD := c.red.pendOrD && decide (k ≠ .orDev), pendCntD := c.red.pendCntD && decide (k ≠ .cntDev) } }

/-- The slot's routine waits for result `k`. -/
def waitsFor (k : RedResult) (x : Option TrapSlot) : Bool := x.any (fun y => y.ctx.red.pending k)

/-- The oldest context that waits for a result takes it, the running one where no slot waits. -/
theorem Seq.landRed_eq (q : Seq) (k : RedResult) : q.landRed k =
    if waitsFor k q.slot0 then { q with slot0 := q.slot0.map (fun z => { z with ctx := z.ctx.usable k }) }
    else if q.slot0.isSome && waitsFor k q.slot1 then { q with slot1 := q.slot1.map (fun z => { z with ctx := z.ctx.usable k }) }
    else { q with ctx := q.ctx.usable k } := by
  unfold Seq.landRed SeqCtx.usable waitsFor
  cases h0 : q.slot0 with
  | none => cases k <;> simp
  | some t =>
    cases ht : t.ctx.red.pending k with
    | true => cases k <;> simp [ht]
    | false =>
      cases h1 : q.slot1 with
      | none => cases k <;> simp [ht]
      | some u => cases hu : u.ctx.red.pending k <;> cases k <;> simp [ht, hu]

/-- REDUCTION_RESULT in every member of the stream (spec/02 R52; spec/04 Table 4.2). -/
theorem reductionResult_lands (a : Arch) (s : State) (k : RedResult)
    (hl : k = .orDev ∨ k = .cntDev → (s.arch[s.leadOf a]).seq.part.lat = true → s.lattice.kinds = []) :
    ∃ t, exec (.reductionResult a k) s = .next t ∧ ∀ m ∈ s.streamOf a,
      let x := (s.arch[m]).seq
      let y := (t.arch[m]).seq
      y.mode = (if x.mode = .stalled then .running else x.mode) ∧ y.pc = x.pc ∧
      (waitsFor k x.slot0 = true → y.slot0 = x.slot0.map (fun z => { z with ctx := z.ctx.usable k }) ∧ y.slot1 = x.slot1 ∧ y.ctx = x.ctx) ∧
      (waitsFor k x.slot0 = false → x.slot0.isSome = true → waitsFor k x.slot1 = true →
        y.slot1 = x.slot1.map (fun z => { z with ctx := z.ctx.usable k }) ∧ y.slot0 = x.slot0 ∧ y.ctx = x.ctx) ∧
      (waitsFor k x.slot0 = false → waitsFor k x.slot1 = false → y.ctx = x.ctx.usable k ∧ y.slot0 = x.slot0 ∧ y.slot1 = x.slot1) := by
  have hc : ¬ ((decide (k = .orDev) || decide (k = .cntDev)) && (s.arch[s.leadOf a]).seq.part.lat && !s.lattice.kinds.isEmpty) = true := by
    simp only [Bool.and_eq_true, Bool.or_eq_true, decide_eq_true_eq, Bool.not_eq_true']
    rintro ⟨⟨hk, hp⟩, he⟩
    rw [hl hk hp] at he
    exact absurd he (by decide)
  refine ⟨_, if_neg hc, fun m hm => ?_⟩
  rw [State.modSeqs_seq s (s.streamOf_nodup a) hm]
  dsimp only
  rw [Seq.landRed_eq]
  refine ⟨?_, ?_, fun h0 => ?_, fun h0 hs h1 => ?_, fun h0 h1 => ?_⟩
  · split
    · rfl
    · split <;> rfl
  · split
    · rfl
    · split <;> rfl
  · rw [if_pos h0]; exact ⟨rfl, rfl, rfl⟩
  · rw [if_neg (by rw [h0]; decide), if_pos (by rw [hs, h1]; decide)]; exact ⟨rfl, rfl, rfl⟩
  · rw [if_neg (by rw [h0]; decide), if_neg (by rw [h1, Bool.and_false]; decide)]; exact ⟨rfl, rfl, rfl⟩

/-! ### The condition of a parked WAIT -/

/-- Where no trap is due and permitted, a hold ends as its event has it. -/
theorem State.holdEnds_untrapped {s : State} {a : Arch} (h : s.trapNow a = none) (f : State → State) : s.holdEnds a f = f s := by
  rw [State.holdEnds, h]; rfl

theorem waitRelease_runs {a : Arch} {s : State} {ms : List Arch} {w : Micro} (hs : s.streamOf a = ms) (ha : s.alive ms = true)
    (ht : s.trapNow a = none) (hm : (s.arch[s.leadOf a]).seq.mode = .parkWait)
    (hf : ((s.arch[s.leadOf a]).mould.fetch ((s.arch[s.leadOf a]).seq.pc - 1)).1 = some w) (hw : s.waitTrue (s.leadOf a) ms w = true) :
    ∃ t, exec (.waitRelease a) s = .next t ∧ ∀ m ∈ ms, (t.arch[m]).seq = { (s.arch[m]).seq with mode := .running } := by
  subst hs
  refine ⟨s.modSeqs (s.streamOf a) (fun x => { x with mode := .running }), ?_, fun m hm => State.modSeqs_seq s (s.streamOf_nodup a) hm _⟩
  show execWaitRelease a s = _
  unfold execWaitRelease
  simp only [hf, Option.getD_some, hm, ha, hw, decide_true, Bool.and_self, if_true, State.holdEnds_untrapped ht]

/-! ### A record at a dispatch wait -/

/-- The members and the lead of a steady stream. -/
theorem State.Steady.lead_mem {s : State} {a : Arch} {ms : List Arch} (h : s.Steady a ms) : s.leadOf a ∈ ms := by
  obtain ⟨rfl, ha, -⟩ := h
  obtain ⟨l, hl⟩ := State.streamOf_eq_lead ha
  rw [hl]
  exact List.mem_cons_self

theorem State.Steady.nodup {s : State} {a : Arch} {ms : List Arch} (h : s.Steady a ms) : ms.Nodup := h.1 ▸ s.streamOf_nodup a

/-- DISPATCH_WAIT_END takes the next record where no dispatch is held. -/
theorem dispatchWaitEnd_takes {s : State} {a : Arch} {ms : List Arch} {r : PourRec} {rest : List PourRec} (h : s.Steady a ms)
    (hm : (s.arch[s.leadOf a]).seq.mode = .dispatchWait) (hq : (s.arch[s.leadOf a]).seq.queue = r :: rest) (hd : s.dispatchHeld (s.leadOf a) ms = false) :
    exec (.dispatchWaitEnd a) s = .next (s.startHead (s.leadOf a) ms) := by
  have hl := h.lead_mem
  obtain ⟨rfl, ha, hal, hr, -, ht, -⟩ := h
  have he : (s.streamOf a).isEmpty = false := by
    cases hs : s.streamOf a with
    | nil => rw [hs] at ha; exact absurd ha List.not_mem_nil
    | cons b l => rfl
  show execDispatchWaitEnd a s = _
  unfold execDispatchWaitEnd
  simp only [hm, hq, he, hal, hr, State.holdEnds_untrapped ht, State.takeNext, hd, decide_true, List.isEmpty_cons, Bool.not_false, Bool.and_self,
    Bool.or_self, if_true, Bool.false_eq_true, if_false]

/-- The stream with record `r` taken as its current one, before the checks of Table 5.3. -/
def State.headTaken (s : State) (lead : Arch) (ms : List Arch) (r : PourRec) (rest : List PourRec) : State :=
  let run := s.contractRun lead r
  ((s.modSeq lead (fun x => { x with queue := rest })).modSeqs ms (fun x => { x with
      ctx := { x.ctx with cur := some r, posted := false, failed := false, mop := run }, pc := r.entry, mode := .running, held := false })).eachArch ms
    (fun t a => t.modTwin a (fun x => { x with ck := none }))

/-- A change of the twin registers in all members leaves what is not of them. -/
theorem State.modTwins_keep (s : State) (ms : List Arch) (f : Twin → Twin) {γ : Type} {g : ArchSt → γ} (h : ∀ y w, g { y with twin := w } = g y)
    (b : Arch) : g ((s.eachArch ms (fun t a => t.modTwin a f)).arch[b]) = g s.arch[b] := by
  have e : s.eachArch ms (fun t a => t.modTwin a f) = { s with arch := vmods id (fun _ y => { y with twin := f y.twin }) ms s.arch } :=
    foldl_modArch id (fun _ y => { y with twin := f y.twin }) ms s
  rw [e]
  exact vmods_keep id _ (fun _ a => h a (f a.twin)) ms s.arch b

@[simp] theorem State.modTwins_pour (s : State) (ms : List Arch) (f : Twin → Twin) : (s.eachArch ms (fun t a => t.modTwin a f)).pour = s.pour :=
  foldl_keep s State.pour (fun t a => t.modTwin a f) (fun _ _ => rfl) ms

theorem State.headTaken_seq (s : State) (lead : Arch) {ms : List Arch} (hn : ms.Nodup) (r : PourRec) (rest : List PourRec) {m : Arch} (hm : m ∈ ms) :
    ((s.headTaken lead ms r rest).arch[m]).seq = { (s.arch[m]).seq with
      queue := if m = lead then rest else (s.arch[m]).seq.queue, mode := .running, pc := r.entry, held := false
      ctx := { (s.arch[m]).seq.ctx with cur := some r, posted := false, failed := false, mop := s.contractRun lead r } } := by
  unfold State.headTaken
  rw [State.modTwins_keep _ _ _ (g := ArchSt.seq) (fun _ _ => rfl), State.modSeqs_seq _ hn hm]
  rw [State.modSeq_seq]
  by_cases h : m = lead
  · rw [if_pos h, if_pos h]
  · rw [if_neg h, if_neg h]

/-- The head record is taken, and runs or stops the sequencer (spec/03 R71; spec/05 Table 5.3). -/
theorem State.startHead_eq {s : State} {lead : Arch} (ms : List Arch) {r : PourRec} {rest : List PourRec} (hq : (s.arch[lead]).seq.queue = r :: rest) :
    s.startHead lead ms = match recordCheck r (s.arch[lead]).mould.entries (maskOf ms) (s.arch[lead]).seq.part.twin with
      | none => s.headTaken lead ms r rest
      | some sub => ((s.headTaken lead ms r rest).modSeq lead (fun x => { x with
          recFault := { valid := true, sub := BitVec.ofNat 4 sub, entry := r.entry } })).seqFault [(lead, 8)] lead ms (fun _ => r.entry) := by
  have hc : (s.modSeq lead (fun x => { x with queue := rest })).contractRun lead r = s.contractRun lead r := by
    have hw : ((s.modSeq lead (fun x => { x with queue := rest })).arch[lead]).mould = (s.arch[lead]).mould :=
      State.modSeq_keep _ _ _ _ (g := ArchSt.mould) (fun _ _ => rfl)
    rw [State.contractRun, State.contractRun, State.contractOf, State.contractOf, hw]
  have he : ((s.headTaken lead ms r rest).arch[lead]).mould.entries = (s.arch[lead]).mould.entries := by
    unfold State.headTaken
    rw [State.modTwins_keep _ _ _ (g := fun y => y.mould.entries) (fun _ _ => rfl),
      State.modSeqs_keep _ _ _ (g := fun y => y.mould.entries) (fun _ _ => rfl),
      State.modSeq_keep _ _ _ _ (g := fun y => y.mould.entries) (fun _ _ => rfl)]
  unfold State.startHead
  simp only [hq, hc]
  rw [← he]
  rfl

/-- Completions that are sent change the pour port's list alone. -/
theorem State.complete_arch (s : State) (r : PourRec) (status detail : Nat) (v : Option Nat) : (s.complete r status detail v).arch = s.arch := rfl
theorem State.complete_compl (s : State) (r : PourRec) (status detail : Nat) (v : Option Nat) :
    (s.complete r status detail v).pour.compl = s.pour.compl ++ [{ core := r.core, tag := r.tag, word := complWord r status detail v }] := rfl

/-- A fault of the lead stops it at `pc` with its cause, and completes a current record that has not posted as FAULTED (spec/03 R91). -/
theorem State.seqFault_lead (s : State) (lead : Arch) (ms : List Arch) (c : Nat) (pc : A13) {r : PourRec}
    (hr : (s.arch[lead]).seq.ctx.cur = some r) (hp : (s.arch[lead]).seq.ctx.posted = false) :
    let t := s.seqFault [(lead, c)] lead ms (fun _ => pc)
    (t.arch[lead]).seq.mode = .fault ∧ (t.arch[lead]).seq.seqFault = { valid := true, fpc := pc, cause := BitVec.ofNat 4 c } ∧
    (t.arch[lead]).seq.queue = (s.arch[lead]).seq.queue ∧ (t.arch[lead]).seq.recFault = (s.arch[lead]).seq.recFault ∧
    t.pour.compl = s.pour.compl ++ [{ core := r.core, tag := r.tag, word := complWord r 2 c none }] := by
  have hd : ((([(lead, c)] : List (Arch × Nat)).find? (fun b => decide (b.1 = lead))).or [(lead, c)].head?).map (fun b => b.2) = some c := by
    simp
  let u := (((s.complete r 2 c none).setPosted ms).modSeqs ms (fun x => { x with stepSlot := none })).modSeq lead (fun x => { x with
    seqFault := { valid := true, fpc := pc, cause := BitVec.ofNat 4 c }, mode := .fault })
  have harch : (s.seqFault [(lead, c)] lead ms (fun _ => pc)).arch = u.arch := by
    unfold State.seqFault
    simp only [hr, hp, hd, List.foldl_cons, List.foldl_nil, Option.getD_some]
    split <;> simp [u]
  have hpour : (s.seqFault [(lead, c)] lead ms (fun _ => pc)).pour = u.pour := by
    unfold State.seqFault
    simp only [hr, hp, hd, List.foldl_cons, List.foldl_nil, Option.getD_some]
    split <;> simp [u]
  have hk : ∀ {γ : Type} (g : Seq → γ), (∀ q x, g { q with ctx := x } = g q) → (∀ q x, g { q with stepSlot := x } = g q) →
      g ((((s.complete r 2 c none).setPosted ms).modSeqs ms (fun x => { x with stepSlot := none })).arch[lead]).seq = g (s.arch[lead]).seq := by
    intro γ g h1 h2
    rw [State.modSeqs_seq_keep _ _ _ (fun q => h2 q none), State.setPosted, State.modSeqs_seq_keep _ _ _ (fun q => h1 q _), State.complete_arch]
  dsimp only
  rw [harch, hpour, State.modSeq_seq, if_pos rfl]
  refine ⟨rfl, rfl, hk Seq.queue (fun _ _ => rfl) (fun _ _ => rfl), hk Seq.recFault (fun _ _ => rfl) (fun _ _ => rfl), ?_⟩
  show (State.modSeqs _ ms _).pour.compl = _
  rw [State.modSeqs_pour, State.setPosted, State.modSeqs_pour, State.complete_compl]

/-- DISPATCH_WAIT_END with a record that passes the checks of Table 5.3. -/
theorem dispatchWaitEnd_runs {s : State} {a : Arch} {ms : List Arch} {r : PourRec} {rest : List PourRec} (h : s.Steady a ms)
    (hm : (s.arch[s.leadOf a]).seq.mode = .dispatchWait) (hq : (s.arch[s.leadOf a]).seq.queue = r :: rest) (hd : s.dispatchHeld (s.leadOf a) ms = false)
    (hc : recordCheck r (s.arch[s.leadOf a]).mould.entries (maskOf ms) (s.arch[s.leadOf a]).seq.part.twin = none) :
    ∃ t, exec (.dispatchWaitEnd a) s = .next t ∧ ∀ m ∈ ms, (t.arch[m]).seq = { (s.arch[m]).seq with
      queue := if m = s.leadOf a then rest else (s.arch[m]).seq.queue, mode := .running, pc := r.entry, held := false
      ctx := { (s.arch[m]).seq.ctx with cur := some r, posted := false, failed := false, mop := s.contractRun (s.leadOf a) r } } := by
  refine ⟨_, dispatchWaitEnd_takes h hm hq hd, fun m hmm => ?_⟩
  rw [State.startHead_eq ms hq, hc]
  exact s.headTaken_seq _ h.nodup r rest hmm

/-- DISPATCH_WAIT_END with a record that fails one of them. -/
theorem dispatchWaitEnd_faults {s : State} {a : Arch} {ms : List Arch} {r : PourRec} {rest : List PourRec} {sub : Nat} (h : s.Steady a ms)
    (hm : (s.arch[s.leadOf a]).seq.mode = .dispatchWait) (hq : (s.arch[s.leadOf a]).seq.queue = r :: rest) (hd : s.dispatchHeld (s.leadOf a) ms = false)
    (hc : recordCheck r (s.arch[s.leadOf a]).mould.entries (maskOf ms) (s.arch[s.leadOf a]).seq.part.twin = some sub) :
    ∃ t, exec (.dispatchWaitEnd a) s = .next t ∧ (t.arch[s.leadOf a]).seq.mode = .fault ∧ (t.arch[s.leadOf a]).seq.queue = rest ∧
      (t.arch[s.leadOf a]).seq.recFault = { valid := true, sub := BitVec.ofNat 4 sub, entry := r.entry } ∧
      (t.arch[s.leadOf a]).seq.seqFault = { valid := true, fpc := r.entry, cause := 8 } ∧
      t.pour.compl = s.pour.compl ++ [{ core := r.core, tag := r.tag, word := complWord r 2 8 none }] := by
  refine ⟨_, dispatchWaitEnd_takes h hm hq hd, ?_⟩
  rw [State.startHead_eq ms hq, hc]
  dsimp only
  generalize hu : (s.headTaken (s.leadOf a) ms r rest).modSeq (s.leadOf a) _ = u
  have hs := s.headTaken_seq (s.leadOf a) h.nodup r rest h.lead_mem
  have hseq : (u.arch[s.leadOf a]).seq = { ((s.headTaken (s.leadOf a) ms r rest).arch[s.leadOf a]).seq with
      recFault := { valid := true, sub := BitVec.ofNat 4 sub, entry := r.entry } } := by
    rw [← hu, State.modSeq_seq, if_pos rfl]
  have hpour : u.pour = s.pour := by
    rw [← hu]
    show (s.headTaken (s.leadOf a) ms r rest).pour = s.pour
    unfold State.headTaken
    rw [State.modTwins_pour, State.modSeqs_pour]
    rfl
  obtain ⟨h1, h2, h3, h4, h5⟩ := u.seqFault_lead (s.leadOf a) ms 8 r.entry (r := r) (by rw [hseq, hs]) (by rw [hseq, hs])
  refine ⟨h1, ?_, ?_, h2, ?_⟩
  · rw [h3, hseq, hs]
    exact if_pos rfl
  · rw [h4, hseq]
  · rw [h5, hpour]

end Sys2Proof.Machine
end

section
/-! PROOF. What the PEs and planes of an island do not depend on, and what leaves them alone (spec/02 R34, R42; spec/08 R211). -/
namespace Sys2Proof.Machine

/-! ### An island's PEs and planes -/

/-- The PE registers and the memory of an island, with the injection armed on it; its ladle, accesses and reports are blank. -/
def IslSt.core (i : IslSt) : IslSt :=
  { i with ladle := Ladle.cleared false, role := 0, ue := false, ueValid := false, uePlane := 0, ueCluster := 0, cecnt := 0, ready := false
           tell := false, waiting := [] }

@[simp] theorem IslSt.core_core (i : IslSt) : i.core.core = i.core := rfl
@[simp] theorem IslSt.core_raw (i : IslSt) : i.core.raw = i.raw := rfl
@[simp] theorem IslSt.core_rawDelta (i : IslSt) : i.core.rawDelta = i.rawDelta := rfl

@[simp] theorem IslSt.note_core (i : IslSt) (p : A13) (r : PlaneRead) : (i.note p r).core = i.core := by
  unfold IslSt.note; dsimp only; split
  · rfl
  · split <;> rfl

theorem IslSt.inject_core (i : IslSt) (p : A13) (cls : List Nat) (d : BitVec 96) :
    (i.core.inject p cls d).1 = (i.inject p cls d).1 ∧ (i.core.inject p cls d).2.core = (i.inject p cls d).2.core := by
  unfold IslSt.inject
  show Prod.fst (if (i.inj && decide (i.injPlane = p) && cls.contains i.injCl.toNat) = true then _ else _) = _ ∧
    IslSt.core (Prod.snd (if (i.inj && decide (i.injPlane = p) && cls.contains i.injCl.toNat) = true then _ else _)) = _
  split <;> exact ⟨rfl, rfl⟩

/-- What is read of the PEs and planes alone is the same where they are. -/
theorem IslSt.of_core {γ : Type} (f : IslSt → γ) (hf : ∀ i, f i.core = f i) {i j : IslSt} (h : i.core = j.core) : f i = f j := by
  rw [← hf i, h, hf]

theorem IslSt.store_core {i j : IslSt} (h : i.core = j.core) (p : A13) (v : PeVec) (d : BitVec 96) : (i.store p v d).core = (j.store p v d).core :=
  IslSt.of_core (fun x => (x.store p v d).core) (fun _ => rfl) h

/-- A write stores the same in islands of the same PEs and planes. -/
theorem IslSt.inject_store_core {i j : IslSt} (h : i.core = j.core) (p : A13) (cls : List Nat) (v : PeVec) (d : BitVec 96) :
    ((i.inject p cls d).2.store p v (i.inject p cls d).1).core = ((j.inject p cls d).2.store p v (j.inject p cls d).1).core := by
  obtain ⟨hi1, hi2⟩ := i.inject_core p cls d
  obtain ⟨hj1, hj2⟩ := j.inject_core p cls d
  rw [← hi1, ← hj1, h]
  exact IslSt.store_core (by rw [← hi2, ← hj2, h]) ..

theorem IslSt.raw_of_core {i j : IslSt} (h : i.core = j.core) : i.raw = j.raw := IslSt.of_core IslSt.raw (fun _ => rfl) h
theorem IslSt.rawDelta_of_core {i j : IslSt} (h : i.core = j.core) : i.rawDelta = j.rawDelta := IslSt.of_core IslSt.rawDelta (fun _ => rfl) h

theorem IslSt.portWrite_core {i j : IslSt} (h : i.core = j.core) (p : A13) (wc : BitVec 2) (v m : PeVec) :
    (i.portWrite p wc v m).core = (j.portWrite p wc v m).core := by
  unfold IslSt.portWrite
  split
  · exact h
  · split
    · exact IslSt.inject_store_core h ..
    · unfold IslSt.writePartial
      dsimp only
      rw [IslSt.raw_of_core h, IslSt.rawDelta_of_core h]
      exact IslSt.inject_store_core (by rw [IslSt.note_core, IslSt.note_core, h]) ..

@[simp] theorem IslSt.readPlane_core (i : IslSt) (p : A13) : (i.readPlane p).2.core = i.core := IslSt.note_core ..

@[simp] theorem IslSt.portReads_core (i : IslSt) (q : PourIn) : (i.portReads q).core = i.core := by
  unfold IslSt.portReads
  dsimp only
  split <;> split <;> simp

/-! ### A pour cycle depends on the PEs and planes alone -/

theorem IslSt.written_core {i j : IslSt} (h : i.core = j.core) (q : PourIn) : (i.written q).core = (j.written q).core := by
  have hi : i.itemOf q = j.itemOf q := IslSt.of_core (fun x => x.itemOf q) (fun _ => rfl) h
  have hk : i.k = j.k := IslSt.of_core IslSt.k (fun _ => rfl) h
  unfold IslSt.written
  rw [hi, hk]
  exact IslSt.portWrite_core (by rw [IslSt.portReads_core, IslSt.portReads_core, h]) ..

theorem IslSt.captured_core (i : IslSt) (q : PourIn) : (i.captured q).core = (i.written q).core := by
  unfold IslSt.captured
  split
  · exact IslSt.readPlane_core ..
  · rfl

theorem IslSt.pour_f_of_core {i j : IslSt} (h : i.core = j.core) (q : PourIn) : (i.pour q).f = (j.pour q).f := by
  rw [IslSt.pour_f, IslSt.pour_f]
  exact IslSt.of_core (fun x => x.fOf q) (fun _ => rfl) h

theorem IslSt.pour_core {i j : IslSt} (h : i.core = j.core) (q : PourIn) : (i.pour q).isl.core = (j.pour q).isl.core := by
  have hw : (i.captured q).core = (j.captured q).core := by rw [IslSt.captured_core, IslSt.captured_core, IslSt.written_core h]
  have hx : (if mwXld q.w then i.fOf q else i.x) = if mwXld q.w then j.fOf q else j.x :=
    IslSt.of_core (fun x => if mwXld q.w then x.fOf q else x.x) (fun _ => rfl) h
  have hy : (if mwYld q.w then i.fOf q else i.y) = if mwYld q.w then j.fOf q else j.y :=
    IslSt.of_core (fun x => if mwYld q.w then x.fOf q else x.y) (fun _ => rfl) h
  have hc : i.cOf q = j.cOf q := IslSt.of_core (fun x => x.cOf q) (fun _ => rfl) h
  have hn : i.nOf q = j.nOf q := IslSt.of_core (fun x => x.nOf q) (fun _ => rfl) h
  have hk : i.kOf q = j.kOf q := IslSt.of_core (fun x => x.kOf q) (fun _ => rfl) h
  have ht : i.tOf q = j.tOf q := by
    unfold IslSt.tOf
    rw [IslSt.raw_of_core (IslSt.written_core h q), IslSt.rawDelta_of_core (IslSt.written_core h q), show i.t = j.t from IslSt.of_core IslSt.t (fun _ => rfl) h]
  rw [IslSt.pour_eq, IslSt.pour_eq]
  dsimp only
  rw [hx, hy, hc, hn, hk, ht]
  exact congrArg (fun x : IslSt => { x with c := j.cOf q, n := j.nOf q, k := j.kOf q, x := if mwXld q.w then j.fOf q else j.x
                                            y := if mwYld q.w then j.fOf q else j.y, t := j.tOf q }) hw

end Sys2Proof.Machine
end

section
/-! PROOF. What the reports, view accesses and riser rings of a pour cycle leave of the array and its sequencers (spec/02 R42, R54; spec/08
R213, R218). -/
namespace Sys2Proof.Machine

/-! ### Three readings of the array -/

/-- The pour port, the archipelagos and the islands. -/
def State.array (s : State) : PourPort × Vector ArchSt 8 × Vector IslSt 264 := (s.pour, s.arch, s.isl)

/-- An archipelago but for what an uncorrectable error tells its tide. -/
def ArchSt.still (y : ArchSt) : ArchSt := { y with tide := { y.tide with priority := none, badCopy := false } }

/-- The pour port and the archipelagos but for what errors tell their tides. -/
def State.ground (s : State) : PourPort × (Arch → ArchSt) := (s.pour, fun b => (s.arch[b]).still)

/-- The pour port, the sequencers with their moulds, and the PEs and planes of the islands. -/
def State.works (s : State) : PourPort × (Arch → Seq × Mould) × (Isl → IslSt) :=
  (s.pour, fun b => ((s.arch[b]).seq, (s.arch[b]).mould), fun P => (s.isl[P]).core)

theorem State.isl_of_array {s t : State} (h : t.array = s.array) : t.isl = s.isl := congrArg (fun x => x.2.2) h

theorem State.ground_of_array {s t : State} (h : t.array = s.array) : t.ground = s.ground :=
  congrArg (fun x : PourPort × Vector ArchSt 8 × Vector IslSt 264 => (x.1, fun b : Arch => (x.2.1[b]).still)) h

theorem State.works_of_array {s t : State} (h : t.array = s.array) : t.works = s.works :=
  congrArg (fun x : PourPort × Vector ArchSt 8 × Vector IslSt 264 => (x.1, (fun b : Arch => ((x.2.1[b]).seq, (x.2.1[b]).mould)), fun P : Isl => (x.2.2[P]).core)) h

/-- What is read of an archipelago but its tide stands where the ground stands. -/
theorem State.of_ground {γ : Type} (g : ArchSt → γ) (hg : ∀ y, g y.still = g y) {s t : State} (h : t.ground = s.ground) (b : Arch) :
    g t.arch[b] = g s.arch[b] := by
  have hb : (t.arch[b]).still = (s.arch[b]).still := congrArg (fun x => x.2 b) h
  rw [← hg, hb, hg]

theorem State.pour_of_ground {s t : State} (h : t.ground = s.ground) : t.pour = s.pour := congrArg Prod.fst h
theorem State.pour_of_works {s t : State} (h : t.works = s.works) : t.pour = s.pour := congrArg Prod.fst h
theorem State.seq_of_works {s t : State} (h : t.works = s.works) (b : Arch) : (t.arch[b]).seq = (s.arch[b]).seq := congrArg (fun x => (x.2.1 b).1) h
theorem State.mould_of_works {s t : State} (h : t.works = s.works) (b : Arch) : (t.arch[b]).mould = (s.arch[b]).mould :=
  congrArg (fun x => (x.2.1 b).2) h
theorem State.core_of_works {s t : State} (h : t.works = s.works) (P : Isl) : (t.isl[P]).core = (s.isl[P]).core := congrArg (fun x => x.2.2 P) h

theorem State.core_of_isl {s t : State} (h : t.isl = s.isl) (P : Isl) : (t.isl[P]).core = (s.isl[P]).core := congrArg (fun v : Vector IslSt 264 => v[P].core) h

/-- The works are read of the ground and of the islands. -/
theorem State.works_of_ground {s t : State} (h : t.ground = s.ground) (hi : ∀ P : Isl, (t.isl[P]).core = (s.isl[P]).core) : t.works = s.works :=
  Prod.ext (State.pour_of_ground h) (Prod.ext (funext fun b => State.of_ground (fun y => (y.seq, y.mould)) (fun _ => rfl) h b) (funext hi))

/-! ### Changes of one archipelago or island -/

theorem State.modArch_ground (s : State) (a : Arch) {f : ArchSt → ArchSt} (h : ∀ y, (f y).still = y.still) : (s.modArch a f).ground = s.ground := by
  refine Prod.ext rfl (funext fun b => ?_)
  show ((vmod s.arch a f)[b]).still = _
  rw [vmod_apply]
  split
  · exact h _
  · rfl

theorem State.modArch_works (s : State) (a : Arch) {f : ArchSt → ArchSt} (h : ∀ y, ((f y).seq, (f y).mould) = (y.seq, y.mould)) :
    (s.modArch a f).works = s.works := by
  refine Prod.ext rfl (Prod.ext (funext fun b => ?_) rfl)
  show (((vmod s.arch a f)[b]).seq, ((vmod s.arch a f)[b]).mould) = _
  rw [vmod_apply]
  split
  · exact h _
  · rfl

theorem State.modIsl_apply (s : State) (P Q : Isl) (f : IslSt → IslSt) : (s.modIsl P f).isl[Q] = if Q = P then f s.isl[Q] else s.isl[Q] :=
  vmod_apply ..

@[simp] theorem State.modIsl_ground (s : State) (P : Isl) (f : IslSt → IslSt) : (s.modIsl P f).ground = s.ground := rfl

/-- An island that keeps its state. -/
theorem State.modIsl_self {s : State} {P : Isl} {f : IslSt → IslSt} (h : f s.isl[P] = s.isl[P]) : s.modIsl P f = s := by
  have hv : vmod s.isl P f = s.isl := by
    unfold vmod vset
    rw [h]
    exact Vector.set_getElem_self P.isLt
  unfold State.modIsl
  rw [hv]

theorem State.modIsl_works (s : State) (P : Isl) {f : IslSt → IslSt} (h : (f s.isl[P]).core = (s.isl[P]).core) : (s.modIsl P f).works = s.works := by
  refine State.works_of_ground rfl (fun Q => ?_)
  rw [State.modIsl_apply]
  split
  · next e => rw [e, h]
  · rfl

@[simp] theorem State.modTwin_works (s : State) (a : Arch) (f : Twin → Twin) : (s.modTwin a f).works = s.works := State.modArch_works s a (fun _ => rfl)
@[simp] theorem State.modRing_works (s : State) (a : Arch) (f : RiserRing → RiserRing) : (s.modRing a f).works = s.works :=
  State.modArch_works s a (fun _ => rfl)

/-! ### Errors told, ladles mirrored -/

@[simp] theorem State.raiseAll_array (s : State) (i : Nat) : (s.raiseAll i).array = s.array := by
  unfold State.array
  rw [State.raiseAll_pour, State.raiseAll_arch, State.raiseAll_isl]

@[simp] theorem State.tellUe_ground (s : State) (a : Arch) : (s.tellUe a).ground = s.ground := by
  refine foldl_keep s State.ground _ (fun t slot => ?_) _
  dsimp only
  split
  · exact Eq.trans (State.modArch_ground _ _ (fun _ => rfl)) (Eq.trans (State.ground_of_array (State.raiseAll_array ..)) (State.modIsl_ground ..))
  · rfl

@[simp] theorem State.tellUe_works (s : State) (a : Arch) : (s.tellUe a).works = s.works := by
  refine foldl_keep s State.works _ (fun t slot => ?_) _
  dsimp only
  split
  · exact Eq.trans (State.modArch_works _ _ (fun _ => rfl)) ((State.works_of_array (State.raiseAll_array ..)).trans (State.modIsl_works _ _ rfl))
  · rfl

/-- What does not read `tell` stands in every island. -/
theorem State.tellUe_isl (s : State) (a : Arch) {γ : Type} {g : IslSt → γ} (hg : ∀ i, g { i with tell := false } = g i) (P : Isl) :
    g (s.tellUe a).isl[P] = g s.isl[P] := by
  refine foldl_keep s (fun t : State => g t.isl[P]) _ (fun t slot => ?_) _
  dsimp only
  split
  · show g ((State.raiseAll _ 28).isl[P]) = _
    rw [State.raiseAll_isl, State.modIsl_apply]
    split
    · exact hg _
    · rfl
  · rfl

@[simp] theorem State.mirror_ground (s : State) (a : Arch) : (s.mirror a).ground = s.ground := by
  unfold State.mirror; split <;> rfl

@[simp] theorem State.mirror_works (s : State) (a : Arch) : (s.mirror a).works = s.works := by
  unfold State.mirror
  split
  · rfl
  · exact State.modIsl_works _ _ rfl

theorem State.mirror_waiting (s : State) (a : Arch) (P : Isl) : ((s.mirror a).isl[P]).waiting = (s.isl[P]).waiting := by
  unfold State.mirror
  split
  · rfl
  · rw [State.modIsl_apply]
    split <;> rfl

/-- A ladle is mirrored into a shadowing reserve alone. -/
theorem State.mirror_unshadowed {s : State} {a : Arch} (h : s.shadowPair a = none) : s.mirror a = s := by rw [State.mirror, h]

/-! ### View accesses -/

@[simp] theorem State.answerFrom_array (s : State) (src : End) (r : Request) (st : Status) (data : List Byte) :
    (s.answerFrom src r st data).array = s.array := by
  unfold State.answerFrom State.respondLate
  dsimp only
  split
  · split
    · rfl
    · split <;> rfl
  · split
    · rfl
    · split <;> rfl

/-- The front access of an island, as the reserve that shadows it takes it. -/
def State.alsoServed (s : State) (a : Arch) (P : Isl) : State :=
  match s.shadowPair a with
  | some (R, p) => if s.islAt a p = P then s.modIsl R (fun y => y.alsoWrite s.isl[P]) else s
  | none => s

/-- The answer that a served access sends. -/
def State.slotAnswer (s : State) (a : Arch) (P : Isl) (r : Option Response) (v : Option ViewWait) : State :=
  match r, v with
  | some q, some v => if v.mute then s else s.answerFrom { node := gatewayNode a, pos := offsetFrom (33 * a.val) P.val } v.req q.status q.data
  | _, _ => s

theorem State.viewSlot1_eq (s : State) (a : Arch) (P : Isl) : s.viewSlot1 a P =
    ((s.alsoServed a P).modIsl P (fun _ => (s.isl[P]).viewSlot.1)).slotAnswer a P (s.isl[P]).viewSlot.2 (s.isl[P]).waiting.head? := rfl

theorem State.alsoServed_ground (s : State) (a : Arch) (P : Isl) : (s.alsoServed a P).ground = s.ground := by
  unfold State.alsoServed
  split
  · split <;> rfl
  · rfl

theorem State.slotAnswer_array (s : State) (a : Arch) (P : Isl) (r : Option Response) (v : Option ViewWait) :
    (s.slotAnswer a P r v).array = s.array := by
  unfold State.slotAnswer
  split
  · split
    · rfl
    · exact State.answerFrom_array ..
  · rfl

@[simp] theorem State.viewSlot1_ground (s : State) (a : Arch) (P : Isl) : (s.viewSlot1 a P).ground = s.ground := by
  rw [State.viewSlot1_eq, State.ground_of_array (State.slotAnswer_array ..), State.modIsl_ground, State.alsoServed_ground]

@[simp] theorem State.viewSlots1_ground (s : State) (a : Arch) : (s.viewSlots1 a).ground = s.ground := by
  unfold State.viewSlots1
  rw [State.mirror_ground, State.tellUe_ground]
  exact foldl_keep s State.ground _ (fun t P => State.viewSlot1_ground t a P) _

/-- The slot of an island without a waiting access is idle. -/
theorem State.viewSlot1_idle {s : State} {P : Isl} (h : (s.isl[P]).waiting = []) (a : Arch) : (s.viewSlot1 a P).array = s.array := by
  have hv : (s.isl[P]).viewSlot = (s.isl[P], none) := by rw [IslSt.viewSlot, h]
  have ha : s.alsoServed a P = s := by
    unfold State.alsoServed
    split
    · split
      · exact State.modIsl_self (by simp only [IslSt.alsoWrite, h])
      · rfl
    · rfl
  rw [State.viewSlot1_eq, State.slotAnswer_array, ha, hv, State.modIsl_self rfl]

/-- Without a waiting access in it an archipelago has idle slots. -/
theorem State.viewSlots1_idle {s : State} {a : Arch} (h : ∀ p : Fin 32, (s.isl[s.islAt a p]).waiting = []) :
    (s.viewSlots1 a).works = s.works ∧ ∀ P : Isl, ((s.viewSlots1 a).isl[P]).waiting = (s.isl[P]).waiting := by
  have hf : ∀ (l : List Isl) (t : State), (∀ P ∈ l, (t.isl[P]).waiting = []) → (l.foldl (fun t P => t.viewSlot1 a P) t).array = t.array := by
    intro l
    induction l with
    | nil => exact fun t _ => rfl
    | cons P l ih =>
      intro t ht
      have h1 := State.viewSlot1_idle (ht P List.mem_cons_self) a
      have hi := State.isl_of_array h1
      rw [List.foldl_cons, ih _ (fun Q hQ => by rw [hi]; exact ht Q (List.mem_cons_of_mem _ hQ)), h1]
  have hi : ∀ P ∈ s.islands a, (s.isl[P]).waiting = [] := by
    intro P hP
    obtain ⟨p, -, rfl⟩ := List.mem_map.mp hP
    exact h p
  have ha := hf _ s hi
  have hi := State.isl_of_array ha
  unfold State.viewSlots1
  refine ⟨?_, fun P => ?_⟩
  · rw [State.mirror_works, State.tellUe_works, State.works_of_array ha]
  · rw [State.mirror_waiting, State.tellUe_isl _ _ (g := IslSt.waiting) (fun _ => rfl), hi]

theorem State.islAt_of_ground {s t : State} (h : t.ground = s.ground) (a : Arch) (p : Fin 32) : t.islAt a p = s.islAt a p := by
  unfold State.islAt
  rw [State.of_ground ArchSt.islmap (fun _ => rfl) h a]

/-- Without a waiting access in them archipelagos have idle slots. -/
theorem State.viewSlots1s_idle {s : State} (ms : List Arch) (h : ∀ m ∈ ms, ∀ p : Fin 32, (s.isl[s.islAt m p]).waiting = []) :
    (s.eachArch ms State.viewSlots1).works = s.works := by
  unfold State.eachArch
  induction ms generalizing s with
  | nil => rfl
  | cons m ms ih =>
    obtain ⟨hw, hk⟩ := State.viewSlots1_idle (h m List.mem_cons_self)
    have hg := State.viewSlots1_ground s m
    rw [List.foldl_cons]
    generalize s.viewSlots1 m = t at hw hk hg ⊢
    have he : ∀ b ∈ ms, ∀ p, ∀ P : Isl, P = s.islAt b p → (t.isl[P]).waiting = [] := by
      rintro b hb p P rfl
      exact (hk _).trans (h b (List.mem_cons_of_mem _ hb) p)
    exact (ih (fun b hb p => he b hb p _ (State.islAt_of_ground hg b p))).trans hw

/-! ### Riser rings and streams -/

theorem State.hPutBytes_array (s : State) (off : Nat) (bs : List Byte) : (s.hPutBytes off bs).array = s.array := rfl
theorem State.dropPosted_array (s : State) (i : Fin 32) : (s.dropPosted i).array = s.array := rfl

theorem State.sendPosted_array (s : State) (h : BitVec 128) : (s.sendPosted h).2.array = s.array := by
  unfold State.sendPosted
  dsimp only
  split <;> rfl

@[simp] theorem State.tablePut_array (s : State) (off : Nat) (bs : List Byte) : (s.tablePut off bs).array = s.array := by
  unfold State.tablePut
  dsimp only
  split
  · exact State.sendPosted_array ..
  · split
    · rw [State.hPutBytes_array, State.sendPosted_array]
    · rw [State.dropPosted_array, State.sendPosted_array]

@[simp] theorem State.writeBack_array (s : State) (id : BitVec 12) : (s.writeBack id).array = s.array := by
  unfold State.writeBack
  split
  · exact State.tablePut_array ..
  · rfl

@[simp] theorem State.frameEnd_array (s : State) (id : BitVec 12) (cause : Option (BitVec 3)) : (s.frameEnd id cause).array = s.array := by
  unfold State.frameEnd
  split
  · rfl
  · split
    · rfl
    · rw [State.writeBack_array, apply_ite State.array]
      exact ite_self _

@[simp] theorem State.frameStart_array (s : State) (id : BitVec 12) : (s.frameStart id).array = s.array := by
  unfold State.frameStart
  show State.array (ite _ _ _) = _
  rw [apply_ite State.array]
  exact ite_self _

@[simp] theorem State.marker_array (s : State) (id : BitVec 12) : (s.marker id).array = s.array := by
  rw [State.marker, State.frameStart_array, State.frameEnd_array]

@[simp] theorem State.loopMark_array (s : State) (c : Fin 16) : (s.loopMark c).array = s.array := by
  refine foldl_keep s State.array _ (fun t id => ?_) _
  split
  · exact State.marker_array ..
  · rfl

/-- The ring at its first context, without an unfinished word group. -/
def RiserRing.restarted (q : RiserRing) : RiserRing :=
  { q with pos := 0, planes := 0, groups := 0, lossy := false, nextGroup := Vector.replicate 16 0 }

/-- A restart leaves of the array all but the ring. -/
theorem State.ringRestart_array (s : State) (a : Arch) (byFramebar : Bool) :
    (s.ringRestart a byFramebar).array = (s.modRing a RiserRing.restarted).array := by
  have hm : ∀ (t : State) (c : Fin 16) (x : Riser) (b : Bool),
      State.array (if b then ({ t with riser := x } : State).loopMark c else { t with riser := x }) = t.array := by
    intro t c x b
    split
    · exact State.loopMark_array ..
    · rfl
  unfold State.ringRestart
  dsimp only
  generalize hu : (if decide ((s.arch[a]).ring.planes ≠ 0) = true then _ else _ : State) = u
  have h : u.array = (s.modRing a RiserRing.restarted).array := by
    rw [← hu]
    split <;> rfl
  split
  · exact (foldl_keep u State.array _ (fun t c => hm t c _ _) _).trans h
  · exact h

@[simp] theorem State.ringRestart_works (s : State) (a : Arch) (byFramebar : Bool) : (s.ringRestart a byFramebar).works = s.works :=
  (State.works_of_array (State.ringRestart_array ..)).trans (State.modRing_works ..)

@[simp] theorem State.groupLost_works (s : State) (c : Fin 16) : (s.groupLost c).works = s.works := rfl

@[simp] theorem State.planeOut_works (s : State) (a : Arch) (fs : List (Isl × PeVec)) : (s.planeOut a fs).works = s.works := by
  have hf : ∀ g : IslSt → Isl × PeVec → Ladle, (fs.foldl (fun t pf => t.modIsl pf.1 (fun i => { i with ladle := g i pf })) s).works = s.works :=
    fun g => foldl_keep s State.works _ (fun t pf => State.modIsl_works _ _ rfl) _
  unfold State.planeOut
  dsimp only
  split
  · rfl
  · simp only [apply_ite State.works, State.modRing_works, State.groupLost_works, hf, ite_self]

@[simp] theorem State.twinFound_works (s : State) (ms : List Arch) (m : Mismatch) : (s.twinFound ms m).works = s.works :=
  foldl_keep s State.works _ (fun t a => State.modTwin_works t a _) ms

@[simp] theorem State.twinCheck_works (s : State) (ms : List Arch) (twin cmp same : Bool) (pc : A13) : (s.twinCheck ms twin cmp same pc).works = s.works := by
  have hd : ∀ (x : Option Mismatch), State.works (match x with | some m => s.twinFound ms m | none => s) = s.works := by
    intro x
    cases x with
    | none => rfl
    | some m => exact State.twinFound_works ..
  unfold State.twinCheck
  split
  · dsimp only
    generalize hu : (if cmp = true then _ else _ : State) = u
    have h : u.works = s.works := by
      rw [← hu]
      split
      · exact hd _
      · rfl
    split
    · exact h
    · exact (State.twinFound_works ..).trans h
  · rfl

end Sys2Proof.Machine
end

section
/-! PROOF. A microword over the islands of its stream (spec/03 R66; spec/02 R34). -/
namespace Sys2Proof.Machine

/-! ### What accesses to planes leave of an island -/

/-- An island but for its planes, its check counts and reports, and an armed injection. -/
def IslSt.aside (i : IslSt) : IslSt :=
  { i with mem := [], delta := [], ue := false, ueValid := false, uePlane := 0, ueCluster := 0, cecnt := 0, inj := false, tell := false }

/-- What is read of an island aside of its planes. -/
theorem IslSt.of_aside {γ : Type} (g : IslSt → γ) (hg : ∀ i, g i.aside = g i) {i j : IslSt} (h : i.aside = j.aside) : g i = g j := by
  rw [← hg i, h, hg]

section
variable (i : IslSt) (p : A13)

@[simp] theorem IslSt.note_aside (r : PlaneRead) : (i.note p r).aside = i.aside := by
  unfold IslSt.note; dsimp only; split
  · rfl
  · split <;> rfl

@[simp] theorem IslSt.inject_aside (cls : List Nat) (d : BitVec 96) : (i.inject p cls d).2.aside = i.aside := by
  unfold IslSt.inject; split <;> rfl

@[simp] theorem IslSt.readPlane_aside : (i.readPlane p).2.aside = i.aside := IslSt.note_aside ..

@[simp] theorem IslSt.writePartial_aside (v m : PeVec) (cls : List Nat) : (i.writePartial p v m cls).aside = i.aside :=
  (IslSt.inject_aside ..).trans (IslSt.note_aside ..)

@[simp] theorem IslSt.portWrite_aside (wc : BitVec 2) (v m : PeVec) : (i.portWrite p wc v m).aside = i.aside := by
  unfold IslSt.portWrite
  split
  · rfl
  · split
    · exact IslSt.inject_aside ..
    · exact IslSt.writePartial_aside ..

end

@[simp] theorem IslSt.portReads_aside (i : IslSt) (q : PourIn) : (i.portReads q).aside = i.aside := by
  unfold IslSt.portReads
  dsimp only
  split <;> split <;> simp

@[simp] theorem IslSt.captured_aside (i : IslSt) (q : PourIn) : (i.captured q).aside = i.aside := by
  unfold IslSt.captured IslSt.written
  split <;> simp

/-- A pour cycle leaves the waiting accesses, and whether the island is ready. -/
theorem IslSt.pour_waiting (i : IslSt) (q : PourIn) : (i.pour q).isl.waiting = i.waiting := by
  have h : (i.captured q).waiting = i.waiting := IslSt.of_aside IslSt.waiting (fun _ => rfl) (i.captured_aside q)
  rw [IslSt.pour_eq]
  exact h

theorem IslSt.pour_ready (i : IslSt) (q : PourIn) : (i.pour q).isl.ready = i.ready := by
  have h : (i.captured q).ready = i.ready := IslSt.of_aside IslSt.ready (fun _ => rfl) (i.captured_aside q)
  rw [IslSt.pour_eq]
  exact h

/-! ### One island, one archipelago -/

/-- What each step of a fold leaves of the state it carries. -/
theorem foldl_fst_keep {α β γ : Type} (f : State → γ) {g : State × β → α → State × β} (h : ∀ acc x, f (g acc x).1 = f acc.1) (l : List α)
    (acc : State × β) : f (l.foldl g acc).1 = f acc.1 := by
  induction l generalizing acc with
  | nil => rfl
  | cons x l ih => rw [List.foldl_cons, ih, h]

section
variable (s : State) (edges : Vector PeVec 4) (lat force : Bool)

/-- What `am`'s word brings to the island `i` at position `p`. -/
def State.brought (am : Arch × Micro) (p : Fin 32) (i : IslSt) : PourIn :=
  { w := am.2, odd := s.oddTwin am.1, pa := planeAddr (mwAadr am.2) (mwAmod am.2) (s.arch[am.1]).seq.ctx.ba
    pb := planeAddr (mwBadr am.2) (mwBmod am.2) (s.arch[am.1]).seq.ctx.ba, pw := planeAddr (mwWadr am.2) (mwWmod am.2) (s.arch[am.1]).seq.ctx.ba
    news := s.newsPlane am.1 p am.2 (s.oddTwin am.1) lat (s.bandOf am.1).1 (s.bandOf am.1).2 edges
    planeIn := if mwLdl am.2 = 1 then some i.ladle.planeIn.1 else none, twx := mwTwx am.2 || (force && decide (mwWcond am.2 ≠ 0)) }

/-- The island with its ladle read on where the word is a plane-in. -/
def IslSt.readOn (w : Micro) (i : IslSt) : IslSt := { i with ladle := if mwLdl w = 1 then i.ladle.planeIn.2 else i.ladle }

/-- The cycle of the island at position `p`. -/
def State.cycle (am : Arch × Micro) (p : Fin 32) (i : IslSt) : PourOut := (i.readOn am.2).pour (s.brought edges lat force am p i)

/-- The island after its cycle, its banks swapped where the word says so. -/
def State.cycled (am : Arch × Micro) (p : Fin 32) (i : IslSt) : IslSt :=
  if mwLdl am.2 = 4 then { (s.cycle edges lat force am p i).isl with ladle := (s.cycle edges lat force am p i).isl.ladle.swap (s.oddTwin am.1) }
  else (s.cycle edges lat force am p i).isl

/-- The cycle at position `p`, and what the shadowing reserve takes of it. -/
def State.pourAt (am : Arch × Micro) (tf : State × List (Isl × PeVec)) (p : Fin 32) : State × List (Isl × PeVec) :=
  let i := tf.1.isl[s.islAt am.1 p]
  let o := s.cycle edges lat force am p i
  let t := tf.1.modIsl (s.islAt am.1 p) (fun _ => s.cycled edges lat force am p i)
  (match s.shadowPair am.1 with
    | some (R, p') => if p' = p then t.modIsl R (fun r => r.shadowPour (s.brought edges lat force am p i) o.data o.mask) else t
    | none => t, tf.2 ++ [(s.islAt am.1 p, o.f)])

/-- The cycle of one archipelago. -/
def State.pourOne (acc : State × List (Arch × List (Isl × PeVec))) (am : Arch × Micro) : State × List (Arch × List (Isl × PeVec)) :=
  let one := (List.finRange 32).foldl (s.pourAt edges lat force am) (acc.1, [])
  ((one.1.tellUe am.1).mirror am.1, acc.2 ++ [(am.1, one.2)])

theorem State.pourAll_eq (ms : List (Arch × Micro)) : s.pourAll ms edges lat force = ms.foldl (s.pourOne edges lat force) (s, []) := by
  unfold State.pourAll
  simp only [ite_mk]
  rfl

theorem State.pourOne_ground (acc : State × List (Arch × List (Isl × PeVec))) (am : Arch × Micro) :
    (s.pourOne edges lat force acc am).1.ground = acc.1.ground := by
  have hp : ∀ tf p, (s.pourAt edges lat force am tf p).1.ground = tf.1.ground := by
    intro tf p
    unfold State.pourAt
    dsimp only
    split
    · split <;> rfl
    · rfl
  unfold State.pourOne
  rw [State.mirror_ground, State.tellUe_ground, foldl_fst_keep _ hp]

/-- Pour cycles leave the sequencers, moulds and twins of the archipelagos, and the pour port. -/
@[simp] theorem State.pourAll_ground (ms : List (Arch × Micro)) : (s.pourAll ms edges lat force).1.ground = s.ground := by
  rw [State.pourAll_eq, foldl_fst_keep _ (s.pourOne_ground edges lat force)]

end

/-- A fold that changes islands at distinct places, noting something of each. -/
theorem foldl_modIsl_note {β γ : Type} (key : β → Isl) (f : β → IslSt → IslSt) (g : β → IslSt → γ) {l : List β} (hn : (l.map key).Nodup)
    (s : State) (r : List γ) :
    l.foldl (fun tf x => (tf.1.modIsl (key x) (f x), tf.2 ++ [g x tf.1.isl[key x]])) (s, r) =
      ({ s with isl := vmods key f l s.isl }, r ++ l.map (fun x => g x s.isl[key x])) := by
  induction l generalizing s r with
  | nil => simp [vmods]
  | cons x l ih =>
    rw [List.map_cons, List.nodup_cons] at hn
    have hl : l.map (fun y => g y (s.modIsl (key x) (f x)).isl[key y]) = l.map (fun y => g y s.isl[key y]) :=
      List.map_congr_left (fun y hy => by
        have hne : key y ≠ key x := fun e => hn.1 (e ▸ List.mem_map_of_mem hy)
        rw [State.modIsl_apply, if_neg hne])
    rw [List.foldl_cons, ih hn.2, hl, List.append_assoc]
    rfl

/-- The reserve that shadows an island is read of the ground. -/
theorem State.shadowPair_of_ground {s t : State} (h : t.ground = s.ground) (a : Arch) : t.shadowPair a = s.shadowPair a := by
  have hp := State.of_ground (fun y => (y.tide.phase, y.tide.tslot, y.islmap, y.rslot)) (fun _ => rfl) h a
  simp only [Prod.mk.injEq] at hp
  obtain ⟨h1, h2, h3, h4⟩ := hp
  unfold State.shadowPair
  simp only [h1, h2, h3, h4]

theorem State.withIsl_ground (s : State) (v : Vector IslSt 264) : ({ s with isl := v } : State).ground = s.ground := rfl

/-- An island but for the error it has not yet told. -/
def IslSt.untold (i : IslSt) : IslSt := { i with tell := false }

section
variable {s : State} (edges : Vector PeVec 4) (lat force : Bool) {am : Arch × Micro}

/-- The cycle of an archipelago whose islands are distinct and without a shadow. -/
theorem State.pourOne_eq (hsp : s.shadowPair am.1 = none) (hn : ((List.finRange 32).map (s.islAt am.1)).Nodup)
    (acc : State × List (Arch × List (Isl × PeVec))) : s.pourOne edges lat force acc am =
      ((({ acc.1 with isl := vmods (s.islAt am.1) (s.cycled edges lat force am) (List.finRange 32) acc.1.isl } : State).tellUe am.1).mirror am.1,
        acc.2 ++ [(am.1, (List.finRange 32).map (fun p => (s.islAt am.1 p, (s.cycle edges lat force am p acc.1.isl[s.islAt am.1 p]).f)))]) := by
  have hp : s.pourAt edges lat force am = fun tf p =>
      (tf.1.modIsl (s.islAt am.1 p) (s.cycled edges lat force am p), tf.2 ++ [(s.islAt am.1 p, (s.cycle edges lat force am p tf.1.isl[s.islAt am.1 p]).f)]) := by
    funext tf p
    unfold State.pourAt
    rw [hsp]
    rfl
  unfold State.pourOne
  rw [hp, foldl_modIsl_note (s.islAt am.1) _ (fun p i => (s.islAt am.1 p, (s.cycle edges lat force am p i).f)) hn, List.nil_append]

/-! ### All of a stream -/

/-- The members `ms` have distinct islands, and no reserve shadows one of them. -/
def State.Apart (s : State) (ms : List Arch) : Prop :=
  ms.Nodup ∧ (∀ m ∈ ms, s.shadowPair m = none) ∧ ∀ m ∈ ms, ∀ m' ∈ ms, ∀ p q : Fin 32, s.islAt m p = s.islAt m' q → m = m' ∧ p = q

theorem State.Apart.tail {m : Arch} {ms : List Arch} (h : s.Apart (m :: ms)) : s.Apart ms := by
  obtain ⟨hn, hs, hd⟩ := h
  exact ⟨(List.nodup_cons.mp hn).2, fun b hb => hs b (List.mem_cons_of_mem _ hb),
    fun b hb c hc => hd b (List.mem_cons_of_mem _ hb) c (List.mem_cons_of_mem _ hc)⟩

/-- The islands of one member. -/
theorem State.Apart.islands_nodup {m : Arch} {ms : List Arch} (h : s.Apart ms) (hm : m ∈ ms) : ((List.finRange 32).map (s.islAt m)).Nodup :=
  (List.nodup_finRange 32).map (fun p q e => by
    obtain ⟨-, -, hd⟩ := h
    exact (hd m hm m hm p q e).2)

/-- What the cycle of the member `m` leaves in an island, but for errors to tell: its own are cycled, the others stay. -/
theorem State.pourOne_isl {m : Arch} {w : Micro} (hsp : s.shadowPair m = none) (hn : ((List.finRange 32).map (s.islAt m)).Nodup)
    {acc : State × List (Arch × List (Isl × PeVec))} (hg : acc.1.ground = s.ground) :
    (∀ p, ((s.pourOne edges lat force acc (m, w)).1.isl[s.islAt m p]).untold = (s.cycled edges lat force (m, w) p acc.1.isl[s.islAt m p]).untold) ∧
    ∀ P : Isl, (∀ p, s.islAt m p ≠ P) → ((s.pourOne edges lat force acc (m, w)).1.isl[P]).untold = (acc.1.isl[P]).untold := by
  have hr := s.pourOne_eq edges lat force (am := (m, w)) hsp hn acc
  generalize s.pourOne edges lat force acc (m, w) = r at hr
  have hm : ∀ P : Isl, (r.1.isl[P]).untold = ((vmods (s.islAt m) (s.cycled edges lat force (m, w)) (List.finRange 32) acc.1.isl)[P]).untold := by
    intro P
    rw [hr]
    dsimp only
    rw [State.mirror_unshadowed, State.tellUe_isl _ _ (g := IslSt.untold) (fun _ => rfl)]
    rw [State.shadowPair_of_ground (State.tellUe_ground ..), ← hsp]
    exact State.shadowPair_of_ground ((State.withIsl_ground _ _).trans hg) m
  refine ⟨fun p => ?_, fun P hP => ?_⟩
  · exact (hm _).trans (congrArg IslSt.untold (vmods_at (s.islAt m) (s.cycled edges lat force (m, w)) hn (List.mem_finRange p) acc.1.isl))
  · exact (hm P).trans (congrArg IslSt.untold (vmods_else (s.islAt m) (s.cycled edges lat force (m, w)) (fun p _ => hP p) acc.1.isl))

/-- A bank swap leaves the PEs, the planes and the waiting accesses. -/
theorem State.cycled_core (am : Arch × Micro) (p : Fin 32) (i : IslSt) :
    (s.cycled edges lat force am p i).core = (s.cycle edges lat force am p i).isl.core := by
  unfold State.cycled
  split <;> rfl

theorem State.cycled_waiting (am : Arch × Micro) (p : Fin 32) (i : IslSt) : (s.cycled edges lat force am p i).waiting = i.waiting := by
  have h : (s.cycle edges lat force am p i).isl.waiting = i.waiting := IslSt.pour_waiting ..
  unfold State.cycled
  split <;> exact h

/-- A cycle does not depend on an error not yet told. -/
theorem State.cycle_of_untold {i j : IslSt} (h : i.untold = j.untold) (am : Arch × Micro) (p : Fin 32) :
    (s.cycle edges lat force am p i).f = (s.cycle edges lat force am p j).f ∧
    (s.cycled edges lat force am p i).core = (s.cycled edges lat force am p j).core := by
  have hl : i.ladle = j.ladle := (congrArg IslSt.ladle h : i.untold.ladle = j.untold.ladle)
  have hc : i.core = j.core := (congrArg IslSt.core h : i.untold.core = j.untold.core)
  have hb : s.brought edges lat force am p i = s.brought edges lat force am p j := by unfold State.brought; rw [hl]
  have hp : ∀ q, ((i.readOn am.2).pour q).f = ((j.readOn am.2).pour q).f ∧ ((i.readOn am.2).pour q).isl.core = ((j.readOn am.2).pour q).isl.core :=
    fun q => ⟨IslSt.pour_f_of_core (i := i.readOn am.2) (j := j.readOn am.2) hc q, IslSt.pour_core (i := i.readOn am.2) (j := j.readOn am.2) hc q⟩
  rw [State.cycled_core, State.cycled_core]
  unfold State.cycle
  rw [hb]
  exact hp _

/-- The pour cycles of distinct members. -/
theorem State.pourOnes_isl {ms : List Arch} (h : s.Apart ms) (w : Micro) (acc : State × List (Arch × List (Isl × PeVec)))
    (hg : acc.1.ground = s.ground) (hu : ∀ m ∈ ms, ∀ p, (acc.1.isl[s.islAt m p]).untold = (s.isl[s.islAt m p]).untold) :
    let r := (ms.map (fun m => (m, w))).foldl (s.pourOne edges lat force) acc
    (∀ P : Isl, (∀ m ∈ ms, ∀ p, s.islAt m p ≠ P) → (r.1.isl[P]).untold = (acc.1.isl[P]).untold) ∧
    (∀ m ∈ ms, ∀ p, ∃ i, i.untold = (s.isl[s.islAt m p]).untold ∧ (r.1.isl[s.islAt m p]).untold = (s.cycled edges lat force (m, w) p i).untold) ∧
    r.2 = acc.2 ++ ms.map (fun m => (m, (List.finRange 32).map (fun p => (s.islAt m p, (s.cycle edges lat force (m, w) p s.isl[s.islAt m p]).f)))) := by
  induction ms generalizing acc with
  | nil => exact ⟨fun _ _ => rfl, fun m hm => absurd hm List.not_mem_nil, (List.append_nil _).symm⟩
  | cons m ms ih =>
    obtain ⟨hn, hs, hd⟩ := h
    have hm : m ∈ m :: ms := List.mem_cons_self
    have hnm := State.Apart.islands_nodup ⟨hn, hs, hd⟩ hm
    have hg1 : (s.pourOne edges lat force acc (m, w)).1.ground = s.ground := by rw [State.pourOne_ground, hg]
    obtain ⟨own, rest⟩ := s.pourOne_isl edges lat force (w := w) (hs m hm) hnm hg
    have hne : ∀ b ∈ ms, ∀ p q, s.islAt m p ≠ s.islAt b q := fun b hb p q e =>
      (List.nodup_cons.mp hn).1 ((hd m hm b (List.mem_cons_of_mem _ hb) p q e).1 ▸ hb)
    have noted : (s.pourOne edges lat force acc (m, w)).2 = _ := congrArg Prod.snd (s.pourOne_eq edges lat force (am := (m, w)) (hs m hm) hnm acc)
    rw [List.map_cons, List.foldl_cons]
    generalize s.pourOne edges lat force acc (m, w) = acc' at hg1 own rest noted ⊢
    obtain ⟨h1, h2, h3⟩ := ih (State.Apart.tail ⟨hn, hs, hd⟩) acc' hg1
      (fun b hb p => (rest _ (fun q => hne b hb q p)).trans (hu b (List.mem_cons_of_mem _ hb) p))
    refine ⟨fun P hP => ?_, fun b hb p => ?_, ?_⟩
    · exact (h1 P (fun b hb => hP b (List.mem_cons_of_mem _ hb))).trans (rest P (hP m hm))
    · rcases List.mem_cons.mp hb with rfl | hb
      · exact ⟨_, hu b hm p, (h1 _ (fun c hc q e => hne c hc p q e.symm)).trans (own p)⟩
      · exact h2 b hb p
    · have hf : ∀ p, (s.cycle edges lat force (m, w) p acc.1.isl[s.islAt m p]).f = (s.cycle edges lat force (m, w) p s.isl[s.islAt m p]).f :=
        fun p => (s.cycle_of_untold edges lat force (hu m hm p) (m, w) p).1
      rw [h3, noted]
      simp only [hf, List.map_cons, List.append_assoc, List.cons_append, List.nil_append]

/-- The pour cycles of a stream: its islands are cycled, and F is noted of each (spec/03 R66; spec/02 R34). -/
theorem State.pourAll_spec {ms : List Arch} (h : s.Apart ms) (w : Micro) :
    let r := s.pourAll (ms.map (fun m => (m, w))) edges lat force
    (∀ m ∈ ms, ∀ p, (r.1.isl[s.islAt m p]).core = (s.cycle edges lat force (m, w) p s.isl[s.islAt m p]).isl.core ∧
      (r.1.isl[s.islAt m p]).waiting = (s.isl[s.islAt m p]).waiting) ∧
    r.2 = ms.map (fun m => (m, (List.finRange 32).map (fun p => (s.islAt m p, (s.cycle edges lat force (m, w) p s.isl[s.islAt m p]).f)))) := by
  intro r
  have hr : r = _ := s.pourAll_eq edges lat force (ms.map (fun m => (m, w)))
  obtain ⟨-, h2, h3⟩ := State.pourOnes_isl edges lat force h w (s, []) rfl (fun _ _ _ => rfl)
  rw [hr]
  refine ⟨fun m hm p => ?_, h3⟩
  obtain ⟨i, hi, hu⟩ := h2 m hm p
  constructor
  · rw [← State.cycled_core, ← (s.cycle_of_untold edges lat force hi (m, w) p).2]
    exact (congrArg IslSt.core hu : (IslSt.untold _).core = (IslSt.untold _).core)
  · exact (congrArg IslSt.waiting hu : (IslSt.untold _).waiting = (IslSt.untold _).waiting).trans
      ((s.cycled_waiting edges lat force (m, w) p i).trans (congrArg IslSt.waiting hi : (IslSt.untold _).waiting = (IslSt.untold _).waiting))

end

end Sys2Proof.Machine
end

section
/-! PROOF. The sequencer registers behind a microword (spec/03 R66, R77 to R80; spec/02 R50 to R52). -/
namespace Sys2Proof.Machine

/-! ### What lattice results leave alone -/

/-- A sequencer but for its trap slots and lattice results. -/
def Seq.latless (q : Seq) : Seq := { q with slot0 := none, slot1 := none, ctx := { q.ctx with red := { q.ctx.red with orL := false, cntL := 0 } } }

/-- A lattice result goes to a trap slot or the lattice results of the running context (spec/04 Table 4.2). -/
theorem Seq.setLat_latless (q : Seq) (gor gcnt orv : Bool) (cnt : BitVec 19) : (q.setLat gor gcnt orv cnt).latless = q.latless := by
  unfold Seq.setLat
  dsimp only
  split
  · split
    · rfl
    · split
      · split <;> rfl
      · rfl
  · rfl

/-- What is read neither of trap slots nor of lattice results. -/
theorem Seq.of_latless {γ : Type} (g : Seq → γ) (hg : ∀ q, g q.latless = g q) {q r : Seq} (h : q.latless = r.latless) : g q = g r := by
  rw [← hg q, h, hg]

theorem State.modSeqs_latless (s : State) (ms : List Arch) {f : Seq → Seq} (h : ∀ q, (f q).latless = q.latless) (b : Arch) :
    ((s.modSeqs ms f).arch[b]).seq.latless = (s.arch[b]).seq.latless := State.modSeqs_seq_keep s ms f h b

/-! ### Reductions -/

/-- The reduction results of a microword with GOR or GCNT, not yet usable (spec/02 R51, R52). -/
def Seq.reduced (q : Seq) (gor gcnt orA orD : Bool) (cntA cntD : Nat) : Seq :=
  let r := q.ctx.red
  let r := if gor then { r with orA := orA, orD := orD, pendOrA := true, pendOrD := true } else r
  let r := if gcnt then { r with cntA := BitVec.ofNat 14 cntA, cntD := BitVec.ofNat 17 cntD, pendCntA := true, pendCntD := true } else r
  { q with ctx := { q.ctx with red := r } }

theorem State.latCombine_latless (s : State) (b : Arch) : ((s.latCombine).arch[b]).seq.latless = (s.arch[b]).seq.latless := by
  unfold State.latCombine
  split
  · rfl
  · dsimp only
    split
    · rfl
    · exact State.modSeqs_latless _ _ (fun q => Seq.setLat_latless ..) b

theorem State.latCombine_keep (s : State) {γ : Type} {g : ArchSt → γ} (h : ∀ y q, g { y with seq := q } = g y) (b : Arch) :
    g ((s.latCombine).arch[b]) = g s.arch[b] := by
  unfold State.latCombine
  split
  · rfl
  · dsimp only
    split
    · rfl
    · exact State.modSeqs_keep _ _ _ h b

theorem State.latCombine_isl (s : State) : (s.latCombine).isl = s.isl ∧ (s.latCombine).pour = s.pour := by
  unfold State.latCombine
  split
  · exact ⟨rfl, rfl⟩
  · dsimp only
    split
    · exact ⟨rfl, rfl⟩
    · exact ⟨State.modSeqs_isl .., State.modSeqs_pour ..⟩

section
variable (s : State) (lead : Arch) (cs : List (Arch × Bool × Nat)) (gor gcnt : Bool)

/-- The results in the members, before the lattice is told. -/
def State.reducedSeqs : State :=
  let twin := (s.arch[lead]).seq.part.twin
  cs.foldl (fun t c => t.modSeq c.1 (fun q => q.reduced gor gcnt c.2.1 (if twin then c.2.1 else cs.any (fun c => c.2.1)) c.2.2
    (if twin then c.2.2 else cs.foldl (fun n c => n + c.2.2) 0))) s

theorem State.setReductions_eq : s.setReductions lead cs gor gcnt = if s.latOn lead && (gor || gcnt) then
      let t := s.reducedSeqs lead cs gor gcnt
      let orD := cs.any (fun c => c.2.1)
      let cntD := cs.foldl (fun n c => n + c.2.2) 0
      let u := t.sendLanes t.latLanes (StraitBody.red orD (BitVec.ofNat 19 cntD) t.self 0)
      State.latCombine { u with lattice := { u.lattice with
        redRx := vmod u.lattice.redRx t.self (fun l => l ++ [(orD, BitVec.ofNat 19 cntD)]), kinds := u.lattice.kinds ++ [(gor, gcnt)] } }
    else s.reducedSeqs lead cs gor gcnt := by
  unfold State.setReductions State.reducedSeqs
  rfl

/-- The reduction results of the members, but for the lattice's (spec/02 R51; spec/04 Table 4.6). -/
theorem State.setReductions_latless (hn : (cs.map Prod.fst).Nodup) {c : Arch × Bool × Nat} (hc : c ∈ cs) :
    ((s.setReductions lead cs gor gcnt).arch[c.1]).seq.latless = ((s.arch[c.1]).seq.reduced gor gcnt c.2.1
      (if (s.arch[lead]).seq.part.twin then c.2.1 else cs.any (fun c => c.2.1)) c.2.2
      (if (s.arch[lead]).seq.part.twin then c.2.2 else cs.foldl (fun n c => n + c.2.2) 0)).latless := by
  have h : ((s.reducedSeqs lead cs gor gcnt).arch[c.1]).seq = _ := foldl_modSeq_seq Prod.fst _ hn hc s
  rw [State.setReductions_eq]
  split
  · exact (State.latCombine_latless _ c.1).trans (congrArg Seq.latless h)
  · rw [h]

/-- What is not of the sequencers stands. -/
theorem State.setReductions_keep {γ : Type} {g : ArchSt → γ} (h : ∀ y q, g { y with seq := q } = g y) (b : Arch) :
    g ((s.setReductions lead cs gor gcnt).arch[b]) = g s.arch[b] := by
  have hr : g ((s.reducedSeqs lead cs gor gcnt).arch[b]) = g s.arch[b] := foldl_modSeq_keep Prod.fst _ h cs s b
  rw [State.setReductions_eq]
  split
  · exact (State.latCombine_keep _ h b).trans hr
  · exact hr

theorem State.setReductions_array : (s.setReductions lead cs gor gcnt).isl = s.isl ∧ (s.setReductions lead cs gor gcnt).pour = s.pour := by
  have h : s.reducedSeqs lead cs gor gcnt = { s with arch := _ } := foldl_modSeq Prod.fst _ cs s
  rw [State.setReductions_eq]
  split
  · obtain ⟨hi, hp⟩ := State.latCombine_isl ({ (s.reducedSeqs lead cs gor gcnt).sendLanes (s.reducedSeqs lead cs gor gcnt).latLanes
      (StraitBody.red (cs.any (fun c => c.2.1)) (BitVec.ofNat 19 (cs.foldl (fun n c => n + c.2.2) 0)) (s.reducedSeqs lead cs gor gcnt).self 0) with
      lattice := _ } : State)
    exact ⟨hi.trans (by rw [h]; rfl), hp.trans (by rw [h]; rfl)⟩
  · rw [h]
    exact ⟨rfl, rfl⟩

end

/-! ### The end of a word -/

/-- The registers behind a word that neither loads the arguments of a record nor sets the mode shadow, before control goes on (spec/03 R66,
R77, R80; spec/04 R106). -/
def Seq.ended (w : Micro) (pc : A13) (due : Bool) (q : Seq) : Seq :=
  { q with
    ctx := { q.ctx with lc := lcAfter w q.ctx.lc, ba := baAfter w q.ctx.ba, uf := q.ctx.ufShadow.getD q.ctx.uf, ufShadow := none }
    lastPc := pc, lastNt := mwNt w, pc := pc, held := false, tnt := q.tnt || (sampled w).contains 14
    defer := if due then satInc q.defer else 0 }

theorem State.endWord_eq {w : Micro} (h1 : mwSpc w ≠ 1) (h5 : mwSpc w ≠ 5) (s s0 : State) (a lead : Arch) (pc : A13) (due : Bool) :
    s.endWord s0 a lead w pc due = s.modSeq a (Seq.ended w pc due) := by
  unfold State.endWord
  rw [decide_eq_false h1]
  simp only [if_neg h5]
  rfl

end Sys2Proof.Machine
end

section
/-! PROOF. The pour cycle of a microword with its reductions and ladle transfers (spec/03 R66; spec/02 R50 to R52; spec/08 R211). -/
namespace Sys2Proof.Machine

/-! ### Contributions -/

section
variable (s : State) (a m : Arch) (w : Micro) (edges : Vector PeVec 4)

/-- The F of the active PEs of `m` at position `p`, in the odd twin the dual form (spec/02 R50, spec/06 Table 6.1). -/
def State.actOf (p : Fin 32) : PeVec :=
  if s.oddTwin m then ~~~(s.isl[s.islAt m p]).k &&& ~~~((s.isl[s.islAt m p]).pour (s.pourInOf a m p w edges)).f
  else (s.isl[s.islAt m p]).k &&& ((s.isl[s.islAt m p]).pour (s.pourInOf a m p w edges)).f

/-- The OR and the count of `m`. -/
def State.orOf : Bool := (List.finRange 32).any (fun p => s.actOf a m w edges p != 0) != s.oddTwin m
def State.cntOf : Nat := ((List.finRange 32).map (fun p => popcount (s.actOf a m w edges p))).sum

/-- The planes F that the cycle notes of `m`. -/
def State.notedOf : List (Isl × PeVec) :=
  (List.finRange 32).map (fun p => (s.islAt m p, ((s.isl[s.islAt m p]).pour (s.pourInOf a m p w edges)).f))

theorem State.contribution_eq : s.contribution m (s.notedOf a m w edges) = (s.orOf a m w edges, s.cntOf a m w edges) := by
  have hz : (s.notedOf a m w edges).map (fun pf => if s.oddTwin m then ~~~((s.isl[pf.1]).k) &&& ~~~pf.2 else (s.isl[pf.1]).k &&& pf.2) =
      (List.finRange 32).map (s.actOf a m w edges) := by
    rw [State.notedOf, List.map_map]
    rfl
  have hb : ∀ z : PeVec, (z != 0#256) = !decide (z = 0#256) := fun _ => rfl
  unfold State.contribution
  dsimp only
  rw [hz]
  unfold State.orOf State.cntOf
  generalize List.finRange 32 = l
  refine Prod.ext ?_ ?_
  · cases s.oddTwin m with
    | false => simp [List.any_map, Function.comp_def, hb]
    | true => simp [List.all_map, Function.comp_def, hb, List.not_any_eq_all_not]
  · show ((l.map (s.actOf a m w edges)).foldl (fun n z => n + popcount z) 0) = _
    rw [List.foldl_map, List.sum_eq_foldl, List.foldl_map]

end

/-! ### The cycle as the word has it -/

/-- T captures every write of this cycle (spec/06 R153). -/
def State.forceOf (s : State) (lead : Arch) : Bool :=
  (s.arch[lead]).seq.part.twin && (s.arch[lead]).twin.force && (s.arch[lead]).seq.ctx.cur.any PourRec.twin

theorem State.cycle_eq (s : State) (a m : Arch) (w : Micro) (edges : Vector PeVec 4) (p : Fin 32) :
    (s.cycle edges (s.latOn (s.leadOf a)) (s.forceOf (s.leadOf a)) (m, w) p s.isl[s.islAt m p]).f =
      ((s.isl[s.islAt m p]).pour (s.pourInOf a m p w edges)).f ∧
    (s.cycle edges (s.latOn (s.leadOf a)) (s.forceOf (s.leadOf a)) (m, w) p s.isl[s.islAt m p]).isl.core =
      ((s.isl[s.islAt m p]).pour (s.pourInOf a m p w edges)).isl.core := by
  have hb : s.brought edges (s.latOn (s.leadOf a)) (s.forceOf (s.leadOf a)) (m, w) p s.isl[s.islAt m p] = s.pourInOf a m p w edges := rfl
  have hc : (IslSt.readOn w s.isl[s.islAt m p]).core = (s.isl[s.islAt m p]).core := rfl
  unfold State.cycle
  rw [hb]
  exact ⟨IslSt.pour_f_of_core hc _, IslSt.pour_core hc _⟩

/-- The pour cycles of the stream of `a` as `w` has them. -/
theorem State.pourAll_word {s : State} {ms : List Arch} (h : s.Apart ms) (a : Arch) (w : Micro) (edges : Vector PeVec 4) :
    let r := s.pourAll (ms.map (fun m => (m, w))) edges (s.latOn (s.leadOf a)) (s.forceOf (s.leadOf a))
    (∀ m ∈ ms, ∀ p, (r.1.isl[s.islAt m p]).core = ((s.isl[s.islAt m p]).pour (s.pourInOf a m p w edges)).isl.core ∧
      (r.1.isl[s.islAt m p]).waiting = (s.isl[s.islAt m p]).waiting) ∧
    r.2 = ms.map (fun m => (m, s.notedOf a m w edges)) := by
  obtain ⟨h1, h2⟩ := State.pourAll_spec (s := s) edges (s.latOn (s.leadOf a)) (s.forceOf (s.leadOf a)) h w
  refine ⟨fun m hm p => ⟨(h1 m hm p).1.trans (s.cycle_eq a m w edges p).2, (h1 m hm p).2⟩, h2.trans ?_⟩
  simp only [(s.cycle_eq a _ w edges _).1, State.notedOf]

/-- The registers of `m` with the reductions of the word. -/
def State.reducedOf (s : State) (a : Arch) (ms : List Arch) (w : Micro) (edges : Vector PeVec 4) (m : Arch) : Seq :=
  let twin := (s.arch[s.leadOf a]).seq.part.twin
  (s.arch[m]).seq.reduced (mwGor w) (mwGcnt w) (s.orOf a m w edges) (if twin then s.orOf a m w edges else ms.any (fun b => s.orOf a b w edges))
    (s.cntOf a m w edges) (if twin then s.cntOf a m w edges else (ms.map (fun b => s.cntOf a b w edges)).sum)

/-- The reductions after the pour cycles, before the ladle's transfers. -/
def State.pourReduced (s : State) (lead : Arch) (ms : List Arch) (w : Micro) (edges : Vector PeVec 4) (force : Bool) : State :=
  let p := s.pourAll (ms.map (fun m => (m, w))) edges (s.latOn lead) force
  if mwGor w || mwGcnt w then p.1.setReductions lead (p.2.map (fun af => (af.1, s.contribution af.1 af.2))) (mwGor w) (mwGcnt w) else p.1

theorem State.pourReduced_spec {s : State} {ms : List Arch} (h : s.Apart ms) (a : Arch) (w : Micro) (edges : Vector PeVec 4) :
    let t := s.pourReduced (s.leadOf a) ms w edges (s.forceOf (s.leadOf a))
    t.pour = s.pour ∧ (∀ m p, t.islAt m p = s.islAt m p) ∧
    (∀ m ∈ ms, ∀ p, (t.isl[s.islAt m p]).core = ((s.isl[s.islAt m p]).pour (s.pourInOf a m p w edges)).isl.core ∧
      (t.isl[s.islAt m p]).waiting = (s.isl[s.islAt m p]).waiting) ∧
    (∀ m ∈ ms, (t.arch[m]).seq.latless = (s.reducedOf a ms w edges m).latless) ∧ ∀ b : Arch, (t.arch[b]).mould = (s.arch[b]).mould := by
  obtain ⟨h1, h2⟩ := State.pourAll_word h a w edges
  have hg := s.pourAll_ground edges (s.latOn (s.leadOf a)) (s.forceOf (s.leadOf a)) (ms.map (fun m => (m, w)))
  unfold State.pourReduced
  dsimp only at h1 ⊢
  generalize s.pourAll (ms.map (fun m => (m, w))) edges (s.latOn (s.leadOf a)) (s.forceOf (s.leadOf a)) = r at h1 h2 hg ⊢
  have hseq : ∀ b : Arch, (r.1.arch[b]).seq = (s.arch[b]).seq := State.of_ground ArchSt.seq (fun _ => rfl) hg
  have hmould : ∀ b : Arch, (r.1.arch[b]).mould = (s.arch[b]).mould := State.of_ground ArchSt.mould (fun _ => rfl) hg
  split
  · have hcs : r.2.map (fun af => (af.1, s.contribution af.1 af.2)) = ms.map (fun m => (m, s.orOf a m w edges, s.cntOf a m w edges)) := by
      rw [h2, List.map_map]
      exact List.map_congr_left (fun m _ => by simp only [Function.comp_apply, State.contribution_eq])
    rw [hcs]
    have hn : ((ms.map (fun m => (m, s.orOf a m w edges, s.cntOf a m w edges))).map Prod.fst).Nodup := by
      rw [List.map_map]
      exact (List.map_id ms).symm ▸ h.1
    obtain ⟨hi, hp⟩ := r.1.setReductions_array (s.leadOf a) (ms.map (fun m => (m, s.orOf a m w edges, s.cntOf a m w edges))) (mwGor w) (mwGcnt w)
    have hm := fun b => Prod.mk.inj (r.1.setReductions_keep (s.leadOf a) (ms.map (fun m => (m, s.orOf a m w edges, s.cntOf a m w edges))) (mwGor w) (mwGcnt w)
      (g := fun y => (y.islmap, y.mould)) (fun _ _ => rfl) b)
    have hl : ∀ m ∈ ms, ((r.1.setReductions (s.leadOf a) (ms.map (fun m => (m, s.orOf a m w edges, s.cntOf a m w edges))) (mwGor w)
        (mwGcnt w)).arch[m]).seq.latless = (s.reducedOf a ms w edges m).latless := by
      intro m hm
      have h := r.1.setReductions_latless (s.leadOf a) _ (mwGor w) (mwGcnt w) hn (List.mem_map_of_mem hm)
      rw [hseq, hseq] at h
      rw [h, List.any_map, List.foldl_map, State.reducedOf, List.sum_eq_foldl, List.foldl_map]
      rfl
    generalize r.1.setReductions (s.leadOf a) _ (mwGor w) (mwGcnt w) = u at hi hp hl hm
    have hi' : ∀ P : Isl, u.isl[P] = r.1.isl[P] := fun P => by rw [hi]
    refine ⟨hp.trans (State.pour_of_ground hg), fun m p => ?_, fun m hm p => ?_, fun m hm => ?_, fun b => (hm b).2.trans (hmould b)⟩
    · unfold State.islAt
      rw [(hm m).1, State.of_ground ArchSt.islmap (fun _ => rfl) hg]
    · exact ⟨(congrArg IslSt.core (hi' _)).trans (h1 m hm p).1, (congrArg IslSt.waiting (hi' _)).trans (h1 m hm p).2⟩
    · exact hl m hm
  · next hno =>
    simp only [Bool.or_eq_true, not_or, Bool.not_eq_true] at hno
    refine ⟨State.pour_of_ground hg, State.islAt_of_ground hg, h1, fun m _ => ?_, hmould⟩
    rw [hseq, State.reducedOf, hno.1, hno.2]
    rfl

theorem State.issuePour_eq (s : State) (lead : Arch) (ms : List Arch) {w : Micro} (h2 : mwSpc w ≠ 2) (edges : Vector PeVec 4) (force : Bool) :
    s.issuePour lead ms (ms.map (fun m => (m, w))) edges w force =
      let u := s.pourReduced lead ms w edges force
      if mwLdl w = 2 then (s.pourAll (ms.map (fun m => (m, w))) edges (s.latOn lead) force).2.foldl (fun t af => (t.planeOut af.1 af.2).mirror af.1) u
      else if mwLdl w = 3 then u.eachArch ms State.viewSlots1
      else if mwLdl w = 4 then u.eachArch ms (fun t a => t.modTwin a (fun x => { x with swapped := true }))
      else u := by
  unfold State.issuePour
  simp only [if_neg h2]
  rfl

/-- The pour cycle of the stream of `a` with its reductions and ladle transfers, where the word posts nothing. -/
theorem State.issuePour_spec {s : State} {ms : List Arch} (h : s.Apart ms) (a : Arch) {w : Micro} (h2 : mwSpc w ≠ 2)
    (hw : mwLdl w = 3 → ∀ m ∈ ms, ∀ p : Fin 32, (s.isl[s.islAt m p]).waiting = []) (edges : Vector PeVec 4) :
    let t := s.issuePour (s.leadOf a) ms (ms.map (fun m => (m, w))) edges w (s.forceOf (s.leadOf a))
    t.pour = s.pour ∧
    (∀ m ∈ ms, ∀ p, (t.isl[s.islAt m p]).core = ((s.isl[s.islAt m p]).pour (s.pourInOf a m p w edges)).isl.core) ∧
    (∀ m ∈ ms, (t.arch[m]).seq.latless = (s.reducedOf a ms w edges m).latless) ∧ ∀ b : Arch, (t.arch[b]).mould = (s.arch[b]).mould := by
  obtain ⟨hp, ha, hi, hs, hm⟩ := State.pourReduced_spec h a w edges
  have key : ∀ t : State, t.works = (s.pourReduced (s.leadOf a) ms w edges (s.forceOf (s.leadOf a))).works →
      t.pour = s.pour ∧
      (∀ m ∈ ms, ∀ p, (t.isl[s.islAt m p]).core = ((s.isl[s.islAt m p]).pour (s.pourInOf a m p w edges)).isl.core) ∧
      (∀ m ∈ ms, (t.arch[m]).seq.latless = (s.reducedOf a ms w edges m).latless) ∧ ∀ b : Arch, (t.arch[b]).mould = (s.arch[b]).mould :=
    fun t ht => ⟨(State.pour_of_works ht).trans hp, fun m hm p => (State.core_of_works ht _).trans (hi m hm p).1,
      fun m hm => (congrArg Seq.latless (State.seq_of_works ht m)).trans (hs m hm),
      fun b => (State.mould_of_works ht b).trans (hm b)⟩
  refine key _ ?_
  rw [State.issuePour_eq s _ ms h2]
  generalize s.pourReduced (s.leadOf a) ms w edges (s.forceOf (s.leadOf a)) = u at ha hi
  dsimp only
  split
  · exact foldl_keep u State.works _ (fun t af => (State.mirror_works ..).trans (State.planeOut_works ..)) _
  · split
    · next h3 =>
      have hk : ∀ m ∈ ms, ∀ p, ∀ P : Isl, P = s.islAt m p → (u.isl[P]).waiting = [] := by
        rintro m hm p P rfl
        exact (hi m hm p).2.trans (hw h3 m hm p)
      exact State.viewSlots1s_idle ms (fun m hm p => hk m hm p _ (ha m p))
    · split
      · exact foldl_keep u State.works _ (fun t b => State.modTwin_works ..) _
      · rfl

end Sys2Proof.Machine
end

section
/-! PROOF. A microword that issues, up to where control goes on (spec/03 R66, R68; spec/08 R212). -/
namespace Sys2Proof.Machine

/-! ### The registers behind the word -/

/-- A latbar counts its number. -/
def Seq.barred (w : Micro) (q : Seq) : Seq := if mwSpc w = 3 then { q with latSeq := q.latSeq + 1 } else q

/-- The registers behind the word `w` at `pc`, with control at `n`. -/
def Seq.onward (w : Micro) (pc : A13) (due : Bool) (n : Next) (q : Seq) : Seq := ((q.ended w pc due).barred w).goNext n

theorem Seq.ended_latless {q r : Seq} (h : q.latless = r.latless) (w : Micro) (pc : A13) (due : Bool) :
    (q.ended w pc due).latless = (r.ended w pc due).latless := Seq.of_latless (fun q => (q.ended w pc due).latless) (fun _ => rfl) h

theorem Seq.barred_latless {q r : Seq} (h : q.latless = r.latless) (w : Micro) : (q.barred w).latless = (r.barred w).latless := by
  refine Seq.of_latless (fun q => (q.barred w).latless) (fun q => ?_) h
  unfold Seq.barred
  split <;> rfl

theorem Seq.goNext_latless {q r : Seq} (h : q.latless = r.latless) (n : Next) : (q.goNext n).latless = (r.goNext n).latless := by
  refine Seq.of_latless (fun q => (q.goNext n).latless) (fun q => ?_) h
  cases n with
  | pop =>
    show Seq.latless (match q.ctx.stack with | r :: rest => _ | [] => _) = Seq.latless (match q.ctx.stack with | r :: rest => _ | [] => _)
    cases q.ctx.stack <;> rfl
  | _ => rfl

/-! ### The barriers -/

theorem State.ringRestarts_works (s : State) (ms : List Arch) : (s.eachArch ms (fun t a => t.ringRestart a true)).works = s.works :=
  foldl_keep s State.works _ (fun t a => State.ringRestart_works t a true) ms

/-- A framebar leaves the ring of each member at its first context. -/
theorem State.ringRestarts_pos (s : State) {ms : List Arch} {m : Arch} (hm : m ∈ ms) :
    ((s.eachArch ms (fun t a => t.ringRestart a true)).arch[m]).ring.pos = 0 := by
  have hr : ∀ (t : State) (a b : Arch), ((t.ringRestart a true).arch[b]).ring.pos = if b = a then 0 else (t.arch[b]).ring.pos := by
    intro t a b
    have h := State.ringRestart_array t a true
    have ha : (t.ringRestart a true).arch = vmod t.arch a (fun x => { x with ring := x.ring.restarted }) := congrArg (fun x => x.2.1) h
    rw [ha, vmod_apply]
    split <;> rfl
  unfold State.eachArch
  induction ms generalizing s with
  | nil => exact absurd hm List.not_mem_nil
  | cons a ms ih =>
    rw [List.foldl_cons]
    by_cases h : m ∈ ms
    · exact ih _ h
    · have ha : m = a := (List.mem_cons.mp hm).resolve_right h
      have hk : ∀ (l : List Arch) (t : State), (t.arch[m]).ring.pos = 0 → ((l.foldl (fun t a => t.ringRestart a true) t).arch[m]).ring.pos = 0 := by
        intro l
        induction l with
        | nil => exact fun _ ht => ht
        | cons b l il =>
          intro t ht
          refine il _ ?_
          rw [hr, ht, ite_self]
      refine hk ms _ ?_
      rw [hr, if_pos ha]

/-- What a word of the plain kinds and the barriers leaves at its end. -/
theorem State.spcEnd_spec (s : State) (lead : Arch) {ms : List Arch} (hn : ms.Nodup) (w : Micro) (ckpt : Bool) (pc : A13) :
    (s.spcEnd lead ms w ckpt pc).pour = s.pour ∧ (∀ P : Isl, ((s.spcEnd lead ms w ckpt pc).isl[P]).core = (s.isl[P]).core) ∧
    (∀ m ∈ ms, ((s.spcEnd lead ms w ckpt pc).arch[m]).seq = (s.arch[m]).seq.barred w) ∧
    (mwSpc w = 4 → ∀ m ∈ ms, ((s.spcEnd lead ms w ckpt pc).arch[m]).ring.pos = 0) ∧
    ∀ b : Arch, ((s.spcEnd lead ms w ckpt pc).arch[b]).mould = (s.arch[b]).mould := by
  have key : ∀ t : State, t.works = s.works → mwSpc w ≠ 3 → t.pour = s.pour ∧ (∀ P : Isl, (t.isl[P]).core = (s.isl[P]).core) ∧
      (∀ m ∈ ms, (t.arch[m]).seq = (s.arch[m]).seq.barred w) ∧ ∀ b : Arch, (t.arch[b]).mould = (s.arch[b]).mould := fun t ht h3 =>
    ⟨State.pour_of_works ht, State.core_of_works ht, fun m _ => by rw [Seq.barred, if_neg h3]; exact State.seq_of_works ht m, State.mould_of_works ht⟩
  unfold State.spcEnd
  split
  · next h3 =>
    refine ⟨State.modSeqs_pour .., State.core_of_isl (State.modSeqs_isl ..), fun m hm => ?_, fun h4 => absurd (h3.symm.trans h4) (by decide),
      State.modSeqs_keep _ _ _ (g := ArchSt.mould) (fun _ _ => rfl)⟩
    rw [State.modSeqs_seq _ hn hm, Seq.barred, if_pos h3]
  · next h3 =>
    split
    · obtain ⟨hp, hi, hs, hm⟩ := key _ (State.ringRestarts_works s ms) h3
      exact ⟨hp, hi, hs, fun _ m hm => State.ringRestarts_pos s hm, hm⟩
    · next h4 =>
      split
      · obtain ⟨hp, hi, hs, hm⟩ := key (s.checkpoint lead ms pc) (foldl_keep s State.works _ (fun t a => State.modTwin_works ..) ms) h3
        exact ⟨hp, hi, hs, fun h => absurd h h4, hm⟩
      · obtain ⟨hp, hi, hs, hm⟩ := key s rfl h3
        exact ⟨hp, hi, hs, fun h => absurd h h4, hm⟩

/-! ### The word in all members -/

/-- Where control goes on in `m`: in a twin pair each twin goes its own way. -/
def State.nextIn (s : State) (lead m : Arch) (w : Micro) : Next :=
  if (s.arch[lead]).seq.part.twin then s.nextOf m lead w (s.arch[m]).seq.pc else s.nextOf lead lead w (s.arch[lead]).seq.pc

/-- `u` is the stream of `a` behind the word `w`, but for a park that ends at once. -/
def State.Onward (s : State) (a : Arch) (ms : List Arch) (w : Micro) (edges : Vector PeVec 4) (u : State) : Prop :=
  u.pour = s.pour ∧
  (∀ m ∈ ms, ∀ p, (u.isl[s.islAt m p]).core = ((s.isl[s.islAt m p]).pour (s.pourInOf a m p w edges)).isl.core) ∧
  (∀ m ∈ ms, (u.arch[m]).seq.latless = ((s.reducedOf a ms w edges m).onward w (s.arch[m]).seq.pc
    (s.dueTrap (s.leadOf a) ms).isSome (s.nextIn (s.leadOf a) m w)).latless) ∧
  (mwSpc w = 4 → ∀ m ∈ ms, (u.arch[m]).ring.pos = 0) ∧ ∀ b : Arch, (u.arch[b]).mould = (s.arch[b]).mould

section
variable {s u : State} {a : Arch} {ms : List Arch} {w : Micro} {edges : Vector PeVec 4} (h : s.Onward a ms w edges u)
include h

theorem State.Onward.registers {m : Arch} (hm : m ∈ ms) : (u.arch[m]).seq.latless = ((s.reducedOf a ms w edges m).onward w (s.arch[m]).seq.pc
    (s.dueTrap (s.leadOf a) ms).isSome (s.nextIn (s.leadOf a) m w)).latless := by
  obtain ⟨-, -, hq, -⟩ := h
  exact hq m hm

theorem State.Onward.ring (h4 : mwSpc w = 4) {m : Arch} (hm : m ∈ ms) : (u.arch[m]).ring.pos = 0 := by
  obtain ⟨-, -, -, hr, -⟩ := h
  exact hr h4 m hm

theorem State.Onward.mould (b : Arch) : (u.arch[b]).mould = (s.arch[b]).mould := by
  obtain ⟨-, -, -, -, hm⟩ := h
  exact hm b

end

/-- The ends of the word in the members, and what the control registers take. -/
def State.endIn (s s0 : State) (lead : Arch) (ms : List Arch) (w : Micro) : State :=
  ms.foldl (fun t m => t.modSeq m (fun q => q.ended w (s0.arch[m]).seq.pc (s0.dueTrap lead ms).isSome)) s
def State.goIn (s s0 : State) (lead : Arch) (ms : List Arch) (w : Micro) : State :=
  ms.foldl (fun t m => t.modSeq m (fun q => q.goNext (s0.nextIn lead m w))) s

theorem foldl_modSeq_array (f : Arch → Seq → Seq) (ms : List Arch) (s : State) :
    (ms.foldl (fun t m => t.modSeq m (f m)) s).isl = s.isl ∧ (ms.foldl (fun t m => t.modSeq m (f m)) s).pour = s.pour := by
  have h := foldl_modSeq id f ms s
  rw [show (fun (t : State) m => t.modSeq m (f m)) = fun t m => t.modSeq (id m) (f m) from rfl, h]
  exact ⟨rfl, rfl⟩

theorem foldl_modSeq_id {f : Arch → Seq → Seq} {ms : List Arch} (hn : ms.Nodup) {m : Arch} (hm : m ∈ ms) (s : State) :
    ((ms.foldl (fun t m => t.modSeq m (f m)) s).arch[m]).seq = f m (s.arch[m]).seq :=
  foldl_modSeq_seq id f (by rwa [List.map_id]) hm s

/-- The stream behind the pour cycle is led on to where the word's control stands. -/
theorem State.Onward.of_poured {s u : State} {a : Arch} {ms : List Arch} {w : Micro} {edges : Vector PeVec 4} (hn : ms.Nodup) (hp : u.pour = s.pour)
    (hi : ∀ m ∈ ms, ∀ p, (u.isl[s.islAt m p]).core = ((s.isl[s.islAt m p]).pour (s.pourInOf a m p w edges)).isl.core)
    (hs : ∀ m ∈ ms, (u.arch[m]).seq.latless = (s.reducedOf a ms w edges m).latless)
    (hmould : ∀ b : Arch, (u.arch[b]).mould = (s.arch[b]).mould) (ckpt : Bool) (pc : A13) (x : Lattice) :
    s.Onward a ms w edges (({ (u.endIn s (s.leadOf a) ms w).spcEnd (s.leadOf a) ms w ckpt pc with lattice := x } : State).goIn s (s.leadOf a) ms w) := by
  obtain ⟨hp1, hi1, hs1, hr1, hm1⟩ := (u.endIn s (s.leadOf a) ms w).spcEnd_spec (s.leadOf a) hn w ckpt pc
  obtain ⟨ie, pe⟩ := foldl_modSeq_array (fun m q => q.ended w (s.arch[m]).seq.pc (s.dueTrap (s.leadOf a) ms).isSome) ms u
  have he : ∀ m ∈ ms, ((u.endIn s (s.leadOf a) ms w).arch[m]).seq = (u.arch[m]).seq.ended w (s.arch[m]).seq.pc (s.dueTrap (s.leadOf a) ms).isSome :=
    fun m hm =>
    foldl_modSeq_id (f := fun m q => q.ended w (s.arch[m]).seq.pc (s.dueTrap (s.leadOf a) ms).isSome) hn hm u
  have me : ∀ b : Arch, ((u.endIn s (s.leadOf a) ms w).arch[b]).mould = (u.arch[b]).mould :=
    foldl_modSeq_keep id (fun m q => q.ended w (s.arch[m]).seq.pc (s.dueTrap (s.leadOf a) ms).isSome) (g := ArchSt.mould) (fun _ _ => rfl) ms u
  generalize (u.endIn s (s.leadOf a) ms w).spcEnd (s.leadOf a) ms w ckpt pc = v at hp1 hi1 hs1 hr1 hm1 ⊢
  obtain ⟨ig, pg⟩ := foldl_modSeq_array (fun m q => q.goNext (s.nextIn (s.leadOf a) m w)) ms { v with lattice := x }
  refine ⟨?_, fun m hm p => ?_, fun m hm => ?_, fun h4 m hm => ?_, fun b => ?_⟩
  · exact pg.trans (hp1.trans (pe.trans hp))
  · exact (State.core_of_isl ig _).trans ((hi1 _).trans ((State.core_of_isl ie _).trans (hi m hm p)))
  · have hg : (((({ v with lattice := x } : State).goIn s (s.leadOf a) ms w).arch[m])).seq = (v.arch[m]).seq.goNext (s.nextIn (s.leadOf a) m w) :=
      foldl_modSeq_id (f := fun m q => q.goNext (s.nextIn (s.leadOf a) m w)) hn hm _
    rw [hg]
    refine Seq.goNext_latless ?_ _
    show (v.arch[m]).seq.latless = _
    rw [hs1 m hm, he m hm]
    exact Seq.barred_latless (Seq.ended_latless (hs m hm) _ _ _) _
  · have hg : ((({ v with lattice := x } : State).goIn s (s.leadOf a) ms w).arch[m]).ring = (v.arch[m]).ring :=
      foldl_modSeq_keep id (fun m q => q.goNext (s.nextIn (s.leadOf a) m w)) (g := ArchSt.ring) (fun _ _ => rfl) ms _ m
    rw [hg, hr1 h4 m hm]
  · refine Eq.trans ?_ ((hm1 b).trans ((me b).trans (hmould b)))
    exact foldl_modSeq_keep id (fun m q => q.goNext (s.nextIn (s.leadOf a) m w)) (g := ArchSt.mould) (fun _ _ => rfl) ms { v with lattice := x } b

/-- The steps of a word that neither loads arguments nor sets the mode shadow. -/
theorem State.issued_eq (s : State) (lead : Arch) (l : List Arch) {w : Micro} (h1 : mwSpc w ≠ 1) (h5 : mwSpc w ≠ 5) (edges : Vector PeVec 4) :
    ∃ cmp same ckpt x, s.issued lead (lead :: l) ((lead :: l).map (fun m => (m, w))) edges =
      ((({ (((s.issuePour lead (lead :: l) ((lead :: l).map (fun m => (m, w))) edges w (s.forceOf lead)).twinCheck (lead :: l)
            (s.arch[lead]).seq.part.twin cmp same (s.arch[lead]).seq.pc).endIn s lead (lead :: l) w).spcEnd lead (lead :: l) w ckpt
            (s.arch[lead]).seq.pc with lattice := x } : State).goIn s lead (lead :: l) w).leadOn lead (lead :: l) w
          (s.nextOf lead lead w (s.arch[lead]).seq.pc) (s.arch[lead]).seq.ctx.stack.isEmpty).stepped lead (lead :: l) := by
  have hE : ∀ v : State, ((lead :: l).map (fun m => (m, w))).foldl (fun t aw => t.endWord s aw.1 lead aw.2 (s.arch[aw.1]).seq.pc
      (s.dueTrap lead (lead :: l)).isSome) v = v.endIn s lead (lead :: l) w := by
    intro v
    rw [List.foldl_map]
    simp only [State.endWord_eq h1 h5]
    rfl
  have hG : ∀ v : State, (((lead :: l).map (fun m => (m, w))).map (fun aw =>
      (aw.1, s.nextOf (if (s.arch[lead]).seq.part.twin then aw.1 else lead) lead aw.2 (s.arch[aw.1]).seq.pc))).foldl (fun t an => t.modSeq an.1 (fun x =>
        x.goNext (if (s.arch[lead]).seq.part.twin then an.2 else s.nextOf lead lead w (s.arch[lead]).seq.pc))) v = v.goIn s lead (lead :: l) w := by
    intro v
    rw [List.map_map, List.foldl_map]
    unfold State.goIn State.nextIn
    refine congrArg (fun f => List.foldl f v (lead :: l)) (funext fun t => funext fun m => ?_)
    by_cases h : (s.arch[lead]).seq.part.twin = true
    · simp only [Function.comp_apply, if_pos h]
    · simp only [Function.comp_apply, if_neg h]
  have hN : ((((lead :: l).map (fun m => (m, w))).map (fun aw => (aw.1, s.nextOf (if (s.arch[lead]).seq.part.twin then aw.1 else lead) lead aw.2
      (s.arch[aw.1]).seq.pc))).headD (lead, .dispatch)).2 = s.nextOf lead lead w (s.arch[lead]).seq.pc :=
    congrArg (fun a => s.nextOf a lead w (s.arch[lead]).seq.pc) (ite_self lead)
  unfold State.issued
  dsimp only
  rw [hN, hE, hG]
  exact ⟨_, _, _, _, rfl⟩

/-- A word that neither posts, loads arguments nor sets the mode shadow, in every member of its stream (spec/03 R66). -/
theorem State.issued_onward {s : State} {a : Arch} {l : List Arch} (h : s.Apart (s.leadOf a :: l)) {w : Micro} (h1 : mwSpc w ≠ 1) (h2 : mwSpc w ≠ 2)
    (h5 : mwSpc w ≠ 5) (hw : mwLdl w = 3 → ∀ m ∈ s.leadOf a :: l, ∀ p : Fin 32, (s.isl[s.islAt m p]).waiting = []) (edges : Vector PeVec 4) :
    ∃ u, s.Onward a (s.leadOf a :: l) w edges u ∧
      s.issued (s.leadOf a) (s.leadOf a :: l) ((s.leadOf a :: l).map (fun m => (m, w))) edges =
        (u.leadOn (s.leadOf a) (s.leadOf a :: l) w (s.nextOf (s.leadOf a) (s.leadOf a) w (s.arch[s.leadOf a]).seq.pc)
          (s.arch[s.leadOf a]).seq.ctx.stack.isEmpty).stepped (s.leadOf a) (s.leadOf a :: l) := by
  obtain ⟨hp, hi, hs, hm⟩ := State.issuePour_spec h a h2 hw edges
  have key : ∀ v : State, v.works = (s.issuePour (s.leadOf a) (s.leadOf a :: l) ((s.leadOf a :: l).map (fun m => (m, w))) edges w
      (s.forceOf (s.leadOf a))).works → ∀ ckpt pc x, s.Onward a (s.leadOf a :: l) w edges
        (({ (v.endIn s (s.leadOf a) (s.leadOf a :: l) w).spcEnd (s.leadOf a) (s.leadOf a :: l) w ckpt pc with lattice := x } : State).goIn s
          (s.leadOf a) (s.leadOf a :: l) w) := fun v hv =>
    State.Onward.of_poured h.1 ((State.pour_of_works hv).trans hp) (fun m hm p => (State.core_of_works hv _).trans (hi m hm p))
      (fun m hm => (congrArg Seq.latless (State.seq_of_works hv m)).trans (hs m hm))
      (fun b => (State.mould_of_works hv b).trans (hm b))
  obtain ⟨cmp, same, ckpt, x, he⟩ := s.issued_eq (s.leadOf a) l h1 h5 edges
  exact ⟨_, key _ (State.twinCheck_works ..) _ _ _, he⟩

end Sys2Proof.Machine
end

section
/-! PROOF. States in which a microword finds the same: they differ in the modes of the sequencers and in what no word reads (spec/03 R66). -/
namespace Sys2Proof.Machine

/-- What a word may read of an archipelago: all but the mode of its sequencer and the count of corrected fetches. -/
def ArchSt.readable (y : ArchSt) : ArchSt := { y with seq := { y.seq with mode := .running }, mould := { y.mould with ceCnt := 0 } }

/-- A word reads the same in `t` as in `s`. -/
def State.Like (s t : State) : Prop :=
  t.isl = s.isl ∧ t.sprue = s.sprue ∧ t.gradeC = s.gradeC ∧ ∀ b : Arch, (t.arch[b]).readable = (s.arch[b]).readable

theorem State.Like.refl (s : State) : s.Like s := ⟨rfl, rfl, rfl, fun _ => rfl⟩

theorem State.Like.trans {s t u : State} (h : s.Like t) (k : t.Like u) : s.Like u := by
  obtain ⟨h1, h2, h3, h4⟩ := h
  obtain ⟨k1, k2, k3, k4⟩ := k
  exact ⟨k1.trans h1, k2.trans h2, k3.trans h3, fun b => (k4 b).trans (h4 b)⟩

section
variable {s t : State}

theorem State.islAt_congr (hm : ∀ b : Arch, (t.arch[b]).islmap = (s.arch[b]).islmap) : t.islAt = s.islAt := by
  funext b p
  rw [State.islAt, State.islAt, hm]

theorem State.streamOf_congr (hg : t.gradeC = s.gradeC) (hp : ∀ b : Arch, (t.arch[b]).seq.part = (s.arch[b]).seq.part) :
    t.streamOf = s.streamOf := by
  have hpr : t.present = s.present := by rw [State.present, State.present, hg]
  funext b
  unfold State.streamOf
  simp only [hpr, hp]

theorem State.Like.isl (h : s.Like t) : t.isl = s.isl := by
  obtain ⟨hi, -⟩ := h
  exact hi

theorem State.Like.sprue (h : s.Like t) : t.sprue = s.sprue := by
  obtain ⟨-, hs, -⟩ := h
  exact hs

theorem State.Like.gradeC (h : s.Like t) : t.gradeC = s.gradeC := by
  obtain ⟨-, -, hg, -⟩ := h
  exact hg

/-- What is read of the archipelagos alike. -/
theorem State.Like.arch (h : s.Like t) {γ : Type} (g : ArchSt → γ) (hg : ∀ y, g y.readable = g y) (b : Arch) : g t.arch[b] = g s.arch[b] := by
  obtain ⟨-, -, -, hb⟩ := h
  rw [← hg, hb b, hg]

theorem State.Like.seq (h : s.Like t) {γ : Type} (g : Seq → γ) (hg : ∀ q, g { q with mode := .running } = g q) (b : Arch) :
    g (t.arch[b]).seq = g (s.arch[b]).seq := h.arch (fun y => g y.seq) (fun y => hg y.seq) b

variable (h : s.Like t)
include h

theorem State.Like.ctx (b : Arch) : (t.arch[b]).seq.ctx = (s.arch[b]).seq.ctx := h.seq Seq.ctx (fun _ => rfl) b
theorem State.Like.part (b : Arch) : (t.arch[b]).seq.part = (s.arch[b]).seq.part := h.seq Seq.part (fun _ => rfl) b
theorem State.Like.pc (b : Arch) : (t.arch[b]).seq.pc = (s.arch[b]).seq.pc := h.seq Seq.pc (fun _ => rfl) b
theorem State.Like.queue (b : Arch) : (t.arch[b]).seq.queue = (s.arch[b]).seq.queue := h.seq Seq.queue (fun _ => rfl) b
theorem State.Like.inTrap (b : Arch) : (t.arch[b]).seq.inTrap = (s.arch[b]).seq.inTrap := h.seq Seq.inTrap (fun _ => rfl) b
theorem State.Like.nxtLock (b : Arch) : (t.arch[b]).seq.nxtLock = (s.arch[b]).seq.nxtLock := h.seq Seq.nxtLock (fun _ => rfl) b
theorem State.Like.islmap (b : Arch) : (t.arch[b]).islmap = (s.arch[b]).islmap := h.arch ArchSt.islmap (fun _ => rfl) b
theorem State.Like.twin (b : Arch) : (t.arch[b]).twin = (s.arch[b]).twin := h.arch ArchSt.twin (fun _ => rfl) b

theorem State.Like.islAt : t.islAt = s.islAt := State.islAt_congr h.islmap

theorem State.Like.oddTwin : t.oddTwin = s.oddTwin := by
  funext b
  rw [State.oddTwin, State.oddTwin, h.part]

theorem State.Like.latOn : t.latOn = s.latOn := by
  funext b
  rw [State.latOn, State.latOn, h.part, h.inTrap]

theorem State.Like.shadowPair : t.shadowPair = s.shadowPair := by
  funext b
  have ht := h.arch ArchSt.tide (fun _ => rfl) b
  have hr := h.arch ArchSt.rslot (fun _ => rfl) b
  unfold State.shadowPair
  simp only [ht, hr, h.islmap]

theorem State.Like.streamOf : t.streamOf = s.streamOf := State.streamOf_congr h.gradeC h.part

theorem State.Like.leadOf : t.leadOf = s.leadOf := by
  funext b
  rw [State.leadOf, State.leadOf, h.streamOf]

theorem State.Like.bandOf : t.bandOf = s.bandOf := by
  funext b
  unfold State.bandOf
  simp only [h.part, h.streamOf]

theorem State.Like.lfull : t.lfull = s.lfull := by
  funext b
  unfold State.lfull State.bankFull State.coverMask State.ladleEntries State.dataArch
  simp only [h.isl, h.sprue, h.oddTwin, h.islAt]

theorem State.Like.orUsed : t.orUsed = s.orUsed := by
  funext b lead d
  unfold State.orUsed
  simp only [h.ctx, h.latOn, h.oddTwin]

theorem State.Like.cntUsed : t.cntUsed = s.cntUsed := by
  funext b lead
  unfold State.cntUsed
  simp only [h.ctx, h.latOn]

theorem State.Like.cond : t.cond = s.cond := by
  funext b lead w c
  unfold State.cond
  simp only [h.ctx, h.orUsed, h.cntUsed, h.lfull, h.queue, h.twin]

theorem State.Like.waitTrue : t.waitTrue = s.waitTrue := by
  funext lead ms w
  unfold State.waitTrue
  simp only [h.lfull, h.queue, h.cond]

theorem State.Like.nextOf : t.nextOf = s.nextOf := by
  funext b lead w pc
  unfold State.nextOf
  simp only [h.cond]

theorem State.Like.newsPlane : t.newsPlane = s.newsPlane := by
  funext b p w odd lat rf rl edges
  unfold State.newsPlane State.xBit
  simp only [h.isl, h.islAt]

theorem State.Like.pourInOf : t.pourInOf = s.pourInOf := by
  funext a m p w edges
  unfold State.pourInOf
  simp only [h.isl, h.islAt, h.leadOf, h.ctx, h.part, h.twin, h.oddTwin, h.latOn, h.bandOf, h.newsPlane]

theorem State.Like.wordFault : t.wordFault = s.wordFault := by
  funext b lead w pc
  unfold State.wordFault
  simp only [h.ctx, h.nxtLock, h.part, h.cond]

theorem State.Like.wants : t.wants = s.wants := by
  funext lead w
  unfold State.wants
  simp only [h.ctx]

theorem State.Like.frameBarrier : t.frameBarrier = s.frameBarrier := by
  funext b
  unfold State.frameBarrier State.ladleEntries State.dataArch
  simp only [h.isl, h.sprue, h.lfull, h.oddTwin, h.islAt]

theorem State.Like.redValue : t.redValue = s.redValue := by
  funext b lead k
  unfold State.redValue
  simp only [h.ctx, h.latOn, h.cntUsed]

theorem State.Like.valueDiffers : t.valueDiffers = s.valueDiffers := by
  funext lead ms k
  unfold State.valueDiffers
  simp only [h.part, h.redValue]

theorem State.Like.tnt (b : Arch) : (t.arch[b]).seq.tnt = (s.arch[b]).seq.tnt := h.seq Seq.tnt (fun _ => rfl) b

/-- A word has the same whole effect from states in which it reads the same. -/
theorem State.Like.issued (hp : t.pour = s.pour) {a : Arch} {ms : List Arch} {w : Micro} {edges : Vector PeVec 4} {u : State}
    (hi : t.Issued a ms w edges u) : s.Issued a ms w edges u := by
  unfold State.Issued State.Poured State.Counted State.Goes State.Posts at hi ⊢
  simp only [h.isl, h.islAt, h.leadOf, h.ctx, h.part, h.pc, h.tnt, h.pourInOf, h.oddTwin, h.orUsed, h.cond, h.redValue, h.valueDiffers, hp] at hi
  exact hi

end

/-- A change of modes. -/
theorem State.Like.modes (s : State) (ms : List Arch) (x : SeqMode) : s.Like (s.modSeqs ms (fun q => { q with mode := x })) :=
  ⟨State.modSeqs_isl .., State.modSeqs_sprue .., by rw [State.modSeqs_eq], fun b => by
    rw [State.modSeqs_eq]
    exact vmods_keep id (fun _ y => { y with seq := { y.seq with mode := x } }) (g := ArchSt.readable) (fun _ _ => rfl) ms s.arch b⟩

end Sys2Proof.Machine
end

section
/-! PROOF. The whole effect of a word that does not leave its routine (spec/03 R66, R68, R72; spec/02 R50 to R52). -/
namespace Sys2Proof.Machine

/-! ### Where control goes -/

/-- A word that does not leave its routine goes on in it, or parks where the condition of its WAIT is false. -/
theorem State.leadOn_stays {s : State} {a : Arch} {w : Micro} (hl : ¬ s.Leaves a w) (u : State) (ms : List Arch) :
    u.leadOn (s.leadOf a) ms w (s.nextOf (s.leadOf a) (s.leadOf a) w (s.arch[s.leadOf a]).seq.pc) (s.arch[s.leadOf a]).seq.ctx.stack.isEmpty =
      if mwNxt w = 7 ∧ u.waitTrue (s.leadOf a) ms w = true then u.modSeqs ms (fun x => { x with mode := .running }) else u := by
  unfold State.Leaves at hl
  obtain ⟨h6, h3⟩ := not_or.mp hl
  have hn : ∀ n : BitVec 3, n = 0 ∨ n = 1 ∨ n = 2 ∨ n = 3 ∨ n = 4 ∨ n = 5 ∨ n = 6 ∨ n = 7 := by decide
  unfold State.nextOf State.leadOn
  rcases hn (mwNxt w) with e | e | e | e | e | e | e | e
  · simp [e]
  · simp [e]
  · simp only [e]
    cases s.cond (s.leadOf a) (s.leadOf a) w (mwCond w).toNat <;> simp
  · simp only [e, true_and] at h3 ⊢
    cases hc : s.cond (s.leadOf a) (s.leadOf a) w (mwCond w).toNat with
    | false => simp
    | true =>
      cases hs : (s.arch[s.leadOf a]).seq.ctx.stack with
      | nil => exact absurd ⟨hc, hs⟩ h3
      | cons r l => simp
  · simp [e]
  · simp [e]
  · exact absurd e h6
  · simp [e]

/-- Next addresses by NXT (spec/03 Table 3.4). -/
theorem State.nextOf_cases (s : State) (a lead : Arch) (w : Micro) (pc : A13) :
    (mwNxt w = 0 → s.nextOf a lead w pc = .goto (pc + 1)) ∧
    (mwNxt w = 1 → s.nextOf a lead w pc = .goto (if s.cond a lead w (mwCond w).toNat then mwTgt w else pc + 1)) ∧
    (mwNxt w = 2 → s.nextOf a lead w pc = if s.cond a lead w (mwCond w).toNat then .call (mwTgt w) (pc + 1) else .goto (pc + 1)) ∧
    (mwNxt w = 3 → s.nextOf a lead w pc = if s.cond a lead w (mwCond w).toNat then .pop else .goto (pc + 1)) ∧
    (mwNxt w = 7 → s.nextOf a lead w pc = .wait (pc + 1)) := by
  unfold State.nextOf
  refine ⟨fun e => ?_, fun e => ?_, fun e => ?_, fun e => ?_, fun e => ?_⟩ <;> simp only [e] <;> rfl

/-- The bits that a multiway branch sets, from its conditions. -/
def wayBits (c : Nat → Bool) (ks : List Nat) : A13 :=
  (ks.zipIdx).foldl (fun (acc : A13) ki => if c ki.1 then acc ||| (1 <<< ki.2) else acc) 0

theorem getLsbD_wayBits_two (c : Nat → Bool) (f : Nat) {j : Nat} (hj : j < 13) :
    (wayBits c [f, f + 1]).getLsbD j = (decide (j < 2) && c (f + j)) := by
  have h : ∀ b0 b1 : Bool, ∀ j < 13, ((if b1 then (if b0 then (0 : A13) ||| (1 <<< 0) else 0) ||| (1 <<< 1) else
      if b0 then (0 : A13) ||| (1 <<< 0) else 0) : A13).getLsbD j = if j = 0 then b0 else if j = 1 then b1 else false := by decide
  refine (h (c f) (c (f + 1)) j hj).trans ?_
  rcases j with _ | _ | j
  · rfl
  · rfl
  · simp

theorem getLsbD_wayBits_four (c : Nat → Bool) (f : Nat) {j : Nat} (hj : j < 13) :
    (wayBits c [f, f + 1, f + 2, f + 3]).getLsbD j = (decide (j < 4) && c (f + j)) := by
  have h : ∀ b0 b1 b2 b3 : Bool, ∀ j < 13, (wayBits (fun k => if k = 0 then b0 else if k = 1 then b1 else if k = 2 then b2 else b3) [0, 1, 2, 3]).getLsbD j =
      if j = 0 then b0 else if j = 1 then b1 else if j = 2 then b2 else if j = 3 then b3 else false := by decide
  refine (h (c f) (c (f + 1)) (c (f + 2)) (c (f + 3)) j hj).trans ?_
  rcases j with _ | _ | _ | _ | j
  · rfl
  · rfl
  · rfl
  · rfl
  · simp

/-- The address of a multiway branch: bit `j` of the target, or that of the condition it samples. -/
theorem State.nextOf_multiway (s : State) (a lead : Arch) (w : Micro) (pc : A13) :
    (mwNxt w = 4 → ∃ p, s.nextOf a lead w pc = .goto p ∧ ∀ j < 13, p.getLsbD j = ((mwTgt w).getLsbD j ||
      (decide (j < 2) && s.cond a lead w (4 * ((mwMwsel w).toNat % 4) + 2 * ((mwMwsel w).toNat / 4 % 2) + j)))) ∧
    (mwNxt w = 5 → ∃ p, s.nextOf a lead w pc = .goto p ∧ ∀ j < 13, p.getLsbD j = ((mwTgt w).getLsbD j ||
      (decide (j < 4) && s.cond a lead w (4 * ((mwMwsel w).toNat % 4) + j)))) := by
  refine ⟨fun e => ⟨mwTgt w ||| wayBits (s.cond a lead w) (sampled w), ?_, fun j hj => ?_⟩,
    fun e => ⟨mwTgt w ||| wayBits (s.cond a lead w) (sampled w), ?_, fun j hj => ?_⟩⟩
  · unfold State.nextOf
    simp only [e]
    rfl
  · have hk : sampled w = [4 * ((mwMwsel w).toNat % 4) + 2 * ((mwMwsel w).toNat / 4 % 2),
        4 * ((mwMwsel w).toNat % 4) + 2 * ((mwMwsel w).toNat / 4 % 2) + 1] := by
      unfold sampled; simp only [e]; rfl
    rw [BitVec.getLsbD_or, hk, getLsbD_wayBits_two _ _ hj]
  · unfold State.nextOf
    simp only [e]
    rfl
  · have hk : sampled w = [4 * ((mwMwsel w).toNat % 4), 4 * ((mwMwsel w).toNat % 4) + 1, 4 * ((mwMwsel w).toNat % 4) + 2,
        4 * ((mwMwsel w).toNat % 4) + 3] := by
      unfold sampled; simp only [e]; rfl
    rw [BitVec.getLsbD_or, hk, getLsbD_wayBits_four _ _ hj]

/-! ### The registers -/

/-- A sequencer but for its place, its mode and what the lattice and latbars count. -/
def Seq.offPlace (q : Seq) : Seq := { q.latless with pc := 0, mode := .running, latSeq := 0, ctx := { q.latless.ctx with stack := [] } }

theorem Seq.goNext_offPlace (q : Seq) (n : Next) : (q.goNext n).offPlace = q.offPlace := by
  cases n with
  | pop =>
    show Seq.offPlace (match q.ctx.stack with | r :: rest => _ | [] => _) = _
    cases q.ctx.stack <;> rfl
  | _ => rfl

theorem Seq.barred_offPlace (q : Seq) (w : Micro) : (q.barred w).offPlace = q.offPlace := by
  unfold Seq.barred
  split <;> rfl

theorem Seq.onward_offPlace (q : Seq) (w : Micro) (pc : A13) (due : Bool) (n : Next) : (q.onward w pc due n).offPlace = (q.ended w pc due).offPlace := by
  rw [Seq.onward, Seq.goNext_offPlace, Seq.barred_offPlace]

/-- What the word leaves in the registers of a member that are not of its place. -/
theorem Seq.of_offPlace {γ : Type} (g : Seq → γ) (hg : ∀ q, g q.offPlace = g q) {q r : Seq} (h : q.offPlace = r.offPlace) : g q = g r := by
  rw [← hg q, h, hg]

/-- The register that a two-bit selector names. -/
theorem ix_four (x : BitVec 2) (k : Fin 4) : k = ix 4 x.toNat ↔ k.val = x.toNat := by
  rw [ix, dif_pos x.isLt, Fin.ext_iff]

theorem vset_apply {α : Type} {n : Nat} (v : Vector α n) (i j : Fin n) (x : α) : (vset v i x)[j] = if j = i then x else v[j] :=
  vmod_apply v i j (fun _ => x)

theorem getElem_lcAfter (w : Micro) (lc : Vector (BitVec 16) 4) (k : Fin 4) : (lcAfter w lc)[k] =
    if k.val = (mwLcsel w).toNat ∧ mwLcop w = 1 then mwLit w else if k.val = (mwLcsel w).toNat ∧ mwLcop w = 2 then lc[k] - 1 else lc[k] := by
  have key : ∀ (i : Fin 4) (n : BitVec 2), (if n = 1 then vset lc i (mwLit w) else if n = 2 then vset lc i (lc[i] - 1) else lc)[k] =
      if k = i ∧ n = 1 then mwLit w else if k = i ∧ n = 2 then lc[k] - 1 else lc[k] := by
    intro i n
    by_cases h1 : n = 1
    · rw [if_pos h1, vset_apply]
      by_cases hk : k = i <;> simp [h1, hk]
    · rw [if_neg h1]
      by_cases h2 : n = 2
      · rw [if_pos h2, vset_apply]
        by_cases hk : k = i
        · subst hk; simp [h2]
        · simp [hk]
      · rw [if_neg h2, if_neg (fun h => h1 h.2), if_neg (fun h => h2 h.2)]
  simp only [← ix_four]
  exact key _ _

theorem getElem_baAfter (w : Micro) (ba : Vector A13 4) (k : Fin 4) : (baAfter w ba)[k] =
    if k.val ≠ (mwBasel w).toNat ∨ mwBaop w = 0 then ba[k]
    else if mwBaop w = 1 then ba[k] + 1 else if mwBaop w = 2 then ba[k] - 1 else (mwLit w).setWidth 13 := by
  have key : ∀ (i : Fin 4) (n : BitVec 2), (if n = 1 then vset ba i (ba[i] + 1) else if n = 2 then vset ba i (ba[i] - 1)
      else if n = 3 then vset ba i (fld (mwLit w) 0 13) else ba)[k] =
      if ¬ k = i ∨ n = 0 then ba[k] else if n = 1 then ba[k] + 1 else if n = 2 then ba[k] - 1 else (mwLit w).setWidth 13 := by
    intro i n
    have hn : n = 0 ∨ n = 1 ∨ n = 2 ∨ n = 3 := by revert n; decide
    rcases hn with rfl | rfl | rfl | rfl
    · simp
    · rw [if_pos rfl, vset_apply]
      by_cases hk : k = i
      · subst hk; simp
      · simp [hk]
    · rw [if_neg (by decide), if_pos rfl, vset_apply]
      by_cases hk : k = i
      · subst hk; simp
      · simp [hk]
    · rw [if_neg (by decide), if_neg (by decide), if_pos rfl, vset_apply]
      by_cases hk : k = i
      · subst hk
        rw [if_pos rfl, if_neg (by simp), if_neg (by decide), if_neg (by decide)]
        exact (BitVec.setWidth_eq_extractLsb' (by decide)).symm
      · simp [hk]
  simp only [ne_eq, ← ix_four]
  exact key _ _

section
variable (q : Seq) (g orA orD : Bool) (cntA cntD : Nat)

theorem Seq.reduced_or : let r := (q.reduced true g orA orD cntA cntD).ctx.red
    r.orA = orA ∧ r.orD = orD ∧ r.pendOrA = true ∧ r.pendOrD = true := by cases g <;> exact ⟨rfl, rfl, rfl, rfl⟩
theorem Seq.reduced_cnt : let r := (q.reduced g true orA orD cntA cntD).ctx.red
    r.cntA = BitVec.ofNat 14 cntA ∧ r.cntD = BitVec.ofNat 17 cntD ∧ r.pendCntA = true ∧ r.pendCntD = true := by
  cases g <;> exact ⟨rfl, rfl, rfl, rfl⟩
theorem Seq.reduced_no_or : let r := (q.reduced false g orA orD cntA cntD).ctx.red
    r.orA = q.ctx.red.orA ∧ r.orD = q.ctx.red.orD := by cases g <;> exact ⟨rfl, rfl⟩
theorem Seq.reduced_no_cnt : let r := (q.reduced g false orA orD cntA cntD).ctx.red
    r.cntA = q.ctx.red.cntA ∧ r.cntD = q.ctx.red.cntD := by cases g <;> exact ⟨rfl, rfl⟩

end

section
variable (s : State) (a : Arch) (ms : List Arch) {w : Micro} (edges : Vector PeVec 4) (m : Arch)

theorem State.reducedOf_or (h : mwGor w = true) : let r := (s.reducedOf a ms w edges m).ctx.red
    r.orA = s.orOf a m w edges ∧
    r.orD = (if (s.arch[s.leadOf a]).seq.part.twin then s.orOf a m w edges else ms.any (fun b => s.orOf a b w edges)) ∧
    r.pendOrA = true ∧ r.pendOrD = true := by
  unfold State.reducedOf
  dsimp only
  rw [h]
  exact Seq.reduced_or ..

theorem State.reducedOf_no_or (h : mwGor w = false) : let r := (s.reducedOf a ms w edges m).ctx.red
    r.orA = (s.arch[m]).seq.ctx.red.orA ∧ r.orD = (s.arch[m]).seq.ctx.red.orD := by
  unfold State.reducedOf
  dsimp only
  rw [h]
  exact Seq.reduced_no_or ..

theorem State.reducedOf_cnt (h : mwGcnt w = true) : let r := (s.reducedOf a ms w edges m).ctx.red
    r.cntA = BitVec.ofNat 14 (s.cntOf a m w edges) ∧
    r.cntD = BitVec.ofNat 17 (if (s.arch[s.leadOf a]).seq.part.twin then s.cntOf a m w edges else (ms.map (fun b => s.cntOf a b w edges)).sum) ∧
    r.pendCntA = true ∧ r.pendCntD = true := by
  unfold State.reducedOf
  dsimp only
  rw [h]
  exact Seq.reduced_cnt ..

theorem State.reducedOf_no_cnt (h : mwGcnt w = false) : let r := (s.reducedOf a ms w edges m).ctx.red
    r.cntA = (s.arch[m]).seq.ctx.red.cntA ∧ r.cntD = (s.arch[m]).seq.ctx.red.cntD := by
  unfold State.reducedOf
  dsimp only
  rw [h]
  exact Seq.reduced_no_cnt ..

end

/-- The sequencer registers of the members follow the word. -/
theorem State.Onward.counted {s u : State} {a : Arch} {ms : List Arch} {w : Micro} {edges : Vector PeVec 4} (h : s.Onward a ms w edges u)
    (h1 : mwSpc w ≠ 1) (h5 : mwSpc w ≠ 5) {t : State} (ht : ∀ m ∈ ms, (t.arch[m]).seq.offPlace = (u.arch[m]).seq.offPlace) :
    s.Counted a ms w edges t := by
  intro m hm x y who
  have hy : y.offPlace = ((s.reducedOf a ms w edges m).ended w x.pc (s.dueTrap (s.leadOf a) ms).isSome).offPlace := by
    refine (ht m hm).trans ?_
    rw [← Seq.onward_offPlace (n := s.nextIn (s.leadOf a) m w)]
    exact Seq.of_latless Seq.offPlace (fun _ => rfl) (h.registers hm)
  have hf : ∀ {γ : Type} (g : Seq → γ), (∀ q, g q.offPlace = g q) → g y = g ((s.reducedOf a ms w edges m).ended w x.pc (s.dueTrap (s.leadOf a) ms).isSome) :=
    fun g hg => Seq.of_offPlace g hg hy
  have hr : ∀ {γ : Type} (g : RedSet → γ), (∀ r x y, g { r with orL := x, cntL := y } = g r) → g y.ctx.red = g (s.reducedOf a ms w edges m).ctx.red :=
    fun g hg => hf (fun q => g q.ctx.red) (fun q => hg q.ctx.red false 0)
  refine ⟨hf Seq.lastPc (fun _ => rfl), hf Seq.lastNt (fun _ => rfl), hf Seq.tnt (fun _ => rfl), fun _ => ⟨fun k => ?_, fun k => ?_⟩,
    fun h => absurd h h1, hf (fun q => q.ctx.uf) (fun _ => rfl), fun _ => hf (fun q => q.ctx.ufShadow) (fun _ => rfl), fun h => absurd h h5,
    fun hg => ?_, fun hg => ?_, fun hg => ?_, fun hg => ?_⟩
  · exact (hf (fun q => q.ctx.lc[k]) (fun _ => rfl)).trans (getElem_lcAfter w x.ctx.lc k)
  · exact (hf (fun q => q.ctx.ba[k]) (fun _ => rfl)).trans (getElem_baAfter w x.ctx.ba k)
  · obtain ⟨k1, k2, k3, k4⟩ := s.reducedOf_or a ms edges m hg
    exact ⟨(hr RedSet.orA (fun _ _ _ => rfl)).trans k1, (hr RedSet.orD (fun _ _ _ => rfl)).trans k2, (hr RedSet.pendOrA (fun _ _ _ => rfl)).trans k3,
      (hr RedSet.pendOrD (fun _ _ _ => rfl)).trans k4⟩
  · obtain ⟨k1, k2⟩ := s.reducedOf_no_or a ms edges m hg
    exact ⟨(hr RedSet.orA (fun _ _ _ => rfl)).trans k1, (hr RedSet.orD (fun _ _ _ => rfl)).trans k2⟩
  · obtain ⟨k1, k2, k3, k4⟩ := s.reducedOf_cnt a ms edges m hg
    exact ⟨(hr RedSet.cntA (fun _ _ _ => rfl)).trans k1, (hr RedSet.cntD (fun _ _ _ => rfl)).trans k2, (hr RedSet.pendCntA (fun _ _ _ => rfl)).trans k3,
      (hr RedSet.pendCntD (fun _ _ _ => rfl)).trans k4⟩
  · obtain ⟨k1, k2⟩ := s.reducedOf_no_cnt a ms edges m hg
    exact ⟨(hr RedSet.cntA (fun _ _ _ => rfl)).trans k1, (hr RedSet.cntD (fun _ _ _ => rfl)).trans k2⟩

/-! ### The place -/

theorem State.nextIn_eq (s : State) (lead m : Arch) (w : Micro) : s.nextIn lead m w =
    s.nextOf (if (s.arch[lead]).seq.part.twin then m else lead) lead w
      (if (s.arch[lead]).seq.part.twin then (s.arch[m]).seq.pc else (s.arch[lead]).seq.pc) := by
  unfold State.nextIn
  split <;> rfl

/-- The stream behind the word: it runs on where a WAIT finds its condition true. -/
def State.goneOn (s : State) (u : State) (a : Arch) (ms : List Arch) (w : Micro) : State :=
  if mwNxt w = 7 ∧ u.waitTrue (s.leadOf a) ms w = true then u.modSeqs ms (fun x => { x with mode := .running }) else u

theorem State.goneOn_waitTrue (s u : State) (a : Arch) (ms : List Arch) (w : Micro) :
    (s.goneOn u a ms w).waitTrue (s.leadOf a) ms w = u.waitTrue (s.leadOf a) ms w := by
  unfold State.goneOn
  split
  · rw [(State.Like.modes u ms .running).waitTrue]
  · rfl

theorem State.goneOn_else {w : Micro} (h : mwNxt w ≠ 7) (s u : State) (a : Arch) (ms : List Arch) : s.goneOn u a ms w = u :=
  if_neg (fun k => h k.1)

/-- The registers of a member behind the word, before it goes on. -/
def State.endedOf (s : State) (a : Arch) (ms : List Arch) (w : Micro) (edges : Vector PeVec 4) (m : Arch) : Seq :=
  ((s.reducedOf a ms w edges m).ended w (s.arch[m]).seq.pc (s.dueTrap (s.leadOf a) ms).isSome).barred w

theorem State.endedOf_place (s : State) (a : Arch) (ms : List Arch) (w : Micro) (edges : Vector PeVec 4) (m : Arch) :
    (s.endedOf a ms w edges m).ctx.stack = (s.arch[m]).seq.ctx.stack ∧ (s.endedOf a ms w edges m).ctx.cur = (s.arch[m]).seq.ctx.cur := by
  unfold State.endedOf Seq.barred
  split <;> exact ⟨rfl, rfl⟩

/-- Control goes where NXT says. -/
theorem State.Onward.goes {s u : State} {a : Arch} {ms : List Arch} {w : Micro} {edges : Vector PeVec 4} (h : s.Onward a ms w edges u) (hn : ms.Nodup) :
    s.Goes a ms w (s.goneOn u a ms w) := by
  unfold State.Goes
  intro lead twin n g hh m hm x y on cnd runs multi
  obtain ⟨hstack, hcur⟩ := s.endedOf_place a ms w edges m
  have hu : (u.arch[m]).seq.latless = ((s.endedOf a ms w edges m).goNext (s.nextOf (if twin then m else lead) lead w (if twin then x.pc else (s.arch[lead]).seq.pc))).latless := by
    rw [← s.nextIn_eq]
    exact h.registers hm
  have hN : ∀ k : BitVec 3, n = k.toNat → mwNxt w = k := fun k e => BitVec.toNat_inj.mp e
  have place : mwNxt w ≠ 7 → ∀ nx, s.nextOf (if twin then m else lead) lead w (if twin then x.pc else (s.arch[lead]).seq.pc) = nx →
      y.mode = ((s.endedOf a ms w edges m).goNext nx).mode ∧ y.pc = ((s.endedOf a ms w edges m).goNext nx).pc ∧
      y.ctx.stack = ((s.endedOf a ms w edges m).goNext nx).ctx.stack ∧ y.ctx.cur = ((s.endedOf a ms w edges m).goNext nx).ctx.cur := by
    intro h7 nx e
    have hy : y = (u.arch[m]).seq := congrArg (fun t : State => (t.arch[m]).seq) (State.goneOn_else h7 s u a ms)
    rw [e, ← hy] at hu
    exact ⟨Seq.of_latless Seq.mode (fun _ => rfl) hu, Seq.of_latless Seq.pc (fun _ => rfl) hu,
      Seq.of_latless (fun q => q.ctx.stack) (fun _ => rfl) hu, Seq.of_latless (fun q => q.ctx.cur) (fun _ => rfl) hu⟩
  have goes : mwNxt w ≠ 7 → ∀ p, s.nextOf (if twin then m else lead) lead w (if twin then x.pc else (s.arch[lead]).seq.pc) = .goto p →
      runs p x.ctx.stack := by
    intro h7 p e
    obtain ⟨h1, h2, h3, h4⟩ := place h7 _ e
    exact ⟨h1, h2, h3.trans hstack, h4.trans hcur⟩
  obtain ⟨n0, n1, n2, n3, n7⟩ := s.nextOf_cases (if twin then m else lead) lead w (if twin then x.pc else (s.arch[lead]).seq.pc)
  obtain ⟨n4, n5⟩ := s.nextOf_multiway (if twin then m else lead) lead w (if twin then x.pc else (s.arch[lead]).seq.pc)
  have h7 : ∀ {k : BitVec 3}, k ≠ 7 → n = k.toNat → mwNxt w ≠ 7 := fun hk e c => hk ((hN _ e).symm.trans c)
  refine ⟨fun e => ?_, fun e => ?_, fun e hc => ?_, fun e hc => ?_, fun r rest e hc _ hr => ?_, fun e => ?_, fun e => ?_, fun e => ?_⟩
  · exact goes (h7 (k := 0) (by decide) e) _ (n0 (hN 0 e))
  · exact goes (h7 (k := 1) (by decide) e) _ (n1 (hN 1 e))
  · obtain ⟨h1, h2, h3, h4⟩ := place (h7 (k := 2) (by decide) e) _ ((n2 (hN 2 e)).trans (if_pos hc))
    exact ⟨h1, h2, h3.trans (congrArg _ hstack), h4.trans hcur⟩
  · have hf : ¬ s.cond (if twin then m else lead) lead w (mwCond w).toNat = true := fun h => Bool.false_ne_true (hc.symm.trans h)
    rcases e with e | e
    · exact goes (h7 (k := 2) (by decide) e) _ ((n2 (hN 2 e)).trans (if_neg hf))
    · exact goes (h7 (k := 3) (by decide) e) _ ((n3 (hN 3 e)).trans (if_neg hf))
  · obtain ⟨h1, h2, h3, h4⟩ := place (h7 (k := 3) (by decide) e) _ ((n3 (hN 3 e)).trans (if_pos hc))
    have hp : (s.endedOf a ms w edges m).goNext .pop = { s.endedOf a ms w edges m with
        pc := r, mode := .running, ctx := { (s.endedOf a ms w edges m).ctx with stack := rest } } := by
      rw [Seq.goNext, hstack, hr]
    rw [hp] at h1 h2 h3 h4
    exact ⟨h1, h2, h3, h4.trans hcur⟩
  · obtain ⟨p, hp, hb⟩ := n4 (hN 4 e)
    obtain ⟨h1, h2, h3, h4⟩ := goes (h7 (k := 4) (by decide) e) _ hp
    exact ⟨h1, h3, h4, fun j hj => by rw [h2, hb j hj]⟩
  · obtain ⟨p, hp, hb⟩ := n5 (hN 5 e)
    obtain ⟨h1, h2, h3, h4⟩ := goes (h7 (k := 5) (by decide) e) _ hp
    exact ⟨h1, h3, h4, fun j hj => by rw [h2, hb j hj]⟩
  · rw [n7 (hN 7 e)] at hu
    have hpc := Seq.of_latless Seq.pc (fun _ => rfl) hu
    have hst := (Seq.of_latless (fun q => q.ctx.stack) (fun _ => rfl) hu).trans hstack
    have hmo := Seq.of_latless Seq.mode (fun _ => rfl) hu
    rw [s.goneOn_waitTrue]
    by_cases hw : u.waitTrue (s.leadOf a) ms w = true
    · have hy : y = { (u.arch[m]).seq with mode := .running } :=
        (congrArg (fun t : State => (t.arch[m]).seq) (if_pos ⟨hN 7 e, hw⟩ : s.goneOn u a ms w = _)).trans (State.modSeqs_seq u hn hm _)
      rw [hy, if_pos hw]
      exact ⟨hpc, hst, rfl⟩
    · have hy : y = (u.arch[m]).seq := congrArg (fun t : State => (t.arch[m]).seq) (if_neg (fun h => hw h.2) : s.goneOn u a ms w = _)
      rw [hy, if_neg hw]
      exact ⟨hpc, hst, hmo⟩

/-- What goes on has poured, and its registers follow the word. -/
theorem State.Onward.issued {s u : State} {a : Arch} {ms : List Arch} {w : Micro} {edges : Vector PeVec 4} (h : s.Onward a ms w edges u) (hn : ms.Nodup)
    (h1 : mwSpc w ≠ 1) (h2 : mwSpc w ≠ 2) (h5 : mwSpc w ≠ 5) : s.Issued a ms w edges (s.goneOn u a ms w) := by
  have hpour : (s.goneOn u a ms w).pour = u.pour := by
    unfold State.goneOn
    split
    · exact State.modSeqs_pour ..
    · rfl
  have hisl : (s.goneOn u a ms w).isl = u.isl := by
    unfold State.goneOn
    split
    · exact State.modSeqs_isl ..
    · rfl
  have hoff : ∀ m ∈ ms, ((s.goneOn u a ms w).arch[m]).seq.offPlace = (u.arch[m]).seq.offPlace := by
    intro m _
    unfold State.goneOn
    split
    · exact State.modSeqs_seq_keep u ms (fun x => { x with mode := .running }) (g := Seq.offPlace) (fun _ => rfl) m
    · rfl
  refine ⟨fun m hm p => ?_, h.counted h1 h5 hoff, h.goes hn, fun _ => congrArg PourPort.compl (hpour.trans h.1), fun r hs => absurd hs h2⟩
  have hc := (State.core_of_isl hisl (s.islAt m p)).trans (h.2.1 m hm p)
  exact ⟨IslSt.of_core IslSt.c (fun _ => rfl) hc, IslSt.of_core IslSt.x (fun _ => rfl) hc, IslSt.of_core IslSt.y (fun _ => rfl) hc,
    IslSt.of_core IslSt.k (fun _ => rfl) hc, IslSt.of_core IslSt.n (fun _ => rfl) hc, IslSt.of_core IslSt.t (fun _ => rfl) hc,
    fun pl => ⟨congrFun (IslSt.raw_of_core hc) pl, congrFun (IslSt.rawDelta_of_core hc) pl⟩⟩

end Sys2Proof.Machine
end

section
/-! PROOF. The fetch of a word that issues, and its edge planes (spec/03 R66, R82, R85; spec/02 R49). -/
namespace Sys2Proof.Machine

/-! ### The fetch -/

section
variable {s : State} {ms : List Arch} {w : Micro}

/-- The fetch changes the archipelagos alone, and of them the counts of corrections. -/
theorem State.fetched_eq (lead : Arch) (hf : ∀ m ∈ ms, ((s.arch[m]).mould.fetch (s.arch[m]).seq.pc).1 = some w) :
    ∃ v, s.fetched lead ms = { s with arch := v } ∧ ∀ b : Arch, (v[b]).readable = (s.arch[b]).readable := by
  have hc : ∀ (l : List Arch) (t : State), ∃ v, l.foldl (fun t a => t.countFetch [a] (s.arch[a]).seq.pc) t = { t with arch := v } ∧
      ∀ b : Arch, (v[b]).readable = (t.arch[b]).readable := by
    intro l
    induction l with
    | nil => exact fun t => ⟨t.arch, rfl, fun _ => rfl⟩
    | cons a l ih =>
      intro t
      obtain ⟨v1, h1, h2⟩ : ∃ v, t.countFetch [a] (s.arch[a]).seq.pc = { t with arch := v } ∧ ∀ b : Arch, (v[b]).readable = (t.arch[b]).readable := by
        unfold State.countFetch State.eachArch
        rw [List.foldl_cons, List.foldl_nil]
        split
        · refine ⟨_, rfl, fun b => ?_⟩
          rw [vmod_apply]
          split <;> rfl
        · exact ⟨t.arch, rfl, fun _ => rfl⟩
      obtain ⟨v2, h3, h4⟩ := ih { t with arch := v1 }
      exact ⟨v2, by rw [List.foldl_cons, h1, h3], fun b => (h4 b).trans (h2 b)⟩
  have hw : ms.map (fun a => ((s.arch[a]).mould.fetch (s.arch[a]).seq.pc).1) = ms.map (fun _ => some w) := List.map_congr_left hf
  unfold State.fetched
  split
  · exact ⟨s.arch, rfl, fun _ => rfl⟩
  · obtain ⟨v, h1, h2⟩ := hc ms s
    refine ⟨v, ?_, h2⟩
    have hsame : (ms.map (fun _ => some w)).any (fun x => decide (x ≠ (ms.map (fun _ => some w)).headD none)) = false := by
      cases ms <;> simp
    have hall : (ms.map (fun _ => some w)).all Option.isSome = true := by simp
    dsimp only
    rw [hw, hall, if_pos rfl, State.wordsCompared, hsame, Bool.and_false, if_neg Bool.false_ne_true, h1]

theorem Mould.fetch_readable (m : Mould) (pc : A13) : { m with ceCnt := 0 }.fetch pc = m.fetch pc := rfl

/-- A word that every member fetches, that is no fault and waits for no result, issues where its barrier lets it. -/
theorem State.issueWord_issues {lead : Arch} (hl : lead ∈ ms) (hfound : ∀ m ∈ ms, (s.arch[m]).twin.found = []) (hr : s.routine lead = none)
    (hf : ∀ m ∈ ms, ((s.arch[m]).mould.fetch (s.arch[m]).seq.pc).1 = some w) (hfault : ∀ m ∈ ms, s.wordFault m lead w (s.arch[m]).seq.pc = none)
    (hwants : ∀ m ∈ ms, ∀ k ∈ s.wants lead w, (s.arch[m]).seq.ctx.red.pending k = false) {release : Bool}
    (h3 : mwSpc w = 3 → s.latOn lead = true → release = true) (h4 : mwSpc w = 4 → ms.all s.frameBarrier = true) :
    ∃ v, (∀ b : Arch, (v[b]).readable = (s.arch[b]).readable) ∧
      s.issueWord lead ms release = ({ s with arch := v } : State).issueNow lead ms (ms.map (fun m => (m, w))) w := by
  obtain ⟨v, hv, hk⟩ := State.fetched_eq lead hf
  refine ⟨v, hk, ?_⟩
  have like : s.Like { s with arch := v } := ⟨rfl, rfl, rfl, hk⟩
  have hfind : ms.any (fun a => (s.arch[a]).twin.found.any (fun m => m.cause = .mword || m.cause = .flow)) = false :=
    List.any_eq_false.mpr (fun m hm => by rw [hfound m hm]; simp)
  have hfs : ms.map (fun a => (a, ((s.arch[a]).mould.fetch (s.arch[a]).seq.pc).1)) = ms.map (fun a => (a, some w)) :=
    List.map_congr_left (fun m hm => by rw [hf m hm])
  have hbad : ((ms.map (fun a => (a, some w))).filter (fun x => x.2.isNone)).map (fun x => (x.1, 3)) = ([] : List (Arch × Nat)) := by simp
  have hws : (ms.map (fun a => (a, some w))).map (fun x => (x.1, x.2.getD (0 : Micro))) = ms.map (fun m => (m, w)) := by rw [List.map_map]; rfl
  have hw : ((ms.map (fun m => (m, w))).headD (lead, 0)).2 = w := by
    cases ms with
    | nil => exact absurd hl List.not_mem_nil
    | cons m l => rfl
  unfold State.issueWord
  rw [hfind, Bool.and_false, if_neg Bool.false_ne_true, hr]
  dsimp only
  rw [hv, hfs, hbad, hws, hw]
  generalize ({ s with arch := v } : State) = t at like ⊢
  have hft : ∀ m ∈ ms, ((t.arch[m]).mould.fetch (t.arch[m]).seq.pc).1 = some w := fun m hm => by
    rw [like.pc, like.arch (fun y => y.mould.fetch (s.arch[m]).seq.pc) (fun _ => rfl)]
    exact hf m hm
  have hheld : t.heldApart lead ms = false := by
    have hw : ms.map (fun a => ((t.arch[a]).mould.fetch (t.arch[a]).seq.pc).1) = ms.map (fun _ => some w) := List.map_congr_left hft
    have hsame : (ms.map (fun _ => some w)).any (fun x => decide (x ≠ (ms.map (fun _ => some w)).headD none)) = false := by
      cases ms <;> simp
    unfold State.heldApart
    dsimp only
    rw [hw, hsame, Bool.and_false, Bool.false_and]
  have hfaults : (ms.map (fun m => (m, w))).filterMap (fun x => (t.wordFault x.1 lead x.2 (s.arch[x.1]).seq.pc).map (fun c => (x.1, c))) = [] := by
    rw [List.filterMap_map]
    exact List.filterMap_eq_nil_iff.mpr (fun m hm => by
      rw [Function.comp_apply, like.wordFault, hfault m hm]
      rfl)
  have hpend : ms.any (fun a => (t.wants lead w).any (fun k => ((t.arch[a]).seq.ctx.red).pending k)) = false :=
    List.any_eq_false.mpr (fun m hm => by
      rw [like.wants, like.ctx, Bool.not_eq_true]
      exact List.any_eq_false.mpr (fun k hk => by rw [hwants m hm k hk]; exact Bool.false_ne_true))
  have hlatbar : (decide (mwSpc w = 3) && t.latOn lead && !release) = false := by
    rw [like.latOn]
    by_cases e : mwSpc w = 3
    · cases hlat : s.latOn lead with
      | false => simp
      | true => simp [h3 e hlat]
    · rw [decide_eq_false e]
      rfl
  have hframebar : (decide (mwSpc w = 4) && !(ms.all t.frameBarrier)) = false := by
    rw [like.frameBarrier]
    by_cases e : mwSpc w = 4
    · simp [h4 e]
    · rw [decide_eq_false e]
      rfl
  rw [hheld, hfaults, hpend, hlatbar, hframebar]
  rfl

end

/-! ### The edge planes -/

/-- What a change of one element keeps. -/
theorem vmod_keep {α γ : Type} {n : Nat} (g : α → γ) {f : α → α} (h : ∀ x, g (f x) = g x) (v : Vector α n) (i j : Fin n) :
    g (vmod v i f)[j] = g v[j] := by
  rw [vmod_apply]
  split
  · exact h _
  · rfl

/-- The edge plane is sent where its credit is there or it has been sent; what has arrived stands (spec/08 R198). -/
theorem State.edgeSend_spec {s : State} {w : Micro}
    (hc : ∀ lane, s.neighbour (ix 4 (((newsSide w).val + 2) % 4)) = some lane → s.lattice.edgeSent = true ∨ 0 < (s.straits[linkNo lane]).credits) :
    ∃ x y, s.edgeSend w = ({ s with straits := x, lattice := y }, true) ∧ y.cycle = s.lattice.cycle ∧
      ∀ k : Fin 2, (x[k]).edgeRx = (s.straits[k]).edgeRx ∧ (x[k]).up = (s.straits[k]).up ∧ (x[k]).cut = (s.straits[k]).cut := by
  have hopp : ∀ d : Fin 4, ix 4 (d.val + 2 - (if 2 ≤ d.val then 4 else 0)) = ix 4 ((d.val + 2) % 4) := by decide
  unfold State.edgeSend
  dsimp only
  rw [hopp]
  split
  · exact ⟨s.straits, s.lattice, rfl, rfl, fun _ => ⟨rfl, rfl, rfl⟩⟩
  · next lane hn =>
    split
    · exact ⟨s.straits, s.lattice, rfl, rfl, fun _ => ⟨rfl, rfl, rfl⟩⟩
    · next hs =>
      have h0 : ¬ (s.straits[if lane then (1 : Fin 2) else 0]).credits = 0 := Nat.ne_of_gt ((hc lane hn).resolve_left hs)
      rw [if_neg h0]
      refine ⟨_, _, rfl, rfl, fun k => ⟨vmod_keep Strait.edgeRx ?_ _ _ k, vmod_keep Strait.up ?_ _ _ k, vmod_keep Strait.cut ?_ _ _ k⟩⟩
      · exact fun _ => rfl
      · exact fun _ => rfl
      · exact fun _ => rfl

/-- The plane the neighbour has sent with this cycle's number is taken (spec/02 R49, spec/08 R198). -/
theorem State.edgeTake_spec {s : State} {w : Micro} {edges : Vector PeVec 4}
    (hnone : s.neighbour (newsSide w) = none → edges = Vector.replicate 4 0)
    (hsome : ∀ lane, s.neighbour (newsSide w) = some lane → s.latLink lane = true ∧
      ∃ v rest, (s.straits[linkNo lane]).edgeRx = (s.lattice.cycle, v) :: rest ∧ edges = (Vector.replicate 4 0).set (newsSide w).val v) :
    ∃ x, s.edgeTake w = some ({ s with straits := x }, edges) := by
  unfold State.edgeTake
  dsimp only
  split
  · next hn => exact ⟨s.straits, by rw [hnone hn]⟩
  · next lane hn =>
    obtain ⟨hl, v, rest, hrx, he⟩ := hsome lane hn
    have hrx' : (s.straits[if lane then (1 : Fin 2) else 0]).edgeRx = (s.lattice.cycle, v) :: rest := hrx
    rw [hrx', hl]
    dsimp only
    rw [if_neg (by simp), he]
    exact ⟨_, rfl⟩

/-- The word issues with the edge planes it moves, in a state in which it reads the same. -/
theorem State.issueNow_issues {s t : State} {a : Arch} {w : Micro} {edges : Vector PeVec 4} (he : s.EdgesFor a w edges) {v : Vector ArchSt 8}
    (ht : t = { s with arch := v }) (hv : ∀ b : Arch, (v[b]).readable = (s.arch[b]).readable) (ms : List Arch) (ws : List (Arch × Micro)) :
    ∃ u, s.Like u ∧ u.pour = s.pour ∧ t.issueNow (s.leadOf a) ms ws w = u.issued (s.leadOf a) ms ws edges := by
  have like : s.Like t := by subst ht; exact ⟨rfl, rfl, rfl, hv⟩
  have hmove : t.edgeMove (s.leadOf a) w = s.edgeMove (s.leadOf a) w := by rw [State.edgeMove, State.edgeMove, like.latOn]
  obtain ⟨hno, hyes⟩ := he
  unfold State.issueNow
  rw [hmove]
  cases hm : s.edgeMove (s.leadOf a) w with
  | false => exact ⟨t, like, by rw [ht], by rw [hno hm]; rfl⟩
  | true =>
    obtain ⟨hcredit, hnone, hsome⟩ := hyes hm
    subst ht
    obtain ⟨x, y, hsend, hcyc, hstr⟩ := State.edgeSend_spec (s := { s with arch := v }) (w := w) hcredit
    obtain ⟨z, htake⟩ := State.edgeTake_spec (s := { s with arch := v, straits := x, lattice := y }) (w := w) (edges := edges) hnone (fun lane hl => by
      obtain ⟨hlink, p, rest, hrx, he⟩ := hsome lane hl
      obtain ⟨h1, h2, h3⟩ := hstr (linkNo lane)
      refine ⟨?_, p, rest, ?_, he⟩
      · rw [← hlink]
        show ((x[linkNo lane]).up && !(x[linkNo lane]).cut) = _
        rw [h2, h3]
        rfl
      · rw [h1, hrx, hcyc])
    rw [if_pos rfl, hsend]
    dsimp only
    rw [if_pos rfl, htake]
    exact ⟨{ s with arch := v, straits := z, lattice := y }, ⟨rfl, rfl, rfl, hv⟩, rfl, rfl⟩

end Sys2Proof.Machine
end

section
/-! PROOF. The releases of a parked framebar and of a parked latbar (spec/08 R212; spec/04 R119). -/
namespace Sys2Proof.Machine

section
variable {s t : State} (h : s.Like t)
include h

theorem State.Like.apart {ms : List Arch} (ha : s.Apart ms) : t.Apart ms := by
  unfold State.Apart
  rw [h.shadowPair, h.islAt]
  exact ha

theorem State.Like.leaves {a : Arch} {w : Micro} (hl : ¬ s.Leaves a w) : ¬ t.Leaves a w := by
  unfold State.Leaves
  simp only [h.leadOf, h.cond, h.ctx]
  exact hl

end

/-- What each member fetches, member by member. -/
theorem State.Fetches.parts {s : State} {a : Arch} {ms : List Arch} {w : Micro} (hf : s.Fetches a ms w) :
    (∀ m ∈ ms, ((s.arch[m]).mould.fetch (s.arch[m]).seq.pc).1 = some w) ∧ (∀ m ∈ ms, s.wordFault m (s.leadOf a) w (s.arch[m]).seq.pc = none) ∧
    (∀ m ∈ ms, ∀ k ∈ s.wants (s.leadOf a) w, (s.arch[m]).seq.ctx.red.pending k = false) ∧
    (mwLdl w = 3 → ∀ m ∈ ms, ∀ p : Fin 32, (s.isl[s.islAt m p]).waiting = []) := by
  refine ⟨fun m hm => ?_, fun m hm => ?_, fun m hm => ?_, fun h3 m hm => ?_⟩ <;> obtain ⟨h1, h2, h4, h5⟩ := hf m hm
  · exact h1
  · exact h2
  · exact h4
  · exact h5 h3

/-- The members of a steady stream have distinct islands without a shadow. -/
theorem State.Steady.apart {s : State} {a : Arch} {ms : List Arch} (h : s.Steady a ms) : s.Apart ms := by
  have hn := h.nodup
  obtain ⟨-, -, -, -, -, -, -, -, hm, hd⟩ := h
  exact ⟨hn, fun m k => (hm m k).2, hd⟩

/-- A word that issues in the stream of `a`, up to what STEP makes of it: it neither posts, loads arguments, sets the mode shadow nor leaves
its routine (spec/03 R66, R82). -/
theorem State.issueWord_goneOn {s : State} {a : Arch} {ms : List Arch} {w : Micro} {edges : Vector PeVec 4} (hs : s.streamOf a = ms) (ha : a ∈ ms)
    (hap : s.Apart ms) (hfound : ∀ m ∈ ms, (s.arch[m]).twin.found = []) (hr : s.routine (s.leadOf a) = none) (hf : s.Fetches a ms w)
    (he : s.EdgesFor a w edges) (hl : ¬ s.Leaves a w) (h1 : mwSpc w ≠ 1) (h2 : mwSpc w ≠ 2) (h5 : mwSpc w ≠ 5) {release : Bool}
    (h3 : mwSpc w = 3 → s.latOn (s.leadOf a) = true → release = true) (h4 : mwSpc w = 4 → ms.all s.frameBarrier = true) :
    ∃ u v, s.Like u ∧ u.pour = s.pour ∧ u.Onward a ms w edges v ∧
      s.issueWord (s.leadOf a) ms release = (u.goneOn v a ms w).stepped (s.leadOf a) ms := by
  subst hs
  obtain ⟨l, hms⟩ := State.streamOf_eq_lead ha
  have hlead : s.leadOf a ∈ s.streamOf a := by rw [hms]; exact List.mem_cons_self
  obtain ⟨hfetch, hnofault, hwants, hslots⟩ := hf.parts
  obtain ⟨v, hv, hi⟩ := State.issueWord_issues hlead hfound hr hfetch hnofault hwants h3 h4
  obtain ⟨u, like, hpour, hnow⟩ := State.issueNow_issues he rfl hv (s.streamOf a) ((s.streamOf a).map (fun m => (m, w)))
  have hw : mwLdl w = 3 → ∀ m ∈ s.streamOf a, ∀ p : Fin 32, (u.isl[u.islAt m p]).waiting = [] := by
    simp only [like.1, like.islAt]
    exact hslots
  have hap' := like.apart hap
  rw [hms, ← like.leadOf] at hw hap'
  obtain ⟨x, hx, hissued⟩ := State.issued_onward hap' h1 h2 h5 hw edges
  rw [State.leadOn_stays (like.leaves hl)] at hissued
  rw [like.leadOf, ← hms] at hx hissued
  refine ⟨u, x, like, hpour, hx, ?_⟩
  rw [hi, hnow, hissued]
  unfold State.goneOn
  rw [like.leadOf]

/-- Without a STEP under way nothing follows the word. -/
theorem State.stepped_none {s : State} {lead : Arch} (h : (s.arch[lead]).seq.stepSlot = none) (ms : List Arch) : s.stepped lead ms = s := by
  unfold State.stepped
  simp only [h]

/-- Behind the word a STEP stands as it stood. -/
theorem State.Onward.stepSlot {s u : State} {a : Arch} {ms : List Arch} {w : Micro} {edges : Vector PeVec 4} (h : s.Onward a ms w edges u) {m : Arch}
    (hm : m ∈ ms) : ((s.goneOn u a ms w).arch[m]).seq.stepSlot = (s.arch[m]).seq.stepSlot := by
  have hu : (u.arch[m]).seq.stepSlot = (s.arch[m]).seq.stepSlot := by
    have hk := Seq.of_latless (fun q => q.offPlace.stepSlot) (fun _ => rfl) (h.registers hm)
    rw [Seq.onward_offPlace] at hk
    exact hk
  unfold State.goneOn
  split
  · exact (State.modSeqs_seq_keep u ms (fun x => { x with mode := .running }) (g := Seq.stepSlot) (fun _ => rfl) m).trans hu
  · exact hu

/-- Behind a framebar the rings stand at their first contexts. -/
theorem State.Onward.ring_pos {s u : State} {a : Arch} {ms : List Arch} {w : Micro} {edges : Vector PeVec 4} (h : s.Onward a ms w edges u)
    (h4 : mwSpc w = 4) {m : Arch} (hm : m ∈ ms) : ((s.goneOn u a ms w).arch[m]).ring.pos = 0 := by
  have hu := h.ring h4 hm
  unfold State.goneOn
  split
  · rw [State.modSeqs_keep u ms _ (g := ArchSt.ring) (fun _ _ => rfl), hu]
  · exact hu

theorem Seq.goNext_latSeq (q : Seq) (n : Next) : (q.goNext n).latSeq = q.latSeq := by
  cases n with
  | pop =>
    show Seq.latSeq (match q.ctx.stack with | r :: rest => _ | [] => _) = _
    cases q.ctx.stack <;> rfl
  | _ => rfl

/-- Behind a latbar its number counts. -/
theorem State.Onward.latSeq {s u : State} {a : Arch} {ms : List Arch} {w : Micro} {edges : Vector PeVec 4} (h : s.Onward a ms w edges u)
    (h3 : mwSpc w = 3) {m : Arch} (hm : m ∈ ms) : ((s.goneOn u a ms w).arch[m]).seq.latSeq = (s.arch[m]).seq.latSeq + 1 := by
  have hu : (u.arch[m]).seq.latSeq = (s.arch[m]).seq.latSeq + 1 := by
    refine (Seq.of_latless Seq.latSeq (fun _ => rfl) (h.registers hm)).trans ?_
    rw [Seq.onward, Seq.goNext_latSeq, Seq.barred, if_pos h3]
    rfl
  unfold State.goneOn
  split
  · exact (State.modSeqs_seq_keep u ms (fun x => { x with mode := .running }) (g := Seq.latSeq) (fun _ => rfl) m).trans hu
  · exact hu

/-- A barrier word that its stream may issue has its whole effect. -/
theorem State.Ready.issues {s : State} {a : Arch} {ms : List Arch} {w : Micro} {edges : Vector PeVec 4} (h : s.Ready a ms w edges) (hl : ¬ s.Leaves a w)
    (hw : mwSpc w = 3 ∨ mwSpc w = 4) {release : Bool} (h3 : mwSpc w = 3 → release = true) (h4 : mwSpc w = 4 → ms.all s.frameBarrier = true) :
    s.Issued a ms w edges (s.issueWord (s.leadOf a) ms release) ∧
    (mwSpc w = 4 → ∀ m ∈ ms, ((s.issueWord (s.leadOf a) ms release).arch[m]).ring.pos = 0) ∧
    (mwSpc w = 3 → ∀ m ∈ ms, ((s.issueWord (s.leadOf a) ms release).arch[m]).seq.latSeq = (s.arch[m]).seq.latSeq + 1) := by
  obtain ⟨hst, hf, he, -⟩ := h
  have hap := hst.apart
  have hn := hst.nodup
  have hlead := hst.lead_mem
  obtain ⟨hs, ha, -, -, -, -, hstep, hr, hm, -⟩ := hst
  have hspc : mwSpc w ≠ 1 ∧ mwSpc w ≠ 2 ∧ mwSpc w ≠ 5 := by
    rcases hw with e | e <;> rw [e] <;> decide
  obtain ⟨h1, h2, h5⟩ := hspc
  obtain ⟨u, v, like, hp, ho, hi⟩ := State.issueWord_goneOn hs ha hap (fun m k => (hm m k).1) hr hf he hl h1 h2 h5 (fun e _ => h3 e) h4
  have hnone : ((u.goneOn v a ms w).arch[s.leadOf a]).seq.stepSlot = none := by
    rw [ho.stepSlot hlead, like.seq Seq.stepSlot (fun _ => rfl), hstep]
  rw [hi, State.stepped_none hnone]
  refine ⟨like.issued hp (ho.issued hn h1 h2 h5), fun e m k => ho.ring_pos e k, fun e m k => ?_⟩
  rw [ho.latSeq e k, like.seq Seq.latSeq (fun _ => rfl)]

/-- FRAMEBAR_RELEASE where the frame barrier is reached. -/
theorem framebarRelease_issues {s : State} {a : Arch} {ms : List Arch} {w : Micro} {edges : Vector PeVec 4} (h : s.Ready a ms w edges)
    (hl : ¬ s.Leaves a w) (hm : (s.arch[s.leadOf a]).seq.mode = .barrier) (h4 : mwSpc w = 4) (hb : ms.all s.frameBarrier = true) :
    ∃ t, exec (.framebarRelease a) s = .next t ∧ s.Issued a ms w edges t ∧ ∀ m ∈ ms, (t.arch[m]).ring.pos = 0 := by
  obtain ⟨hi, hring, -⟩ := h.issues hl (.inr h4) (release := false) (fun e => absurd (h4.symm.trans e) (by decide)) (fun _ => hb)
  refine ⟨_, ?_, hi, hring h4⟩
  obtain ⟨hst, hf, -⟩ := h
  have hfetch := (hf _ hst.lead_mem).1
  obtain ⟨hs, -, hal, hrd, -, ht, -⟩ := hst
  subst hs
  show execFramebarRelease a s = _
  unfold execFramebarRelease
  simp only [hm, hfetch, Option.getD_some, h4, hb, hal, hrd, State.holdEnds_untrapped ht, decide_true, Bool.or_true, Bool.and_self, if_true]

/-- LATBAR_RELEASE where every neighbour has reached the number. -/
theorem latbarRelease_issues {s : State} {a : Arch} {ms : List Arch} {w : Micro} {edges : Vector PeVec 4} (h : s.Ready a ms w edges)
    (hl : ¬ s.Leaves a w) (hm : (s.arch[s.leadOf a]).seq.mode = .barrier) (h3 : mwSpc w = 3)
    (hb : ∀ side lane, s.neighbour side = some lane → s.latLink lane = true ∧
      ∃ n, (s.straits[linkNo lane]).barRx = some n ∧ (n - ((s.arch[s.leadOf a]).seq.latSeq + 1)).toNat < 0x8000) :
    ∃ t, exec (.latbarRelease a) s = .next t ∧ s.Issued a ms w edges t ∧ ∀ m ∈ ms, (t.arch[m]).seq.latSeq = (s.arch[m]).seq.latSeq + 1 := by
  obtain ⟨hi, -, hseq⟩ := h.issues hl (.inl h3) (release := true) (fun _ => rfl) (fun e => absurd (h3.symm.trans e) (by decide))
  refine ⟨_, ?_, hi, hseq h3⟩
  obtain ⟨hst, hf, -⟩ := h
  have hfetch := (hf _ hst.lead_mem).1
  obtain ⟨hs, -, hal, hrd, -, ht, -, hr, -⟩ := hst
  subst hs
  have hreached : (((List.finRange 4).filterMap s.neighbour).dedup).all (fun lane => s.latLink lane &&
      (s.straits[if lane then (1 : Fin 2) else 0]).barRx.any (fun n => decide ((n - ((s.arch[s.leadOf a]).seq.latSeq + 1)).toNat < 0x8000))) = true := by
    rw [List.all_eq_true]
    intro lane hlane
    obtain ⟨side, -, hside⟩ := List.mem_filterMap.mp (List.mem_dedup.mp hlane)
    obtain ⟨hlink, n, hn, hlt⟩ := hb side lane hside
    have hn' : (s.straits[if lane then (1 : Fin 2) else 0]).barRx = some n := hn
    rw [hlink, hn', Option.any_some, decide_eq_true hlt]
    rfl
  show execLatbarRelease a s = _
  unfold execLatbarRelease
  simp only [hm, hfetch, hr, Option.getD_some, h3, hreached, hal, hrd, State.holdEnds_untrapped ht, decide_true, Option.isNone_none, Bool.and_self,
    if_true]

/-- Settles O32: the releases of Part III's parks and stalls, each from its own lemma. -/
theorem sequencerReleases : Obligations.SequencerReleases := by
  refine ⟨fun a s ms r rest h hm hq hd => ⟨fun hc => dispatchWaitEnd_runs h hm hq hd hc, fun sub hc => dispatchWaitEnd_faults h hm hq hd hc⟩,
    fun a s ms w hs hal ht hm hf hw => waitRelease_runs hs hal ht hm hf hw,
    fun a s ms w edges h hl hm => ⟨fun h4 hb => framebarRelease_issues h hl hm h4 hb, fun h3 hb => latbarRelease_issues h hl hm h3 hb⟩,
    fun a s k hk => reductionResult_lands a s k hk⟩

end Sys2Proof.Machine
end

section
/-! PROOF. The actions of SEQCTL but STEP, and of PQCTL, MCECNT and ICTRL (spec/03 R93, R100; spec/05 R145; spec/02 R63). -/
namespace Sys2Proof.Machine

/-! ### An access that its block serves -/

/-- An access to a control block that is open is answered with the block's status, in the state the block leaves but for the network. -/
theorem exec_archAction {s : State} {acc : Acc} {a : Arch} (hg : s.archGate acc a = none) {i : Instr} {f : State → Status × State}
    (hi : exec i s = .next (s.archAction acc a f)) {st : Status} {P : State → Prop}
    (h : ∀ k, ∃ u, f { s with net := k } = (st, u) ∧ ∀ k fr, P { u with net := k, fresh := fr }) :
    ∃ t, exec i s = .next t ∧ P t ∧ answered t acc st [] := by
  have hreach : accReachesRegs acc = true := by
    cases hr : accReachesRegs acc with
    | true => rfl
    | false => simp [State.archGate, hr] at hg
  obtain ⟨u, hu, hP⟩ := h (s.enters true acc 4).net
  have ha : s.archAction acc a f = u.answer acc st [] := by
    have hgate : (s.enters true acc 4).archGate acc a = none := hg
    have hf : f (s.enters true acc 4) = (st, u) := hu
    unfold State.archAction
    rw [hreach]
    dsimp only
    rw [hgate, hf]
  obtain ⟨k, fr, hf⟩ := u.answer_frame acc st []
  refine ⟨u.answer acc st [], hi.trans (congrArg _ ha), ?_, State.answered_answer ..⟩
  rw [hf]
  exact hP k fr

/-! ### SEQCTL.HALT and CLRFAULT -/

section
variable {s : State} {a : Arch} (h : s.Alone a)
include h

/-- A stream of one member is its own lead. -/
theorem State.Alone.leadOf : s.leadOf a = a := by
  rw [State.leadOf, h.1]
  rfl

theorem State.Alone.pairHeld : s.vitalPairHeld a = false := by
  obtain ⟨-, -, -, ht, -⟩ := h
  rw [State.vitalPairHeld, ht, Bool.false_and]

theorem State.Alone.stepSlot : (s.arch[a]).seq.stepSlot = none := by
  obtain ⟨-, -, -, -, -, -, -, -, -, -, hs, -⟩ := h
  exact hs

/-- HALT = 1 in a dispatch wait. -/
theorem State.Alone.writeHalt_set (hm : (s.arch[a]).seq.mode = .dispatchWait) (hq : (s.arch[a]).seq.haltReq = false) :
    ∃ u, s.writeHalt a true = (.ok, u) ∧ (u.arch[a]).seq = { (s.arch[a]).seq with haltReq := true, mode := .halted false } := by
  have hb : ((s.arch[a]).seq.haltReq == true) = false := by rw [hq]; rfl
  have h1 : ((s.modSeq a (fun q => { q with haltReq := true })).arch[a]).seq = { (s.arch[a]).seq with haltReq := true } := by
    rw [State.modSeq_seq, if_pos rfl]
  unfold State.writeHalt
  simp only [h.leadOf, h.1, h.pairHeld, hb, Bool.false_eq_true, if_false, if_true, h1, hm]
  refine ⟨_, rfl, ?_⟩
  rw [State.modSeqs_seq _ (List.nodup_singleton a) (List.mem_singleton_self a), h1]

/-- HALT = 0 in the halt of a dispatch wait. -/
theorem State.Alone.writeHalt_clear (hm : (s.arch[a]).seq.mode = .halted false) (hq : (s.arch[a]).seq.haltReq = true) :
    ∃ u, s.writeHalt a false = (.ok, u) ∧ (u.arch[a]).seq = { (s.arch[a]).seq with haltReq := false, mode := .dispatchWait } := by
  have hb : ((s.arch[a]).seq.haltReq == false) = false := by rw [hq]; rfl
  have h1 : (((s.modSeq a (fun q => { q with haltReq := false })).modSeqs [a] (fun x => { x with stepSlot := none })).arch[a]).seq =
      { (s.arch[a]).seq with haltReq := false } := by
    rw [State.modSeqs_seq _ (List.nodup_singleton a) (List.mem_singleton_self a), State.modSeq_seq, if_pos rfl, ← h.stepSlot]
  unfold State.writeHalt
  simp only [h.leadOf, h.1, h.pairHeld, hb, Bool.false_eq_true, if_false, List.any_cons, List.any_nil, Bool.or_false, h1, hm]
  refine ⟨_, rfl, ?_⟩
  rw [State.modSeqs_seq _ (List.nodup_singleton a) (List.mem_singleton_self a), h1]

omit h in
/-- The records that trap slots hold are completed; of the sequencers the slots alone change. -/
theorem State.dropSlots_seq (s : State) (lead : Arch) {ms : List Arch} (hn : ms.Nodup) {m : Arch} (hm : m ∈ ms) (status detail : Nat) :
    ((s.dropSlots lead ms status detail).arch[m]).seq = { (s.arch[m]).seq with slot0 := none, slot1 := none } := by
  unfold State.dropSlots
  dsimp only
  rw [State.modSeqs_seq _ hn hm]
  refine congrArg (fun q : Seq => { q with slot0 := none, slot1 := none }) (foldl_keep s (fun t : State => (t.arch[m]).seq) _ (fun t sl => ?_) _)
  split
  · split
    · rfl
    · exact congrArg (fun v : Vector ArchSt 8 => (v[m]).seq) (State.complete_arch ..)
  · rfl

omit h in
/-- Without a record the stream parks at its dispatch. -/
theorem State.takeNext_empty {s : State} {lead : Arch} (ms : List Arch) (hq : (s.arch[lead]).seq.queue = []) : s.takeNext lead ms = s.parkDispatch ms := by
  unfold State.takeNext
  rw [hq, List.isEmpty_nil, Bool.or_true, if_pos rfl]

omit h in
/-- A stream without a record or a halt request parks at its dispatch. -/
theorem State.takeNext_parks {s : State} {a : Arch} (hq : (s.arch[a]).seq.queue = []) (hh : (s.arch[a]).seq.haltReq = false) :
    ((s.takeNext a [a]).arch[a]).seq = { (s.arch[a]).seq with mode := .dispatchWait, held := false } := by
  rw [State.takeNext_empty _ hq, State.parkDispatch, State.modSeqs_seq _ (List.nodup_singleton a) (List.mem_singleton_self a)]
  simp only [List.any_cons, List.any_nil, Bool.or_false, hh, Bool.false_and, Bool.false_eq_true, if_false]

/-- CLRFAULT with an empty queue. -/
theorem State.Alone.clrFault_parks (hm : (s.arch[a]).seq.mode = .fault) (hq : (s.arch[a]).seq.queue = []) (hh : (s.arch[a]).seq.haltReq = false) :
    let q := ((s.clrFault a).arch[a]).seq
    q.mode = .dispatchWait ∧ q.seqFault.valid = false ∧ q.recFault.valid = false ∧ q.ctx.cur = none := by
  have hn := List.nodup_singleton a
  have ha := List.mem_singleton_self a
  have hfault : s.faulted [a] = true := by
    rw [State.faulted, List.any_cons, hm]
    rfl
  unfold State.clrFault
  simp only [h.leadOf, h.1, hfault, List.isEmpty_cons, Bool.not_true, Bool.false_eq_true, if_false]
  have key : ∀ {u : State} {x : Lattice} {q : Seq}, (u.arch[a]).seq = q → q.queue = [] → q.haltReq = false →
      (((({ u with lattice := x } : State).takeNext a [a]).arch[a])).seq = { q with mode := .dispatchWait, held := false } := by
    rintro u x q rfl hq hh
    exact State.takeNext_parks (s := { u with lattice := x }) hq hh
  rw [key (State.modSeqs_seq _ hn ha _)]
  · rw [State.dropSlots_seq _ _ hn ha, State.modTwins_keep _ _ _ (g := ArchSt.seq) (fun _ _ => rfl), State.modSeqs_seq _ hn ha]
    exact ⟨rfl, rfl, rfl, rfl⟩
  · rw [State.dropSlots_seq _ _ hn ha, State.modTwins_keep _ _ _ (g := ArchSt.seq) (fun _ _ => rfl), State.modSeqs_seq _ hn ha]
    exact hq
  · rw [State.dropSlots_seq _ _ hn ha, State.modTwins_keep _ _ _ (g := ArchSt.seq) (fun _ _ => rfl), State.modSeqs_seq _ hn ha]
    exact hh

end

/-! ### The accesses -/

section
variable {s : State} {acc : Acc} {a : Arch}

/-- STEP is refused outside SERVICE. -/
theorem State.writeStep_denied (hm : s.mode ≠ .service) (a : Arch) : s.writeStep a = (.denied, s) := by
  unfold State.writeStep State.service
  rw [decide_eq_false hm]
  rfl

theorem State.writeInj_denied (hm : s.mode ≠ .service) (P : Isl) (plane : A13) (cl : BitVec 4) (dbl : Bool) :
    s.writeInj P plane cl dbl = (.denied, s) := by
  unfold State.writeInj State.service
  rw [decide_eq_false hm]
  rfl

theorem State.writeInj_arms (hm : s.mode = .service) (P : Isl) (plane : A13) (cl : BitVec 4) (dbl : Bool) :
    s.writeInj P plane cl dbl = (.ok, s.modIsl P (fun i => { i with injPlane := plane, injCl := cl, injD := dbl, inj := true })) := by
  unfold State.writeInj State.service
  rw [decide_eq_true hm]
  rfl

/-- Completed records leave the archipelagos and the buffers, and their completions go to the cores. -/
theorem foldl_complete (l : List PourRec) (status detail : Nat) (s : State) :
    let t := l.foldl (fun t r => t.complete r status detail none) s
    t.arch = s.arch ∧ t.pour.buf = s.pour.buf ∧
      t.pour.compl = s.pour.compl ++ l.map (fun r => { core := r.core, tag := r.tag, word := complWord r status detail none }) := by
  induction l generalizing s with
  | nil => exact ⟨rfl, rfl, (List.append_nil _).symm⟩
  | cons r l ih =>
    obtain ⟨h1, h2, h3⟩ := ih (s.complete r status detail none)
    refine ⟨h1, h2, h3.trans ?_⟩
    rw [State.complete_compl, List.append_assoc]
    rfl

/-- A flush with empty buffers completes the queued records. -/
theorem State.flushQueue_unbuffered (hb : ∀ n : CoreId, s.pour.buf[n] = []) (lead : Arch) (status detail : Nat) :
    let t := s.flushQueue lead status detail
    (t.arch[lead]).seq = { (s.arch[lead]).seq with queue := [] } ∧ t.pour.compl = s.pour.compl ++ (s.arch[lead]).seq.queue.map
      (fun r => { core := r.core, tag := r.tag, word := complWord r status detail none }) := by
  have hbuf : s.pour.buf.toList.flatMap (fun l => l.filter (s.bufferedFor lead)) = [] := by
    rw [List.flatMap_eq_nil_iff]
    intro l hl
    obtain ⟨i, hi, rfl⟩ := List.mem_iff_getElem.mp hl
    have he := hb ⟨i, by simpa using hi⟩
    rw [Vector.getElem_toList]
    exact congrArg _ he
  obtain ⟨h1, -, h3⟩ := foldl_complete (s.arch[lead]).seq.queue status detail s
  unfold State.flushQueue
  dsimp only
  rw [hbuf, List.append_nil]
  generalize (s.arch[lead]).seq.queue.foldl (fun t r => t.complete r status detail none) s = t at h1 h3
  refine ⟨?_, h3⟩
  show ((t.modSeq lead (fun x => { x with queue := [] })).arch[lead]).seq = _
  rw [State.modSeq_seq, if_pos rfl, h1]

/-- PQCTL.FLUSH at the lead of a stream. -/
theorem pqctlFlush_empties (hg : s.archGate acc a = none) (hl : s.leadOf a = a) (hv : s.vitalPairHeld a = false)
    (hb : ∀ n : CoreId, s.pour.buf[n] = []) :
    ∃ t, exec (.pqctlFlush acc a) s = .next t ∧ (t.arch[a]).seq = { (s.arch[a]).seq with queue := [] } ∧ answered t acc .ok [] ∧
      t.pour.compl = s.pour.compl ++ (s.arch[a]).seq.queue.map (fun r => { core := r.core, tag := r.tag, word := complWord r 3 1 none }) := by
  have hf : ∀ k, ({ s with net := k } : State).writeFlush a = (.ok, ({ s with net := k } : State).flushQueue a 3 1) := by
    intro k
    have hl' : ({ s with net := k } : State).leadOf a = a := hl
    have hv' : ({ s with net := k } : State).vitalPairHeld a = false := hv
    unfold State.writeFlush
    rw [hl', hv', if_neg Bool.false_ne_true, if_neg (fun h => h rfl)]
  obtain ⟨t, hx, ⟨h1, h2⟩, h3⟩ := exec_archAction (i := .pqctlFlush acc a) (f := fun t => t.writeFlush a) hg rfl
    (P := fun t => (t.arch[a]).seq = { (s.arch[a]).seq with queue := [] } ∧
      t.pour.compl = s.pour.compl ++ (s.arch[a]).seq.queue.map (fun r => { core := r.core, tag := r.tag, word := complWord r 3 1 none }))
    (fun k => ⟨_, hf k, fun _ _ => State.flushQueue_unbuffered (s := { s with net := k }) hb a 3 1⟩)
  exact ⟨t, hx, h1, h3, h2⟩

/-- MCECNT.CECLR. -/
theorem mcecntCeclr_clears (hg : s.archGate acc a = none) :
    ∃ t, exec (.mcecntCeclr acc a) s = .next t ∧ (t.arch[a]).mould = { (s.arch[a]).mould with ceCnt := 0 } ∧ answered t acc .ok [] :=
  exec_archAction (i := .mcecntCeclr acc a) (f := fun t => (.ok, t.modMould a (fun m => { m with ceCnt := 0 }))) hg rfl
    (P := fun t => (t.arch[a]).mould = { (s.arch[a]).mould with ceCnt := 0 })
    (fun _ => ⟨_, rfl, fun _ _ => congrArg ArchSt.mould (vmod_at s.arch a _)⟩)

end

/-- The registers of an island are of its archipelago. -/
theorem islArch_eq {P : Isl} {a : Arch} (h : P.val / 33 = a.val) : islArch P = a := by
  unfold islArch ix
  rw [dif_pos (h ▸ a.isLt)]
  exact Fin.ext h

section
variable {s : State} {acc : Acc} {P : Isl} (hg : s.archGate acc (islArch P) = none)
include hg

/-- ICTRL.CECLR. -/
theorem ictrlCeclr_clears : ∃ t, exec (.ictrlCeclr acc P) s = .next t ∧ t.isl[P] = { s.isl[P] with cecnt := 0 } ∧ answered t acc .ok [] :=
  exec_archAction (i := .ictrlCeclr acc P) (f := fun t => (.ok, t.modIsl P (fun i => { i with cecnt := 0 }))) hg rfl
    (P := fun t => t.isl[P] = { s.isl[P] with cecnt := 0 }) (fun _ => ⟨_, rfl, fun _ _ => vmod_at s.isl P _⟩)

variable (plane : A13) (cl : BitVec 4) (dbl : Bool)

/-- ICTRL.INJ in SERVICE. -/
theorem ictrlInj_arms (hm : s.mode = .service) : ∃ t, exec (.ictrlInj acc P plane cl dbl) s = .next t ∧
    t.isl[P] = { s.isl[P] with injPlane := plane, injCl := cl, injD := dbl, inj := true } ∧ answered t acc .ok [] :=
  exec_archAction (i := .ictrlInj acc P plane cl dbl) (f := fun t => t.writeInj P plane cl dbl) hg rfl
    (P := fun t => t.isl[P] = { s.isl[P] with injPlane := plane, injCl := cl, injD := dbl, inj := true })
    (fun k => ⟨_, State.writeInj_arms (s := { s with net := k }) hm P plane cl dbl, fun _ _ => vmod_at s.isl P _⟩)

/-- ICTRL.INJ outside SERVICE. -/
theorem ictrlInj_denied (hm : s.mode ≠ .service) :
    ∃ t, exec (.ictrlInj acc P plane cl dbl) s = .next t ∧ t.isl = s.isl ∧ answered t acc .denied [] :=
  exec_archAction (i := .ictrlInj acc P plane cl dbl) (f := fun t => t.writeInj P plane cl dbl) hg rfl (P := fun t => t.isl = s.isl)
    (fun k => ⟨_, State.writeInj_denied (s := { s with net := k }) hm P plane cl dbl, fun _ _ => rfl⟩)

end

section
variable {s : State} {acc : Acc} {a : Arch} (hg : s.archGate acc a = none)
include hg

/-- STEP outside SERVICE. -/
theorem seqctlStep_denied (hm : s.mode ≠ .service) : ∃ t, exec (.seqctlStep acc a) s = .next t ∧ t.arch = s.arch ∧ answered t acc .denied [] :=
  exec_archAction (i := .seqctlStep acc a) (f := fun t => t.writeStep a) hg rfl (P := fun t => t.arch = s.arch)
    (fun k => ⟨_, State.writeStep_denied (s := { s with net := k }) hm a, fun _ _ => rfl⟩)

variable (h : s.Alone a)
include h

/-- SEQCTL.HALT = 1 in a dispatch wait. -/
theorem seqctlHalt_halts (hm : (s.arch[a]).seq.mode = .dispatchWait) (hq : (s.arch[a]).seq.haltReq = false) :
    ∃ t, exec (.seqctlHalt acc a true) s = .next t ∧ (t.arch[a]).seq = { (s.arch[a]).seq with haltReq := true, mode := .halted false } ∧
      answered t acc .ok [] :=
  exec_archAction (i := .seqctlHalt acc a true) (f := fun t => t.writeHalt a true) hg rfl
    (P := fun t => (t.arch[a]).seq = { (s.arch[a]).seq with haltReq := true, mode := .halted false })
    (fun k => (State.Alone.writeHalt_set (s := { s with net := k }) h hm hq).imp (fun _ hu => ⟨hu.1, fun _ _ => hu.2⟩))

/-- SEQCTL.HALT = 0 in the halt of a dispatch wait. -/
theorem seqctlHalt_releases (hm : (s.arch[a]).seq.mode = .halted false) (hq : (s.arch[a]).seq.haltReq = true) :
    ∃ t, exec (.seqctlHalt acc a false) s = .next t ∧ (t.arch[a]).seq = { (s.arch[a]).seq with haltReq := false, mode := .dispatchWait } ∧
      answered t acc .ok [] :=
  exec_archAction (i := .seqctlHalt acc a false) (f := fun t => t.writeHalt a false) hg rfl
    (P := fun t => (t.arch[a]).seq = { (s.arch[a]).seq with haltReq := false, mode := .dispatchWait })
    (fun k => (State.Alone.writeHalt_clear (s := { s with net := k }) h hm hq).imp (fun _ hu => ⟨hu.1, fun _ _ => hu.2⟩))

/-- SEQCTL.CLRFAULT with an empty queue. -/
theorem seqctlClrfault_parks (hm : (s.arch[a]).seq.mode = .fault) (hq : (s.arch[a]).seq.queue = []) (hh : (s.arch[a]).seq.haltReq = false) :
    ∃ t, exec (.seqctlClrfault acc a) s = .next t ∧ (t.arch[a]).seq.mode = .dispatchWait ∧ (t.arch[a]).seq.seqFault.valid = false ∧
      (t.arch[a]).seq.recFault.valid = false ∧ (t.arch[a]).seq.ctx.cur = none ∧ answered t acc .ok [] := by
  obtain ⟨t, hx, ⟨h1, h2, h3, h4⟩, h5⟩ := exec_archAction (i := .seqctlClrfault acc a) (f := fun t => (.ok, t.clrFault a)) hg rfl
    (P := fun t => (t.arch[a]).seq.mode = .dispatchWait ∧ (t.arch[a]).seq.seqFault.valid = false ∧ (t.arch[a]).seq.recFault.valid = false ∧
      (t.arch[a]).seq.ctx.cur = none)
    (fun k => ⟨_, rfl, fun _ _ => State.Alone.clrFault_parks (s := { s with net := k }) h hm hq hh⟩)
  exact ⟨t, hx, h1, h2, h3, h4, h5⟩

end

end Sys2Proof.Machine
end

section
/-! PROOF. The words of the vendor area, which save and restore what a trap interrupts (spec/04 R110, Tables 4.3 and 4.4). -/
namespace Sys2Proof.Machine

/-! ### Islands stay ready -/

@[simp] theorem IslSt.readPlane_ready (i : IslSt) (p : A13) : (i.readPlane p).2.ready = i.ready :=
  IslSt.of_aside IslSt.ready (fun _ => rfl) (IslSt.readPlane_aside ..)

@[simp] theorem IslSt.writePartial_ready (i : IslSt) (p : A13) (v m : PeVec) (cls : List Nat) : (i.writePartial p v m cls).ready = i.ready :=
  IslSt.of_aside IslSt.ready (fun _ => rfl) (IslSt.writePartial_aside ..)

/-- A ladle access slot leaves an island as ready as it was. -/
@[simp] theorem IslSt.viewSlot_ready (i : IslSt) : i.viewSlot.1.ready = i.ready := by
  unfold IslSt.viewSlot
  cases i.waiting with
  | nil => rfl
  | cons v rest =>
    dsimp only
    cases v.req.op with
    | read len => split <;> simp [apply_ite Prod.fst, apply_ite IslSt.ready]
    | write bs => split <;> simp [apply_ite Prod.fst, apply_ite IslSt.ready]
    | atomic f x => split <;> simp [apply_ite Prod.fst, apply_ite IslSt.ready]

/-- Which islands are ready. -/
def State.awake (s : State) : Isl → Bool := fun P => (s.isl[P]).ready

theorem State.modIsl_awake (s : State) (P : Isl) {f : IslSt → IslSt} (h : (f s.isl[P]).ready = (s.isl[P]).ready) : (s.modIsl P f).awake = s.awake := by
  refine funext (fun Q => ?_)
  show ((s.modIsl P f).isl[Q]).ready = _
  rw [State.modIsl_apply]
  split
  · next e => subst e; exact h
  · rfl

@[simp] theorem State.tellUe_awake (s : State) (a : Arch) : (s.tellUe a).awake = s.awake :=
  funext (fun P => State.tellUe_isl s a (g := IslSt.ready) (fun _ => rfl) P)

@[simp] theorem State.mirror_awake (s : State) (a : Arch) : (s.mirror a).awake = s.awake := by
  unfold State.mirror
  split
  · rfl
  · exact State.modIsl_awake _ _ rfl

theorem IslSt.alsoWrite_ready (r i : IslSt) : (r.alsoWrite i).ready = r.ready := by
  unfold IslSt.alsoWrite
  split
  · split
    · exact IslSt.viewSlot_ready _
    · rfl
  · rfl

theorem State.alsoServed_awake (s : State) (a : Arch) (P : Isl) : (s.alsoServed a P).awake = s.awake := by
  unfold State.alsoServed
  split
  · split
    · exact State.modIsl_awake _ _ (IslSt.alsoWrite_ready ..)
    · rfl
  · rfl

theorem State.viewSlot1_awake (s : State) (a : Arch) (P : Isl) : (s.viewSlot1 a P).awake = s.awake := by
  have ha := State.alsoServed_awake s a P
  rw [State.viewSlot1_eq]
  refine Eq.trans (congrArg (fun v : Vector IslSt 264 => fun Q : Isl => (v[Q]).ready) (State.isl_of_array (State.slotAnswer_array ..))) ?_
  exact (State.modIsl_awake _ _ ((IslSt.viewSlot_ready _).trans (congrFun ha P).symm)).trans ha

@[simp] theorem State.viewSlots1_awake (s : State) (a : Arch) : (s.viewSlots1 a).awake = s.awake := by
  unfold State.viewSlots1
  rw [State.mirror_awake, State.tellUe_awake]
  exact foldl_keep s State.awake _ (fun t P => State.viewSlot1_awake t a P) _

section
variable (s : State) (edges : Vector PeVec 4) (lat force : Bool)

theorem State.cycled_ready (am : Arch × Micro) (p : Fin 32) (i : IslSt) : (s.cycled edges lat force am p i).ready = i.ready := by
  have h : (s.cycle edges lat force am p i).isl.ready = i.ready := IslSt.pour_ready ..
  unfold State.cycled
  split <;> exact h

theorem IslSt.shadowPour_ready (r : IslSt) (q : PourIn) (data mask : PeVec) : (r.shadowPour q data mask).ready = r.ready := by
  refine IslSt.of_aside IslSt.ready (fun _ => rfl) ?_
  unfold IslSt.shadowPour
  dsimp only
  split <;> simp

/-- Pour cycles leave the islands as ready as they were. -/
@[simp] theorem State.pourAll_awake (ms : List (Arch × Micro)) : (s.pourAll ms edges lat force).1.awake = s.awake := by
  have hp : ∀ am tf p, (s.pourAt edges lat force am tf p).1.awake = tf.1.awake := by
    intro am tf p
    have hc : (tf.1.modIsl (s.islAt am.1 p) (fun _ => s.cycled edges lat force am p tf.1.isl[s.islAt am.1 p])).awake = tf.1.awake :=
      State.modIsl_awake _ _ (s.cycled_ready edges lat force am p _)
    unfold State.pourAt
    dsimp only
    split
    · split
      · exact (State.modIsl_awake _ _ (IslSt.shadowPour_ready ..)).trans hc
      · exact hc
    · exact hc
  rw [State.pourAll_eq]
  refine foldl_fst_keep _ (fun acc am => ?_) _ _
  unfold State.pourOne
  rw [State.mirror_awake, State.tellUe_awake, foldl_fst_keep _ (hp am)]

end

/-! ### What a word of the vendor area leaves -/

theorem Mould.fetch_clean {m : Mould} {pc : A13} (h : SMap.get 0 m.delta pc.toNat = 0) : m.fetch pc = (some (SMap.get 0 m.word pc.toNat), false) := by
  unfold Mould.fetch
  rw [h]
  rfl

theorem State.TrapWords.of_mould {s t : State} {a : Arch} (hw : s.TrapWords a) (h : (t.arch[a]).mould = (s.arch[a]).mould) : t.TrapWords a :=
  fun p hp => (congrArg (fun m : Mould => SMap.get 0 m.delta p) h).trans (hw p hp)

/-- An archipelago but for the place of its last word and what errors tell its tide. -/
def ArchSt.settled (y : ArchSt) : ArchSt := { y.still with seq := { y.seq with lastPc := 0, lastNt := false } }

/-- What a trap's words leave of the machine: its grade, the archipelagos but for the places of their last words, and which islands are ready. -/
def State.rest (s : State) : Bool × (Arch → ArchSt) × (Isl → Bool) := (s.gradeC, fun b => (s.arch[b]).settled, s.awake)

section
variable {s t : State} (h : t.rest = s.rest)
include h

/-- What is read of an archipelago but the place of its last word and its tide. -/
theorem State.of_rest {γ : Type} (g : ArchSt → γ) (hg : ∀ y, g y.settled = g y) (b : Arch) : g t.arch[b] = g s.arch[b] := by
  have hb : (t.arch[b]).settled = (s.arch[b]).settled := congrArg (fun x => x.2.1 b) h
  rw [← hg, hb, hg]

theorem State.TrapWords.of_rest {a : Arch} (ha : s.TrapWords a) : t.TrapWords a :=
  ha.of_mould (State.of_rest h ArchSt.mould (fun _ => rfl) a)

theorem State.faulted_of_rest (ms : List Arch) : t.faulted ms = s.faulted ms := by
  unfold State.faulted
  simp only [State.of_rest h (fun y => y.seq.mode) (fun _ => rfl)]

end

theorem State.rest_of_ground {s t : State} (hg : t.ground = s.ground) (hf : t.fixed = s.fixed) (ha : t.awake = s.awake) : t.rest = s.rest :=
  Prod.ext (congrArg Fixed.gradeC hf) (Prod.ext (funext (State.of_ground ArchSt.settled (fun _ => rfl) hg)) ha)

theorem State.modSeqs_rest (s : State) (ms : List Arch) {f : Seq → Seq} (h : ∀ y : ArchSt, { y with seq := f y.seq }.settled = y.settled) :
    (s.modSeqs ms f).rest = s.rest := by
  have hb := vmods_keep id (fun _ (y : ArchSt) => { y with seq := f y.seq }) (g := ArchSt.settled) (fun _ => h) ms s.arch
  rw [State.modSeqs_eq]
  exact Prod.ext rfl (Prod.ext (funext hb) rfl)

theorem State.viewSlots1s_rest (s : State) (ms : List Arch) : (s.eachArch ms State.viewSlots1).rest = s.rest :=
  foldl_keep s State.rest _ (fun t a => State.rest_of_ground (State.viewSlots1_ground t a) (State.viewSlots1_fixed t a) (State.viewSlots1_awake t a)) ms

/-- A word of the vendor area that is fetched clean leaves all but the array and the place of the last word. -/
theorem State.fixedWord_rest {s : State} {lead : Arch} {ms : List Arch} (hw : ∀ m ∈ ms, s.TrapWords m) (ht : (s.arch[lead]).seq.part.twin = false)
    (k : Nat) (w : Option Micro) : (s.fixedWord lead ms k w).rest = s.rest := by
  have hp : (trapAddr k).toNat < 64 := by
    have h : (trapAddr k).toNat = Config.trapWord k % 64 % 2 ^ 13 := BitVec.toNat_ofNat ..
    omega
  have hf : ∀ m ∈ ms, (s.arch[m]).mould.fetch (trapAddr k) = (some (SMap.get 0 (s.arch[m]).mould.word (trapAddr k).toNat), false) :=
    fun m hm => Mould.fetch_clean (hw m hm _ hp)
  have hbad : ms.filter (fun a => ((s.arch[a]).mould.fetch (trapAddr k)).1.isNone) = [] :=
    List.filter_eq_nil_iff.mpr (fun m hm => by rw [hf m hm]; exact Bool.false_ne_true)
  have hcount : s.countFetch ms (trapAddr k) = s := by
    unfold State.countFetch State.eachArch
    refine List.foldlRecOn ms _ (motive := fun t => t = s) rfl (fun t ht m hm => ?_)
    rw [ht, hf m hm]
    rfl
  have hcmp : ∀ ws pc, s.wordsCompared lead ms ws pc = s := by
    intro ws pc
    rw [State.wordsCompared, ht, Bool.false_and, if_neg Bool.false_ne_true]
  have hplace : ∀ pc nt, (s.modSeqs ms (fun q => { q with lastPc := pc, lastNt := nt })).rest = s.rest := fun pc nt =>
    State.modSeqs_rest s ms (fun _ => rfl)
  unfold State.fixedWord
  dsimp only
  rw [hbad, hcount, hcmp]
  split
  · rfl
  · rw [List.isEmpty_nil, Bool.not_true, if_neg Bool.false_ne_true]
    split
    · exact (State.rest_of_ground (State.pourAll_ground ..) (State.pourAll_fixed ..) (State.pourAll_awake ..)).trans (hplace ..)
    · exact (State.viewSlots1s_rest ..).trans (hplace ..)

/-- The vendor area's words, one after the other. -/
theorem State.runFixed_rest {s : State} {lead : Arch} {ms : List Arch} (hw : ∀ m ∈ ms, s.TrapWords m) (ht : (s.arch[lead]).seq.part.twin = false)
    (base : Nat) (ws : List Micro) (slots : Nat) : (s.runFixed lead ms base ws slots).rest = s.rest := by
  unfold State.runFixed
  refine List.foldlRecOn _ _ (motive := fun t => State.rest t = s.rest) rfl (fun t h wk _ => ?_)
  exact (State.fixedWord_rest (fun m hm => State.TrapWords.of_rest h (hw m hm))
    ((State.of_rest h (fun y => y.seq.part.twin) (fun _ => rfl) lead).trans ht) _ _).trans h

end Sys2Proof.Machine
end

section
/-! PROOF. STEP: a halted routine is restored, issues one microword and is halted again (spec/03 R93; spec/04 R111, R112). -/
namespace Sys2Proof.Machine

/-! ### The restore -/

theorem State.modSeqs_singleton (s : State) (a : Arch) (f : Seq → Seq) : s.modSeqs [a] f = s.modSeq a f := rfl

/-- A change of one sequencer from states that differ at rest in nothing. -/
theorem State.modSeq_rest_congr {s u : State} (h : u.rest = s.rest) {a : Arch} {f g : Seq → Seq} (hf : f (u.arch[a]).seq = g (u.arch[a]).seq)
    (hg : ∀ y : ArchSt, { y.settled with seq := g y.settled.seq }.settled = { y with seq := g y.seq }.settled) :
    (u.modSeq a f).rest = (s.modSeq a g).rest := by
  refine Prod.ext (congrArg (fun x => x.1) h) (Prod.ext (funext (fun b => ?_)) (congrArg (fun x => x.2.2) h))
  show ((vmod u.arch a _)[b]).settled = ((vmod s.arch a _)[b]).settled
  rw [vmod_apply, vmod_apply]
  split
  · next e =>
    subst e
    rw [hf]
    exact State.of_rest h (fun y => { y with seq := g y.seq }.settled) hg b
  · exact State.of_rest h ArchSt.settled (fun _ => rfl) b

/-- The registers of a routine that leaves trap slot 0. -/
def Seq.restored (sl : TrapSlot) (q : Seq) : Seq :=
  { q with ctx := sl.ctx, pc := sl.pc, tnt := q.tnt || sl.tnt, mode := if sl.waiting then .parkWait else .running, slot0 := none }

section
variable {s : State} {a : Arch} {sl : TrapSlot} (hw : s.TrapWords a) (ht : (s.arch[a]).seq.part.twin = false) (hm : (s.arch[a]).seq.mode = .halted true)
  (h0 : (s.arch[a]).seq.slot0 = some sl) (h1 : (s.arch[a]).seq.slot1 = none) (hp : sl.parityErr = 0)
include hw ht hm h0 h1 hp

/-- A halted stream of one member is restored from slot 0. -/
theorem State.restoreTrap_rest : (s.restoreTrap a [a]).rest = (s.modSeq a (Seq.restored sl)).rest := by
  have hr := State.runFixed_rest (s := s) (lead := a) (ms := [a]) (fun m hm => (List.mem_singleton.mp hm) ▸ hw) ht 24 (Machine.restoreWords (saveBase false)) 7
  have hbad : [a].any (fun b => ((s.arch[b]).seq.slot0).any (fun t => decide (t.parityErr ≠ 0))) = false := by
    rw [List.any_cons, h0, Option.any_some, hp]
    rfl
  have hfault : s.faulted [a] = false := by
    rw [State.faulted, List.any_cons, hm]
    rfl
  unfold State.restoreTrap
  simp only [h1, Option.isSome_none, Bool.false_eq_true, if_false, hbad, State.faulted_of_rest hr, hfault]
  rw [State.modSeqs_singleton]
  generalize s.runFixed a [a] 24 (Machine.restoreWords (saveBase false)) 7 = u at hr
  refine State.modSeq_rest_congr hr ?_ (fun _ => rfl)
  simp only [State.of_rest hr (fun y => y.seq.slot0) (fun _ => rfl), h0]
  rfl

end

/-! ### The preamble -/

/-- The registers of a routine that a trap has pushed into slot 0. -/
def Seq.saved (c : TrapCause) (m : SeqMode) (q : Seq) : Seq :=
  { q with
    slot0 := some { pc := q.pc, waiting := decide (q.mode = .parkWait), ctx := q.ctx, tnt := q.tnt, cause := c, parityErr := 0 }
    ctx := SeqCtx.start, mode := m, held := false, defMax := if q.defMax.toNat < q.defer.toNat then q.defer else q.defMax, defer := 0 }

section
variable {s : State} {a : Arch} (hw : s.TrapWords a) (ht : (s.arch[a]).seq.part.twin = false)
include hw ht

/-- A stream of one member is saved in slot 0. -/
theorem State.saveTrap_rest (c : TrapCause) (m : SeqMode) : (s.saveTrap a [a] false c m).rest = (s.modSeq a (Seq.saved c m)).rest := by
  have hw' : ∀ b ∈ [a], (s.modSeq a (Seq.saved c m)).TrapWords b := by
    intro b hb
    obtain rfl := List.mem_singleton.mp hb
    exact hw.of_mould (State.modSeq_keep s b b _ (g := ArchSt.mould) (fun _ _ => rfl))
  have ht' : ((s.modSeq a (Seq.saved c m)).arch[a]).seq.part.twin = false := by
    rw [State.modSeq_seq, if_pos rfl]
    exact ht
  exact State.runFixed_rest hw' ht' 0 (preambleWords (saveBase false)) 5

/-- A routine that is halted again stands in slot 0 at the place where it has come to. -/
theorem State.stepped_halts (hm : (s.arch[a]).seq.mode = .running) (hs : (s.arch[a]).seq.stepSlot = some false) :
    ((s.stepped a [a]).arch[a]).seq.mode = .halted true ∧
    ((s.stepped a [a]).arch[a]).seq.slot0.map (fun x => x.pc) = some (s.arch[a]).seq.pc := by
  have hstep : s.stepped a [a] = (s.modSeq a (fun x => { x with stepSlot := none })).saveTrap a [a] false .halt (.halted true) := by
    unfold State.stepped
    simp only [hs, hm, reduceCtorEq, or_self, if_false, State.modSeqs_singleton]
  have hq : ((s.modSeq a (fun x => { x with stepSlot := none })).arch[a]).seq = { (s.arch[a]).seq with stepSlot := none } := by
    rw [State.modSeq_seq, if_pos rfl]
  have hw' : (s.modSeq a (fun x => { x with stepSlot := none })).TrapWords a :=
    hw.of_mould (State.modSeq_keep s a a _ (g := ArchSt.mould) (fun _ _ => rfl))
  have hr := State.saveTrap_rest hw' (by rw [hq]; exact ht) .halt (.halted true)
  rw [hstep]
  generalize State.saveTrap (s.modSeq a (fun x => { x with stepSlot := none })) a [a] false .halt (.halted true) = u at hr
  rw [State.of_rest hr (fun y => y.seq.mode) (fun _ => rfl) a, State.of_rest hr (fun y => y.seq.slot0) (fun _ => rfl) a, State.modSeq_seq, if_pos rfl, hq]
  exact ⟨rfl, rfl⟩

end

/-! ### The word -/

section
variable {s : State} {a : Arch} {w : Micro} (hs : s.streamOf a = [a]) (htwin : (s.arch[a]).seq.part.twin = false)
  (hlat : (s.arch[a]).seq.part.lat = false) (hfound : (s.arch[a]).twin.found = []) (htide : (s.arch[a]).tide.phase = 0)
  (hisl : ∀ p q : Fin 32, s.islAt a p = s.islAt a q → p = q) (hmop : (s.arch[a]).seq.ctx.mop = none)
  (hplain : s.Plain a (s.arch[a]).seq.pc w) (hnxt : mwNxt w = 0)

include hplain hnxt in
/-- A plain word that goes on to the next is fetched, is no fault and waits for no result. -/
theorem State.Plain.fetches (hs : s.streamOf a = [a]) : s.Fetches a [a] w := by
  obtain ⟨hword, hdelta, hpc, hres, hspc, hldl, -⟩ := hplain
  intro m hm
  obtain rfl := List.mem_singleton.mp hm
  have hfetch := Mould.fetch_clean hdelta
  rw [hword] at hfetch
  have hsampled : sampled w = [] := by
    unfold sampled
    rw [hnxt]
    rfl
  refine ⟨congrArg Prod.fst hfetch, ?_, ?_, fun h => absurd (hldl.symm.trans h) (by decide)⟩
  · unfold State.wordFault
    simp only [hres, hnxt, hspc, decide_eq_false (Nat.not_le.mpr hpc)]
    simp
  · unfold State.wants
    simp [hsampled, hspc]

include hs htwin hlat hfound htide hisl hmop hplain hnxt

/-- A stream of one member issues a plain word, up to what STEP makes of it. -/
theorem State.issueWord_plain : ∃ v : State, (v.arch[a]).seq.mode = .running ∧ (v.arch[a]).seq.pc = (s.arch[a]).seq.pc + 1 ∧
    (v.arch[a]).seq.stepSlot = (s.arch[a]).seq.stepSlot ∧ (v.arch[a]).seq.part = (s.arch[a]).seq.part ∧
    (∀ p, SMap.get 0 (v.arch[a]).mould.delta p = SMap.get 0 (s.arch[a]).mould.delta p) ∧ s.issueWord a [a] false = v.stepped a [a] := by
  have ha := List.mem_singleton_self a
  have hlead : s.leadOf a = a := by rw [State.leadOf, hs]; rfl
  have hshadow : s.shadowPair a = none := by
    unfold State.shadowPair
    dsimp only
    rw [htide, if_neg (by decide)]
  have hap : s.Apart [a] := ⟨List.nodup_singleton a, fun m hm => (List.mem_singleton.mp hm) ▸ hshadow, fun m hm n hn p q e => by
    obtain rfl := List.mem_singleton.mp hm
    obtain rfl := List.mem_singleton.mp hn
    exact ⟨rfl, hisl p q e⟩⟩
  have hr : s.routine (s.leadOf a) = none := by
    rw [hlead]
    unfold State.routine
    dsimp only
    rw [hmop]
    cases (s.arch[a]).seq.ctx.cur <;> rfl
  have hmove : s.edgeMove (s.leadOf a) w = false := by
    rw [State.edgeMove, State.latOn, hlead, hlat]
    rfl
  have hspc : mwSpc w = 0 := by
    obtain ⟨-, -, -, -, e, -⟩ := hplain
    exact e
  have hne : ∀ {k}, k ≠ 0 → mwSpc w ≠ k := fun hk e => hk (e.symm.trans hspc)
  have hleaves : ¬ s.Leaves a w := by
    unfold State.Leaves
    rw [hnxt]
    exact fun h => h.elim (by decide) (fun h => absurd h.1 (by decide))
  obtain ⟨u, v, like, -, ho, he⟩ := State.issueWord_goneOn hs ha hap (fun m hm => (List.mem_singleton.mp hm) ▸ hfound) hr
    (State.Plain.fetches hplain hnxt hs) (edges := Vector.replicate 4 0) ⟨fun _ => rfl, fun h => absurd (hmove.symm.trans h) Bool.false_ne_true⟩
    hleaves (hne (by decide)) (hne (by decide)) (hne (by decide)) (release := false) (fun e => absurd e (hne (by decide)))
    (fun e => absurd e (hne (by decide)))
  rw [hlead, State.goneOn_else (by rw [hnxt]; decide)] at he
  have hstep := ho.stepSlot ha
  rw [State.goneOn_else (by rw [hnxt]; decide)] at hstep
  have hn : u.nextIn (u.leadOf a) a w = .goto ((s.arch[a]).seq.pc + 1) := by
    rw [State.nextIn, like.leadOf, hlead, like.part, htwin, if_neg Bool.false_ne_true, (u.nextOf_cases a a w _).1 hnxt, like.pc]
  have hqa := ho.registers ha
  have hpart : (v.arch[a]).seq.part = (u.arch[a]).seq.part := by
    have hk := Seq.of_latless (fun q => q.offPlace.part) (fun _ => rfl) hqa
    rw [Seq.onward_offPlace] at hk
    exact hk
  rw [hn] at hqa
  refine ⟨v, Seq.of_latless Seq.mode (fun _ => rfl) hqa, Seq.of_latless Seq.pc (fun _ => rfl) hqa, hstep.trans (like.seq Seq.stepSlot (fun _ => rfl) a),
    hpart.trans (like.part a), fun p => ?_, he⟩
  rw [ho.mould]
  exact like.arch (fun y => SMap.get 0 y.mould.delta p) (fun _ => rfl) a

end

/-! ### STEP -/

/-- The registers of a stream that may issue one word and is then halted in slot 0. -/
def Seq.stepping (q : Seq) : Seq := { q with stepSlot := some false }

theorem State.streamReady_congr {s t : State} (hm : ∀ b : Arch, (t.arch[b]).islmap = (s.arch[b]).islmap) (ha : t.awake = s.awake) :
    t.streamReady = s.streamReady := by
  have hr : ∀ P : Isl, (t.isl[P]).ready = (s.isl[P]).ready := congrFun ha
  funext ms
  unfold State.streamReady State.islands
  simp only [State.islAt_congr hm, hr]

section
variable {s : State} {a : Arch} {sl : TrapSlot} {w : Micro}

/-- The restored routine issues its word and is halted again. -/
theorem State.Alone.stepping_halts (h : s.Alone a) (hw : s.TrapWords a) (hwait : sl.waiting = false) (hmop : sl.ctx.mop = none)
    (hplain : s.Plain a sl.pc w) (hnxt : mwNxt w = 0) {t : State} (ht : t.rest = ((s.modSeq a (Seq.restored sl)).modSeq a Seq.stepping).rest) :
    (t.arch[a]).seq.mode = .running ∧ t.streamReady [a] = true ∧ ((t.issueWord a [a] false).arch[a]).seq.mode = .halted true ∧
    ((t.issueWord a [a] false).arch[a]).seq.slot0.map (fun x => x.pc) = some (sl.pc + 1) := by
  obtain ⟨hs, -, hready, htwin, hlat, -, hfound, htide, hisl, -⟩ := h
  have hall : ∀ {γ : Type} (g : ArchSt → γ), (∀ y q, g { y with seq := q } = g y) → (∀ y, g y.settled = g y) → ∀ b : Arch, g t.arch[b] = g s.arch[b] :=
    fun g hg hy b => (State.of_rest ht g hy b).trans ((State.modSeq_keep _ a b _ hg).trans (State.modSeq_keep _ a b _ hg))
  have hseq : ∀ {γ : Type} (g : Seq → γ), (∀ q : Seq, g { q with lastPc := 0, lastNt := false } = g q) → ∀ b : Arch,
      g (t.arch[b]).seq = g (if b = a then ((s.arch[b]).seq.restored sl).stepping else (s.arch[b]).seq) := by
    intro γ g hg b
    refine (State.of_rest ht (fun y => g y.seq) (fun y => hg y.seq) b).trans (congrArg g ?_)
    rw [State.modSeq_seq, State.modSeq_seq]
    split <;> rfl
  have hown : ∀ {γ : Type} (g : Seq → γ), (∀ q : Seq, g { q with lastPc := 0, lastNt := false } = g q) →
      g (t.arch[a]).seq = g ((s.arch[a]).seq.restored sl).stepping := fun g hg => (hseq g hg a).trans (congrArg g (if_pos rfl))
  have hpart : ∀ b : Arch, (t.arch[b]).seq.part = (s.arch[b]).seq.part := fun b => (hseq Seq.part (fun _ => rfl) b).trans (by split <;> rfl)
  have hmap : ∀ b : Arch, (t.arch[b]).islmap = (s.arch[b]).islmap := hall ArchSt.islmap (fun _ _ => rfl) (fun _ => rfl)
  have hmould : (t.arch[a]).mould = (s.arch[a]).mould := hall ArchSt.mould (fun _ _ => rfl) (fun _ => rfl) a
  have hpc : (t.arch[a]).seq.pc = sl.pc := hown Seq.pc (fun _ => rfl)
  have hmode : (t.arch[a]).seq.mode = .running := (hown Seq.mode (fun _ => rfl)).trans (if_neg (by rw [hwait]; exact Bool.false_ne_true))
  have hready' : t.streamReady [a] = true := by rw [State.streamReady_congr hmap (congrArg (fun x => x.2.2) ht)]; exact hready
  obtain ⟨v, v1, v2, v3, v4, v5, v6⟩ := State.issueWord_plain (s := t) (a := a) (w := w)
    (by rw [State.streamOf_congr (congrArg (fun x => x.1) ht) hpart]; exact hs) (by rw [hpart]; exact htwin) (by rw [hpart]; exact hlat)
    ((hall (fun y => y.twin.found) (fun _ _ => rfl) (fun _ => rfl) a).trans hfound)
    ((hall (fun y => y.tide.phase) (fun _ _ => rfl) (fun _ => rfl) a).trans htide)
    (by rw [State.islAt_congr hmap]; exact hisl) ((hown (fun q => q.ctx.mop) (fun _ => rfl)).trans hmop)
    (by rw [hpc, State.Plain, hmould]; exact hplain) hnxt
  obtain ⟨e1, e2⟩ := State.stepped_halts (s := v) (fun p hp => by rw [v5, hmould]; exact hw p hp) (by rw [v4, hpart]; exact htwin) v1
    (v3.trans (hown Seq.stepSlot (fun _ => rfl)))
  rw [v6]
  exact ⟨hmode, hready', e1, e2.trans (by rw [v2, hpc])⟩

/-- STEP in a halted routine that stands before a plain word. -/
theorem State.Alone.writeStep_halts (h : s.Alone a) (hmode : s.mode = .service) (hw : s.TrapWords a) (hm : (s.arch[a]).seq.mode = .halted true)
    (h0 : (s.arch[a]).seq.slot0 = some sl) (h1 : (s.arch[a]).seq.slot1 = none) (hp : sl.parityErr = 0) (hwait : sl.waiting = false)
    (hmop : sl.ctx.mop = none) (hplain : s.Plain a sl.pc w) (hnxt : mwNxt w = 0) :
    ∃ u, s.writeStep a = (.ok, u) ∧ (u.arch[a]).seq.mode = .halted true ∧ (u.arch[a]).seq.slot0.map (fun x => x.pc) = some (sl.pc + 1) := by
  have htwin : (s.arch[a]).seq.part.twin = false := by
    obtain ⟨-, -, -, e, -⟩ := h
    exact e
  have hr := State.restoreTrap_rest hw htwin hm h0 h1 hp
  have hfault : (s.restoreTrap a [a]).faulted [a] = false := by
    rw [State.faulted_of_rest hr, State.faulted, List.any_cons, State.modSeq_seq, if_pos rfl, Seq.restored, hwait]
    rfl
  obtain ⟨hrun, hready, e1, e2⟩ := h.stepping_halts hw hwait hmop hplain hnxt
    (t := (s.restoreTrap a [a]).modSeq a Seq.stepping) (State.modSeq_rest_congr hr rfl (fun _ => rfl))
  have hwrite : s.writeStep a = (.ok, if (((s.restoreTrap a [a]).modSeq a Seq.stepping).arch[a]).seq.mode = .running ∧
      ((s.restoreTrap a [a]).modSeq a Seq.stepping).streamReady [a] = true then ((s.restoreTrap a [a]).modSeq a Seq.stepping).issueWord a [a] false
      else (s.restoreTrap a [a]).modSeq a Seq.stepping) := by
    unfold State.writeStep State.service
    simp only [h.leadOf, h.1, hmode, hm, h1, hfault, decide_true, Bool.not_true, Bool.false_eq_true, if_false, if_true, Option.isSome_none,
      State.modSeqs_singleton]
    rfl
  rw [hwrite, if_pos ⟨hrun, hready⟩]
  exact ⟨_, rfl, e1, e2⟩

/-- SEQCTL.STEP in a halted routine that stands before a plain word. -/
theorem seqctlStep_halts {acc : Acc} (hg : s.archGate acc a = none) (h : s.Alone a) (hmode : s.mode = .service) (hw : s.TrapWords a)
    (hm : (s.arch[a]).seq.mode = .halted true) (h0 : (s.arch[a]).seq.slot0 = some sl) (h1 : (s.arch[a]).seq.slot1 = none) (hp : sl.parityErr = 0)
    (hwait : sl.waiting = false) (hmop : sl.ctx.mop = none) (hplain : s.Plain a sl.pc w) (hnxt : mwNxt w = 0) :
    ∃ t, exec (.seqctlStep acc a) s = .next t ∧ (t.arch[a]).seq.mode = .halted true ∧
      (t.arch[a]).seq.slot0.map (fun x => x.pc) = some (sl.pc + 1) ∧ answered t acc .ok [] := by
  obtain ⟨t, hx, ⟨h2, h3⟩, h4⟩ := exec_archAction (i := .seqctlStep acc a) (f := fun t => t.writeStep a) hg rfl
    (P := fun t => (t.arch[a]).seq.mode = .halted true ∧ (t.arch[a]).seq.slot0.map (fun x => x.pc) = some (sl.pc + 1))
    (fun k => (State.Alone.writeStep_halts (s := { s with net := k }) h hmode hw hm h0 h1 hp hwait hmop hplain hnxt).imp
      (fun _ hu => ⟨hu.1, fun _ _ => hu.2⟩))
  exact ⟨t, hx, h2, h3, h4⟩

end

/-- Settles O35: the actions of the sequencers' registers, each from its own lemma. -/
theorem sequencerActions : Obligations.SequencerActions := by
  intro a s acc hg q
  refine ⟨fun h => ⟨fun hm hq => seqctlHalt_halts hg h hm hq, fun hm hq => seqctlHalt_releases hg h hm hq, fun hm => seqctlStep_denied hg hm,
    fun sl w hmode hw hm h0 h1 hp hwait hmop hplain hnxt => seqctlStep_halts hg h hmode hw hm h0 h1 hp hwait hmop hplain hnxt,
    fun hm hq hh => seqctlClrfault_parks hg h hm hq hh⟩, fun hl hv hb => pqctlFlush_empties hg hl hv hb, mcecntCeclr_clears hg,
    fun P plane cl dbl hP => ?_⟩
  have hg' : s.archGate acc (islArch P) = none := by rw [islArch_eq hP]; exact hg
  exact ⟨ictrlCeclr_clears hg', fun hm => ictrlInj_arms hg' plane cl dbl hm, fun hm => ictrlInj_denied hg' plane cl dbl hm⟩

end Sys2Proof.Machine
end

section
/-! PROOF. What the fault of a sequencer and a ladle access slot leave of the machine (spec/03 R91, Table 3.8). -/
namespace Sys2Proof.Machine

/-- The moulds, and the host's memory accesses that the Holm keeps waiting. -/
def State.store (s : State) : (Arch → Mould) × List MemJob := (fun b => (s.arch[b]).mould, s.holm.jobs)

theorem State.mould_of_store {s t : State} (h : t.store = s.store) (b : Arch) : (t.arch[b]).mould = (s.arch[b]).mould := congrArg (fun x => x.1 b) h
theorem State.jobs_of_store {s t : State} (h : t.store = s.store) : t.holm.jobs = s.holm.jobs := congrArg Prod.snd h

section
variable (s : State)

theorem State.modArch_store (a : Arch) {f : ArchSt → ArchSt} (h : ∀ y, (f y).mould = y.mould) : (s.modArch a f).store = s.store :=
  Prod.ext (funext (fun b => vmod_keep ArchSt.mould h s.arch a b)) rfl

@[simp] theorem State.modSeq_store (a : Arch) (f : Seq → Seq) : (s.modSeq a f).store = s.store := s.modArch_store a (fun _ => rfl)

@[simp] theorem State.modSeqs_store (ms : List Arch) (f : Seq → Seq) : (s.modSeqs ms f).store = s.store :=
  foldl_keep s State.store _ (fun t a => t.modSeq_store a f) ms

@[simp] theorem State.modTwins_store (ms : List Arch) (f : Twin → Twin) : (s.eachArch ms (fun t a => t.modTwin a f)).store = s.store :=
  foldl_keep s State.store (fun t a => t.modTwin a f) (fun t a => t.modArch_store a (fun _ => rfl)) ms

@[simp] theorem State.notify_store (x : Notice) : (s.notify x).store = s.store := by
  unfold State.notify
  split <;> rfl

@[simp] theorem State.irqTo_store (n : CoreId) (i : Nat) : (s.irqTo n i).store = s.store := by
  unfold State.store
  rw [State.irqTo_arch, State.irqTo_holm]

@[simp] theorem State.raiseAll_store (i : Nat) : (s.raiseAll i).store = s.store := foldl_keep s State.store _ (fun t n => t.irqTo_store n i) _

/-! ### A fault -/

/-- A sequencer that has stopped at `pc` with its cause. -/
def Seq.stopped (pc : A13) (cause : Nat) (q : Seq) : Seq :=
  { q with seqFault := { valid := true, fpc := pc, cause := BitVec.ofNat 4 cause }, mode := .fault }

/-- The completion that a fault sends for the current record, and the STEP that it ends. -/
def State.faultSent (lead : Arch) (ms : List Arch) (detail : Nat) : State :=
  (match (s.arch[lead]).seq.ctx.cur with
    | some r => if (s.arch[lead]).seq.ctx.posted then s else (s.complete r 2 detail none).setPosted ms
    | none => s).modSeqs ms (fun x => { x with stepSlot := none })

/-- One member stops, and the record's core and the Holm are told. -/
def State.stopOne (cur : Option PourRec) (pc : Arch → A13) (x : Arch × Nat) : State :=
  let t := (s.modSeq x.1 (Seq.stopped (pc x.1) x.2)).notify (.seqFault x.1)
  match cur with
  | some r => t.irqTo r.core (4 + x.1.val)
  | none => t.raiseAll (4 + x.1.val)

/-- A fault sends its completion and stops the listed members; a twin pair's makes the vital window leave. -/
theorem State.seqFault_eq (bad : List (Arch × Nat)) (lead : Arch) (ms : List Arch) (pc : Arch → A13) :
    ∃ d v, s.seqFault bad lead ms pc =
      { bad.foldl (fun t x => t.stopOne (s.arch[lead]).seq.ctx.cur pc x) (s.faultSent lead ms d) with vital := v } := by
  unfold State.seqFault
  dsimp only
  split <;> exact ⟨_, _, rfl⟩

theorem State.faultSent_store (lead : Arch) (ms : List Arch) (d : Nat) : (s.faultSent lead ms d).store = s.store := by
  unfold State.faultSent
  rw [State.modSeqs_store]
  split
  · split
    · rfl
    · exact State.modSeqs_store (s.complete ..) ms _
  · rfl

theorem State.faultSent_seq (lead : Arch) (ms : List Arch) (d : Nat) {γ : Type} {g : Seq → γ} (hp : ∀ q x, g { q with ctx := x } = g q)
    (hs : ∀ q x, g { q with stepSlot := x } = g q) (b : Arch) : g ((s.faultSent lead ms d).arch[b]).seq = g (s.arch[b]).seq := by
  unfold State.faultSent
  rw [State.modSeqs_seq_keep _ _ _ (fun q => hs q none)]
  split
  · split
    · rfl
    · exact State.modSeqs_seq_keep (s.complete ..) ms _ (fun q => hp q _) b
  · rfl

theorem State.stopOne_arch (cur : Option PourRec) (pc : Arch → A13) (x : Arch × Nat) :
    (s.stopOne cur pc x).arch = (s.modSeq x.1 (Seq.stopped (pc x.1) x.2)).arch := by
  unfold State.stopOne
  split <;> simp

theorem State.stopOne_store (cur : Option PourRec) (pc : Arch → A13) (x : Arch × Nat) : (s.stopOne cur pc x).store = s.store := by
  unfold State.stopOne
  split <;> simp

/-- A fault keeps the moulds, and the accesses that wait in the Holm. -/
@[simp] theorem State.seqFault_store (bad : List (Arch × Nat)) (lead : Arch) (ms : List Arch) (pc : Arch → A13) :
    (s.seqFault bad lead ms pc).store = s.store := by
  obtain ⟨d, v, h⟩ := s.seqFault_eq bad lead ms pc
  rw [h]
  exact (foldl_keep (s.faultSent lead ms d) State.store _ (fun t x => t.stopOne_store _ pc x) bad).trans (s.faultSent_store lead ms d)

/-- A member that stops alone stands at its place with its cause, its subcause of a trap fault as it was. -/
theorem State.seqFault_stops (a lead : Arch) (cause : Nat) (ms : List Arch) (pc : Arch → A13) :
    let q := ((s.seqFault [(a, cause)] lead ms pc).arch[a]).seq
    q.mode = .fault ∧ q.seqFault = { valid := true, fpc := pc a, cause := BitVec.ofNat 4 cause } ∧ q.tfSub = (s.arch[a]).seq.tfSub := by
  obtain ⟨d, v, h⟩ := s.seqFault_eq [(a, cause)] lead ms pc
  have harch : (s.seqFault [(a, cause)] lead ms pc).arch = ((s.faultSent lead ms d).modSeq a (Seq.stopped (pc a) cause)).arch := by
    rw [h]
    exact State.stopOne_arch ..
  dsimp only
  rw [harch, State.modSeq_seq, if_pos rfl]
  exact ⟨rfl, rfl, s.faultSent_seq lead ms d (g := Seq.tfSub) (fun _ _ => rfl) (fun _ _ => rfl) a⟩

/-! ### An access slot -/

@[simp] theorem State.answerFrom_holm (src : End) (r : Request) (st : Status) (data : List Byte) : (s.answerFrom src r st data).holm = s.holm := by
  unfold State.answerFrom State.respondLate
  dsimp only
  split
  · split
    · rfl
    · split <;> rfl
  · split
    · rfl
    · split <;> rfl

@[simp] theorem State.viewSlot1_holm (a : Arch) (P : Isl) : (s.viewSlot1 a P).holm = s.holm := by
  have ha : (s.alsoServed a P).holm = s.holm := by
    unfold State.alsoServed
    split
    · split <;> rfl
    · rfl
  rw [State.viewSlot1_eq]
  unfold State.slotAnswer
  split
  · split
    · exact ha
    · exact (State.answerFrom_holm ..).trans ha
  · exact ha

@[simp] theorem State.tellUe_holm (a : Arch) : (s.tellUe a).holm = s.holm :=
  foldl_keep s State.holm _ (fun t slot => by
    dsimp only
    split
    · exact State.raiseAll_holm ..
    · rfl) _

@[simp] theorem State.mirror_holm (a : Arch) : (s.mirror a).holm = s.holm := by
  unfold State.mirror
  split <;> rfl

@[simp] theorem State.viewSlots1_holm (a : Arch) : (s.viewSlots1 a).holm = s.holm := by
  unfold State.viewSlots1
  rw [State.mirror_holm, State.tellUe_holm]
  exact foldl_keep s State.holm _ (fun t P => t.viewSlot1_holm a P) _

/-- A cycle of access slots keeps the archipelagos but what errors tell their tides, and the Holm. -/
theorem State.slotCycle_keeps (ms : List Arch) : (s.slotCycle ms).ground = s.ground ∧ (s.slotCycle ms).holm = s.holm :=
  ⟨foldl_keep s State.ground _ State.viewSlots1_ground ms, foldl_keep s State.holm _ State.viewSlots1_holm ms⟩

end

end Sys2Proof.Machine
end

section
/-! PROOF. The stops of a sequencer: a word that does not issue, the trap watchdog and a halt request (spec/03 R91, Table 3.11; spec/04 R108,
R115). -/
namespace Sys2Proof.Machine

theorem Mould.fetch_bad {m : Mould} {pc : A13} (h : eccDecode 144 8 (SMap.get (0 : BitVec 9) m.delta pc.toNat).toNat = .bad) :
    m.fetch pc = (none, false) := by
  unfold Mould.fetch
  rw [h]

/-- The fetch at `pc` stops the sequencer: the word cannot be corrected, or is clean and reserved (spec/03 Table 3.11). -/
def Mould.Stops (m : Mould) (pc : A13) (cause : Nat) : Prop :=
  m.fetch pc = (none, false) ∧ cause = 3 ∨ ∃ w, m.fetch pc = (some w, false) ∧ mwReserved w = true ∧ cause = 5

/-- Such a fetch corrects nothing. -/
theorem Mould.Stops.uncorrected {m : Mould} {pc : A13} {cause : Nat} (h : m.Stops pc cause) : (m.fetch pc).2 = false := by
  obtain ⟨hf, -⟩ | ⟨w, hf, -⟩ := h <;> rw [hf]

section
variable {s : State} {a : Arch} (h : s.Alone a)
include h

theorem State.Alone.untwinned : (s.arch[a]).seq.part.twin = false := by
  obtain ⟨-, -, -, ht, -⟩ := h
  exact ht

theorem State.Alone.alive : s.alive [a] = true := by
  obtain ⟨-, ha, -⟩ := h
  exact ha

/-- No routine runs by contract. -/
theorem State.Alone.routine : s.routine a = none := by
  obtain ⟨-, -, -, -, -, -, -, -, -, -, -, hmop, -⟩ := h
  unfold State.routine
  dsimp only
  rw [hmop]
  cases (s.arch[a]).seq.ctx.cur <;> rfl

/-- A running stream that takes no trap tries to issue its next word in a pour cycle. -/
theorem State.Alone.pourCycle_issues (hm : (s.arch[a]).seq.mode = .running) (ht : s.trapNow a = none) : s.pourCycle a = s.issueWord a [a] false := by
  have hl := h.leadOf
  obtain ⟨hs, hal, hready, -⟩ := h
  have hopen : s.domainOpen (264 + a.val) = true := by
    have h2 := (Bool.and_eq_true_iff.mp hal).2
    rwa [List.all_cons, List.all_nil, Bool.and_true] at h2
  have hfree : s.slotsFree a = false := by
    have hmode : decide (s.mode = .safeStop) = false := by
      have h1 := (Bool.and_eq_true_iff.mp hal).1
      cases hd : decide (s.mode = .safeStop) with
      | false => rfl
      | true => rw [hd] at h1; exact absurd h1 Bool.false_ne_true
    have hfault : s.faulted [a] = false := by
      rw [State.faulted, List.any_cons, hm]
      rfl
    unfold State.slotsFree
    simp only [hs, hl, hm, hmode, hfault, List.isEmpty_cons, Bool.or_self, Bool.and_false]
  unfold State.pourCycle
  simp only [hfree, hopen, hs, hl, hready, hm, Bool.not_true, Bool.or_self, Bool.false_eq_true, if_false, State.holdEnds_untrapped ht]

/-- A fetch without a correction leaves the machine. -/
theorem State.Alone.fetched_uncorrected (hc : ((s.arch[a]).mould.fetch (s.arch[a]).seq.pc).2 = false) : s.fetched a [a] = s := by
  have hcount : s.countFetch [a] (s.arch[a]).seq.pc = s := by
    unfold State.countFetch State.eachArch
    rw [List.foldl_cons, List.foldl_nil, hc, if_neg Bool.false_ne_true]
  have hsame : ∀ ws pc, s.wordsCompared a [a] ws pc = s := fun ws pc => by
    rw [State.wordsCompared, h.untwinned, Bool.false_and, if_neg Bool.false_ne_true]
  unfold State.fetched
  simp only [List.foldl_cons, List.foldl_nil, hcount, hsame, ite_self]

/-- A word whose fetch stops the sequencer does not issue: a fault with its cause, in an access slot (spec/03 R91, Table 3.8). -/
theorem State.Alone.issueWord_stops {cause : Nat} (hc : (s.arch[a]).mould.Stops (s.arch[a]).seq.pc cause) :
    s.issueWord a [a] false = (s.seqFault [(a, cause)] a [a] (fun b => (s.arch[b]).seq.pc)).slotCycle [a] := by
  have hfound : (s.arch[a]).twin.found = [] := by
    obtain ⟨-, -, -, -, -, -, hf, -⟩ := h
    exact hf
  have hapart : s.heldApart a [a] = false := by
    unfold State.heldApart
    simp only [h.untwinned, Bool.false_and]
  have hfetched := h.fetched_uncorrected hc.uncorrected
  unfold State.issueWord
  rw [h.routine]
  simp only [hfetched, hapart, hfound, List.any_cons, List.any_nil, Bool.or_self, Bool.and_false, Bool.false_eq_true, if_false, List.map_cons,
    List.map_nil]
  obtain ⟨hn, rfl⟩ | ⟨w, hn, hres, rfl⟩ := hc
  · rw [hn]
    rfl
  · have hfault : s.wordFault a a w (s.arch[a]).seq.pc = some 5 := by
      unfold State.wordFault
      simp only [hres, if_true]
    simp only [hn, Option.isNone_some, Option.getD_some, hfault, List.filter_cons, List.filter_nil, List.filterMap_cons, List.filterMap_nil,
      List.map_nil, Option.map_some, List.isEmpty_nil, List.isEmpty_cons, Bool.not_true, Bool.not_false, Bool.false_eq_true, if_false, if_true,
      decide_true, Bool.true_or]

/-- MICROWORD_ISSUE before a word that does not issue. -/
theorem State.Alone.microwordIssue_stops (hm : (s.arch[a]).seq.mode = .running) (ht : s.trapNow a = none) {cause : Nat}
    (hc : (s.arch[a]).mould.Stops (s.arch[a]).seq.pc cause) :
    ∃ t, exec (.microwordIssue a) s = .next t ∧ (t.arch[a]).seq.mode = .fault ∧
      (t.arch[a]).seq.seqFault = { valid := true, fpc := (s.arch[a]).seq.pc, cause := BitVec.ofNat 4 cause } := by
  have hjobs : s.holm.jobs = [] := by
    obtain ⟨-, -, -, -, -, -, -, -, -, -, -, -, hj⟩ := h
    exact hj
  obtain ⟨hmode, hfault, -⟩ := s.seqFault_stops a a cause [a] (fun b => (s.arch[b]).seq.pc)
  have hkept := State.jobs_of_store (s.seqFault_store [(a, cause)] a [a] (fun b => (s.arch[b]).seq.pc))
  obtain ⟨hg, hh⟩ := State.slotCycle_keeps (s.seqFault [(a, cause)] a [a] (fun b => (s.arch[b]).seq.pc)) [a]
  rw [← h.issueWord_stops hc, ← h.pourCycle_issues hm ht] at hg hh
  have hidle := State.memResumeAll_idle (s := s.pourCycle a) ((congrArg Holm.jobs hh).trans (hkept.trans hjobs))
  refine ⟨_, congrArg Host.Outcome.next hidle, ?_, ?_⟩
  · exact (State.of_ground (fun y => y.seq.mode) (fun _ => rfl) hg a).trans hmode
  · exact (State.of_ground (fun y => y.seq.seqFault) (fun _ => rfl) hg a).trans hfault

/-- TRAP_WATCHDOG_EXPIRY in a trap routine that runs. -/
theorem State.Alone.trapWatchdogExpiry_stops (hs : (s.arch[a]).seq.slot0.isSome = true) (hw : (s.arch[a]).seq.wdog ≠ 0)
    (hm : (s.arch[a]).seq.mode = .running) :
    ∃ t, exec (.trapWatchdogExpiry a) s = .next t ∧ (t.arch[a]).seq.mode = .fault ∧
      (t.arch[a]).seq.seqFault = { valid := true, fpc := (s.arch[a]).seq.pc, cause := 7 } ∧ (t.arch[a]).seq.tfSub = 2 := by
  have htimed : exec (.trapWatchdogExpiry a) s = .next (s.trapFault a [a] (s.arch[a]).seq.pc 2) := by
    show execTrapWatchdogExpiry a s = _
    unfold execTrapWatchdogExpiry Seq.inTrap
    simp only [h.leadOf, h.1, h.alive, hs, hm, decide_eq_true hw, reduceCtorEq, decide_false, Bool.true_or, Bool.not_false, Bool.and_self, if_true]
  obtain ⟨hmode, hfault, hsub⟩ := State.seqFault_stops (s.modSeqs [a] (fun q => { q with tfSub := BitVec.ofNat 4 2 })) a a 7 [a]
    (fun _ => (s.arch[a]).seq.pc)
  refine ⟨_, htimed, hmode, hfault, hsub.trans ?_⟩
  rw [State.modSeqs_seq _ (List.nodup_singleton a) (List.mem_singleton_self a)]
  rfl

/-- A halt request is due and permitted at a boundary outside a trap (spec/04 R102, R105). -/
theorem State.Alone.trapNow_halt (hm : (s.arch[a]).seq.mode = .running) (h0 : (s.arch[a]).seq.slot0 = none) (h1 : (s.arch[a]).seq.slot1 = none)
    (hn : (s.arch[a]).seq.lastNt = false) (hu : (s.arch[a]).seq.ctx.ufShadow = none) (hh : (s.arch[a]).seq.haltReq = true) :
    s.trapNow a = some .halt := by
  have hpend : (s.arch[a]).twin.pend = false := by
    obtain ⟨-, -, -, -, -, hp, -⟩ := h
    exact hp
  have hdue : s.dueTrap a [a] = some .halt := by
    unfold State.dueTrap Seq.freeSlot
    simp only [List.any_cons, List.any_nil, Bool.or_false, hpend, h.stepSlot, hh, h0, h1, Option.isNone_none, Option.isSome_none, Option.isSome_some,
      Option.any_none, Bool.false_and, Bool.true_and, Bool.not_false, Bool.false_eq_true, if_false, if_true]
  have hbound : (s.arch[a]).seq.boundary = true := by
    unfold Seq.boundary Seq.trapPoint
    rw [hm, hn, hu]
    rfl
  unfold State.trapNow
  simp only [h.leadOf, h.1, h.alive, hdue, hbound, List.isEmpty_cons, Bool.not_true, Bool.or_self, Bool.false_eq_true, if_false, Option.filter_some,
    List.all_cons, List.all_nil, Bool.true_or, Bool.and_self, if_true]

/-- MICRO_TRAP with a halt request saves the routine in slot 0 and halts (spec/04 R108). -/
theorem State.Alone.microTrap_halts (hw : s.TrapWords a) (hm : (s.arch[a]).seq.mode = .running) (h0 : (s.arch[a]).seq.slot0 = none)
    (h1 : (s.arch[a]).seq.slot1 = none) (hn : (s.arch[a]).seq.lastNt = false) (hu : (s.arch[a]).seq.ctx.ufShadow = none)
    (hh : (s.arch[a]).seq.haltReq = true) :
    ∃ t, exec (.microTrap a) s = .next t ∧ (t.arch[a]).seq.mode = .halted true ∧
      (t.arch[a]).seq.slot0.map (fun x => (x.pc, x.cause, x.ctx)) = some ((s.arch[a]).seq.pc, .halt, (s.arch[a]).seq.ctx) := by
  have htrap : s.microTrap a = s.saveTrap a [a] false .halt (.halted true) := by
    unfold State.microTrap Seq.freeSlot
    simp only [h.trapNow_halt hm h0 h1 hn hu hh, h.leadOf, h.1, h0, Option.isNone_none, if_true, Option.getD_some]
  have hr := State.saveTrap_rest hw h.untwinned .halt (.halted true)
  refine ⟨s.microTrap a, rfl, ?_, ?_⟩
  · rw [htrap, State.of_rest hr (fun y => y.seq.mode) (fun _ => rfl) a, State.modSeq_seq, if_pos rfl]
    rfl
  · rw [htrap, State.of_rest hr (fun y => y.seq.slot0) (fun _ => rfl) a, State.modSeq_seq, if_pos rfl]
    rfl

end

/-- Settles O31: the stops of a stream of one member, each from its own lemma. -/
theorem sequencerStops : Obligations.SequencerStops := by
  intro a s h q stops
  refine ⟨fun hm ht hd => ?_, fun hm ht hd hr => ?_, fun hs hw hm => ?_, fun hw hm h0 h1 hn hu hh => h.microTrap_halts hw hm h0 h1 hn hu hh⟩
  · obtain ⟨t, hx, hmode, hfault⟩ := h.microwordIssue_stops hm ht (.inl ⟨Mould.fetch_bad hd, rfl⟩)
    exact ⟨t, hx, hmode, hfault, fun e => absurd e (by decide)⟩
  · obtain ⟨t, hx, hmode, hfault⟩ := h.microwordIssue_stops hm ht (.inr ⟨_, Mould.fetch_clean hd, hr, rfl⟩)
    exact ⟨t, hx, hmode, hfault, fun e => absurd e (by decide)⟩
  · obtain ⟨t, hx, hmode, hfault, hsub⟩ := h.trapWatchdogExpiry_stops hs hw hm
    exact ⟨t, hx, hmode, hfault, fun _ => hsub⟩

end Sys2Proof.Machine
end

section
/-! PROOF. The upkeep of the moulds: the scrubber, the rewriting of uncorrectable words and pattern replacement (spec/03 R86, R89). -/
namespace Sys2Proof.Machine

/-! ### A dispatch keeps the moulds -/

section
variable (s : State)

@[simp] theorem State.parkDispatch_store (ms : List Arch) : (s.parkDispatch ms).store = s.store := by
  unfold State.parkDispatch
  exact State.modSeqs_store ..

theorem State.headTaken_store (lead : Arch) (ms : List Arch) (r : PourRec) (rest : List PourRec) : (s.headTaken lead ms r rest).store = s.store := by
  unfold State.headTaken
  rw [State.modTwins_store, State.modSeqs_store, State.modSeq_store]

@[simp] theorem State.startHead_store (lead : Arch) (ms : List Arch) : (s.startHead lead ms).store = s.store := by
  cases hq : (s.arch[lead]).seq.queue with
  | nil =>
    unfold State.startHead
    dsimp only
    rw [hq]
  | cons r rest =>
    have ht := s.headTaken_store lead ms r rest
    rw [State.startHead_eq ms hq]
    split
    · exact ht
    · rw [State.seqFault_store, State.modSeq_store, ht]

@[simp] theorem State.resumeDispatch_store (a : Arch) : (s.resumeDispatch a).store = s.store := by
  unfold State.resumeDispatch State.takeNext
  dsimp only
  split
  · split
    · exact State.parkDispatch_store ..
    · exact State.startHead_store ..
  · rfl

@[simp] theorem State.settleCommit_arch : s.settleCommit.arch = s.arch := by
  unfold State.settleCommit
  split
  · split <;> rfl
  · rfl

theorem State.modMould_mould (a : Arch) (f : Mould → Mould) : ((s.modMould a f).arch[a]).mould = f (s.arch[a]).mould :=
  congrArg ArchSt.mould (vmod_at s.arch a _)

/-- Each member of a stream changes its mould once. -/
theorem State.modMoulds_mould {ms : List Arch} (hn : ms.Nodup) {a : Arch} (ha : a ∈ ms) (f : Mould → Mould) :
    ((s.eachArch ms (fun t b => t.modMould b f)).arch[a]).mould = f (s.arch[a]).mould := by
  have he : s.eachArch ms (fun t b => t.modMould b f) = { s with arch := vmods id (fun _ y => { y with mould := f y.mould }) ms s.arch } :=
    foldl_modArch id (fun _ y => { y with mould := f y.mould }) ms s
  rw [he]
  exact congrArg ArchSt.mould (vmods_at id _ (by rwa [List.map_id]) ha s.arch)

end

/-! ### Words stored in a mould -/

section
variable (m : Mould)

@[simp] theorem Mould.put_word (k : Nat) (w : Micro) (x : Nat) : SMap.get 0 (m.put k w).word x = if x = k then w else SMap.get 0 m.word x :=
  SMap.get_set ..

@[simp] theorem Mould.put_delta (k : Nat) (w : Micro) (x : Nat) : SMap.get 0 (m.put k w).delta x = if x = k then 0 else SMap.get 0 m.delta x :=
  SMap.get_set ..

@[simp] theorem Mould.put_verified (k : Nat) (w : Micro) : (m.put k w).verified = m.verified := rfl

/-- The listed words rewritten from the verified image. -/
def Mould.rewritten (l : List A13) : Mould := l.foldl (fun y p => y.put p.toNat (SMap.get 0 y.verified p.toNat)) m

/-- A listed word is the verified one and clean, any other as it was. -/
theorem Mould.rewritten_get (l : List A13) (x : A13) :
    SMap.get 0 (m.rewritten l).word x.toNat = (if x ∈ l then SMap.get 0 m.verified x.toNat else SMap.get 0 m.word x.toNat) ∧
    SMap.get 0 (m.rewritten l).delta x.toNat = if x ∈ l then 0 else SMap.get 0 m.delta x.toNat := by
  induction l generalizing m with
  | nil => exact ⟨rfl, rfl⟩
  | cons p l ih =>
    obtain ⟨hw, hd⟩ := ih (m.put p.toNat (SMap.get 0 m.verified p.toNat))
    rw [Mould.put_word, Mould.put_verified] at hw
    rw [Mould.put_delta] at hd
    refine ⟨hw.trans ?_, hd.trans ?_⟩ <;> by_cases hp : x = p <;> simp [hp, BitVec.toNat_inj]

/-- Pattern words stored from address `lo + k` on, each also in the verified image. -/
def Mould.patched (lo k : Nat) (ws : List Micro) : Mould :=
  (ws.zipIdx k).foldl (fun x wi => { (x.put (lo + wi.2) wi.1) with verified := SMap.set 0 x.verified (lo + wi.2) wi.1 }) m

theorem Mould.patched_cons (lo k : Nat) (w : Micro) (ws : List Micro) :
    m.patched lo k (w :: ws) = Mould.patched { (m.put (lo + k) w) with verified := SMap.set 0 m.verified (lo + k) w } lo (k + 1) ws := rfl

/-- A word outside the range is as it was. -/
theorem Mould.patched_outside (lo k : Nat) (ws : List Micro) {x : Nat} (hx : x < lo + k ∨ lo + k + ws.length ≤ x) :
    SMap.get 0 (m.patched lo k ws).word x = SMap.get 0 m.word x := by
  induction ws generalizing m k with
  | nil => rfl
  | cons w ws ih =>
    rw [List.length_cons] at hx
    rw [Mould.patched_cons, ih _ _ (by omega)]
    exact (Mould.put_word ..).trans (if_neg (by omega))

/-- The range holds the words. -/
theorem Mould.patched_inside (lo k : Nat) (ws : List Micro) (i : Nat) (hi : i < ws.length) :
    SMap.get 0 (m.patched lo k ws).word (lo + k + i) = ws[i] := by
  induction ws generalizing m k i with
  | nil => exact absurd hi (Nat.not_lt_zero i)
  | cons w ws ih =>
    rw [Mould.patched_cons]
    cases i with
    | zero => exact (Mould.patched_outside _ _ _ _ (.inl (by omega))).trans ((Mould.put_word ..).trans (if_pos rfl))
    | succ j => rw [show lo + k + (j + 1) = lo + (k + 1) + j by omega, ih _ _ _ (Nat.lt_of_succ_lt_succ hi), List.getElem_cons_succ]

/-- A replacement stores its words and waits no longer. -/
theorem Mould.replace_cons {r : Replacement} {rest : List Replacement} (h : m.repl = r :: rest) :
    m.replace.repl = rest ∧ m.replace.word = (m.patched r.first.toNat 0 r.words).word := by
  unfold Mould.replace
  rw [h]
  exact ⟨rfl, rfl⟩

end

/-! ### The commands -/

section
variable {s : State} {a : Arch}

/-- The scrubber's record of an uncorrectable word at `pos`. -/
def Mould.recorded (pos : A13) (x : Mould) : Mould :=
  { x with
    sue := true, ueValid := true, ueWord := if x.ueValid then x.ueWord else pos
    rewrite := if x.rewrite.contains pos then x.rewrite else x.rewrite ++ [pos] }

/-- MOULD_SCRUB at an uncorrectable word. -/
theorem mouldScrub_records (hl : (s.arch[a]).mould.loaded = true)
    (hd : eccDecode 144 8 (SMap.get (0 : BitVec 9) (s.arch[a]).mould.delta (s.arch[a]).mould.scrubPos.toNat).toNat = .bad) :
    let m := (s.arch[a]).mould
    ∃ t, exec (.mouldScrub a) s = .next t ∧ (t.arch[a]).mould = { m with
      scrubPos := m.scrubPos + 1, sue := true, ueValid := true, ueWord := if m.ueValid then m.ueWord else m.scrubPos
      rewrite := if m.rewrite.contains m.scrubPos then m.rewrite else m.rewrite ++ [m.scrubPos] } := by
  have hx : exec (.mouldScrub a) s = .next (((s.modMould a (fun x => { x with scrubPos := x.scrubPos + 1 })).modMould a
      (Mould.recorded (s.arch[a]).mould.scrubPos)).notify (.mouldUe a)) := by
    show execMouldScrub a s = _
    unfold execMouldScrub
    simp only [hl, Bool.not_true, Bool.false_eq_true, if_false, Mould.fetch_bad hd]
    rfl
  refine ⟨_, hx, ?_⟩
  rw [State.notify_arch, State.modMould_mould, State.modMould_mould]
  rfl

/-- MOULD_WORD_REWRITE at a dispatch point. -/
theorem mouldWordRewrite_rewrites (hr : (s.arch[a]).mould.rewrite ≠ []) (hd : s.atDispatch a = true) :
    let m := (s.arch[a]).mould
    ∃ t, exec (.mouldWordRewrite a) s = .next t ∧ (t.arch[a]).mould.rewrite = [] ∧
      ∀ p ∈ m.rewrite, SMap.get 0 (t.arch[a]).mould.word p.toNat = SMap.get 0 m.verified p.toNat ∧
        SMap.get 0 (t.arch[a]).mould.delta p.toNat = 0 := by
  intro m
  obtain ⟨t, hx, hm⟩ : ∃ t, exec (.mouldWordRewrite a) s = .next t ∧ (t.arch[a]).mould = { m.rewritten m.rewrite with rewrite := [] } := by
    refine ⟨_, if_neg ?_, (State.mould_of_store (State.resumeDispatch_store ..) a).trans (State.modMould_mould ..)⟩
    rw [List.isEmpty_eq_false_iff.mpr hr, hd]
    exact Bool.false_ne_true
  refine ⟨t, hx, by rw [hm], fun p hp => ?_⟩
  obtain ⟨hw, hd⟩ := m.rewritten_get m.rewrite p
  rw [if_pos hp] at hw hd
  rw [hm]
  exact ⟨hw, hd⟩

/-- PATTERN_REPLACEMENT at a dispatch point, or outside a stream. -/
theorem patternReplacement_stores {r : Replacement} {rest : List Replacement} (hr : (s.arch[a]).mould.repl = r :: rest)
    (hd : s.streamOf a = [] ∨ (a ∈ s.streamOf a ∧ s.atDispatch a = true)) :
    ∃ t, exec (.patternReplacement a) s = .next t ∧ (t.arch[a]).mould.repl = rest ∧
      (∀ k (h : k < r.words.length), SMap.get 0 (t.arch[a]).mould.word (r.first.toNat + k) = r.words[k]) ∧
      ∀ x, ¬ (r.first.toNat ≤ x ∧ x < r.first.toNat + r.words.length) →
        SMap.get 0 (t.arch[a]).mould.word x = SMap.get 0 (s.arch[a]).mould.word x := by
  obtain ⟨ms, hx, hn, ha⟩ : ∃ ms, exec (.patternReplacement a) s =
      .next ((s.eachArch ms (fun t b => t.modMould b Mould.replace)).resumeDispatch a).settleCommit ∧ ms.Nodup ∧ a ∈ ms := by
    show ∃ ms, execPatternReplacement a s = _ ∧ _
    unfold execPatternReplacement
    obtain hs | ⟨ha, hat⟩ := hd
    · refine ⟨[a], ?_, List.nodup_singleton a, List.mem_singleton_self a⟩
      simp only [hs, List.isEmpty_nil, Bool.not_true, Bool.false_and, Bool.false_eq_true, if_false, if_true]
    · refine ⟨s.streamOf a, ?_, s.streamOf_nodup a, ha⟩
      simp only [hat, List.isEmpty_eq_false_iff.mpr (List.ne_nil_of_mem ha), Bool.not_true, Bool.and_false, Bool.false_eq_true, if_false]
  have hm := State.mould_of_store (State.resumeDispatch_store (s.eachArch ms (fun t b => t.modMould b Mould.replace)) a) a
  rw [State.modMoulds_mould s hn ha, ← State.settleCommit_arch] at hm
  obtain ⟨hrepl, hword⟩ := (s.arch[a]).mould.replace_cons hr
  have hw := (congrArg Mould.word hm).trans hword
  refine ⟨_, hx, (congrArg Mould.repl hm).trans hrepl, fun k hk => ?_, fun x hx => ?_⟩
  · exact (congrArg (fun v => SMap.get 0 v (r.first.toNat + k)) hw).trans (Mould.patched_inside _ _ 0 _ k hk)
  · exact (congrArg (fun v => SMap.get 0 v x) hw).trans (Mould.patched_outside _ _ 0 _ (by omega))

end

/-- Settles O33: the three commands of the moulds' upkeep, each from its own lemma. -/
theorem mouldUpkeep : Obligations.MouldUpkeep := by
  intro a s m
  exact ⟨mouldScrub_records, mouldWordRewrite_rewrites, fun r rest hr hd _ => patternReplacement_stores hr hd⟩

end Sys2Proof.Machine
end

section
/-! PROOF. The report of a strait link that goes down misses a core whose domain is closed (spec/08 R201, R213; spec/13 R314, R317). -/
namespace Sys2Proof.Machine

/-- What a strait link that goes down comes to: a link that was down already only starts its heartbeats anew; one that was up reports. -/
theorem State.straitDown_cases (s : State) (lane : Bool) :
    (∃ x, s.straitDown lane = { s with straits := x }) ∨
    ∃ x y, s.straitDown lane = (State.raiseAll { s with straits := x, lanes := y } 17).event .straitDown [BitVec.ofNat 8 (linkLane lane).val] := by
  unfold State.straitDown
  split
  · exact .inl ⟨_, rfl⟩
  · exact .inr ⟨_, _, rfl⟩

/-- A strait link that goes down interrupts no core whose domain is closed. -/
theorem State.straitDown_closed {s : State} {k : CoreId} (h : s.domainOpen (304 + k.val) = false) (lane : Bool) :
    (s.straitDown lane).cores[k] = s.cores[k] := by
  obtain ⟨x, hs⟩ | ⟨x, y, hs⟩ := s.straitDown_cases lane
  · rw [hs]
  · have hc : State.domainOpen { s with straits := x, lanes := y } (304 + k.val) = false := h
    rw [hs, State.event_cores, State.raiseAll_closed hc]

/-- The device after reset with every domain powered, strait lane 15 up and core 1 fenced. -/
def straitFencedCore1 : State :=
  { State.reset with
    pwr := { State.reset.pwr with on := BitVec.allOnes 316, fence := domBit 305 }
    lanes := vmod State.reset.lanes 15 (fun y => { y with lcfg := 5 })
    straits := vmod State.reset.straits 1 (fun x => { x with up := true }) }

theorem straitFencedCore1_straitOn : straitFencedCore1.straitOn true = true := by decide +kernel

/-- Refutes O45: the IRQ packet to a core whose domain is fenced is dropped there, so a strait link that goes down does not raise interrupt
17 at every core. -/
theorem not_straitMessages : ¬ Obligations.StraitMessages := by
  intro h
  obtain ⟨-, -, -, -, -, hdown, -⟩ := h straitFencedCore1 true { seq := 0, ack := 0, credits := 0, nak := false, crc := 0 } straitFencedCore1_straitOn
  obtain ⟨t, ht, -, -, -, hirq⟩ := hdown rfl
  have hc : straitFencedCore1.domainOpen (304 + (1 : CoreId).val) = false := State.domainOpen_fenced (getLsbD_domBit (by decide))
  have hx : exec (.straitLinkDown true) straitFencedCore1 = .next (straitFencedCore1.straitDown true) := rfl
  have hk := hirq 1
  rw [← Host.Outcome.next.inj (hx.symm.trans ht), State.straitDown_closed hc] at hk
  exact absurd hk (by decide)

end Sys2Proof.Machine
end

section
/-! PROOF. What a settled core's instruction runs to when it sends requests or pours, and the rules of its tags and operands that far
accesses, POUR, TAGWAIT and FENCE use (spec/10 R238, R239, R249; spec/11 R273). -/
namespace Sys2Proof.Machine

/-! ### A core in a state -/

theorem State.setCore_at (s : State) (n : CoreId) (c : Core) : (s.setCore n c).cores[n] = c := vset_at ..
theorem State.setCore_else (s : State) {n m : CoreId} (h : m ≠ n) (c : Core) : (s.setCore n c).cores[m] = s.cores[m] := vset_else _ _ _ _ h

/-- The initiator of a core's requests has the core's number. -/
theorem srcOf_val (n : CoreId) : (ix 32 n.val : Fin 32).val = n.val := congrArg Fin.val (dif_pos (show n.val < 32 by omega))

/-- Beginning an instruction clears SIP of CST and no other bit. -/
theorem Core.begun_cst (c : Core) {i : Nat} (hi : i < 7) : c.begun.cst.getLsbD i = c.cst.getLsbD i := by
  have hbit : ∀ i : Fin 7, (0xFFFFFF7F : Word).getLsbD i.val = true := by decide
  show (c.cst &&& (0xFFFFFF7F : Word)).getLsbD i = _
  rw [BitVec.getLsbD_and, hbit ⟨i, hi⟩, Bool.and_true]

theorem Core.begun_priv (c : Core) : c.begun.priv = c.priv := c.begun_cst (by decide)
theorem Core.begun_te (c : Core) : c.begun.te = c.te := c.begun_cst (by decide)

/-! ### The run of one instruction -/

/-- A scalar instruction of an unfenced core that completes goes on behind itself, its requests leave and its records go to the pour port. -/
theorem State.runInsn_done {n : CoreId} {s : State} (h : s.Settled n) {i : Insn} (hk : i.kind = .scalar) (hu : i.units ≤ 3) {c : Core}
    {send : List Request} {recs : List PourRec} (hb : i.body (s.coreEnv n) (s.cores[n]).begun = .done c none send recs)
    (hf : s.pwr.fence.getLsbD (304 + n.val) = false) (hs : c.stepping = false) :
    s.runInsn n i = recs.foldl State.pourArrive (send.foldl State.inject
      (s.setCore n { c with pc := (s.cores[n]).pc + BitVec.ofNat 32 (2 * i.units) })) := by
  have e {p : Word} : ({ c with pc := p } : Core).stepping = false := hs
  unfold State.runInsn
  rw [State.runInsnWith_settled h _ hu, hk]
  simp only [reduceCtorEq, or_self, if_false]
  rw [hb]
  simp only [State.ends, hf, Bool.false_eq_true, if_false, hk, reduceCtorEq, decide_false, Bool.false_and, Option.getD_none]
  rw [Core.stepEnd_plain e]

/-- A request that leaves joins those under way. -/
theorem State.inject_requests (s : State) (r : Request) : (s.inject r).net.requests = s.net.requests ++ [r] := by
  unfold State.inject
  dsimp only
  split <;> rfl

theorem State.inject_cores (s : State) (r : Request) : (s.inject r).cores = s.cores := by
  unfold State.inject
  dsimp only
  split <;> rfl

/-! ### Addresses without translation -/

/-- Without translation an address is the physical one. -/
theorem Core.translate_off {c : Core} (hte : c.te = false) (va : Word) (k : XKind) : c.translate va k = .ok (va.setWidth 40, c) := by
  rw [Core.translate, hte]
  rfl

/-- Empty stations hold no store. -/
theorem Core.parkedOverlap_empty {c : Core} (hst : c.stations = Vector.replicate 4 none) (n : CoreId) (pa : PAddr) (len : Nat) :
    c.parkedOverlap n pa len = false := by
  simp [Core.parkedOverlap, hst]

theorem aligned_of_mod {va : Word} {size : Nat} (ha : va.toNat % size = 0) : aligned va size = true := by
  rw [aligned, ha]
  rfl

/-- A far address: aligned and outside the own local range. -/
theorem Core.farAddr_far {c : Core} (hte : c.te = false) (hst : c.stations = Vector.replicate 4 none) (n : CoreId) {va : Word} {size : Nat}
    (ha : va.toNat % size = 0) (hf : 0x40000 ≤ va.toNat) (k : XKind) : c.farAddr n va size k = .ok (va.setWidth 40, c) := by
  have hlt : decide ((va.setWidth 40 : PAddr).toNat < 0x40000) = false := by
    rw [BitVec.toNat_setWidth_of_le (by decide)]
    exact decide_eq_false (by omega)
  unfold Core.farAddr
  rw [aligned_of_mod ha, Core.translate_off hte]
  simp only [Bool.not_true, Bool.false_eq_true, if_false, bind, Except.bind, hlt, Core.parkedOverlap_empty hst]

/-- A local address: aligned and inside local SRAM. -/
theorem Core.localAddr_local {c : Core} (hte : c.te = false) (hst : c.stations = Vector.replicate 4 none) (n : CoreId) {va : Word} {size : Nat}
    (hr : reachable va size) (k : XKind) : c.localAddr n va size k = .ok (va.toNat, c) := by
  obtain ⟨ha, hl⟩ := hr
  have hw : (va.setWidth 40 : PAddr).toNat = va.toNat := BitVec.toNat_setWidth_of_le (by decide)
  have hin : inSram (va.setWidth 40) size = true := by
    rw [inSram, hw]
    exact decide_eq_true hl
  unfold Core.localAddr
  rw [aligned_of_mod ha, Core.translate_off hte]
  simp only [Bool.not_true, Bool.false_eq_true, if_false, bind, Except.bind, hin, Core.parkedOverlap_empty hst, hw]

/-! ### Operands and tags -/

/-- Popping one slot filled under a tag takes its value and releases the tag. -/
theorem Core.pop_fill {c : Core} {t : Fin 64} {w : Word} {r : List Slot} {p : Nat} (hst : c.stack = .fill t w :: r) (hd : r.length + p ≤ 256) :
    c.pop 1 p = .ok ([w], { c.release t with stack := (c.release t).stack.drop 1 }) := by
  have hc : c.check 1 p = .ok () := by
    unfold Core.check Core.depth
    rw [if_neg (by simp [hst]), if_neg (by simp [hst]; omega)]
  have ht : c.stack.take 1 = [.fill t w] := by rw [hst]; rfl
  simp only [Core.pop, hc, ht, bind, Except.bind, List.any_cons, List.any_nil, Slot.pending, Bool.or_self, Bool.false_eq_true, if_false,
    Core.values, Core.releaseAll, List.foldl_cons, List.foldl_nil, Core.slotTag]

/-- Core `c` with tag `t` allocated to an access of kind `kind` at `addr`, its answer due. -/
def Core.issued (c : Core) (t : Fin 64) (kind : FillKind) (store : Bool) (addr : PAddr) : Core :=
  { c with
    tags := vset c.tags t { alloc := true, out := true, quar := false, store := store, kind := kind, addr := addr, order := c.order }
    order := c.order + 1 }

/-- An access allocates the lowest free tag. -/
theorem Core.allocTag_lowest {c : Core} {t : Fin 64} (h : lowestFree c t) (kind : FillKind) (store : Bool) (addr : PAddr) :
    c.allocTag kind store addr = .ok (t, c.issued t kind store addr) := by
  obtain ⟨hfree, hout, hquar, hlow⟩ := h
  have hfind : (List.finRange 64).find? (fun t => !(c.tags[t]).alloc) = some t := by
    rw [← Fin.find?_eq_find?_finRange, Fin.find?_eq_some_iff]
    exact ⟨by rw [hfree]; rfl, fun j hj => by rw [hlow j hj]; rfl⟩
  rw [Core.allocTag, hfind]
  dsimp only
  rw [hout, hquar]
  rfl

end Sys2Proof.Machine
end

section
/-! PROOF. POUR, TAGWAIT and FENCE (spec/11 Table 11.13; spec/05 R127; spec/10 R238, R239). -/
namespace Sys2Proof.Machine

/-! ### POUR -/

/-- A record that the port does not refuse waits in the outbound buffer of its core. -/
theorem State.pourArrive_accepted {s : State} {r : PourRec} (h : s.pourRefusal r = none) :
    s.pourArrive r = { s with pour := { s.pour with buf := vmod s.pour.buf r.core (fun l => l ++ [r]) } } := by
  rw [State.pourArrive, h]

/-- The port does not look at the cores. -/
theorem State.pourRefusal_setCore (s : State) (n : CoreId) (c : Core) (r : PourRec) : (s.setCore n c).pourRefusal r = s.pourRefusal r := rfl

/-- An instruction that pours an accepted record. -/
theorem State.runInsn_pours {n : CoreId} {s : State} (h : s.Settled n) {i : Insn} (hk : i.kind = .scalar) (hu : i.units ≤ 3) {c : Core} {q : PourRec}
    (hb : i.body (s.coreEnv n) (s.cores[n]).begun = .done c none [] [q]) (hf : s.pwr.fence.getLsbD (304 + n.val) = false) (hs : c.stepping = false)
    (hq : s.pourRefusal q = none) :
    s.runInsn n i = { s.setCore n { c with pc := (s.cores[n]).pc + BitVec.ofNat 32 (2 * i.units) } with
      pour := { s.pour with buf := vmod s.pour.buf q.core (fun l => l ++ [q]) } } := by
  rw [State.runInsn_done h hk hu hb hf hs, List.foldl_nil, List.foldl_cons, List.foldl_nil,
    State.pourArrive_accepted ((State.pourRefusal_setCore ..).trans hq)]
  rfl

/-- The record of a POUR starts at a multiple of 16. -/
theorem pourAddr_toNat (p : Word) : (p &&& 0xFFFFFFF0).toNat = p.toNat / 16 * 16 := by
  have hbit : ∀ i : Fin 32, (0xFFFFFFF0 : Word).getLsbD i.val = decide (4 ≤ i.val) := by decide
  have h : p &&& (0xFFFFFFF0 : Word) = (p >>> 4) <<< 4 := by
    refine BitVec.eq_of_getLsbD_eq fun i hi => ?_
    rw [BitVec.getLsbD_and, hbit ⟨i, hi⟩, BitVec.getLsbD_shiftLeft, BitVec.getLsbD_ushiftRight]
    by_cases h4 : 4 ≤ i
    · simp [h4, hi, Nat.not_lt.mpr h4]
    · simp [h4, Nat.lt_of_not_le h4]
  rw [h, BitVec.toNat_shiftLeft, BitVec.toNat_ushiftRight, Nat.shiftRight_eq_div_pow, Nat.shiftLeft_eq]
  omega

/-- The record that a POUR of core `n` makes of the 16 bytes at `p` under tag `t`. -/
def Core.pourRec (c : Core) (n : CoreId) (p : Word) (t : Fin 64) : PourRec :=
  { bits := BitVec.ofNat 128 (natLE (rdBytes 0 c.sram (p.toNat / 16 * 16) 16)), core := n, tag := BitVec.ofNat 6 t.val }

/-- POUR on a plain address: the pending slot under the new tag, and the record. -/
theorem insnPour_body {env : CEnv} {c : Core} {t : Fin 64} {p : Word} {r : List Slot} (hte : c.te = false)
    (hst : c.stations = Vector.replicate 4 none) (hp : c.priv = true ∨ c.ccfg.getLsbD 2 = true) (ht : lowestFree c t) (hroom : env.room = true)
    (hl : p.toNat + 16 ≤ 0x40000) (hr : r.length ≤ 255) (hs : c.stack = .val p :: r) :
    insnPour.body env c = .done { c.issued t .pour false 0 with stack := .pend t :: r } none [] [c.pourRec env.n p t] := by
  have hpriv : (!c.priv && !c.ccfg.getLsbD 2) = false := by
    obtain h | h := hp <;> rw [h] <;> simp
  have hpop : c.pop 1 1 = .ok ([p], { c with stack := r }) := Core.pop_val (ws := [p]) hs (by omega)
  have hreach : reachable (p &&& 0xFFFFFFF0) 16 := by
    rw [reachable, pourAddr_toNat]
    omega
  have haddr := Core.localAddr_local (c := { c with stack := r }) hte hst env.n hreach .load
  have htag := Core.allocTag_lowest (c := { c with stack := r }) (t := t) ht .pour false 0
  simp only [insnPour, insn1, hpriv, hpop, hroom, bind, Except.bind, CM.out, Bool.false_eq_true, if_false, Bool.not_true, List.getD_cons_zero]
  rw [haddr]
  dsimp only
  rw [htag, pourAddr_toNat]
  rfl

/-- POUR hands its record to the port under the new tag. -/
theorem pour_hands {n : CoreId} {s : State} {t : Fin 64} {p : Word} {r : List Slot} (h : s.Settled n) (hr : r.length ≤ 255)
    (hp : (s.cores[n]).priv = true ∨ (s.cores[n]).ccfg.getLsbD 2 = true) (ht : lowestFree s.cores[n] t)
    (hf : s.pwr.fence.getLsbD (304 + n.val) = false) (hl : p.toNat + 16 ≤ 0x40000) (hroom : (s.pour.buf[n]).length < 4)
    (hacc : s.pourRefusal ((s.cores[n]).pourRec n p t) = none) (hs : (s.cores[n]).stack = .val p :: r) :
    ∃ u, exec (.pour n) s = .next u ∧
      u.pour = { s.pour with buf := vset s.pour.buf n (s.pour.buf[n] ++ [(s.cores[n]).pourRec n p t]) } ∧
      u.cores[n] = { (s.cores[n]).begun.issued t .pour false 0 with pc := (s.cores[n]).pc + 2, stack := .pend t :: r } := by
  obtain ⟨hte, -, -, hst, hstep, -⟩ := h.2.1
  have he : exec (.pour n) s = .next (s.runInsn n insnPour) := rfl
  have hb := insnPour_body (env := s.coreEnv n) (c := (s.cores[n]).begun) ((Core.begun_te _).trans hte) hst
    (hp.imp_left (Core.begun_priv _).trans) ht (decide_eq_true hroom) hl hr hs
  have hk : insnPour.kind = .scalar := rfl
  have hu : insnPour.units ≤ 3 := by simp [insnPour, insn1]
  rw [he, State.runInsn_pours h hk hu hb hf hstep hacc]
  exact ⟨_, rfl, rfl, State.setCore_at ..⟩

/-! ### TAGWAIT -/

/-- TAGWAIT leaves a plain slot. -/
theorem tagwait_plain {n : CoreId} {s : State} {w : Word} {r : List Slot} (h : s.Settled n) (hr : r.length ≤ 255)
    (hs : (s.cores[n]).stack = .val w :: r) : exec (.tagwait n) s = s.leaves n 1 (.val w :: r) := by
  have hpop : (s.cores[n]).begun.pop 1 1 = .ok ([w], { (s.cores[n]).begun with stack := r }) := Core.pop_val (ws := [w]) hs (by omega)
  have hb : insnTagwait.body (s.coreEnv n) (s.cores[n]).begun = .ok { (s.cores[n]).begun with stack := .val w :: r } := by
    simp only [insnTagwait, insn1, hpop, bind, Except.bind, CM.out]
    rfl
  exact State.runInsn_leaves h (i := insnTagwait) rfl (by simp [insnTagwait, insn1]) hb

/-- TAGWAIT takes a filled slot and releases its tag. -/
theorem tagwait_fill {n : CoreId} {s : State} {t : Fin 64} {w : Word} {r : List Slot} (h : s.Settled n) (hr : r.length ≤ 255)
    (hs : (s.cores[n]).stack = .fill t w :: r) :
    exec (.tagwait n) s = s.retire n 1 (fun c => { c.release t with stack := .val w :: (c.release t).stack.drop 1 }) := by
  have hpop := Core.pop_fill (c := (s.cores[n]).begun) (p := 1) hs (by omega)
  have hb : insnTagwait.body (s.coreEnv n) (s.cores[n]).begun =
      .ok { (s.cores[n]).begun.release t with stack := .val w :: ((s.cores[n]).begun.release t).stack.drop 1 } := by
    simp only [insnTagwait, insn1, hpop, bind, Except.bind, CM.out]
    rfl
  exact State.runInsn_retire h (i := insnTagwait) (f := fun c => { c.release t with stack := .val w :: (c.release t).stack.drop 1 }) rfl
    (by simp [insnTagwait, insn1]) hb (fun _ _ => rfl) (fun _ => rfl)

/-- POUR and TAGWAIT. -/
theorem pourAndTagwaitRule_holds : pourAndTagwaitRule := by
  intro n s t p w r h hr
  refine ⟨?_, tagwait_plain h hr, fun hs => ?_⟩
  · intro hp ht hf hl hroom hacc hs
    obtain ⟨u, hu, hpour, hcore⟩ := pour_hands h hr hp ht hf hl hroom hacc hs
    refine ⟨u, hu, hpour, ?_⟩
    rw [hcore]
    exact ⟨congrArg TagSt.alloc (vset_at ..), rfl, rfl⟩
  · rw [tagwait_fill h hr hs]
    refine ⟨_, rfl, ?_⟩
    rw [State.setCore_at]
    exact ⟨rfl, congrArg TagSt.alloc (vmod_at ..), rfl⟩

/-! ### FENCE -/

/-- Every tag answered and every station empty. -/
theorem Core.quiet_of_answered {c : Core} (ho : ∀ t : Fin 64, (c.tags[t]).out = false) (hst : c.stations = Vector.replicate 4 none) :
    c.quiet = true := by
  have htags : c.tags.toList.all (fun t => !t.out) = true := by
    rw [List.all_eq_true]
    intro x hx
    obtain ⟨i, hi, rfl⟩ := List.mem_iff_getElem.mp hx
    have he := ho ⟨i, by simpa using hi⟩
    rw [Vector.getElem_toList]
    exact congrArg not he
  rw [Core.quiet, htags, hst]
  rfl

/-- FENCE with nothing outstanding and no failed store releases the tags of far stores. -/
theorem fenceRule_holds : fenceRule := by
  intro n s h ho hfail hclean
  obtain ⟨-, -, -, hst, -⟩ := h.2.1
  have hq : (s.cores[n]).begun.quiet = true := Core.quiet_of_answered ho hst
  have hfail' : (s.cores[n]).begun.failed = [] := hfail
  have hb : insnFence.body (s.coreEnv n) (s.cores[n]).begun = .ok (s.cores[n]).begun.fenceDone := by
    simp only [insnFence, hq, hfail', Bool.not_true, Bool.false_eq_true, if_false]
    rw [List.filter_eq_nil_iff.mpr]
    · rfl
    · intro sl hsl
      cases sl with
      | poison t l st a => exact absurd rfl (hclean _ hsl t l st a)
      | _ => exact Bool.false_ne_true
  exact State.runInsn_retire h (i := insnFence) rfl (by simp [insnFence]) hb (fun _ _ => rfl) (fun _ => rfl)

/-- Settles O19: POUR and TAGWAIT from the tags' rules, FENCE from a quiet core. -/
theorem tagsAndPours : Obligations.TagsAndPours := ⟨pourAndTagwaitRule_holds, fenceRule_holds⟩

end Sys2Proof.Machine
end

section
/-! PROOF. Far accesses: the tag they allocate, the slot they leave, the request they send (spec/10 R238; spec/11 Table 11.13, R273). -/
namespace Sys2Proof.Machine

/-- An instruction that sends one request: it joins those under way, and no other core changes. -/
theorem State.runInsn_sends {n : CoreId} {s : State} (h : s.Settled n) {i : Insn} (hk : i.kind = .scalar) (hu : i.units ≤ 3) {c : Core} {q : Request}
    (hb : i.body (s.coreEnv n) (s.cores[n]).begun = .done c none [q] []) (hf : s.pwr.fence.getLsbD (304 + n.val) = false) (hs : c.stepping = false) :
    (s.runInsn n i).net.requests = s.net.requests ++ [q] ∧
      (s.runInsn n i).cores = vset s.cores n { c with pc := (s.cores[n]).pc + BitVec.ofNat 32 (2 * i.units) } := by
  rw [State.runInsn_done h hk hu hb hf hs, List.foldl_nil, List.foldl_cons, List.foldl_nil, State.inject_requests, State.inject_cores]
  exact ⟨rfl, rfl⟩

/-- The body of a far access that completes under tag `t` at address `a` and leaves the stack `l`. -/
def farDone (env : CEnv) (c : Core) (t : Fin 64) (kind : FillKind) (store : Bool) (op : ReqOp) (a : Word) (l : List Slot) : CRes :=
  .done { c.issued t kind store (a.setWidth 40) with stack := l } none [coreReq env.n t (!c.priv) op (a.setWidth 40)] []

/-- The request of a core under a tag. -/
theorem coreReq_farReq (s : State) (n : CoreId) (t : Fin 64) (op : ReqOp) (a : Word) :
    coreReq n t (!(s.cores[n]).begun.priv) op (a.setWidth 40) = farReq s n t op a := by
  have hi : ix 32 n.val = ⟨n.val, by omega⟩ := Fin.ext (srcOf_val n)
  rw [coreReq, Core.begun_priv, hi]
  rfl

/-- An instruction with such a body issues its request. -/
theorem issues_of_farDone {n : CoreId} {s : State} {i : Instr} {body : CBody} {t : Fin 64} {kind : FillKind} {store : Bool} {op : ReqOp} {a : Word}
    {l : List Slot} (h : s.Settled n) (hf : s.pwr.fence.getLsbD (304 + n.val) = false) (hi : exec i s = .next (s.runInsn n (insn1 body)))
    (hb : body (s.coreEnv n) (s.cores[n]).begun = farDone (s.coreEnv n) (s.cores[n]).begun t kind store op a l) : issues s n i t op a l := by
  obtain ⟨-, -, -, -, hstep, -⟩ := h.2.1
  obtain ⟨hreq, hcores⟩ := State.runInsn_sends h (i := insn1 body) rfl (by simp [insn1]) hb hf hstep
  refine ⟨_, hi, hreq.trans ?_, fun m hm => ?_, ?_⟩
  · rw [← coreReq_farReq]
    rfl
  · rw [hcores, vset_else _ _ _ _ hm]
  · rw [hcores, vset_at]
    exact ⟨congrArg TagSt.alloc (vset_at ..), congrArg TagSt.out (vset_at ..), fun j hj => vset_else _ _ _ _ hj, rfl⟩

/-! ### The three kinds of far access -/

section
variable {env : CEnv} {c : Core} {t : Fin 64} {a v : Word} {r : List Slot} {size : Nat}

/-- A far load. -/
theorem farLoadBody_far (hte : c.te = false) (hst : c.stations = Vector.replicate 4 none) (hp : c.farAllowed = true) (ht : lowestFree c t)
    (hfar : 0x40000 ≤ a.toNat) (hal : a.toNat % size = 0) (hr : r.length ≤ 254) (hs : c.stack = .val a :: r) (kind : FillKind) :
    farLoadBody size kind env c = farDone env c t kind false (.read size) a (.pend t :: r) := by
  have hpop : c.pop 1 1 = .ok ([a], { c with stack := r }) := Core.pop_val (ws := [a]) hs (by omega)
  have haddr := Core.farAddr_far (c := { c with stack := r }) hte hst env.n hal hfar .load
  have htag := Core.allocTag_lowest (c := { c with stack := r }) (t := t) ht kind false (a.setWidth 40)
  simp only [farLoadBody, hp, hpop, bind, Except.bind, CM.out, Bool.false_eq_true, if_false, Bool.not_true, List.getD_cons_zero]
  rw [haddr]
  dsimp only
  rw [htag]
  rfl

/-- A far store of plain data. -/
theorem farStoreBody_far (hte : c.te = false) (hst : c.stations = Vector.replicate 4 none) (hp : c.farAllowed = true) (ht : lowestFree c t)
    (hfar : 0x40000 ≤ a.toNat) (hal : a.toNat % size = 0) (hr : r.length ≤ 254) (hs : c.stack = .val a :: .val v :: r) :
    farStoreBody size env c = farDone env c t .word true (.write (bytesLE size v.toNat)) a r := by
  have hpop : c.pop 2 0 = .ok ([a, v], { c with stack := r }) := Core.pop_val (ws := [a, v]) hs (by omega)
  have hcheck : c.check 2 0 = .ok () := by
    unfold Core.check Core.depth
    rw [if_neg (by simp [hs]), if_neg (by simp [hs]; omega)]
  have haddr := Core.farAddr_far (c := { c with stack := r }) hte hst env.n hal hfar .store
  have htag := Core.allocTag_lowest (c := { c with stack := r }) (t := t) ht .word true (a.setWidth 40)
  have hplain : ((c.stack.take 2).drop 1).any Slot.pending = false := by rw [hs]; rfl
  simp only [farStoreBody, hp, hcheck, hplain, hpop, bind, Except.bind, CM.out, Bool.false_eq_true, if_false, Bool.not_true, Bool.false_and,
    List.getD_cons_zero, List.getD_cons_succ]
  rw [haddr]
  dsimp only
  rw [htag]
  rfl

/-- A far atomic. -/
theorem farAtomicBody_far (hte : c.te = false) (hst : c.stations = Vector.replicate 4 none) (hp : c.farAllowed = true) (ht : lowestFree c t)
    (hfar : 0x40000 ≤ a.toNat) (hal : a.toNat % 4 = 0) (hr : r.length ≤ 254) (hs : c.stack = .val a :: .val v :: r) (op : AtomOp) :
    farAtomicBody op env c = farDone env c t .word false (.atomic op (v.setWidth 64)) a (.pend t :: r) := by
  have hpop : c.pop 2 1 = .ok ([a, v], { c with stack := r }) := Core.pop_val (ws := [a, v]) hs (by omega)
  have haddr := Core.farAddr_far (c := { c with stack := r }) hte hst env.n hal hfar .load
  have hstore := Core.translate_off (c := { c with stack := r }) hte a .store
  have htag := Core.allocTag_lowest (c := { c with stack := r }) (t := t) ht .word false (a.setWidth 40)
  simp only [farAtomicBody, hp, hpop, bind, Except.bind, CM.out, Bool.false_eq_true, if_false, Bool.not_true, List.getD_cons_zero,
    List.getD_cons_succ]
  rw [haddr]
  dsimp only
  rw [hstore]
  dsimp only
  rw [htag]
  rfl

end

/-! ### The accesses of Table 11.13 -/

/-- The lowest byte of a word goes first. -/
theorem bytesLE_word (n : Nat) (v : Word) : bytesLE (n + 1) v.toNat = v.setWidth 8 :: bytesLE n (v >>> 8).toNat := by
  have hlow : BitVec.ofNat 8 v.toNat = v.setWidth 8 := rfl
  rw [bytesLE_succ, hlow, BitVec.toNat_ushiftRight, Nat.shiftRight_eq_div_pow]

theorem bytesLE_one (v : Word) : bytesLE 1 v.toNat = [v.setWidth 8] := bytesLE_word 0 v

theorem bytesLE_two (v : Word) : bytesLE 2 v.toNat = [v.setWidth 8, (v >>> 8).setWidth 8] := by
  rw [bytesLE_word, bytesLE_one]

theorem bytesLE_four (v : Word) : bytesLE 4 v.toNat = [v.setWidth 8, (v >>> 8).setWidth 8, (v >>> 16).setWidth 8, (v >>> 24).setWidth 8] := by
  rw [bytesLE_word, bytesLE_word, bytesLE_two, ← BitVec.shiftRight_add, ← BitVec.shiftRight_add]

/-- Far loads, stores and atomics, each from the body of its kind. -/
theorem farAccessesRule_holds : farAccessesRule := by
  intro n s t a v r h hp ht hf hfar hr
  obtain ⟨hte, -, -, hst, -⟩ := h.2.1
  have hte' : (s.cores[n]).begun.te = false := (Core.begun_te _).trans hte
  have hp' : (s.cores[n]).begun.farAllowed = true := by
    rw [Core.farAllowed, Core.begun_priv, Bool.or_eq_true]
    exact hp
  refine ⟨fun hs => ?_, fun hs => ?_⟩
  · have load {i : Instr} {size : Nat} {kind : FillKind} (hi : exec i s = .next (s.runInsn n (insn1 (farLoadBody size kind))))
        (hal : a.toNat % size = 0) : issues s n i t (.read size) a (.pend t :: r) :=
      issues_of_farDone h hf hi (farLoadBody_far hte' hst hp' ht hfar hal hr hs kind)
    exact ⟨load rfl (Nat.mod_one _), load rfl (Nat.mod_one _), fun h2 => ⟨load rfl h2, load rfl h2⟩, fun h4 => load rfl h4⟩
  · have store {i : Instr} {size : Nat} (hi : exec i s = .next (s.runInsn n (insn1 (farStoreBody size)))) (hal : a.toNat % size = 0) :
        issues s n i t (.write (bytesLE size v.toNat)) a r :=
      issues_of_farDone h hf hi (farStoreBody_far hte' hst hp' ht hfar hal hr hs)
    have atomic {i : Instr} {op : AtomOp} (h4 : a.toNat % 4 = 0) (hi : exec i s = .next (s.runInsn n (insn1 (farAtomicBody op)))) :
        issues s n i t (.atomic op (v.setWidth 64)) a (.pend t :: r) :=
      issues_of_farDone h hf hi (farAtomicBody_far hte' hst hp' ht hfar h4 hr hs op)
    rw [← bytesLE_one, ← bytesLE_two, ← bytesLE_four]
    exact ⟨store rfl (Nat.mod_one _), fun h2 => store rfl h2, fun h4 => ⟨store rfl h4, atomic h4 rfl, atomic h4 rfl, atomic h4 rfl⟩⟩

end Sys2Proof.Machine
end

section
/-! PROOF. What the answer to a tag leaves of its core, and how the core settles behind it (spec/10 R238, R241, R252; spec/12 R285). -/
namespace Sys2Proof.Machine

/-! ### Settling -/

/-- From `c` to `d` stack, local memory, failed stores, the answers due and the quarantines stand, and taint stays. -/
structure Core.Keeps (c d : Core) : Prop where
  stack : d.stack = c.stack
  sram : d.sram = c.sram
  failed : d.failed = c.failed
  out : ∀ t : Fin 64, (d.tags[t]).out = (c.tags[t]).out
  quar : ∀ t : Fin 64, (d.tags[t]).quar = (c.tags[t]).quar
  tnt : c.tnt = true → d.tnt = true

theorem Core.Keeps.refl (c : Core) : c.Keeps c := ⟨rfl, rfl, rfl, fun _ => rfl, fun _ => rfl, id⟩

theorem Core.Keeps.trans {c d e : Core} (h : c.Keeps d) (k : d.Keeps e) : c.Keeps e :=
  ⟨k.stack.trans h.stack, k.sram.trans h.sram, k.failed.trans h.failed, fun t => (k.out t).trans (h.out t),
    fun t => (k.quar t).trans (h.quar t), k.tnt ∘ h.tnt⟩

/-- A CST write keeps taint (R243). -/
theorem Core.writeCst_keeps (c : Core) (v : Word) : c.Keeps (c.writeCst v) := by
  refine ⟨rfl, rfl, rfl, fun _ => rfl, fun _ => rfl, fun h => ?_⟩
  have hbit : (0x40 : Word).getLsbD 6 = true := by decide
  show ((v &&& (0xFF : Word)) ||| (c.cst &&& (0x40 : Word))).getLsbD 6 = true
  rw [BitVec.getLsbD_or, BitVec.getLsbD_and (x := c.cst), hbit, Bool.and_true, Bool.or_eq_true]
  exact .inr h

theorem Core.setShadowed_keeps (c : Core) (num : Byte) (v : Word) : c.Keeps (c.setShadowed num v) := by
  unfold Core.setShadowed
  split
  · exact c.writeCst_keeps v
  all_goals exact ⟨rfl, rfl, rfl, fun _ => rfl, fun _ => rfl, id⟩

theorem Core.applyShadow_keeps (c : Core) (sh : Option (Byte × Word)) (reti : Bool) : c.Keeps (c.applyShadow sh reti) := by
  cases sh with
  | none => exact .refl c
  | some x =>
    show c.Keeps (if reti && x.1 == 0 then c else c.setShadowed x.1 x.2)
    split
    · exact .refl c
    · exact c.setShadowed_keeps ..

theorem Core.lateShadow_keeps (c : Core) : c.Keeps c.lateShadow := by
  unfold Core.lateShadow
  split
  · exact .refl c
  · exact (c.applyShadow_keeps c.late false).trans ⟨rfl, rfl, rfl, fun _ => rfl, fun _ => rfl, id⟩

/-- A FENCE that completes releases tags only. -/
theorem Core.fenceDone_keeps (c : Core) : c.Keeps c.fenceDone := by
  have htag : ∀ t : Fin 64, c.fenceDone.tags[t] = if (c.tags[t]).store then { c.tags[t] with alloc := false } else c.tags[t] :=
    fun t => Vector.getElem_map _ t.isLt
  refine ⟨rfl, rfl, rfl, fun t => ?_, fun t => ?_, id⟩ <;> rw [htag] <;> split <;> rfl

theorem Core.settle_keeps (c : Core) : c.Keeps c.settle := by
  unfold Core.settle
  dsimp only
  split
  · exact (c.lateShadow_keeps.trans (Core.fenceDone_keeps _)).trans ⟨rfl, rfl, rfl, fun _ => rfl, fun _ => rfl, id⟩
  · exact c.lateShadow_keeps

/-! ### Answers -/

/-- Core `c` with tag `t` answered: its answer is no longer due, and TIMEOUT and COLLIDED taint. -/
def Core.answered (c : Core) (t : Fin 64) (st : Status) : Core :=
  let c := { c with tags := vset c.tags t { c.tags[t] with out := false } }
  if st = .timeout ∨ st = .collided then c.taint else c

/-- Tag and taint are all that changes. -/
theorem Core.answered_frame (c : Core) (t : Fin 64) (st : Status) :
    ∃ cst, c.answered t st = { c with cst := cst, tags := vset c.tags t { c.tags[t] with out := false } } := by
  unfold Core.answered
  dsimp only
  split <;> exact ⟨_, rfl⟩

theorem Core.answered_taints (c : Core) (t : Fin 64) {st : Status} (h : st = .timeout ∨ st = .collided) : (c.answered t st).tnt = true := by
  have hbit : (0x40 : Word).getLsbD 6 = true := by decide
  rw [Core.answered, if_pos h]
  show (c.cst ||| (0x40 : Word)).getLsbD 6 = true
  rw [BitVec.getLsbD_or, hbit, Bool.or_true]

/-- What the slots pending on tag `t` become. -/
def Core.fillOf (c : Core) (t : Fin 64) (st : Status) (v : Nat) : Slot :=
  let g := c.tags[t]
  if st = .ok then (if g.alloc then .fill t (fillValue g.kind v) else .val (fillValue g.kind v)) else .poison t g.alloc st g.addr

/-- The record of a far store under tag `t` that ended with `st`. -/
def Core.failedStore (c : Core) (t : Fin 64) (st : Status) : FailedStore :=
  { order := (c.tags[t]).order, far := true, tag := BitVec.ofNat 6 t.val, status := st, addr := (c.tags[t]).addr }

section
variable {c : Core} {t : Fin 64}

/-- An answer, in the three ways it ends. -/
theorem Core.answer_eq (c : Core) (t : Fin 64) (st : Status) (v : Nat) :
    c.answer t st v = if (c.tags[t]).store then
      (if st = .ok then c.answered t st else { c.answered t st with failed := insertFailed (c.failedStore t st) (c.answered t st).failed })
      else (c.answered t st).mapSlots (fun sl => if sl = .pend t then c.fillOf t st v else sl) := rfl

theorem Core.answer_load (h : (c.tags[t]).store = false) (st : Status) (v : Nat) :
    c.answer t st v = (c.answered t st).mapSlots (fun sl => if sl = .pend t then c.fillOf t st v else sl) := by
  rw [Core.answer_eq, h, if_neg Bool.false_ne_true]

theorem Core.answer_store_ok (h : (c.tags[t]).store = true) (v : Nat) : c.answer t .ok v = c.answered t .ok := by
  rw [Core.answer_eq, if_pos h, if_pos rfl]

theorem Core.answer_store_failed (h : (c.tags[t]).store = true) {st : Status} (hst : st ≠ .ok) (v : Nat) :
    c.answer t st v = { c.answered t st with failed := insertFailed (c.failedStore t st) (c.answered t st).failed } := by
  rw [Core.answer_eq, if_pos h, if_neg hst]

end

/-- A store that failed is among those to report. -/
theorem mem_insertFailed (x : FailedStore) (l : List FailedStore) : x ∈ insertFailed x l := by
  induction l with
  | nil => exact List.mem_cons_self
  | cons y l ih =>
    rw [insertFailed]
    split
    · exact List.mem_cons_self
    · exact List.mem_cons_of_mem _ ih

end Sys2Proof.Machine
end

section
/-! PROOF. The responses and completions that fill the slots of a core (spec/10 R238, R241; spec/13 R313; spec/05 R133). -/
namespace Sys2Proof.Machine

/-! ### One core of a state -/

theorem State.stepCore_at (s : State) (n : CoreId) (f : Core → Core) : (s.stepCore n f).cores[n] = (f s.cores[n]).settle := s.setCore_at n _

theorem State.stepCore_else (s : State) {n m : CoreId} (h : m ≠ n) (f : Core → Core) : (s.stepCore n f).cores[m] = s.cores[m] := s.setCore_else h _

theorem State.raiseAt_at (s : State) (n : CoreId) (i : Nat) :
    (s.raiseAt n i).cores[n] = { s.cores[n] with irq := (s.cores[n]).irq ||| (1 <<< i) } := vmod_at ..

theorem State.raiseAt_else (s : State) {n m : CoreId} (h : m ≠ n) (i : Nat) : (s.raiseAt n i).cores[m] = s.cores[m] := vmod_else _ _ _ _ h

theorem State.noteLat_cores (s : State) (i : Fin 32) : (s.noteLat i).cores = s.cores := rfl

/-- A raised interrupt is latched. -/
theorem State.raiseAt_latches (s : State) (n : CoreId) {i : Nat} (hi : i < 32) : ((s.raiseAt n i).cores[n]).irq.getLsbD i = true := by
  rw [State.raiseAt_at]
  show ((s.cores[n]).irq ||| (1 : Word) <<< i).getLsbD i = true
  rw [BitVec.getLsbD_or, Bool.or_eq_true]
  right
  simp [hi]

/-! ### The answered core -/

theorem Core.answer_tags (c : Core) (t : Fin 64) (st : Status) (v : Nat) :
    (c.answer t st v).tags = vset c.tags t { c.tags[t] with out := false } := by
  obtain ⟨cst, h⟩ := c.answered_frame t st
  rw [Core.answer_eq, h]
  split_ifs <;> rfl

theorem Core.answer_out (c : Core) (t : Fin 64) (st : Status) (v : Nat) : ((c.answer t st v).tags[t]).out = false := by
  rw [Core.answer_tags, vset_at]

theorem Core.answer_sram (c : Core) (t : Fin 64) (st : Status) (v : Nat) : (c.answer t st v).sram = c.sram := by
  obtain ⟨cst, h⟩ := c.answered_frame t st
  rw [Core.answer_eq, h]
  split_ifs <;> rfl

theorem Core.answer_taints (c : Core) (t : Fin 64) {st : Status} (h : st = .timeout ∨ st = .collided) (v : Nat) : (c.answer t st v).tnt = true := by
  refine Eq.trans ?_ (c.answered_taints t h)
  rw [Core.answer_eq]
  split_ifs <;> rfl

theorem Core.fillOf_ok (c : Core) (t : Fin 64) {st : Status} (h : st = .ok) (v : Nat) :
    c.fillOf t st v = if (c.tags[t]).alloc then .fill t (fillValue (c.tags[t]).kind v) else .val (fillValue (c.tags[t]).kind v) := by
  unfold Core.fillOf
  exact if_pos h

theorem Core.fillOf_failed (c : Core) (t : Fin 64) {st : Status} (h : st ≠ .ok) (v : Nat) :
    c.fillOf t st v = .poison t (c.tags[t]).alloc st (c.tags[t]).addr := by
  unfold Core.fillOf
  exact if_neg h

/-- The core behind the answer to a load: the slots pending on its tag are filled. -/
theorem Core.answer_settle_load {c : Core} {t : Fin 64} (h : (c.tags[t]).store = false) (st : Status) (v : Nat) :
    let d := (c.answer t st v).settle
    (d.tags[t]).out = false ∧ d.stack = c.stack.map (fun sl => if sl = .pend t then c.fillOf t st v else sl) ∧ d.sram = c.sram := by
  have k := (c.answer t st v).settle_keeps
  obtain ⟨cst, ha⟩ := c.answered_frame t st
  refine ⟨(k.out t).trans (c.answer_out t st v), k.stack.trans ?_, k.sram.trans (c.answer_sram t st v)⟩
  rw [Core.answer_load h, ha]
  rfl

/-- The core behind the answer to a store: no slot waits on it, and it joins the failed stores where it was not OK. -/
theorem Core.answer_settle_store {c : Core} {t : Fin 64} (h : (c.tags[t]).store = true) (st : Status) (v : Nat) :
    let d := (c.answer t st v).settle
    (d.tags[t]).out = false ∧ d.stack = c.stack ∧ (st = .ok → d.failed = c.failed) ∧ (st ≠ .ok → c.failedStore t st ∈ d.failed) := by
  have k := (c.answer t st v).settle_keeps
  obtain ⟨cst, ha⟩ := c.answered_frame t st
  refine ⟨(k.out t).trans (c.answer_out t st v), k.stack.trans ?_, fun hst => k.failed.trans ?_, fun hst => k.failed ▸ ?_⟩
  · rw [Core.answer_eq, if_pos h, ha]
    split <;> rfl
  · rw [hst, Core.answer_store_ok h]
    obtain ⟨cst, ha⟩ := c.answered_frame t .ok
    rw [ha]
  · rw [Core.answer_store_failed h hst]
    exact mem_insertFailed ..

/-! ### FAR_RESPONSE -/

section
variable {s : State} {n : CoreId} {tag : BitVec 6} {t : Fin 64}

/-- The search of FAR_RESPONSE among the responses. -/
theorem find_taken (s : State) (n : CoreId) (tag : BitVec 6) :
    s.net.responses.find? (fun r => decide (r.dst = ix 32 n.val) && decide (r.tag = tag.setWidth 8) && !s.underway (.rsp r)) = taken s n tag := by
  have hd : ∀ r : Response, decide (r.dst = ix 32 n.val) = decide (r.dst.val = n.val) := fun r =>
    decide_eq_decide.mpr (Fin.ext_iff.trans (by rw [srcOf_val]))
  simp only [taken, hd]

/-- State `s` without response `r`. -/
def State.without (s : State) (r : Response) : State := { s with net := { s.net with responses := s.net.responses.erase r } }

/-- A response is late, or answers a tag that waits, or is dropped. -/
theorem farResponse_taken {rsp : Response} (h : taken s n tag = some rsp) (ht : ix 64 tag.toNat = t) :
    exec (.farResponse n tag) s =
      if ((s.cores[n]).tags[t]).quar then .next ((s.without rsp).lateResponse (ix 32 n.val) rsp.tag)
      else if !((s.cores[n]).tags[t]).out then .next (s.without rsp)
      else .next (((s.without rsp).stepCore n (fun c => c.answer t rsp.status (natLE rsp.data))).noteLat (ix 32 n.val)) := by
  subst ht
  show execFarResponse n tag s = _
  rw [execFarResponse]
  dsimp only
  rw [find_taken, h]
  rfl

/-- Without a response a completion answers its tag and raises its interrupt. -/
theorem farResponse_completion {x : Completion} (h : taken s n tag = none) (hx : completed s n tag = some x) (ht : ix 64 tag.toNat = t) :
    exec (.farResponse n tag) s = .next ((State.stepCore { s with pour := { s.pour with compl := s.pour.compl.erase x } } n
      (fun c => c.answer t .ok x.word.toNat)).raiseAt n (4 + (fld x.word 21 3 : BitVec 3).toNat)) := by
  subst ht
  rw [completed] at hx
  show execFarResponse n tag s = _
  rw [execFarResponse]
  dsimp only
  rw [find_taken, h]
  dsimp only
  rw [hx]

theorem farResponse_none (h : taken s n tag = none) (hx : completed s n tag = none) : exec (.farResponse n tag) s = .next s := by
  rw [completed] at hx
  show execFarResponse n tag s = _
  rw [execFarResponse]
  dsimp only
  rw [find_taken, h]
  dsimp only
  rw [hx]

/-- The response taken is under the tag asked for. -/
theorem taken_tag {rsp : Response} (h : taken s n tag = some rsp) : rsp.tag = tag.setWidth 8 := by
  have hp := List.find?_some h
  simp only [Bool.and_eq_true, decide_eq_true_eq] at hp
  exact hp.1.2

end

/-! ### The rule -/

/-- A late response ends the quarantine of its tag and is counted; its core keeps its stack. -/
theorem State.lateResponse_spec (s : State) {n : CoreId} {t : Fin 64} {tag : Byte} (ht : tag.toNat = t.val) :
    let u := s.lateResponse (ix 32 n.val) tag
    u.net.responses = s.net.responses ∧ ((u.cores[n]).tags[t]).quar = false ∧ (u.cores[n]).stack = (s.cores[n]).stack ∧
      ∀ i : Fin 32, i.val = n.val → (u.net.stat[i]).lateCnt = satInc (s.net.stat[i]).lateCnt := by
  have hv := srcOf_val n
  have hlt : (ix 32 n.val : Fin 32).val < 4 ∧ tag.toNat < 64 := by omega
  have hcores : (s.lateResponse (ix 32 n.val) tag).cores = vmod s.cores n (fun c => { c with
      tags := vmod c.tags t (fun g => { g with quar := false }) }) := by
    unfold State.lateResponse State.endQuarantine
    dsimp only
    rw [if_pos hlt, hv, ix_val, ht, ix_val]
    rfl
  have hnet : (s.lateResponse (ix 32 n.val) tag).net = { s.net with
      quarantine := s.net.quarantine.filter (fun q => decide (q ≠ (ix 32 n.val, tag)))
      stat := vmod s.net.stat (ix 32 n.val) (fun x => { x with lateCnt := satInc x.lateCnt }) } := by
    unfold State.lateResponse State.endQuarantine
    dsimp only
    rw [if_pos hlt]
    rfl
  dsimp only
  rw [hcores, hnet, vmod_at]
  refine ⟨rfl, congrArg TagSt.quar (vmod_at ..), rfl, fun i hi => ?_⟩
  obtain rfl : i = ix 32 n.val := Fin.ext (hi.trans hv.symm)
  exact congrArg InitStat.lateCnt (vmod_at ..)

/-- Responses late, due or stray, and completions. -/
theorem responseFillsRule_holds : responseFillsRule := by
  intro n s tag t c g fills value
  have ht : ix 64 tag.toNat = t := dif_pos tag.isLt
  have htag : BitVec.ofNat 6 t.val = tag := BitVec.eq_of_toNat_eq (Nat.mod_eq_of_lt tag.isLt)
  refine ⟨fun rsp hrsp => ?_, fun hrsp x hx => ?_, farResponse_none⟩
  · rw [farResponse_taken hrsp ht]
    have hlt : rsp.tag.toNat = t.val := by
      rw [taken_tag hrsp, BitVec.toNat_setWidth_of_le (by decide)]
    cases hq : ((s.cores[n]).tags[t]).quar with
    | true =>
      obtain ⟨hresp, hquar, hstack, hlate⟩ := (s.without rsp).lateResponse_spec (n := n) hlt
      exact ⟨_, rfl, hresp, fun _ => ⟨hquar, hstack, hlate⟩, nofun⟩
    | false =>
      cases ho : ((s.cores[n]).tags[t]).out with
      | false => exact ⟨_, rfl, rfl, nofun, nofun⟩
      | true =>
        refine ⟨_, rfl, rfl, nofun, fun _ _ => ?_⟩
        have helse : ∀ m, m ≠ n → ((s.without rsp).stepCore n (fun c => c.answer t rsp.status (natLE rsp.data))).cores[m] = s.cores[m] :=
          fun m hm => State.stepCore_else _ hm _
        dsimp only [fills]
        rw [State.noteLat_cores, State.stepCore_at]
        refine ⟨fun hload hok => ?_, fun hload hbad => ?_, fun hstore => ?_, fun htaint => ?_⟩
        · obtain ⟨hout, hstack, hsram⟩ := Core.answer_settle_load hload rsp.status (natLE rsp.data)
          rw [Core.fillOf_ok _ _ hok] at hstack
          exact ⟨hout, hstack, hsram, helse⟩
        · obtain ⟨hout, hstack, hsram⟩ := Core.answer_settle_load hload rsp.status (natLE rsp.data)
          rw [Core.fillOf_failed _ _ hbad] at hstack
          exact ⟨hout, hstack, hsram, helse⟩
        · obtain ⟨hout, hstack, hok, hbad⟩ := Core.answer_settle_store hstore rsp.status (natLE rsp.data)
          rw [Core.failedStore, htag] at hbad
          exact ⟨hout, hstack, hok, hbad⟩
        · exact (Core.settle_keeps _).tnt (Core.answer_taints _ _ htaint _)
  · rw [farResponse_completion hrsp hx ht]
    have hi : 4 + (fld x.word 21 3 : BitVec 3).toNat < 32 := by omega
    refine ⟨_, rfl, rfl, State.raiseAt_latches _ _ hi, fun hload => ?_⟩
    obtain ⟨hout, hstack, hsram⟩ := Core.answer_settle_load (c := c) hload .ok x.word.toNat
    rw [Core.fillOf_ok _ _ rfl] at hstack
    dsimp only [fills]
    rw [State.raiseAt_at, State.stepCore_at]
    exact ⟨hout, hstack, hsram, fun m hm => (State.raiseAt_else _ hm _).trans (State.stepCore_else _ hm _)⟩

end Sys2Proof.Machine
end

section
/-! PROOF. A table walk with its tables in local SRAM, or its level-1 entry read before (spec/10 R249, R250; log 37). -/
namespace Sys2Proof.Machine

/-- The entry of local SRAM at `addr`. -/
def Core.entryAt (c : Core) (addr : PAddr) : DWord := BitVec.ofNat 64 (natLE (c.sramRead addr.toNat 8))

/-- A read of a table entry in local SRAM. -/
theorem State.walkRead_local (s : State) (n : CoreId) {addr : PAddr} (h : inSram addr 8 = true) :
    s.walkRead n addr = (if (s.cores[n]).ueAt addr.toNat 8 then .failed else .entry ((s.cores[n]).entryAt addr), s) := by
  unfold State.walkRead
  exact if_pos h

section
variable {s : State} {n : CoreId} {va : Word} {e1 : DWord}

/-- Core `n` has the level-1 entry `e1` of its walk for `va`: read before, or now without any effect. -/
def State.HasLevel1 (s : State) (n : CoreId) (va : Word) (e1 : DWord) : Prop :=
  (s.cores[n]).walkL1 = some e1 ∨ (s.cores[n]).walkL1 = none ∧ s.walkRead n (l1Addr (s.cores[n]).ptbr va) = (.entry e1, s)

/-- A walk that finds no page: the fault, with its bits of ECAUSE, waits for the access. -/
def Core.walkFails (c : Core) (va bits : Word) : Core := { c with walk := none, walkL1 := none, walkFault := some (va, bits) }

theorem State.coreWalk_level1_failed (hw : (s.cores[n]).walk = some va) (h1 : (s.cores[n]).walkL1 = none)
    (hr : s.walkRead n (l1Addr (s.cores[n]).ptbr va) = (.failed, s)) : s.coreWalk n = s.setCore n ((s.cores[n]).walkFails va 0x200) := by
  unfold State.coreWalk
  simp only [hw, h1, hr]
  rfl

theorem State.coreWalk_level1_bad (hw : (s.cores[n]).walk = some va) (h1 : s.HasLevel1 n va e1) (hb : l1Bad e1 = true) :
    s.coreWalk n = s.setCore n ((s.cores[n]).walkFails va 0) := by
  unfold State.coreWalk
  obtain h | ⟨h, hr⟩ := h1
  · simp only [hw, h, hb, if_true]
    rfl
  · simp only [hw, h, hr, hb, if_true]
    rfl

theorem State.coreWalk_level2_failed (hw : (s.cores[n]).walk = some va) (h1 : s.HasLevel1 n va e1) (hg : l1Bad e1 = false)
    (h2 : s.walkRead n (l2Addr e1 va) = (.failed, s)) : s.coreWalk n = s.setCore n ((s.cores[n]).walkFails va 0x200) := by
  unfold State.coreWalk
  obtain h | ⟨h, hr⟩ := h1
  · simp only [hw, h, hg, h2, Bool.false_eq_true, if_false]
    rfl
  · simp only [hw, h, hr, hg, h2, Bool.false_eq_true, if_false]
    rfl

theorem State.coreWalk_level2_entry (hw : (s.cores[n]).walk = some va) (h1 : s.HasLevel1 n va e1) (hg : l1Bad e1 = false) {e2 : DWord}
    (h2 : s.walkRead n (l2Addr e1 va) = (.entry e2, s)) :
    s.coreWalk n = s.setCore n (if l2Bad e2 then (s.cores[n]).walkFails va 0
      else ({ s.cores[n] with walk := none, walkL1 := none } : Core).tlbFill { vpn := fld va 12 20, pte := e2 }) := by
  rw [apply_ite (s.setCore n)]
  unfold State.coreWalk
  obtain h | ⟨h, hr⟩ := h1
  · simp only [hw, h, hg, h2, Bool.false_eq_true, if_false]
    rfl
  · simp only [hw, h, hr, hg, h2, Bool.false_eq_true, if_false]
    rfl

/-- What the second entry comes to, in the three ways of the rule. -/
theorem tableWalkComplete_level2 (hw : (s.cores[n]).walk = some va) (h1 : s.HasLevel1 n va e1) (hg : l1Bad e1 = false)
    (hin : inSram (l2Addr e1 va) 8 = true) :
    ((s.cores[n]).ueAt (l2Addr e1 va).toNat 8 = true → exec (.tableWalkComplete n) s = .next (s.setCore n ((s.cores[n]).walkFails va 0x200))) ∧
    ((s.cores[n]).ueAt (l2Addr e1 va).toNat 8 = false → l2Bad ((s.cores[n]).entryAt (l2Addr e1 va)) = true →
      exec (.tableWalkComplete n) s = .next (s.setCore n ((s.cores[n]).walkFails va 0))) ∧
    ((s.cores[n]).ueAt (l2Addr e1 va).toNat 8 = false → l2Bad ((s.cores[n]).entryAt (l2Addr e1 va)) = false →
      ∃ j : Fin 32, exec (.tableWalkComplete n) s = .next (s.setCore n { s.cores[n] with
        walk := none, walkL1 := none, tlbNext := j
        tlb := vset (s.cores[n]).tlb j (some { vpn := fld va 12 20, pte := (s.cores[n]).entryAt (l2Addr e1 va) }) })) := by
  have he : exec (.tableWalkComplete n) s = .next (s.coreWalk n) := rfl
  have h2 := s.walkRead_local n hin
  refine ⟨fun hue => ?_, fun hue hbad => ?_, fun hue hgood => ?_⟩
  · rw [if_pos hue] at h2
    rw [he, State.coreWalk_level2_failed hw h1 hg h2]
  · rw [hue, if_neg Bool.false_ne_true] at h2
    rw [he, State.coreWalk_level2_entry hw h1 hg h2, if_pos hbad]
  · rw [hue, if_neg Bool.false_ne_true] at h2
    rw [he, State.coreWalk_level2_entry hw h1 hg h2, if_neg (ne_true_of_eq_false hgood)]
    exact ⟨_, rfl⟩

end

/-- A walk that ends, from its first entry and its second. -/
theorem walkCompletesRule_holds : walkCompletesRule := by
  intro n s c
  have he : exec (.tableWalkComplete n) s = .next (s.coreWalk n) := rfl
  refine ⟨fun hw => ?_, fun va hw => ?_⟩
  · rw [he, State.coreWalk, hw]
  intro word fails second
  have level2 {e1 : DWord} (h1 : s.HasLevel1 n va e1) (hg : l1Bad e1 = false) : second e1 := by
    intro hin
    obtain ⟨hfail, hbad, hgood⟩ := tableWalkComplete_level2 hw h1 hg hin
    refine ⟨hfail, hbad, fun hue hok => ?_⟩
    obtain ⟨j, hj⟩ := hgood hue hok
    refine ⟨_, hj, ?_, j, ?_, fun k hk => ?_⟩
    · rw [State.setCore_at]
    · rw [State.setCore_at]
      exact vset_at ..
    · rw [State.setCore_at]
      exact vset_else _ _ _ _ hk
  refine ⟨fun e1 h1 hg => level2 (.inl h1) hg, fun h1 hin => ?_⟩
  have hr := s.walkRead_local n hin
  refine ⟨fun hue => ?_, fun hue => ?_⟩
  · rw [hue, if_pos rfl] at hr
    exact congrArg _ (State.coreWalk_level1_failed hw h1 hr)
  · rw [hue, if_neg Bool.false_ne_true] at hr
    exact ⟨fun hb => congrArg _ (State.coreWalk_level1_bad hw (.inr ⟨h1, hr⟩) hb), fun hg => level2 (.inr ⟨h1, hr⟩) hg⟩

/-- Settles O22: requests, responses and walks, each from its own rule. -/
theorem farData : Obligations.FarData := ⟨farAccessesRule_holds, responseFillsRule_holds, walkCompletesRule_holds⟩

end Sys2Proof.Machine
end

section
/-! PROOF. A core's request that times out and its quarantine, the power of a drained domain, and the records that enter the queues
(spec/13 R313, R317; spec/05 R128, R130). -/
namespace Sys2Proof.Machine

/-! ### Timeouts and quarantines of a core's tags -/

/-- With no MEM_READ or MEM_WRITE kept there is none to go on with. -/
theorem State.memResumeAll_none {s : State} (h : s.holm.jobs = []) : s.memResumeAll = s := by
  unfold State.memResumeAll
  rw [h, List.foldl_nil, ← h]

section
variable {s : State} {n : CoreId} {tag : Fin 64} {src : Fin 32}

theorem tagByte_toNat (tag : Fin 64) : (BitVec.ofNat 8 tag.val).toNat = tag.val := by
  rw [BitVec.toNat_ofNat]
  omega

/-- Core `c` with its request under tag `t` timed out: answered so, and the tag in quarantine. -/
def Core.timedOut (c : Core) (t : Fin 64) : Core :=
  { c.answer t .timeout 0 with tags := vmod (c.answer t .timeout 0).tags t (fun x => { x with quar := true }) }

theorem Core.timedOut_quar (c : Core) (t : Fin 64) : ((c.timedOut t).tags[t]).quar = true := congrArg TagSt.quar (vmod_at ..)

/-- A timeout of a core's request interrupts that core. -/
theorem State.timeoutIrq_core (s : State) (hsrc : src.val = n.val) : s.timeoutIrq src = s.raiseAt n 17 := by
  rw [State.timeoutIrq, if_pos (by omega), hsrc, ix_val]

/-- A core's tag that times out: answered so at its core, in quarantine from now on, counted, and interrupt 17. -/
theorem State.requestTimeout_core (hsrc : src.val = n.val) (ho : ((s.cores[n]).tags[tag]).out = true)
    (hq : ((s.cores[n]).tags[tag]).quar = false) (hk : ((s.cores[n]).tags[tag]).kind ≠ .pour) :
    s.requestTimeout src (BitVec.ofNat 8 tag.val) =
      (((s.stepCore n (fun c => c.timedOut tag)).quarantined src (BitVec.ofNat 8 tag.val)).noteTimeout src).raiseAt n 17 := by
  have hlt : src.val < 4 ∧ (BitVec.ofNat 8 tag.val).toNat < 64 := ⟨by omega, by rw [tagByte_toNat]; exact tag.isLt⟩
  unfold State.requestTimeout
  rw [← State.timeoutIrq_core _ hsrc, if_pos hlt]
  simp only [hsrc, tagByte_toNat, ix_val, ho, hq, hk, Bool.not_true, decide_false, Bool.or_self, Bool.false_eq_true, if_false]
  rfl

/-- REQUEST_TIMEOUT of a core's tag. -/
theorem requestTimeout_quarantines (hsrc : src.val = n.val) (ho : ((s.cores[n]).tags[tag]).out = true)
    (hq : ((s.cores[n]).tags[tag]).quar = false) (hk : ((s.cores[n]).tags[tag]).kind ≠ .pour) (hj : s.holm.jobs = []) :
    ∃ t, exec (.requestTimeout src (BitVec.ofNat 8 tag.val)) s = .next t ∧ ((t.cores[n]).tags[tag]).quar = true ∧
      (t.cores[n]).irq.getLsbD 17 = true ∧ t.net.quarantine = s.net.quarantine ++ [(src, BitVec.ofNat 8 tag.val)] := by
  have he : exec (.requestTimeout src (BitVec.ofNat 8 tag.val)) s = .next (s.requestTimeout src (BitVec.ofNat 8 tag.val)).memResumeAll := rfl
  have hjobs : ((((s.stepCore n (fun c => c.timedOut tag)).quarantined src (BitVec.ofNat 8 tag.val)).noteTimeout src).raiseAt n 17).holm.jobs = [] := hj
  have hcore : (((s.stepCore n (fun c => c.timedOut tag)).quarantined src (BitVec.ofNat 8 tag.val)).noteTimeout src).cores[n] = _ :=
    s.stepCore_at n (fun c => c.timedOut tag)
  rw [he, State.requestTimeout_core hsrc ho hq hk, State.memResumeAll_none hjobs]
  refine ⟨_, rfl, ?_, State.raiseAt_latches _ _ (by decide), rfl⟩
  rw [State.raiseAt_at, hcore]
  exact ((Core.settle_keeps _).quar tag).trans ((s.cores[n]).timedOut_quar tag)

/-- The quarantine of a core's tag ends at the core and in the network. -/
theorem tagQuarantineExpiry_ends (s : State) (tag : Fin 64) (hsrc : src.val = n.val) :
    ∃ t, exec (.tagQuarantineExpiry src (BitVec.ofNat 8 tag.val)) s = .next t ∧ ((t.cores[n]).tags[tag]).quar = false ∧
      (src, BitVec.ofNat 8 tag.val) ∉ t.net.quarantine := by
  have hlt : src.val < 4 ∧ (BitVec.ofNat 8 tag.val).toNat < 64 := ⟨by omega, by rw [tagByte_toNat]; exact tag.isLt⟩
  have hdma : isDma src = false := decide_eq_false (by omega)
  have he : exec (.tagQuarantineExpiry src (BitVec.ofNat 8 tag.val)) s = execTagQuarantineExpiry src (BitVec.ofNat 8 tag.val) s := rfl
  rw [he, execTagQuarantineExpiry, hdma, Bool.false_and, Bool.false_and, if_neg Bool.false_ne_true, State.endQuarantine]
  dsimp only
  rw [if_pos hlt, tagByte_toNat, hsrc, ix_val, ix_val]
  refine ⟨_, rfl, ?_, fun hmem => ?_⟩
  · show (((vmod s.cores n _)[n]).tags[tag]).quar = false
    rw [vmod_at]
    exact congrArg TagSt.quar (vmod_at ..)
  · exact of_decide_eq_true (List.mem_filter.mp hmem).2 rfl

end

/-! ### The power of a domain -/

/-- Completed records leave the domains as they are. -/
theorem State.complete_pwr (s : State) (r : PourRec) (status detail : Nat) (v : Option Nat) : (s.complete r status detail v).pwr = s.pwr := rfl

theorem State.flushQueue_pwr (s : State) (lead : Arch) (status detail : Nat) : (s.flushQueue lead status detail).pwr = s.pwr := by
  unfold State.flushQueue
  exact foldl_keep s State.pwr (fun t r => t.complete r status detail none) (fun t r => t.complete_pwr r status detail none) _

theorem State.settleOwed_pwr (s : State) (lead : Arch) (status detail : Nat) : (s.settleOwed lead status detail).pwr = s.pwr := by
  unfold State.settleOwed
  exact foldl_keep s State.pwr (fun t r => t.complete r status detail none) (fun t r => t.complete_pwr r status detail none) _

theorem State.loseArch_pwr (s : State) (a : Arch) : (s.loseArch a).pwr = s.pwr := by
  unfold State.loseArch
  dsimp only
  rw [State.modArch_pwr]
  dsimp only
  have hblocks (t : State) := foldl_keep t State.pwr (fun t slot => t.modIsl (islOf a slot) IslSt.blockReset) (fun _ _ => rfl) (List.range 33)
  rw [hblocks, State.settleOwed_pwr, State.flushQueue_pwr]

/-- A domain switched off has no power. -/
theorem State.powerOff_on (s : State) (d : Nat) : (s.powerOff d).pwr.on = s.pwr.on &&& ~~~(domBit d) := by
  unfold State.powerOff
  dsimp only
  split_ifs
  · rfl
  · rw [State.offArch, State.modArch_pwr, State.loseArch_pwr]
  all_goals rfl

/-- DOMAIN_POWER_OFF of a fenced domain that has drained. -/
theorem domainPowerOff_off {s : State} {d : Nat} (hd : d < 316) (hon : s.pwr.on.getLsbD d = true) (hf : s.pwr.fence.getLsbD d = true)
    (hq : s.domDrained d = true) : ∃ t, exec (.domainPowerOff d) s = .next t ∧ t.pwr.on.getLsbD d = false := by
  have he : exec (.domainPowerOff d) s = execDomainPowerOff d s := rfl
  rw [he, execDomainPowerOff, if_pos ⟨hd, hon, hf, hq⟩]
  refine ⟨_, rfl, ?_⟩
  show ((s.powerOff d).pwr.on).getLsbD d = false
  rw [State.powerOff_on, BitVec.getLsbD_and, BitVec.getLsbD_not, getLsbD_domBit hd, decide_eq_true rfl, Bool.not_true, Bool.and_false, Bool.and_false]

/-! ### Records enter the queues -/

/-- A record that the port does not refuse finds its archipelago powered and open, in a stream that stands, outside SAFE STOP. -/
theorem State.pourRefusal_none {s : State} {r : PourRec} (h : s.pourRefusal r = none) :
    s.domainOpen (264 + r.lead.val) = true ∧ (s.streamOf r.lead).isEmpty = false ∧ s.mode ≠ .safeStop ∧ s.regrouping r.lead = false := by
  unfold State.pourRefusal at h
  dsimp only at h
  split_ifs at h
  next h4 =>
  simp only [Bool.or_eq_true, not_or, Bool.not_eq_true, Bool.not_eq_false', decide_eq_true_eq] at h4
  obtain ⟨⟨⟨⟨-, hopen⟩, hstream⟩, hstop⟩, hregroup⟩ := h4
  exact ⟨hopen, hstream, hstop, hregroup⟩

/-- The oldest buffered record enters the queue of its stream, behind those that wait. -/
theorem pourForward_enters {s : State} {n : CoreId} {r : PourRec} {rest : List PourRec} (hb : s.pour.buf[n] = r :: rest) (hm : s.mode ≠ .ebb)
    (hr : s.pourRefusal r = none) (hl : ((s.arch[s.leadOf r.lead]).seq.queue).length < 16)
    (hp : (s.arch[s.leadOf r.lead]).seq.preempts r = false) :
    ∃ t, exec (.pourForward n) s = .next t ∧
      (t.arch[s.leadOf r.lead]).seq.queue = (s.arch[s.leadOf r.lead]).seq.queue ++ [r] ∧ t.pour.buf[n] = rest := by
  obtain ⟨hopen, hstream, hstop, hregroup⟩ := State.pourRefusal_none hr
  have he : exec (.pourForward n) s = execPourForward n s := rfl
  rw [he, execPourForward, hb]
  dsimp only
  rw [if_neg hm, if_neg hstop, State.on_of_domainOpen hopen, hopen, hregroup, hstream, if_pos hl]
  refine ⟨_, rfl, ?_, vset_at ..⟩
  rw [State.modSeq_seq, if_pos rfl, Seq.enqueue]
  dsimp only
  rw [hp]
  rfl

/-- Settles O39: timeouts and quarantines of a core's tags, the power of a drained domain, and the queues, each from its own lemma. -/
theorem timeoutsAndForwards : Obligations.TimeoutsAndForwards := by
  intro s n tag src hsrc
  exact ⟨requestTimeout_quarantines hsrc, tagQuarantineExpiry_ends s tag hsrc, fun _ => domainPowerOff_off, fun _ _ => pourForward_enters⟩

end Sys2Proof.Machine
end

section
/-! PROOF. A window that leaves OPEN does not interrupt a core whose domain is closed (spec/06 R170; spec/13 R314, R317). -/
namespace Sys2Proof.Machine

/-- Leaving a window touches the frame and the draws of free values; leaving OPEN raises interrupt 0 as well. -/
theorem State.leaveNow_cases (s : State) (cause : BitVec 4) :
    ∃ k v, s.leaveNow cause = { s with fresh := k, vital := v } ∨ s.leaveNow cause = State.raiseAll { s with fresh := k, vital := v } 0 := by
  unfold State.leaveNow
  dsimp only
  split
  · exact ⟨_, _, .inr rfl⟩
  · exact ⟨_, _, .inl rfl⟩

/-- A core whose domain is closed stays as it is: the fence drops its IRQ packet. -/
theorem State.leaveNow_closed {s : State} {k : CoreId} (h : s.domainOpen (304 + k.val) = false) (cause : BitVec 4) :
    (s.leaveNow cause).cores[k] = s.cores[k] := by
  obtain ⟨x, v, hs | hs⟩ := s.leaveNow_cases cause
  · rw [hs]
  · have hc : State.domainOpen { s with fresh := x, vital := v } (304 + k.val) = false := h
    rw [hs, State.raiseAll_closed hc]

/-- The device in GUARD with pair 0 in use, its window OPEN and the Holm about to leave it for cause 6, with core 1 fenced. -/
def guardFencedCore1 : State :=
  { State.reset with
    mode := .guard
    pwr := { State.reset.pwr with fence := domBit 305 }
    vital := { State.reset.vital with par := { State.reset.vital.par with pairs := 1, vcore := 3 }, win := .opened, leaveDue := some 6 } }

/-- Refutes O46: the IRQ packet to a core whose domain is fenced is dropped there, so the Holm's leaving of OPEN does not raise interrupt 0 at
every core. -/
theorem not_framesAndWindow : ¬ Obligations.FramesAndWindow := by
  intro h
  obtain ⟨-, hleave⟩ := h guardFencedCore1 3 rfl rfl (by decide)
  obtain ⟨t, ht, -, -, -, hirq⟩ := hleave 6 rfl rfl
  have hc : guardFencedCore1.domainOpen (304 + (1 : CoreId).val) = false := State.domainOpen_fenced (getLsbD_domBit (by decide))
  have hx : exec (.windowLeaveOpen 6) guardFencedCore1 = .next (guardFencedCore1.leaveNow 6) := rfl
  have hk := hirq 1
  rw [← Host.Outcome.next.inj (hx.symm.trans ht), State.leaveNow_closed hc] at hk
  exact absurd hk (by decide)

end Sys2Proof.Machine
end

section
/-! PROOF. Accesses to register blocks: what entering and answering change, a write and a read that reach their register (spec/01 R30;
spec/13 R312, R315). -/
namespace Sys2Proof.Machine

theorem offsetFrom_eq (base x : Nat) : offsetFrom base x = x - base := by
  unfold offsetFrom
  omega

/-! ### Entering and answering -/

/-- Entering the network counts the access of its initiator. -/
theorem State.enters_frame (s : State) (acc : Acc) (k : Nat) :
    ∃ c b, s.enters true acc k = { s with net := { s.net with stat := vmod s.net.stat acc.src (fun x => { x with reqCnt := c, bytes := b }) } } :=
  ⟨_, _, rfl⟩

theorem State.enters_sprue (s : State) (reach : Bool) (acc : Acc) (k : Nat) : (s.enters reach acc k).sprue = s.sprue := by
  unfold State.enters
  split <;> rfl

section
variable (s : State) (acc : Acc) (st : Status) (d : List Byte)

@[simp] theorem State.answer_cores : (s.answer acc st d).cores = s.cores := by obtain ⟨_, _, h⟩ := s.answer_frame acc st d; rw [h]
@[simp] theorem State.answer_sprue : (s.answer acc st d).sprue = s.sprue := by obtain ⟨_, _, h⟩ := s.answer_frame acc st d; rw [h]
@[simp] theorem State.answer_riser : (s.answer acc st d).riser = s.riser := by obtain ⟨_, _, h⟩ := s.answer_frame acc st d; rw [h]
@[simp] theorem State.answer_neterr : (s.answer acc st d).net.neterr = s.net.neterr := by unfold State.answer; split <;> rfl
@[simp] theorem State.answer_tout : (s.answer acc st d).net.tout = s.net.tout := by unfold State.answer; split <;> rfl
@[simp] theorem State.answer_lagoon : (s.answer acc st d).net.lagoon = s.net.lagoon := by unfold State.answer; split <;> rfl

/-- An answer notes at most a latency, of its initiator. -/
theorem State.answer_stat (i : Fin 32) : ∃ m h, ((s.answer acc st d).net.stat)[i] = { s.net.stat[i] with maxLat := m, hist := h } := by
  unfold State.answer
  dsimp only
  split
  · exact ⟨_, _, rfl⟩
  · by_cases hi : i = acc.src
    · exact ⟨_, _, by subst hi; exact vmod_at ..⟩
    · exact ⟨_, _, vmod_else _ _ _ _ hi⟩

/-- It notes none of another initiator, and none where a core takes the response. -/
theorem State.answer_stat_else {i : Fin 32} (h : i ≠ acc.src ∨ acc.src.val < 4) : ((s.answer acc st d).net.stat)[i] = s.net.stat[i] := by
  unfold State.answer
  dsimp only
  split
  · rfl
  · next hc => exact vmod_else _ _ _ _ (h.resolve_right hc)

end

/-! ### The gate -/

section
variable {s : State} {acc : Acc} {addr : PAddr} {b : Block} {off : Nat}

/-- An aligned access of an initiator that reaches the blocks passes the gate of a register outside the archipelagos in an open domain. -/
theorem State.regGate_open (hr : accReachesRegs acc = true) (hat : regAt addr = some (b, off)) (ha : b.archOf = none)
    (hd : ∀ d, b.domain off = some d → s.domainOpen d = true) (hal : addr.toNat % 4 = 0) : s.regGate acc addr = none := by
  simp only [State.regGate, hat, hr, ha, hal]
  cases hb : b.domain off with
  | none => rfl
  | some d => simp [hd d hb]

/-- A write of a register behind its gate. -/
theorem State.regWrite_open (hg : s.regGate acc addr = none) (hat : regAt addr = some (b, off)) (hv : (s.regVal b off).isNone = false)
    (hden : s.writeDenied acc b off = false) (v : Word) :
    s.regWrite acc addr v = (if s.committed then s else (s.rwcSet b off v).getD s).writeFields acc b off v := by
  simp only [State.regWrite, hg, hat, hv, hden]
  rfl

/-- The state in which a read of a register acts: the reader is tainted where the register taints (R160). -/
def State.seenBy (s : State) (i : Fin 32) (b : Block) (off : Nat) : State := if taints b off then s.taintReader i else s

/-- A read of a register behind its gate. -/
theorem State.regRead_open {w : Word} {u : State} (hat : regAt addr = some (b, off)) (hg : (s.seenBy acc.src b off).regGate acc addr = none)
    (hden : (s.seenBy acc.src b off).readDenied acc b off = false) (hread : (s.seenBy acc.src b off).regReadAt b off = (some w, u)) :
    s.regRead acc addr = (.ok, w, u) := by
  unfold State.seenBy at hg hden hread
  simp only [State.regRead, hat, hg, hden, hread]
  rfl

/-- A command's write that its register accepts is answered OK. -/
theorem registerWrite_ok {v : Word} {u : State} (hr : accReachesRegs acc = true) (hw : (s.enters true acc 4).regWrite acc addr v = (.ok, u)) :
    exec (.registerWrite acc addr v) s = .next (u.answer acc .ok []) := by
  show execRegisterWrite acc addr v s = _
  rw [execRegisterWrite, hr, Bool.true_or, hw]

/-- A command's read that its register answers. -/
theorem State.readAnswer_ok {w : Word} {u : State} (hr : accReachesRegs acc = true) (hw : (s.enters true acc 0).regRead acc addr = (.ok, w, u)) :
    s.readAnswer acc addr = u.answer acc .ok (bytesLE 4 w.toNat) := by
  rw [State.readAnswer, hr, Bool.true_or, hw]
  rfl

end

/-! ### Taint -/

theorem Core.taint_tnt (c : Core) : c.taint.tnt = true := by
  have hbit : (0x40 : Word).getLsbD 6 = true := by decide
  show (c.cst ||| (0x40 : Word)).getLsbD 6 = true
  rw [BitVec.getLsbD_or, hbit, Bool.or_true]

/-- A core that reads is tainted. -/
theorem State.taintReader_tnt (s : State) {i : Fin 32} {n : CoreId} (h : i.val = n.val) : ((s.taintReader i).cores[n]).tnt = true := by
  have hi : ix 4 i.val = n := by rw [h, ix_val]
  unfold State.taintReader
  rw [if_pos (by omega), hi]
  dsimp only
  rw [vmod_at, Core.taint_tnt]

/-- A taint changes the cores alone. -/
theorem State.taintReader_frame (s : State) (i : Fin 32) : ∃ c, s.taintReader i = { s with cores := c } := by
  unfold State.taintReader
  split <;> exact ⟨_, rfl⟩

theorem State.seenBy_frame (s : State) (i : Fin 32) (b : Block) (off : Nat) : ∃ c, s.seenBy i b off = { s with cores := c } := by
  unfold State.seenBy
  split
  · exact s.taintReader_frame i
  · exact ⟨_, rfl⟩

theorem State.enginePop_cores (s : State) (e : Fin 8) : (s.enginePop e).2.cores = s.cores := by
  unfold State.enginePop
  dsimp only
  split <;> rfl

/-- No read of a register changes a core by itself. -/
theorem State.regReadAt_cores (s : State) (b : Block) (off : Nat) : (s.regReadAt b off).2.cores = s.cores := by
  cases b with
  | sprue | riser | sound =>
    unfold State.regReadAt
    dsimp only
    split <;> rfl
  | shore =>
    unfold State.regReadAt
    dsimp only
    split
    · exact s.enginePop_cores _
    · rfl
  | _ => rfl

/-- Whatever it is answered, a read leaves the cores as the taint left them. -/
theorem State.regRead_cores (s : State) (acc : Acc) {addr : PAddr} {b : Block} {off : Nat} (hat : regAt addr = some (b, off)) :
    (s.regRead acc addr).2.2.cores = (s.seenBy acc.src b off).cores := by
  unfold State.seenBy
  simp only [State.regRead, hat]
  generalize (if taints b off then s.taintReader acc.src else s) = u
  split
  · rfl
  · next h => nomatch h
  · split
    · rfl
    · split <;> next hx => exact (congrArg (fun x => x.2.cores) hx).symm.trans (u.regReadAt_cores _ _)

end Sys2Proof.Machine
end

section
/-! PROOF. The registers of the sound network and the timestamps (spec/13 R312, R321, R322, R324; spec/08 R203, R224; spec/06 R160). -/
namespace Sys2Proof.Machine

/-! ### Addresses and parts of a number -/

theorem regAt_neterr : regAt 0x40500200 = some (.sound, 0x200) := by decide

theorem regAt_tout (i : Fin 32) : regAt (BitVec.ofNat 40 (0x40500100 + 4 * i.val)) = some (.sound, 0x100 + 4 * i.val) := by
  revert i; decide

theorem regAt_bytelo (i : Fin 32) : regAt (BitVec.ofNat 40 (0x40501004 + 0x80 * i.val)) = some (.sound, 0x1004 + 0x80 * i.val) := by
  revert i; decide

/-- The address of STSLO and of RTSLO. -/
def stampAddr (riser : Bool) : PAddr := if riser then 0x40410010 else 0x40400010

/-- The block that holds it. -/
def stampBlock (riser : Bool) : Block := if riser then .riser else .sprue

theorem regAt_stamp (riser : Bool) : regAt (stampAddr riser) = some (stampBlock riser, 0x10) := by revert riser; decide

theorem fld_low (v : DWord) : (fld v 0 32 : Word).toNat = v.toNat % 2 ^ 32 := by
  rw [fld, BitVec.extractLsb'_toNat, Nat.shiftRight_zero]

theorem fld_high (v : DWord) : (fld v 32 32 : Word) = BitVec.ofNat 32 (v.toNat / 2 ^ 32) := by
  rw [← Nat.shiftRight_eq_div_pow]
  rfl

/-! ### Writes -/

section
variable {s : State} {acc : Acc} (hr : accReachesRegs acc = true)
include hr

/-- The registers of the sound network are open to whoever reaches the blocks. -/
theorem State.regGate_sound {addr : PAddr} {off : Nat} (hat : regAt addr = some (.sound, off)) (hal : addr.toNat % 4 = 0) :
    s.regGate acc addr = none :=
  State.regGate_open hr hat rfl (fun _ h => nomatch h) hal

/-- NETERR is cleared by writing ones. -/
theorem registerWrite_neterr (v : Word) : ∃ t, exec (.registerWrite acc 0x40500200 v) s = .next t ∧ t.net.neterr = s.net.neterr &&& ~~~v ∧
    answered t acc .ok [] ∧ t.cores = s.cores := by
  obtain ⟨c, b, he⟩ := s.enters_frame acc 4
  have hw := State.regWrite_open (s := s.enters true acc 4) (State.regGate_sound hr regAt_neterr rfl) regAt_neterr rfl rfl v
  have ht : (if (s.enters true acc 4).committed then s.enters true acc 4
      else ((s.enters true acc 4).rwcSet .sound 0x200 v).getD (s.enters true acc 4)) = s.enters true acc 4 := ite_self _
  rw [ht] at hw
  refine ⟨_, registerWrite_ok hr hw, ?_, State.answered_answer .., ?_⟩
  · rw [State.answer_neterr, he]
  · rw [State.answer_cores, he]

/-- A timeout is set before the configuration is committed and not after. -/
theorem registerWrite_tout (i : Fin 32) (v : Word) :
    ∃ t, exec (.registerWrite acc (BitVec.ofNat 40 (0x40500100 + 4 * i.val)) v) s = .next t ∧ answered t acc .ok [] ∧
      t.net.tout = if s.committed then s.net.tout else s.net.tout.set i.val (v.setWidth 20) := by
  have hi := i.isLt
  have hal : (BitVec.ofNat 40 (0x40500100 + 4 * i.val)).toNat % 4 = 0 := by
    rw [BitVec.toNat_ofNat]
    omega
  have hoff : 0x100 ≤ 0x100 + 4 * i.val ∧ 0x100 + 4 * i.val < 0x180 ∧ (0x100 + 4 * i.val) % 4 = 0 := by omega
  have hix : ix 32 ((0x100 + 4 * i.val - 0x100) / 4) = i := by
    rw [Nat.add_sub_cancel_left, Nat.mul_div_cancel_left _ (by decide), ix_val]
  have hval (u : State) : (u.regVal .sound (0x100 + 4 * i.val)).isNone = false := by
    simp only [State.regVal, State.soundReg, if_neg (show ¬ 0x100 + 4 * i.val = 0 by omega), if_pos hoff]
    rfl
  have hden (u : State) : u.writeDenied acc .sound (0x100 + 4 * i.val) = false := by
    simp [State.writeDenied]
  have hrwc (u : State) : u.rwcSet .sound (0x100 + 4 * i.val) v = some { u with net := { u.net with tout := vset u.net.tout i (fld v 0 20) } } := by
    simp only [State.rwcSet, if_pos hoff, hix]
  have hfields (u : State) : u.writeFields acc .sound (0x100 + 4 * i.val) v = (.ok, u) := by
    unfold State.writeFields
    dsimp only
    rw [if_neg (by omega), if_neg (by omega)]
  have hw := State.regWrite_open (s := s.enters true acc 4) (State.regGate_sound hr (regAt_tout i) hal) (regAt_tout i) (hval _) (hden _) v
  rw [hfields, hrwc] at hw
  refine ⟨_, registerWrite_ok hr hw, State.answered_answer .., ?_⟩
  have hc : (s.enters true acc 4).committed = s.committed := rfl
  rw [State.answer_tout, hc]
  split <;> rfl

/-- CLR empties the statistics of one initiator, with its lagoon counters. -/
theorem soundStatClr_clears (i : Fin 32) : ∃ t, exec (.soundStatClr acc i) s = .next t ∧ answered t acc .ok [] ∧
    let x := t.net.stat[i]
    x.reqCnt = 0 ∧ x.bytes = 0 ∧ x.lateCnt = 0 ∧ x.toCnt = 0 ∧ x.fdrop = 0 ∧ x.byteHi = (s.net.stat[i]).byteHi ∧
    (i ≠ acc.src ∨ acc.src.val < 4 → x.maxLat = 0 ∧ x.hist = Vector.replicate 16 0) ∧
    (∀ j : Fin 32, j ≠ i → j ≠ acc.src → t.net.stat[j] = s.net.stat[j]) ∧
    ∀ a : Arch, (t.net.lagoon[a]).lreq[i] = 0 ∧ (t.net.lagoon[a]).lbyte[i] = 0 := by
  obtain ⟨c, b, he⟩ := s.enters_frame acc 4
  have hx : exec (.soundStatClr acc i) s = .next (((s.enters true acc 4).clearStat i).answer acc .ok []) := by
    show execSoundStatClr acc i s = _
    rw [execSoundStatClr, State.plainAction, if_pos hr]
  have hat : ((s.enters true acc 4).clearStat i).net.stat[i] = { (s.enters true acc 4).net.stat[i] with
      reqCnt := 0, bytes := 0, maxLat := 0, lateCnt := 0, toCnt := 0, fdrop := 0, hist := Vector.replicate 16 0 } := vmod_at ..
  have hhi : ((s.enters true acc 4).net.stat[i]).byteHi = (s.net.stat[i]).byteHi := by
    rw [he]
    by_cases h : i = acc.src
    · subst h
      dsimp only
      rw [vmod_at]
    · dsimp only
      rw [vmod_else _ _ _ _ h]
  obtain ⟨m, hist, hs⟩ := ((s.enters true acc 4).clearStat i).answer_stat acc .ok [] i
  refine ⟨_, hx, State.answered_answer .., ?_⟩
  rw [hs, hat]
  refine ⟨rfl, rfl, rfl, rfl, rfl, hhi, fun h => ?_, fun j hj hja => ?_, fun a => ?_⟩
  · have hsame := hs.symm.trans (State.answer_stat_else _ acc .ok [] h)
    rw [hat] at hsame
    exact ⟨congrArg InitStat.maxLat hsame, congrArg InitStat.hist hsame⟩
  · rw [State.answer_stat_else _ acc .ok [] (.inl hja)]
    exact (vmod_else _ _ _ _ hj).trans (by rw [he]; exact vmod_else _ _ _ _ hja)
  · rw [State.answer_lagoon]
    have hl : ((s.enters true acc 4).clearStat i).net.lagoon[a] = { (s.enters true acc 4).net.lagoon[a] with
        lreq := vset (s.enters true acc 4).net.lagoon[a].lreq i 0, lbyte := vset (s.enters true acc 4).net.lagoon[a].lbyte i 0 } :=
      Vector.getElem_map _ a.isLt
    rw [hl]
    exact ⟨vset_at .., vset_at ..⟩

/-! ### Reads -/

/-- The low word of a timestamp, its high word latched. -/
theorem timestampLowRead_latches (riser : Bool) (hd : s.domainOpen (if riser then 313 else 312) = true) :
    ∃ (stamp : DWord) (t : State), exec (.timestampLowRead acc riser) s = .next t ∧ answered t acc .ok (bytesLE 4 (stamp.toNat % 2 ^ 32)) ∧
      (if riser then t.riser.rtsHi else t.sprue.stsHi) = BitVec.ofNat 32 (stamp.toNat / 2 ^ 32) := by
  obtain ⟨c, hseen⟩ := (s.enters true acc 0).seenBy_frame acc.src (stampBlock riser) 0x10
  have hg : ((s.enters true acc 0).seenBy acc.src (stampBlock riser) 0x10).regGate acc (stampAddr riser) = none := by
    rw [hseen]
    cases riser <;> exact State.regGate_open hr (regAt_stamp _) rfl (fun d h => by cases h; exact hd) rfl
  have hread := State.regRead_open (w := fld (Config.freeWord64 s.fresh) 0 32)
    (u := (((s.enters true acc 0).seenBy acc.src (stampBlock riser) 0x10).stampLow riser).2) (regAt_stamp riser) hg
    (by cases riser <;> rfl) (by rw [hseen]; cases riser <;> rfl)
  refine ⟨Config.freeWord64 s.fresh, _, congrArg Host.Outcome.next (State.readAnswer_ok hr hread), ?_, ?_⟩
  · rw [← fld_low]
    exact State.answered_answer ..
  · rw [State.answer_riser, State.answer_sprue, ← fld_high, hseen]
    cases riser <;> rfl

/-- NETERR is read whole. -/
theorem State.regRead_neterr : s.regRead acc 0x40500200 = (.ok, s.net.neterr, s.seenBy acc.src .sound 0x200) := by
  obtain ⟨c, hseen⟩ := s.seenBy_frame acc.src .sound 0x200
  refine State.regRead_open regAt_neterr (State.regGate_sound hr regAt_neterr rfl) rfl ?_
  rw [hseen]
  rfl

/-- BYTELO answers the low word of the bytes counted and latches the high word. -/
theorem byteloRead_latches (i : Fin 32) :
    ∃ t, exec (.byteloRead acc i) s = .next t ∧ answered t acc .ok (bytesLE 4 ((s.net.stat[i]).bytes.toNat % 2 ^ 32)) ∧
      (t.net.stat[i]).byteHi = BitVec.ofNat 32 ((s.net.stat[i]).bytes.toNat / 2 ^ 32) := by
  have hi := i.isLt
  have hal : (BitVec.ofNat 40 (0x40501004 + 0x80 * i.val)).toNat % 4 = 0 := by
    rw [BitVec.toNat_ofNat]
    omega
  have hoff : 0x1000 ≤ 0x1004 + 0x80 * i.val ∧ 0x1004 + 0x80 * i.val < 0x2000 ∧ (0x1004 + 0x80 * i.val) % 0x80 = 4 := by omega
  have hix : ix 32 (offsetFrom 0x1000 (0x1004 + 0x80 * i.val) / 0x80) = i := by
    rw [offsetFrom_eq, show (0x1004 + 0x80 * i.val - 0x1000) / 0x80 = i.val by omega, ix_val]
  have hden (u : State) : u.readDenied acc .sound (0x1004 + 0x80 * i.val) = false := by
    simp [State.readDenied]
  have hlow (u : State) : u.regReadAt .sound (0x1004 + 0x80 * i.val) = (some (u.byteLow i).1, (u.byteLow i).2) := by
    simp only [State.regReadAt, if_pos hoff, hix]
  have hbytes : ((s.enters true acc 0).net.stat[i]).bytes = (s.net.stat[i]).bytes := by
    by_cases h : i = acc.src
    · subst h
      exact (congrArg InitStat.bytes (vmod_at ..)).trans (satAdd_zero _)
    · exact congrArg InitStat.bytes (vmod_else _ _ _ _ h)
  obtain ⟨c, hseen⟩ := (s.enters true acc 0).seenBy_frame acc.src .sound (0x1004 + 0x80 * i.val)
  have hread := State.regRead_open (s := s.enters true acc 0) (regAt_bytelo i) (State.regGate_sound hr (regAt_bytelo i) hal) (hden _) (hlow _)
  have hw : (((s.enters true acc 0).seenBy acc.src .sound (0x1004 + 0x80 * i.val)).byteLow i).1 = fld (s.net.stat[i]).bytes 0 32 := by
    rw [hseen, ← hbytes]
    rfl
  refine ⟨_, congrArg Host.Outcome.next (State.readAnswer_ok hr hread), ?_, ?_⟩
  · rw [← fld_low, ← hw]
    exact State.answered_answer ..
  · obtain ⟨m, hist, hs⟩ := State.answer_stat (((s.enters true acc 0).seenBy acc.src .sound (0x1004 + 0x80 * i.val)).byteLow i).2 acc .ok
      (bytesLE 4 (((s.enters true acc 0).seenBy acc.src .sound (0x1004 + 0x80 * i.val)).byteLow i).1.toNat) i
    rw [hs, ← fld_high, ← hbytes, hseen]
    exact congrArg InitStat.byteHi (vmod_at ..)

/-- A command's read of NETERR answers its present value. -/
theorem taintSourceRead_neterr : ∃ t, exec (.taintSourceRead acc 0x40500200) s = .next t ∧ answered t acc .ok (bytesLE 4 s.net.neterr.toNat) := by
  have hread := State.regRead_neterr (s := s.enters true acc 0) hr
  exact ⟨_, congrArg Host.Outcome.next (State.readAnswer_ok hr hread), State.answered_answer ..⟩

end

/-- The rules of register accesses. -/
theorem registerFieldsRule_holds : registerFieldsRule := fun _ _ v i hr =>
  ⟨registerWrite_neterr hr v, registerWrite_tout hr i v, timestampLowRead_latches hr false, timestampLowRead_latches hr true, soundStatClr_clears hr i⟩

/-! ### Reads that taint -/

/-- Where the stream timestamps lie depends on the sprue alone. -/
theorem State.readsTstamp_congr {s t : State} (h : t.sprue = s.sprue) (op : ReqOp) (off : Nat) : t.readsTstamp op off = s.readsTstamp op off := by
  unfold State.readsTstamp
  rw [h]

/-- A harbour access to a stream timestamp taints its reader. -/
theorem State.harbourServe_timestamp {s : State} {r : Request} (h : s.readsTstamp r.op (offsetFrom 0x20000000 r.addr.toNat) = true) :
    ∃ st bs u, s.harbourServe r = (st, bs, State.taintReader u r.src) := by
  unfold State.harbourServe
  dsimp only
  rw [if_pos h]
  exact ⟨_, _, _, rfl⟩

section
variable {s : State} {acc : Acc} {n : CoreId} {addr : PAddr} (hsrc : acc.src.val = n.val)
include hsrc

/-- A read of a register that depends on time taints its reader, whatever it is answered. -/
theorem taintSourceRead_register {b : Block} {off : Nat} (ha : areaOf addr = .regs) (hat : regAt addr = some (b, off)) (ht : taints b off = true) :
    ∃ t st data, exec (.taintSourceRead acc addr) s = .next t ∧ answered t acc st data ∧ (t.cores[n]).tnt = true := by
  have hx : exec (.taintSourceRead acc addr) s = .next (s.readAnswer acc addr) := by
    show execTaintSourceRead acc addr s = _
    rw [execTaintSourceRead, ha]
    dsimp only
    rw [hat, Option.any_some, ht]
    rfl
  refine ⟨_, _, _, hx, State.answered_answer .., ?_⟩
  rw [State.readAnswer, State.answer_cores, State.regRead_cores _ _ hat, State.seenBy, if_pos ht]
  exact State.taintReader_tnt _ hsrc

/-- A read of a stream timestamp in harbour does as well. -/
theorem taintSourceRead_timestamp (ha : areaOf addr = .harbour) (hts : s.readsTstamp (.read 4) (addr.toNat - 0x20000000) = true) :
    ∃ t st data, exec (.taintSourceRead acc addr) s = .next t ∧ answered t acc st data ∧ (t.cores[n]).tnt = true := by
  rw [← offsetFrom_eq] at hts
  have hx : exec (.taintSourceRead acc addr) s = execTaintSourceRead acc addr s := rfl
  rw [hx, execTaintSourceRead, if_pos hts]
  split
  · next h => exact absurd (ha.symm.trans h) (by decide)
  · extract_lets r
    split
    · refine ⟨_, _, _, rfl, State.answered_answer .., ?_⟩
      rw [State.answer_cores]
      exact State.taintReader_tnt _ hsrc
    · obtain ⟨st, bs, u, hserve⟩ := State.harbourServe_timestamp (s := s.enters true acc 0) (r := r)
        ((State.readsTstamp_congr (s.enters_sprue ..) _ _).trans hts)
      rw [hserve]
      refine ⟨_, _, _, rfl, State.answered_answer .., ?_⟩
      rw [State.answer_cores]
      exact State.taintReader_tnt _ hsrc
  · next h => exact absurd ha h

end

/-- A core's request for NETERR is answered with its present value, and taints the core. -/
theorem registerBlockAccess_neterr {s : State} {n : CoreId} {req : Request} (hsrc : req.src.val = n.val) (hu : req.user = false) (hop : req.op = .read 4)
    (ha : req.addr = 0x40500200) (hb : s.heldBack req = false) :
    ∃ t, exec (.registerBlockAccess req) s = .next t ∧ (t.cores[n]).tnt = true ∧ t.net.requests = s.net.requests.erase req ∧
      t.net.responses = s.net.responses ++ [{ dst := req.src, tag := req.tag, status := .ok, data := bytesLE 4 s.net.neterr.toNat }] := by
  have hcore : req.src.val < 4 := by omega
  have harea : areaOf req.addr = .regs := by rw [ha]; decide
  have hreach : accReachesRegs { src := req.src, tag := req.tag, user := req.user } = true := by
    simp [accReachesRegs, hcore, hu]
  have hnode : nodeCheck req = none := by
    simp [nodeCheck, reaches, harea, hcore, hu]
  have htaint : s.regTaint req = s.taintReader req.src := by
    unfold State.regTaint
    rw [hop, ha, regAt_neterr]
    dsimp only
    rw [hb]
    rfl
  obtain ⟨c, hc⟩ := s.taintReader_frame req.src
  have hlets : (s.taintReader req.src).lets req := by
    rw [hc]
    exact ⟨hb, hnode, fun h => absurd h (by omega)⟩
  have hserve : ((s.taintReader req.src).taken req).regServe req =
      (.ok, bytesLE 4 s.net.neterr.toNat, ((s.taintReader req.src).taken req).seenBy req.src .sound 0x200) := by
    unfold State.regServe
    rw [hop, ha]
    dsimp only
    rw [State.regRead_neterr hreach, hc]
    rfl
  have hx : exec (.registerBlockAccess req) s = .next ((s.taintReader req.src).serve req true (fun t => t.regServe req)) := by
    show execRegisterBlockAccess req s = _
    rw [execRegisterBlockAccess, harea, htaint]
    rfl
  rw [State.serve_lets hlets, hserve] at hx
  obtain ⟨c', hc'⟩ := ((s.taintReader req.src).taken req).seenBy_frame req.src .sound 0x200
  refine ⟨_, hx, ?_, ?_, ?_⟩
  · rw [State.reply_cores]
    exact State.taintReader_tnt _ hsrc
  · rw [State.reply_requests, hc', hc]
    rfl
  · rw [State.reply_responses _ (fun h => absurd h (by omega)), hc', hc]
    rfl

/-- The rules of reads that depend on time. -/
theorem taintSourcesRule_holds : taintSourcesRule := fun _ _ _ i =>
  ⟨fun _ _ _ hsrc => taintSourceRead_register hsrc, fun _ hsrc => taintSourceRead_timestamp hsrc, taintSourceRead_neterr,
    fun _ hsrc => registerBlockAccess_neterr hsrc, fun hr => byteloRead_latches hr i⟩

/-- Settles O37: register accesses and reads that taint, each rule from the lemmas of its registers. -/
theorem registers : Obligations.Registers := ⟨registerFieldsRule_holds, taintSourcesRule_holds⟩

end Sys2Proof.Machine
end

section
/-! PROOF. Requests of the cores through the mailbox: which the Holm takes, and what its answer leaves (spec/16 R379 to R382). -/
namespace Sys2Proof.Machine

/-! ### A request that is taken -/

/-- The Holm refuses no request of a known TYPE whose LEN is in range and whose reserved bytes are zero, frame requests being VCORE's. -/
theorem State.mboxRefusal_none {s : State} {n : CoreId} {m : MboxMsg} {lo hi : Nat} (hl : mboxLen m.type = some (lo, hi))
    (hn : lo ≤ m.len ∧ m.len ≤ hi) (hc : m.clean = true) (hv : m.type = 2 ∨ m.type = 3 → s.vital.par.vcore.toNat = n.val) :
    s.mboxRefusal n m = none := by
  have hown : ((decide (m.type = 2) || decide (m.type = 3)) && decide (s.vital.par.vcore.toNat ≠ n.val)) = false := by
    rw [← Bool.decide_or, ← Bool.decide_and, decide_eq_false_iff_not]
    exact fun h => h.2 (hv h.1)
  unfold State.mboxRefusal
  rw [hl]
  dsimp only
  rw [hown, if_neg Bool.false_ne_true, if_neg (by omega), hc]
  rfl

/-- A request that waits and is not refused is acted on and answered. -/
theorem State.mboxTake_taken {s : State} {n : CoreId} {m : MboxMsg} {act : State → VStatus × State} (hgo : s.holm.go[n] = true)
    (hm : s.mboxMsg n = m) (hr : s.mboxRefusal n m = none) :
    s.mboxTake n m.type m.seq m.payload act = (act s).2.mboxReply n m (act s).1 := by
  unfold State.mboxTake
  dsimp only
  rw [hm, hgo, hr, decide_eq_true rfl, decide_eq_true rfl, decide_eq_true rfl]
  rfl

/-! ### The answer -/

section
variable (s : State) (n : CoreId) (m : MboxMsg) (st : VStatus)

/-- An answer changes the Holm alone. -/
theorem State.mboxReply_frame : ∃ h, s.mboxReply n m st = { s with holm := h } := by
  unfold State.mboxReply
  exact ⟨_, rfl⟩

@[simp] theorem State.mboxReply_vital : (s.mboxReply n m st).vital = s.vital := by obtain ⟨_, h⟩ := s.mboxReply_frame n m st; rw [h]
@[simp] theorem State.mboxReply_cores : (s.mboxReply n m st).cores = s.cores := by obtain ⟨_, h⟩ := s.mboxReply_frame n m st; rw [h]
@[simp] theorem State.mboxReply_mode : (s.mboxReply n m st).mode = s.mode := by obtain ⟨_, h⟩ := s.mboxReply_frame n m st; rw [h]
@[simp] theorem State.mboxReply_events : (s.mboxReply n m st).events = s.events := by obtain ⟨_, h⟩ := s.mboxReply_frame n m st; rw [h]

/-- An answer clears GO and sets VALID of its core. -/
theorem State.replied_mboxReply : replied (s.mboxReply n m st) n := ⟨vset_at .., vset_at ..⟩

end

/-! ### Claims, events and SAFE STOP -/

section
variable {s : State} {n : CoreId} {seq : Word} (hgo : s.holm.go[n] = true)
include hgo

/-- A claim of the running frame takes it and clears TNT. -/
theorem frameClaim_claims (hv : s.vital.par.vcore.toNat = n.val) (hrun : s.vital.running = true) (hfree : s.vital.claimed = false) {f : BitVec 64}
    (hf : f = s.vital.f) (hm : s.mboxMsg n = { type := 2, len := 8, seq := seq, clean := true, payload := bytesLE 8 f.toNat }) :
    ∃ t, exec (.frameClaim n seq f) s = .next t ∧ t.vital.claimed = true ∧ (t.cores[n]).tnt = false ∧ replied t n := by
  have hx : exec (.frameClaim n seq f) s = .next (s.mboxTake n 2 seq (bytesLE 8 f.toNat) (fun t => t.claim n f)) := rfl
  have htake := State.mboxTake_taken (act := fun t => t.claim n f) hgo hm
    (State.mboxRefusal_none rfl ⟨le_refl _, le_refl _⟩ rfl (fun _ => hv))
  have hcond : (s.vital.running && !s.vital.claimed && decide (f = s.vital.f)) = true := by rw [hrun, hfree, decide_eq_true hf]; rfl
  have hclaim : s.claim n f = (.ok, { s with
      vital := { s.vital with claimed := true }
      cores := vmod s.cores n (fun c => { c with cst := c.cst &&& ~~~0x40, vec := { c.vec with vctrl := fld s.vital.par.vctrl 0 3 } }) }) := if_pos hcond
  have hbit : (~~~(0x40 : Word)).getLsbD 6 = false := by decide
  refine ⟨_, hx.trans (congrArg _ htake), ?_, ?_, State.replied_mboxReply ..⟩
  · rw [State.mboxReply_vital, hclaim]
  · rw [State.mboxReply_cores, hclaim, vmod_at]
    show (_ &&& ~~~(0x40 : Word)).getLsbD 6 = false
    rw [BitVec.getLsbD_and, hbit, Bool.and_false]

/-- An event that a core posts is recorded. -/
theorem eventPost_records {code : BitVec 16} {data : List Byte} (hd : data.length ≤ 24)
    (hm : s.mboxMsg n = { type := 4, len := data.length + 2, seq := seq, clean := true, payload := bytesLE 2 code.toNat ++ data }) :
    ∃ t, exec (.eventPost n seq code data) s = .next t ∧ lastEvent t = some (.posted code, data) ∧ replied t n := by
  have hx : exec (.eventPost n seq code data) s =
      .next (s.mboxTake n 4 seq (bytesLE 2 code.toNat ++ data) (fun t => (.ok, t.event (.posted code) data))) := rfl
  have htake := State.mboxTake_taken (act := fun t => (.ok, t.event (.posted code) data)) hgo hm
    (State.mboxRefusal_none (lo := 2) (hi := 26) rfl ⟨Nat.le_add_left .., Nat.add_le_add_right hd 2⟩ rfl (by simp))
  refine ⟨_, hx.trans (congrArg _ htake), ?_, State.replied_mboxReply ..⟩
  rw [lastEvent, State.mboxReply_events]
  exact lastEvent_event ..

/-- SAFE STOP is entered where a core asks for it. -/
theorem safeStopReq_stops {reason : BitVec 16}
    (hm : s.mboxMsg n = { type := 5, len := 2, seq := seq, clean := true, payload := bytesLE 2 reason.toNat }) (hstop : s.mayStop = true) :
    ∃ t, exec (.safeStopReq n seq reason) s = .next t ∧ t.mode = .safeStop ∧ replied t n := by
  have hx : exec (.safeStopReq n seq reason) s = .next (s.mboxTake n 5 seq (bytesLE 2 reason.toNat) (fun t =>
      if t.mayStop then (.ok, t.safeStop (bytesLE 2 reason.toNat)) else (.modeConflict, t))) := rfl
  have htake := State.mboxTake_taken
    (act := fun t => if t.mayStop then (.ok, t.safeStop (bytesLE 2 reason.toNat)) else (.modeConflict, t)) hgo hm
    (State.mboxRefusal_none rfl ⟨le_refl _, le_refl _⟩ rfl (by simp))
  refine ⟨_, hx.trans (congrArg _ htake), ?_, State.replied_mboxReply ..⟩
  rw [State.mboxReply_mode, if_pos hstop]
  exact State.safeStop_mode hstop _

end

end Sys2Proof.Machine
end

section
/-! PROOF. FRAME_DONE: what it makes of the frame, and the assay of the two copies (spec/06 R160, R166, R167). -/
namespace Sys2Proof.Machine

/-! ### The two copies in harbour -/

theorem rdBytes_eq_map (d : Byte) (m : List Host.Cell) (a k : Nat) : rdBytes d m a k = (List.range k).map (fun i => rdByte d m (a + i)) := by
  induction k generalizing a with
  | zero => rfl
  | succ k ih =>
    rw [rdBytes, ih, List.range_succ_eq_map, List.map_cons, List.map_map]
    refine congrArg _ (List.map_congr_left fun i _ => ?_)
    show rdByte d m (a + 1 + i) = rdByte d m (a + (i + 1))
    rw [Nat.add_assoc, Nat.add_comm 1 i]

/-- Where no check field of harbour is off, a word is read as it is stored. -/
theorem State.hWord_clean {s : State} (h : s.harbour.delta = []) (w : Nat) : s.hWord w = (some (s.hRaw w), s) := by
  have hd : eccDecode 64 7 (SMap.get 0 s.harbour.delta w).toNat = .clean := by rw [h]; rfl
  rw [State.hWord, hd]

/-- So the one word that holds 8 bytes is read as those. -/
theorem State.hWords_one {s : State} (h : s.harbour.delta = []) (w : Nat) :
    s.hWords w 1 = (some ((List.range 8).map (fun i => rdByte 0 s.harbour.mem (8 * w + i))), s) := by
  have hb : bytesLE 8 (s.hRaw w) = (List.range 8).map (fun i => rdByte 0 s.harbour.mem (8 * w + i)) := by
    rw [← rdBytes_eq_map]
    exact bytesLE_natLE (rdBytes 0 s.harbour.mem (8 * w) 8)
  rw [State.hWords, State.hWord_clean h, ← hb]
  simp [State.hWords]

/-- The check of two copies of 8 bytes that complement each other gives copy E. -/
theorem State.readCopies_complement {s : State} (hd : s.domainOpen 303 = true) (h : s.harbour.delta = [])
    (hc : ∀ i < 8, rdByte 0 s.harbour.mem (0x1FFE000 + i) ^^^ rdByte 0 s.harbour.mem (0x1FFF000 + i) = 0xFF) :
    s.readCopies 1 = (some ((List.range 8).map (fun i => rdByte 0 s.harbour.mem (0x1FFE000 + i))), s) := by
  have hall : (List.range (8 * 1)).all (fun i => decide
      (((List.range 8).map (fun i => rdByte 0 s.harbour.mem (8 * 0x3FFC00 + i))).getD i 0 ^^^
        ((List.range 8).map (fun i => rdByte 0 s.harbour.mem (8 * 0x3FFE00 + i))).getD i 0 = 0xFF)) = true := by
    rw [List.all_eq_true]
    intro i hi
    have hi8 : i < 8 := List.mem_range.mp hi
    simpa [List.getD_eq_getElem?_getD, hi8] using hc i hi8
  unfold State.readCopies
  rw [hd, State.hWords_one h]
  dsimp only
  rw [State.hWords_one h]
  dsimp only
  rw [if_pos hall]
  rfl

/-- Reading harbour leaves the frame. -/
theorem State.hWord_vital (s : State) (w : Nat) : (s.hWord w).2.vital = s.vital := by
  unfold State.hWord
  dsimp only
  split
  · rfl
  · rfl
  · exact State.raiseAll_vital _ 18

theorem State.hWords_vital (s : State) (w k : Nat) : (s.hWords w k).2.vital = s.vital := by
  induction k generalizing s w with
  | zero => rfl
  | succ k ih => exact (ih ..).trans (s.hWord_vital w)

theorem State.readCopies_vital (s : State) (k : Nat) : (s.readCopies k).2.vital = s.vital := by
  have h := ((s.hWords 0x3FFC00 k).2.hWords_vital 0x3FFE00 k).trans (s.hWords_vital 0x3FFC00 k)
  unfold State.readCopies
  split
  · rfl
  · dsimp only
    split
    · split <;> exact h
    · exact h

/-! ### The assay -/

/-- Check and assay leave what FRAME_DONE has accepted. -/
theorem State.makeAssay_doneOk (s : State) : s.makeAssay.vital.doneOk = s.vital.doneOk := by
  have h := congrArg Vital.doneOk (s.readCopies_vital (s.vital.par.vlen.toNat / 8))
  unfold State.makeAssay
  generalize s.readCopies (s.vital.par.vlen.toNat / 8) = p at h ⊢
  obtain ⟨_ | copy, u⟩ := p
  · exact h
  · cases s.vital.vrLost <;> exact h

/-- The assay of copy E where the check passes and no group of a VRISER context is lost. -/
theorem State.makeAssay_assay {s : State} {copy : List Byte} (hc : s.readCopies (s.vital.par.vlen.toNat / 8) = (some copy, s))
    (hl : s.vital.vrLost = false) : s.makeAssay.vital.assay = some (assayOf s.vital.f s.vital.fepoch copy) := by
  unfold State.makeAssay
  rw [hc, hl]
  rfl

/-- The frame once FRAME_DONE for `f` is accepted. -/
def State.doneAccepted (s : State) (f : BitVec 64) : State := s.modVital (fun v => { v with doneOk := true, accepted := v.accepted ++ [f] })

/-- Its assay over copies of 8 clean bytes that complement each other. -/
theorem State.doneAccepted_assay {s : State} {f : BitVec 64} (hf : f = s.vital.f) (hlen : s.vital.par.vlen = 8) (hlost : s.vital.vrLost = false)
    (hopen : s.domainOpen 303 = true) (hdelta : s.harbour.delta = [])
    (hc : ∀ i < 8, rdByte 0 s.harbour.mem (0x1FFE000 + i) ^^^ rdByte 0 s.harbour.mem (0x1FFF000 + i) = 0xFF) :
    (s.doneAccepted f).makeAssay.vital.assay = some (sha3 (bytesLE 8 f.toNat ++ bytesLE 8 s.vital.fepoch.toNat ++
      (List.range 8).map (fun i => rdByte 0 s.harbour.mem (0x1FFE000 + i)))) := by
  have hlen' : (s.doneAccepted f).vital.par.vlen.toNat / 8 = 1 := congrArg (fun l => l.toNat / 8) hlen
  have hcopy := State.readCopies_complement (s := s.doneAccepted f) hopen hdelta hc
  rw [← hlen'] at hcopy
  rw [State.makeAssay_assay hcopy hlost, hf]
  rfl

/-! ### FRAME_DONE -/

/-- No twin of the pairs in vital use and no core `n` taints the frame. -/
def State.untainted (s : State) (n : CoreId) : Prop :=
  (s.cores[n]).tnt = false ∧ ∀ a ∈ s.pairArchs, (s.arch[a]).seq.tnt = false

section
variable {s : State} {n : CoreId} {f : BitVec 64} {ans : Word} {us : Nat}

/-- A FRAME_DONE for a frame accepted before changes nothing. -/
theorem State.done_accepted (hf : f ∈ s.vital.accepted) : s.done n f ans us = (.denied, s) := by
  rw [State.done, List.contains_iff_mem.mpr hf, Bool.or_true]
  rfl

/-- One that comes in time for the claimed frame is refused for a wrong answer or a taint only. -/
theorem State.doneFault_timely (hcl : s.vital.claimed = true) (hf : f = s.vital.f) (hlo : s.vital.par.vwmin.toNat ≤ us)
    (hhi : us ≤ s.vital.par.vwmax.toNat) : s.doneFault n f ans us = if ans ≠ s.vital.answer then some 4
      else if s.cores[n].cst.getLsbD 6 || s.pairArchs.any (fun a => (s.arch[a]).seq.tnt) then some 5 else none := by
  have htime : (!s.vital.claimed || decide (f ≠ s.vital.f) || !(decide (s.vital.par.vwmin.toNat ≤ us) && decide (us ≤ s.vital.par.vwmax.toNat))) =
      false := by
    simp [hcl, hf, hlo, hhi]
  unfold State.doneFault
  dsimp only
  rw [htime]
  rfl

variable (hrun : s.vital.running = true) (hcl : s.vital.claimed = true) (hnew : f ∉ s.vital.accepted) (hf : f = s.vital.f)
  (hlo : s.vital.par.vwmin.toNat ≤ us) (hhi : us ≤ s.vital.par.vwmax.toNat)
include hrun hcl hnew hf hlo hhi

/-- With the right answer and no taint it is accepted. -/
theorem State.done_right (ha : ans = s.vital.answer) (ht : s.untainted n) :
    s.done n f ans us = (.ok, (s.doneAccepted f).makeAssay) := by
  obtain ⟨hcore, htwins⟩ := ht
  have hclean : (s.cores[n].cst.getLsbD 6 || s.pairArchs.any (fun a => (s.arch[a]).seq.tnt)) = false := by
    rw [Bool.or_eq_false_iff, List.any_eq_false]
    exact ⟨hcore, fun a h => by rw [htwins a h]; exact Bool.false_ne_true⟩
  have hfault : s.doneFault n f ans us = none := by
    rw [State.doneFault_timely hcl hf hlo hhi, if_neg (not_not_intro ha), hclean]
    rfl
  simp only [State.done, hrun, List.contains_eq_mem, hnew, hfault]
  rfl

/-- With a wrong answer it spoils the frame with cause 4, unless a cause stands already. -/
theorem State.done_wrong (ha : ans ≠ s.vital.answer) :
    s.done n f ans us = (.denied, s.modVital (fun v => { v with frameCause := v.frameCause.or (some 4) })) := by
  have hfault : s.doneFault n f ans us = some 4 := by rw [State.doneFault_timely hcl hf hlo hhi, if_pos ha]
  simp only [State.done, hrun, List.contains_eq_mem, hnew, hfault]
  rfl

end

/-- A FRAME_DONE that VCORE sends is judged at its time and answered. -/
theorem frameDone_taken {s : State} {n : CoreId} {seq : Word} {f : BitVec 64} {ans : Word} (us : Nat) (hgo : s.holm.go[n] = true)
    (hv : s.vital.par.vcore.toNat = n.val)
    (hm : s.mboxMsg n = { type := 3, len := 12, seq := seq, clean := true, payload := bytesLE 8 f.toNat ++ bytesLE 4 ans.toNat }) :
    exec (.frameDone n seq f ans us) s =
      .next (((s.timeIs us).done n f ans us).2.mboxReply n (s.mboxMsg n) ((s.timeIs us).done n f ans us).1) := by
  have hx : exec (.frameDone n seq f ans us) s =
      .next ((s.timeIs us).mboxTake n 3 seq (bytesLE 8 f.toNat ++ bytesLE 4 ans.toNat) (fun t => t.done n f ans us)) := rfl
  have hm' : (s.timeIs us).mboxMsg n = _ := hm
  have htake := State.mboxTake_taken (s := s.timeIs us) (act := fun t => t.done n f ans us) hgo hm'
    (State.mboxRefusal_none rfl ⟨le_refl _, le_refl _⟩ rfl (fun _ => hv))
  rw [hm]
  exact hx.trans (congrArg _ htake)

/-- Settles O47: each request from what its act makes of the frame, the journal or the mode. -/
theorem mailboxRequests : Obligations.MailboxRequests := by
  intro s n seq f ans us hgo
  refine ⟨?_, ?_, ?_, fun _ _ hd hm => eventPost_records hgo hd hm, fun _ hm hstop => safeStopReq_stops hgo hm hstop⟩
  · intro hv hrun hfree hf hm
    exact frameClaim_claims hgo hv hrun hfree hf hm
  · intro hv hrun hcl hnew hf hlo hhi hm
    have hx := frameDone_taken us hgo hv hm
    refine ⟨fun ha hcore htwins => ?_, fun ha hcause => ?_⟩
    · rw [State.done_right (s := s.timeIs us) hrun hcl hnew hf hlo hhi ha ⟨hcore, htwins⟩] at hx
      refine ⟨⟨_, hx, ?_, State.replied_mboxReply ..⟩, fun hlen hlost hopen hdelta hcopies => ⟨_, hx, ?_⟩⟩
      · rw [State.mboxReply_vital, State.makeAssay_doneOk]
        rfl
      rw [State.mboxReply_vital]
      exact State.doneAccepted_assay (s := s.timeIs us) hf hlen hlost hopen hdelta hcopies
    · rw [State.done_wrong (s := s.timeIs us) hrun hcl hnew hf hlo hhi ha] at hx
      refine ⟨_, hx, ?_, ?_, State.replied_mboxReply ..⟩ <;> rw [State.mboxReply_vital]
      · rfl
      · show s.vital.frameCause.or (some 4) = some 4
        rw [hcause]
        rfl
  · intro hv hacc hm
    have hx := frameDone_taken us hgo hv hm
    rw [State.done_accepted (s := s.timeIs us) hacc] at hx
    exact ⟨_, hx, State.mboxReply_vital .., State.replied_mboxReply ..⟩

end Sys2Proof.Machine
end

section
/-! PROOF. The DYN outputs and their monitors (spec/07 R173 to R179). -/

namespace Sys2Proof.Machine

/-! ### Bits of one output -/

theorem getLsbD_or_shift (d : Byte) (i : Fin 8) : (d ||| (1 <<< i.val)).getLsbD i.val = true := by
  have h : ∀ j : Fin 8, (((1 <<< j.val : Nat)) : Byte).getLsbD j.val = true := by decide
  rw [BitVec.getLsbD_or, h, Bool.or_true]

theorem getLsbD_and_not_shift (d : Byte) (i : Fin 8) : (d &&& ~~~((1 : Byte) <<< i.val)).getLsbD i.val = false := by
  have h : ∀ j : Fin 8, (~~~((1 : Byte) <<< j.val)).getLsbD j.val = false := by decide
  rw [BitVec.getLsbD_and, h, Bool.and_false]

/-- The source of monitor `i` in MSRC. -/
theorem msrc_ne_zero {w : Nat} {m : BitVec w} {i : Fin 8} (h : m.toNat / 4 ^ i.val % 4 ≠ 0) : (fld m (2 * i.val) 2 : BitVec 2) ≠ 0 := by
  intro e
  have e := congrArg BitVec.toNat e
  rw [fld, BitVec.extractLsb'_toNat, Nat.shiftRight_eq_div_pow, Nat.pow_mul] at e
  exact h e

/-! ### Periods (R173 to R176) -/

section
variable {s : State} {i : Fin 8} {us : Nat}

/-- The dyn state in which a period of half length `h` begins on output `i`. -/
def Dyn.started (d : Dyn) (i : Fin 8) (us h : Nat) : Dyn :=
  { d with pin := vset d.pin i .high, drv := d.drv ||| (1 <<< i.val), periodHalf := vset d.periodHalf i (BitVec.ofNat 16 h)
           periodAt := vset d.periodAt i (some (us : Int)) }

/-- A period begins where the window is OPEN in GUARD, none is in progress, and it is the first one in time or follows another. -/
theorem dynPeriod_begins (hw : s.vital.win = .opened) (hm : s.mode = .guard) (he : s.dyn.en.getLsbD i.val = true) (hx : s.dyn.ends i us = true)
    (hb : s.dyn.periodAt[i].isSome = true ∨ us ≤ 2) :
    exec (.dynPeriod i us) s = .next { s.timeIs us with
      dyn := s.dyn.started i us (s.dyn.half (keyBit s.dyn.keyAssay i (halfSlot us (s.vital.par.frameMs.toNat * 1000)))) } := by
  have hx' : ¬ (!s.dyn.ends i us) = true := by rw [hx]; decide
  have hb' : ¬ (!s.dyn.begins i us) = true := by simpa only [Dyn.begins, Bool.not_eq_true', Bool.not_eq_false, Bool.or_eq_true, decide_eq_true_eq] using hb
  show execDynPeriod i us s = _
  rw [execDynPeriod]
  dsimp only
  rw [if_neg hx', if_pos ⟨hw, hm, he⟩, if_neg hb']
  rfl

/-- The square wave of a period that has begun: high for its first half, low from there. -/
theorem Dyn.started_level (d : Dyn) (i : Fin 8) (us h : Nat) (at' : Int) :
    (d.started i us h).level i at' =
      if (us : Int) ≤ at' ∧ at' < us + ((d.started i us h).periodHalf[i]).toNat then .high else .low := by
  have hp : (d.started i us h).pin[i] = .high := vset_at ..
  have ha : (d.started i us h).periodAt[i] = some (us : Int) := vset_at ..
  rw [Dyn.level, hp, ha]

/-- No period begins within another, nor later than 2 µs behind the boundary where none is in progress. -/
theorem dynPeriod_none (h : s.dyn.ends i us = false ∨
    (s.vital.win = .opened ∧ s.mode = .guard ∧ s.dyn.en.getLsbD i.val = true ∧ s.dyn.periodAt[i] = none ∧ 2 < us)) :
    exec (.dynPeriod i us) s = .next (s.timeIs us) := by
  show execDynPeriod i us s = _
  rw [execDynPeriod]
  dsimp only
  rcases h with hx | ⟨hw, hm, he, hp, hu⟩
  · rw [hx]
    rfl
  · have hx : ¬ (!s.dyn.ends i us) = true := by simp [Dyn.ends, hp]
    have hb : (!s.dyn.begins i us) = true := by simp [Dyn.begins, hp, hu]
    rw [if_neg hx, if_pos ⟨hw, hm, he⟩, if_pos hb]

/-- Once the window has left OPEN the output is low from the end of its period. -/
theorem dynPeriod_low (hw : s.vital.win ≠ .opened) (hp : s.dyn.pin[i] ≠ .hiZ) (hx : s.dyn.ends i us = true) :
    ∃ t, exec (.dynPeriod i us) s = .next t ∧ t.dyn.pin[i] = .low ∧ t.dyn.drv.getLsbD i.val = false ∧ ∀ j : Fin 8, j ≠ i → t.dyn.pin[j] = s.dyn.pin[j] := by
  have hx' : ¬ (!s.dyn.ends i us) = true := by rw [hx]; decide
  have he : exec (.dynPeriod i us) s = execDynPeriod i us s := rfl
  rw [he, execDynPeriod]
  dsimp only
  rw [if_neg hx', if_neg (fun h => hw h.1), if_neg hp]
  exact ⟨_, rfl, vset_at .., getLsbD_and_not_shift .., fun j hj => vset_else _ _ _ _ hj⟩

/-! ### Monitors (R179) -/

/-- A mismatch without MONREACT is counted and marked, and nothing else. -/
theorem State.monMismatch_counts (h : s.dyn.monreact.getLsbD i.val = false) :
    s.monMismatch i = { s with dyn := { s.dyn with misCnt := satInc s.dyn.misCnt, misFrame := s.dyn.misFrame ||| (1 <<< i.val) } } := by
  rw [State.monMismatch]
  dsimp only
  rw [h]
  rfl

/-- What time it is changes no window that a monitor expects. -/
@[simp] theorem State.timeIs_expectOpen (s : State) (us : Nat) (i : Fin 8) : (s.timeIs us).expectOpen i = s.expectOpen i := by
  simp [State.expectOpen, State.timeIs]
  rfl

/-- The first edge is taken. -/
theorem dynmonEdge_first (hs : s.dyn.msrc.toNat / 4 ^ i.val % 4 ≠ 0) (ho : s.expectOpen i = true) (hl : (s.dyn.mon[i]).lastEdge = none) :
    ∃ t, exec (.dynmonEdge i us) s = .next t ∧ (t.dyn.mon[i]).lastEdge = some (us : Int) ∧ t.dyn.misCnt = s.dyn.misCnt := by
  have hsrc : (fld (s.timeIs us).dyn.msrc (2 * i.val) 2 : BitVec 2) ≠ 0 := msrc_ne_zero hs
  have ho' : ¬ (!(s.timeIs us).expectOpen i) = true := by rw [State.timeIs_expectOpen, ho]; decide
  have hl' : ((s.timeIs us).dyn.mon[i]).lastEdge = none := hl
  have he : exec (.dynmonEdge i us) s = execDynmonEdge i us s := rfl
  rw [he, execDynmonEdge]
  dsimp only
  rw [if_neg hsrc, if_neg ho', hl']
  exact ⟨_, rfl, congrArg Monitor.lastEdge (vset_at ..), rfl⟩

/-- An input that stays static is a mismatch. -/
theorem dynmonStaticTimeout_counts (hs : s.dyn.msrc.toNat / 4 ^ i.val % 4 ≠ 0) (ho : s.expectOpen i = true)
    (hr : s.dyn.monreact.getLsbD i.val = false) :
    ∃ t, exec (.dynmonStaticTimeout i) s = .next t ∧ t.dyn.misCnt = satInc s.dyn.misCnt ∧ t.dyn.misFrame.getLsbD i.val = true := by
  have he : exec (.dynmonStaticTimeout i) s = execDynmonStaticTimeout i s := rfl
  rw [he, execDynmonStaticTimeout, if_pos ⟨msrc_ne_zero hs, ho⟩, State.monMismatch_counts hr]
  exact ⟨_, rfl, rfl, getLsbD_or_shift ..⟩

/-- An edge outside OPEN is a mismatch where it comes too late. -/
theorem dynmonEdge_closed (hs : s.dyn.msrc.toNat / 4 ^ i.val % 4 ≠ 0) (ho : s.expectOpen i = false) (hr : s.dyn.monreact.getLsbD i.val = false) :
    ∃ t, exec (.dynmonEdge i us) s = .next t ∧ t.dyn.misCnt = if (s.timeIs us).edgeLate i us then satInc s.dyn.misCnt else s.dyn.misCnt := by
  have hsrc : (fld (s.timeIs us).dyn.msrc (2 * i.val) 2 : BitVec 2) ≠ 0 := msrc_ne_zero hs
  have ho' : (!(s.timeIs us).expectOpen i) = true := by rw [State.timeIs_expectOpen, ho]; rfl
  have he : exec (.dynmonEdge i us) s = execDynmonEdge i us s := rfl
  rw [he, execDynmonEdge]
  dsimp only
  rw [if_neg hsrc, if_pos ho']
  refine ⟨_, rfl, ?_⟩
  rw [State.monMismatch_counts (by exact hr), apply_ite State.dyn, apply_ite Dyn.misCnt]
  rfl

end

/-- Settles O48: periods and monitors, each rule from its own lemma. -/
theorem dynOutputs : Obligations.DynOutputs := by
  unfold Obligations.DynOutputs
  intro s i us
  refine ⟨?_, dynPeriod_none, dynPeriod_low, ?_, dynmonEdge_closed⟩
  · intro hw hm he hx hb
    refine ⟨_, dynPeriod_begins hw hm he hx hb, vset_at .., getLsbD_or_shift .., vset_at .., vset_at .., fun at' => ⟨?_, ?_⟩⟩
    · intro h1 h2
      exact (Dyn.started_level ..).trans (if_pos ⟨h1, h2⟩)
    · intro h
      exact (Dyn.started_level ..).trans (if_neg (fun h2 => absurd h2.2 (not_lt.mpr h)))
  · exact fun hs ho => ⟨dynmonEdge_first hs ho, dynmonStaticTimeout_counts hs ho⟩

end Sys2Proof.Machine
end

section
/-! PROOF. What closes with the sessions, and what a reset keeps (spec/16 Table 16.13; spec/17 R402; spec/15 R360, R371). -/

namespace Sys2Proof.Machine

/-! ### Sessions that close -/

/-- Closing a session changes the Holm alone. -/
theorem State.closeSession_outside (s : State) (id : Word) (h : Holm) : { s.closeSession id with holm := h } = { s with holm := h } := by
  unfold State.closeSession State.txnAbort
  split_ifs <;> rfl

theorem State.closeAll_outside (s : State) (h : Holm) : { s.closeAll with holm := h } = { s with holm := h } :=
  foldl_keep s (fun t : State => { t with holm := h }) _ (fun t (x : Session) => t.closeSession_outside x.id h) _

/-- What of the keep store is no wrapped key. -/
def Keep.unwrapped (k : Keep) : Keep := { k with wrapGen := 0, wrapped := [], wrapSeal := [] }

/-- Closing a session writes no other record than the wrapped keys. -/
theorem State.closeSession_keep (s : State) (id : Word) : (s.closeSession id).holm.keep.unwrapped = s.holm.keep.unwrapped := by
  unfold State.closeSession State.txnAbort
  split_ifs <;> rfl

theorem State.closeAll_keep (s : State) : s.closeAll.holm.keep.unwrapped = s.holm.keep.unwrapped :=
  foldl_keep s (fun t : State => t.holm.keep.unwrapped) _ (fun t (x : Session) => t.closeSession_keep x.id) _

theorem State.closeSession_sessions (s : State) (id : Word) :
    (s.closeSession id).holm.sessions = s.holm.sessions.filter (fun x => decide (x.id ≠ id)) := by
  unfold State.closeSession State.txnAbort
  split_ifs <;> rfl

/-- No session is left. -/
theorem State.closeAll_sessions (s : State) : s.closeAll.holm.sessions = [] := by
  have h : ∀ (l : List Session) (t : State),
      ∀ x ∈ (l.foldl (fun t x => t.closeSession x.id) t).holm.sessions, x ∈ t.holm.sessions ∧ x ∉ l := by
    intro l
    induction l with
    | nil => exact fun t x hx => ⟨hx, List.not_mem_nil⟩
    | cons y l ih =>
      intro t x hx
      obtain ⟨hm, hl⟩ := ih (t.closeSession y.id) x hx
      rw [State.closeSession_sessions, List.mem_filter, decide_eq_true_eq] at hm
      refine ⟨hm.1, fun e => ?_⟩
      rcases List.mem_cons.mp e with rfl | e
      · exact hm.2 rfl
      · exact hl e
  refine List.eq_nil_iff_forall_not_mem.mpr (fun x hx => ?_)
  obtain ⟨hm, hn⟩ := h _ _ x hx
  exact hn hm

theorem State.closeAll_none {s : State} (h : s.holm.sessions = []) : s.closeAll = s := by
  rw [State.closeAll, h]
  rfl

/-! ### Reset -/

/-- A spoilt flash command leaves all but the flash. -/
theorem State.nvSpoil_frame (s : State) : ∃ f g, s.nvSpoil = { s with fresh := f, shore := g } := by
  unfold State.nvSpoil
  dsimp only
  split_ifs <;> exact ⟨_, _, rfl⟩

theorem State.nvSpoil_holm (s : State) : s.nvSpoil.holm = s.holm := by obtain ⟨_, _, h⟩ := s.nvSpoil_frame; rw [h]
theorem State.nvSpoil_events (s : State) : s.nvSpoil.events = s.events := by obtain ⟨_, _, h⟩ := s.nvSpoil_frame; rw [h]

/-- A reset starts the boot, with its cause, without sessions. -/
theorem State.resetDevice_boots (s : State) (cause : BitVec 4) :
    (s.resetDevice cause).mode = .boot ∧ (s.resetDevice cause).pwr.rstCause = cause ∧ (s.resetDevice cause).holm.sessions = [] := ⟨rfl, rfl, rfl⟩

/-- It keeps the journal of events. -/
theorem State.resetDevice_events (s : State) (cause : BitVec 4) : (s.resetDevice cause).events = s.events :=
  (congrArg State.events (s.nvSpoil.closeAll_outside s.holm)).trans s.nvSpoil_events

/-- It keeps snapshots, journal entry and persistent record. -/
theorem State.resetDevice_keep (s : State) (cause : BitVec 4) :
    (s.resetDevice cause).holm.keep.snapA = s.holm.keep.snapA ∧ (s.resetDevice cause).holm.keep.snapB = s.holm.keep.snapB ∧
      (s.resetDevice cause).holm.keep.journal = s.holm.keep.journal ∧ (s.resetDevice cause).holm.keep.persist = s.holm.keep.persist := by
  have hk : (s.resetDevice cause).holm.keep.unwrapped = s.holm.keep.unwrapped :=
    (s.nvSpoil.closeAll_keep).trans (congrArg (fun h : Holm => h.keep.unwrapped) s.nvSpoil_holm)
  exact ⟨(congrArg Keep.snapA hk :), (congrArg Keep.snapB hk :), (congrArg Keep.journal hk :), (congrArg Keep.persist hk :)⟩

theorem State.resetDevice_keepAll {s : State} (h : s.holm.sessions = []) (cause : BitVec 4) : (s.resetDevice cause).holm.keep = s.holm.keep := by
  have hs : s.nvSpoil.closeAll = s.nvSpoil := State.closeAll_none (by rw [State.nvSpoil_holm, h])
  show s.nvSpoil.closeAll.holm.keep = _
  rw [hs, State.nvSpoil_holm]

theorem State.resetDevice_fuses (s : State) (cause : BitVec 4) : (s.resetDevice cause).holm.fuses = s.holm.fuses :=
  congrArg Fixed.fuses (s.resetDevice_fixed cause)

end Sys2Proof.Machine
end

section
/-! PROOF. Supply, temperature and pins (spec/18 R419, R420, R430; spec/20 R450, R464). -/

namespace Sys2Proof.Machine

/-- HOLD at a crossing lies in its range. -/
theorem holdUnits_range {lo hi : Nat} (h : lo ≤ hi) (h8 : hi < 256) (d : Nat) : lo ≤ (holdUnits lo hi d).toNat ∧ (holdUnits lo hi d).toNat ≤ hi := by
  have hm : (Config.freeWord d).toNat % (hi + 1 - lo) < hi + 1 - lo := Nat.mod_lt _ (by omega)
  rw [holdUnits, BitVec.toNat_ofNat, Nat.mod_eq_of_lt (by omega)]
  omega

section
variable {s : State}

theorem holdokChange_crosses (hm : s.mode ≠ .off) (ok : Bool) :
    ∃ t, exec (.holdokChange ok) s = .next t ∧ t.pwr.holdOk = ok ∧ t.mode = s.mode ∧
      (ok = true → 180 ≤ t.pwr.holdV.toNat ∧ t.pwr.holdV.toNat ≤ 200) ∧ (ok = false → t.pwr.holdV.toNat < 180) := by
  have he : exec (.holdokChange ok) s = execHoldokChange ok s := rfl
  rw [he, execHoldokChange, if_neg hm]
  refine ⟨_, rfl, rfl, rfl, ?_, ?_⟩
  · rintro rfl
    exact holdUnits_range (by decide) (by decide) s.fresh
  · rintro rfl
    exact Nat.lt_succ_of_le (holdUnits_range (lo := 0) (hi := 179) (by decide) (by decide) s.fresh).2

theorem holdokTimeout_stops (hm : s.mode = .guard) (hh : s.pwr.holdOk = false) (hs : s.mayStop = true) :
    ∃ t, exec .holdokTimeout s = .next t ∧ t.mode = .safeStop :=
  ⟨s.safeStop [2], if_pos ⟨hm, hh⟩, State.safeStop_mode hs _⟩

theorem crystalStart_starts (hm : s.mode ≠ .off) : ∃ t, exec .crystalStart s = .next t ∧ t.pwr.crystal = true :=
  ⟨_, if_neg hm, rfl⟩

/-- The pour clock after a sample of `tj`. -/
def Power.sampled (p : Power) (tj : BitVec 16) : Power :=
  { p with tj := tj, step := if 1680 < tj.toInt then true else if tj.toInt < 1600 then false else p.step }

/-- A sample below 128 °C changes the temperature and the step of the pour clock alone. -/
theorem thermalSample_cool (hr : s.holmRuns = true) {tj : BitVec 16} (ht : tj.toInt < 2048) :
    exec (.thermalSample tj) s = .next { s with pwr := s.pwr.sampled tj } := by
  have hr' : ¬ (!s.holmRuns) = true := by rw [hr]; decide
  show execThermalSample tj s = _
  rw [execThermalSample, if_neg hr']
  dsimp only
  rw [if_neg (not_le.mpr ht)]
  rfl

theorem Power.sampled_step (p : Power) (tj : BitVec 16) : (1680 < tj.toInt → (p.sampled tj).step = true) ∧ (tj.toInt < 1600 → (p.sampled tj).step = false) ∧
    (1600 ≤ tj.toInt → tj.toInt ≤ 1680 → (p.sampled tj).step = p.step) := by
  refine ⟨fun h => if_pos h, fun h => ?_, fun h1 h2 => ?_⟩
  · exact (if_neg (by omega)).trans (if_pos h)
  · exact (if_neg (by omega)).trans (if_neg (by omega))

theorem thermalSample_stops (hr : s.holmRuns = true) {tj : BitVec 16} (ht : 2048 ≤ tj.toInt) (hs : s.mayStop = true) :
    ∃ t, exec (.thermalSample tj) s = .next t ∧ t.mode = .safeStop := by
  have hr' : ¬ (!s.holmRuns) = true := by rw [hr]; decide
  have he : exec (.thermalSample tj) s = execThermalSample tj s := rfl
  rw [he, execThermalSample, if_neg hr']
  dsimp only
  rw [if_pos ht, if_pos (by exact hs)]
  exact ⟨_, rfl, State.safeStop_mode (by exact hs) _⟩

/-- A step of VDD_CORE is acknowledged, or its failure is recorded. -/
theorem avsStep_steps (hr : s.holmRuns = true) {target : Nat} (h1 : 720 ≤ target) (h2 : target ≤ 780) (h5 : target % 5 = 0)
    (hd : target = s.pwr.avs + 5 ∨ target + 5 = s.pwr.avs) :
    ∃ t, exec (.avsStep target) s = .next t ∧ ((t.pwr.avs = target ∧ t.events = s.events) ∨
      (t.pwr = s.pwr ∧ lastEvent t = some (.avsLost, bytesLE 2 target))) := by
  have he : exec (.avsStep target) s = execAvsStep target s := rfl
  rw [he, execAvsStep, if_pos ⟨hr, h1, h2, h5, hd⟩]
  refine ⟨_, rfl, ?_⟩
  unfold State.avsTo
  cases Config.freeBit s.fresh with
  | true => exact .inl ⟨rfl, rfl⟩
  | false => exact .inr ⟨rfl, lastEvent_event ..⟩

theorem State.leaveNow_mode (s : State) (cause : BitVec 4) : (s.leaveNow cause).mode = s.mode := by
  unfold State.leaveNow
  dsimp only
  split
  · exact State.raiseAll_mode ..
  · rfl

/-- JTAG takes the pins of a device with the window CLOSED outside GUARD: DYN drives low, under HIGHZ nothing drives. -/
theorem jtagPinControl_pins (hm : s.mode ≠ .off) (hw : s.vital.win = .closed) (hg : s.mode ≠ .guard) (ir : JtagPin) :
    ∃ t, exec (.jtagPinControl ir) s = .next t ∧ t.holm.jtag = some ir ∧ t.mode = s.mode ∧
      ∀ i : Fin 8, t.dyn.pin[i] = if ir = .highz then .hiZ else .low := by
  have hc : ¬ (s.mode = .guard ∨ s.vital.win ≠ .closed) := fun h => h.elim hg (fun h => h hw)
  have he : exec (.jtagPinControl ir) s = execJtagPinControl ir s := rfl
  rw [he, execJtagPinControl, if_neg hm]
  dsimp only
  rw [if_neg hc]
  exact ⟨_, rfl, rfl, rfl, fun i => Vector.getElem_replicate i.isLt⟩

/-- In GUARD the device is first in SAFE STOP. -/
theorem jtagPinControl_stops (hg : s.mode = .guard) (hs : s.mayStop = true) (ir : JtagPin) :
    ∃ t, exec (.jtagPinControl ir) s = .next t ∧ t.holm.jtag = some ir ∧ t.mode = .safeStop := by
  have hm : s.mode ≠ .off := by rw [hg]; decide
  have he : exec (.jtagPinControl ir) s = execJtagPinControl ir s := rfl
  rw [he, execJtagPinControl, if_neg hm]
  dsimp only
  rw [if_pos (.inl hg)]
  refine ⟨_, rfl, rfl, ?_⟩
  have hstop := State.safeStop_mode hs [3]
  dsimp only
  split
  · exact (State.leaveNow_mode ..).trans hstop
  · exact hstop

end

/-- Supply, temperature and pins, each rule from its own lemma. -/
theorem supplyAndThermalRule_holds : supplyAndThermalRule := by
  intro s ok tj target ir hm
  refine ⟨holdokChange_crosses hm ok, holdokTimeout_stops, crystalStart_starts hm, fun hr => ⟨fun ht => ?_, thermalSample_stops hr, avsStep_steps hr⟩,
    fun hw hg => jtagPinControl_pins hm hw hg ir, fun hg hs => jtagPinControl_stops hg hs ir⟩
  exact ⟨_, thermalSample_cool hr ht, rfl, rfl, s.pwr.sampled_step tj⟩

end Sys2Proof.Machine
end

section
/-! PROOF. The ebb, from its start to the reset that ends it (spec/18 R427 to R429, Table 18.7; spec/07 R173; spec/16 R389). -/

namespace Sys2Proof.Machine

theorem State.leaveNow_holm (s : State) (cause : BitVec 4) : (s.leaveNow cause).holm = s.holm := by
  unfold State.leaveNow
  dsimp only
  split
  · exact State.raiseAll_holm ..
  · rfl

/-- The ebb closes every session. -/
theorem State.ebbStart_sessions (s : State) : s.ebbStart.holm.sessions = [] := by
  have hc := s.nvSpoil.jesdStop.closeAll_sessions
  unfold State.ebbStart
  dsimp only
  split_ifs
  · exact (congrArg Holm.sessions (State.leaveNow_holm ..)).trans hc
  · exact (congrArg Holm.sessions (State.leaveNow_holm ..)).trans hc
  · exact hc
  · exact hc

/-- It leaves power to the Holm and the Skerry alone. -/
theorem State.ebbStart_on (s : State) : s.ebbStart.pwr.on.getLsbD 314 = true ∧ s.ebbStart.pwr.on.getLsbD 315 = true ∧
    ∀ k < 314, s.ebbStart.pwr.on.getLsbD k = false := by
  have h : ∀ k < 316, s.ebbStart.pwr.on.getLsbD k = (decide (k = 314) || decide (k = 315)) := by
    intro k hk
    show (domBit 314 ||| domBit 315).getLsbD k = _
    rw [BitVec.getLsbD_or, getLsbD_domBit hk, getLsbD_domBit hk]
  refine ⟨h 314 (by decide), h 315 (by decide), fun k hk => ?_⟩
  rw [h k (by omega), decide_eq_false (by omega), decide_eq_false (by omega)]
  rfl

/-- A snapshot leaves the journal entry. -/
theorem Keep.putSnapshot_journal (k : Keep) (p : Snapshot) : (k.putSnapshot p).journal = k.journal := by
  unfold Keep.putSnapshot
  split <;> rfl

/-- What the ebb makes of a journal entry: one APPLYING is to be undone. -/
def Journal.ebbed (j : Journal) : Journal := if j.st = .applying then Journal.sealed { j with st := .undo } else j

theorem State.ebbSeal_seals (s : State) : s.ebbSeal.pwr.ebbStep = 4 ∧ lastEvent s.ebbSeal = some (.ebb, []) ∧
    s.ebbSeal.holm.keep.journal = s.holm.keep.journal.map Journal.ebbed := by
  refine ⟨rfl, lastEvent_event .., ?_⟩
  unfold State.ebbSeal
  dsimp only
  split
  · exact congrArg (Option.map Journal.ebbed) (Keep.putSnapshot_journal ..)
  · rfl

section
variable {s : State}

theorem snapshotSealed_undoes (hm : s.mode = .ebb) (h2 : s.pwr.ebbStep = 2) :
    ∃ t, exec .snapshotSealed s = .next t ∧ t.pwr.ebbStep = 4 ∧ lastEvent t = some (.ebb, []) ∧
      ∀ j, s.holm.keep.journal = some j → t.holm.keep.journal = some j.ebbed := by
  obtain ⟨hs, he, hj⟩ := s.ebbSeal_seals
  exact ⟨_, if_pos ⟨hm, h2⟩, hs, he, fun j h => by rw [hj, h]; rfl⟩

theorem ebbComplete_idles (hm : s.mode = .ebb) (h4 : s.pwr.ebbStep = 4) : ∃ t, exec .ebbComplete s = .next t ∧ t.pwr.ebbStep = 5 := by
  have h2 : ¬ (s.pwr.ebbStep = 2 ∧ s.snapshotDue = false) := by rw [h4]; exact fun h => absurd h.1 (by decide)
  have he : exec .ebbComplete s = execEbbComplete s := rfl
  rw [he, execEbbComplete, if_neg (not_not.mpr hm)]
  dsimp only
  rw [if_neg h2, if_pos h4]
  exact ⟨_, rfl, rfl⟩

theorem ebbRecovery_resets (hm : s.mode = .ebb) (h5 : s.pwr.ebbStep = 5) :
    ∃ t, exec .ebbRecovery s = .next t ∧ t.mode = .boot ∧ t.pwr.rstCause = 2 ∧ t.events = s.events ∧ t.holm.keep.snapA = s.holm.keep.snapA ∧
      t.holm.keep.snapB = s.holm.keep.snapB ∧ t.holm.keep.journal = s.holm.keep.journal ∧ (s.holm.sessions = [] → t.holm.keep = s.holm.keep) := by
  obtain ⟨hb, hc, -⟩ := s.resetDevice_boots 2
  obtain ⟨ha, hb', hj, -⟩ := s.resetDevice_keep 2
  exact ⟨_, if_pos ⟨hm, h5⟩, hb, hc, s.resetDevice_events 2, ha, hb', hj, fun h => State.resetDevice_keepAll h 2⟩

theorem holdCollapse_off (hm : s.mode = .ebb) :
    ∃ t, exec .holdCollapse s = .next t ∧ t.mode = .off ∧ t.pwr.on = 0 ∧ ∀ i : Fin 8, t.dyn.pin[i] = .hiZ :=
  ⟨_, if_pos hm, rfl, rfl, fun i => Vector.getElem_replicate i.isLt⟩

theorem vddioSysCollapse_floats (hm : s.mode = .ebb) : ∃ t, exec .vddioSysCollapse s = .next t ∧ ∀ i : Fin 8, t.dyn.pin[i] = .hiZ :=
  ⟨_, if_pos hm, fun i => Vector.getElem_replicate i.isLt⟩

theorem resetNLow_resets (hm : s.mode ≠ .off) :
    ∃ t, exec .resetNLow s = .next t ∧ t.mode = .boot ∧ t.pwr.rstCause = 1 ∧ t.holm.keep.persist = s.holm.keep.persist ∧
      t.holm.keep.journal = s.holm.keep.journal ∧ t.holm.sessions = [] ∧ t.holm.fuses = s.holm.fuses := by
  obtain ⟨hb, hc, hn⟩ := s.resetDevice_boots 1
  obtain ⟨-, -, hj, hp⟩ := s.resetDevice_keep 1
  exact ⟨_, if_neg hm, hb, hc, hp, hj, hn, s.resetDevice_fuses 1⟩

end

/-- The ebb, step by step. -/
theorem ebbRule_holds : ebbRule := by
  intro s
  refine ⟨fun hoff hebb _ => ?_, fun hm => ⟨snapshotSealed_undoes hm, ebbComplete_idles hm, ebbRecovery_resets hm, holdCollapse_off hm,
    vddioSysCollapse_floats hm⟩, resetNLow_resets⟩
  exact ⟨s.ebbStart, if_neg (fun h => h.elim hoff hebb), rfl, rfl, s.ebbStart_sessions, fun i => Vector.getElem_replicate i.isLt, rfl, s.ebbStart_on⟩

/-- Settles O49: supply, temperature and pins, and the ebb. -/
theorem supplyAndEbb : Obligations.SupplyAndEbb := ⟨supplyAndThermalRule_holds, ebbRule_holds⟩

end Sys2Proof.Machine
end

section
/-! PROOF. What the commands of the host reach: acts of the array, the sprue, the DMA channels and the power domains leave the mode, the
transition in progress and the replies as they are (spec/18 R422, R423; spec/17 R398). -/

namespace Sys2Proof.Machine

/-- What a host sees of its commands: the mode, the transition in progress and the replies. -/
def State.hostSide (s : State) : Mode × Option Mode × List Reply := (s.mode, s.pwr.target, s.holm.replies)

@[simp] theorem hostSide_mk (a0 a1 a2 a3 a4 a5 a6 a7 a8 a9 a10 a11 a12 a13 a14 a15 a16 a17 a18 a19 a20 a21 a22 a23 a24 a25 a26 a27) :
    State.hostSide ⟨a0, a1, a2, a3, a4, a5, a6, a7, a8, a9, a10, a11, a12, a13, a14, a15, a16, a17, a18, a19, a20, a21, a22, a23, a24, a25, a26, a27⟩ =
      (a5, a12.target, a25.replies) := rfl
@[simp] theorem hostSide_fold (s : State) : (s.mode, s.pwr.target, s.holm.replies) = s.hostSide := rfl
@[simp] theorem hostSide_ite (p : Prop) [Decidable p] (a b : State) : (if p then a else b).hostSide = if p then a.hostSide else b.hostSide := apply_ite ..

theorem mode_of_hostSide {t : State} {p : Mode × Option Mode × List Reply} (h : t.hostSide = p) : t.mode = p.1 := congrArg Prod.fst h
theorem target_of_hostSide {t : State} {p : Mode × Option Mode × List Reply} (h : t.hostSide = p) : t.pwr.target = p.2.1 :=
  congrArg (fun x => x.2.1) h
theorem replies_of_hostSide {t : State} {p : Mode × Option Mode × List Reply} (h : t.hostSide = p) : t.holm.replies = p.2.2 := congrArg (fun x => x.2.2) h

/-- A fold of steps that leave it leaves it. -/
@[simp] theorem foldl_hostSide {α : Type} (g : State → α → State) (l : List α) (s : State) (h : ∀ t x, (g t x).hostSide = t.hostSide) :
    (l.foldl g s).hostSide = s.hostSide := foldl_keep s State.hostSide g h l

variable (s : State)

/-! ### Interrupts, events and single parts of the state -/

@[simp] theorem State.raiseAll_hostSide (i : Nat) : (s.raiseAll i).hostSide = s.hostSide :=
  foldl_hostSide _ _ s (fun t n => by obtain ⟨_, _, h⟩ := t.irqTo_frame n i; rw [h]; rfl)
@[simp] theorem State.event_hostSide (k : EventKind) (d : List Byte) : (s.event k d).hostSide = s.hostSide := by rfl
@[simp] theorem State.modArch_hostSide (a : Arch) (f : ArchSt → ArchSt) : (s.modArch a f).hostSide = s.hostSide := by rfl
@[simp] theorem State.modSeq_hostSide (a : Arch) (f : Seq → Seq) : (s.modSeq a f).hostSide = s.hostSide := by rfl
@[simp] theorem State.modTwin_hostSide (a : Arch) (f : Twin → Twin) : (s.modTwin a f).hostSide = s.hostSide := by rfl
@[simp] theorem State.modIsl_hostSide (P : Isl) (f : IslSt → IslSt) : (s.modIsl P f).hostSide = s.hostSide := by rfl
@[simp] theorem State.modRing_hostSide (a : Arch) (f : RiserRing → RiserRing) : (s.modRing a f).hostSide = s.hostSide := by rfl
@[simp] theorem State.modStream_hostSide (id : BitVec 12) (f : Stream → Stream) : (s.modStream id f).hostSide = s.hostSide := by rfl
@[simp] theorem State.modLane_hostSide (l : Fin 16) (f : Lane → Lane) : (s.modLane l f).hostSide = s.hostSide := by rfl
@[simp] theorem State.modStrait_hostSide (l : Bool) (f : Strait → Strait) : (s.modStrait l f).hostSide = s.hostSide := by rfl
@[simp] theorem State.modDma_hostSide (c : Fin 16) (f : DmaChan → DmaChan) : (s.modDma c f).hostSide = s.hostSide := by rfl
@[simp] theorem State.modBank_hostSide (b : Fin 16) (f : Bank → Bank) : (s.modBank b f).hostSide = s.hostSide := by rfl
@[simp] theorem State.modSeqs_hostSide (as : List Arch) (f : Seq → Seq) : (s.modSeqs as f).hostSide = s.hostSide :=
  foldl_hostSide _ _ s (fun _ _ => rfl)

/-! ### Posted writes and stream entries (spec/08) -/

@[simp] theorem State.sendPosted_hostSide (h : BitVec 128) : (s.sendPosted h).2.hostSide = s.hostSide := by
  unfold State.sendPosted
  dsimp only
  split <;> rfl

@[simp] theorem State.dropPosted_hostSide (i : Fin 32) : (s.dropPosted i).hostSide = s.hostSide := by rfl
@[simp] theorem State.hPutBytes_hostSide (off : Nat) (bs : List Byte) : (s.hPutBytes off bs).hostSide = s.hostSide := by rfl

@[simp] theorem State.tablePut_hostSide (off : Nat) (bs : List Byte) : (s.tablePut off bs).hostSide = s.hostSide := by
  unfold State.tablePut
  simp

@[simp] theorem State.writeBack_hostSide (id : BitVec 12) : (s.writeBack id).hostSide = s.hostSide := by
  unfold State.writeBack
  split <;> simp

@[simp] theorem State.putEntryWord0_hostSide (id : BitVec 12) (w : Word) : (s.putEntryWord0 id w).hostSide = s.hostSide := by
  unfold State.putEntryWord0
  split <;> simp

@[simp] theorem State.frameEnd_hostSide (id : BitVec 12) (cause : Option (BitVec 3)) : (s.frameEnd id cause).hostSide = s.hostSide := by
  unfold State.frameEnd
  split <;> simp

@[simp] theorem State.frameStart_hostSide (id : BitVec 12) : (s.frameStart id).hostSide = s.hostSide := by
  unfold State.frameStart State.overrunReport
  simp

@[simp] theorem State.enableStream_hostSide (id : BitVec 12) (cfg : Vector Word 10) : (s.enableStream id cfg).hostSide = s.hostSide := by
  unfold State.enableStream
  simp

@[simp] theorem State.disableStream_hostSide (id : BitVec 12) : (s.disableStream id).hostSide = s.hostSide := by
  unfold State.disableStream
  split <;> simp

/-! ### Records of the streams (spec/05) -/

@[simp] theorem State.complete_hostSide (r : PourRec) (st d : Nat) (v : Option Nat) : (s.complete r st d v).hostSide = s.hostSide := by rfl

@[simp] theorem State.settleOwed_hostSide (lead : Arch) (st d : Nat) : (s.settleOwed lead st d).hostSide = s.hostSide := by
  unfold State.settleOwed
  simp

@[simp] theorem State.flushQueue_hostSide (lead : Arch) (st d : Nat) : (s.flushQueue lead st d).hostSide = s.hostSide := by
  unfold State.flushQueue
  simp

@[simp] theorem State.abandonCurrent_hostSide (lead : Arch) : (s.abandonCurrent lead).hostSide = s.hostSide := by
  unfold State.abandonCurrent
  rw [State.modSeqs_hostSide]
  refine foldl_hostSide _ _ s (fun t c => ?_)
  split
  · split <;> rfl
  · rfl

/-! ### Domains (spec/13 R317, spec/18 R416) -/

@[simp] theorem State.straitDown_hostSide (lane : Bool) : (s.straitDown lane).hostSide = s.hostSide := by
  unfold State.straitDown
  simp

@[simp] theorem State.laneStop_hostSide (l : Fin 16) : (s.laneStop l).hostSide = s.hostSide := by
  unfold State.laneStop State.voidLink State.laneReport
  simp

@[simp] theorem State.loseArch_hostSide (a : Arch) : (s.loseArch a).hostSide = s.hostSide := by
  unfold State.loseArch
  simp

@[simp] theorem State.powerOff_hostSide (d : Nat) : (s.powerOff d).hostSide = s.hostSide := by
  unfold State.powerOff State.offIsland State.offArch State.offBank
  simp

@[simp] theorem State.switchOff_hostSide (d : Nat) : (s.switchOff d).hostSide = s.hostSide := by
  unfold State.switchOff
  simp

@[simp] theorem State.tideAbandon_hostSide (a : Arch) : (s.tideAbandon a).hostSide = s.hostSide := by
  unfold State.tideAbandon
  simp

@[simp] theorem State.tideLose_hostSide (a : Arch) : (s.tideLose a).hostSide = s.hostSide := by
  unfold State.tideLose
  simp

@[simp] theorem State.fenceDom_hostSide (d : Nat) : (s.fenceDom d).hostSide = s.hostSide := by
  unfold State.fenceDom
  simp

/-! ### Transitions (spec/18 R422, R423) -/

@[simp] theorem State.stopFrames_hostSide (cause : BitVec 4) : (s.stopFrames cause).hostSide = s.hostSide := by
  unfold State.stopFrames State.leaveFor
  simp

@[simp] theorem State.leaveSafeStop_hostSide : s.leaveSafeStop.hostSide = s.hostSide := by
  unfold State.leaveSafeStop
  simp

/-- The device as a transition finds it: GUARD or SAFE STOP is being left. -/
def State.quits (s : State) : State :=
  let t := if s.mode = .guard then s.stopFrames 8 else s
  if t.mode = .safeStop then t.leaveSafeStop else t

theorem State.quits_hostSide : s.quits.hostSide = s.hostSide := by
  unfold State.quits
  simp

/-- A transition begins in the mode it leaves, and answers nobody. -/
theorem State.startTransition_hostSide (m : Mode) (alarm : Word) :
    (s.startTransition m alarm).hostSide = (s.mode, some m, s.holm.replies) := by
  have h : (s.quits.mode, some m, s.quits.holm.replies) = (s.mode, some m, s.holm.replies) :=
    (congrArg (fun x : Mode × Option Mode × List Reply => (x.1, some m, x.2.2)) s.quits_hostSide :)
  exact (foldl_hostSide _ _ _ (fun t d => t.fenceDom_hostSide d)).trans h

end Sys2Proof.Machine
end

section
/-! PROOF. Accesses of DMA channels and SAFE STOP answer no request of the host (spec/13 R313; spec/14 R341 to R343; spec/18 R423). -/

namespace Sys2Proof.Machine

variable (s : State)

/-! ### Memories (spec/14 R329, R330; spec/16 R378) -/

@[simp] theorem State.hWord_hostSide (w : Nat) : (s.hWord w).2.hostSide = s.hostSide := by
  unfold State.hWord State.hUe
  dsimp only
  split <;> simp

@[simp] theorem State.hWords_hostSide (w k : Nat) : (s.hWords w k).2.hostSide = s.hostSide := by
  induction k generalizing s w with
  | zero => rfl
  | succ k ih => exact (ih ..).trans (s.hWord_hostSide w)

@[simp] theorem State.hPut_hostSide (w v : Nat) : (s.hPut w v).hostSide = s.hostSide := by rfl

/-- What reads a word and stores another. -/
theorem State.hWord_then_hostSide (w : Nat) {f : State → Nat → Status × List Byte × State} {st : Status}
    (hf : ∀ t v, (f t v).2.2.hostSide = t.hostSide) :
    State.hostSide (match s.hWord w with
      | (none, t) => (st, [], t)
      | (some v, t) => f t v : Status × List Byte × State).2.2 = s.hostSide := by
  have h := s.hWord_hostSide w
  generalize s.hWord w = q at h ⊢
  obtain ⟨_ | v, t⟩ := q
  · exact h
  · exact (hf t v).trans h

@[simp] theorem State.harbourAccess_hostSide (vriser : Bool) (op : ReqOp) (addr : PAddr) :
    (s.harbourAccess vriser op addr).2.2.hostSide = s.hostSide := by
  unfold State.harbourAccess
  dsimp only
  split
  · rfl
  · cases op with
    | read len =>
      dsimp only
      split
      · rfl
      · have h := s.hWords_hostSide ((offsetFrom 0x20000000 addr.toNat) / 8)
          ((offsetFrom 0x20000000 addr.toNat + reqLen (.read len) - 1) / 8 - (offsetFrom 0x20000000 addr.toNat) / 8 + 1)
        split <;> simp_all
    | write bs =>
      dsimp only
      split
      · rfl
      · split
        · rfl
        · split
          · rfl
          · exact s.hWord_then_hostSide _ (fun t v => rfl)
    | atomic a v =>
      dsimp only
      split
      · rfl
      · split
        · rfl
        · exact s.hWord_then_hostSide _ (fun t v => rfl)

@[simp] theorem State.harbourServe_hostSide (r : Request) : (s.harbourServe r).2.2.hostSide = s.hostSide := by
  unfold State.harbourServe State.taintReader
  simp

@[simp] theorem State.aliasAt_hostSide (op : ReqOp) (n : CoreId) (o : Nat) : (s.aliasAt op n o).2.2.hostSide = s.hostSide := by
  unfold State.aliasAt
  split
  · rfl
  · split
    · rfl
    · cases op <;> rfl

@[simp] theorem State.mboxReply_hostSide (n : CoreId) (m : MboxMsg) (st : VStatus) : (s.mboxReply n m st).hostSide = s.hostSide := by rfl

@[simp] theorem State.mboxGo_hostSide (n : CoreId) : (s.mboxGo n).hostSide = s.hostSide := by
  unfold State.mboxGo
  split
  · rfl
  · dsimp only
    split <;> rfl

@[simp] theorem State.mboxAreaWrite_hostSide (hc : Bool) (n : CoreId) (area l : Nat) (bs : List Byte) :
    (s.mboxAreaWrite hc n area l bs).2.hostSide = s.hostSide := by
  have hflag : (if area = 1 then s.clearNew n else s.clearValid n).hostSide = s.hostSide := by
    split <;> rfl
  unfold State.mboxAreaWrite
  dsimp only
  split
  · simp only [apply_ite Prod.snd, hostSide_ite, State.mboxGo_hostSide, hostSide_mk, hostSide_fold, ite_self]
  · simp only [apply_ite Prod.snd, hostSide_ite, hflag, hostSide_mk, hostSide_fold, ite_self]

@[simp] theorem State.mboxAccess_hostSide (src : Fin 32) (op : ReqOp) (addr : PAddr) : (s.mboxAccess src op addr).2.2.hostSide = s.hostSide := by
  unfold State.mboxAccess State.mboxWrite
  dsimp only
  split
  · rfl
  · split
    · rfl
    · cases op with
      | read len => dsimp only; split <;> rfl
      | write bs => simp only [apply_ite Prod.snd, hostSide_ite, State.mboxAreaWrite_hostSide, ite_self]
      | atomic a v => rfl

@[simp] theorem State.memAccess_hostSide (r : Request) : (s.memAccess r).2.2.hostSide = s.hostSide := by
  unfold State.memAccess State.aliasAccess
  split
  · rfl
  · split <;> simp

/-! ### Views (spec/01 R24 to R29) -/

@[simp] theorem State.noteLat_hostSide (i : Fin 32) : (s.noteLat i).hostSide = s.hostSide := by rfl

@[simp] theorem State.answerFrom_hostSide (src : End) (r : Request) (st : Status) (data : List Byte) :
    (s.answerFrom src r st data).hostSide = s.hostSide := by
  unfold State.answerFrom State.respondLate
  dsimp only
  split_ifs <;> rfl

@[simp] theorem State.mirror_hostSide (a : Arch) : (s.mirror a).hostSide = s.hostSide := by
  unfold State.mirror
  split <;> rfl

@[simp] theorem State.tellUe_hostSide (a : Arch) : (s.tellUe a).hostSide = s.hostSide := by
  refine foldl_hostSide _ _ s (fun t slot => ?_)
  dsimp only
  split
  · exact (State.modArch_hostSide ..).trans (State.raiseAll_hostSide ..)
  · rfl

@[simp] theorem State.viewSlot1_hostSide (a : Arch) (P : Isl) : (s.viewSlot1 a P).hostSide = s.hostSide := by
  have ha : (s.alsoServed a P).hostSide = s.hostSide := by
    unfold State.alsoServed
    split
    · split <;> rfl
    · rfl
  rw [State.viewSlot1_eq]
  unfold State.slotAnswer
  split
  · split
    · exact ha
    · exact (State.answerFrom_hostSide ..).trans ha
  · exact ha

@[simp] theorem State.serveSlots_hostSide (a : Arch) (P : Isl) (k : Nat) : (s.serveSlots a P k).hostSide = s.hostSide := by
  induction k generalizing s with
  | zero => rfl
  | succ k ih =>
    unfold State.serveSlots
    split
    · rfl
    · exact (ih _).trans (s.viewSlot1_hostSide a P)

@[simp] theorem State.takeView_hostSide (q : Request) : (s.takeView q).2.hostSide = s.hostSide := by
  unfold State.takeView
  split <;> rfl

@[simp] theorem State.viewEnter_hostSide (q : Request) : (s.viewEnter q).hostSide = s.hostSide := by rfl

@[simp] theorem State.lagoonIn_hostSide (a : Arch) (src : Fin 32) (n : Nat) : (s.lagoonIn a src n).hostSide = s.hostSide := by rfl

@[simp] theorem State.viewAccess_hostSide (r : Request) : (s.viewAccess r).2.hostSide = s.hostSide := by
  unfold State.viewAccess
  split
  · exact s.takeView_hostSide _
  · split
    · rfl
    · dsimp only
      split
      · rfl
      · split
        · simp only [State.takeView_hostSide, State.mirror_hostSide, State.tellUe_hostSide, State.serveSlots_hostSide]
          rfl
        · rfl

/-! ### Accesses (spec/13 R313) -/

@[simp] theorem State.accessTimeout_hostSide (r : Request) : (s.accessTimeout r).2.hostSide = s.hostSide := by
  unfold State.accessTimeout State.timeoutIrq
  dsimp only
  split
  · rfl
  · exact State.raiseAll_hostSide ..

@[simp] theorem State.accessExpired_hostSide (r : Request) : (s.accessExpired r).2.hostSide = s.hostSide := by
  unfold State.accessExpired
  dsimp only
  rw [State.accessTimeout_hostSide]
  split
  · exact State.memAccess_hostSide ..
  · rfl

@[simp] theorem State.access_hostSide (r : Request) : (s.access r).2.hostSide = s.hostSide := by
  unfold State.access
  dsimp only
  split
  · exact s.memAccess_hostSide r
  · split
    · exact State.accessTimeout_hostSide ..
    · split
      · exact s.accessExpired_hostSide r
      · split
        · exact s.viewAccess_hostSide r
        · exact State.memAccess_hostSide ..

/-! ### DMA channels (spec/14 R341 to R343) -/

@[simp] theorem State.dmaWrite_hostSide (c : Fin 16) (k a : Nat) (bs : List Byte) : (s.dmaWrite c k a bs).2.2.hostSide = s.hostSide := by
  induction k generalizing s a bs with
  | zero => rfl
  | succ k ih =>
    have h := fun r => s.access_hostSide r
    unfold State.dmaWrite
    split
    · rfl
    · dsimp only
      split <;> rename_i he
      · exact (ih ..).trans ((congrArg (fun q : Got × State => q.2.hostSide) he).symm.trans (h _))
      · exact (congrArg (fun q : Got × State => q.2.hostSide) he).symm.trans (h _)
      · exact (congrArg (fun q : Got × State => q.2.hostSide) he).symm.trans (h _)

@[simp] theorem State.dmaBack_hostSide (c : Fin 16) (o : Nat) (bs : List Byte) : (s.dmaBack c o bs).2.hostSide = s.hostSide := by
  have h := s.dmaWrite_hostSide c 64 ((s.dma[c]).descAddr + o) bs
  unfold State.dmaBack
  split <;> rename_i he <;> rw [he] at h <;> exact h

@[simp] theorem State.dmaStatus_hostSide (c : Fin 16) (st detail off : Nat) : (s.dmaStatus c st detail off).2.hostSide = s.hostSide :=
  s.dmaBack_hostSide c _ _

@[simp] theorem State.dmaFault_hostSide (c : Fin 16) (detail off : Nat) : (s.dmaFault c detail off).hostSide = s.hostSide := by
  rw [State.dmaFault, State.modDma_hostSide, State.dmaStatus_hostSide]

/-- A status word written back, whatever comes of it. -/
theorem State.dmaStatus_then_hostSide (c : Fin 16) (st detail off k0 : Nat) (f : DmaChan → DmaChan) :
    State.hostSide (match s.dmaStatus c st detail off with
      | (some k, t) => t.dmaFault c k k0
      | (none, t) => t.modDma c f) = s.hostSide := by
  have h := s.dmaStatus_hostSide c st detail off
  generalize s.dmaStatus c st detail off = q at h ⊢
  obtain ⟨_ | k, t⟩ := q
  · exact h
  · exact (t.dmaFault_hostSide c k k0).trans h

@[simp] theorem State.dmaComplete_hostSide (c : Fin 16) (d : Desc) : (s.dmaComplete c d).hostSide = s.hostSide := by
  unfold State.dmaComplete
  split
  next e t hq =>
    have h : t.hostSide = s.hostSide := by
      split at hq
      · exact (congrArg (fun q : Option Nat × State => q.2.hostSide) hq).symm.trans (s.dmaBack_hostSide c _ _)
      · exact (congrArg (fun q : Option Nat × State => q.2.hostSide) hq).symm
    cases e with
    | none => exact (t.dmaStatus_then_hostSide c _ _ _ _ _).trans h
    | some k => exact (t.dmaFault_hostSide c k _).trans h

@[simp] theorem State.dmaSettle_hostSide (c : Fin 16) (d : Desc) : (s.dmaSettle c d).hostSide = s.hostSide := by
  unfold State.dmaSettle
  dsimp only
  split
  · split <;> rfl
  · split
    · exact s.dmaFault_hostSide c _ _
    · split
      · exact s.dmaStatus_then_hostSide c _ _ _ _ _
      · split
        · exact s.dmaComplete_hostSide c d
        · rfl

@[simp] theorem State.dmaStopAll_hostSide : s.dmaStopAll.hostSide = s.hostSide := by
  refine foldl_hostSide _ _ s (fun t c => ?_)
  unfold State.dmaEn
  rw [if_neg Bool.false_ne_true]
  split
  · rfl
  · exact State.dmaSettle_hostSide ..
  · rfl

/-! ### SAFE STOP (spec/18 R423) -/

@[simp] theorem State.ringRestart_hostSide (a : Arch) : (s.ringRestart a false).hostSide = s.hostSide := by
  unfold State.ringRestart
  simp

@[simp] theorem State.pinsLeave_hostSide : s.pinsLeave.hostSide = s.hostSide := by
  unfold State.pinsLeave State.portBreak
  simp

/-- The array halted, the streams and channels stopped. -/
def State.stopped (s : State) : State :=
  let s := if s.mode = .guard then s.stopFrames 9 else s
  let leads := s.present.filter (fun a => !(s.streamOf a).isEmpty && decide (s.leadOf a = a))
  let s := leads.foldl (fun t a => ((t.abandonCurrent a).flushQueue a 4 1).settleOwed a 4 1) s
  let s := s.disableAllStreams
  let s : State := { s with pwr := { s.pwr with fence := s.pwr.fence &&& ~~~s.pwr.on } }
  let s := s.present.foldl (fun t a => (t.ringRestart a false).tideAbandon a) s
  (s.jesdStop.dmaStopAll.dynLow).pinsLeave

theorem State.stopped_hostSide : s.stopped.hostSide = s.hostSide := by
  unfold State.stopped State.disableAllStreams State.jesdStop State.dynLow
  simp

/-- SAFE STOP, where it may be entered. -/
theorem State.safeStop_enters {s : State} (h : s.mayStop = true) (data : List Byte) :
    s.safeStop data = State.event { s.stopped with mode := .safeStop, pwr := { s.stopped.pwr with target := none } } .safeStop data := by
  have hc : ¬ (!s.mayStop) = true := by rw [h]; decide
  rw [State.safeStop, if_neg hc]
  rfl

/-- It ends a transition in progress and answers nobody. -/
theorem State.safeStop_hostSide {s : State} (h : s.mayStop = true) (data : List Byte) :
    (s.safeStop data).hostSide = (.safeStop, none, s.holm.replies) := by
  have hr : s.stopped.holm.replies = s.holm.replies := replies_of_hostSide s.stopped_hostSide
  rw [State.safeStop_enters h, State.event_hostSide, hostSide_mk, hr]

end Sys2Proof.Machine
end

section
/-! PROOF. A Vevis request that is heard: from the packet to its command, and from the answer to the reply (spec/17 R395 to R398, R404). -/

namespace Sys2Proof.Machine

/-! ### The state in which a command acts -/

section
variable (s : State) (pk : VPacket)

theorem State.takeFrame_frame : ∃ fs, s.takeFrame pk = { s with holm := { s.holm with frames := fs } } := by
  unfold State.takeFrame
  split <;> exact ⟨_, rfl⟩

/-- Hearing a request changes sessions and frames alone. -/
theorem State.heard_frame : ∃ ss, s.heard pk = { s with holm := { s.holm with sessions := ss, frames := (s.takeFrame pk).holm.frames } } := by
  obtain ⟨fs, h⟩ := s.takeFrame_frame pk
  unfold State.heard
  rw [h]
  exact ⟨_, rfl⟩

/-- What does not read them is as before. -/
theorem State.heard_keep {γ : Type} (g : State → γ) (hg : ∀ ss fs, g { s with holm := { s.holm with sessions := ss, frames := fs } } = g s) :
    g (s.heard pk) = g s := by
  obtain ⟨ss, h⟩ := s.heard_frame pk
  rw [h, hg]

@[simp] theorem State.heard_mode : (s.heard pk).mode = s.mode := s.heard_keep pk State.mode (fun _ _ => rfl)
@[simp] theorem State.heard_arch : (s.heard pk).arch = s.arch := s.heard_keep pk State.arch (fun _ _ => rfl)
@[simp] theorem State.heard_vital : (s.heard pk).vital = s.vital := s.heard_keep pk State.vital (fun _ _ => rfl)
@[simp] theorem State.heard_net : (s.heard pk).net = s.net := s.heard_keep pk State.net (fun _ _ => rfl)
@[simp] theorem State.heard_pwr : (s.heard pk).pwr = s.pwr := s.heard_keep pk State.pwr (fun _ _ => rfl)
@[simp] theorem State.heard_cores : (s.heard pk).cores = s.cores := s.heard_keep pk State.cores (fun _ _ => rfl)
@[simp] theorem State.heard_lanes : (s.heard pk).lanes = s.lanes := s.heard_keep pk State.lanes (fun _ _ => rfl)
@[simp] theorem State.heard_sprue : (s.heard pk).sprue = s.sprue := s.heard_keep pk State.sprue (fun _ _ => rfl)
@[simp] theorem State.heard_harbour : (s.heard pk).harbour = s.harbour := s.heard_keep pk State.harbour (fun _ _ => rfl)
@[simp] theorem State.heard_shore : (s.heard pk).shore = s.shore := s.heard_keep pk State.shore (fun _ _ => rfl)
@[simp] theorem State.heard_txn : (s.heard pk).holm.txn = s.holm.txn := s.heard_keep pk (fun t => t.holm.txn) (fun _ _ => rfl)
@[simp] theorem State.heard_offline : (s.heard pk).holm.offline = s.holm.offline := s.heard_keep pk (fun t => t.holm.offline) (fun _ _ => rfl)
@[simp] theorem State.heard_replies : (s.heard pk).holm.replies = s.holm.replies := s.heard_keep pk (fun t => t.holm.replies) (fun _ _ => rfl)

/-- Beside sessions and replies, the state in which a refused command leaves the device is the one before it. -/
theorem State.heard_quiet (ss : List Session) (rs : List Reply) :
    s.Quiet pk { s.heard pk with holm := { (s.heard pk).holm with sessions := ss, replies := rs } } := by
  obtain ⟨_, h⟩ := s.heard_frame pk
  rw [h]
  rfl

end

/-! ### From the packet to the command -/

section
variable {s : State} {pk : VPacket} {x : Session} {clear data : List Byte}

theorem State.takeFrame_awaited (s : State) (pk : VPacket) (id : Word) : (s.takeFrame pk).awaited id = s.awaited id := by
  obtain ⟨fs, h⟩ := s.takeFrame_frame pk
  rw [h]
  rfl

/-- A packet that is listened to and makes its message whole reaches its command. -/
theorem State.listens_performs (h : s.listens pk x clear) (hw : assemble x.part pk.op pk clear = .whole data) (o : Opcode) :
    s.vevis o pk = (s.heard pk).perform o pk x data := by
  obtain ⟨ha, hh, ho, h0, hs, hc, h47, hq, hn⟩ := h
  have hseq : pk.seq ≠ x.seq := fun e => by
    rw [e] at hq
    exact absurd (BitVec.self_eq_add_right.mp hq) (by decide)
  have hstale : ¬ (decide (pk.sess ≠ 0) && (decide (pk.ctr.toNat ≤ x.ctrIn.toNat) || pk.ctr.getLsbD 47 || decide (pk.seq ≠ x.seq + 1))) = true := by
    rw [h47, decide_eq_false (not_le.mpr hc), decide_eq_false (not_not.mpr hq)]
    simp
  have hbusy : ¬ (decide (pk.sess ≠ 0) && (s.takeFrame pk).awaited pk.sess) = true := by
    rw [State.takeFrame_awaited, hn, Bool.and_false]
    decide
  rw [State.vevis_takes s o pk x clear ha hh h0 hs ho hseq, State.takePacket]
  dsimp only
  rw [if_neg hstale, if_neg hbusy, if_neg h0, hw]
  dsimp only
  rw [if_neg h0]
  rfl

/-- A packet of its own is a whole message. -/
theorem assemble_lone (h0 : pk.frag = 0) (hl : pkLast pk = true) (p : Option (BitVec 16 × Word × List Byte × Nat)) (code : BitVec 16) :
    assemble p code pk clear = .whole clear := by
  have hlone : pkLone pk = true := by
    rw [pkLone, hl, h0]
    rfl
  unfold assemble
  rw [if_pos hlone]

theorem State.hears_performs (h : s.hears pk x data) (o : Opcode) : s.vevis o pk = (s.heard pk).perform o pk x data :=
  State.listens_performs h.1 (assemble_lone h.2.1 h.2.2 ..) o

/-- The roles, the rules of other chapters and the mode let the command run. -/
structure Opcode.Admits (o : Opcode) (u : State) (pk : VPacket) (x : Session) (data : List Byte) : Prop where
  code : pk.op = o.code
  roles : o.need u data &&& ~~~x.roles = 0
  allowed : o.deny data = false
  modes : o.modes u.mode = true

/-- A command that runs to its end: its answer is sent and kept. -/
theorem State.perform_admitted {u : State} {o : Opcode} (h : o.Admits u pk x data) (hh : (o.run u pk x data).held = false) (ha : o.after = stay) :
    u.perform o pk x data = (o.run u pk x data).next.finish pk.peer pk.sess ((o.run u pk x data).sess.getD pk.sess) pk.seq pk.op
      (o.run u pk x data).st (o.run u pk x data).data := by
  obtain ⟨hc, hr, hd, hm⟩ := h
  have h1 : ¬ ((pk.sess ≠ 0 ∧ o.need u data &&& ~~~x.roles ≠ 0) ∨ o.deny data = true) := by simp [hr, hd]
  have h2 : ¬ (!o.modes u.mode) = true := by rw [hm]; decide
  rw [State.perform, if_neg (not_not.mpr hc), if_neg h1, if_neg h2]
  dsimp only
  rw [hh, if_neg Bool.false_ne_true, ha]
  exact ite_self _

/-- The reply to a request: it joins the replies, and beside them only sessions change. -/
theorem State.finish_replies (s : State) (peer : Peer) (sess as seq : Word) (code : BitVec 16) (st : VStatus) (data : List Byte) :
    ∃ r ss, s.finish peer sess as seq code st data = { s with holm := { s.holm with sessions := ss, replies := s.holm.replies ++ [r] } } ∧
      r.peer = peer ∧ r.sess = as ∧ r.seq = seq ∧ r.op = code ∧ r.status = BitVec.ofNat 16 st.code ∧ r.payload = data :=
  ⟨_, _, rfl, rfl, rfl, rfl, rfl, rfl, rfl⟩

/-- The answer of an admitted command reaches the host. Of the state after it sessions and replies are the reply's matter. -/
theorem State.hears.replies {i : Instr} {o : Opcode} {a : Ans} {P : State → List Byte → Prop} (h : s.hears pk x data)
    (hi : exec i s = .next (s.vevis o pk)) (hadm : pk.op = o.code → o.Admits (s.heard pk) pk x data) (ha : o.after = stay)
    (hrun : o.run (s.heard pk) pk x data = a) (hheld : a.held = false) (hsess : a.sess = none) (hrep : a.next.holm.replies = s.holm.replies)
    (hP : ∀ ss rs, P { a.next with holm := { a.next.holm with sessions := ss, replies := rs } } a.data) :
    s.replies i pk o.code a.st.code P := by
  intro hop
  subst hrun
  obtain ⟨r, ss, hf, hpeer, hs, hseq, hcode, hst, hpl⟩ := (o.run (s.heard pk) pk x data).next.finish_replies pk.peer pk.sess
    ((o.run (s.heard pk) pk x data).sess.getD pk.sess) pk.seq pk.op (o.run (s.heard pk) pk x data).st (o.run (s.heard pk) pk x data).data
  refine ⟨_, r, hi, ?_⟩
  rw [State.hears_performs h, State.perform_admitted (hadm hop) hheld ha, hf]
  refine ⟨congrArg (· ++ [r]) hrep, hpeer, ?_, hseq, hcode.trans hop, hst, ?_⟩
  · rw [hs, hsess]
    rfl
  · rw [hpl]
    exact hP ..

end

/-! ### Roles and payloads -/

/-- A role that a session has. -/
theorem role_covers {r : BitVec 6} {k : Nat} (h : r.getLsbD k = true) : (BitVec.twoPow 6 k) &&& ~~~r = 0 := by
  refine BitVec.eq_of_getLsbD_eq (fun i hi => ?_)
  rw [BitVec.getLsbD_and, BitVec.getLsbD_not, BitVec.getLsbD_twoPow]
  by_cases e : k = i
  · subst e; simp [h]
  · simp [e]

/-- Two needs are covered where each is. -/
theorem roles_or {a b r : BitVec 6} (ha : a &&& ~~~r = 0) (hb : b &&& ~~~r = 0) : (a ||| b) &&& ~~~r = 0 := by
  rw [BitVec.and_comm, BitVec.and_or_distrib_left, BitVec.and_comm _ a, BitVec.and_comm _ b, ha, hb]
  rfl

end Sys2Proof.Machine
end

section
/-! PROOF. MODE_SET, SAFE_STOP and VITAL_RESUME (spec/17 R403; spec/18 R422, R423; spec/06 R183). -/

namespace Sys2Proof.Machine

/-! ### Roles of Table 17.2 -/

theorem roleConfig_held {r : BitVec 6} (h : r.getLsbD 1 = true) : roleConfig &&& ~~~r = 0 := role_covers h
theorem roleVital_held {r : BitVec 6} (h : r.getLsbD 2 = true) : roleVital &&& ~~~r = 0 := role_covers h
theorem roleService_held {r : BitVec 6} (h : r.getLsbD 3 = true) : roleService &&& ~~~r = 0 := role_covers h
theorem noRole_held (r : BitVec 6) : (0 : BitVec 6) &&& ~~~r = 0 := BitVec.zero_and

/-- A device that answers is in a served mode. -/
theorem State.hears.served {s : State} {pk : VPacket} {x : Session} {body : List Byte} (h : s.hears pk x body) : s.mode.served = true := by
  obtain ⟨⟨ha, -⟩, -⟩ := h
  rw [State.answers, Bool.and_eq_true, Bool.and_eq_true] at ha
  exact ha.1.1

/-! ### MODE_SET -/

theorem Mode.ofCode_code (m : Mode) : Mode.ofCode m.code = some m := by cases m <;> rfl

/-- The payload that names mode `m`. -/
theorem natAt_modeBody (m : Mode) : natAt (bytesLE 1 m.code ++ [0, 0, 0]) 0 1 = m.code := by cases m <;> rfl

/-- A mode that Table 18.4 lets follow another may be named. -/
theorem Mode.named_of_mayGo {a m : Mode} (h : a.mayGo m = true) : m.named = true := by
  simp only [Mode.mayGo, Bool.or_eq_true, Bool.and_eq_true, decide_eq_true_eq] at h
  rcases h with ((⟨-, hw⟩ | ⟨-, rfl⟩) | ⟨-, rfl | rfl⟩) | ⟨-, rfl⟩
  · rw [Mode.named, hw]
    rfl
  all_goals rfl

/-- The roles that MODE_SET needs for mode `m`. -/
theorem needModeSet_held {u : State} {m : Mode} {r : BitVec 6} (hc : r.getLsbD 1 = true) (hg : m = .guard → r.getLsbD 2 = true)
    (hs : m = .service → r.getLsbD 3 = true) : needModeSet u (bytesLE 1 m.code ++ [0, 0, 0]) &&& ~~~r = 0 := by
  unfold needModeSet
  rw [natAt_modeBody, Mode.ofCode_code]
  refine roles_or (roleConfig_held hc) ?_
  split
  next e => exact roleVital_held (hg (Option.some.inj e))
  next e => exact roleService_held (hs (Option.some.inj e))
  next => exact noRole_held r

/-- MODE_SET begins a transition that nothing bars. -/
theorem runModeSet_begins {u : State} {m : Mode} (pk : VPacket) (x : Session) (hd : m ≠ .dormant) (hs : m ≠ .safeStop) (hm : m ≠ u.mode)
    (hg : u.mode.mayGo m = true) (hr : u.entryRefused m = false) (ht : u.pwr.target = none) (hx : u.holm.txn.st ≠ .accepted) :
    runModeSet u pk x (bytesLE 1 m.code ++ [0, 0, 0]) = (u.startTransition m 0).ok [] := by
  have hb : ¬ (!(bytesLE 1 m.code ++ [0, 0, 0]).isEmpty && (some m).any u.modeBarred) = true := by
    simp [State.modeBarred, Mode.named_of_mayGo hg, hg, hr]
  have hsize : ¬ ((bytesLE 1 m.code ++ [0, 0, 0]).length ≠ if some m = some .dormant then 8 else 4) := by
    rw [if_neg (fun e => hd (Option.some.inj e))]
    exact not_not.mpr rfl
  have hz : ¬ (!zeroAt (bytesLE 1 m.code ++ [0, 0, 0]) 1 3 ||
      (decide (m = .dormant) && decide ((BitVec.ofNat 32 (natAt (bytesLE 1 m.code ++ [0, 0, 0]) 4 4) : Word) = 0))) = true := by
    rw [decide_eq_false hd, Bool.false_and, Bool.or_false]
    exact Bool.false_ne_true
  have hbusy : ¬ (u.pwr.target.isSome = true ∨ u.holm.txn.st = .accepted) := by
    rw [ht]
    exact fun h => h.elim (fun e => Bool.false_ne_true e) hx
  unfold runModeSet
  rw [natAt_modeBody, Mode.ofCode_code]
  dsimp only
  rw [if_neg hb, if_neg hsize, if_neg hz, if_neg hs, if_neg hbusy, if_neg hm]
  rfl

section
variable {s : State} {pk : VPacket} {x : Session} {body : List Byte}

theorem modeSet_begins (h : s.hears pk x body) {m : Mode} (hbody : body = bytesLE 1 m.code ++ [0, 0, 0]) (hd : m ≠ .dormant) (hs : m ≠ .safeStop)
    (hm : m ≠ s.mode) (hg : s.mode.mayGo m = true) (hr : (s.heard pk).entryRefused m = false) (hc : x.roles.getLsbD 1 = true)
    (hv : m = .guard → x.roles.getLsbD 2 = true) (hsv : m = .service → x.roles.getLsbD 3 = true) (ht : s.pwr.target = none)
    (hx : s.holm.txn.st ≠ .accepted) :
    s.replies (.modeSet pk) pk 0x0502 0 (fun t p => p = [] ∧ t.pwr.target = some m ∧ t.mode = s.mode) := by
  subst hbody
  have hside := (s.heard pk).startTransition_hostSide m 0
  have hrun : runModeSet (s.heard pk) pk x (bytesLE 1 m.code ++ [0, 0, 0]) = ((s.heard pk).startTransition m 0).ok [] :=
    runModeSet_begins pk x hd hs (by simpa using hm) (by simpa using hg) hr (by simpa using ht) (by simpa using hx)
  exact h.replies (o := opModeSet) rfl (fun hop => ⟨hop, needModeSet_held (u := s.heard pk) hc hv hsv, rfl, by simpa [opModeSet] using h.served⟩) rfl hrun rfl rfl
    ((replies_of_hostSide hside).trans (s.heard_replies pk))
    (fun _ _ => ⟨rfl, target_of_hostSide hside, (mode_of_hostSide hside).trans (s.heard_mode pk)⟩)

/-! ### SAFE_STOP -/

theorem safeStop_stops (h : s.hears pk x body) (hl : body.length = 2) (hs : s.mayStop = true) :
    s.replies (.safeStop pk) pk 0x0504 0 (fun t p => p = [] ∧ t.mode = .safeStop ∧ t.pwr.target = none ∧ lastEvent t = some (.safeStop, body)) := by
  have hs' : (s.heard pk).mayStop = true := (s.heard_keep pk State.mayStop (fun _ _ => rfl)).trans hs
  have hside := State.safeStop_hostSide hs' body
  have hrun : runSafeStop (s.heard pk) pk x body = ((s.heard pk).safeStop body).ok [] := by
    rw [runSafeStop, hs', Bool.not_true, Bool.and_false, if_neg Bool.false_ne_true, if_neg (not_not.mpr hl)]
  have hev : lastEvent ((s.heard pk).safeStop body) = some (.safeStop, body) := by
    rw [State.safeStop_enters hs']
    exact lastEvent_event ..
  exact h.replies (o := opSafeStop) rfl (fun hop => ⟨hop, noRole_held _, rfl, by simpa [opSafeStop] using h.served⟩) rfl hrun rfl rfl
    ((replies_of_hostSide hside).trans (s.heard_replies pk))
    (fun _ _ => ⟨rfl, mode_of_hostSide hside, target_of_hostSide hside, hev⟩)

/-! ### VITAL_RESUME -/

theorem vitalResume_resumes (h : s.hears pk x body) (hm : s.mode = .guard) (hr : x.roles.getLsbD 2 = true) (hl : body.length = 64)
    (hb : body = s.vital.reportedDigest) :
    s.replies (.vitalResume pk) pk 0x0503 0 (fun t p => p = [] ∧ t.vital = { s.vital with awaitResume := false }) := by
  have hb' : ¬ body ≠ (s.heard pk).vital.reportedDigest := by rw [State.heard_vital]; exact not_not.mpr hb
  have hrun : runVitalResume (s.heard pk) pk x body = ((s.heard pk).modVital (fun v => { v with awaitResume := false })).ok [] := by
    rw [runVitalResume, if_neg (not_not.mpr hl), if_neg hb']
  exact h.replies (o := opVitalResume) rfl
    (fun hop => ⟨hop, roleVital_held hr, rfl, by simpa [opVitalResume] using hm⟩) rfl hrun rfl rfl (s.heard_replies pk)
    (fun _ _ => ⟨rfl, congrArg (fun v : Vital => { v with awaitResume := false }) (s.heard_vital pk)⟩)

end

end Sys2Proof.Machine
end

section
/-! PROOF. STREAM_ENABLE and STREAM_DISABLE (spec/08 R202, R204, R205; spec/06 R183; spec/17 R403, R412). -/

namespace Sys2Proof.Machine

/-! ### Whether an entry is enabled -/

/-- EN of the cached copy of entry `id`. -/
def State.enabledOf (s : State) (id : BitVec 12) : Option Bool := (s.stream? id).map (fun e => e.enabled)

section
variable (s : State)

theorem State.enabledOf_congr {s t : State} (h : t.sprue = s.sprue) (id : BitVec 12) : t.enabledOf id = s.enabledOf id := by
  rw [State.enabledOf, State.stream?, h]
  rfl

/-- The entry found is the one sought. -/
theorem State.stream?_id {s : State} {id : BitVec 12} {e : Stream} (h : s.stream? id = some e) : e.id = id := by
  simpa using List.find?_some h

/-- An update that keeps the indices reaches the entry itself. -/
theorem State.modStream_stream? (id : BitVec 12) {f : Stream → Stream} (hf : ∀ e, (f e).id = e.id) : (s.modStream id f).stream? id = (s.stream? id).map f := by
  have hid : ((fun e : Stream => decide (e.id = id)) ∘ fun e => if e.id = id then f e else e) = fun e => decide (e.id = id) := by
    funext e
    by_cases h : e.id = id <;> simp [h, hf]
  rw [State.stream?, State.modStream, List.find?_map, hid]
  change Option.map _ (s.stream? id) = _
  cases h : s.stream? id with
  | none => rfl
  | some e => simp [State.stream?_id h]

/-- One that keeps EN leaves what is enabled. -/
theorem State.modStream_enabledOf (id : BitVec 12) {f : Stream → Stream} (hi : ∀ e, (f e).id = e.id) (he : ∀ e, (f e).enabled = e.enabled) :
    (s.modStream id f).enabledOf id = s.enabledOf id := by
  rw [State.enabledOf, s.modStream_stream? id hi, Option.map_map]
  exact congrArg (fun g => (s.stream? id).map g) (funext he)

/-! ### Writes to the stream table leave the sprue -/

@[simp] theorem State.sendPosted_sprue (h : BitVec 128) : (s.sendPosted h).2.sprue = s.sprue := by
  unfold State.sendPosted
  dsimp only
  split <;> rfl

@[simp] theorem State.tablePut_sprue (off : Nat) (bs : List Byte) : (s.tablePut off bs).sprue = s.sprue := by
  unfold State.tablePut
  dsimp only
  split
  · exact s.sendPosted_sprue _
  · split <;> exact s.sendPosted_sprue _

@[simp] theorem State.putEntryWord0_sprue (id : BitVec 12) (w : Word) : (s.putEntryWord0 id w).sprue = s.sprue := by
  unfold State.putEntryWord0
  split
  · exact s.tablePut_sprue ..
  · rfl

@[simp] theorem State.writeBack_sprue (id : BitVec 12) : (s.writeBack id).sprue = s.sprue := by
  unfold State.writeBack
  split
  · exact s.tablePut_sprue ..
  · rfl

/-- Keeping EN in the committed object changes the Holm's record of it alone. -/
theorem State.keepEn_frame (id : BitVec 12) (en : Bool) : ∃ m, s.keepEn id en = { s with holm := { s.holm with streamObj := m } } := by
  unfold State.keepEn
  dsimp only
  split <;> exact ⟨_, rfl⟩

@[simp] theorem State.keepEn_hostSide (id : BitVec 12) (en : Bool) : (s.keepEn id en).hostSide = s.hostSide := by
  obtain ⟨_, h⟩ := s.keepEn_frame id en
  rw [h]
  rfl

theorem State.keepEn_enabledOf (i id : BitVec 12) (en : Bool) : (s.keepEn i en).enabledOf id = s.enabledOf id := by
  obtain ⟨_, h⟩ := s.keepEn_frame i en
  rw [h]
  rfl

/-! ### Frames keep EN -/

theorem Stream.endFrame_id (e : Stream) (cause : Option (BitVec 3)) : (e.endFrame cause).id = e.id := by
  unfold Stream.endFrame
  dsimp only
  split
  · rfl
  · split <;> rfl

theorem State.frameStart_enabledOf (id : BitVec 12) : (s.frameStart id).enabledOf id = s.enabledOf id := by
  have hlost : ∀ p : Prop, ∀ _ : Decidable p, (if p then s.overrunReport id else s).enabledOf id = s.enabledOf id := fun p _ => by
    split <;> rfl
  unfold State.frameStart
  change (State.modStream _ id _).enabledOf id = _
  rw [State.modStream_enabledOf]
  · exact hlost ..
  · exact fun _ => rfl
  · exact fun _ => rfl

/-- A frame's end leaves the entry in the cache. -/
theorem State.frameEnd_stream? {id : BitVec 12} {e : Stream} (h : s.stream? id = some e) (cause : Option (BitVec 3)) :
    ∃ e', (s.frameEnd id cause).stream? id = some e' := by
  unfold State.frameEnd
  rw [h]
  dsimp only
  split
  · exact ⟨e, h⟩
  · generalize cause.or (if e.crcBad = true then some 3 else none) = c
    have hmod := s.modStream_stream? id (fun x => x.endFrame_id c)
    rw [h] at hmod
    refine ⟨e.endFrame c, ?_⟩
    rw [State.stream?, State.writeBack_sprue]
    split <;> exact hmod

/-! ### Enabling and disabling -/

/-- An entry that enters the cache is found there. -/
theorem Sprue.put_find (p : Sprue) (e : Stream) : (p.put e).cache.find? (fun x => decide (x.id = e.id)) = some e := by
  simp [Sprue.put]

/-- Use moves an entry within the cache. -/
theorem Sprue.touch_find (p : Sprue) (id : BitVec 12) :
    (p.touch id).cache.find? (fun x => decide (x.id = id)) = p.cache.find? (fun x => decide (x.id = id)) := by
  have hrest : (p.cache.filter (fun e => decide (e.id ≠ id))).find? (fun x => decide (x.id = id)) = none :=
    List.find?_eq_none.mpr (fun e he h => of_decide_eq_true (List.mem_filter.mp he).2 (of_decide_eq_true h))
  rw [Sprue.touch, List.find?_append, hrest, Option.or_none, List.find?_filter]
  simp

theorem State.enableStream_enabledOf (id : BitVec 12) (cfg : Vector Word 10) : (s.enableStream id cfg).enabledOf id = some true := by
  have hput : ∀ e : Stream, e.id = id → e.enabled = true →
      (State.putEntryWord0 { s with sprue := s.sprue.put e } id (vmod cfg 0 (fun w => w ||| 0x1000))[0]).enabledOf id = some true := by
    rintro e rfl hen
    rw [State.enabledOf_congr (State.putEntryWord0_sprue ..), State.enabledOf, State.stream?, Sprue.put_find, Option.map_some, hen]
  unfold State.enableStream
  dsimp only
  rw [apply_ite (State.enabledOf · id), State.frameStart_enabledOf]
  exact (ite_self _).trans (hput _ rfl rfl)

theorem State.disableStream_enabledOf {id : BitVec 12} {e : Stream} (h : s.stream? id = some e) (hen : e.enabled = true) :
    (s.disableStream id).enabledOf id = some false := by
  obtain ⟨e', he'⟩ := s.frameEnd_stream? h (some 1)
  unfold State.disableStream
  rw [h]
  dsimp only
  rw [if_neg (by rw [hen]; decide), State.enabledOf_congr (State.writeBack_sprue ..), State.enabledOf_congr (State.putEntryWord0_sprue ..),
    State.enabledOf, State.stream?, Sprue.touch_find]
  have hmod := (s.frameEnd id (some 1)).modStream_stream? id
    (f := fun x => { x with enabled := false, cfg := vset x.cfg 0 (e.cfg[0] &&& 0xFFFFEFFF) }) (fun _ => rfl)
  rw [he'] at hmod
  exact congrArg (Option.map fun e : Stream => e.enabled) hmod

end

/-! ### The commands -/

/-- The payload that names entry `id`. -/
theorem natAt_streamBody (id : BitVec 12) : natAt (bytesLE 2 id.toNat ++ [0, 0]) 0 2 = id.toNat :=
  (natAt_mid [] [0, 0] 0 2 id.toNat rfl).trans (Nat.mod_eq_of_lt (id.isLt.trans (by decide)))

theorem indexOf_streamBody (id : BitVec 12) : indexOf (bytesLE 2 id.toNat ++ [0, 0]) = (.ok, id) := by
  have hlen : (bytesLE 2 id.toNat ++ [0, 0]).length = 4 := rfl
  have hrange : ¬ (4095 < id.toNat ∨ (!zeroAt (bytesLE 2 id.toNat ++ [0, 0]) 2 2) = true) := fun h =>
    h.elim (fun hlt => absurd id.isLt (by omega)) (fun hz => Bool.false_ne_true hz)
  unfold indexOf
  rw [natAt_streamBody, if_neg (not_not.mpr hlen), if_neg hrange, BitVec.ofNat_toNat, BitVec.setWidth_eq]

/-- A command for an entry that no rule bars, no transaction staging it. -/
theorem runStream_acts {u : State} {bad : State → BitVec 12 → Bool} {id : BitVec 12} (act : State → BitVec 12 → Ans) (pk : VPacket) (x : Session)
    (hp : u.vital.par.pairs = 0) (ht : u.holm.txn.st = .none) (hb : bad u id = false) :
    runStream bad act u pk x (bytesLE 2 id.toNat ++ [0, 0]) = act u id := by
  have hopen : u.holm.txn.isOpen = false := by rw [Txn.isOpen, ht]; rfl
  have hacc : u.holm.txn.st ≠ .accepted := by rw [ht]; decide
  unfold runStream
  rw [indexOf_streamBody]
  dsimp only
  rw [if_neg (fun h => h.1 hp), hb, if_neg Bool.false_ne_true, if_neg (fun h => hacc h.2),
    if_neg (fun h => Bool.false_ne_true (hopen.symm.trans h.2))]

section
variable {s : State} {pk : VPacket} {x : Session} {body : List Byte} {id : BitVec 12} {e : Stream}

theorem State.heard_stream? (s : State) (pk : VPacket) (id : BitVec 12) : (s.heard pk).stream? id = s.stream? id :=
  s.heard_keep pk (State.stream? · id) (fun _ _ => rfl)

/-- A cached entry's configuration is the cached copy's. -/
theorem State.entryCfg_cached {u : State} (he : u.stream? id = some e) : u.entryCfg id = (some e.cfg, u) := by
  unfold State.entryCfg
  rw [he]

theorem streamEnable_enables (h : s.hears pk x body) (hr : x.roles.getLsbD 1 = true) (hbody : body = bytesLE 2 id.toNat ++ [0, 0])
    (hp : s.vital.par.pairs = 0) (ht : s.holm.txn.st = .none) (he : s.stream? id = some e) (hm : s.mode.txnServed = true) (hen : e.enabled = false)
    (hok : (s.heard pk).entryOk (Stream.fresh id (vmod e.cfg 0 (fun w => w ||| 0x1000))) (s.sprue.cache.filter (fun e => e.enabled)) = true) :
    s.replies (.streamEnable pk) pk 0x0602 0 (fun t p => p = [] ∧ (t.stream? id).map (fun e => e.enabled) = some true) := by
  subst hbody
  have he' : (s.heard pk).stream? id = some e := (s.heard_stream? pk id).trans he
  have hoff : ¬ ((s.heard pk).stream? id).any (fun e => e.enabled) = true := by
    rw [he', Option.any_some, hen]
    exact Bool.false_ne_true
  have hbad : (s.heard pk).enableBad id = false := by
    rw [State.enableBad, State.entryCfg_cached he']
    dsimp only
    rw [State.heard_sprue, hok, Bool.not_true, Bool.and_false]
  have hact : (s.heard pk).enableCmd id = (((s.heard pk).enableStream id e.cfg).keepEn id true).ok [] := by
    rw [State.enableCmd, if_neg hoff, State.entryCfg_cached he']
  have hside : (((s.heard pk).enableStream id e.cfg).keepEn id true).hostSide = (s.heard pk).hostSide :=
    (State.keepEn_hostSide ..).trans (State.enableStream_hostSide ..)
  have hon : (((s.heard pk).enableStream id e.cfg).keepEn id true).enabledOf id = some true :=
    (State.keepEn_enabledOf ..).trans (State.enableStream_enabledOf ..)
  exact h.replies (o := opStreamEnable) rfl (fun hop => ⟨hop, roleConfig_held hr, rfl, by simpa [opStreamEnable] using hm⟩) rfl
    ((runStream_acts _ pk x (by simpa using hp) (by simpa using ht) hbad).trans hact) rfl rfl
    ((replies_of_hostSide hside).trans (s.heard_replies pk)) (fun _ _ => ⟨rfl, hon⟩)

theorem streamDisable_disables (h : s.hears pk x body) (hr : x.roles.getLsbD 1 = true) (hbody : body = bytesLE 2 id.toNat ++ [0, 0])
    (hp : s.vital.par.pairs = 0) (ht : s.holm.txn.st = .none) (he : s.stream? id = some e) (hm : s.mode.txnServed = true) (hen : e.enabled = true) :
    s.replies (.streamDisable pk) pk 0x0603 0 (fun t p => p = [] ∧ (t.stream? id).map (fun e => e.enabled) = some false) := by
  subst hbody
  have he' : (s.heard pk).stream? id = some e := (s.heard_stream? pk id).trans he
  have hside : (((s.heard pk).disableStream id).keepEn id false).hostSide = (s.heard pk).hostSide :=
    (State.keepEn_hostSide ..).trans (State.disableStream_hostSide ..)
  have hoff : (((s.heard pk).disableStream id).keepEn id false).enabledOf id = some false :=
    (State.keepEn_enabledOf ..).trans (State.disableStream_enabledOf _ he' hen)
  exact h.replies (o := opStreamDisable) rfl (fun hop => ⟨hop, roleConfig_held hr, rfl, by simp [opStreamDisable, hm]⟩) rfl
    (runStream_acts (bad := fun _ _ => false) (fun t id => ((t.disableStream id).keepEn id false).ok []) pk x (by simpa using hp) (by simpa using ht) rfl)
    rfl rfl
    ((replies_of_hostSide hside).trans (s.heard_replies pk)) (fun _ _ => ⟨rfl, hoff⟩)

end

theorem vevisModesRule_holds : vevisModesRule := fun _ _ _ _ h =>
  ⟨fun _ hbody hd hs hm hg hr hc hv hsv ht hx => modeSet_begins h hbody hd hs hm hg hr hc hv hsv ht hx,
    safeStop_stops h, vitalResume_resumes h,
    fun _ _ hr hbody hp ht he hm => ⟨streamEnable_enables h hr hbody hp ht he hm, streamDisable_disables h hr hbody hp ht he hm⟩⟩

end Sys2Proof.Machine
end

section
/-! PROOF. SELFTEST, TIDE_CTL and CAPTURE (spec/17 R403, R414, Table 17.8; spec/19 R446; spec/15 R372). -/

namespace Sys2Proof.Machine

/-! ### Payloads of four bytes -/

theorem natAt_first (c k : Byte) : natAt [c, k, 0, 0] 0 1 = c.toNat := natAt_byte [] _ c 0 rfl
theorem natAt_second (c k : Byte) : natAt [c, k, 0, 0] 1 1 = k.toNat := natAt_byte [c] _ k 1 rfl
theorem zeroAt_rest (c k : Byte) : (!zeroAt [c, k, 0, 0] 2 2) = false := rfl

/-- A number that one byte carries. -/
theorem toNat_byte {k : Nat} (h : k < 256) : (BitVec.ofNat 8 k).toNat = k := Nat.mod_eq_of_lt h

section
variable {s : State} {pk : VPacket} {x : Session} {body : List Byte}

/-! ### SELFTEST -/

/-- The roles of a self-test beside the offline test. -/
theorem needSelftest_held {u : State} {r : BitVec 6} {data : List Byte} (hc : r.getLsbD 1 = true) (h3 : natAt data 0 1 = 3 → r.getLsbD 3 = true) :
    needSelftest u data &&& ~~~r = 0 := by
  refine roles_or (roleConfig_held hc) ?_
  split
  · exact roleService_held (h3 ‹_›)
  · exact noRole_held r

/-- How many items class `cls` of Table 17.8 numbers. -/
def selftestItems (cls : Nat) : Nat := match cls with | 0 => 4 | 1 => 16 | 2 => 16 | 3 => 256 | _ => 0

/-- What SELFTEST does for class `cls` and item `k`. -/
def State.selftestAct (s : State) (cls k : Nat) : Ans :=
  match cls with
  | 0 => if s.coreTesting then s.no .busy else (s.testCore (ix 4 k)).acc []
  | 1 => s.testReport k
  | 2 => s.recalCmd (ix 16 k)
  | _ => if s.holm.offline then s.no .busy else State.acc { s with holm := { s.holm with offline := true } } []

/-- The payload that names an item of a class, where nothing bars it. -/
theorem runSelftest_valid {u : State} {c k : Byte} {cls i : Nat} (hc : c.toNat = cls) (hk : k.toNat = i) (hb : u.selftestBarred cls i = false)
    (hi : i < selftestItems cls) : runSelftest u pk x [c, k, 0, 0] = u.selftestAct cls i := by
  have hlen : [c, k, 0, 0].length = 4 := rfl
  have hrange : ¬ (selftestItems cls ≤ i ∨ (!zeroAt [c, k, 0, 0] 2 2) = true) := fun h => h.elim (not_le.mpr hi) (fun h => Bool.false_ne_true h)
  unfold runSelftest
  rw [natAt_first, natAt_second, hc, hk]
  dsimp only
  rw [hb, if_neg Bool.false_ne_true, if_neg (not_not.mpr hlen)]
  exact if_neg hrange

/-- A self-test that begins is answered ACCEPTED. -/
theorem selftest_replies {i : Instr} {P : State → List Byte → Prop} {c k : Byte} {cls m : Nat} {t : State} (hi : exec i s = .next (s.vevis opSelftest pk))
    (h : s.hears pk x [c, k, 0, 0]) (hr : x.roles.getLsbD 1 = true) (h3 : cls = 3 → x.roles.getLsbD 3 = true) (hc : c.toNat = cls) (hk : k.toNat = m)
    (hm : m < selftestItems cls) (hb : (s.heard pk).selftestBarred cls m = false) (hact : (s.heard pk).selftestAct cls m = t.acc [])
    (hrep : t.holm.replies = (s.heard pk).holm.replies) (hP : ∀ ss rs, P { t with holm := { t.holm with sessions := ss, replies := rs } } []) :
    s.replies i pk 0x0701 1 P :=
  h.replies (o := opSelftest) hi
    (fun hop => ⟨hop, needSelftest_held (u := s.heard pk) hr (fun e => h3 (hc.symm.trans ((natAt_first c k).symm.trans e))), rfl,
      by simpa [opSelftest] using h.served⟩)
    rfl ((runSelftest_valid (pk := pk) (x := x) hc hk hb hm).trans hact) rfl rfl (hrep.trans (s.heard_replies pk)) hP

theorem selftestCore_accepted (h : s.hears pk x body) (hr : x.roles.getLsbD 1 = true) {n : CoreId} (hbody : body = [0, BitVec.ofNat 8 n.val, 0, 0])
    (hon : s.pwr.on.getLsbD (304 + n.val) = true) (hv : s.mode = .guard → s.vital.par.vcore.toNat ≠ n.val) (ht : s.coreTesting = false) :
    s.replies (.selftestCore pk) pk 0x0701 1 (fun t p => p = [] ∧ t.cores = s.cores.set n.val { s.cores[n] with selftest := true }) := by
  subst hbody
  have hbar : (s.heard pk).selftestBarred 0 n.val = false := by simpa [State.selftestBarred, hon] using hv
  have hact : (s.heard pk).selftestAct 0 n.val = ((s.heard pk).testCore n).acc [] := by
    have ht' : (s.heard pk).coreTesting = false := (s.heard_keep pk State.coreTesting (fun _ _ => rfl)).trans ht
    rw [State.selftestAct, ht', if_neg Bool.false_ne_true, ix_val]
  exact selftest_replies (cls := 0) rfl h hr (fun e => absurd e (by decide)) rfl (toNat_byte (by omega)) n.isLt hbar hact rfl
    (fun _ _ => ⟨rfl, congrArg (fun cs : Vector Core 4 => vmod cs n (fun c => { c with selftest := true })) (s.heard_cores pk)⟩)

theorem selftestLaneRecal_accepted (h : s.hears pk x body) (hr : x.roles.getLsbD 1 = true) {l : Fin 16} (hbody : body = [2, BitVec.ofNat 8 l.val, 0, 0])
    (hoff : (fld (s.lanes[l]).lcfg 0 3 : BitVec 3) = 0) (hq : (s.lanes[l]).recal = false) :
    s.replies (.selftestLaneRecal pk) pk 0x0701 1 (fun t p => p = [] ∧ t.lanes = s.lanes.set l.val { s.lanes[l] with recal := true }) := by
  subst hbody
  have hact : (s.heard pk).selftestAct 2 l.val = ((s.heard pk).modLane l (fun y => { y with recal := true })).acc [] := by
    have hfree : ¬ ((fld ((s.heard pk).lanes[l]).lcfg 0 3 : BitVec 3) ≠ 0 ∨ ((s.heard pk).lanes[l]).recal = true) := by
      rw [State.heard_lanes, hoff, hq]
      simp
    rw [State.selftestAct, ix_val, State.recalCmd, if_neg hfree]
  exact selftest_replies (cls := 2) rfl h hr (fun e => absurd e (by decide)) rfl (toNat_byte (by omega)) l.isLt rfl hact rfl
    (fun _ _ => ⟨rfl, congrArg (fun ls : Vector Lane 16 => vmod ls l (fun y => { y with recal := true })) (s.heard_lanes pk)⟩)

theorem selftestOffline_accepted (h : s.hears pk x body) (hr : x.roles.getLsbD 1 = true) (hs : x.roles.getLsbD 3 = true) {n : BitVec 8}
    (hbody : body = [3, n, 0, 0]) (hm : s.mode = .service) (ho : s.holm.offline = false) :
    s.replies (.selftestOffline pk) pk 0x0701 1 (fun t p => p = [] ∧ t.holm.offline = true) := by
  subst hbody
  have hbar : (s.heard pk).selftestBarred 3 n.toNat = false := by simp [State.selftestBarred, hm]
  have hact : (s.heard pk).selftestAct 3 n.toNat = State.acc { s.heard pk with holm := { (s.heard pk).holm with offline := true } } [] := by
    rw [State.selftestAct, State.heard_offline, ho, if_neg Bool.false_ne_true]
    · decide
    · decide
    · decide
  exact selftest_replies (cls := 3) rfl h hr (fun _ => hs) rfl rfl n.isLt hbar hact rfl (fun _ _ => ⟨rfl, rfl⟩)

/-! ### TIDE_CTL -/

@[simp] theorem State.tideSuspend_hostSide (s : State) (a : Arch) : (s.tideSuspend a).hostSide = s.hostSide := by
  unfold State.tideSuspend
  refine (State.modArch_hostSide ..).trans ?_
  simp

@[simp] theorem State.tideStart_hostSide (s : State) (a : Arch) : (s.tideStart a).hostSide = s.hostSide := by
  unfold State.tideStart
  dsimp only
  split <;> rfl

/-- What TIDE_CTL does with command `cmd` on archipelago `a`. -/
def State.tideAct (s : State) (a : Arch) (cmd : Nat) : State :=
  match cmd with | 1 => s.tideSuspend a | 2 => s.tideResume a | 3 => s.tideStart a | _ => s

section
variable {a : Arch} {cmd : Nat}

/-- The payload that names an archipelago that is present and a command of TIDE_CTL. -/
theorem runTideCtl_valid {u : State} (hp : u.present.contains a = true) (hc : cmd ≤ 3) :
    runTideCtl u pk x [BitVec.ofNat 8 a.val, BitVec.ofNat 8 cmd, 0, 0] =
      if cmd = 3 ∧ u.tideBusy a then u.no .busy else (u.tideAct a cmd).ok ((u.tideAct a cmd).tideReply a) := by
  have hk : (BitVec.ofNat 8 a.val).toNat = a.val := toNat_byte (by omega)
  have hcmd : (BitVec.ofNat 8 cmd).toNat = cmd := toNat_byte (by omega)
  have hbad : ¬ (7 < a.val ∨ (!u.present.contains a) = true ∨ 3 < cmd ∨ (!zeroAt [BitVec.ofNat 8 a.val, BitVec.ofNat 8 cmd, 0, 0] 2 2) = true) := by
    rw [zeroAt_rest, hp]
    simp
    omega
  have hlen : [BitVec.ofNat 8 a.val, BitVec.ofNat 8 cmd, 0, 0].length = 4 := rfl
  unfold runTideCtl
  rw [natAt_first, natAt_second, hk, hcmd]
  dsimp only
  rw [ix_val, if_neg (not_not.mpr hlen), if_neg hbad]
  rfl

/-- A command of TIDE_CTL that is not refused is answered with the registers of the tide. -/
theorem tideCtl_replies {i : Instr} {P : State → Prop} (hi : exec i s = .next (s.vevis opTideCtl pk)) (h : s.hears pk x body) (hr : x.roles.getLsbD 1 = true)
    (hp : s.present.contains a = true) (hbody : body = [BitVec.ofNat 8 a.val, BitVec.ofNat 8 cmd, 0, 0]) (hc : cmd ≤ 3)
    (hb : cmd = 3 → (s.heard pk).tideBusy a = false) (hside : ((s.heard pk).tideAct a cmd).hostSide = (s.heard pk).hostSide)
    (hP : ∀ ss rs, P { (s.heard pk).tideAct a cmd with holm := { ((s.heard pk).tideAct a cmd).holm with sessions := ss, replies := rs } }) :
    s.replies i pk 0x0702 0 (fun t p => p = t.tideReply a ∧ P t) := by
  subst hbody
  have hp' : (s.heard pk).present.contains a = true := (congrArg (·.contains a) (s.heard_keep pk State.present (fun _ _ => rfl))).trans hp
  have hfree : ¬ (cmd = 3 ∧ (s.heard pk).tideBusy a = true) := fun e => Bool.false_ne_true ((hb e.1).symm.trans e.2)
  have hrun : runTideCtl (s.heard pk) pk x [BitVec.ofNat 8 a.val, BitVec.ofNat 8 cmd, 0, 0] =
      ((s.heard pk).tideAct a cmd).ok (((s.heard pk).tideAct a cmd).tideReply a) := by rw [runTideCtl_valid hp' hc, if_neg hfree]
  exact h.replies (o := opTideCtl) hi (fun hop => ⟨hop, roleConfig_held hr, rfl, by simpa [opTideCtl] using h.served⟩) rfl hrun rfl rfl
    ((replies_of_hostSide hside).trans (s.heard_replies pk)) (fun _ _ => ⟨rfl, hP ..⟩)

/-- What is changed in the tide of `a` reads back. -/
theorem State.modTide_tide (s : State) (a : Arch) (f : TideSt → TideSt) : ((s.modTide a f).arch[a]).tide = f (s.arch[a]).tide :=
  congrArg ArchSt.tide (vmod_at ..)

theorem State.tideSuspend_susp (s : State) (a : Arch) : ((s.tideSuspend a).arch[a]).tide.susp = true := by
  unfold State.tideSuspend
  rw [State.modTide_tide]

theorem tideSuspend_suspends (h : s.hears pk x body) (hr : x.roles.getLsbD 1 = true) (hp : s.present.contains a = true)
    (hbody : body = [BitVec.ofNat 8 a.val, 1, 0, 0]) :
    s.replies (.tideSuspend pk) pk 0x0702 0 (fun t p => p = t.tideReply a ∧ (t.arch[a]).tide.susp = true) :=
  tideCtl_replies (P := fun t => (t.arch[a]).tide.susp = true) (cmd := 1) rfl h hr hp hbody (by decide) (fun e => absurd e (by decide))
    (State.tideSuspend_hostSide ..) (fun _ _ => (s.heard pk).tideSuspend_susp a)

theorem State.tideResume_tide (s : State) (a : Arch) : ((s.tideResume a).arch[a]).tide = { (s.arch[a]).tide with susp := false } :=
  s.modTide_tide a _

theorem tideResume_resumes (h : s.hears pk x body) (hr : x.roles.getLsbD 1 = true) (hp : s.present.contains a = true)
    (hbody : body = [BitVec.ofNat 8 a.val, 2, 0, 0]) :
    s.replies (.tideResume pk) pk 0x0702 0 (fun t p => p = t.tideReply a ∧ (t.arch[a]).tide = { (s.arch[a]).tide with susp := false }) :=
  tideCtl_replies (P := fun t => (t.arch[a]).tide = { (s.arch[a]).tide with susp := false }) (cmd := 2) rfl h hr hp hbody (by decide)
    (fun e => absurd e (by decide)) rfl
    (fun _ _ => ((s.heard pk).tideResume_tide a).trans (by rw [State.heard_arch]))

theorem State.heard_tideBusy (s : State) (pk : VPacket) (a : Arch) : (s.heard pk).tideBusy a = s.tideBusy a :=
  s.heard_keep pk (State.tideBusy · a) (fun _ _ => rfl)

theorem tideStepNow_busy (h : s.hears pk x body) (hr : x.roles.getLsbD 1 = true) (hp : s.present.contains a = true)
    (hbody : body = [BitVec.ofNat 8 a.val, 3, 0, 0]) (hs : (s.arch[a]).tide.susp = true) :
    s.replies (.tideStepNow pk) pk 0x0702 0x0302 (fun t p => p = [] ∧ s.Quiet pk t) := by
  subst hbody
  have hp' : (s.heard pk).present.contains a = true := (congrArg (·.contains a) (s.heard_keep pk State.present (fun _ _ => rfl))).trans hp
  have hb : (s.heard pk).tideBusy a = true := by rw [State.heard_tideBusy, State.tideBusy, hs, Bool.true_or]
  have hrun : runTideCtl (s.heard pk) pk x [BitVec.ofNat 8 a.val, 3, 0, 0] = (s.heard pk).no .busy :=
    (runTideCtl_valid (cmd := 3) hp' (by decide)).trans (if_pos ⟨rfl, hb⟩)
  exact h.replies (o := opTideCtl) rfl (fun hop => ⟨hop, roleConfig_held hr, rfl, by simpa [opTideCtl] using h.served⟩) rfl hrun rfl rfl
    (s.heard_replies pk) (fun _ _ => ⟨rfl, s.heard_quiet pk ..⟩)

theorem tideStepNow_starts (h : s.hears pk x body) (hr : x.roles.getLsbD 1 = true) (hp : s.present.contains a = true)
    (hbody : body = [BitVec.ofNat 8 a.val, 3, 0, 0]) (hs : (s.arch[a]).tide.susp = false) (h0 : (s.arch[a]).tide.phase = 0) (ht : s.tideRuns a = true) :
    s.replies (.tideStepNow pk) pk 0x0702 0 (fun t p => p = t.tideReply a ∧ (t.arch[a]).tide.phase = 1) := by
  have ht' : (s.heard pk).tideRuns a = true := (s.heard_keep pk (State.tideRuns · a) (fun _ _ => rfl)).trans ht
  have hb : (s.heard pk).tideBusy a = false := by
    rw [State.heard_tideBusy, State.tideBusy, hs, h0]
    rfl
  have hphase : (((s.heard pk).tideStart a).arch[a]).tide.phase = 1 := by
    obtain ⟨t, hnext, hone, -⟩ := tideStepStart_powers ht' (by simpa using hs) (by simpa using h0)
    have he : exec (.tideStepStart a) (s.heard pk) = .next ((s.heard pk).tideStart a) := rfl
    rw [Host.Outcome.next.inj (he.symm.trans hnext)]
    exact hone
  exact tideCtl_replies (P := fun t => (t.arch[a]).tide.phase = 1) (cmd := 3) rfl h hr hp hbody (by decide) (fun _ => hb)
    (State.tideStart_hostSide ..) (fun _ _ => hphase)

end

/-! ### CAPTURE -/

/-- The payload that arms a capture at a count. -/
theorem natAt_captureCount (g e : Byte) {n : Nat} (h : n ≤ 2 ^ 24) : natAt ([g, e, 0, 0] ++ bytesLE 4 n) 4 4 = n := by
  have hmid := natAt_mid [g, e, 0, 0] [] 4 4 n rfl
  rw [List.append_nil] at hmid
  exact hmid.trans (Nat.mod_eq_of_lt (by omega))

theorem capture_arms (h : s.hears pk x body) (hr : x.roles.getLsbD 3 = true) {g : Fin 8} {e : Bool} {n : Nat} (hn : 0 < n) (hmax : n ≤ 2 ^ 24)
    (hm : s.mode.captureServed = true) (hc : s.shore.capArmed = none) (hbody : body = [BitVec.ofNat 8 g.val, BitVec.ofNat 8 e.toNat, 0, 0] ++ bytesLE 4 n) :
    s.replies (.capture pk) pk 0x0704 0 (fun t p => p = [] ∧ t.shore.capture = none ∧
      t.shore.capArmed = some { gck := BitVec.ofNat 3 g.val, falling := e, count := some n, trg := 0 }) := by
  subst hbody
  have hlen : ([BitVec.ofNat 8 g.val, BitVec.ofNat 8 e.toNat, 0, 0] ++ bytesLE 4 n).length = 8 := by simp [bytesLE_length]
  have hg : natAt ([BitVec.ofNat 8 g.val, BitVec.ofNat 8 e.toNat, 0, 0] ++ bytesLE 4 n) 0 1 = g.val :=
    (natAt_byte [] _ _ 0 rfl).trans (toNat_byte (by omega))
  have he : natAt ([BitVec.ofNat 8 g.val, BitVec.ofNat 8 e.toNat, 0, 0] ++ bytesLE 4 n) 1 1 = e.toNat :=
    (natAt_byte [_] _ _ 1 rfl).trans (toNat_byte (e.toNat_le.trans_lt (by decide)))
  have hkind : natAt ([BitVec.ofNat 8 g.val, BitVec.ofNat 8 e.toNat, 0, 0] ++ bytesLE 4 n) 2 1 = 0 := natAt_byte [_, _] _ 0 2 rfl
  have htrg : natAt ([BitVec.ofNat 8 g.val, BitVec.ofNat 8 e.toNat, 0, 0] ++ bytesLE 4 n) 3 1 = 0 := natAt_byte [_, _, _] _ 0 3 rfl
  have hbad : ¬ (7 < g.val ∨ 1 < e.toNat ∨ 1 < 0 ∨ (0 = 1 ∧ 6 < 0) ∨ (decide (0 = 0) && (decide (n = 0) || decide (2 ^ 24 < n))) = true) := by
    have hle := e.toNat_le
    simp
    omega
  have hfree : ¬ (s.heard pk).shore.capArmed.isSome = true := by rw [State.heard_shore, hc]; exact Bool.false_ne_true
  have hedge : decide (e.toNat = 1) = e := by cases e <;> rfl
  have hrun : runCapture (s.heard pk) pk x ([BitVec.ofNat 8 g.val, BitVec.ofNat 8 e.toNat, 0, 0] ++ bytesLE 4 n) = ((s.heard pk).modShore (fun x =>
      { x with capArmed := some { gck := BitVec.ofNat 3 g.val, falling := e, count := some n, trg := 0 }, capture := none })).ok [] := by
    unfold runCapture
    rw [natAt_captureCount _ _ hmax, hg, he, hkind, htrg, hlen]
    dsimp only
    rw [if_neg (not_not.mpr rfl), if_neg hbad, if_neg hfree, hedge]
    rfl
  exact h.replies (o := opCapture) rfl (fun hop => ⟨hop, roleService_held hr, rfl, by simpa [opCapture] using hm⟩) rfl hrun rfl rfl
    (s.heard_replies pk) (fun _ _ => ⟨rfl, rfl, rfl⟩)

end

end Sys2Proof.Machine
end

section
/-! PROOF. MEM_WRITE to harbour, and the statement of the Vevis control commands (spec/17 R403; spec/14 R327). -/

namespace Sys2Proof.Machine

/-! ### One write of eight bytes (spec/14 R327) -/

theorem areaOf_harbour {addr : PAddr} (h1 : 0x20000000 ≤ addr.toNat) (h2 : addr.toNat < 0x22000000) : areaOf addr = .harbour := by
  unfold areaOf
  dsimp only
  rw [if_neg (by omega), if_neg (by omega), if_pos ⟨h1, h2⟩]

/-- The harbour address of offset `off`. -/
theorem toNat_harbourAddr {off : Nat} (h : off < 0x2000000) : (BitVec.ofNat 40 (0x20000000 + off)).toNat = 0x20000000 + off :=
  Nat.mod_eq_of_lt (by omega)

/-- Hearing a request leaves a plain harbour plain. -/
theorem State.PlainHarbour.heard {s : State} (h : s.PlainHarbour) (pk : VPacket) : (s.heard pk).PlainHarbour :=
  cast (s.heard_keep pk State.PlainHarbour (fun _ _ => rfl)).symm h

section
variable {s : State} {off : Nat} {bs : List Byte}

/-- A plain harbour takes an aligned write of eight bytes. -/
theorem State.harbourAccess_write (h : s.PlainHarbour) (ho : off % 8 = 0) (hb : off + 8 ≤ 0x2000000) (hl : bs.length = 8) :
    s.harbourAccess false (.write bs) (BitVec.ofNat 40 (0x20000000 + off)) = (.ok, [], s.hPutBytes off bs) := by
  obtain ⟨hopen, -, hcache, hpairs, -⟩ := h
  have hoff : offsetFrom 0x20000000 (BitVec.ofNat 40 (0x20000000 + off)).toNat = off := by
    rw [toNat_harbourAddr (by omega)]
    unfold offsetFrom
    omega
  have hlen : reqLen (.write bs) = 8 := hl
  have hshape : harbourShape off 8 = true := by simp [harbourShape, ho]
  have hvital : s.vitalbufDenied false off 8 = false := by simp [State.vitalbufDenied, hpairs]
  have hentry : s.entryDenied off 8 = false := by simp [State.entryDenied, hcache]
  unfold State.harbourAccess
  rw [hoff, hlen]
  dsimp only
  rw [hopen, hshape, hvital, hentry]
  rfl

/-- The same as an access of initiator 4, of which only the network takes note beside. -/
theorem State.access_write {r : Request} (h : s.PlainHarbour) (ho : off % 8 = 0) (hb : off + 8 ≤ 0x2000000) (hl : bs.length = 8) (hsrc : r.src = 4)
    (hop : r.op = .write bs) (hr : r.addr = BitVec.ofNat 40 (0x20000000 + off)) :
    ∃ t, s.access r = (some (.ok, []), t) ∧ t.harbour.mem = wrBytes 0 s.harbour.mem off bs ∧ t.holm = s.holm := by
  have haddr := toNat_harbourAddr (off := off) (by omega)
  have harea : areaOf r.addr = .harbour := by rw [hr]; exact areaOf_harbour (by omega) (by omega)
  have hcheck : nodeCheck r = none := by simp [nodeCheck, reaches, harea, hsrc]
  have hview : inView r.addr = false := by rw [inView, harea]; rfl
  have hplain : (s.count r.src (reqPayload r.op)).PlainHarbour := h
  obtain ⟨-, -, -, -, hnet⟩ := h
  obtain ⟨hlost, hexp⟩ := hnet r.src
  have hserve : (s.count r.src (reqPayload r.op)).memAccess r = (.ok, [], (s.count r.src (reqPayload r.op)).hPutBytes off bs) := by
    have hwrite := State.harbourAccess_write hplain ho hb hl
    rw [← hop, ← hr] at hwrite
    rw [State.memAccess, hcheck]
    dsimp only
    rw [harea]
    dsimp only
    rw [State.harbourServe, hwrite]
    dsimp only
    rw [hop, State.readsTstamp]
    rfl
  rw [State.access, hcheck, if_neg (by decide), if_neg (not_not.mpr hlost), if_neg (not_not.mpr hexp), hview, if_neg Bool.false_ne_true, hserve]
  exact ⟨_, rfl, rfl, rfl⟩

/-- One access of the Holm for the host writes them. -/
theorem State.holmAccess_write (h : s.PlainHarbour) (ho : off % 8 = 0) (hb : off + 8 ≤ 0x2000000) (hl : bs.length = 8) :
    ∃ t, s.holmAccess (.write bs) (0x20000000 + off) = (some (.ok, []), t) ∧ t.harbour.mem = wrBytes 0 s.harbour.mem off bs ∧ t.holm = s.holm := by
  have haddr := toNat_harbourAddr (off := off) (by omega)
  have hregs : ¬ areaOf (BitVec.ofNat 40 (0x20000000 + off)) = .regs := by
    rw [areaOf_harbour (by omega) (by omega)]
    exact Area.noConfusion
  rw [State.holmAccess]
  dsimp only
  rw [if_neg hregs]
  exact State.access_write h ho hb hl rfl rfl rfl

end

/-! ### MEM_WRITE -/

/-- A job of one access that is answered OK ends with it. -/
theorem State.memStart_write {s t : State} {j : MemJob} (hr : j.read = false) (hl : j.left = 8) (hb : j.bytes.length = 8) (ha : j.addr % 8 = 0)
    (h : s.holmAccess (.write j.bytes) j.addr = (some (.ok, []), t)) : s.memStart j = t.ok [] := by
  have hsize : accSize j.addr j.left = 8 := by rw [accSize, hl, if_pos ⟨ha, le_rfl⟩]
  have htake : j.bytes.take 8 = j.bytes := List.take_of_length_le hb.le
  have hgo : s.memGo 8 j = t.memGo 7 { j with addr := j.addr + 8, left := 0, bytes := j.bytes.drop 8 } := by
    rw [State.memGo]
    dsimp only
    rw [if_neg (by omega), hsize, hr, htake, hl]
    simp only [Bool.false_eq_true, if_false]
    rw [h]
  rw [State.memStart, hl, hgo, State.memGo]
  dsimp only
  rw [if_pos rfl, hr]
  rfl

section
variable {s : State} {pk : VPacket} {x : Session} {body : List Byte}

theorem memWrite_writes (h : s.hears pk x body) (hr : x.roles.getLsbD 3 = true) {off : Nat} {bs : List Byte} (hl : bs.length = 8) (hm : s.mode = .service)
    (hp : s.PlainHarbour) (ho : off % 8 = 0) (hb : off + 8 ≤ 0x2000000) (hbody : body = bytesLE 8 (0x20000000 + off) ++ bs) :
    s.replies (.memWrite pk) pk 0x0802 0 (fun t p => p = [] ∧ (∀ k (h : k < bs.length), rdByte 0 t.harbour.mem (off + k) = bs[k]) ∧
      ∀ y, ¬ (off ≤ y ∧ y < off + 8) → rdByte 0 t.harbour.mem y = rdByte 0 s.harbour.mem y) := by
  subst hbody
  have haddr : natAt (bytesLE 8 (0x20000000 + off) ++ bs) 0 8 = 0x20000000 + off :=
    (natAt_mid [] bs 0 8 _ rfl).trans (Nat.mod_eq_of_lt (by omega))
  have hdata : (bytesLE 8 (0x20000000 + off) ++ bs).drop 8 = bs := List.drop_left' (bytesLE_length ..)
  have hlen : (bytesLE 8 (0x20000000 + off) ++ bs).length = 16 := by rw [List.length_append, bytesLE_length, hl]
  obtain ⟨t, hacc, hmem, hholm⟩ := State.holmAccess_write (hp.heard pk) ho hb hl
  have hrun : runMemWrite (s.heard pk) pk x (bytesLE 8 (0x20000000 + off) ++ bs) = t.ok [] := by
    unfold runMemWrite
    rw [haddr, hdata, hlen]
    dsimp only
    rw [if_neg (by decide), if_neg (by omega)]
    exact State.memStart_write rfl hl hl (by dsimp only; omega) hacc
  have hmem' : t.harbour.mem = wrBytes 0 s.harbour.mem off bs := by rw [hmem, State.heard_harbour]
  refine h.replies (o := opMemWrite) rfl (fun hop => ⟨hop, roleService_held hr, rfl, by simpa [opMemWrite] using hm⟩) rfl hrun rfl rfl
    ((congrArg Holm.replies hholm).trans (s.heard_replies pk)) (fun _ _ => ⟨rfl, fun k hk => ?_, fun y hy => ?_⟩)
  · show rdByte 0 t.harbour.mem (off + k) = bs[k]
    rw [hmem']
    exact rdByte_wrBytes_inside 0 _ off k bs hk
  · show rdByte 0 t.harbour.mem y = _
    rw [hmem']
    exact rdByte_wrBytes_outside 0 _ off y bs (by rwa [hl])

end

/-! ### The statement -/

theorem vevisServiceRule_holds : vevisServiceRule := fun _ _ _ _ h hr =>
  ⟨fun _ hbody hon hv ht => selftestCore_accepted h hr hbody hon hv ht,
    fun _ hbody hoff hq => selftestLaneRecal_accepted h hr hbody hoff hq,
    fun _ hp => ⟨fun hbody => tideSuspend_suspends h hr hp hbody, fun hbody => tideResume_resumes h hr hp hbody,
      fun hbody => ⟨tideStepNow_busy h hr hp hbody, tideStepNow_starts h hr hp hbody⟩⟩,
    fun hs => ⟨fun _ hbody hm ho => selftestOffline_accepted h hr hs hbody hm ho,
      fun _ _ _ hn hmax hm hc hbody => capture_arms h hs hn hmax hm hc hbody,
      fun _ _ hl hm hp ho hb hbody => memWrite_writes h hs hl hm hp ho hb hbody⟩⟩

/-- Settles O56: each command reaches its answer through `State.hears.replies`, and what its act leaves of mode, target and replies is `State.hostSide`. -/
theorem vevisControl : Obligations.VevisControl := ⟨vevisModesRule_holds, vevisServiceRule_holds⟩

end Sys2Proof.Machine
end

section
/-! PROOF. The report of a lost lane misses a core whose domain is closed (spec/08 R213; spec/13 R314, R317). -/
namespace Sys2Proof.Machine

/-- The loss of a 10GBASE-R lane touches the lanes and the draws of free values and reports; no receive link stands on the lane. -/
theorem laneLinkLoss_ethernet {s : State} {l : Fin 16} (h : (s.lanes[l]).role = 4) :
    ∃ k v, exec (.laneLinkLoss l) s = .next (State.laneReport { s with fresh := k, lanes := v } l) := by
  have hrx : (s.lanes[l]).jrx = false := by rw [Lane.jrx, h]; rfl
  have hx : exec (.laneLinkLoss l) s = execLaneLinkLoss l s := rfl
  rw [hx, execLaneLinkLoss]
  simp only [h, hrx, OfNat.ofNat_ne_zero, Nat.reduceEqDiff, if_false, Bool.false_eq_true]
  exact ⟨_, _, rfl⟩

/-- A lane report interrupts no core whose domain is closed. -/
theorem State.laneReport_closed {s : State} {k : CoreId} (h : s.domainOpen (304 + k.val) = false) (l : Fin 16) :
    (s.laneReport l).cores[k] = s.cores[k] := by
  rw [State.laneReport, State.event_cores, State.raiseAll_closed h]

/-- The loss of a 10GBASE-R lane leaves a core whose domain is closed as it is. -/
theorem laneLinkLoss_ethernet_closed {s t : State} {k : CoreId} {l : Fin 16} (h : s.domainOpen (304 + k.val) = false)
    (hr : (s.lanes[l]).role = 4) (ht : exec (.laneLinkLoss l) s = .next t) : t.cores[k] = s.cores[k] := by
  obtain ⟨x, v, hs⟩ := laneLinkLoss_ethernet hr
  have hc : State.domainOpen { s with fresh := x, lanes := v } (304 + k.val) = false := h
  rw [← Host.Outcome.next.inj (hs.symm.trans ht), State.laneReport_closed hc]

/-- The device in SURVEY with every domain powered, lane 0 in the 10GBASE-R role and core 1 fenced. -/
def laneFencedCore1 : State :=
  { State.reset with
    mode := .survey
    pwr := { State.reset.pwr with on := BitVec.allOnes 316, fence := domBit 305 }
    lanes := vmod State.reset.lanes 0 (fun y => { y with lcfg := 4, lock := true, up := true }) }

/-- Refutes O43: log 19 latches the interrupt of a lane report at every control core, but the IRQ packet to a core whose domain is fenced is
dropped there, so the loss of a lane does not raise interrupt 17 at every core. Nor does a multiblock count before SYSREF has established the
LEMC (R210), which the clause on multiblocks leaves unassumed. -/
theorem not_lanesAndLinks : ¬ Obligations.LanesAndLinks := by
  intro h
  obtain ⟨-, -, -, hloss, -⟩ := h laneFencedCore1 0 0 []
  have hrole : (laneFencedCore1.lanes[(0 : Fin 16)]).role = 4 := by decide
  obtain ⟨t, ht, -, -, hirq, -⟩ := hloss (by rw [hrole]; decide) (by rw [hrole]; decide)
  have hc : laneFencedCore1.domainOpen (304 + (1 : CoreId).val) = false := State.domainOpen_fenced (getLsbD_domBit (by decide))
  have hk := hirq 1
  rw [laneLinkLoss_ethernet_closed hc hrole ht] at hk
  exact absurd hk (by decide)

end Sys2Proof.Machine
end

section
/-! PROOF. Words of a core's local memory, and the entry to a handler (spec/10 R231, R244, R245). -/
namespace Sys2Proof.Machine

/-! ### Words of local memory -/

/-- As many bytes as a number has been cut to spell what is left of it. -/
theorem bytesLE_mod (n v : Nat) : bytesLE n (v % 256 ^ n) = bytesLE n v := by
  have h := bytesLE_natLE (bytesLE n v)
  rwa [bytesLE_length, natLE_bytesLE] at h

/-- Bytes stored are read back. -/
theorem rdBytes_wrBytes (d : Byte) (m : List Host.Cell) (a : Nat) (bs : List Byte) : rdBytes d (wrBytes d m a bs) a bs.length = bs := by
  rw [rdBytes_eq_map]
  refine List.ext_getElem (by simp) fun i _ hi => ?_
  rw [List.getElem_map, List.getElem_range, rdByte_wrBytes_inside d m a i bs hi]

/-- The number two adjoined bit vectors spell. -/
theorem toNat_append_eq {n m : Nat} (x : BitVec n) (y : BitVec m) : (x ++ y).toNat = x.toNat * 2 ^ m + y.toNat := by
  rw [BitVec.toNat_append, ← Nat.shiftLeft_add_eq_or_of_lt y.isLt, Nat.shiftLeft_eq]

/-- The word at an address is what its four bytes spell. -/
theorem Core.wordAt_toNat (c : Core) (a : Nat) : (c.wordAt a).toNat = natLE (c.sramRead a 4) := by
  rw [Core.wordAt, toNat_append_eq, toNat_append_eq, toNat_append_eq]
  simp only [Core.sramRead, rdBytes, natLE, Nat.add_assoc, Nat.reduceAdd]
  omega

/-- A word depends on its four bytes. -/
theorem Core.wordAt_congr {c d : Core} {a : Nat} (h : ∀ x, a ≤ x → x < a + 4 → rdByte 0 d.sram x = rdByte 0 c.sram x) : d.wordAt a = c.wordAt a := by
  rw [Core.wordAt, Core.wordAt, h (a + 3) (by omega) (by omega), h (a + 2) (by omega) (by omega), h (a + 1) (by omega) (by omega),
    h a (by omega) (by omega)]

/-- Core `c` with word `w` stored at local address `a`. -/
def Core.putWord (c : Core) (a : Nat) (w : Word) : Core := c.sramWrite a (bytesLE 4 w.toNat)

/-- Outside its word a store changes no byte. -/
theorem Core.putWord_outside (c : Core) (w : Word) {a x : Nat} (h : ¬ (a ≤ x ∧ x < a + 4)) :
    rdByte 0 (c.putWord a w).sram x = rdByte 0 c.sram x :=
  rdByte_wrBytes_outside 0 _ a x _ (by rwa [bytesLE_length])

/-- The word stored is read back. -/
theorem Core.wordAt_putWord_same (c : Core) (a : Nat) (w : Word) : (c.putWord a w).wordAt a = w := by
  have hread : (c.putWord a w).sramRead a 4 = bytesLE 4 w.toNat := by
    have h := rdBytes_wrBytes 0 c.sram a (bytesLE 4 w.toNat)
    rwa [bytesLE_length] at h
  refine BitVec.eq_of_toNat_eq ?_
  rw [Core.wordAt_toNat, hread, natLE_bytesLE]
  exact Nat.mod_eq_of_lt w.isLt

/-- Core `c` with words stored one below the other, the first just below local address `a`. -/
def Core.putDown (c : Core) (a : Nat) : List Word → Core
  | [] => c
  | w :: ws => (c.putWord (a - 4) w).putDown (a - 4) ws

/-- Local memory and its error marks are all that changes. -/
theorem Core.putDown_frame (c : Core) (a : Nat) (ws : List Word) : ∃ m u, c.putDown a ws = { c with sram := m, sramUe := u } := by
  induction ws generalizing c a with
  | nil => exact ⟨_, _, rfl⟩
  | cons w ws ih => exact ih (c.putWord (a - 4) w) (a - 4)

theorem Core.putDown_snoc (c : Core) (a : Nat) (ws : List Word) (w : Word) :
    c.putDown a (ws ++ [w]) = (c.putDown a ws).putWord (a - 4 * (ws.length + 1)) w := by
  induction ws generalizing c a with
  | nil => rfl
  | cons x ws ih =>
    refine (ih (c.putWord (a - 4) x) (a - 4)).trans ?_
    rw [Nat.sub_sub, List.length_cons, Nat.mul_add 4 (ws.length + 1), Nat.add_comm 4]
    rfl

/-- Outside the words stored no byte changes. -/
theorem Core.putDown_outside (c : Core) {a x : Nat} (ws : List Word) (ha : 4 * ws.length ≤ a) (hx : ¬ (a - 4 * ws.length ≤ x ∧ x < a)) :
    rdByte 0 (c.putDown a ws).sram x = rdByte 0 c.sram x := by
  induction ws generalizing c a with
  | nil => rfl
  | cons w ws ih =>
    rw [List.length_cons] at ha hx
    exact (ih (c.putWord (a - 4) w) (by omega) (by omega)).trans (c.putWord_outside w (by omega))

/-- Each word stored is read back. -/
theorem Core.wordAt_putDown (c : Core) {a : Nat} (ws : List Word) (ha : 4 * ws.length ≤ a) {i : Nat} (hi : i < ws.length) :
    (c.putDown a ws).wordAt (a - 4 * (i + 1)) = ws[i] := by
  induction ws generalizing c a i with
  | nil => exact absurd hi (Nat.not_lt_zero i)
  | cons w ws ih =>
    rw [List.length_cons] at ha hi
    cases i with
    | zero =>
      refine Eq.trans (Core.wordAt_congr fun x _ _ => ?_) (c.wordAt_putWord_same (a - 4) w)
      exact (c.putWord (a - 4) w).putDown_outside ws (by omega) (by omega)
    | succ i =>
      have h := ih (c.putWord (a - 4) w) (a := a - 4) (by omega) (i := i) (by omega)
      rwa [Nat.sub_sub, Nat.add_comm 4, ← Nat.mul_succ 4 (i + 1)] at h

/-! ### Accesses without translation and parked stores -/

/-- Core `c` reaches local memory directly: translation is off and no store is parked. -/
def Core.Direct (c : Core) : Prop := c.te = false ∧ c.stations = Vector.replicate 4 none

theorem Core.Direct.putDown {c : Core} (h : c.Direct) (a : Nat) (ws : List Word) : (c.putDown a ws).Direct := by
  obtain ⟨m, u, e⟩ := c.putDown_frame a ws
  rw [e]
  exact h

section
variable {c : Core} (h : c.Direct) (n : CoreId) {a : Word} (ha : reachable a 4)
include h ha

/-- A word loaded. -/
theorem Core.Direct.load : c.load n a 4 = .ok ((c.wordAt a.toNat).toNat, c) := by
  rw [Core.load, Core.localAddr_local h.1 h.2 n ha]
  exact congrArg (fun v => Except.ok (v, c)) (c.wordAt_toNat _).symm

/-- A word stored. -/
theorem Core.Direct.store (v : Nat) : c.store n a 4 v = .ok (c.putWord a.toNat (BitVec.ofNat 32 v)) := by
  rw [Core.store, Core.localAddr_local h.1 h.2 n ha]
  exact congrArg (fun bs => Except.ok (c.sramWrite a.toNat bs)) (bytesLE_mod 4 v).symm

end

/-! ### Entry -/

/-- The six words of an entry, in the order in which they are stacked. -/
def Core.frameWords (c : Core) : List Word := [c.pc, c.lk, c.cst, BitVec.ofNat 32 c.depth, c.f[0], c.f[1]]

section
variable {c : Core} {v : Nat} (he : c.CanEnter v)
include he

/-- The words of the frame lie in local SRAM. -/
theorem Core.CanEnter.frameWord {k : Word} (hk : k.toNat % 4 = 0 ∧ 4 ≤ k.toNat ∧ k.toNat ≤ 24) :
    reachable (c.sp - k) 4 ∧ (c.sp - k).toNat = c.sp.toNat - k.toNat := by
  obtain ⟨hal, h24, htop, -, -⟩ := he
  have hsub : (c.sp - k).toNat = c.sp.toNat - k.toNat := BitVec.toNat_sub_of_le (BitVec.le_def.mpr (by omega))
  rw [reachable, hsub]
  omega

/-- So does the vector. -/
theorem Core.CanEnter.vectorWord :
    reachable (c.vbase + BitVec.ofNat 32 (4 * v)) 4 ∧ (c.vbase + BitVec.ofNat 32 (4 * v)).toNat = c.vbase.toNat + 4 * v := by
  obtain ⟨-, -, -, hal, htop⟩ := he
  have hadd : (c.vbase + BitVec.ofNat 32 (4 * v)).toNat = c.vbase.toNat + 4 * v := by
    rw [BitVec.toNat_add, BitVec.toNat_ofNat]
    omega
  rw [reachable, hadd]
  omega

/-- Behind the first words of the frame the next one is stored below them. -/
theorem Core.CanEnter.store (h : c.Direct) (n : CoreId) (ws : List Word) (k : Word) (hk : k.toNat = 4 * (ws.length + 1)) (h24 : k.toNat ≤ 24)
    (x : Nat) : (c.putDown c.sp.toNat ws).store n (c.sp - k) 4 x = .ok (c.putDown c.sp.toNat (ws ++ [BitVec.ofNat 32 x])) := by
  obtain ⟨hr, hn⟩ := he.frameWord (k := k) (by omega)
  rw [(h.putDown _ ws).store n hr, Core.putDown_snoc, hn, hk]

/-- The six words are stored below SP and the vector is read. -/
theorem Core.stackFrame_eq (h : c.Direct) (hq : c.vec.queue = []) (n : CoreId) :
    let d := c.putDown c.sp.toNat c.frameWords
    c.stackFrame n v = .ok { d with sp := c.sp - 24, cst := (c.cst &&& 0xFFFFFF7D) ||| 1, pc := d.wordAt (c.vbase.toNat + 4 * v) } := by
  have put := he.store h n
  have hfirst (x : Nat) : c.store n (c.sp - 4) 4 x = .ok (c.putDown c.sp.toNat [BitVec.ofNat 32 x]) := put [] 4 rfl (by decide) x
  have hkeep (ws : List Word) : (c.putDown c.sp.toNat ws).lk = c.lk ∧ (c.putDown c.sp.toNat ws).cst = c.cst ∧
      (c.putDown c.sp.toNat ws).depth = c.depth ∧ (c.putDown c.sp.toNat ws).f = c.f ∧ (c.putDown c.sp.toNat ws).vbase = c.vbase := by
    obtain ⟨m, u, e⟩ := c.putDown_frame c.sp.toNat ws
    rw [e]
    exact ⟨rfl, rfl, rfl, rfl, rfl⟩
  obtain ⟨hr, hn⟩ := he.vectorWord
  simp only [Core.stackFrame, hq, List.any_nil, Bool.false_eq_true, if_false, bind, Except.bind, hfirst, hkeep,
    put [_] 8 rfl (by decide), put [_, _] 12 rfl (by decide), put [_, _, _] 16 rfl (by decide), put [_, _, _, _] 20 rfl (by decide),
    put [_, _, _, _, _] 24 rfl (by decide), List.cons_append, List.nil_append, (h.putDown _ _).load n hr, hn, BitVec.ofNat_toNat,
    BitVec.setWidth_eq, Core.frameWords]

/-- Entry stacks the six words, reads the vector and leaves the rest (R244). -/
theorem Core.enter_entered (h : c.Direct) (hq : c.vec.queue = []) (n : CoreId) :
    ∃ c', c.enter n v = (true, c') ∧ Core.Entered { c with entering := none } c' v := by
  have hframe := Core.stackFrame_eq he h hq n
  obtain ⟨m, u, e⟩ := c.putDown_frame c.sp.toNat c.frameWords
  obtain ⟨-, h24, -⟩ := he
  have hword {i : Nat} (hi : i < 6) := c.wordAt_putDown c.frameWords h24 hi
  have hout : c.SameOutside (c.putDown c.sp.toNat c.frameWords) (c.sp.toNat - 24) 24 := fun x hx =>
    c.putDown_outside c.frameWords h24 (by rwa [Nat.sub_add_cancel h24] at hx)
  rw [e] at hframe hout
  simp only [e] at hword
  refine ⟨_, by rw [Core.enter, hframe], rfl, ?_⟩
  exact ⟨hword (i := 0) (by decide), hword (i := 1) (by decide), hword (i := 2) (by decide), hword (i := 3) (by decide),
    hword (i := 4) (by decide), hword (i := 5) (by decide), hout⟩

end

end Sys2Proof.Machine
end

section
/-! PROOF. Exceptions a settled core raises: privilege, the stack check, TRAP and ILLEGAL (spec/10 R235, R244, R245; spec/11 R256, R258, R269,
R274). -/
namespace Sys2Proof.Machine

/-! ### Raising -/

theorem Core.Fetches.direct {c : Core} (h : c.Fetches) : c.begun.Direct := ⟨(Core.begun_te c).trans h.1, h.2.2.2.1⟩

/-- An entry that is no double fault notifies nobody. -/
theorem State.entered_alive {s : State} {n : CoreId} {c : Core} (h : c.dfault = (s.cores[n]).dfault) : s.entered n c = s.setCore n c := by
  unfold State.entered
  rw [h, Bool.and_not_self]
  rfl

/-- Core `c` as exception `cause` with EVAL `ev` leaves it before the entry. -/
def Core.excepted (c : Core) (cause : Nat) (ev : Word) : Core :=
  { c with asleep := false, epc := c.pc, ecause := BitVec.ofNat 32 cause, eval := ev }

/-- Entry neither ends a STEP nor halts the core. -/
theorem Core.Entered.alive {c c' : Core} {v : Nat} (h : c.Entered c' v) : c'.stepping = c.stepping ∧ c'.dfault = c.dfault := by
  rw [h.1]
  exact ⟨rfl, rfl⟩

theorem Core.noEntering {c : Core} (h : c.entering = none) : ({ c with entering := none } : Core) = c := by
  cases c; simp_all

/-- Where the body has left its core alone, the exception finds it as the instruction did. -/
theorem Core.unbegun_awake {c d : Core} (hd : c.unbegun d = c) (hs : c.shadow = none) :
    ({ ({ c with asleep := false } : Core).unbegun d with shadow := none } : Core) = { c with asleep := false } := by
  have e : ({ c with asleep := false } : Core).unbegun d = { c.unbegun d with asleep := false } := rfl
  rw [e, hd]
  exact Core.noShadow hs

/-- Raising an exception at a core that can enter it (R245). -/
theorem Core.raise_entered {c : Core} (h : c.Settled) {cause : Nat} (he : c.CanEnter cause) (n : CoreId) (ev : Option Word) :
    ∃ c', ({ c with asleep := false } : Core).raise n cause ev 0 = (true, c') ∧ Core.Entered (c.excepted cause (ev.getD c.eval)) c' cause := by
  obtain ⟨⟨hte, -, -, hst, -, hent⟩, hq, -⟩ := h
  obtain ⟨c', hc', hin⟩ := Core.enter_entered (c := { c.excepted cause (ev.getD c.eval) with entering := some cause }) (v := cause) he ⟨hte, hst⟩ hq n
  have e : ({ c.excepted cause (ev.getD c.eval) with entering := none } : Core) = c.excepted cause (ev.getD c.eval) := Core.noEntering hent
  have hbits : BitVec.ofNat 32 cause ||| (0 : Word) = BitVec.ofNat 32 cause := BitVec.or_zero
  refine ⟨c', ?_, e ▸ hin⟩
  show Core.enter { c.excepted cause (ev.getD c.eval) with ecause := BitVec.ofNat 32 cause ||| 0, entering := some cause } n cause = _
  rw [hbits]
  exact hc'

section
variable {s : State} {n : CoreId} (h : s.Settled n)
include h

/-- An instruction whose body ends in an exception raises it, where the body has left its core alone. -/
theorem raises_of_exc {I : Instr} {i : Insn} (hi : exec I s = .next (s.runInsn n i)) (hkeeps : i.keeps = false) (hu : i.units ≤ 3)
    (hk : i.kind = .scalar ∨ i.kind = .reti) {c : Core} {cause : Nat} {ev : Option Word} (he : (s.cores[n]).CanEnter cause)
    (hb : i.body (s.coreEnv n) (s.cores[n]).begun = .exc c cause ev 0) (hc : (s.cores[n]).unbegun c = s.cores[n]) :
    raises s n I cause (ev.getD (s.cores[n]).eval) := by
  obtain ⟨-, -, hsh, -, hstep, -⟩ := h.2.1
  have hbegun : ¬ (i.kind = .string ∨ i.kind = .vstring) := by
    obtain hk | hk := hk <;> simp [hk]
  obtain ⟨c', hraise, hin⟩ := Core.raise_entered h.2 he n ev
  obtain ⟨hsteps, halive⟩ := hin.alive
  refine ⟨s.setCore n c', ?_, by rw [State.setCore_at], by rw [State.setCore_at]; exact hin⟩
  rw [hi, State.runInsn, State.runInsnWith_settled h _ hu, if_neg hbegun, hb]
  simp only [State.ends, hkeeps, Bool.false_eq_true, if_false]
  rw [Core.unbegun_awake hc hsh, hraise]
  simp only [State.entry, if_true]
  rw [Core.stepEnd_plain (hsteps.trans hstep), State.entered_alive halive]

/-- An exception of a one-unit instruction that keeps EVAL and leaves its core as it is. -/
theorem raises_silent {I : Instr} {body : CBody} (hi : exec I s = .next (s.runInsn n (insn1 body))) {cause : Nat} (he : (s.cores[n]).CanEnter cause)
    (hb : body (s.coreEnv n) (s.cores[n]).begun = .exc (s.cores[n]).begun cause none 0) : raises s n I cause (s.cores[n]).eval :=
  raises_of_exc h hi rfl (by simp [insn1]) (.inl rfl) he hb rfl

end

/-! ### Privilege (R235, R274) -/

section
variable {c : Core} (hp : c.priv = false) (env : CEnv)
include hp

theorem supervisor_user (body : CBody) : supervisor body env c = .exc c 2 none 0 := by
  rw [supervisor, hp, if_neg Bool.false_ne_true]

theorem insnReti_user : insnReti.body env c = .exc c 2 none 0 := by
  simp [insnReti, hp, CM.out]

theorem insnCsrw_user {k : Byte} (hl : csrListed k.toNat = true) : (insnCsrw k).body env c = .exc c 2 none 0 := by
  simp [insnCsrw, insn1, hl, hp, CM.out]

theorem insnCsrr_user {k : Byte} (hl : csrListed k.toNat = true) (hk : csrUser k.toNat = false) : (insnCsrr k).body env c = .exc c 2 none 0 := by
  simp [insnCsrr, insn1, hl, hp, hk, CM.out]

end

/-- Settles O12: each of them stops at its privilege check. -/
theorem supervisorOnly : Obligations.SupervisorOnly := by
  intro n s k h hp he
  have hp' : (s.cores[n]).begun.priv = false := (Core.begun_priv _).trans hp
  refine ⟨raises_of_exc h (i := insnReti) rfl rfl (by simp [insnReti]) (.inr rfl) he (insnReti_user hp' _) rfl,
    raises_silent h rfl he (supervisor_user hp' _ _), raises_silent h rfl he (supervisor_user hp' _ _),
    raises_silent h rfl he (supervisor_user hp' _ _), fun hl => raises_silent h rfl he (insnCsrw_user hp' _ hl), fun hl hk => ?_⟩
  have huser : csrUser k.toNat = false := by
    rw [csrUser, ← Bool.not_eq_true, List.contains_iff_mem]
    exact hk
  exact raises_silent h rfl he (insnCsrr_user hp' _ hl huser)

/-! ### The stack check (R258) -/

/-- Too few words. -/
theorem Core.check_underflow {c : Core} {pops : Nat} (h : c.depth < pops) (pushes : Nat) : c.check pops pushes = .error (.exc c 4 none 0) := if_pos h

/-- A push beyond depth 256. -/
theorem Core.check_overflow {c : Core} {pops pushes : Nat} (h : pops ≤ c.depth) (ho : 256 < c.depth - pops + pushes) :
    c.check pops pushes = .error (.exc c 3 none 0) := by
  rw [Core.check, if_neg (by omega), if_pos ho]

/-- Enough words and enough room. -/
theorem Core.check_passes {c : Core} {pops pushes : Nat} (h : pops ≤ c.depth) (ho : c.depth - pops + pushes ≤ 256) : c.check pops pushes = .ok () := by
  rw [Core.check, if_neg (by omega), if_neg (by omega)]

theorem Core.pop_underflow {c : Core} {pops : Nat} (h : c.depth < pops) (pushes : Nat) : c.pop pops pushes = .error (.exc c 4 none 0) := by
  rw [Core.pop, Core.check_underflow h]
  rfl

/-- What the stack check ends, it ends before any effect of a stack move. -/
theorem moveBody_check {c : Core} {pops pushes : Nat} {r : CRes} (h : c.check pops pushes = .error r) (f dropped : List Slot → List Slot) (env : CEnv) :
    moveBody pops pushes f dropped env c = r := by
  rw [moveBody, h]
  rfl

theorem aluBody_check {c : Core} {op : AluOp} {r : CRes} (h : c.check op.arity op.results = .error r) (env : CEnv) : aluBody op env c = r := by
  rw [aluBody, h]
  rfl

theorem loadBody_underflow {c : Core} (h : c.depth < 1) (size : Nat) (ext : Nat → Word) (env : CEnv) :
    loadBody size ext env c = .exc c 4 none 0 := by
  rw [loadBody, Core.pop_underflow h]
  rfl

theorem storeBody_underflow {c : Core} (h : c.depth < 2) (size : Nat) (env : CEnv) : storeBody size env c = .exc c 4 none 0 := by
  rw [storeBody, Core.check_underflow h]
  rfl

theorem branchBody_underflow {c : Core} {pops : Nat} (h : c.depth < pops) (rel : BitVec 16) (taken : Word → Word → Bool) (env : CEnv) :
    branchBody pops rel taken env c = .exc c 4 none 0 := by
  rw [branchBody, Core.pop_underflow h]
  rfl

theorem insnJmp_underflow {c : Core} (h : c.depth < 1) (env : CEnv) : insnJmp.body env c = .exc c 4 none 0 := by
  simp only [insnJmp, insn1, Core.pop_underflow h]
  rfl

theorem litBody_check {c : Core} {r : CRes} (h : c.check 0 1 = .error r) (w : Word) (env : CEnv) : litBody w env c = r := by
  rw [litBody, h]
  rfl

theorem insnDepth_check {c : Core} {r : CRes} (h : c.check 0 1 = .error r) (env : CEnv) : insnDepth.body env c = r := by
  simp only [insnDepth, insn1, h]
  rfl

theorem stackCheckRule_holds : stackCheckRule := by
  intro n s b h ev
  refine ⟨fun he hs => ?_, fun he hs => ?_⟩
  · have hd : (s.cores[n]).begun.depth = 0 := congrArg List.length hs
    have hfew {pops : Nat} (hp : 0 < pops) : (s.cores[n]).begun.depth < pops := by rw [hd]; exact hp
    have hone := hfew Nat.one_pos
    have htwo := hfew Nat.two_pos
    exact ⟨raises_silent h rfl he (moveBody_check (Core.check_underflow hone _) _ _ _),
      raises_silent h rfl he (moveBody_check (Core.check_underflow hone _) _ _ _),
      raises_silent h rfl he (aluBody_check (Core.check_underflow htwo _) _),
      raises_silent h rfl he (loadBody_underflow hone _ _ _), raises_silent h rfl he (storeBody_underflow htwo _ _),
      raises_of_exc h (i := insnBeq 0) rfl rfl (by simp [insnBeq, insn2]) (.inl rfl) he (branchBody_underflow htwo _ _ (s.coreEnv n)) rfl,
      raises_silent h rfl he (insnJmp_underflow hone _),
      raises_silent h rfl he (moveBody_check (Core.check_underflow (hfew (Nat.succ_pos _)) _) _ _ _)⟩
  · have hd : (s.cores[n]).begun.depth = 256 := hs
    have hover {pops pushes : Nat} (hp : pops ≤ 256) (ho : 256 < 256 - pops + pushes) :
        (s.cores[n]).begun.check pops pushes = .error (.exc (s.cores[n]).begun 3 none 0) := Core.check_overflow (hd ▸ hp) (hd ▸ ho)
    have hpush := hover (pops := 0) (pushes := 1) (by decide) (by decide)
    exact ⟨raises_silent h rfl he (litBody_check hpush _ _), raises_silent h rfl he (moveBody_check (hover (by decide) (by decide)) _ _ _),
      raises_silent h rfl he (moveBody_check (hover (by decide) (by decide)) _ _ _), raises_silent h rfl he (insnDepth_check hpush _)⟩

/-! ### TRAP and ILLEGAL (R256, R269) -/

theorem trapAndIllegalRule_holds : trapAndIllegalRule := by
  intro n s imm us h
  refine ⟨fun he => raises_of_exc h (i := insnTrap imm) (c := (s.cores[n]).begun) (ev := some (imm.setWidth 32)) rfl rfl
    (by simp [insnTrap, insn1]) (.inl rfl) he rfl rfl, fun he hd => ?_⟩
  have hi : exec (.illegalInstruction n us) s = .next (s.runInsn n (insn1 (fun _ c => illegal c))) := by
    show execIllegalInstruction n us s = _
    rw [execIllegalInstruction, hd]
  exact raises_silent h hi he rfl

/-- Settles O13: TRAP and ILLEGAL from their bodies, the rest from the stack check. -/
theorem coreExceptions : Obligations.CoreExceptions := ⟨trapAndIllegalRule_holds, stackCheckRule_holds⟩

end Sys2Proof.Machine
end

section
/-! PROOF. Accesses that fault (spec/10 R247, Table 10.9; spec/11 R273). -/
namespace Sys2Proof.Machine

/-! ### Addresses -/

theorem aligned_of_mod_ne {va : Word} {size : Nat} (ha : va.toNat % size ≠ 0) : aligned va size = false := by
  rw [aligned, beq_eq_false_iff_ne]
  exact ha

section
variable {c : Core} (n : CoreId) {va : Word} {size : Nat} (k : XKind)

theorem Core.localAddr_misaligned (ha : va.toNat % size ≠ 0) : c.localAddr n va size k = .error (.exc c 5 (some va) 0) := by
  rw [Core.localAddr, aligned_of_mod_ne ha]
  rfl

/-- An aligned address beyond local SRAM. -/
theorem Core.localAddr_outside (hte : c.te = false) (ha : va.toNat % size = 0) (hl : 0x40000 < va.toNat + size) :
    c.localAddr n va size k = .error (.exc c 0xD (some va) 0) := by
  have hin : inSram (va.setWidth 40) size = false := by
    rw [inSram, BitVec.toNat_setWidth_of_le (by decide)]
    exact decide_eq_false (by omega)
  rw [Core.localAddr, aligned_of_mod ha, Core.translate_off hte]
  simp only [Bool.not_true, Bool.false_eq_true, if_false, bind, Except.bind, hin, Bool.not_false, if_true]

/-- A far address inside local SRAM. -/
theorem Core.farAddr_local (hte : c.te = false) (ha : va.toNat % size = 0) (hl : va.toNat < 0x40000) :
    c.farAddr n va size k = .error (.exc c 0xD (some va) 0) := by
  have hin : decide ((va.setWidth 40 : PAddr).toNat < 0x40000) = true := by
    rw [BitVec.toNat_setWidth_of_le (by decide)]
    exact decide_eq_true hl
  rw [Core.farAddr, aligned_of_mod ha, Core.translate_off hte]
  simp only [Bool.not_true, Bool.false_eq_true, if_false, bind, Except.bind, hin, if_true]

end

/-! ### Loads and stores at them -/

/-- Operands popped for nothing are left. -/
theorem Core.unbegun_popped (c : Core) (r : List Slot) : c.unbegun { c.begun with stack := r } = c := rfl

section
variable {env : CEnv} {c : Core} {a : Word} {r : List Slot} {size : Nat} {e : CRes}

theorem loadBody_fault (hs : c.stack = .val a :: r) (hr : r.length ≤ 255)
    (he : ({ c with stack := r } : Core).localAddr env.n a size .load = .error e) (ext : Nat → Word) : loadBody size ext env c = e := by
  have hpop : c.pop 1 1 = .ok ([a], { c with stack := r }) := Core.pop_val (ws := [a]) hs (by omega)
  simp only [loadBody, hpop, bind, Except.bind, CM.out, List.getD_cons_zero, Core.load]
  rw [he]

theorem storeBody_fault {v : Word} (hs : c.stack = .val a :: .val v :: r) (hr : r.length ≤ 254)
    (he : ({ c with stack := r } : Core).localAddr env.n a size .store = .error e) : storeBody size env c = e := by
  have hpop : c.pop 2 0 = .ok ([a, v], { c with stack := r }) := Core.pop_val (ws := [a, v]) hs (by omega)
  have hcheck : c.check 2 0 = .ok () := Core.check_passes (by rw [Core.depth, hs]; simp) (by rw [Core.depth, hs]; simp; omega)
  have hplain : ((c.stack.take 2).drop 1).any Slot.pending = false := by rw [hs]; rfl
  simp only [storeBody, hcheck, hplain, hpop, bind, Except.bind, CM.out, Bool.false_and, Bool.false_eq_true, if_false, List.getD_cons_zero,
    List.getD_cons_succ, Core.store]
  rw [he]

theorem farLoadBody_fault (hp : c.farAllowed = true) (hs : c.stack = .val a :: r) (hr : r.length ≤ 255)
    (he : ({ c with stack := r } : Core).farAddr env.n a size .load = .error e) (kind : FillKind) : farLoadBody size kind env c = e := by
  have hpop : c.pop 1 1 = .ok ([a], { c with stack := r }) := Core.pop_val (ws := [a]) hs (by omega)
  simp only [farLoadBody, hp, hpop, bind, Except.bind, CM.out, Bool.not_true, Bool.false_eq_true, if_false, List.getD_cons_zero]
  rw [he]

/-- Privilege is checked before the stack (log 32). -/
theorem farLoadBody_user (hp : c.farAllowed = false) (kind : FillKind) : farLoadBody size kind env c = .exc c 2 none 0 := by
  rw [farLoadBody, hp]
  rfl

end

/-! ### The rules -/

section
variable {s : State} {n : CoreId} (h : s.Settled n) {a : Word} {I : Instr} {size cause : Nat} (he : (s.cores[n]).CanEnter cause)
include h he

theorem load_raises {ext : Nat → Word} {r : List Slot} (hi : exec I s = .next (s.runInsn n (insn1 (loadBody size ext))))
    (hs : (s.cores[n]).stack = .val a :: r) (hr : r.length ≤ 255)
    (hf : ∀ c : Core, c.te = false → c.localAddr n a size .load = .error (.exc c cause (some a) 0)) : raises s n I cause a := by
  have hb := loadBody_fault (env := s.coreEnv n) (c := (s.cores[n]).begun) hs hr (hf _ ((Core.begun_te _).trans h.2.1.1)) ext
  exact raises_of_exc h hi rfl (by simp [insn1]) (.inl rfl) he hb (Core.unbegun_popped ..)

theorem store_raises {v : Word} {r : List Slot} (hi : exec I s = .next (s.runInsn n (insn1 (storeBody size))))
    (hs : (s.cores[n]).stack = .val a :: .val v :: r) (hr : r.length ≤ 254)
    (hf : ∀ c : Core, c.te = false → c.localAddr n a size .store = .error (.exc c cause (some a) 0)) : raises s n I cause a := by
  have hb := storeBody_fault (env := s.coreEnv n) (c := (s.cores[n]).begun) hs hr (hf _ ((Core.begun_te _).trans h.2.1.1))
  exact raises_of_exc h hi rfl (by simp [insn1]) (.inl rfl) he hb (Core.unbegun_popped ..)

end

theorem localFaultsRule_holds : localFaultsRule := by
  intro n s a v r h hs hr _
  have hr' : (v :: r).length ≤ 255 := by rw [List.length_cons]; omega
  refine ⟨fun he => ?_, fun he hfar => ?_⟩
  · have load {I : Instr} {size : Nat} {ext : Nat → Word} (hi : exec I s = .next (s.runInsn n (insn1 (loadBody size ext))))
        (ha : a.toNat % size ≠ 0) : raises s n I 5 a := load_raises h he hi hs hr' fun _ _ => Core.localAddr_misaligned n _ ha
    have store {I : Instr} {size : Nat} (hi : exec I s = .next (s.runInsn n (insn1 (storeBody size)))) (ha : a.toNat % size ≠ 0) :
        ∀ w, v = .val w → raises s n I 5 a := fun w hw =>
      store_raises h he hi (v := w) (hw ▸ hs) hr fun _ _ => Core.localAddr_misaligned n _ ha
    exact ⟨fun h4 => ⟨load rfl h4, store rfl h4⟩, fun h2 => ⟨load rfl h2, load rfl h2, store rfl h2⟩⟩
  · have load {I : Instr} {size : Nat} {ext : Nat → Word} (hi : exec I s = .next (s.runInsn n (insn1 (loadBody size ext))))
        (hsize : 0 < size) (ha : a.toNat % size = 0) : raises s n I 0xD a :=
      load_raises h he hi hs hr' fun _ hte => Core.localAddr_outside n _ hte ha (by omega)
    have store {I : Instr} {size : Nat} (hi : exec I s = .next (s.runInsn n (insn1 (storeBody size)))) (hsize : 0 < size)
        (ha : a.toNat % size = 0) : ∀ w, v = .val w → raises s n I 0xD a := fun w hw =>
      store_raises h he hi (v := w) (hw ▸ hs) hr fun _ hte => Core.localAddr_outside n _ hte ha (by omega)
    have h1 := Nat.mod_one a.toNat
    exact ⟨load rfl Nat.one_pos h1, load rfl Nat.one_pos h1, store rfl Nat.one_pos h1,
      fun h4 => ⟨load rfl (by decide) h4, store rfl (by decide) h4⟩⟩

theorem farFaultsRule_holds : farFaultsRule := by
  intro n s a r h hs hr
  refine ⟨fun he hp hl ha => ?_, fun he hp hu => ?_⟩
  · have hp' : (s.cores[n]).begun.farAllowed = true := by rw [Core.farAllowed, Core.begun_priv, hp, Bool.true_or]
    have haddr := Core.farAddr_local (c := { (s.cores[n]).begun with stack := r }) n .load ((Core.begun_te _).trans h.2.1.1) ha hl
    exact raises_of_exc h (i := insnFldw) rfl rfl (by simp [insnFldw, insn1]) (.inl rfl) he
      (farLoadBody_fault (env := s.coreEnv n) (c := (s.cores[n]).begun) hp' hs hr haddr .word) (Core.unbegun_popped ..)
  · have hp' : (s.cores[n]).begun.farAllowed = false := by
      rw [Core.farAllowed, Core.begun_priv, hp, Bool.false_or]
      exact hu
    exact raises_silent h rfl he (farLoadBody_user hp' .word)

/-- Settles O18: local accesses from their address, far ones from their address or privilege. -/
theorem accessFaults : Obligations.AccessFaults := ⟨localFaultsRule_holds, farFaultsRule_holds⟩

end Sys2Proof.Machine
end

section
/-! PROOF. Stack moves and literals (spec/11 Tables 11.3, 11.4; spec/10 R238). -/
namespace Sys2Proof.Machine

/-! ### Moves -/

/-- A move whose dropped slots hold no tag. -/
theorem moveBody_moves {c : Core} {top r : List Slot} {pushes : Nat} {f dropped : List Slot → List Slot} (hs : c.stack = top ++ r)
    (hd : r.length + pushes ≤ 256) (hrel : c.releaseAll (dropped top) = c) (env : CEnv) :
    moveBody top.length pushes f dropped env c = .ok { c with stack := f top ++ r } := by
  have hdepth : c.depth = top.length + r.length := by rw [Core.depth, hs, List.length_append]
  have hcheck : c.check top.length pushes = .ok () := Core.check_passes (by omega) (by omega)
  have htake : c.stack.take top.length = top := by rw [hs, List.take_left]
  have hdrop : c.stack.drop top.length = r := by rw [hs, List.drop_left]
  simp only [moveBody, hcheck, htake, hrel, hdrop, bind, Except.bind, CM.out]

section
variable {s : State} {n : CoreId} (h : s.Settled n)
include h

/-- A move of a settled core. -/
theorem State.runMove {I : Instr} {top r : List Slot} {pushes : Nat} {f dropped : List Slot → List Slot}
    (hi : exec I s = .next (s.runInsn n (insn1 (moveBody top.length pushes f dropped)))) (hs : (s.cores[n]).stack = top ++ r)
    (hd : r.length + pushes ≤ 256) (hrel : (s.cores[n]).begun.releaseAll (dropped top) = (s.cores[n]).begun) :
    exec I s = s.leaves n 1 (f top ++ r) :=
  hi.trans (State.runInsn_leaves (i := insn1 (moveBody top.length pushes f dropped)) h rfl (by simp [insn1])
    (moveBody_moves (c := (s.cores[n]).begun) hs hd hrel (s.coreEnv n)))

/-- A literal of a settled core. -/
theorem State.runLit {I : Instr} {i : Insn} {w : Word} (hi : exec I s = .next (s.runInsn n i)) (hk : i.kind = .scalar) (hu : i.units ≤ 3)
    (hb : i.body = litBody w) (hd : (s.cores[n]).stack.length ≤ 255) : exec I s = s.leaves n i.units (.val w :: (s.cores[n]).stack) := by
  have hcheck : (s.cores[n]).begun.check 0 1 = .ok () := Core.check_passes (Nat.zero_le _) (by rw [Core.depth]; exact Nat.succ_le_succ hd)
  refine hi.trans (State.runInsn_leaves h hk hu ?_)
  rw [hb]
  simp only [litBody, hcheck, bind, Except.bind, CM.out]
  rfl

end

theorem stackMovesRule_holds : stackMovesRule := by
  intro n s x y z v w k l r h hr
  refine ⟨State.runInsn_leaves (i := insnNop) h rfl (by simp [insnNop, insn1]) rfl,
    fun hs => State.runMove h (top := [x]) (pushes := 2) (f := fun l => l ++ l) rfl hs (by omega) rfl,
    fun hs => State.runMove h (top := [.val v]) (pushes := 0) (f := fun _ => []) rfl hs (by omega) rfl,
    fun hs => State.runMove h (top := [x, y]) (pushes := 2) (f := List.reverse) rfl hs (by omega) rfl,
    fun hs => State.runMove h (top := [x, y]) (pushes := 3) (f := fun l => l.drop 1 ++ l) rfl hs (by omega) rfl,
    fun hs => State.runMove h (top := [x, y, z]) (pushes := 3) (f := fun l => l.drop 2 ++ l.take 2) rfl hs (by omega) rfl,
    fun hs hl => ?_, fun hs hl => ?_, fun hs => ?_⟩
  · have hi : exec (.pick n k) s = .next (s.runInsn n (insn1 (moveBody (l ++ [x]).length (k.toNat + 2) (fun l => l.drop k.toNat ++ l) (fun _ => [])))) := by
      rw [List.length_append, hl]
      rfl
    have hmove := State.runMove h hi (r := r) (by rw [hs, List.append_assoc]; rfl) (by omega) rfl
    rw [hmove, ← hl, List.drop_left, List.append_assoc, List.append_assoc]
    rfl
  · have hi : exec (.put n k) s = .next (s.runInsn n (insn1 (moveBody (x :: l ++ [Slot.val w]).length (k.toNat + 1)
        (fun l => (l.drop 1).take k.toNat ++ l.take 1) (fun l => l.drop (k.toNat + 1))))) := by
      rw [List.length_append, List.length_cons, hl]
      rfl
    have hdropped : (x :: l ++ [Slot.val w]).drop (k.toNat + 1) = [.val w] := by rw [← hl, List.cons_append, List.drop_succ_cons, List.drop_left]
    have hmove := State.runMove h hi (r := r) (by rw [hs, List.append_assoc]; rfl) (by omega) (by rw [hdropped]; rfl)
    have htop : ((x :: l ++ [Slot.val w]).drop 1).take k.toNat = l := by
      rw [← hl, List.cons_append, List.drop_succ_cons, List.drop_zero, List.take_left]
    rw [hmove, htop, List.append_assoc]
    rfl
  · have hd : (s.cores[n]).begun.depth = r.length := congrArg List.length hs
    have hcheck : (s.cores[n]).begun.check 0 1 = .ok () := Core.check_passes (Nat.zero_le _) (by omega)
    refine State.runInsn_leaves (i := insnDepth) h rfl (by simp [insnDepth, insn1]) ?_
    have hs' : (s.cores[n]).begun.stack = r := hs
    simp only [insnDepth, insn1, hcheck, bind, Except.bind, CM.out, Core.push_eq, hd, hs']
    rfl

/-! ### A pending slot dropped (R238) -/

section
variable {s : State} {n : CoreId} (h : s.Settled n) {t : Fin 64} {r : List Slot} (hs : (s.cores[n]).stack = .pend t :: r)
include h hs

/-- DROP of a slot that waits under an allocated tag, on a stack no deeper than 257, releases the tag. -/
theorem drop_pending_releases (ha : ((s.cores[n]).tags[t]).alloc = true) (hr : r.length ≤ 256) :
    exec (.drop n) s = s.retire n 1 (fun c => { c.release t with stack := (c.release t).stack.drop 1 }) := by
  have hd : (s.cores[n]).begun.depth = r.length + 1 := congrArg List.length hs
  have htake : (s.cores[n]).begun.stack.take 1 = [.pend t] := congrArg (List.take 1) hs
  have hcheck : (s.cores[n]).begun.check 1 0 = .ok () := Core.check_passes (by omega) (by omega)
  have hrel : (s.cores[n]).begun.releaseAll (id [.pend t]) = (s.cores[n]).begun.release t := by
    have ha' : ((s.cores[n]).begun.tags[t]).alloc = true := ha
    simp only [id, Core.releaseAll, List.foldl_cons, List.foldl_nil, Core.slotTag, ha', if_true]
  refine State.runInsn_retire h (i := insnDrop) (f := fun c => { c.release t with stack := (c.release t).stack.drop 1 }) rfl
    (by simp [insnDrop, insn1]) ?_ (fun _ _ => rfl) (fun _ => rfl)
  simp only [insnDrop, insn1, moveBody, hcheck, htake, hrel, bind, Except.bind, CM.out]
  rfl

/-- On a deeper one the stack check ends it before any effect (R258). -/
theorem drop_pending_overflows (he : (s.cores[n]).CanEnter 3) (hr : 256 < r.length) : raises s n (.drop n) 3 (s.cores[n]).eval := by
  have hd : (s.cores[n]).begun.depth = r.length + 1 := congrArg List.length hs
  exact raises_silent h rfl he (moveBody_check (Core.check_overflow (by omega) (by omega)) _ _ _)

end

/-- Core 0 awake with 258 slots on its stack, the top one pending on tag 0, which is allocated. -/
def deepPending : State :=
  { State.reset with
    pwr := { State.reset.pwr with on := domBit 304 }
    cores := vmod State.reset.cores 0 (fun c => { c with
      halted := false, haltReq := false, sp := 0x1000, vbase := 0x2000, stack := .pend 0 :: List.replicate 257 (.val 0)
      tags := vmod c.tags 0 (fun g => { g with alloc := true }) }) }

theorem deepPending_settled : deepPending.Settled 0 := by
  refine ⟨?_, ⟨by decide, by decide, by decide, by decide, by decide, by decide⟩, by decide, by decide⟩
  have hon : deepPending.pwr.on.getLsbD (304 + (0 : CoreId).val) = true := getLsbD_domBit (by decide)
  simp only [State.coreReady, hon]
  rfl

theorem deepPending_canEnter : (deepPending.cores[(0 : CoreId)]).CanEnter 3 := by
  unfold Core.CanEnter
  decide

/-! ### Literals -/

theorem literalsRule_holds : literalsRule := by
  intro n s b v w x r h hr
  refine ⟨fun hs => ?_, fun hs => ?_, fun hs => ?_, fun hs => ?_⟩
  · rw [← hs] at hr ⊢
    exact State.runLit h (i := insnLit8 b) rfl rfl (by simp [insnLit8, insn1]) rfl hr
  · rw [← hs] at hr ⊢
    exact State.runLit h (i := insnLit16 v) rfl rfl (by simp [insnLit16, insn2]) rfl hr
  · rw [← hs] at hr ⊢
    exact State.runLit h (i := insnLit32 w) rfl rfl (by simp [insnLit32, insn3]) rfl hr
  · have hpop : (s.cores[n]).begun.pop 1 1 = .ok ([x], { (s.cores[n]).begun with stack := r }) := Core.pop_val (ws := [x]) hs (by omega)
    refine State.runInsn_leaves (i := insnLithi v) h rfl (by simp [insnLithi, insn2]) ?_
    simp only [insnLithi, insn2, hpop, bind, Except.bind, CM.out, Core.push_eq]
    rfl

/-- Refutes O6: `dropReleasesRule` leaves the stack below the dropped slot unbounded. With 258 slots, two more than the stack holds, the stack
check of R258 ends DROP with STKOVF and the tag stays allocated. Where at most 256 slots lie below it, DROP releases the tag
(`drop_pending_releases`), and the other two parts hold (`stackMovesRule_holds`, `literalsRule_holds`). -/
theorem not_stackAndLiterals : ¬ Obligations.StackAndLiterals := by
  rintro ⟨-, hdrop, -⟩
  have hs : (deepPending.cores[(0 : CoreId)]).stack = .pend 0 :: List.replicate 257 (.val 0) := rfl
  have ha : ((deepPending.cores[(0 : CoreId)]).tags[(0 : Fin 64)]).alloc = true := by decide
  obtain ⟨u, hu, hfree, -⟩ := hdrop 0 deepPending 0 _ deepPending_settled hs ha
  obtain ⟨t, ht, -, hin⟩ := drop_pending_overflows deepPending_settled hs deepPending_canEnter (by rw [List.length_replicate]; decide)
  rw [← Host.Outcome.next.inj (ht.symm.trans hu), hin.1] at hfree
  exact Bool.false_ne_true (hfree.symm.trans ha)

end Sys2Proof.Machine
end

section
/-! PROOF. Register moves, CSR reads and writes, and the mode shadow (spec/11 Table 11.7; spec/10 Table 10.4, R242). -/
namespace Sys2Proof.Machine

/-! ### Registers -/

theorem toNat_frameReg (k : Fin 8) : (BitVec.ofNat 8 k.val).toNat = k.val := by
  rw [BitVec.toNat_ofNat]
  exact Nat.mod_eq_of_lt (by omega)

/-- A frame register. -/
theorem Core.reg_frame (c : Core) (k : Fin 8) : c.reg (BitVec.ofNat 8 k.val).toNat = some c.f[k] := by
  unfold Core.reg
  rw [toNat_frameReg, if_pos k.isLt]
  exact congrArg (fun i : Fin 8 => some c.f[i]) (ix_val k)

theorem Core.setReg_frame (c : Core) (k : Fin 8) (w : Word) : c.setReg (BitVec.ofNat 8 k.val).toNat w = { c with f := c.f.set k.val w } := by
  unfold Core.setReg
  rw [toNat_frameReg, if_pos k.isLt, ix_val]
  rfl

section
variable {s : State} {n : CoreId} (h : s.Settled n) {r : List Slot} (hr : r.length ≤ 255)
include h hr

/-- RDR pushes the register. -/
theorem rdr_pushes (hs : (s.cores[n]).stack = r) {k : Byte} {w : Word} (hreg : (s.cores[n]).begun.reg k.toNat = some w) :
    exec (.rdr n k) s = s.leaves n 1 (.val w :: r) := by
  have hcheck : (s.cores[n]).begun.check 0 1 = .ok () := by
    have hd : (s.cores[n]).begun.depth = r.length := congrArg List.length hs
    exact Core.check_passes (Nat.zero_le _) (by omega)
  have hs' : (s.cores[n]).begun.stack = r := hs
  refine State.runInsn_leaves (i := insnRdr k) h rfl (by simp [insnRdr, insn1]) ?_
  simp only [insnRdr, insn1, hreg, hcheck, bind, Except.bind, CM.out, Core.push_eq, hs']
  rfl

section
variable {w : Word} (hs : (s.cores[n]).stack = .val w :: r)
include hs

omit h in
theorem pop_begun : (s.cores[n]).begun.pop 1 0 = .ok ([w], { (s.cores[n]).begun with stack := r }) :=
  Core.pop_val (ws := [w]) hs (by omega)

omit h in
/-- WRR takes the top word into the register; SP takes multiples of 4 only. -/
theorem insnWrr_body {k : Byte} {v : Word} (hreg : (s.cores[n]).begun.reg k.toNat = some v) :
    (insnWrr k).body (s.coreEnv n) (s.cores[n]).begun =
      if k.toNat = 12 ∧ fld w 0 2 ≠ 0 then .exc { (s.cores[n]).begun with stack := r } 5 (some w) 0
      else .ok (({ (s.cores[n]).begun with stack := r } : Core).setReg k.toNat w) := by
  simp only [insnWrr, insn1, hreg, pop_begun hr hs, bind, Except.bind, CM.out, List.getD_cons_zero]

theorem wrr_writes {k : Byte} {v : Word} (hreg : (s.cores[n]).begun.reg k.toNat = some v) (hk : ¬ (k.toNat = 12 ∧ fld w 0 2 ≠ 0)) {f : Core → Core}
    (hset : ({ (s.cores[n]).begun with stack := r } : Core).setReg k.toNat w = f (s.cores[n]).begun)
    (hf : ∀ (c : Core) p, f { c with pc := p } = { f c with pc := p }) (hstep : ∀ c : Core, (f c).stepping = c.stepping) :
    exec (.wrr n k) s = s.retire n 1 f := by
  refine State.runInsn_retire h (i := insnWrr k) rfl (by simp [insnWrr, insn1]) ?_ hf hstep
  rw [insnWrr_body hr hs hreg, if_neg hk, hset]

end
end

/-- The two low bits of an address. -/
theorem fld_low2 (w : Word) : (fld w 0 2 : BitVec 2) ≠ 0 ↔ w.toNat % 4 ≠ 0 := by
  rw [Ne, ← BitVec.toNat_inj, fld, BitVec.extractLsb'_toNat, Nat.shiftRight_zero]
  rfl

theorem registerMovesRule_holds : registerMovesRule := by
  intro n s k w r h hr
  refine ⟨fun hs => ?_, fun hs => ?_⟩
  · exact ⟨rdr_pushes h hr hs (Core.reg_frame _ k), rdr_pushes h hr hs rfl, rdr_pushes h hr hs rfl, rdr_pushes h hr hs rfl,
      rdr_pushes h hr hs rfl, rdr_pushes h hr hs rfl⟩
  · have hk : ¬ ((BitVec.ofNat 8 k.val).toNat = 12 ∧ fld w 0 2 ≠ 0) := by
      rw [BitVec.toNat_ofNat]
      omega
    refine ⟨wrr_writes h hr hs (Core.reg_frame _ k) hk (f := fun d => { d with stack := r, f := d.f.set k.val w }) (Core.setReg_frame ..)
        (fun _ _ => rfl) (fun _ => rfl),
      wrr_writes h hr hs rfl (fun hx => absurd hx.1 (by decide)) (f := fun d => { d with stack := r, cnt := w }) rfl (fun _ _ => rfl) (fun _ => rfl),
      wrr_writes h hr hs rfl (fun hx => absurd hx.1 (by decide)) (f := fun d => { d with stack := r, src := w }) rfl (fun _ _ => rfl) (fun _ => rfl),
      wrr_writes h hr hs rfl (fun hx => absurd hx.1 (by decide)) (f := fun d => { d with stack := r, dst := w }) rfl (fun _ _ => rfl) (fun _ => rfl),
      wrr_writes h hr hs rfl (fun hx => absurd hx.1 (by decide)) (f := fun d => { d with stack := r, lk := w }) rfl (fun _ _ => rfl) (fun _ => rfl),
      fun h4 => wrr_writes h hr hs rfl (fun hx => (fld_low2 w).mp hx.2 h4) (f := fun d => { d with stack := r, sp := w }) rfl (fun _ _ => rfl)
        (fun _ => rfl), fun h4 he => ?_⟩
    refine raises_of_exc h (i := insnWrr 12) rfl rfl (by simp [insnWrr, insn1]) (.inl rfl) he (ev := some w) ?_ (Core.unbegun_popped _ r)
    rw [insnWrr_body hr hs rfl, if_pos ⟨rfl, (fld_low2 w).mpr h4⟩]

/-! ### CSRs -/

section
variable {s : State} {n : CoreId} (h : s.Settled n) (hp : (s.cores[n]).priv = true) {r : List Slot} (hr : r.length ≤ 255)
include h hp hr

/-- CSRR of a register that reading leaves alone. -/
theorem csrr_pushes (hs : (s.cores[n]).stack = r) {k : Byte} {w : Word} (hl : csrListed k.toNat = true) (hv : csrVector k.toNat = false)
    (hread : (s.cores[n]).begun.csrRead n k.toNat = (s.cores[n]).begun) (hw : (s.cores[n]).begun.csr n k.toNat = w) :
    exec (.csrr n k) s = s.leaves n 1 (.val w :: r) := by
  have hp' : (s.cores[n]).begun.priv = true := (Core.begun_priv _).trans hp
  have hcheck : (s.cores[n]).begun.check 0 1 = .ok () := by
    have hd : (s.cores[n]).begun.depth = r.length := congrArg List.length hs
    exact Core.check_passes (Nat.zero_le _) (by omega)
  have hs' : (s.cores[n]).begun.stack = r := hs
  have hn : (s.coreEnv n).n = n := rfl
  refine State.runInsn_leaves (i := insnCsrr k) h rfl (by simp [insnCsrr, insn1]) ?_
  simp only [insnCsrr, insn1, hl, hp', hcheck, Core.vecIdle, hv, hn, hread, hw, Bool.not_true, Bool.false_and, Bool.false_eq_true, if_false, bind,
    Except.bind, CM.out, Core.push_eq, hs']
  rfl

section
variable {w : Word} (hs : (s.cores[n]).stack = .val w :: r)
include hs

omit h in
/-- CSRW of a scalar register that can be written. -/
theorem insnCsrw_body {k : Byte} (hl : csrListed k.toNat = true) (hro : csrRO k.toNat = false) (hv : csrVector k.toNat = false) :
    (insnCsrw k).body (s.coreEnv n) (s.cores[n]).begun =
      .ok (if csrShadowed k.toNat then { (s.cores[n]).begun with stack := r, shadow := some (k, w) }
        else ({ (s.cores[n]).begun with stack := r } : Core).csrWrite (s.coreEnv n) k.toNat w) := by
  have hp' : (s.cores[n]).begun.priv = true := (Core.begun_priv _).trans hp
  have hgrp : ¬ (k.toNat = 0x20 ∧ fld w 0 2 = 3) := by
    rintro ⟨hk, -⟩
    rw [hk] at hv
    exact absurd hv (by decide)
  simp only [insnCsrw, insn1, hl, hp', hro, pop_begun hr hs, Core.vecIdle, hv, hgrp, Bool.not_true, Bool.false_and, Bool.false_eq_true, if_false,
    bind, Except.bind, CM.out, List.getD_cons_zero]
  cases csrShadowed k.toNat <;> rfl

/-- A CSR that takes its value at once. -/
theorem csrw_writes {k : Byte} (hl : csrListed k.toNat = true) (hro : csrRO k.toNat = false) (hv : csrVector k.toNat = false)
    (hk : csrShadowed k.toNat = false) {f : Core → Core}
    (hw : ({ (s.cores[n]).begun with stack := r } : Core).csrWrite (s.coreEnv n) k.toNat w = f (s.cores[n]).begun)
    (hf : ∀ (c : Core) p, f { c with pc := p } = { f c with pc := p }) (hstep : ∀ c : Core, (f c).stepping = c.stepping) :
    exec (.csrw n k) s = s.retire n 1 f := by
  refine State.runInsn_retire h (i := insnCsrw k) rfl (by simp [insnCsrw, insn1]) ?_ hf hstep
  rw [insnCsrw_body hp hr hs hl hro hv, hk, if_neg Bool.false_ne_true, hw]

/-- A CSR behind the mode shadow (R242). -/
theorem csrw_shadows {k : Byte} (hl : csrListed k.toNat = true) (hro : csrRO k.toNat = false) (hv : csrVector k.toNat = false)
    (hk : csrShadowed k.toNat = true) : exec (.csrw n k) s = s.retire n 1 (fun d => { d with stack := r, shadow := some (k, w) }) := by
  refine State.runInsn_retire h (i := insnCsrw k) (f := fun d => { d with stack := r, shadow := some (k, w) }) rfl (by simp [insnCsrw, insn1]) ?_
    (fun _ _ => rfl) (fun _ => rfl)
  rw [insnCsrw_body hp hr hs hl hro hv, hk, if_pos rfl]

end
end

theorem csrMovesRule_holds : csrMovesRule := by
  intro n s w r h hp hr
  refine ⟨fun hs => ?_, fun hs => ?_⟩
  · have read {k : Byte} {v : Word} := csrr_pushes (k := k) (w := v) h hp hr hs
    exact ⟨read rfl rfl rfl rfl, read rfl rfl rfl rfl, read rfl rfl rfl rfl, read rfl rfl rfl rfl, read rfl rfl rfl rfl, read rfl rfl rfl rfl,
      read rfl rfl rfl rfl, read rfl rfl rfl rfl, read rfl rfl rfl rfl, read rfl rfl rfl rfl⟩
  · have write {k : Byte} := csrw_writes (k := k) h hp hr hs
    refine ⟨write rfl rfl rfl rfl (f := fun d => { d with stack := r, vbase := w &&& 0xFFFFFF00 }) rfl (fun _ _ => rfl) (fun _ => rfl),
      write rfl rfl rfl rfl (f := fun d => { d with stack := r, epc := w }) rfl (fun _ _ => rfl) (fun _ => rfl),
      write rfl rfl rfl rfl (f := fun d => { d with stack := r, eval := w }) rfl (fun _ _ => rfl) (fun _ => rfl),
      write rfl rfl rfl rfl (f := fun d => { d with stack := r, ien := w &&& 0xFFFFDFFF }) rfl (fun _ _ => rfl) (fun _ => rfl),
      write rfl rfl rfl rfl (f := fun d => { d with stack := r, tmr := w }) rfl (fun _ _ => rfl) (fun _ => rfl), fun k hk => ?_⟩
    have hkind : csrListed k.toNat = true ∧ csrRO k.toNat = false ∧ csrVector k.toNat = false ∧ csrShadowed k.toNat = true := by
      revert k
      decide
    obtain ⟨hl, hro, hv, hsh⟩ := hkind
    exact csrw_shadows h hp hr hs hl hro hv hsh

/-! ### The mode shadow -/

/-- Units inside local SRAM are fetched. -/
theorem Core.Direct.fetch {c : Core} (h : c.Direct) (n : CoreId) {k : Nat} {va : Word} (hv : va.toNat + 2 * k ≤ 0x40000) : c.fetch n k va = .ok c := by
  induction k generalizing va with
  | zero => rfl
  | succ k ih =>
    have hin : inSram (va.setWidth 40) 2 = true := by
      rw [inSram, BitVec.toNat_setWidth_of_le (by decide)]
      exact decide_eq_true (by omega)
    rw [Core.fetch, Core.translate_off h.1]
    simp only [bind, Except.bind, hin, Core.parkedOverlap_empty h.2, Bool.not_true, Bool.false_eq_true, if_false]
    exact ih (by bv_omega)

/-- Core `c` finds its instruction at PC and nothing that holds it, whatever CSR write is pending. -/
def Core.Runs (c : Core) : Prop :=
  c.Direct ∧ c.pc.toNat + 6 ≤ 0x40000 ∧ c.vec.queue = [] ∧ c.vec.valid = false ∧ c.entering = none

/-- Core `c` behind a NOP: the CSR write that was pending takes effect, and a STEP ends. -/
def Core.nopped (c : Core) : Core := (({ c.begun.past 1 with shadow := none } : Core).applyShadow c.shadow false).stepEnd

theorem Core.Runs.begin_nop {c : Core} (h : c.Runs) (env : CEnv) : Core.begin env insnNop c = .ok (c.setSip false) := by
  obtain ⟨hd, hpc, hq, hv, -⟩ := h
  have hhold : c.vecHold = .ok c := by simp [Core.vecHold, Core.report, hq, hv]
  have hf : c.fetch env.n 1 c.pc = .ok c := hd.fetch env.n (by omega)
  simp only [Core.begin, insnNop, insn1, reduceCtorEq, or_self, if_false, hhold, hf, bind, Except.bind, CM.out]

theorem Core.Runs.awake {c : Core} (h : c.Runs) : ({ ({ c with asleep := false } : Core) with shadow := none } : Core).Runs := h

theorem State.runInsn_nop {s : State} {n : CoreId} (hr : s.coreReady n = true) (h : (s.cores[n]).Runs) :
    s.runInsn n insnNop = s.setCore n (s.cores[n]).nopped := by
  have hent : ({ s.cores[n] with asleep := false } : Core).entering = none := h.2.2.2.2
  have hb := h.awake.begin_nop (s.coreEnv n)
  have hn : (s.cores[n]).nopped = ((({ ({ s.cores[n] with asleep := false } : Core).setSip false with shadow := none } : Core).past 1).applyShadow
    ({ s.cores[n] with asleep := false } : Core).shadow false).stepEnd := rfl
  unfold State.runInsn State.runInsnWith
  rw [if_neg (by simp [hr]), hn]
  generalize ({ s.cores[n] with asleep := false } : Core) = orig at hent hb ⊢
  have hk : insnNop.kind = .scalar := rfl
  simp only [hb, CRes.ok, hk, reduceCtorEq, decide_false, Bool.false_and, List.isEmpty_nil, Bool.and_true, Bool.not_true, Bool.and_false,
    Bool.false_eq_true, if_false, List.foldl_nil, Option.getD_none]
  split
  · next v hv => exact absurd (hent.symm.trans hv) (Option.some_ne_none v).symm
  · exact congrArg (fun c : Core => s.setCore n (c.applyShadow orig.shadow false).stepEnd) rfl

/-- CCFG written behind a NOP. -/
theorem Core.applyShadow_ccfg (c : Core) (w : Word) : c.applyShadow (some (0x01, w)) false = { c with ccfg := w &&& 7 } := rfl

theorem Core.nopped_ccfg {c : Core} {w : Word} (hsh : c.shadow = some (0x01, w)) (hstep : c.stepping = false) :
    c.nopped = { c.begun.past 1 with shadow := none, ccfg := w &&& 7 } := by
  rw [Core.nopped, hsh, Core.applyShadow_ccfg]
  exact Core.stepEnd_plain hstep

theorem modeShadowRule_holds : modeShadowRule := by
  intro n s w h hsh
  have hcore : (vmod s.cores n (fun c => { c with shadow := none }))[n] = { s.cores[n] with shadow := none } := vmod_at ..
  obtain ⟨hr, hset⟩ := h
  have hready : s.coreReady n = true := by
    rw [← hr]
    simp only [State.coreReady, State.enabledIrq, State.irqWord, hcore]
    rfl
  have hset' : ({ s.cores[n] with shadow := none } : Core).Settled := hcore ▸ hset
  obtain ⟨⟨hte, hpc, -, hst, hstep, hent⟩, hq, hv⟩ := hset'
  have hi : exec (.nop n) s = .next (s.runInsn n insnNop) := rfl
  rw [hi, State.runInsn_nop hready ⟨⟨hte, hst⟩, hpc, hq, hv, hent⟩, Core.nopped_ccfg hsh hstep]
  rfl

/-- Settles O14: registers, CSRs and the mode shadow. -/
theorem registersAndCsrs : Obligations.RegistersAndCsrs := ⟨registerMovesRule_holds, csrMovesRule_holds, modeShadowRule_holds⟩

end Sys2Proof.Machine
end

section
/-! PROOF. RETI (spec/10 R243, R245; spec/06 R161). -/
namespace Sys2Proof.Machine

/-- Words read from an address upward, where all of them lie in local SRAM. -/
theorem Core.Direct.loadWords {c : Core} (h : c.Direct) (n : CoreId) {k : Nat} {a : Word} (ha : a.toNat % 4 = 0) (hl : a.toNat + 4 * k ≤ 0x40000) :
    c.loadWords n k a = .ok ((List.range k).map (fun i => c.wordAt (a.toNat + 4 * i)), c) := by
  induction k generalizing a with
  | zero => rfl
  | succ k ih =>
    have hload : c.load n a 4 = .ok ((c.wordAt a.toNat).toNat, c) := h.load n ⟨ha, by omega⟩
    rw [Core.loadWords, hload]
    dsimp only [bind, Except.bind]
    rw [List.range_succ_eq_map, List.map_cons, List.map_map, BitVec.ofNat_toNat, BitVec.setWidth_eq, Nat.mul_zero, Nat.add_zero]
    by_cases hk : k = 0
    · subst hk
      rfl
    · have hnext : (a + 4).toNat = a.toNat + 4 := by
        rw [BitVec.toNat_add]
        exact Nat.mod_eq_of_lt (by show a.toNat + 4 < _; omega)
      rw [ih (by omega) (by omega), hnext]
      refine congrArg (fun l => Except.ok (c.wordAt a.toNat :: l, c)) (List.map_congr_left fun i _ => ?_)
      show c.wordAt (a.toNat + 4 + 4 * i) = c.wordAt (a.toNat + 4 * (i + 1))
      rw [Nat.mul_succ, Nat.add_comm (4 * i), Nat.add_assoc]

/-- What RETI leaves of a core: the six words from SP upward. -/
def Core.returned (c : Core) : Core :=
  { c with
    lk := c.wordAt (c.sp.toNat + 16), sp := c.sp + 24, cst := (c.wordAt (c.sp.toNat + 12) &&& 0xFF) ||| (c.cst &&& 0x40)
    f := (c.f.set 0 (c.wordAt (c.sp.toNat + 4))).set 1 (c.wordAt c.sp.toNat) }

theorem insnReti_body {c : Core} (h : c.Direct) (hp : c.priv = true) (ha : c.sp.toNat % 4 = 0) (hl : c.sp.toNat + 24 ≤ 0x40000)
    (hd : c.wordAt (c.sp.toNat + 8) = BitVec.ofNat 32 c.depth) (hdepth : c.depth ≤ 256) (hpc : (c.wordAt (c.sp.toNat + 20)).getLsbD 0 = false)
    (env : CEnv) : insnReti.body env c = .done c.returned (some (c.wordAt (c.sp.toNat + 20))) [] [] := by
  have hwords : c.loadWords env.n 6 c.sp = .ok ([c.wordAt c.sp.toNat, c.wordAt (c.sp.toNat + 4), c.wordAt (c.sp.toNat + 8),
      c.wordAt (c.sp.toNat + 12), c.wordAt (c.sp.toNat + 16), c.wordAt (c.sp.toNat + 20)], c) := h.loadWords env.n (k := 6) ha hl
  have hsame : (c.wordAt (c.sp.toNat + 8)).toNat = c.depth := by
    rw [hd, BitVec.toNat_ofNat]
    exact Nat.mod_eq_of_lt (by omega)
  have hf : vset (vset c.f 1 (c.wordAt c.sp.toNat)) 0 (c.wordAt (c.sp.toNat + 4)) =
      (c.f.set 0 (c.wordAt (c.sp.toNat + 4))).set 1 (c.wordAt c.sp.toNat) := Vector.set_comm _ _ (by decide)
  simp only [insnReti, hp, Bool.not_true, Bool.false_eq_true, if_false, bind, Except.bind, CM.out, hwords, List.getD_cons_zero, List.getD_cons_succ,
    hsame, ne_eq, not_true_eq_false, Core.goto, hpc, Core.writeCst, hf]
  rfl

/-- RETI of a settled core goes on at the stacked PC (R245). -/
theorem reti_returns {s : State} {n : CoreId} (h : s.Settled n) {t : Word} (hb : insnReti.body (s.coreEnv n) (s.cores[n]).begun =
    .done (s.cores[n]).begun.returned (some t) [] []) : exec (.reti n) s = .next (s.setCore n { (s.cores[n]).begun.returned with pc := t }) := by
  have hi : exec (.reti n) s = .next (s.runInsn n insnReti) := rfl
  have hk : insnReti.kind = .reti := rfl
  have hstep : ({ (s.cores[n]).begun.returned with pc := t } : Core).stepping = false := h.2.1.2.2.2.2.1
  rw [hi, State.runInsn, State.runInsnWith_settled h _ (by simp [insnReti]), hk]
  simp only [reduceCtorEq, or_self, if_false]
  rw [hb]
  simp only [State.ends, hk, reduceCtorEq, decide_false, Bool.false_and, Bool.false_eq_true, if_false, List.isEmpty_nil, Bool.and_true,
    Bool.not_true, Bool.and_false, List.foldl_nil, Option.getD_some]
  rw [Core.stepEnd_plain hstep]

/-- Beginning an instruction leaves TNT. -/
theorem Core.begun_tnt (c : Core) : c.begun.cst &&& 0x40 = c.cst &&& 0x40 := by
  show c.cst &&& 0xFFFFFF7F &&& 0x40 = _
  rw [BitVec.and_assoc]
  rfl

/-- Settles O11: the six words are read back, and the core goes on at the last. -/
theorem reti : Obligations.Reti := by
  intro n s h hp c ha hl hd hdepth hpc
  have hbody := insnReti_body (c := (s.cores[n]).begun) h.2.1.direct ((Core.begun_priv _).trans hp) ha hl hd hdepth hpc (s.coreEnv n)
  rw [reti_returns h hbody, Core.returned, Core.begun_tnt]
  rfl

end Sys2Proof.Machine
end

section
/-! PROOF. Interrupts of a core, its timer and its doorbell (spec/10 R244, R255, Table 10.8). -/
namespace Sys2Proof.Machine

/-! ### The entry of an interrupt (R244) -/

/-- The lowest request of a word. -/
theorem find_lowest {w : Word} {k : Nat} (hk : k < 32) (hset : w.getLsbD k = true) (hlow : ∀ j < k, w.getLsbD j = false) :
    (List.range 32).find? (fun i => w.getLsbD i) = some k := by
  rw [List.find?_range_eq_some]
  exact ⟨hset, List.mem_range.mpr hk, fun j hj => by rw [hlow j hj]; rfl⟩

theorem interruptEntryRule_holds : interruptEntryRule := by
  intro n s k hon hset hhalt hreq htest hlate hie hk hbit hlow he
  obtain ⟨⟨hte, -, hsh, hst, hstep, hent⟩, hq, -⟩ := hset
  obtain ⟨c', hc', hin⟩ := Core.enter_entered (v := 32 + k) he ⟨hte, hst⟩ hq n
  have hdf : c'.dfault = (s.cores[n]).dfault := hin.alive.2
  rw [Core.noEntering hent] at hin
  refine ⟨c', hin, ?_⟩
  have hfree : (!(s.pwr.on.getLsbD (304 + n.val)) || (s.cores[n]).halted || (s.cores[n]).haltReq || (s.cores[n]).selftest || !(s.cores[n]).ie ||
      (s.cores[n]).shadow.isSome || (s.cores[n]).late.isSome || (s.cores[n]).stepping || (s.cores[n]).entering.isSome) = false := by
    rw [hon, hhalt, hreq, htest, hie, hsh, hlate, hstep, hent]
    rfl
  show execInterruptEntry n s = _
  simp only [execInterruptEntry, State.takeInterrupt, hfree, Bool.false_eq_true, if_false, find_lowest hk hbit hlow, hc', if_true]
  rw [State.entered_alive (c := { c' with irq := c'.irq &&& ~~~((1 : Word) <<< k), asleep := false }) hdf]

/-! ### Actions at a core's control block -/

section
variable {s : State} {acc : Acc} {n : CoreId} (hg : s.coreGate acc n = none)
include hg

/-- An action that the gate lets through runs on the state but for the network's counters, and is answered. -/
theorem State.coreAction_open (f : State → Status × State) :
    ∃ k, (s.coreAction acc n f).cores = (f { s with net := k }).2.cores := by
  have hgate : (s.enters (accReachesRegs acc) acc 4).coreGate acc n = none := by
    rw [← hg]
    unfold State.enters
    split <;> rfl
  obtain ⟨k, hk⟩ : ∃ k, s.enters (accReachesRegs acc) acc 4 = { s with net := k } := by
    unfold State.enters
    split
    · exact ⟨_, rfl⟩
    · exact ⟨s.net, rfl⟩
  refine ⟨k, ?_⟩
  rw [hk] at hgate
  simp only [State.coreAction, hk, hgate, State.answer_cores]

end

/-! ### The timer and CDBELL (R255, Table 10.8) -/

theorem timerAndDoorbellRule_holds : timerAndDoorbellRule := by
  intro n s acc
  refine ⟨fun hon ht => ?_, fun ht => ?_, fun hg => ?_⟩
  · show execCoreTimerExpiry n s = _
    rw [execCoreTimerExpiry, hon, decide_eq_true ht, Bool.and_self, if_pos rfl]
    rfl
  · show execCoreTimerExpiry n s = _
    rw [execCoreTimerExpiry, ht, if_neg (by simp)]
  · obtain ⟨k, hk⟩ := State.coreAction_open hg (fun t => (.ok, t.raiseAt n 30))
    exact ⟨_, rfl, hk⟩

/-- Settles O21: entry from the core's rule, the timer and the doorbell from what they raise. -/
theorem interrupts : Obligations.Interrupts := ⟨interruptEntryRule_holds, timerAndDoorbellRule_holds⟩

end Sys2Proof.Machine
end

section
/-! PROOF. CCTL: reset, halt and STEP of a core (spec/10 R252). -/
namespace Sys2Proof.Machine

/-! ### Writes -/

/-- Outside SERVICE only HC may write it. -/
theorem State.cctlOpen_closed {s : State} {acc : Acc} (hm : s.mode ≠ .service) (hsrc : acc.src.val ≠ 4) : s.cctlOpen acc = false := by
  rw [State.cctlOpen, Bool.or_eq_false_iff]
  exact ⟨decide_eq_false hm, decide_eq_false hsrc⟩

section
variable {s : State} {acc : Acc} {n : CoreId} (hg : s.coreGate acc n = none)
include hg

/-- A write that CCTL refuses leaves the cores. -/
theorem cctl_refused {i : Instr} {f : State → Status × State} (hi : exec i s = .next (s.coreAction acc n f))
    (hf : ∀ k, (f { s with net := k }).2.cores = s.cores) : ∃ t, exec i s = .next t ∧ t.cores = s.cores := by
  obtain ⟨k, hk⟩ := State.coreAction_open hg f
  exact ⟨_, hi, hk.trans (hf k)⟩

/-- One that it takes replaces its core. -/
theorem cctl_sets {i : Instr} {f : State → Status × State} (hi : exec i s = .next (s.coreAction acc n f)) {c : Core}
    (hf : ∀ k, (f { s with net := k }).2.cores = vset s.cores n c) :
    ∃ t, exec i s = .next t ∧ t.cores[n] = c ∧ ∀ m, m ≠ n → t.cores[m] = s.cores[m] := by
  obtain ⟨k, hk⟩ := State.coreAction_open hg f
  refine ⟨_, hi, ?_, fun m hm => ?_⟩
  · rw [hk, hf, vset_at]
  · rw [hk, hf, vset_else _ _ _ _ hm]

section
variable (ho : s.cctlOpen acc = true)
include ho

theorem cctlRst_resets : ∃ t, exec (.cctlRst acc n) s = .next t ∧ t.cores[n] = (s.cores[n]).rst ∧ ∀ m, m ≠ n → t.cores[m] = s.cores[m] :=
  cctl_sets hg rfl fun k => by
    have ho' : State.cctlOpen { s with net := k } acc = true := ho
    rw [State.writeRst, if_pos ho']
    rfl

theorem cctlHalt_releases : ∃ t, exec (.cctlHalt acc n false) s = .next t ∧
    t.cores[n] = { s.cores[n] with haltReq := false, stepping := false, halted := (s.cores[n]).dfault } ∧ ∀ m, m ≠ n → t.cores[m] = s.cores[m] :=
  cctl_sets hg rfl fun k => by
    have ho' : State.cctlOpen { s with net := k } acc = true := ho
    rw [State.writeCoreHalt, ho']
    rfl

theorem cctlHalt_asks : ∃ t, exec (.cctlHalt acc n true) s = .next t ∧ t.cores[n] = ({ s.cores[n] with haltReq := true } : Core).settle ∧
    ∀ m, m ≠ n → t.cores[m] = s.cores[m] :=
  cctl_sets hg rfl fun k => by
    have ho' : State.cctlOpen { s with net := k } acc = true := ho
    rw [State.writeCoreHalt, ho']
    rfl

end

end

/-! ### A halt asked for (R252) -/

/-- A CSR write that takes effect changes CSRs only. -/
theorem Core.applyShadow_frame (c : Core) (sh : Option (Byte × Word)) :
    ∃ cst ccfg ptbr wf sl, c.applyShadow sh false = { c with cst := cst, ccfg := ccfg, ptbr := ptbr, walkFault := wf, sloten := sl } := by
  cases sh with
  | none => exact ⟨_, _, _, _, _, rfl⟩
  | some x =>
    show ∃ cst ccfg ptbr wf sl, c.setShadowed x.1 x.2 = _
    unfold Core.setShadowed
    split <;> exact ⟨_, _, _, _, _, rfl⟩

theorem Core.lateShadow_frame (c : Core) :
    ∃ cst ccfg ptbr wf sl late, c.lateShadow = { c with cst := cst, ccfg := ccfg, ptbr := ptbr, walkFault := wf, sloten := sl, late := late } := by
  unfold Core.lateShadow
  split
  · exact ⟨_, _, _, _, _, _, rfl⟩
  · obtain ⟨cst, ccfg, ptbr, wf, sl, e⟩ := c.applyShadow_frame c.late
    exact ⟨cst, ccfg, ptbr, wf, sl, none, by rw [e]⟩

/-- Nor does it bear on the halt. -/
theorem Core.lateShadow_halt (c : Core) : c.lateShadow.haltReq = c.haltReq ∧ c.lateShadow.stepping = c.stepping ∧ c.lateShadow.quiet = c.quiet ∧
    c.lateShadow.vec = c.vec := by
  obtain ⟨cst, ccfg, ptbr, wf, sl, late, e⟩ := c.lateShadow_frame
  rw [e]
  exact ⟨rfl, rfl, rfl, rfl⟩

/-- The halt stays asked for. -/
theorem Core.settle_haltReq (c : Core) : c.settle.haltReq = c.haltReq := by
  rw [← c.lateShadow_halt.1]
  unfold Core.settle
  dsimp only
  split <;> rfl

/-- It takes place at once where a FENCE would complete. -/
theorem Core.settle_halts {c : Core} (hreq : c.haltReq = true) (hstep : c.stepping = false) (hquiet : c.quiet = true) (hq : c.vec.queue = []) :
    c.settle.halted = true := by
  obtain ⟨er, es, eq, ev⟩ := c.lateShadow_halt
  unfold Core.settle
  dsimp only
  split
  · rfl
  · next hno => simpa [er, es, eq, ev, hreq, hstep, hquiet, hq] using hno

/-! ### STEP of a NOP (R252, log 41) -/

/-- Core `c` as STEP begins. -/
def Core.stepBegun (c : Core) : Core := { c with haltReq := false, halted := false, stepping := true }

/-- A STEP ends behind the NOP. -/
theorem Core.nopped_step {c : Core} (hsh : c.shadow = none) (hs : c.stepping = true) :
    c.nopped = { c.begun.past 1 with shadow := none, stepping := false, haltReq := true, halted := true } := by
  rw [Core.nopped, hsh]
  exact if_pos hs

/-- Two zero bytes at PC spell NOP. -/
theorem Core.insnAtPc_nop {c : Core} (hte : c.te = false) (h0 : rdByte 0 c.sram c.pc.toNat = 0) (h1 : rdByte 0 c.sram (c.pc.toNat + 1) = 0)
    (n : CoreId) : c.insnAtPc n = insnNop := by
  have hu : c.unitAt (c.pc + 0) = 0 := by
    have hz : c.pc + 0 = c.pc := BitVec.add_zero _
    rw [hz, Core.unitAt, Core.translate_off hte]
    simp only [Core.sramRead, rdBytes, BitVec.toNat_setWidth_of_le (show 32 ≤ 40 by decide), h0, h1]
    rfl
  have hd (u1 u2 : BitVec 16) : decodeUnits n 0 u1 u2 = some (.nop n) := rfl
  rw [Core.insnAtPc]
  simp only [hu, hd]
  rfl

/-- A core that may begin an instruction may begin it within a STEP. -/
theorem State.coreReady_step {s : State} {n : CoreId} {c : Core} (hstep : c.stepping = false) (hr : (s.setCore n c).coreReady n = true) (k : Net) :
    (State.setCore { s with net := k } n { c with stepping := true }).coreReady n = true := by
  have hl (t : State) (d : Core) : (t.setCore n d).enabledIrq n = (d.irq ||| t.levels n) &&& d.ien := by
    rw [State.enabledIrq, State.irqWord, State.setCore_at]
    rfl
  have hn : State.levels { s with net := k } n = s.levels n := rfl
  simp only [State.coreReady, State.setCore_at, hl, hstep, hn, Bool.and_eq_true, Bool.or_eq_true, Bool.or_false] at hr ⊢
  obtain ⟨⟨⟨⟨⟨hon, hhalt⟩, -⟩, htest⟩, hlate⟩, hidle⟩ := hr
  exact ⟨⟨⟨⟨⟨hon, hhalt⟩, .inr trivial⟩, htest⟩, hlate⟩, hidle.imp_right fun h => ⟨.inr trivial, h.2⟩⟩

/-- A NOP at PC runs in one go. -/
theorem State.stepRun_nop {s : State} {n : CoreId} {c : Core} (hc : s.cores[n] = c) (hr : s.coreReady n = true) (h : c.Runs) (hw : c.walk = none)
    (hsh : c.shadow = none) (hs : c.stepping = true) (hi : c.insnAtPc n = insnNop) (k : Nat) : s.stepRun n (k + 1) = s.setCore n c.nopped := by
  subst hc
  have hwalk : s.coreWalk n = s := by rw [State.coreWalk, hw]
  have hend : ((s.cores[n]).nopped).stepping = false := by rw [Core.nopped_step hsh hs]
  rw [State.stepRun]
  simp only [hwalk, hi, State.runInsn_nop hr h, State.setCore_at, hend, Bool.and_false, Bool.false_eq_true, if_false]

/-- What is settled but for its halt runs when STEP begins. -/
theorem Core.stepBegun_runs {c : Core} (h : ({ c with haltReq := false, halted := false } : Core).Settled) :
    c.stepBegun.Runs ∧ c.stepBegun.shadow = none := by
  obtain ⟨⟨hte, hpc, hsh, hst, -, hent⟩, hq, hv⟩ := h
  exact ⟨⟨⟨hte, hst⟩, hpc, hq, hv, hent⟩, hsh⟩

section
variable {s : State} {acc : Acc} {n : CoreId} (hg : s.coreGate acc n = none)
include hg

theorem cctlStep_runs (hm : s.mode = .service) (hh : (s.cores[n]).halted = true) (hw : (s.cores[n]).walk = none)
    (h : State.Settled (s.setCore n { s.cores[n] with haltReq := false, halted := false }) n) (h0 : rdByte 0 (s.cores[n]).sram (s.cores[n]).pc.toNat = 0)
    (h1 : rdByte 0 (s.cores[n]).sram ((s.cores[n]).pc.toNat + 1) = 0) :
    ∃ t, exec (.cctlStep acc n) s = .next t ∧
      t.cores[n] = { (s.cores[n]).begun.past 1 with shadow := none, stepping := false, haltReq := true, halted := true } ∧
      ∀ m, m ≠ n → t.cores[m] = s.cores[m] := by
  obtain ⟨hr, hset⟩ := h
  rw [State.setCore_at] at hset
  obtain ⟨hruns, hsh⟩ := Core.stepBegun_runs hset
  refine cctl_sets hg rfl fun k => ?_
  have hmode : State.service { s with net := k } = true := decide_eq_true hm
  have hwrite : State.writeCoreStep { s with net := k } n =
      (.ok, State.stepRun (State.setCore { s with net := k } n (s.cores[n]).stepBegun) n 16) := by
    rw [State.writeCoreStep, hmode, hh]
    rfl
  have hready := State.coreReady_step (c := { s.cores[n] with haltReq := false, halted := false }) hset.1.2.2.2.2.1 hr k
  have hrun := State.stepRun_nop (State.setCore_at { s with net := k } n (s.cores[n]).stepBegun) hready hruns hw hsh rfl
    (Core.insnAtPc_nop hruns.1.1 h0 h1 n) 15
  rw [hwrite, hrun, Core.nopped_step hsh rfl]
  exact Vector.set_set ..

end

/-- Settles O23: the writes of CCTL, each from what it makes of its core. -/
theorem coreControl : Obligations.CoreControl := by
  intro n s acc hg
  refine ⟨fun ho => ?_, fun hm hsrc => ⟨?_, ?_⟩, fun hm => ?_, fun hm hh hw h h0 h1 => ?_⟩
  · have ho' : s.cctlOpen acc = true := by
      rw [State.cctlOpen, State.service, ← Bool.decide_or]
      exact decide_eq_true ho
    refine ⟨?_, ?_, ?_⟩
    · obtain ⟨t, ht, hc, hm⟩ := cctlRst_resets hg ho'
      exact ⟨t, ht, by rw [hc]; exact ⟨rfl, rfl, rfl, rfl, rfl, rfl, rfl, hm⟩⟩
    · obtain ⟨t, ht, hc, -⟩ := cctlHalt_releases hg ho'
      exact ⟨t, ht, hc⟩
    · obtain ⟨t, ht, hc, -⟩ := cctlHalt_asks hg ho'
      refine ⟨t, ht, by rw [hc, Core.settle_haltReq], fun ho hst hq hstep => ?_⟩
      rw [hc]
      exact Core.settle_halts rfl hstep (Core.quiet_of_answered ho hst) hq
  · exact cctl_refused hg rfl fun k => by
      have hclosed : State.cctlOpen { s with net := k } acc = false := State.cctlOpen_closed hm hsrc
      rw [State.writeRst, hclosed]
      rfl
  · exact cctl_refused hg rfl fun k => by
      have hclosed : State.cctlOpen { s with net := k } acc = false := State.cctlOpen_closed hm hsrc
      rw [State.writeCoreHalt, hclosed]
      rfl
  · exact cctl_refused hg rfl fun k => by
      have hmode : State.service { s with net := k } = false := decide_eq_false hm
      rw [State.writeCoreStep, hmode]
      rfl
  · obtain ⟨t, ht, hc, hm⟩ := cctlStep_runs hg hm hh hw h h0 h1
    refine ⟨t, ht, ?_⟩
    rw [hc]
    exact ⟨rfl, rfl, rfl, rfl, hm⟩

end Sys2Proof.Machine
end

section
/-! PROOF. What the integer operations and compares compute on words (spec/12 R288). -/
namespace Sys2Proof.Machine

/-! ### Lanes of the types that carry every bit -/

section
variable {ty : BitVec 3} (h : ty.toNat < 4)
include h

theorem int_ne_s18 : ty ≠ 4 := fun e => absurd h (by rw [e]; decide)

theorem valW_int : valW ty = laneW ty := if_neg (int_ne_s18 h)

theorem narrow_int (z : Int) : narrow ty z = (BitVec.ofInt (laneW ty) z).toNat := if_neg (int_ne_s18 h)

theorem laneOf_int (k : Nat) : laneOf ty k = k % 2 ^ laneW ty := if_neg (int_ne_s18 h)

end

/-! ### Words as numbers -/

section
variable {w : Nat} (x y : BitVec w)

theorem sgn_toNat : sgn w x.toNat = x.toInt := by rw [sgn, BitVec.ofNat_toNat, BitVec.setWidth_eq]

theorem mod_toNat : x.toNat % 2 ^ w = x.toNat := Nat.mod_eq_of_lt x.isLt

theorem ofInt_toInt_sub : BitVec.ofInt w (x.toInt - y.toInt) = x - y := by
  rw [Int.sub_eq_add_neg, BitVec.ofInt_add, BitVec.ofInt_neg, BitVec.ofInt_toInt, BitVec.ofInt_toInt, BitVec.sub_eq_add_neg]

/-- The sign fills a word shifted by all its bits but one, so a larger count shifts no further. -/
theorem sshiftRight_min (k : Nat) : x.sshiftRight (min k (w - 1)) = x.sshiftRight k := by
  by_cases hk : k ≤ w - 1
  · rw [Nat.min_eq_left hk]
  refine BitVec.eq_of_getLsbD_eq fun i hi => ?_
  rw [Nat.min_eq_right (by omega), BitVec.getLsbD_sshiftRight, BitVec.getLsbD_sshiftRight, if_neg (show ¬ k + i < w by omega)]
  split
  · next h =>
    obtain rfl : i = 0 := by omega
    rw [Nat.add_zero, BitVec.msb_eq_getLsbD_last]
  · rfl

theorem uns_sshiftRight (k : Nat) : uns w (x.toInt >>> min k (w - 1)) = (x.sshiftRight k).toNat := by
  rw [uns, ← BitVec.toInt_sshiftRight, BitVec.ofInt_toInt, sshiftRight_min]

/-- A count of all bits leaves none. -/
theorem shiftLeft_cut (k : Nat) : (if w ≤ k then 0 else x.toNat <<< k % 2 ^ w) = (x <<< k).toNat := by
  split
  · next h => rw [BitVec.shiftLeft_eq_zero h, BitVec.toNat_ofNat, Nat.zero_mod]
  · rw [BitVec.toNat_shiftLeft]

theorem ushiftRight_cut (k : Nat) : (if w ≤ k then 0 else x.toNat >>> k) = (x >>> k).toNat := by
  split
  · next h => rw [BitVec.ushiftRight_eq_zero h, BitVec.toNat_ofNat, Nat.zero_mod]
  · rw [BitVec.toNat_ushiftRight]

end

/-- The clamp is into the signed range. -/
theorem clampW_eq (w : Nat) (z : Int) : clampW w z = max (-2 ^ (w - 1)) (min z (2 ^ (w - 1) - 1)) := by
  have hpos : (0 : Int) < 2 ^ (w - 1) := by positivity
  unfold clampW
  split
  · omega
  · split <;> omega

/-- Settles O28: each operation on lanes read as words is the word's own. -/
theorem vectorArithmetic : Obligations.VectorArithmetic := by
  intro ty x y h
  simp only [VIntOp.eval, VCmpOp.eval, valW_int h, narrow_int h, laneOf_int h, sgn_toNat, mod_toNat]
  generalize laneW ty = w at x y
  have cut (z : BitVec w) {k : Nat} (hk : k = z.toNat) : k % 2 ^ w = z.toNat := by rw [hk, mod_toNat]
  have sat (z : Int) : uns w (clampW w z) % 2 ^ w = (BitVec.ofInt w (max (-2 ^ (w - 1)) (min z (2 ^ (w - 1) - 1)))).toNat :=
    cut _ (by rw [clampW_eq, uns])
  refine ⟨?add, ?sub, ?mul, cut _ (BitVec.toNat_and ..).symm, cut _ (BitVec.toNat_or ..).symm, cut _ (BitVec.toNat_xor ..).symm, ?min, ?max, ?minu, ?maxu,
    cut _ (shiftLeft_cut x y.toNat), cut _ (ushiftRight_cut x y.toNat), cut _ (uns_sshiftRight x y.toNat), ?neg, ?abs, sat _, sat _, ?eq, ?ne,
    BitVec.slt_eq_decide.symm, BitVec.ult_eq_decide.symm, BitVec.sle_eq_decide.symm, BitVec.ule_eq_decide.symm, BitVec.slt_eq_decide.symm,
    BitVec.ult_eq_decide.symm⟩
  case add => rw [BitVec.ofInt_add, BitVec.ofInt_toInt, BitVec.ofInt_toInt]
  case sub => rw [ofInt_toInt_sub]
  case mul => rw [BitVec.ofInt_mul, BitVec.ofInt_toInt, BitVec.ofInt_toInt]
  case min => exact cut _ (by rw [apply_ite BitVec.toNat]; simp only [BitVec.sle_iff_toInt_le])
  case max => exact cut _ (by rw [apply_ite BitVec.toNat]; simp only [BitVec.sle_iff_toInt_le])
  case minu => rw [← Nat.min_def]; exact Nat.mod_eq_of_lt (lt_of_le_of_lt (Nat.min_le_left _ _) x.isLt)
  case maxu => rw [← Nat.max_def]; exact Nat.mod_eq_of_lt (Nat.max_lt.mpr ⟨x.isLt, y.isLt⟩)
  case neg => rw [BitVec.ofInt_neg, BitVec.ofInt_toInt]
  case abs =>
    rw [BitVec.msb_eq_toInt]
    by_cases hx : x.toInt < 0
    · rw [if_pos hx, if_pos (decide_eq_true hx), BitVec.ofInt_neg, BitVec.ofInt_toInt]
    · rw [if_neg hx, if_neg (by rwa [decide_eq_true_eq]), BitVec.ofInt_toInt]
  case eq => rw [Bool.eq_iff_iff, beq_iff_eq, beq_iff_eq, BitVec.toNat_inj]
  case ne => rw [Bool.eq_iff_iff, bne_iff_ne, bne_iff_ne, Ne, BitVec.toNat_inj]

end Sys2Proof.Machine
end

section
/-! PROOF. The unit executes an operation on elements or a compare at the front of its queue (spec/12 R282 to R284, R287). -/
namespace Sys2Proof.Machine

/-! ### Fields of a bit vector -/

section
variable {n : Nat} (v : BitVec n) {lo w : Nat} (x : BitVec w)

theorem getLsbD_setFld {j : Nat} (hj : j < n) :
    (setFld v lo w x).getLsbD j = if lo ≤ j ∧ j < lo + w then x.getLsbD (j - lo) else v.getLsbD j := by
  simp only [setFld, BitVec.getLsbD_or, BitVec.getLsbD_and, BitVec.getLsbD_not, BitVec.getLsbD_shiftLeft, BitVec.getLsbD_setWidth,
    BitVec.getLsbD_allOnes, hj, decide_true, Bool.true_and]
  by_cases hlo : lo ≤ j
  · have hlt : ¬ j < lo := by omega
    have hn : j - lo < n := by omega
    have hw : j - lo < w ↔ j < lo + w := by omega
    by_cases hhi : j < lo + w
    · simp [hlo, hlt, hn, hhi, hw]
    · simp [hlt, hhi, hw, BitVec.getLsbD_of_ge x (j - lo) (by omega)]
  · have hlt : j < lo := by omega
    simp [hlo, hlt]

/-- A field replaced is read back. -/
theorem fld_setFld_same (h : lo + w ≤ n) : fld (setFld v lo w x) lo w = x := by
  refine BitVec.eq_of_getLsbD_eq fun i hi => ?_
  rw [fld, BitVec.getLsbD_extractLsb', getLsbD_setFld v x (by omega), if_pos (by omega), decide_eq_true hi, Bool.true_and, Nat.add_sub_cancel_left]

/-- A field beside it reads as before. -/
theorem fld_setFld_else {lo' w' : Nat} (h' : lo' + w' ≤ n) (h : lo' + w' ≤ lo ∨ lo + w ≤ lo') : fld (setFld v lo w x) lo' w' = fld v lo' w' := by
  refine BitVec.eq_of_getLsbD_eq fun i hi => ?_
  rw [fld, fld, BitVec.getLsbD_extractLsb', BitVec.getLsbD_extractLsb', getLsbD_setFld v x (by omega), if_neg (by omega)]

end

/-- Bit `i` of the vector that `f` spells. -/
theorem getLsbD_bvOf {w : Nat} (f : Nat → Bool) {i : Nat} (hi : i < w) : (bvOf w f).getLsbD i = f i := by
  have bits (k : Nat) : (List.range k).foldl (fun acc i => if f i then acc + 2 ^ i else acc) 0 < 2 ^ k ∧
      ∀ j < k, ((List.range k).foldl (fun acc i => if f i then acc + 2 ^ i else acc) 0).testBit j = f j := by
    induction k with
    | zero => exact ⟨Nat.one_pos, fun j hj => absurd hj (Nat.not_lt_zero j)⟩
    | succ k ih =>
      rw [List.range_succ, List.foldl_append, List.foldl_cons, List.foldl_nil, Nat.pow_succ]
      generalize (List.range k).foldl _ 0 = acc at ih
      obtain ⟨hlt, hbit⟩ := ih
      cases hf : f k with
      | false =>
        refine ⟨by rw [if_neg Bool.false_ne_true]; omega, fun j hj => ?_⟩
        rw [if_neg Bool.false_ne_true]
        obtain hjk | rfl := Nat.lt_succ_iff_lt_or_eq.mp hj
        · exact hbit j hjk
        · rw [hf, Nat.testBit_lt_two_pow hlt]
      | true =>
        refine ⟨by rw [if_pos rfl]; omega, fun j hj => ?_⟩
        rw [if_pos rfl, Nat.add_comm]
        obtain hjk | rfl := Nat.lt_succ_iff_lt_or_eq.mp hj
        · rw [Nat.testBit_two_pow_add_gt hjk, hbit j hjk]
        · rw [hf, Nat.testBit_two_pow_add_eq, Nat.testBit_lt_two_pow hlt]
          rfl
  rw [bvOf, BitVec.getLsbD_ofNat, (bits w).2 i hi, decide_eq_true hi, Bool.true_and]

/-! ### Elements of an operand (R282) -/

theorem laneW_pos (ty : BitVec 3) : 0 < laneW ty := by revert ty; decide

theorem laneW_dvd (ty : BitVec 3) : laneW ty ∣ 128 := by revert ty; decide

/-- An element lies in one register. -/
theorem lane_fits {w : Nat} (hw : w ∣ 128) (i : Nat) : w * i % 128 + w ≤ 128 := by
  obtain ⟨m, hm⟩ := hw
  have hlt : i % m < m := Nat.mod_lt i (Nat.pos_of_ne_zero fun h0 => by rw [h0] at hm; omega)
  calc w * i % 128 + w = w * (i % m + 1) := by rw [hm, Nat.mul_mod_mul_left, Nat.mul_succ]
    _ ≤ 128 := hm ▸ Nat.mul_le_mul_left w hlt

/-- Two elements of one register lie beside each other. -/
theorem lane_apart {w i j : Nat} (hij : i ≠ j) (hreg : w * i / 128 = w * j / 128) :
    w * i % 128 + w ≤ w * j % 128 ∨ w * j % 128 + w ≤ w * i % 128 := by
  obtain h | h := Nat.lt_or_gt_of_ne hij
  · have hle := Nat.mul_le_mul_left w h
    rw [Nat.mul_succ] at hle
    omega
  · have hle := Nat.mul_le_mul_left w h
    rw [Nat.mul_succ] at hle
    omega

/-- An element below the capacity lies in a register of the group. -/
theorem lane_inGroup {w g i : Nat} (hw : 0 < w) (hi : i < 128 * g / w) : w * i / 128 < g := by
  have hle : w * i + w ≤ 128 * g := by rw [← Nat.mul_succ, Nat.mul_comm]; exact (Nat.le_div_iff_mul_le hw).mp hi
  omega

theorem ix_lt {n k : Nat} [NeZero n] (h : k < n) : ix n k = ⟨k, h⟩ := dif_pos h

theorem VecUnit.get_eq_fld (v : VecUnit) (r w i : Nat) : v.get r w i = (fld v.v[ix 32 (r + w * i / 128)] (w * i % 128) w).toNat :=
  (BitVec.extractLsb'_toNat ..).symm

section
variable {w : Nat} (hw : w ∣ 128) (v : VecUnit) (r : Nat) {i : Nat} (x : Nat)
include hw

/-- The element written is read back. -/
theorem VecUnit.get_put_same : (v.put r w i x).get r w i = x % 2 ^ w := by
  have hreg : (v.put r w i x).v[ix 32 (r + w * i / 128)] = setFld v.v[ix 32 (r + w * i / 128)] (w * i % 128) w (BitVec.ofNat w x) := vmod_at ..
  rw [VecUnit.get_eq_fld, hreg, fld_setFld_same _ _ (lane_fits hw i), BitVec.toNat_ofNat]

/-- Every other element of the operand reads as before. -/
theorem VecUnit.get_put_else {j : Nat} (hij : j ≠ i) (hi : r + w * i / 128 < 32) (hj : r + w * j / 128 < 32) :
    (v.put r w i x).get r w j = v.get r w j := by
  have hreg : (v.put r w i x).v[ix 32 (r + w * j / 128)] =
      if ix 32 (r + w * j / 128) = ix 32 (r + w * i / 128) then
        setFld v.v[ix 32 (r + w * j / 128)] (w * i % 128) w (BitVec.ofNat w x) else v.v[ix 32 (r + w * j / 128)] := vmod_apply ..
  rw [VecUnit.get_eq_fld, VecUnit.get_eq_fld, hreg]
  split
  · next h =>
    rw [ix_lt hi, ix_lt hj, Fin.mk.injEq, Nat.add_left_cancel_iff] at h
    rw [fld_setFld_else _ _ (lane_fits hw j) (lane_apart hij h)]
  · rfl

end

/-- No register but the element's changes. -/
theorem VecUnit.put_else (v : VecUnit) {r w i : Nat} (x : Nat) (hi : r + w * i / 128 < 32) {k : Fin 32} (hk : k.val ≠ r + w * i / 128) :
    (v.put r w i x).v[k] = v.v[k] := by
  refine vmod_else _ _ _ _ fun h => hk ?_
  rw [h, ix_lt hi]

/-! ### Active elements (R283) -/

theorem VecUnit.active_iff (v : VecUnit) (men : Bool) (i : Nat) : v.active men i = true ↔ (men = true → v.vm[0].getLsbD i = true) := by
  have hbit : v.maskBit 0 i = v.vm[0].getLsbD i := rfl
  cases men <;> simp [VecUnit.active, hbit]

/-- What the first elements, taken in turn, keep. -/
theorem VecUnit.each_induction {v : VecUnit} {men : Bool} {f : VecUnit → Nat → VecUnit} {P : Nat → VecUnit → Prop} (n : Nat) (h0 : P 0 v)
    (hs : ∀ k < n, ∀ u, P k u → P (k + 1) (if v.active men k then f u k else u)) : P n (v.each men n f) := by
  unfold VecUnit.each
  induction n with
  | zero => exact h0
  | succ n ih =>
    rw [List.range_succ, List.foldl_append]
    exact hs n (Nat.lt_succ_self n) _ (ih fun k hk => hs k (Nat.lt_succ_of_lt hk))

/-- From `v` to `u` the active ones of the first `n` elements of the operand at `r`, of `g` registers, have become those of `f`, and nothing
else has changed. -/
structure VecUnit.Wrote (v u : VecUnit) (men : Bool) (n r g w : Nat) (f : Nat → Nat) : Prop where
  frame : u = { v with v := u.v }
  elems : ∀ i < 128 * g / w, u.get r w i = if i < n ∧ v.active men i = true then f i % 2 ^ w else v.get r w i
  others : ∀ k : Fin 32, ¬ (r ≤ k.val ∧ k.val < r + g) → u.v[k] = v.v[k]

/-- One element more. -/
theorem VecUnit.Wrote.put {v u : VecUnit} {men : Bool} {n r g w : Nat} {f : Nat → Nat} (h : v.Wrote u men n r g w f) (hw : w ∣ 128) (hpos : 0 < w)
    (hr : r + g ≤ 32) (hn : n < 128 * g / w) (ha : v.active men n = true) : v.Wrote (u.put r w n (f n)) men (n + 1) r g w f := by
  have hin {i : Nat} (hi : i < 128 * g / w) := lane_inGroup hpos hi
  have hreg := hin hn
  refine ⟨?_, fun i hi => ?_, fun k hk => ?_⟩
  · obtain ⟨hf, -, -⟩ := h
    rw [hf]
    rfl
  · by_cases hin' : i = n
    · rw [hin', VecUnit.get_put_same hw, if_pos ⟨Nat.lt_succ_self n, ha⟩]
    · have hreg' := hin hi
      have hlt : i < n + 1 ↔ i < n := by omega
      rw [VecUnit.get_put_else hw u r (f n) hin' (by omega) (by omega), h.elems i hi]
      simp only [hlt]
  · rw [VecUnit.put_else _ _ (by omega) (by omega), h.others k hk]

/-- An element that takes no part. -/
theorem VecUnit.Wrote.skip {v u : VecUnit} {men : Bool} {n r g w : Nat} {f : Nat → Nat} (h : v.Wrote u men n r g w f) (ha : ¬ v.active men n = true) :
    v.Wrote u men (n + 1) r g w f := by
  refine ⟨h.frame, fun i hi => ?_, h.others⟩
  have hlt : (i < n + 1 ∧ v.active men i = true) ↔ (i < n ∧ v.active men i = true) := by
    refine and_congr_left fun hi' => ⟨fun h1 => ?_, fun h1 => by omega⟩
    have hne : i ≠ n := fun e => ha (e ▸ hi')
    omega
  rw [h.elems i hi]
  simp only [hlt]

/-- An operation on elements. -/
theorem VecUnit.each_put (v : VecUnit) (men : Bool) {n r g w : Nat} (f : Nat → Nat) (hw : w ∣ 128) (hpos : 0 < w) (hr : r + g ≤ 32)
    (hn : n ≤ 128 * g / w) : v.Wrote (v.each men n (fun u i => u.put r w i (f i))) men n r g w f := by
  refine VecUnit.each_induction (P := fun k u => v.Wrote u men k r g w f) n ⟨rfl, fun i _ => ?_, fun _ _ => rfl⟩ fun k hk u hu => ?_
  · rw [if_neg fun h => Nat.not_lt_zero i h.1]
  · split
    · next ha => exact hu.put hw hpos hr (by omega) ha
    · next ha => exact hu.skip ha

/-- A compare: bits below `n` from `f` or kept, zero from `n` on. -/
theorem VecUnit.writeMask_bit (v : VecUnit) {k : Nat} (hk : k < 4) (men : Bool) (n : Nat) (f : Nat → Bool) {i : Nat} (hi : i < 64) :
    ((v.writeMask k men n f).vm[(⟨k, hk⟩ : Fin 4)]).getLsbD i = true ↔
      i < n ∧ (v.active men i = true → f i = true) ∧ (¬ v.active men i = true → (v.vm[(⟨k, hk⟩ : Fin 4)]).getLsbD i = true) := by
  have hreg : (v.writeMask k men n f).vm[(⟨k, hk⟩ : Fin 4)] =
      bvOf 64 (fun i => decide (i < n) && (if v.active men i then f i else (v.vm[(⟨k, hk⟩ : Fin 4)]).getLsbD i)) := by
    unfold VecUnit.writeMask
    simp only [ix_lt hk, vset_at]
  rw [hreg, getLsbD_bvOf _ hi, Bool.and_eq_true, decide_eq_true_eq]
  cases v.active men i <;> simp

/-- It leaves the other mask registers. -/
theorem VecUnit.writeMask_else (v : VecUnit) {k : Nat} (hk : k < 4) (men : Bool) (n : Nat) (f : Nat → Bool) {j : Fin 4} (hj : j ≠ ⟨k, hk⟩) :
    (v.writeMask k men n f).vm[j] = v.vm[j] :=
  vset_else _ _ _ _ (by rwa [ix_lt hk])

/-! ### The front of the queue (R284) -/

/-- A core that is not halting and has no shadowed write waiting is settled as it is. -/
theorem Core.settle_still {c : Core} (hreq : c.haltReq = false) (hlate : c.late = none) : c.settle = c := by
  have hl : c.lateShadow = c := by
    unfold Core.lateShadow
    split
    · rfl
    · cases c
      cases hlate
      rfl
  simp only [Core.settle, hl, hreq, Bool.false_and, Bool.false_eq_true, if_false]

/-- What a legal operand register is (R282). -/
theorem operandOk_iff {r g w els : Nat} : operandOk r g w els = true ↔
    (g = 1 ∨ g = 2 ∨ g = 4) ∧ r % g = 0 ∧ r + g ≤ 32 ∧ els ≤ capacity g w := by
  simp only [operandOk, Bool.and_eq_true, Bool.or_eq_true, beq_iff_eq, decide_eq_true_eq, and_assoc, or_assoc]

section
variable {s : State} {n : CoreId} {x : VEntry} {q : List VEntry} (hon : s.coreOn n = true) (hreq : (s.cores[n]).haltReq = false)
  (hlate : (s.cores[n]).late = none) (hv : (s.cores[n]).vec.valid = false) (hq : (s.cores[n]).vec.queue = x :: q) {o : VOp} (ho : x.op = some o)
include hon hreq hlate hv hq ho

/-- A register operation at the front is executed on the registers. -/
theorem vectorExecute_reg (hm : ∀ m, o ≠ .mem m) : exec (.vectorExecute n) s =
    .next (s.setCore n { s.cores[n] with vec := ({ (s.cores[n]).vec with queue := q } : VecUnit).runReg o x }) := by
  have hrun : (s.cores[n]).vecRun n = { s.cores[n] with vec := ({ (s.cores[n]).vec with queue := q } : VecUnit).runReg o x } := by
    simp only [Core.vecRun, Core.vecExecute, hq, hv, ho]
    cases o with
    | mem m => exact absurd rfl (hm m)
    | _ => rfl
  show execVectorExecute n s = _
  rw [execVectorExecute, if_pos hon, State.stepCore, hrun]
  exact congrArg (fun c => Host.Outcome.next (s.setCore n c)) (Core.settle_still hreq hlate)

/-- One that computes elements of vd. -/
theorem vectorExecute_elems (hm : ∀ m, o ≠ .mem m) (hd : operandOk x.args.vd.toNat (grpSize x.grp) (laneW x.args.ty) x.vl.toNat = true)
    {f : Nat → Nat} (hf : ({ (s.cores[n]).vec with queue := q } : VecUnit).runReg o x = ({ (s.cores[n]).vec with queue := q } : VecUnit).each
      x.args.men x.vl.toNat (fun u i => u.put x.args.vd.toNat (laneW x.args.ty) i (f i))) :
    ∃ u, exec (.vectorExecute n) s = .next (s.setCore n { s.cores[n] with vec := { (s.cores[n]).vec with queue := q, v := u.v } }) ∧
      (s.cores[n]).vec.Wrote u x.args.men x.vl.toNat x.args.vd.toNat (grpSize x.grp) (laneW x.args.ty) f := by
  obtain ⟨-, -, hr, hn⟩ := operandOk_iff.mp hd
  obtain ⟨hframe, helems, hothers⟩ :=
    VecUnit.each_put { (s.cores[n]).vec with queue := q } x.args.men f (laneW_dvd x.args.ty) (laneW_pos x.args.ty) hr hn
  rw [← hf] at hframe helems hothers
  refine ⟨{ (s.cores[n]).vec with v := (({ (s.cores[n]).vec with queue := q } : VecUnit).runReg o x).v }, ?_, rfl, helems, hothers⟩
  rw [vectorExecute_reg hon hreq hlate hv hq ho hm]
  exact congrArg (fun u => Host.Outcome.next (s.setCore n { s.cores[n] with vec := u })) hframe

end

/-- A move of s18 sign-extends, any other moves the lane (R287). -/
theorem laneOf_mod (ty : BitVec 3) (k : Nat) :
    laneOf ty k % 2 ^ laneW ty = (if ty = 4 then ((BitVec.ofNat 18 k).signExtend 32).toNat else k) % 2 ^ laneW ty := by
  unfold laneOf
  split
  · rfl
  · exact Nat.mod_mod _ _

/-- Operations whose vd is one group of the instruction's type. -/
def VOp.vdGroup : VOp → Bool
  | .mv | .int _ | .intX _ => true
  | .mem m => decide (m ≠ .deal ∧ m ≠ .weave)
  | _ => false

/-- They are legal only with a legal vd (R282). -/
theorem VOp.legal_vd {o : VOp} (ho : o.vdGroup = true) {v : VArgs} {k vl : Nat} {grp : BitVec 2} (h : o.legal v k vl grp = true) :
    operandOk v.vd.toNat (grpSize grp) (laneW v.ty) vl = true := by
  cases o with
  | mv =>
    simp only [VOp.legal, Bool.and_eq_true] at h
    obtain ⟨⟨-, hd⟩, -⟩ := h
    exact hd
  | int p | intX p =>
    simp only [VOp.legal, Bool.and_eq_true] at h
    obtain ⟨⟨⟨-, hd⟩, -⟩, -⟩ := h
    exact hd
  | mem m =>
    simp only [VOp.legal, Bool.and_eq_true] at h
    obtain ⟨-, hm⟩ := h
    cases m with
    | deal | weave => exact absurd ho Bool.false_ne_true
    | ldx | stx => exact ((Bool.and_eq_true _ _).mp hm).1
    | _ => exact ((Bool.and_eq_true _ _).mp hm).2
  | _ => exact absurd ho Bool.false_ne_true

/-- Settles O27: the operations on elements from what they write, the compares from the bits of their mask. -/
theorem vectorElements : Obligations.VectorElements := by
  intro n s x q hon hreq hlate hv hq c g w d active elems mask
  have hactive (i : Nat) : (i < x.vl.toNat ∧ c.vec.active x.args.men i = true) ↔ active i := and_congr_right fun _ => c.vec.active_iff _ i
  have writes {o : VOp} {f f' : Nat → Nat} (ho : x.op = some o) (hm : ∀ m, o ≠ .mem m) (hd : operandOk d g w x.vl.toNat = true)
      (hf : ({ c.vec with queue := q } : VecUnit).runReg o x =
        ({ c.vec with queue := q } : VecUnit).each x.args.men x.vl.toNat (fun u i => u.put d w i (f i)))
      (hf' : ∀ i, f i % 2 ^ w = f' i % 2 ^ w) : elems f' := by
    obtain ⟨u, he, -, helems, hothers⟩ := vectorExecute_elems hon hreq hlate hv hq ho hm hd hf
    refine ⟨_, he, ?_⟩
    rw [State.setCore_at]
    exact ⟨rfl, fun i hi ha => (helems i hi).trans ((if_pos ((hactive i).mpr ha)).trans (hf' i)),
      fun i hi ha => (helems i hi).trans (if_neg fun h => ha ((hactive i).mp h)), hothers⟩
  refine ⟨fun p ho hl => ?_, fun p ho hl => ?_, fun ho hl => ?_, fun p ho _ hk => ?_⟩
  · exact writes ho (fun _ => VOp.noConfusion) (VOp.legal_vd rfl hl) rfl fun _ => rfl
  · exact writes ho (fun _ => VOp.noConfusion) (VOp.legal_vd rfl hl) rfl fun _ => rfl
  · exact writes ho (fun _ => VOp.noConfusion) (VOp.legal_vd rfl hl) rfl fun i => laneOf_mod ..
  · refine ⟨_, vectorExecute_reg hon hreq hlate hv hq ho (fun _ => VOp.noConfusion), ?_⟩
    rw [State.setCore_at]
    refine ⟨rfl, fun i hi => ?_, fun j hj => VecUnit.writeMask_else _ hk _ _ _ hj⟩
    refine (VecUnit.writeMask_bit _ hk _ _ _ hi).trans (and_congr_right fun hlt => ?_)
    have ha : c.vec.active x.args.men i = true ↔ active i := by rw [← hactive i, and_iff_right hlt]
    exact and_congr (imp_congr_left ha) (imp_congr_left (not_congr ha))

end Sys2Proof.Machine
end

section
/-! PROOF. How a core runs a vector instruction, and the vector instructions that queue (spec/12 R282, R284, R287). -/
namespace Sys2Proof.Machine

/-! ### The run of a vector instruction -/

/-- No entry to the unit is needed: a vector instruction begins where its units can be fetched (R285). -/
theorem Core.begin_vector {c : Core} (h : c.Fetches) (env : CEnv) (body : CBody) :
    Core.begin env (insnV body) c = (insnV body).body env (c.setSip false) := by
  obtain ⟨hte, hpc, -, hst, -, -⟩ := h
  have hf : c.fetch env.n 2 c.pc = .ok c := Core.Direct.fetch ⟨hte, hst⟩ env.n (by omega)
  simp only [Core.begin, insnV, true_or, if_true, bind, Except.bind, hf, CM.out, reduceCtorEq, or_self, if_false]

/-- A core that begins an instruction has no shadowed write waiting. -/
theorem State.late_of_ready {s : State} {n : CoreId} (h : s.coreReady n = true) : (s.cores[n]).late = none := by
  simp only [State.coreReady, Bool.and_eq_true, Option.isNone_iff_eq_none] at h
  obtain ⟨⟨-, hlate⟩, -⟩ := h
  exact hlate

section
variable {s : State} {n : CoreId}

/-- Where its units can be fetched, a vector instruction ends as its body does. -/
theorem State.runInsnWith_vector (hr : s.coreReady n = true) (h : (s.cores[n]).Fetches) (pour : State → PourRec → State) (body : CBody) :
    s.runInsnWith pour n (insnV body) =
      s.ends pour n (insnV body) { s.cores[n] with asleep := false } ((insnV body).body (s.coreEnv n) (s.cores[n]).begun) := by
  have hawake : ({ s.cores[n] with asleep := false } : Core).Fetches := h
  have hbegun : (s.cores[n]).begun = ({ s.cores[n] with asleep := false } : Core).setSip false := rfl
  unfold State.runInsnWith
  rw [if_neg (by simp [hr]), hbegun]
  generalize ({ s.cores[n] with asleep := false } : Core) = orig at hawake ⊢
  have hbegin := Core.begin_vector hawake (s.coreEnv n) body
  obtain ⟨-, -, hsh, -, -, hent⟩ := hawake
  simp only [Core.noShadow hsh, hbegin]
  simp only [hent, hsh, Core.applyShadow]
  cases (insnV body).body (s.coreEnv n) (orig.setSip false) <;> rfl

/-- One that changes its core by `f` goes on behind itself, whatever the unit still holds. -/
theorem State.runInsn_vector (hr : s.coreReady n = true) (h : (s.cores[n]).Fetches) {body : CBody} {f : Core → Core}
    (hb : (insnV body).body (s.coreEnv n) (s.cores[n]).begun = .ok (f (s.cores[n]).begun))
    (hf : ∀ (c : Core) p, f { c with pc := p } = { f c with pc := p }) (hs : ∀ c : Core, (f c).stepping = c.stepping ∧ (f c).late = c.late) :
    Host.Outcome.next (s.runInsn n (insnV body)) = s.retire n 2 f := by
  obtain ⟨-, -, -, -, hidle, -⟩ := id h
  have hstep : (f (s.cores[n]).begun).stepping = false := (hs _).1.trans hidle
  have hlate : (f (s.cores[n]).begun).late = none := (hs _).2.trans (State.late_of_ready hr)
  have hnext : f ((s.cores[n]).begun.past 2) = { f (s.cores[n]).begun with pc := (s.cores[n]).pc + BitVec.ofNat 32 (2 * (insnV body).units) } := hf _ _
  rw [State.runInsn, State.runInsnWith_vector hr h, hb, State.retire, hnext]
  generalize f (s.cores[n]).begun = c at hstep hlate ⊢
  simp only [CRes.ok, State.ends, List.isEmpty_nil, Bool.and_true, Bool.not_true, Bool.and_false, Bool.false_eq_true, if_false, List.foldl_nil,
    Option.getD_none, hlate, ite_self]
  rw [Core.stepEnd_plain (by exact hstep)]

/-- An exception of a vector instruction of a settled core. -/
theorem raises_vector (h : s.Settled n) {I : Instr} {body : CBody} (hi : exec I s = .next (s.runInsn n (insnV body)))
    {cause : Nat} (he : (s.cores[n]).CanEnter cause)
    (hb : (insnV body).body (s.coreEnv n) (s.cores[n]).begun = .exc (s.cores[n]).begun cause none 0) :
    raises s n I cause (s.cores[n]).eval := by
  have hi' : exec I s = .next (s.runInsn n { insnV body with kind := .scalar }) := by
    rw [hi, State.runInsn, State.runInsn, State.runInsnWith_settled h _ (by simp [insnV]), State.runInsnWith_settled h _ (by simp [insnV])]
    have hv : ¬ ((insnV body).kind = .string ∨ (insnV body).kind = .vstring) := by simp [insnV]
    rw [if_neg hv, if_neg (by simp), hb]
    rfl
  exact raises_of_exc h hi' rfl (by simp [insnV]) (.inl rfl) he hb rfl

end

/-! ### Issue -/

theorem insnV_enabled {c : Core} (h : c.ve = true) (body : CBody) (env : CEnv) : (insnV body).body env c = body env c := if_pos h

theorem insnV_disabled {c : Core} (h : c.ve = false) (body : CBody) (env : CEnv) : (insnV body).body env c = .exc c 1 none 0 := by
  show (if c.ve then body env c else illegal c) = _
  rw [h]
  rfl

theorem Core.begun_ve (c : Core) : c.begun.ve = c.ve := c.begun_cst (by decide)
theorem Core.begun_ftz (c : Core) : c.begun.ftz = c.ftz := c.begun_cst (by decide)

section
variable {c : Core} {env : CEnv} {o : VOp} {v : VArgs} {k : Nat}

/-- The unit has no fault pending and room for one more. -/
theorem Core.enqueue_room (hv : c.vec.valid = false) (hq : c.vec.queue.length < 4) (x : VEntry) :
    c.enqueue x = .ok { c with vec := { c.vec with queue := c.vec.queue ++ [x] } } := by
  rw [Core.enqueue, hv, if_neg Bool.false_ne_true, if_neg (by omega)]

/-- A legal instruction pops its scalars and queues. -/
theorem vecBody_queues {ws : List Word} {r : List Slot} (hl : o.legal v k c.vec.vl.toNat c.vec.grp = true) (hv : c.vec.valid = false)
    (hq : c.vec.queue.length < 4) (hst : c.stack = ws.map .val ++ r) (hr : r.length ≤ 256) :
    vecBody o v k ws.length env c =
      .ok { c with stack := r, vec := { c.vec with queue := c.vec.queue ++ [c.capture env o v k ws.reverse] } } := by
  have hpop := Core.pop_val (p := 0) hst (by omega)
  have hin := Core.enqueue_room (c := { c with stack := r }) hv hq
  simp only [vecBody, hl, hpop, hin, bind, Except.bind, CM.out, Bool.not_true, Bool.false_eq_true, if_false]
  rfl

/-- An illegal one has no effect. -/
theorem vecBody_illegal (hl : o.legal v k c.vec.vl.toNat c.vec.grp = false) (pops : Nat) : vecBody o v k pops env c = .exc c 1 none 0 := by
  simp only [vecBody, hl, CM.out, Bool.not_false, if_true]
  rfl

end

section
variable {s : State} {n : CoreId} {v : VArgs}

/-- The instruction `I` queues operation `o` with count `k`. -/
theorem queues_vecIssues {I : Instr} {o : VOp} {k : Nat} {ws : List Word} {r : List Slot} (hr : s.coreReady n = true) (hf : (s.cores[n]).Fetches)
    (hve : (s.cores[n]).ve = true) (hv : (s.cores[n]).vec.valid = false) (hq : (s.cores[n]).vec.queue.length < 4)
    (hst : (s.cores[n]).stack = ws.map .val ++ r) (hd : r.length ≤ 256) (hi : exec I s = .next (s.runInsn n (insnV (vecBody o v k ws.length))))
    (hl : o.legal v k (s.cores[n]).vec.vl.toNat (s.cores[n]).vec.grp = true) : vecIssues s n I o v k ws r := by
  unfold vecIssues
  rw [hi]
  refine State.runInsn_vector hr hf ?_ (fun _ _ => rfl) fun _ => ⟨rfl, rfl⟩
  rw [insnV_enabled ((Core.begun_ve _).trans hve), vecBody_queues (c := (s.cores[n]).begun) hl hv hq hst hd]
  simp only [Core.capture, Core.begun_ftz, List.length_reverse]
  rfl

/-- One whose operation does not accept its fields raises ILLEGAL, with VE or without. -/
theorem illegal_raises (h : s.Settled n) {I : Instr} {o : VOp} {k pops : Nat} (he : (s.cores[n]).CanEnter 1)
    (hi : exec I s = .next (s.runInsn n (insnV (vecBody o v k pops))))
    (hl : (s.cores[n]).ve = false ∨ o.legal v k (s.cores[n]).vec.vl.toNat (s.cores[n]).vec.grp = false) : raises s n I 1 (s.cores[n]).eval := by
  refine raises_vector h hi he ?_
  cases hve : (s.cores[n]).ve with
  | false => exact insnV_disabled ((Core.begun_ve _).trans hve) _ _
  | true =>
    rw [insnV_enabled ((Core.begun_ve _).trans hve)]
    exact vecBody_illegal (c := (s.cores[n]).begun) (hl.resolve_left fun hno => Bool.noConfusion (hve.symm.trans hno)) pops

end

/-! ### The rows of Table 12.4 -/

/-- Every row runs its own operation. -/
theorem exec_vecRow {row : (CoreId → VArgs → Instr) × VOp × Nat} (h : row ∈ vecMasks ++ vecInts ++ vecFloats ++ vecMems) (n : CoreId) (v : VArgs)
    (s : State) : exec (row.1 n v) s = .next (s.runInsn n (insnVec row.2.1 v row.2.2)) :=
  List.map_inj_left.mp (show (vecMasks ++ vecInts ++ vecFloats ++ vecMems).map (fun row => exec (row.1 n v) s) =
    (vecMasks ++ vecInts ++ vecFloats ++ vecMems).map (fun row => Host.Outcome.next (s.runInsn n (insnVec row.2.1 v row.2.2))) from rfl) row h

/-- The integer and memory rows have one group at vd. -/
theorem vdGroup_vecRow {row : (CoreId → VArgs → Instr) × VOp × Nat} (h : row ∈ vecInts ++ vecMems) : row.2.1.vdGroup = true :=
  List.all_eq_true.mp (show (vecInts ++ vecMems).all (fun row => row.2.1.vdGroup) = true from rfl) row h

/-- No operation takes type code 7 (Table 12.2). -/
theorem VOp.legal_type7 {v : VArgs} (h : v.ty = 7) (o : VOp) (k vl : Nat) (grp : BitVec 2) : o.legal v k vl grp = false := by
  cases o with
  | red r => cases r <;> simp [VOp.legal, h, isInt, isFlt]
  | _ => simp [VOp.legal, h, isInt, isFlt]

theorem vectorIssueRule_holds : vectorIssueRule := by
  intro n s v ws r hr hf hve hv hq hst hd
  have hroom : r.length ≤ 256 := by omega
  refine ⟨fun row hrow hws hl => ?_, fun k hws hl => ?_⟩
  · refine queues_vecIssues hr hf hve hv hq hst hroom ?_ hl
    rw [hws]
    exact exec_vecRow hrow n v s
  · exact ⟨queues_vecIssues hr hf hve hv hq hst hroom (by rw [hws]; rfl) hl, queues_vecIssues hr hf hve hv hq hst hroom (by rw [hws]; rfl) hl⟩

theorem vectorIllegalRule_holds : vectorIllegalRule := by
  intro n s v h he
  refine ⟨fun hve row hrow => ?_, fun hty row hrow => ?_, fun hd row hrow => ?_⟩
  · exact illegal_raises h he (exec_vecRow hrow n v s) (.inl hve)
  · exact illegal_raises h he (exec_vecRow hrow n v s) (.inr (VOp.legal_type7 hty ..))
  · have hrow' : row ∈ vecMasks ++ vecInts ++ vecFloats ++ vecMems := by
      simp only [List.mem_append] at hrow ⊢
      tauto
    refine illegal_raises h he (exec_vecRow hrow' n v s) (.inr ?_)
    rw [← Bool.not_eq_true]
    intro hl
    obtain ⟨-, hstart, -⟩ := operandOk_iff.mp (VOp.legal_vd (vdGroup_vecRow hrow) hl)
    exact hd hstart

/-- Settles O24: a row queues or raises ILLEGAL as its operation takes its fields or not. -/
theorem vectorQueue : Obligations.VectorQueue := ⟨vectorIssueRule_holds, vectorIllegalRule_holds⟩

end Sys2Proof.Machine
end

section
/-! PROOF. VSETVL, and the instructions that return a scalar once the unit is empty (spec/12 R283, R284, R286, R287). -/
namespace Sys2Proof.Machine

/-! ### Where the unit is empty -/

section
variable {c : Core}

theorem Core.vecOpen_valid (h : c.vec.valid = false) : c.vecOpen = .ok () := by
  rw [Core.vecOpen, h]
  rfl

theorem Core.vecDrained_empty (h : c.vec.queue = []) : c.vecDrained = .ok () := by
  rw [Core.vecDrained, h]
  rfl

theorem Core.report_valid (h : c.vec.valid = false) : c.report = .ok c := by
  rw [Core.report, h]
  rfl

end

/-! ### Values of elements (Table 12.2) -/

/-- The lane widths of Table 12.2, in the order of the type codes. -/
theorem getD_laneW {ty : BitVec 3} (h : ty ≠ 7) : [8, 16, 32, 64, 32, 16, 32].getD ty.toNat 32 = laneW ty := by
  revert ty
  decide

/-- Sign extension is that of the number read as signed. -/
theorem ofInt_sgn (w x : Nat) : BitVec.ofInt 32 (sgn w (x % 2 ^ w)) = (BitVec.ofNat w x).signExtend 32 := by
  rw [sgn, show BitVec.ofNat w (x % 2 ^ w) = BitVec.ofNat w x from BitVec.eq_of_toNat_eq (by simp)]
  rfl

/-! ### The instructions -/

section
variable {c : Core} {env : CEnv} {v : VArgs} {w : Word} {r : List Slot}

theorem vsetvl_sets (hv : c.vec.valid = false) (hr : r.length ≤ 255) (hmen : v.men = false) (h1 : v.vs1 = 0) (h2 : v.vs2 = 0) (hd : v.vd = 0)
    (hty : v.ty ≠ 7) (hst : c.stack = .val w :: r) (hve : c.ve = true) :
    let vl := min w.toNat (capacity (grpSize c.vec.grp) (laneW v.ty))
    (insnVsetvl v).body env c = .ok { c with stack := .val (BitVec.ofNat 32 vl) :: r, vec := { c.vec with vl := BitVec.ofNat 7 vl } } := by
  have hpop : c.pop 1 1 = .ok ([w], { c with stack := r }) := Core.pop_val (ws := [w]) hst (by omega)
  have hopen : ({ c with stack := r } : Core).vecOpen = .ok () := Core.vecOpen_valid hv
  have hfields : (v.men || !z5 v.vs1 || !z5 v.vs2 || !z5 v.vd || v.ty == 7) = false := by
    rw [hmen, h1, h2, hd, beq_eq_false_iff_ne.mpr hty]
    rfl
  simp only [insnVsetvl, insnV, hve, if_true, hfields, Bool.false_eq_true, if_false, hpop, hopen, bind, Except.bind, CM.out, Core.push_eq,
    List.getD_cons_zero]
  rfl

section
variable (hve : c.ve = true) (hq : c.vec.queue = []) (hv : c.vec.valid = false)
include hve hq hv

theorem vsync_done : insnVsync.body env c = .ok c := by
  simp only [insnVsync, insnV, hve, if_true, Core.vecOpen_valid hv, Core.vecDrained_empty hq, Core.report_valid hv, bind, Except.bind, CM.out]

/-- VMRD pushes the low word, then the high word. -/
theorem vmrd_pushes (hst : c.stack = r) (hr : r.length ≤ 254) (hmen : v.men = false) (h1 : v.vs1 = 0) (h2 : v.vs2 = 0) (hty : v.ty = 0)
    (hd : v.vd.toNat < 4) : (insnVmrd v).body env c = .ok { c with
      stack := .val (fld c.vec.vm[v.vd.toNat] 32 32) :: .val (fld c.vec.vm[v.vd.toNat] 0 32) :: r } := by
  have hcheck : c.check 0 2 = .ok () := Core.check_passes (Nat.zero_le _) (by rw [Core.depth, hst]; omega)
  have hfields : (v.men || !z5 v.vs1 || !z5 v.vs2 || v.ty != 0 || decide (4 ≤ v.vd.toNat)) = false := by
    rw [hmen, h1, h2, hty, decide_eq_false (by omega)]
    rfl
  simp only [insnVmrd, insnV, hve, if_true, hfields, Bool.false_eq_true, if_false, hcheck, Core.vecDrained_empty hq, Core.report_valid hv, bind,
    Except.bind, CM.out, Core.push_eq, ix_lt hd, hst]
  rfl

/-- VMVXS pushes the element, or 0 at or beyond capacity. -/
theorem vmvxs_pushes (hst : c.stack = .val w :: r) (hr : r.length ≤ 254) (hmen : v.men = false) (h2 : v.vs2 = 0) (hd : v.vd = 0)
    (hty : v.ty ≠ 3 ∧ v.ty ≠ 7) (hop : operandOk v.vs1.toNat (grpSize c.vec.grp) (laneW v.ty) c.vec.vl.toNat = true) :
    (insnVmvxs v).body env c = .ok { c with stack := .val (
      if capacity (grpSize c.vec.grp) (laneW v.ty) ≤ w.toNat then 0
      else if isFlt v.ty then BitVec.ofNat 32 (c.vec.get v.vs1.toNat (laneW v.ty) w.toNat)
      else (BitVec.ofNat (valW v.ty) (c.vec.get v.vs1.toNat (laneW v.ty) w.toNat)).signExtend 32) :: r } := by
  have hpop : c.pop 1 1 = .ok ([w], { c with stack := r }) := Core.pop_val (ws := [w]) hst (by omega)
  have hreport : ({ c with stack := r } : Core).report = .ok { c with stack := r } := Core.report_valid hv
  have hfields : (v.men || !z5 v.vs2 || !z5 v.vd || v.ty == 3 || v.ty == 7 ||
      !operandOk v.vs1.toNat (grpSize c.vec.grp) (laneW v.ty) c.vec.vl.toNat) = false := by
    rw [hmen, h2, hd, beq_eq_false_iff_ne.mpr hty.1, beq_eq_false_iff_ne.mpr hty.2, hop]
    rfl
  simp only [insnVmvxs, insnV, hve, if_true, hfields, Bool.false_eq_true, if_false, hpop, Core.vecDrained_empty hq, hreport, bind, Except.bind,
    CM.out, Core.push_eq, List.getD_cons_zero, ofInt_sgn]
  rfl

end
end

/-! ### The rules -/

section
variable {s : State} {n : CoreId} (h : s.Settled n)
include h

/-- A vector instruction that leaves the stack `l`. -/
theorem State.runInsn_vectorLeaves {body : CBody} {l : List Slot}
    (hb : (insnV body).body (s.coreEnv n) (s.cores[n]).begun = .ok { (s.cores[n]).begun with stack := l }) :
    Host.Outcome.next (s.runInsn n (insnV body)) = s.leaves n 2 l :=
  State.runInsn_vector h.1 h.2.1 (f := fun c => { c with stack := l }) hb (fun _ _ => rfl) fun _ => ⟨rfl, rfl⟩

end

theorem vsetvlRule_holds : vsetvlRule := by
  intro n s v w r h hve hr hmen h1 h2 hd hty hst bits vl
  obtain ⟨hready, hfetch, -, hv⟩ := h
  have hb := vsetvl_sets (c := (s.cores[n]).begun) (env := s.coreEnv n) hv hr hmen h1 h2 hd hty hst ((Core.begun_ve _).trans hve)
  have hvl : vl = min w.toNat (capacity (grpSize (s.cores[n]).vec.grp) (laneW v.ty)) := by rw [← getD_laneW hty]; rfl
  rw [hvl]
  exact State.runInsn_vector hready hfetch (f := fun d => { d with
    stack := .val (BitVec.ofNat 32 (min w.toNat (capacity (grpSize (s.cores[n]).vec.grp) (laneW v.ty)))) :: r
    vec := { d.vec with vl := BitVec.ofNat 7 (min w.toNat (capacity (grpSize (s.cores[n]).vec.grp) (laneW v.ty))) } }) hb
    (fun _ _ => rfl) fun _ => ⟨rfl, rfl⟩

theorem vectorReadsRule_holds : vectorReadsRule := by
  intro n s v w r h hve hr hmen h2 c
  have hve' : c.begun.ve = true := (Core.begun_ve _).trans hve
  obtain ⟨hq, hv⟩ := h.2.2
  refine ⟨?_, fun h1 hty hd hst => ?_, fun hd hal hin hvl hst => ?_⟩
  · exact State.runInsn_vectorLeaves h (vsync_done (c := c.begun) hve' hq hv)
  · exact State.runInsn_vectorLeaves h (vmrd_pushes (c := c.begun) hve' hq hv hst hr hmen h1 h2 hty hd)
  · have hg : ∀ g : BitVec 2, grpSize g = 1 ∨ grpSize g = 2 ∨ grpSize g = 4 := by decide
    have hop : operandOk v.vs1.toNat (grpSize c.vec.grp) (laneW v.ty) c.vec.vl.toNat = true := operandOk_iff.mpr ⟨hg _, hal, hin, hvl⟩
    have pushes {x : Word} (hty : v.ty ≠ 3 ∧ v.ty ≠ 7) (hx : (if capacity (grpSize c.vec.grp) (laneW v.ty) ≤ w.toNat then 0
        else if isFlt v.ty then BitVec.ofNat 32 (c.vec.get v.vs1.toNat (laneW v.ty) w.toNat)
        else (BitVec.ofNat (valW v.ty) (c.vec.get v.vs1.toNat (laneW v.ty) w.toNat)).signExtend 32) = x) :
        exec (.vmvxs n v) s = s.leaves n 2 (.val x :: r) :=
      (State.runInsn_vectorLeaves h (vmvxs_pushes (c := c.begun) (env := s.coreEnv n) hve' hq hv hst hr hmen h2 hd hty hop)).trans
        (congrArg (fun x => s.leaves n 2 (.val x :: r)) hx)
    have hcap32 : capacity (grpSize c.vec.grp) 32 = 4 * grpSize c.vec.grp := by unfold capacity; omega
    have hcap8 : capacity (grpSize c.vec.grp) 8 = 16 * grpSize c.vec.grp := by unfold capacity; omega
    refine ⟨fun hty hw => ?_, fun hty hw => ?_, fun hty hw => ?_⟩
    · have hlt : ¬ capacity (grpSize c.vec.grp) 32 ≤ w.toNat := by omega
      obtain hty | hty := hty
      · refine pushes (by rw [hty]; decide) ?_
        rw [hty]
        exact (if_neg hlt).trans (BitVec.signExtend_eq _)
      · refine pushes (by rw [hty]; decide) ?_
        rw [hty]
        exact if_neg hlt
    · refine pushes (by rw [hty]; decide) ?_
      rw [hty]
      exact if_neg (by rw [show laneW 0 = 8 from rfl]; omega)
    · refine pushes (by rw [hty]; decide) ?_
      rw [hty]
      exact if_pos (by rw [show laneW 0 = 8 from rfl]; omega)

/-- Settles O25: each instruction from what its body makes of a core whose unit is empty. -/
theorem vectorScalars : Obligations.VectorScalars := ⟨vsetvlRule_holds, vectorReadsRule_holds⟩

end Sys2Proof.Machine
end

section
/-! PROOF. VRESUME, and the words of the area that VSAVE writes and VLOAD reads (spec/12 R298, R300, Table 12.11). -/
namespace Sys2Proof.Machine

/-! ### VRESUME -/

theorem vresumeRule_holds : vresumeRule := by
  intro n s x q hr hf hve c
  have hve' : c.begun.ve = true := (Core.begun_ve _).trans hve
  refine ⟨fun hv => ?_, fun hv hx => ?_⟩
  · refine State.runInsn_vector hr hf (f := fun d => { d with stack := c.stack }) ?_ (fun _ _ => rfl) fun _ => ⟨rfl, rfl⟩
    rw [insnV_enabled hve']
    exact if_neg (by rw [show c.begun.vec.valid = false from hv]; exact Bool.false_ne_true)
  · refine State.runInsn_vector hr hf ?_ (fun _ _ => rfl) fun _ => ⟨rfl, rfl⟩
    rw [insnV_enabled hve']
    refine (if_pos hv).trans ?_
    rw [show c.begun.vec.faulted = x :: q from hx]
    rfl

/-! ### The words of Table 12.11 -/

/-- The first five vector CSRs, in number order. -/
def VecUnit.csrWord (v : VecUnit) : Nat → Word
  | 0 => v.grp.setWidth 32
  | 1 => v.vl.setWidth 32
  | 2 => v.vstart.setWidth 32
  | 3 => v.vctrl.setWidth 32
  | _ => v.vflags.setWidth 32

/-- Word `i` of registers, masks and those CSRs. -/
def VecUnit.imageWord (v : VecUnit) (i : Nat) : Word :=
  if i < 128 then fld v.v[ix 32 (i / 4)] (32 * (i % 4)) 32
  else if i < 136 then fld v.vm[ix 4 ((i - 128) / 2)] (32 * (i % 2)) 32
  else v.csrWord (i - 136)

/-- It is what VSAVE stores. -/
theorem Core.vecWord_image (c : Core) (n : CoreId) {i : Nat} (hi : i < 141) : c.vecWord n i = c.vec.imageWord i := by
  unfold Core.vecWord VecUnit.imageWord
  by_cases hcsr : i < 136
  · by_cases hreg : i < 128
    · rw [if_pos hreg, if_pos hreg]
    · rw [if_neg hreg, if_neg hreg, if_pos hcsr, if_pos hcsr]
  · obtain ⟨k, rfl⟩ := Nat.exists_eq_add_of_le (Nat.le_of_not_lt hcsr)
    have hk : k < 5 := by omega
    rw [if_neg (by omega), if_neg hcsr, if_pos (by omega), if_neg (by omega), if_neg hcsr, Nat.add_sub_cancel_left]
    interval_cases k <;> rfl

section
variable (v : VecUnit)

theorem VecUnit.imageWord_reg (k : Fin 32) (j : Fin 4) : v.imageWord (4 * k.val + j.val) = (v.v[k] >>> (32 * j.val)).setWidth 32 := by
  have hreg : ix 32 ((4 * k.val + j.val) / 4) = k := by rw [show (4 * k.val + j.val) / 4 = k.val by omega, ix_val]
  have hword : (4 * k.val + j.val) % 4 = j.val := by omega
  unfold VecUnit.imageWord
  simp only [show 4 * k.val + j.val < 128 by omega, if_true, hreg, hword]
  rfl

theorem VecUnit.imageWord_mask (k : Fin 4) (j : Fin 2) : v.imageWord (128 + 2 * k.val + j.val) = (v.vm[k] >>> (32 * j.val)).setWidth 32 := by
  have hreg : ix 4 ((128 + 2 * k.val + j.val - 128) / 2) = k := by rw [show (128 + 2 * k.val + j.val - 128) / 2 = k.val by omega, ix_val]
  have hword : (128 + 2 * k.val + j.val) % 2 = j.val := by omega
  unfold VecUnit.imageWord
  simp only [show ¬ 128 + 2 * k.val + j.val < 128 by omega, show 128 + 2 * k.val + j.val < 136 by omega, if_true, if_false, hreg, hword]
  rfl

theorem VecUnit.imageWord_csr (k : Nat) : v.imageWord (136 + k) = v.csrWord k := by
  unfold VecUnit.imageWord
  rw [if_neg (by omega), if_neg (by omega), Nat.add_sub_cancel_left]

end

/-- The memory of `d` holds registers, masks and the first five CSRs of `v` from address `a` on. -/
def Core.HoldsImage (d : Core) (a : Nat) (v : VecUnit) : Prop := ∀ i < 141, d.wordAt (a + 4 * i) = v.imageWord i

/-- Register by register, mask by mask and CSR by CSR. -/
theorem Core.holdsImage_iff (d : Core) (a : Nat) (v : VecUnit) : d.HoldsImage a v ↔
    (∀ (k : Fin 32) (j : Fin 4), d.wordAt (a + 16 * k.val + 4 * j.val) = (v.v[k] >>> (32 * j.val)).setWidth 32) ∧
    (∀ (k : Fin 4) (j : Fin 2), d.wordAt (a + 512 + 8 * k.val + 4 * j.val) = (v.vm[k] >>> (32 * j.val)).setWidth 32) ∧
    d.wordAt (a + 544) = v.grp.setWidth 32 ∧ d.wordAt (a + 548) = v.vl.setWidth 32 ∧ d.wordAt (a + 552) = v.vstart.setWidth 32 ∧
    d.wordAt (a + 556) = v.vctrl.setWidth 32 ∧ d.wordAt (a + 560) = v.vflags.setWidth 32 := by
  refine ⟨fun h => ⟨fun k j => ?_, fun k j => ?_, h 136 (by decide), h 137 (by decide), h 138 (by decide), h 139 (by decide), h 140 (by decide)⟩, ?_⟩
  · rw [← v.imageWord_reg, ← h _ (by omega)]
    congr 1
    omega
  · rw [← v.imageWord_mask, ← h _ (by omega)]
    congr 1
    omega
  · rintro ⟨hreg, hmask, hgrp, hvl, hstart, hctrl, hflags⟩ i hi
    by_cases hcsr : i < 136
    · by_cases h128 : i < 128
      · have h := hreg ⟨i / 4, by omega⟩ ⟨i % 4, by omega⟩
        rw [← v.imageWord_reg] at h
        dsimp only at h
        rw [show a + 4 * i = a + 16 * (i / 4) + 4 * (i % 4) by omega, h]
        congr 1
        omega
      · have h := hmask ⟨(i - 128) / 2, by omega⟩ ⟨i % 2, by omega⟩
        rw [← v.imageWord_mask] at h
        dsimp only at h
        rw [show a + 4 * i = a + 512 + 8 * ((i - 128) / 2) + 4 * (i % 2) by omega, h]
        congr 1
        omega
    · obtain ⟨k, rfl⟩ := Nat.exists_eq_add_of_le (Nat.le_of_not_lt hcsr)
      have hk : k < 5 := by omega
      rw [v.imageWord_csr]
      interval_cases k
      exacts [hgrp, hvl, hstart, hctrl, hflags]

/-- A bit vector of whole words is those words. -/
theorem eq_of_words {n : Nat} (x y : BitVec n) (hn : 32 ∣ n) (h : ∀ j < n / 32, (x >>> (32 * j)).setWidth 32 = (y >>> (32 * j)).setWidth 32) : x = y := by
  refine BitVec.eq_of_getLsbD_eq fun i hi => ?_
  have hbit := congrArg (fun w : Word => w.getLsbD (i % 32)) (h (i / 32) (by omega))
  simpa only [BitVec.getLsbD_setWidth, BitVec.getLsbD_ushiftRight, Nat.div_add_mod, Nat.mod_lt i (show 32 > 0 by decide), decide_true, Bool.true_and]
    using hbit

/-- A field that a CSR image widens is read off it. -/
theorem setWidth_word_inj {n : Nat} (hn : n ≤ 32) {x y : BitVec n} (h : x.setWidth 32 = y.setWidth 32) : x = y := by
  have := congrArg BitVec.toNat h
  rw [BitVec.toNat_setWidth_of_le hn, BitVec.toNat_setWidth_of_le hn] at this
  exact BitVec.eq_of_toNat_eq this

/-- The words determine what they hold. -/
theorem VecUnit.eq_of_imageWord {u v : VecUnit} (h : ∀ i < 141, u.imageWord i = v.imageWord i) :
    u.v = v.v ∧ u.vm = v.vm ∧ u.grp = v.grp ∧ u.vl = v.vl ∧ u.vstart = v.vstart ∧ u.vctrl = v.vctrl ∧ u.vflags = v.vflags := by
  refine ⟨?_, ?_, ?_, ?_, ?_, ?_, ?_⟩
  · refine Vector.ext fun k hk => eq_of_words _ _ (by decide) fun j hj => ?_
    have e := h (4 * k + j) (by omega)
    rwa [u.imageWord_reg ⟨k, hk⟩ ⟨j, hj⟩, v.imageWord_reg ⟨k, hk⟩ ⟨j, hj⟩] at e
  · refine Vector.ext fun k hk => eq_of_words _ _ (by decide) fun j hj => ?_
    have e := h (128 + 2 * k + j) (by omega)
    rwa [u.imageWord_mask ⟨k, hk⟩ ⟨j, hj⟩, v.imageWord_mask ⟨k, hk⟩ ⟨j, hj⟩] at e
  · exact setWidth_word_inj (by decide) (h 136 (by decide))
  · exact setWidth_word_inj (by decide) (h 137 (by decide))
  · exact setWidth_word_inj (by decide) (h 138 (by decide))
  · exact setWidth_word_inj (by decide) (h 139 (by decide))
  · exact setWidth_word_inj (by decide) (h 140 (by decide))

end Sys2Proof.Machine
end

section
/-! PROOF. VSAVE and VLOAD, word by word (spec/12 R286, R300). -/
namespace Sys2Proof.Machine

/-! ### An uninterrupted run of words -/

/-- What every word keeps, `k` being the words that are left, the run keeps to its end. -/
theorem Core.wordLoop_induction {word : Core → CM Core} {P : Nat → Core → Prop} (hstep : ∀ k c, P (k + 1) c → ∃ c', word c = .ok c' ∧ P k c')
    {k : Nat} {c : Core} (h : P k c) (handled : Nat) : ∃ c', Core.wordLoop word none k handled c = .ok (c'.setSip false) ∧ P 0 c' := by
  induction k generalizing c handled with
  | zero => exact ⟨c, rfl, h⟩
  | succ k ih =>
    obtain ⟨c', hword, hc'⟩ := hstep k c h
    simp only [Core.wordLoop, hword]
    by_cases hk : k = 0
    · subst hk
      exact ⟨c', rfl, hc'⟩
    · rw [if_neg hk, if_neg (Option.some_ne_none _).symm]
      exact ih hc' _

/-- Such an instruction of two units of a settled core goes on behind itself. -/
theorem State.runInsn_vstring {s : State} {n : CoreId} (h : s.Settled n) {i : Insn} (hk : i.kind = .vstring) (hu : i.units = 2) {c : Core}
    (hb : i.body (s.coreEnv n) { s.cores[n] with asleep := false } = .ok c) (hs : c.stepping = false) :
    s.runInsn n i = s.setCore n { c with pc := (s.cores[n]).pc + BitVec.ofNat 32 (2 * 2) } := by
  have hgo {p : Word} : ({ c with pc := p } : Core).stepping = false := hs
  rw [State.runInsn, State.runInsnWith_settled h _ (by omega), if_pos (.inr hk), hb]
  simp only [CRes.ok, State.ends, hk, hu, reduceCtorEq, decide_false, Bool.false_and, List.isEmpty_nil, Bool.and_true, Bool.not_true,
    Bool.and_false, Bool.false_eq_true, if_false, List.foldl_nil, Option.getD_none]
  rw [Core.stepEnd_plain hgo]

/-! ### The area (R300) -/

/-- An area of 656 bytes at `a`. -/
def areaAt (a : Word) : Prop := a.toNat % 4 = 0 ∧ a.toNat + 656 ≤ 0x40000

/-- Its word `i`, below 164. -/
theorem areaAt.word {a : Word} (h : areaAt a) {i : Nat} (hi : i < 164) :
    (a + BitVec.ofNat 32 (4 * i)).toNat = a.toNat + 4 * i ∧ reachable (a + BitVec.ofNat 32 (4 * i)) 4 := by
  obtain ⟨hal, htop⟩ := h
  have hn : (a + BitVec.ofNat 32 (4 * i)).toNat = a.toNat + 4 * i := by
    rw [BitVec.toNat_add, BitVec.toNat_ofNat]
    omega
  rw [reachable, hn]
  omega

/-- The address behind word `i`. -/
theorem nextWord (a : Word) (i : Nat) : a + BitVec.ofNat 32 (4 * i) + 4 = a + BitVec.ofNat 32 (4 * (i + 1)) := by
  rw [BitVec.add_assoc]
  congr 1
  refine BitVec.eq_of_toNat_eq ?_
  rw [BitVec.toNat_add, BitVec.toNat_ofNat, BitVec.toNat_ofNat]
  show (4 * i % 2 ^ 32 + 4) % 2 ^ 32 = _
  omega

/-- One word fewer is left. -/
theorem ofNat_pred (k : Nat) : BitVec.ofNat 32 (k + 1) - 1 = BitVec.ofNat 32 k := by
  rw [BitVec.ofNat_add]
  exact BitVec.add_sub_cancel _ _

/-- The number of words left tells the one that is next. -/
theorem next_of_left {k : Nat} (hk : k < 164) : 164 - (BitVec.ofNat 32 (k + 1)).toNat = 163 - k := by
  rw [BitVec.toNat_ofNat]
  omega

/-- The area's first and last word can be accessed. -/
theorem Core.Direct.areaOk {c : Core} (h : c.Direct) {a : Word} (ha : areaAt a) (n : CoreId) (k : XKind) : c.areaOk n a k = .ok c := by
  obtain ⟨-, hfirst⟩ := ha.word (i := 0) (by decide)
  obtain ⟨-, hlast⟩ := ha.word (i := 163) (by decide)
  have hzero : a + BitVec.ofNat 32 (4 * 0) = a := BitVec.add_zero a
  rw [hzero] at hfirst
  have h1 := Core.localAddr_local h.1 h.2 n hfirst k
  have h2 : c.localAddr n (a + 652) 4 k = .ok ((a + 652).toNat, c) := Core.localAddr_local h.1 h.2 n hlast k
  simp only [Core.areaOk, h1, h2, bind, Except.bind]

/-! ### The words loaded -/

/-- A CSR image as wide as a word names its field. -/
theorem fld_image {n : Nat} (hn : n ≤ 32) (x : BitVec n) : (fld (x.setWidth 32 : Word) 0 n : BitVec n) = x := by
  refine BitVec.eq_of_toNat_eq ?_
  rw [fld, BitVec.extractLsb'_toNat, Nat.shiftRight_zero, BitVec.toNat_setWidth_of_le hn, Nat.mod_eq_of_lt x.isLt]

theorem clampVl_image {x : BitVec 7} (hx : x.toNat ≤ 64) : clampVl (x.setWidth 32) = x := by
  rw [clampVl, BitVec.toNat_setWidth_of_le (by decide), if_neg (by omega)]
  exact fld_image (by decide) x

/-- Word `y` of register `q` behind a store to word `x` of register `p`. -/
theorem fld_vmod {m n : Nat} [NeZero m] (v : Vector (BitVec n) m) (w : Word) {p q x y : Nat} (hp : p < m) (hq : q < m) (hx : 32 * x + 32 ≤ n)
    (hy : 32 * y + 32 ≤ n) : fld (vmod v (ix m p) (fun b => setFld b (32 * x) 32 w))[ix m q] (32 * y) 32 =
      if q = p ∧ y = x then w else fld v[ix m q] (32 * y) 32 := by
  have hsame : ix m q = ix m p ↔ q = p := by rw [ix_lt hp, ix_lt hq, Fin.mk.injEq]
  rw [vmod_apply]
  by_cases hqp : q = p
  · rw [if_pos (hsame.mpr hqp)]
    by_cases hyx : y = x
    · subst hyx
      rw [if_pos ⟨hqp, rfl⟩, fld_setFld_same _ _ hx]
    · rw [if_neg (fun h => hyx h.2), fld_setFld_else _ _ hy (by omega)]
  · rw [if_neg (fun h => hqp (hsame.mp h)), if_neg (fun h => hqp h.1)]

section
variable (u : VecUnit) (w : Word) {i j : Nat}

/-- The first five CSRs stand where their fields do. -/
theorem VecUnit.csrWord_congr {u u' : VecUnit} (hgrp : u'.grp = u.grp) (hvl : u'.vl = u.vl) (hstart : u'.vstart = u.vstart)
    (hctrl : u'.vctrl = u.vctrl) (hflags : u'.vflags = u.vflags) (k : Nat) : u'.csrWord k = u.csrWord k := by
  unfold VecUnit.csrWord
  rw [hgrp, hvl, hstart, hctrl, hflags]

theorem VecUnit.imageWord_congr {u u' : VecUnit} (hv : u'.v = u.v) (hm : u'.vm = u.vm) (hcsr : ∀ k, u'.csrWord k = u.csrWord k) (i : Nat) :
    u'.imageWord i = u.imageWord i := by
  unfold VecUnit.imageWord
  rw [hv, hm, hcsr]

/-- A word of a register. -/
theorem VecUnit.imageWord_putReg (hi : i < 128) :
    ({ u with v := vmod u.v (ix 32 (i / 4)) (fun b => setFld b (32 * (i % 4)) 32 w) } : VecUnit).imageWord j =
      if j = i then w else u.imageWord j := by
  unfold VecUnit.imageWord
  by_cases hj : j < 128
  · rw [if_pos hj, if_pos hj, fld_vmod _ _ (by omega) (by omega) (by omega) (by omega)]
    simp only [show (j / 4 = i / 4 ∧ j % 4 = i % 4) ↔ j = i by omega]
  · rw [if_neg hj, if_neg hj, if_neg (show j ≠ i by omega)]
    refine if_congr Iff.rfl rfl (VecUnit.csrWord_congr ?_ ?_ ?_ ?_ ?_ _) <;> rfl

/-- A word of a mask. -/
theorem VecUnit.imageWord_putMask (h128 : 128 ≤ i) (hi : i < 136) :
    ({ u with vm := vmod u.vm (ix 4 ((i - 128) / 2)) (fun b => setFld b (32 * (i % 2)) 32 w) } : VecUnit).imageWord j =
      if j = i then w else u.imageWord j := by
  unfold VecUnit.imageWord
  by_cases hreg : j < 128
  · rw [if_pos hreg, if_pos hreg, if_neg (by omega)]
  by_cases hj : j < 136
  · rw [if_neg hreg, if_neg hreg, if_pos hj, if_pos hj, fld_vmod _ _ (by omega) (by omega) (by omega) (by omega)]
    simp only [show ((j - 128) / 2 = (i - 128) / 2 ∧ j % 2 = i % 2) ↔ j = i by omega]
  · rw [if_neg hreg, if_neg hreg, if_neg hj, if_neg hj, if_neg (by omega)]
    refine VecUnit.csrWord_congr ?_ ?_ ?_ ?_ ?_ _ <;> rfl

/-- A CSR. -/
theorem VecUnit.imageWord_putCsr {u' : VecUnit} {k : Nat} (hv : u'.v = u.v) (hm : u'.vm = u.vm)
    (hcsr : ∀ m < 5, u'.csrWord m = if m = k then w else u.csrWord m) (hj : j < 141) :
    u'.imageWord j = if j = 136 + k then w else u.imageWord j := by
  unfold VecUnit.imageWord
  rw [hv, hm]
  by_cases h128 : j < 128
  · rw [if_pos h128, if_pos h128, if_neg (by omega)]
  by_cases h136 : j < 136
  · rw [if_neg h128, if_neg h128, if_pos h136, if_pos h136, if_neg (by omega)]
  · rw [if_neg h128, if_neg h128, if_neg h136, if_neg h136, hcsr _ (by omega)]
    simp only [show j - 136 = k ↔ j = 136 + k by omega]

end

/-- VFSTAT, VFPC, VFVA and the entries of the fault record go to the fault record. -/
theorem Core.vecPutWord_record (c : Core) (env : CEnv) {i : Nat} (hi : 141 ≤ i) (w : Word) : ∃ valid rpt kind e pc va es, c.vecPutWord env i w =
    { c with vec := { c.vec with valid := valid, rpt := rpt, kind := kind, e := e, vfpc := pc, vfva := va, faulted := es } } := by
  unfold Core.vecPutWord
  rw [if_neg (by omega), if_neg (by omega)]
  by_cases h144 : i < 144
  · obtain ⟨k, rfl⟩ := Nat.exists_eq_add_of_le hi
    have hk : k < 3 := by omega
    rw [if_pos h144, show 141 + k - 136 = k + 5 by omega]
    interval_cases k <;> exact ⟨_, _, _, _, _, _, _, rfl⟩
  · rw [if_neg h144]
    dsimp only
    split <;> exact ⟨_, _, _, _, _, _, _, rfl⟩

/-- VCTRL written as the vital parameters have it does not taint (R293). -/
theorem Core.csrWrite_vctrl (c : Core) {env : CEnv} {x : BitVec 3} (henv : ∀ p, env.vctrl = some p → x = fld p 0 3) :
    c.csrWrite env 0x23 (x.setWidth 32) = { c with vec := { c.vec with vctrl := x } } := by
  have hx : (fld (x.setWidth 32 : Word) 0 3 : BitVec 3) = x := fld_image (by decide) x
  unfold Core.csrWrite
  simp only [hx]
  split
  · next p hp => rw [if_neg (not_not.mpr (henv p hp))]
  · rfl

/-- A word loaded that is `v`'s goes to its place in the vector unit and nowhere else; VCTRL does so without taint where it is that of the vital
parameters (R293). -/
theorem Core.vecPutWord_image (c : Core) {env : CEnv} {v : VecUnit} (hvl : v.vl.toNat ≤ 64) (henv : ∀ p, env.vctrl = some p → v.vctrl = fld p 0 3)
    {i : Nat} {w : Word} (hw : i < 141 → w = v.imageWord i) :
    ∃ u, c.vecPutWord env i w = { c with vec := u } ∧ ∀ j < 141, u.imageWord j = if j = i then w else c.vec.imageWord j := by
  by_cases hrec : 141 ≤ i
  · obtain ⟨valid, rpt, kind, e, pc, va, es, hput⟩ := c.vecPutWord_record env hrec w
    refine ⟨_, hput, fun j hj => ?_⟩
    rw [if_neg (by omega)]
    refine VecUnit.imageWord_congr ?_ ?_ (VecUnit.csrWord_congr ?_ ?_ ?_ ?_ ?_) j <;> rfl
  by_cases h128 : i < 128
  · refine ⟨_, ?_, fun j _ => VecUnit.imageWord_putReg c.vec w h128⟩
    rw [Core.vecPutWord, if_pos h128]
  by_cases h136 : i < 136
  · refine ⟨_, ?_, fun j _ => VecUnit.imageWord_putMask c.vec w (by omega) h136⟩
    rw [Core.vecPutWord, if_neg h128, if_pos h136]
  obtain ⟨k, rfl⟩ := Nat.exists_eq_add_of_le (Nat.le_of_not_lt h136)
  have hk : k < 5 := by omega
  have hw' : w = v.csrWord k := (hw (by omega)).trans (v.imageWord_csr k)
  rw [hw']
  interval_cases k
  · refine ⟨{ c.vec with grp := v.grp }, ?_, fun j hj => VecUnit.imageWord_putCsr c.vec _ rfl rfl (k := 0) (fun m hm => ?_) hj⟩
    · exact congrArg (fun x => ({ c with vec := { c.vec with grp := x } } : Core)) (fld_image (by decide) v.grp)
    · interval_cases m <;> rfl
  · refine ⟨{ c.vec with vl := v.vl }, ?_, fun j hj => VecUnit.imageWord_putCsr c.vec _ rfl rfl (k := 1) (fun m hm => ?_) hj⟩
    · exact congrArg (fun x => ({ c with vec := { c.vec with vl := x } } : Core)) (clampVl_image hvl)
    · interval_cases m <;> rfl
  · refine ⟨{ c.vec with vstart := v.vstart }, ?_, fun j hj => VecUnit.imageWord_putCsr c.vec _ rfl rfl (k := 2) (fun m hm => ?_) hj⟩
    · exact congrArg (fun x => ({ c with vec := { c.vec with vstart := x } } : Core)) (fld_image (by decide) v.vstart)
    · interval_cases m <;> rfl
  · refine ⟨{ c.vec with vctrl := v.vctrl }, ?_, fun j hj => VecUnit.imageWord_putCsr c.vec _ rfl rfl (k := 3) (fun m hm => ?_) hj⟩
    · exact c.csrWrite_vctrl henv
    · interval_cases m <;> rfl
  · refine ⟨{ c.vec with vflags := v.vflags }, ?_, fun j hj => VecUnit.imageWord_putCsr c.vec _ rfl rfl (k := 4) (fun m hm => ?_) hj⟩
    · exact congrArg (fun x => ({ c with vec := { c.vec with vflags := x } } : Core)) (fld_image (by decide) v.vflags)
    · interval_cases m <;> rfl

/-! ### What each word keeps -/

/-- Core `c` while VSAVE runs at `c₀` with `k` words left for the area at `a`: what changes is local memory in the area, and the words stored
are those of the vector context. -/
structure Core.Saving (c₀ : Core) (a : Word) (k : Nat) (c : Core) : Prop where
  left : k ≤ 164
  frame : c = { c₀ with sram := c.sram, sramUe := c.sramUe, cnt := BitVec.ofNat 32 k, dst := a + BitVec.ofNat 32 (4 * (164 - k)) }
  outside : c₀.SameOutside c a.toNat 656
  image : ∀ i < 141, i < 164 - k → c.wordAt (a.toNat + 4 * i) = c₀.vec.imageWord i

/-- Core `c` while VLOAD runs at `c₀` with `k` words left of the area at `a`, which holds the image of `v`: what changes is the vector unit, and
the words loaded are those of `v`. -/
structure Core.Loading (c₀ : Core) (v : VecUnit) (a : Word) (k : Nat) (c : Core) : Prop where
  left : k ≤ 164
  frame : c = { c₀ with vec := c.vec, cnt := BitVec.ofNat 32 k, src := a + BitVec.ofNat 32 (4 * (164 - k)) }
  image : ∀ i < 141, i < 164 - k → c.vec.imageWord i = v.imageWord i

section
variable {c₀ : Core} (h : c₀.Direct) {a : Word} (ha : areaAt a)
include h ha

theorem Core.Saving.word (n : CoreId) {k : Nat} {c : Core} (hc : c₀.Saving a (k + 1) c) : ∃ c', Core.vsaveWord n c = .ok c' ∧ c₀.Saving a k c' := by
  obtain ⟨hk, hframe, hout, himg⟩ := hc
  obtain ⟨i, hi, rfl⟩ : ∃ i, i < 164 ∧ k = 163 - i := ⟨163 - k, by omega, by omega⟩
  have hdone : 164 - (163 - i + 1) = i := by omega
  have hnext : 164 - (163 - i) = i + 1 := by omega
  rw [hdone] at hframe himg
  obtain ⟨haddr, hreach⟩ := ha.word hi
  have hcnt : c.cnt = BitVec.ofNat 32 (163 - i + 1) := by rw [hframe]
  have hdst : c.dst = a + BitVec.ofNat 32 (4 * i) := by rw [hframe]
  have hvec : c.vec = c₀.vec := by rw [hframe]
  have hdirect : c.Direct := by rw [hframe]; exact h
  have hthis : 164 - c.cnt.toNat = i := by rw [hcnt, next_of_left (by omega)]; omega
  have hstore := hdirect.store n (hdst ▸ hreach) (c.vecWord n i).toNat
  rw [BitVec.ofNat_toNat, BitVec.setWidth_eq, hdst, haddr] at hstore
  refine ⟨{ c.putWord (a.toNat + 4 * i) (c.vecWord n i) with cnt := c.cnt - 1, dst := c.dst + 4 }, ?_, by omega, ?_, ?_, ?_⟩
  · simp only [Core.vsaveWord, hthis, hdst, hstore, bind, Except.bind]
  · rw [hcnt, hdst, ofNat_pred, nextWord, hnext]
    show ({ c with sram := _, sramUe := _, cnt := _, dst := _ } : Core) = _
    rw [hframe]
  · intro x hx
    exact (c.putWord_outside _ (by omega)).trans (hout x hx)
  · intro j hj hjk
    rw [hnext] at hjk
    obtain hlt | rfl := Nat.lt_succ_iff_lt_or_eq.mp hjk
    · exact (Core.wordAt_congr fun x _ _ => c.putWord_outside _ (by omega)).trans (himg j hj hlt)
    · refine (Core.wordAt_putWord_same c _ _).trans ?_
      rw [Core.vecWord_image _ _ hj, hvec]

/-- All words are stored. -/
theorem Core.vsaveLoop (n : CoreId) : ∃ c', Core.wordLoop (Core.vsaveWord n) none 164 0 { c₀ with cnt := 164, dst := a } = .ok (c'.setSip false) ∧
    c₀.Saving a 0 c' := by
  have hzero : a + BitVec.ofNat 32 (4 * (164 - 164)) = a := BitVec.add_zero a
  have hbegin : c₀.Saving a 164 { c₀ with cnt := 164, dst := a } :=
    ⟨le_rfl, by rw [hzero]; rfl, fun _ _ => rfl, fun i _ hi => absurd hi (Nat.not_lt_zero i)⟩
  exact Core.wordLoop_induction (P := c₀.Saving a) (fun _ _ => Core.Saving.word h ha n) hbegin 0

theorem Core.Loading.word {v : VecUnit} (hv : c₀.HoldsImage a.toNat v) (hvl : v.vl.toNat ≤ 64) {env : CEnv}
    (henv : ∀ p, env.vctrl = some p → v.vctrl = fld p 0 3) {k : Nat} {c : Core} (hc : c₀.Loading v a (k + 1) c) :
    ∃ c', Core.vloadWord env c = .ok c' ∧ c₀.Loading v a k c' := by
  obtain ⟨hk, hframe, himg⟩ := hc
  obtain ⟨i, hi, rfl⟩ : ∃ i, i < 164 ∧ k = 163 - i := ⟨163 - k, by omega, by omega⟩
  have hdone : 164 - (163 - i + 1) = i := by omega
  have hnext : 164 - (163 - i) = i + 1 := by omega
  rw [hdone] at hframe himg
  obtain ⟨haddr, hreach⟩ := ha.word hi
  have hcnt : c.cnt = BitVec.ofNat 32 (163 - i + 1) := by rw [hframe]
  have hsrc : c.src = a + BitVec.ofNat 32 (4 * i) := by rw [hframe]
  have hdirect : c.Direct := by rw [hframe]; exact h
  have hthis : 164 - c.cnt.toNat = i := by rw [hcnt, next_of_left (by omega)]; omega
  have hload := hdirect.load env.n (hsrc ▸ hreach)
  have hword : c.wordAt c.src.toNat = c₀.wordAt (a.toNat + 4 * i) := by rw [hsrc, haddr, hframe]; rfl
  obtain ⟨u, hput, hu⟩ := c.vecPutWord_image hvl henv (fun hi' => hv i hi')
  refine ⟨{ c with vec := u, cnt := c.cnt - 1, src := c.src + 4 }, ?_, by omega, ?_, fun j hj hjk => ?_⟩
  · simp only [Core.vloadWord, hload, bind, Except.bind, BitVec.ofNat_toNat, BitVec.setWidth_eq, hword, hthis, hput]
  · rw [hcnt, hsrc, ofNat_pred, nextWord, hnext]
    show ({ c with vec := _, cnt := _, src := _ } : Core) = _
    rw [hframe]
  · rw [hnext] at hjk
    refine (hu j hj).trans ?_
    by_cases hji : j = i
    · rw [if_pos hji, hji]
      exact hv i (hji ▸ hj)
    · rw [if_neg hji]
      exact himg j hj (by omega)

/-- All words are loaded. -/
theorem Core.vloadLoop {v : VecUnit} (hv : c₀.HoldsImage a.toNat v) (hvl : v.vl.toNat ≤ 64) {env : CEnv}
    (henv : ∀ p, env.vctrl = some p → v.vctrl = fld p 0 3) :
    ∃ c', Core.wordLoop (Core.vloadWord env) none 164 0 { c₀ with cnt := 164, src := a } = .ok (c'.setSip false) ∧ c₀.Loading v a 0 c' := by
  have hzero : a + BitVec.ofNat 32 (4 * (164 - 164)) = a := BitVec.add_zero a
  have hbegin : c₀.Loading v a 164 { c₀ with cnt := 164, src := a } :=
    ⟨le_rfl, by rw [hzero]; rfl, fun i _ hi => absurd hi (Nat.not_lt_zero i)⟩
  exact Core.wordLoop_induction (P := c₀.Loading v a) (fun _ _ => Core.Loading.word h ha hv hvl henv) hbegin 0

end

/-! ### The instructions -/

/-- A CSR image has no bit above its field. -/
theorem fld_above {n m : Nat} (x : BitVec n) (hn : n ≤ 32) : (fld (x.setWidth 32 : Word) n m : BitVec m) = 0 := by
  refine BitVec.eq_of_toNat_eq ?_
  rw [fld, BitVec.extractLsb'_toNat, BitVec.toNat_setWidth_of_le hn, Nat.shiftRight_eq_zero _ _ x.isLt, Nat.zero_mod]
  rfl

theorem csrWord_good (v : VecUnit) {k : Nat} (hk : k < 5) : csrImageBad k (v.csrWord k) = false := by
  have good {n m : Nat} (x : BitVec n) (hn : n ≤ 32) : ((fld (x.setWidth 32 : Word) n m : BitVec m) != 0) = false := by
    rw [fld_above x hn]
    exact bne_self_eq_false 0
  interval_cases k
  exacts [good v.grp (by decide), good v.vl (by decide), good v.vstart (by decide), good v.vctrl (by decide), good v.vflags (by decide)]

/-- The CSR images of an area that holds `v` have no reserved bit set, where VFSTAT's has none. -/
theorem csrImages_good {c : Core} {a : Nat} {v : VecUnit} (hv : c.HoldsImage a v) (hstat : (c.wordAt (a + 564)).toNat % 2 ^ 17 = 0) :
    (((List.range 8).map fun i => c.wordAt (a + 544 + 4 * i)).zipIdx).any (fun wi => csrImageBad wi.2 wi.1) = false := by
  have good : ∀ k < 8, csrImageBad k (c.wordAt (a + 544 + 4 * k)) = false := by
    intro k hk
    by_cases h5 : k < 5
    · have hword : c.wordAt (a + 544 + 4 * k) = v.csrWord k := by
        rw [← v.imageWord_csr, ← hv _ (by omega)]
        congr 1
        omega
      rw [hword]
      exact csrWord_good v h5
    obtain rfl | rfl | rfl : k = 5 ∨ k = 6 ∨ k = 7 := by omega
    · have hzero : (fld (c.wordAt (a + 564)) 0 17 : BitVec 17) = 0 := BitVec.eq_of_toNat_eq ((BitVec.extractLsb'_toNat ..).trans hstat)
      show ((fld (c.wordAt (a + 564)) 0 17 : BitVec 17) != 0) = false
      rw [hzero]
      rfl
    · rfl
    · rfl
  rw [List.any_eq_false]
  rintro ⟨w, k⟩ hwk
  rw [List.mem_zipIdx_iff_getElem?, List.getElem?_map, Option.map_eq_some_iff] at hwk
  obtain ⟨k', hk', rfl⟩ := hwk
  obtain ⟨hk, hkk'⟩ := List.getElem?_eq_some_iff.mp hk'
  rw [List.length_range] at hk
  rw [List.getElem_range] at hkk'
  obtain rfl : k = k' := hkk'
  exact Bool.not_eq_true _ ▸ good _ hk

section
variable {c : Core} (hve : c.ve = true) (hsip : c.sip = false) (hq : c.vec.queue = []) {a : Word} {r : List Slot} (hst : c.stack = .val a :: r)
  (hr : r.length ≤ 255) (hd : c.Direct) (ha : areaAt a)
include hve hsip hq hst hr hd ha

theorem vsave_runs (env : CEnv) : (insnVsave none).body env c =
    Core.wordLoop (Core.vsaveWord env.n) none 164 0 { c with stack := r, cnt := 164, dst := a } := by
  have hpop : c.pop 1 0 = .ok ([a], { c with stack := r }) := Core.pop_val (ws := [a]) hst (by omega)
  have hd' : ({ c with stack := r } : Core).Direct := hd
  have harea := hd'.areaOk ha env.n .store
  simp only [insnVsave, insnVmove, hve, hsip, Core.vecDrained_empty hq, hpop, harea, Bool.not_true, Bool.false_eq_true, if_false, ite_self, bind,
    Except.bind, CM.out, List.getD_cons_zero]

/-- VLOAD finds no reserved bit set. -/
theorem vload_runs {v : VecUnit} (hv : c.HoldsImage a.toNat v) (hstat : (c.wordAt (a.toNat + 564)).toNat % 2 ^ 17 = 0) (env : CEnv) :
    (insnVload none).body env c = Core.wordLoop (Core.vloadWord env) none 164 0 { c with stack := r, cnt := 164, src := a } := by
  have hpop : c.pop 1 0 = .ok ([a], { c with stack := r }) := Core.pop_val (ws := [a]) hst (by omega)
  have hd' : ({ c with stack := r } : Core).Direct := hd
  have harea := hd'.areaOk ha env.n .load
  obtain ⟨haddr', hal, -⟩ := ha.word (i := 136) (by decide)
  have haddr : (a + 0x220).toNat = a.toNat + 544 := haddr'
  obtain ⟨-, htop⟩ := ha
  have himg := hd'.loadWords env.n (k := 8) (a := a + 0x220) hal (by omega)
  rw [haddr] at himg
  have hgood := csrImages_good (c := { c with stack := r }) hv hstat
  simp only [insnVload, insnVmove, hve, hsip, Core.vecDrained_empty hq, hpop, harea, himg, hgood, Bool.not_true, Bool.false_eq_true, if_false,
    if_true, ite_self, bind, Except.bind, CM.out, List.getD_cons_zero]

end

theorem vectorContextRule_holds : vectorContextRule := by
  intro n s a r h hsip hve hst hr hal htop c image
  have himage (d : Core) (v : VecUnit) : image d v ↔ d.HoldsImage a.toNat v := (d.holdsImage_iff a.toNat v).symm
  have ha : areaAt a := ⟨hal, htop⟩
  obtain ⟨⟨hte, -, -, hstn, hstep, -⟩, hq, -⟩ := h.2
  have hd : ({ c with asleep := false } : Core).Direct := ⟨hte, hstn⟩
  have hd' : ({ c with asleep := false, stack := r } : Core).Direct := hd
  refine ⟨?_, fun v hv hvl henv hstat => ?_⟩
  · obtain ⟨c', hloop, -, hframe, hout, himg⟩ := Core.vsaveLoop hd' ha n
    have hb := (vsave_runs (c := { c with asleep := false }) hve hsip hq hst hr hd ha (s.coreEnv n)).trans hloop
    have hstop : (c'.setSip false).stepping = false := by rw [hframe]; exact hstep
    refine ⟨_, congrArg Host.Outcome.next (State.runInsn_vstring (i := insnVsave none) h rfl rfl hb hstop), ?_⟩
    rw [State.setCore_at]
    refine ⟨(himage _ _).mpr fun i hi => himg i hi (by omega), hout, ?_⟩
    rw [hframe]
    rfl
  · have hv' : ({ c with asleep := false, stack := r } : Core).HoldsImage a.toNat v := (himage c v).mp hv
    obtain ⟨c', hloop, -, hframe, himg⟩ := Core.vloadLoop hd' ha hv' hvl henv
    have hb := (vload_runs (c := { c with asleep := false }) hve hsip hq hst hr hd ha hv' hstat (s.coreEnv n)).trans hloop
    have hstop : (c'.setSip false).stepping = false := by rw [hframe]; exact hstep
    refine ⟨_, congrArg Host.Outcome.next (State.runInsn_vstring (i := insnVload none) h rfl rfl hb hstop), ?_⟩
    rw [State.setCore_at]
    refine ⟨?_, VecUnit.eq_of_imageWord fun i hi => himg i hi (by omega)⟩
    rw [hframe]
    rfl

/-- Settles O26: VRESUME from its body, VSAVE and VLOAD from what their words keep. -/
theorem vectorKeeping : Obligations.VectorKeeping := ⟨vresumeRule_holds, vectorContextRule_holds⟩

end Sys2Proof.Machine
end
